-- ==== Sys2Proof/Word.lean ====
section
/-! DEFINITION. The word types of the Buvor and the one canonical form of sparse data (registers, memory, tables) that the
state is made of: an association list with rising keys that lists no entry equal to what an unlisted key reads as. -/

namespace Sys2Proof

/-- One byte of memory (00 R3). -/
abbrev Byte := BitVec 8

/-- A scalar register, an address, a 64-bit memory word. -/
abbrev Word := BitVec 64

/-- A vector register (01 R11): 2,048 bits, element 0 in the low bits (00 R3). -/
abbrev VWord := BitVec 2048

/-- The 64-byte record of a command or a tile instruction (08 R222, 09 R236). -/
abbrev Rec := BitVec 512

/-- Sparse data by number. -/
abbrev SMap (α : Type) := List (Nat × α)

/-- What key `k` reads as; `d` where it is not listed. -/
def SMap.get {α : Type} (d : α) (m : SMap α) (k : Nat) : α :=
  match m with
  | [] => d
  | (a, x) :: r => if a = k then x else SMap.get d r k

/-- Every entry but those of key `k`. -/
def SMap.drop {α : Type} (m : SMap α) (k : Nat) : SMap α :=
  match m with
  | [] => []
  | (a, x) :: r => if a = k then SMap.drop r k else (a, x) :: SMap.drop r k

/-- `k` reads as `v` from here on, put in front of the first larger key. -/
def SMap.insert {α : Type} (m : SMap α) (k : Nat) (v : α) : SMap α :=
  match m with
  | [] => [(k, v)]
  | (a, x) :: r => if k < a then (k, v) :: (a, x) :: r else (a, x) :: SMap.insert r k v

/-- Sets `k` to `v`; an entry equal to the unlisted value `d` is not kept. -/
def SMap.set {α : Type} [DecidableEq α] (d : α) (m : SMap α) (k : Nat) (v : α) : SMap α :=
  if v = d then SMap.drop m k else SMap.insert (SMap.drop m k) k v

/-- The keys rise strictly from above `lo`, and no entry equals the unlisted value. -/
def SMap.wfAbove {α : Type} [DecidableEq α] (d : α) (lo : Option Nat) (m : SMap α) : Bool :=
  match m with
  | [] => true
  | (a, x) :: r =>
    (match lo with
      | none => true
      | some l => decide (l < a)) && decide (x ≠ d) && SMap.wfAbove d (some a) r

/-- The canonical form. -/
def SMap.wf {α : Type} [DecidableEq α] (d : α) (m : SMap α) : Bool := SMap.wfAbove d none m

end Sys2Proof
end

