-- ==== Sys2Proof/Machine/Flags.lean ====
section
/-! DEFINITION. The status flags (01 R22) and a result together with the flags its computation sets. -/

namespace Sys2Proof.Machine

/-- A status word or a set of flags (01 R22). -/
abbrev Flags := BitVec 8

/-- STATUS.TSAT. -/
def fTSAT : Flags := 0x80
/-- STATUS.NX. -/
def fNX : Flags := 0x40
/-- STATUS.UF. -/
def fUF : Flags := 0x20
/-- STATUS.OF. -/
def fOF : Flags := 0x10
/-- STATUS.DZ. -/
def fDZ : Flags := 0x08
/-- STATUS.NV. -/
def fNV : Flags := 0x04
/-- STATUS.SAT. -/
def fSAT : Flags := 0x02
/-- STATUS.OVF. -/
def fOVF : Flags := 0x01

/-- The bits of a result, as a number, and its flags. -/
structure Val where
  bits : Nat
  flags : Flags := 0
  deriving DecidableEq, Repr

/-- The flag when a condition holds. -/
def flagIf (c : Bool) (f : Flags) : Flags := if c then f else 0

end Sys2Proof.Machine
end

