-- ==== Sys2Proof/Syntax.lean ====
section
/-! DEFINITION. The instructions, commands and events of the part: one constructor of Instr per row of the opcode table.
A program instruction carries its control fields (03 R65) and its operands as the word's fields hold them; a command or a
tile instruction carries its 64-byte record and who sent it; an event carries what tells it from others of its kind. -/

namespace Sys2Proof

/-- Type codes 0 to 8 (02 R39). -/
inductive Ty where
  | i8 | i16 | i32 | i64 | f16 | bf16 | f32 | t8 | t6
  deriving DecidableEq, Repr

/-- Rounding modes 0 to 3 (02 R43). -/
inductive RMode where
  | rne | rtz | rup | rdn
  deriving DecidableEq, Repr

/-- Conditions 0 to 7 (03 R72); the names are those of the integer column. -/
inductive Cond where
  | eq | ne | lt | le | gt | ge | ltu | geu
  deriving DecidableEq, Repr

/-- The slots of a bundle in word order (03 R60 R73). -/
inductive Slot where
  | br | sa | sb | vx | mx | ms
  deriving DecidableEq, Repr

/-- The three kinds of agent (01 R9). -/
inductive Kind where
  | tile | control | machine
  deriving DecidableEq, Repr

/-- The control fields of an instruction word (03 R65): SCH, CH, FE and the two guard terms. -/
structure Ctl where
  sch : BitVec 3 := 0
  ch : BitVec 2 := 0
  fe : BitVec 4 := 0
  g2n : Bool := false
  g2 : BitVec 4 := 0
  g1n : Bool := false
  g1 : BitVec 4 := 0
  deriving DecidableEq, Repr

/-- Who sent a command or a tile instruction: the task on core `core` (by PUSH or PUSHC, 07 R197), the control core of die
`die` (07 R438), a queue-register set (08 R233), a tile instruction's parent entry (09 R247), the pod's lead chip
(09 R248), or the sender's agent number. -/
inductive Pusher where
  | task (core : Nat)
  | control (die : Nat)
  | regset (n : Nat)
  | child (parent : Nat) (index : Nat)
  | lead (origin : Nat) (ctx : Nat)
  deriving DecidableEq, Repr

/-- The queue that takes a tile instruction, which is the level that receives it (00 R2, 07 R197). -/
inductive TileQueue where
  | pq
  | xq
  | dq (die : Nat)
  | tq (core : Nat)
  deriving DecidableEq, Repr

/-- The memories of a tile core that carry error correction (11 R307): its scratchpad, its operand slots and its accumulators. -/
inductive Bank where
  | pad
  | slot
  | acc
  deriving DecidableEq, Repr

/-- Where an uncorrectable error strikes (11 R307; log 83): a word of HBM, by its address; the copy of one in the block cache of core `n`, or in
the remote-data cache of the die whose control core is `n`; or the 64-bit word of that number in a memory of a core. -/
inductive Spot where
  | home (pa : Nat)
  | copy (n : Nat) (pa : Nat)
  | core (n : Nat) (bank : Bank) (word : Nat)
  deriving DecidableEq, Repr

/-- A Sync message of a grandmaster: its domain and the time it was sent (15 R388). -/
structure PtpSync where
  dom : Nat
  sent : Nat
  deriving DecidableEq, Repr

/-- Every row of the opcode table. -/
inductive Instr where
  /-- BPREP (R115). -/
  | bprep (c : Ctl) (d : BitVec 6) (imm : BitVec 25)
  /-- BPREPS (R115). -/
  | bpreps (c : Ctl) (d : BitVec 6) (a : BitVec 6)
  /-- BR (R116). -/
  | br (c : Ctl) (a : BitVec 6)
  /-- CALL (R118). -/
  | call (c : Ctl) (a : BitVec 6)
  /-- RET (R118). -/
  | ret (c : Ctl)
  /-- LOOPSET (R122). -/
  | loopset (c : Ctl) (a : BitVec 6) (n : BitVec 6)
  /-- LOOPBRK (R124). -/
  | loopbrk (c : Ctl) (n : BitVec 3)
  /-- END (R128). -/
  | endTask (c : Ctl)
  /-- YIELD (R129). -/
  | yield (c : Ctl)
  /-- WAIT (R130). -/
  | wait (c : Ctl) (a : BitVec 6) (b : BitVec 6)
  /-- WAITT (R131). -/
  | waitt (c : Ctl) (a : BitVec 6)
  /-- TRAP (R133). -/
  | trap (c : Ctl) (n : BitVec 7)
  /-- ERET (R134). -/
  | eret (c : Ctl)
  /-- BRK (R135). -/
  | brk (c : Ctl) (n : BitVec 7)
  /-- MFSR (R136). -/
  | mfsr (c : Ctl) (d : BitVec 6) (n : BitVec 6)
  /-- MTSR (R136). -/
  | mtsr (c : Ctl) (n : BitVec 6) (a : BitVec 6)
  /-- SLEEP (R132). -/
  | sleep (c : Ctl)
  /-- EVPOP (R137). -/
  | evpop (c : Ctl) (d : BitVec 6)
  /-- ADD (R103). -/
  | add (c : Ctl) (d : BitVec 6) (a : BitVec 6) (b : BitVec 6)
  /-- ADDI (R103). -/
  | addi (c : Ctl) (d : BitVec 6) (a : BitVec 6) (imm : BitVec 25)
  /-- SUB (R103). -/
  | sub (c : Ctl) (d : BitVec 6) (a : BitVec 6) (b : BitVec 6)
  /-- AND (R103). -/
  | and (c : Ctl) (d : BitVec 6) (a : BitVec 6) (b : BitVec 6)
  /-- ANDI (R103). -/
  | andi (c : Ctl) (d : BitVec 6) (a : BitVec 6) (imm : BitVec 25)
  /-- OR (R103). -/
  | or (c : Ctl) (d : BitVec 6) (a : BitVec 6) (b : BitVec 6)
  /-- ORI (R103). -/
  | ori (c : Ctl) (d : BitVec 6) (a : BitVec 6) (imm : BitVec 25)
  /-- XOR (R103). -/
  | xor (c : Ctl) (d : BitVec 6) (a : BitVec 6) (b : BitVec 6)
  /-- XORI (R103). -/
  | xori (c : Ctl) (d : BitVec 6) (a : BitVec 6) (imm : BitVec 25)
  /-- SHL (R103). -/
  | shl (c : Ctl) (d : BitVec 6) (a : BitVec 6) (b : BitVec 6)
  /-- SHLI (R103). -/
  | shli (c : Ctl) (d : BitVec 6) (a : BitVec 6) (imm : BitVec 25)
  /-- SHR (R103). -/
  | shr (c : Ctl) (d : BitVec 6) (a : BitVec 6) (b : BitVec 6)
  /-- SHRI (R103). -/
  | shri (c : Ctl) (d : BitVec 6) (a : BitVec 6) (imm : BitVec 25)
  /-- SAR (R103). -/
  | sar (c : Ctl) (d : BitVec 6) (a : BitVec 6) (b : BitVec 6)
  /-- SARI (R103). -/
  | sari (c : Ctl) (d : BitVec 6) (a : BitVec 6) (imm : BitVec 25)
  /-- ROTL (R103). -/
  | rotl (c : Ctl) (d : BitVec 6) (a : BitVec 6) (b : BitVec 6)
  /-- MIN (R103). -/
  | min (c : Ctl) (d : BitVec 6) (a : BitVec 6) (b : BitVec 6)
  /-- MAX (R103). -/
  | max (c : Ctl) (d : BitVec 6) (a : BitVec 6) (b : BitVec 6)
  /-- MINU (R103). -/
  | minu (c : Ctl) (d : BitVec 6) (a : BitVec 6) (b : BitVec 6)
  /-- MAXU (R103). -/
  | maxu (c : Ctl) (d : BitVec 6) (a : BitVec 6) (b : BitVec 6)
  /-- ADDS (R103). -/
  | adds (c : Ctl) (d : BitVec 6) (a : BitVec 6) (b : BitVec 6)
  /-- SUBS (R103). -/
  | subs (c : Ctl) (d : BitVec 6) (a : BitVec 6) (b : BitVec 6)
  /-- ABS (R104). -/
  | abs (c : Ctl) (d : BitVec 6) (a : BitVec 6)
  /-- CLZ (R104). -/
  | clz (c : Ctl) (d : BitVec 6) (a : BitVec 6)
  /-- CTZ (R104). -/
  | ctz (c : Ctl) (d : BitVec 6) (a : BitVec 6)
  /-- POPC (R104). -/
  | popc (c : Ctl) (d : BitVec 6) (a : BitVec 6)
  /-- BREV (R104). -/
  | brev (c : Ctl) (d : BitVec 6) (a : BitVec 6)
  /-- MOV (R104). -/
  | mov (c : Ctl) (d : BitVec 6) (a : BitVec 6)
  /-- MOVI (R105). -/
  | movi (c : Ctl) (d : BitVec 6) (imm : BitVec 25)
  /-- MOVHI (R105). -/
  | movhi (c : Ctl) (d : BitVec 6) (imm : BitVec 25)
  /-- SEXT (R107). -/
  | sext (c : Ctl) (d : BitVec 6) (a : BitVec 6) (w : BitVec 6)
  /-- ZEXT (R107). -/
  | zext (c : Ctl) (d : BitVec 6) (a : BitVec 6) (w : BitVec 6)
  /-- BFX (R107). -/
  | bfx (c : Ctl) (d : BitVec 6) (a : BitVec 6) (pos : BitVec 6) (w : BitVec 6)
  /-- BFI (R107). -/
  | bfi (c : Ctl) (d : BitVec 6) (a : BitVec 6) (pos : BitVec 6) (w : BitVec 6)
  /-- LEA (R108). -/
  | lea (c : Ctl) (d : BitVec 6) (a : BitVec 6) (b : BitVec 6) (sh : BitVec 3)
  /-- SEL (R109). -/
  | sel (c : Ctl) (d : BitVec 6) (x : BitVec 6) (a : BitVec 6) (b : BitVec 6)
  /-- CMP (R110). -/
  | cmp (c : Ctl) (k : Cond) (d : BitVec 6) (a : BitVec 6) (b : BitVec 6)
  /-- CMPI (R110). -/
  | cmpi (c : Ctl) (k : Cond) (d : BitVec 6) (a : BitVec 6) (imm : BitVec 22)
  /-- PAND (R111). -/
  | pand (c : Ctl) (d : BitVec 6) (a : BitVec 6) (b : BitVec 6)
  /-- POR (R111). -/
  | por (c : Ctl) (d : BitVec 6) (a : BitVec 6) (b : BitVec 6)
  /-- PXOR (R111). -/
  | pxor (c : Ctl) (d : BitVec 6) (a : BitVec 6) (b : BitVec 6)
  /-- PNOT (R111). -/
  | pnot (c : Ctl) (d : BitVec 6) (a : BitVec 6)
  /-- PMOV (R111). -/
  | pmov (c : Ctl) (d : BitVec 6) (a : BitVec 6)
  /-- FADD (R112). -/
  | fadd (c : Ctl) (m : RMode) (d : BitVec 6) (a : BitVec 6) (b : BitVec 6)
  /-- FSUB (R112). -/
  | fsub (c : Ctl) (m : RMode) (d : BitVec 6) (a : BitVec 6) (b : BitVec 6)
  /-- FMUL (R112). -/
  | fmul (c : Ctl) (m : RMode) (d : BitVec 6) (a : BitVec 6) (b : BitVec 6)
  /-- FFMA (R112). -/
  | ffma (c : Ctl) (m : RMode) (d : BitVec 6) (a : BitVec 6) (b : BitVec 6) (x : BitVec 6)
  /-- FMIN (R112). -/
  | fmin (c : Ctl) (d : BitVec 6) (a : BitVec 6) (b : BitVec 6)
  /-- FMAX (R112). -/
  | fmax (c : Ctl) (d : BitVec 6) (a : BitVec 6) (b : BitVec 6)
  /-- FCMP (R113). -/
  | fcmp (c : Ctl) (k : Cond) (d : BitVec 6) (a : BitVec 6) (b : BitVec 6)
  /-- FCVTI (R114). -/
  | fcvti (c : Ctl) (t : Ty) (m : RMode) (d : BitVec 6) (a : BitVec 6)
  /-- ICVTF (R114). -/
  | icvtf (c : Ctl) (t : Ty) (m : RMode) (d : BitVec 6) (a : BitVec 6)
  /-- MUL (R106). -/
  | mul (c : Ctl) (d : BitVec 6) (a : BitVec 6) (b : BitVec 6)
  /-- MULI (R106). -/
  | muli (c : Ctl) (d : BitVec 6) (a : BitVec 6) (imm : BitVec 25)
  /-- MULH (R106). -/
  | mulh (c : Ctl) (d : BitVec 6) (a : BitVec 6) (b : BitVec 6)
  /-- MULHU (R106). -/
  | mulhu (c : Ctl) (d : BitVec 6) (a : BitVec 6) (b : BitVec 6)
  /-- DIV (R106). -/
  | div (c : Ctl) (d : BitVec 6) (a : BitVec 6) (b : BitVec 6)
  /-- DIVU (R106). -/
  | divu (c : Ctl) (d : BitVec 6) (a : BitVec 6) (b : BitVec 6)
  /-- REM (R106). -/
  | rem (c : Ctl) (d : BitVec 6) (a : BitVec 6) (b : BitVec 6)
  /-- REMU (R106). -/
  | remu (c : Ctl) (d : BitVec 6) (a : BitVec 6) (b : BitVec 6)
  /-- VADD (R144). -/
  | vadd (c : Ctl) (t : Ty) (m : RMode) (d : BitVec 6) (a : BitVec 6) (b : BitVec 6)
  /-- VSUB (R144). -/
  | vsub (c : Ctl) (t : Ty) (m : RMode) (d : BitVec 6) (a : BitVec 6) (b : BitVec 6)
  /-- VMUL (R144). -/
  | vmul (c : Ctl) (t : Ty) (m : RMode) (d : BitVec 6) (a : BitVec 6) (b : BitVec 6)
  /-- VFMA (R144). -/
  | vfma (c : Ctl) (t : Ty) (m : RMode) (d : BitVec 6) (a : BitVec 6) (b : BitVec 6) (x : BitVec 6)
  /-- VMIN (R144). -/
  | vmin (c : Ctl) (t : Ty) (d : BitVec 6) (a : BitVec 6) (b : BitVec 6)
  /-- VMAX (R144). -/
  | vmax (c : Ctl) (t : Ty) (d : BitVec 6) (a : BitVec 6) (b : BitVec 6)
  /-- VABS (R144). -/
  | vabs (c : Ctl) (t : Ty) (d : BitVec 6) (a : BitVec 6)
  /-- VNEG (R144). -/
  | vneg (c : Ctl) (t : Ty) (d : BitVec 6) (a : BitVec 6)
  /-- VAND (R146). -/
  | vand (c : Ctl) (t : Ty) (d : BitVec 6) (a : BitVec 6) (b : BitVec 6)
  /-- VOR (R146). -/
  | vor (c : Ctl) (t : Ty) (d : BitVec 6) (a : BitVec 6) (b : BitVec 6)
  /-- VXOR (R146). -/
  | vxor (c : Ctl) (t : Ty) (d : BitVec 6) (a : BitVec 6) (b : BitVec 6)
  /-- VNOT (R146). -/
  | vnot (c : Ctl) (t : Ty) (d : BitVec 6) (a : BitVec 6)
  /-- VSHL (R146). -/
  | vshl (c : Ctl) (t : Ty) (d : BitVec 6) (a : BitVec 6) (b : BitVec 6)
  /-- VSHR (R146). -/
  | vshr (c : Ctl) (t : Ty) (d : BitVec 6) (a : BitVec 6) (b : BitVec 6)
  /-- VSAR (R146). -/
  | vsar (c : Ctl) (t : Ty) (d : BitVec 6) (a : BitVec 6) (b : BitVec 6)
  /-- VADDS (R145). -/
  | vadds (c : Ctl) (t : Ty) (d : BitVec 6) (a : BitVec 6) (b : BitVec 6)
  /-- VSUBS (R145). -/
  | vsubs (c : Ctl) (t : Ty) (d : BitVec 6) (a : BitVec 6) (b : BitVec 6)
  /-- VMULH (R145). -/
  | vmulh (c : Ctl) (t : Ty) (d : BitVec 6) (a : BitVec 6) (b : BitVec 6)
  /-- VCMP (R147). -/
  | vcmp (c : Ctl) (t : Ty) (k : Cond) (d : BitVec 6) (a : BitVec 6) (b : BitVec 6)
  /-- VSEL (R148). -/
  | vsel (c : Ctl) (t : Ty) (d : BitVec 6) (x : BitVec 6) (a : BitVec 6) (b : BitVec 6)
  /-- VMOV (R149). -/
  | vmov (c : Ctl) (t : Ty) (d : BitVec 6) (a : BitVec 6)
  /-- VBCAST (R149). -/
  | vbcast (c : Ctl) (t : Ty) (d : BitVec 6) (a : BitVec 6)
  /-- VEXT (R150). -/
  | vext (c : Ctl) (t : Ty) (d : BitVec 6) (a : BitVec 6) (b : BitVec 6)
  /-- VINS (R150). -/
  | vins (c : Ctl) (t : Ty) (d : BitVec 6) (a : BitVec 6) (b : BitVec 6)
  /-- VPERM (R151). -/
  | vperm (c : Ctl) (t : Ty) (d : BitVec 6) (a : BitVec 6) (b : BitVec 6)
  /-- VROT (R151). -/
  | vrot (c : Ctl) (t : Ty) (d : BitVec 6) (a : BitVec 6) (b : BitVec 6)
  /-- VSLIDE (R151). -/
  | vslide (c : Ctl) (t : Ty) (d : BitVec 6) (a : BitVec 6) (b : BitVec 6) (x : BitVec 6)
  /-- VZIP (R151). -/
  | vzip (c : Ctl) (t : Ty) (d : BitVec 6) (a : BitVec 6) (b : BitVec 6) (h : Bool)
  /-- VUNZIP (R151). -/
  | vunzip (c : Ctl) (t : Ty) (d : BitVec 6) (a : BitVec 6) (b : BitVec 6) (h : Bool)
  /-- VREDADD (R152). -/
  | vredadd (c : Ctl) (t : Ty) (d : BitVec 6) (a : BitVec 6)
  /-- VREDMIN (R152). -/
  | vredmin (c : Ctl) (t : Ty) (d : BitVec 6) (a : BitVec 6)
  /-- VREDMAX (R152). -/
  | vredmax (c : Ctl) (t : Ty) (d : BitVec 6) (a : BitVec 6)
  /-- VSCAN (R153). -/
  | vscan (c : Ctl) (t : Ty) (d : BitVec 6) (a : BitVec 6)
  /-- VANY (R154). -/
  | vany (c : Ctl) (t : Ty) (d : BitVec 6) (a : BitVec 6)
  /-- VALL (R154). -/
  | vall (c : Ctl) (t : Ty) (d : BitVec 6) (a : BitVec 6)
  /-- VPOPC (R154). -/
  | vpopc (c : Ctl) (t : Ty) (d : BitVec 6) (a : BitVec 6)
  /-- VRCP (R155). -/
  | vrcp (c : Ctl) (t : Ty) (m : RMode) (d : BitVec 6) (a : BitVec 6)
  /-- VRSQ (R155). -/
  | vrsq (c : Ctl) (t : Ty) (m : RMode) (d : BitVec 6) (a : BitVec 6)
  /-- VSQRT (R155). -/
  | vsqrt (c : Ctl) (t : Ty) (m : RMode) (d : BitVec 6) (a : BitVec 6)
  /-- VEXP2 (R155). -/
  | vexp2 (c : Ctl) (t : Ty) (m : RMode) (d : BitVec 6) (a : BitVec 6)
  /-- VLOG2 (R155). -/
  | vlog2 (c : Ctl) (t : Ty) (m : RMode) (d : BitVec 6) (a : BitVec 6)
  /-- VTANH (R155). -/
  | vtanh (c : Ctl) (t : Ty) (m : RMode) (d : BitVec 6) (a : BitVec 6)
  /-- VSIGM (R155). -/
  | vsigm (c : Ctl) (t : Ty) (m : RMode) (d : BitVec 6) (a : BitVec 6)
  /-- VDIV (R155). -/
  | vdiv (c : Ctl) (t : Ty) (m : RMode) (d : BitVec 6) (a : BitVec 6) (b : BitVec 6)
  /-- VCVT (R157). -/
  | vcvt (c : Ctl) (t : Ty) (m : RMode) (d : BitVec 6) (a : BitVec 6) (fs : Ty) (j : BitVec 6)
  /-- VMAXEXP (R159). -/
  | vmaxexp (c : Ctl) (t : Ty) (a : BitVec 6)
  /-- VQCVT (R160). -/
  | vqcvt (c : Ctl) (t : Ty) (d : BitVec 6) (a : BitVec 6) (fq : Ty) (j : BitVec 6)
  /-- VDQ (R161). -/
  | vdq (c : Ctl) (t : Ty) (m : RMode) (d : BitVec 6) (a : BitVec 6) (fq : Ty) (j : BitVec 6)
  /-- VFXCVT (R158). -/
  | vfxcvt (c : Ctl) (t : Ty) (m : RMode) (d : BitVec 6) (a : BitVec 6) (n : BitVec 6) (j : BitVec 6)
  /-- VFLCVT (R158). -/
  | vflcvt (c : Ctl) (t : Ty) (m : RMode) (d : BitVec 6) (a : BitVec 6) (n : BitVec 6) (j : BitVec 6)
  /-- VIOTA (R146). -/
  | viota (c : Ctl) (t : Ty) (d : BitVec 6)
  /-- VCLZ (R146). -/
  | vclz (c : Ctl) (t : Ty) (d : BitVec 6) (a : BitVec 6)
  /-- OSCLAIM (R211). -/
  | osclaim (c : Ctl) (d : BitVec 6) (n : BitVec 6) (any : Bool)
  /-- OSREL (R212). -/
  | osrel (c : Ctl) (n : BitVec 6)
  /-- OSLD (R214). -/
  | osld (c : Ctl) (n : BitVec 6) (a : BitVec 6) (b : BitVec 6)
  /-- MWLD (R215). -/
  | mwld (c : Ctl) (t : Ty) (n : BitVec 6) (b : BitVec 6)
  /-- MMA (R216). -/
  | mma (c : Ctl) (t : Ty) (acc : BitVec 6) (n : BitVec 6) (b : BitVec 6) (h : Bool)
  /-- MMAZ (R216). -/
  | mmaz (c : Ctl) (t : Ty) (acc : BitVec 6) (n : BitVec 6) (b : BitVec 6) (h : Bool)
  /-- MACCZ (R218). -/
  | maccz (c : Ctl) (t : Ty) (acc : BitVec 6)
  /-- MACCRD (R219). -/
  | maccrd (c : Ctl) (d : BitVec 6) (acc : BitVec 6) (b : BitVec 6)
  /-- MACCWR (R219). -/
  | maccwr (c : Ctl) (acc : BitVec 6) (a : BitVec 6) (b : BitVec 6)
  /-- MACCST (R220). -/
  | maccst (c : Ctl) (acc : BitVec 6) (b : BitVec 6) (x : BitVec 6)
  /-- MACCLD (R220). -/
  | maccld (c : Ctl) (t : Ty) (acc : BitVec 6) (b : BitVec 6) (x : BitVec 6)
  /-- MWAIT (R221). -/
  | mwait (c : Ctl) (acc : BitVec 6)
  /-- MFENCE (R221). -/
  | mfence (c : Ctl)
  /-- LD (R169). -/
  | ld (c : Ctl) (t : Ty) (d : BitVec 6) (a : BitVec 6) (disp : BitVec 18)
  /-- ST (R169). -/
  | st (c : Ctl) (t : Ty) (d : BitVec 6) (a : BitVec 6) (disp : BitVec 18)
  /-- LDL (R169). -/
  | ldl (c : Ctl) (t : Ty) (d : BitVec 6) (a : BitVec 6) (disp : BitVec 18)
  /-- STL (R169). -/
  | stl (c : Ctl) (t : Ty) (d : BitVec 6) (a : BitVec 6) (disp : BitVec 18)
  /-- VLD (R170). -/
  | vld (c : Ctl) (t : Ty) (d : BitVec 6) (a : BitVec 6) (disp : BitVec 18)
  /-- VST (R170). -/
  | vst (c : Ctl) (t : Ty) (d : BitVec 6) (a : BitVec 6) (disp : BitVec 18)
  /-- VLDL (R170). -/
  | vldl (c : Ctl) (t : Ty) (d : BitVec 6) (a : BitVec 6) (disp : BitVec 18)
  /-- VSTL (R170). -/
  | vstl (c : Ctl) (t : Ty) (d : BitVec 6) (a : BitVec 6) (disp : BitVec 18)
  /-- VLDS (R171). -/
  | vlds (c : Ctl) (t : Ty) (l : Bool) (d : BitVec 6) (a : BitVec 6) (b : BitVec 6)
  /-- VSTS (R171). -/
  | vsts (c : Ctl) (t : Ty) (l : Bool) (d : BitVec 6) (a : BitVec 6) (b : BitVec 6)
  /-- VLDX (R171). -/
  | vldx (c : Ctl) (t : Ty) (l : Bool) (d : BitVec 6) (a : BitVec 6) (b : BitVec 6)
  /-- VSTX (R171). -/
  | vstx (c : Ctl) (t : Ty) (l : Bool) (d : BitVec 6) (a : BitVec 6) (b : BitVec 6)
  /-- LDBLK (R181). -/
  | ldblk (c : Ctl) (d : BitVec 6) (a : BitVec 6) (n : BitVec 6) (ev : Bool)
  /-- BLKREL (R183). -/
  | blkrel (c : Ctl) (a : BitVec 6)
  /-- REGMAP (R184). -/
  | regmap (c : Ctl) (n : BitVec 6) (a : BitVec 6) (b : BitVec 6) (x : BitVec 6)
  /-- REGFLUSH (R187). -/
  | regflush (c : Ctl) (n : BitVec 6) (b : BitVec 6)
  /-- REGDROP (R187). -/
  | regdrop (c : Ctl) (n : BitVec 6) (b : BitVec 6)
  /-- AADD (R189). -/
  | aadd (c : Ctl) (t : Ty) (d : BitVec 6) (a : BitVec 6) (b : BitVec 6)
  /-- AMIN (R189). -/
  | amin (c : Ctl) (t : Ty) (d : BitVec 6) (a : BitVec 6) (b : BitVec 6)
  /-- AMAX (R189). -/
  | amax (c : Ctl) (t : Ty) (d : BitVec 6) (a : BitVec 6) (b : BitVec 6)
  /-- AAND (R189). -/
  | aand (c : Ctl) (t : Ty) (d : BitVec 6) (a : BitVec 6) (b : BitVec 6)
  /-- AOR (R189). -/
  | aor (c : Ctl) (t : Ty) (d : BitVec 6) (a : BitVec 6) (b : BitVec 6)
  /-- AXOR (R189). -/
  | axor (c : Ctl) (t : Ty) (d : BitVec 6) (a : BitVec 6) (b : BitVec 6)
  /-- AXCHG (R189). -/
  | axchg (c : Ctl) (t : Ty) (d : BitVec 6) (a : BitVec 6) (b : BitVec 6)
  /-- ACAS (R189). -/
  | acas (c : Ctl) (t : Ty) (d : BitVec 6) (a : BitVec 6) (b : BitVec 6) (x : BitVec 6)
  /-- AADDW (R190). -/
  | aaddw (c : Ctl) (d : BitVec 6) (a : BitVec 6) (b : BitVec 6)
  /-- ARED (R191). -/
  | ared (c : Ctl) (t : Ty) (a : BitVec 6) (b : BitVec 6) (op : BitVec 6)
  /-- FENCE (R196). -/
  | fence (c : Ctl) (n : BitVec 3)
  /-- PUSH (R197). -/
  | push (c : Ctl) (d : BitVec 6) (a : BitVec 6) (q : BitVec 6)
  /-- PUSHC (R230). -/
  | pushc (c : Ctl) (d : BitVec 6) (a : BitVec 6)
  /-- BARINIT (R193). -/
  | barinit (c : Ctl) (a : BitVec 6) (b : BitVec 6)
  /-- BARARR (R194). -/
  | bararr (c : Ctl) (d : BitVec 6) (a : BitVec 6) (b : BitVec 6)
  /-- WAITMEM (R195). -/
  | waitmem (c : Ctl) (k : Cond) (d : BitVec 6) (a : BitVec 6) (b : BitVec 6) (x : BitVec 6)
  /-- FATOM (R200). -/
  | fatom (c : Ctl) (op : BitVec 3) (t : Ty) (d : BitVec 6) (a : BitVec 6) (b : BitVec 6) (x : BitVec 6) (y : BitVec 6)
  /-- FREL (R202). -/
  | frel (c : Ctl)
  /-- EMPTY_POSITION (R61). -/
  | emptyPosition
  /-- PRODUCER_WRITEBACK (R15). -/
  | producerWriteback (agent : Nat) (idx : Nat)
  /-- DEFERRED_FAULT (R83). -/
  | deferredFault (agent : Nat)
  /-- INTERRUPT_ENTRY (R32). -/
  | interruptEntry
  /-- SIDE_LOG_REPLAY (R174). -/
  | sideLogReplay (core : Nat)
  /-- REGION_WRITEBACK (R186). -/
  | regionWriteback (core : Nat)
  /-- BLOCK_FILLED (R181). -/
  | blockFilled (core : Nat) (idx : Nat)
  /-- MATRIX_ENTRY_START (R208). -/
  | matrixEntryStart (core : Nat) (idx : Nat)
  /-- MATRIX_ENTRY_COMPLETE (R207). -/
  | matrixEntryComplete (core : Nat) (idx : Nat)
  /-- COPY_COMMAND (R225). -/
  | copyCommand (p : Pusher) (core : Nat) (rec : Rec)
  /-- GATHER_COMMAND (R225). -/
  | gatherCommand (p : Pusher) (core : Nat) (rec : Rec)
  /-- ENGINE_COMMAND_START (R224). -/
  | engineCommandStart (core : Nat) (gather : Bool) (count : Nat)
  /-- ENGINE_COMMAND_COMPLETE (R228). -/
  | engineCommandComplete (core : Nat) (gather : Bool)
  /-- MCMD_OSREL (R229). -/
  | mcmdOsrel (p : Pusher) (core : Nat) (rec : Rec)
  /-- MCMD_OSLD (R229). -/
  | mcmdOsld (p : Pusher) (core : Nat) (rec : Rec)
  /-- MCMD_MWLD (R229). -/
  | mcmdMwld (p : Pusher) (core : Nat) (rec : Rec)
  /-- MCMD_MMA (R229). -/
  | mcmdMma (p : Pusher) (core : Nat) (rec : Rec)
  /-- MCMD_MMAZ (R229). -/
  | mcmdMmaz (p : Pusher) (core : Nat) (rec : Rec)
  /-- MCMD_MACCZ (R229). -/
  | mcmdMaccz (p : Pusher) (core : Nat) (rec : Rec)
  /-- MCMD_MACCST (R229). -/
  | mcmdMaccst (p : Pusher) (core : Nat) (rec : Rec)
  /-- MCMD_MACCLD (R229). -/
  | mcmdMaccld (p : Pusher) (core : Nat) (rec : Rec)
  /-- FABRIC_PUT (R232). -/
  | fabricPut (p : Pusher) (rec : Rec)
  /-- FABRIC_SEND (R232). -/
  | fabricSend (p : Pusher) (rec : Rec)
  /-- TMATMUL (R258). -/
  | tmatmul (p : Pusher) (lvl : TileQueue) (rec : Rec)
  /-- TEWISE (R259). -/
  | tewise (p : Pusher) (lvl : TileQueue) (rec : Rec)
  /-- TREDUCE (R260). -/
  | treduce (p : Pusher) (lvl : TileQueue) (rec : Rec)
  /-- TTOPK (R261). -/
  | ttopk (p : Pusher) (lvl : TileQueue) (rec : Rec)
  /-- TCOPY (R263). -/
  | tcopy (p : Pusher) (lvl : TileQueue) (rec : Rec)
  /-- TGATHER (R263). -/
  | tgather (p : Pusher) (lvl : TileQueue) (rec : Rec)
  /-- TCAST (R263). -/
  | tcast (p : Pusher) (lvl : TileQueue) (rec : Rec)
  /-- TTRANS (R263). -/
  | ttrans (p : Pusher) (lvl : TileQueue) (rec : Rec)
  /-- TFILL (R263). -/
  | tfill (p : Pusher) (lvl : TileQueue) (rec : Rec)
  /-- TLAUNCH (R265). -/
  | tlaunch (p : Pusher) (lvl : TileQueue) (rec : Rec)
  /-- TBIND (R266). -/
  | tbind (p : Pusher) (lvl : TileQueue) (rec : Rec)
  /-- TBARRIER (R270). -/
  | tbarrier (p : Pusher) (lvl : TileQueue) (rec : Rec)
  /-- TALLRED (R271). -/
  | tallred (p : Pusher) (lvl : TileQueue) (rec : Rec)
  /-- TILE_COMPLETE (R252). -/
  | tileComplete (id : Nat)
  /-- TBARRIER_COMPLETE (R270). -/
  | tbarrierComplete (id : Nat)
  /-- POD_RECORD_DELIVERY (R248). -/
  | podRecordDelivery (origin : Nat) (ctx : Nat) (stamp : Word) (rec : Rec)
  /-- LAUNCH_ACTIVATE (R312). -/
  | launchActivate (num : Nat)
  /-- STAMPED_GATHER_DONE (R326). -/
  | stampedGatherDone (num : Nat)
  /-- STAMPED_STRAND_NEXT (R327). -/
  | stampedStrandNext (core : Nat)
  /-- TASK_DISPATCH (R317). -/
  | taskDispatch (die : Nat) (core : Nat)
  /-- TASK_COMPLETE (R128). -/
  | taskComplete (core : Nat)
  /-- TASK_REPORT (R318). -/
  | taskReport (num : Nat) (die : Nat)
  /-- TASK_STOP (R320). -/
  | taskStop (core : Nat)
  /-- TASK_RESUME (R320). -/
  | taskResume (die : Nat) (core : Nat)
  /-- WAIT_RESUMABLE (R319). -/
  | waitResumable (num : Nat) (ord : Nat)
  /-- WATCHDOG_EXPIRY (R334). -/
  | watchdogExpiry (num : Nat)
  /-- EVENT_RECORD_POST (R335). -/
  | eventRecordPost (die : Nat)
  /-- GOVERNOR_WINDOW (R344). -/
  | governorWindow (core : Nat)
  /-- HBM_TEMP_READ (R355). -/
  | hbmTempRead (stack : Nat) (reading : Option (BitVec 8))
  /-- HBM_REFRESH (R356). -/
  | hbmRefresh (stack : Nat) (pc : Nat)
  /-- CORE_SENSOR_SAMPLE (R357). -/
  | coreSensorSample (core : Nat) (lo : BitVec 16) (hi : BitVec 16)
  /-- THERMAL_TRIP (R358). -/
  | thermalTrip (core : Nat)
  /-- CLOCK_CHANGE_PROCEED (R350). -/
  | clockChangeProceed
  /-- CLOCK_RAILS_TRIMMED (R353). -/
  | clockRailsTrimmed
  /-- CLOCK_SWITCH_DONE (R350). -/
  | clockSwitchDone
  /-- CORE_GATED (R359). -/
  | coreGated (core : Nat)
  /-- CORE_ONLINE (R359). -/
  | coreOnline (core : Nat)
  /-- GATED_PORT_WAKE (R359). -/
  | gatedPortWake (core : Nat)
  /-- L2WIN_FILLED (R329). -/
  | l2winFilled (die : Nat) (w : Nat)
  /-- SHOOTDOWN_COMPLETE (R304). -/
  | shootdownComplete (set : Nat)
  /-- MIGRATION_ROUND (R306). -/
  | migrationRound (die : Nat)
  /-- MIGRATION_SWITCH (R306). -/
  | migrationSwitch (die : Nat)
  /-- SLOT_HANDOVER (R371). -/
  | slotHandover (slot : Nat)
  /-- SLOT_HEADER_RECEIVE (R366). -/
  | slotHeaderReceive (plane : Nat) (lane : Nat) (slot : Nat) (hdr : BitVec 512) (data : List Byte)
  /-- ACK_RECEIVE (R375). -/
  | ackReceive (src : Nat) (acks : List Word)
  /-- FORWARD_HOLD_EXPIRY (R374). -/
  | forwardHoldExpiry (idx : Nat)
  /-- RESEND_TIMEOUT (R376). -/
  | resendTimeout (seq : Nat)
  /-- COMPLETION_RECORD_EXPIRY (R377). -/
  | completionRecordExpiry (idx : Nat)
  /-- BANK_SWITCH (R368). -/
  | bankSwitch (plane : Nat)
  /-- LANE_LOCK (R382). -/
  | laneLock (plane : Nat)
  /-- LINE_FAILURE (R383). -/
  | lineFailure (plane : Nat) (line : Nat)
  /-- LINE_RESTORE (R383). -/
  | lineRestore (plane : Nat) (line : Nat)
  /-- RETUNE_START (R383). -/
  | retuneStart (plane : Nat) (lane : Nat)
  /-- RETUNE_END (R383). -/
  | retuneEnd (plane : Nat) (lane : Nat)
  /-- ORDERED_DELIVERY (R394). -/
  | orderedDelivery
  /-- ORDERED_INCOMPLETE_DISCARD (R395). -/
  | orderedIncompleteDiscard (idx : Nat)
  /-- WATERMARK_STALL (R397). -/
  | watermarkStall (plane : Nat) (port : Nat)
  /-- FATOM_SEND_RELEASE (R404). -/
  | fatomSendRelease (idx : Nat)
  /-- FATOM_REQUEST_ARRIVE (R405). -/
  | fatomRequestArrive (src : Nat) (seq : Nat) (low : Nat) (rec : Rec)
  /-- FATOM_REPLY_ARRIVE (R404). -/
  | fatomReplyArrive (src : Nat) (seq : Nat) (status : Nat) (old : Word)
  /-- POD_BARRIER_COMPLETE (R401). -/
  | podBarrierComplete (ch : Nat)
  /-- PTP_MESSAGE (R388). -/
  | ptpMessage (sync : PtpSync) (t2 : Nat) (t3 : Nat) (t4 : Nat)
  /-- TIME_PARENT_LOST (R388). -/
  | timeParentLost
  /-- MAILBOX_READ (R409). -/
  | mailboxRead (hdr : BitVec 128)
  /-- MAILBOX_WRITE (R409). -/
  | mailboxWrite (hdr : BitVec 128) (data : List Byte)
  /-- LINK_DOWN (R407). -/
  | linkDown
  /-- HOSTNOTE (R410). -/
  | hostnote (who : Nat) (val : Word)
  /-- SET_ENDPOINT_ID (R411). -/
  | setEndpointId (eid : Nat)
  /-- PLDM_SENSOR_READ (R412). -/
  | pldmSensorRead (sensor : Nat)
  /-- PLDM_EFFECTER_RESET (R412). -/
  | pldmEffecterReset (state : Nat)
  /-- PLDM_EFFECTER_DEBUG (R412). -/
  | pldmEffecterDebug (state : Nat)
  /-- PLDM_FIRMWARE_UPDATE (R411). -/
  | pldmFirmwareUpdate (data : List Byte)
  /-- GET_MEASUREMENTS (R421). -/
  | getMeasurements (nonce : List Byte)
  /-- SPDM_CHALLENGE (R421). -/
  | spdmChallenge (nonce : List Byte)
  /-- SPDM_GET_CERTIFICATE (R421). -/
  | spdmGetCertificate
  /-- SIDEBAND_MESSAGE_DROP (R411). -/
  | sidebandMessageDrop (kind : Nat)
  /-- TARGET_RESET (R411). -/
  | targetReset
  /-- POWER_ON_RESET (R38). -/
  | powerOnReset
  /-- BOOT_IMAGE (R416). -/
  | bootImage (image : List Byte)
  /-- GO (R234). -/
  | go (who : Nat) (set : Nat) (val : Word)
  /-- PGREPLY_RETRY (R302). -/
  | pgreplyRetry (who : Nat) (die : Nat) (val : Word)
  /-- PGREPLY_REFUSE (R302). -/
  | pgreplyRefuse (who : Nat) (die : Nat) (val : Word)
  /-- TLBLOCK_LOCK (R303). -/
  | tlblockLock (who : Nat) (die : Nat) (val : Word)
  /-- TLBLOCK_UNLOCK (R303). -/
  | tlblockUnlock (who : Nat) (die : Nat) (val : Word)
  /-- SDGO (R304). -/
  | sdgo (who : Nat) (set : Nat)
  /-- MIGGO (R305). -/
  | miggo (who : Nat) (die : Nat) (val : Word)
  /-- LCMD_RELEASE (R314). -/
  | lcmdRelease (who : Nat) (val : Word)
  /-- LCMD_ABORT (R314). -/
  | lcmdAbort (who : Nat) (val : Word)
  /-- LCMD_CONTINUE (R314). -/
  | lcmdContinue (who : Nat) (val : Word)
  /-- EVICT (R322). -/
  | evict (who : Nat) (val : Word)
  /-- MXCAD_WRITE (R343). -/
  | mxcadWrite (who : Nat) (core : Nat) (val : Word)
  /-- CLKCTL_WRITE (R350). -/
  | clkctlWrite (who : Nat) (val : Word)
  /-- STATE_GATE_SET (R359). -/
  | stateGateSet (who : Nat) (core : Nat)
  /-- STATE_GATE_CLEAR (R359). -/
  | stateGateClear (who : Nat) (core : Nat)
  /-- L2WIN_WRITE (R329). -/
  | l2winWrite (who : Nat) (die : Nat) (w : Nat) (val : Word)
  /-- PLACT (R368). -/
  | plact (who : Nat) (plane : Nat) (val : Word)
  /-- PLCTL_LIGHT_ON (R382). -/
  | plctlLightOn (who : Nat) (plane : Nat) (val : Word)
  /-- PLCTL_LIGHT_OFF (R382). -/
  | plctlLightOff (who : Nat) (plane : Nat) (val : Word)
  /-- PTSET (R389). -/
  | ptset (who : Nat) (val : Word)
  /-- PBAR_ARRIVE (R402). -/
  | pbarArrive (who : Nat) (ch : Nat) (val : Word)
  /-- CCREL_GO (R414). -/
  | ccrelGo (who : Nat) (val : Word)
  /-- CCREL_RST (R414). -/
  | ccrelRst (who : Nat) (val : Word)
  /-- DBGCTL_EN_WRITE (R417). -/
  | dbgctlEnWrite (who : Nat) (val : Word)
  /-- DBGCTL_HALT_WRITE (R417). -/
  | dbgctlHaltWrite (who : Nat) (val : Word)
  /-- ELPUSH (R418). -/
  | elpush (who : Nat)
  /-- MRXGO (R420). -/
  | mrxgo (who : Nat) (val : Word)
  /-- REGISTER_WRITE (R6). -/
  | registerWrite (who : Nat) (addr : Nat) (val : Word)
  /-- LINK_UP (R407). -/
  | linkUp
  /-- HBM_PATROL (R308). -/
  | hbmPatrol (stack : Nat) (fixed : Nat) (lost : List Spot)
  /-- BREAK_RESUMPTION (R135). -/
  | breakResumption (agent : Nat)
  deriving DecidableEq, Repr

end Sys2Proof
end

