-- ==== Sys2Proof/WellFormed.lean ====
section
/-! DEFINITION. Which instruction terms are the reading of some word: the field rules of 03 R65 to R71, 05 R100, 06 R141
R142, 07 R164 R165 and 08 R204 R205, each a check of Instr.wf. Commands and events are not read from instruction words. -/

namespace Sys2Proof

/-- Width of an element in a register (02 R39). -/
def Ty.width (t : Ty) : Nat :=
  match t with
  | .i8 | .t8 | .t6 => 8
  | .i16 | .f16 | .bf16 => 16
  | .i32 | .f32 => 32
  | .i64 => 64

/-- An integer type (02 R39). -/
def Ty.isInt (t : Ty) : Bool :=
  match t with
  | .i8 | .i16 | .i32 | .i64 => true
  | .f16 | .bf16 | .f32 | .t8 | .t6 => false

/-- A taper type (02 R39). -/
def Ty.isTaper (t : Ty) : Bool :=
  match t with
  | .t8 | .t6 => true
  | .i8 | .i16 | .i32 | .i64 | .f16 | .bf16 | .f32 => false

/-- A format whose weight window is two operand slots (08 R203). -/
def Ty.twoSlots (t : Ty) : Bool :=
  match t with
  | .t6 | .bf16 | .f16 => true
  | .i8 | .i16 | .i32 | .i64 | .f32 | .t8 => false

/-- The branch-target file has registers 0 to 7 (03 R66). -/
def b8 (r : BitVec 6) : Bool := decide (r.toNat < 8)
/-- The predicate file has registers 0 to 15 (03 R66). -/
def p16 (r : BitVec 6) : Bool := decide (r.toNat < 16)
/-- The vector file has registers 0 to 31 (03 R66). -/
def v32 (r : BitVec 6) : Bool := decide (r.toNat < 32)
/-- Operand slots and regions are 0 to 15 (03 R66, 07 R164). -/
def os16 (r : BitVec 6) : Bool := decide (r.toNat < 16)
/-- Accumulators are 0 to 3 (03 R66). -/
def acc4 (r : BitVec 6) : Bool := decide (r.toNat < 4)
/-- A register pair starts at an even register (07 R164). -/
def even6 (r : BitVec 6) : Bool := decide (r.toNat % 2 = 0)
/-- INS.FE has a bit only for the register sources of the form (03 R68). -/
def feOk (c : Ctl) (mask : BitVec 4) : Bool := c.fe &&& mask == c.fe
/-- A field that holds 0 as "none" has no INS.FE bit (07 R164). -/
def noFe (c : Ctl) (i : Nat) (r : BitVec 6) : Bool := r != 0 || !c.fe.getLsbD i
/-- INS.CH is 00 but where 03 R69 gives it a use. -/
def noHint (c : Ctl) : Bool := c.ch == 0
/-- The part number of a conversion between element widths `ws` and `wd` (06 R156). -/
def partOk (ws wd : Nat) (j : BitVec 6) : Bool := decide (j.toNat < max ws wd / min ws wd)
/-- A special register that some agent has (01 R26). -/
def srAssigned (n : BitVec 6) : Bool := decide (n.toNat < 37) && n != 31

/-- Every field rule of the instruction holds. -/
def Instr.wf (i : Instr) : Bool :=
  match i with
  | .bprep c d _ => feOk c 0 && noHint c && b8 d
  | .bpreps c d _ => feOk c 1 && noHint c && b8 d
  | .br c a => feOk c 0 && noHint c && b8 a
  | .call c a => feOk c 0 && noHint c && b8 a
  | .ret c => feOk c 0 && noHint c
  | .loopset c _ _ => feOk c 1 && noHint c
  | .loopbrk c n => feOk c 0 && noHint c && (n != 0) && (n != 7)
  | .endTask c => feOk c 0 && noHint c
  | .yield c => feOk c 0 && noHint c
  | .wait c _ _ => feOk c 3 && noHint c
  | .waitt c _ => feOk c 1 && noHint c
  | .trap c _ => feOk c 0 && noHint c
  | .eret c => feOk c 0 && noHint c
  | .brk c _ => feOk c 0 && noHint c
  | .mfsr c _ n => feOk c 0 && noHint c && srAssigned n
  | .mtsr c n _ => feOk c 1 && noHint c && srAssigned n
  | .sleep c => feOk c 0 && noHint c
  | .evpop c _ => feOk c 0 && noHint c
  | .add c _ _ _ => feOk c 3 && noHint c
  | .addi c _ _ _ => feOk c 1 && noHint c
  | .sub c _ _ _ => feOk c 3 && noHint c
  | .and c _ _ _ => feOk c 3 && noHint c
  | .andi c _ _ _ => feOk c 1 && noHint c
  | .or c _ _ _ => feOk c 3 && noHint c
  | .ori c _ _ _ => feOk c 1 && noHint c
  | .xor c _ _ _ => feOk c 3 && noHint c
  | .xori c _ _ _ => feOk c 1 && noHint c
  | .shl c _ _ _ => feOk c 3 && noHint c
  | .shli c _ _ imm => feOk c 1 && noHint c && decide (imm.toNat < 64)
  | .shr c _ _ _ => feOk c 3 && noHint c
  | .shri c _ _ imm => feOk c 1 && noHint c && decide (imm.toNat < 64)
  | .sar c _ _ _ => feOk c 3 && noHint c
  | .sari c _ _ imm => feOk c 1 && noHint c && decide (imm.toNat < 64)
  | .rotl c _ _ _ => feOk c 3 && noHint c
  | .min c _ _ _ => feOk c 3 && noHint c
  | .max c _ _ _ => feOk c 3 && noHint c
  | .minu c _ _ _ => feOk c 3 && noHint c
  | .maxu c _ _ _ => feOk c 3 && noHint c
  | .adds c _ _ _ => feOk c 3 && noHint c
  | .subs c _ _ _ => feOk c 3 && noHint c
  | .abs c _ _ => feOk c 1 && noHint c
  | .clz c _ _ => feOk c 1 && noHint c
  | .ctz c _ _ => feOk c 1 && noHint c
  | .popc c _ _ => feOk c 1 && noHint c
  | .brev c _ _ => feOk c 1 && noHint c
  | .mov c _ _ => feOk c 1 && noHint c
  | .movi c _ _ => feOk c 0 && noHint c
  | .movhi c _ _ => feOk c 0 && noHint c
  | .sext c _ _ _ => feOk c 1 && noHint c
  | .zext c _ _ _ => feOk c 1 && noHint c
  | .bfx c _ _ pos w => feOk c 1 && noHint c && decide (pos.toNat + w.toNat < 64)
  | .bfi c _ _ pos w => feOk c 1 && noHint c && decide (pos.toNat + w.toNat < 64)
  | .lea c _ _ _ _ => feOk c 3 && noHint c
  | .sel c _ x _ _ => feOk c 7 && noHint c && p16 x
  | .cmp c _ d _ _ => feOk c 3 && noHint c && p16 d
  | .cmpi c _ d _ _ => feOk c 1 && noHint c && p16 d
  | .pand c d a b => feOk c 3 && noHint c && p16 d && p16 a && p16 b
  | .por c d a b => feOk c 3 && noHint c && p16 d && p16 a && p16 b
  | .pxor c d a b => feOk c 3 && noHint c && p16 d && p16 a && p16 b
  | .pnot c d a => feOk c 1 && noHint c && p16 d && p16 a
  | .pmov c d a => feOk c 1 && noHint c && p16 d && p16 a
  | .fadd c _ _ _ _ => feOk c 3 && noHint c
  | .fsub c _ _ _ _ => feOk c 3 && noHint c
  | .fmul c _ _ _ _ => feOk c 3 && noHint c
  | .ffma c _ _ _ _ _ => feOk c 7 && noHint c
  | .fmin c _ _ _ => feOk c 3 && noHint c
  | .fmax c _ _ _ => feOk c 3 && noHint c
  | .fcmp c _ d _ _ => feOk c 3 && noHint c && p16 d
  | .fcvti c t _ _ _ => feOk c 1 && noHint c && (t == .i32 || t == .i64)
  | .icvtf c t _ _ _ => feOk c 1 && noHint c && (t == .i32 || t == .i64)
  | .mul c _ _ _ => feOk c 3 && noHint c
  | .muli c _ _ _ => feOk c 1 && noHint c
  | .mulh c _ _ _ => feOk c 3 && noHint c
  | .mulhu c _ _ _ => feOk c 3 && noHint c
  | .div c _ _ _ => feOk c 3 && noHint c
  | .divu c _ _ _ => feOk c 3 && noHint c
  | .rem c _ _ _ => feOk c 3 && noHint c
  | .remu c _ _ _ => feOk c 3 && noHint c
  | .vadd c t m d a b => feOk c 3 && noHint c && [.i8, .i16, .i32, .i64, .f16, .bf16, .f32].contains t && (!t.isInt || m == .rne) && v32 d && v32 a && v32 b
  | .vsub c t m d a b => feOk c 3 && noHint c && [.i8, .i16, .i32, .i64, .f16, .bf16, .f32].contains t && (!t.isInt || m == .rne) && v32 d && v32 a && v32 b
  | .vmul c t m d a b => feOk c 3 && noHint c && [.i8, .i16, .i32, .i64, .f16, .bf16, .f32].contains t && (!t.isInt || m == .rne) && v32 d && v32 a && v32 b
  | .vfma c t m d a b x => feOk c 7 && noHint c && [.i8, .i16, .i32, .i64, .f16, .bf16, .f32].contains t && (!t.isInt || m == .rne) && v32 d && v32 a && v32 b && v32 x
  | .vmin c t d a b => feOk c 3 && noHint c && [.i8, .i16, .i32, .i64, .f16, .bf16, .f32].contains t && v32 d && v32 a && v32 b
  | .vmax c t d a b => feOk c 3 && noHint c && [.i8, .i16, .i32, .i64, .f16, .bf16, .f32].contains t && v32 d && v32 a && v32 b
  | .vabs c t d a => feOk c 1 && noHint c && [.i8, .i16, .i32, .i64, .f16, .bf16, .f32].contains t && v32 d && v32 a
  | .vneg c t d a => feOk c 1 && noHint c && [.i8, .i16, .i32, .i64, .f16, .bf16, .f32].contains t && v32 d && v32 a
  | .vand c t d a b => feOk c 3 && noHint c && [.i8, .i16, .i32, .i64].contains t && v32 d && v32 a && v32 b
  | .vor c t d a b => feOk c 3 && noHint c && [.i8, .i16, .i32, .i64].contains t && v32 d && v32 a && v32 b
  | .vxor c t d a b => feOk c 3 && noHint c && [.i8, .i16, .i32, .i64].contains t && v32 d && v32 a && v32 b
  | .vnot c t d a => feOk c 1 && noHint c && [.i8, .i16, .i32, .i64].contains t && v32 d && v32 a
  | .vshl c t d a b => feOk c 3 && noHint c && [.i8, .i16, .i32, .i64].contains t && v32 d && v32 a && v32 b
  | .vshr c t d a b => feOk c 3 && noHint c && [.i8, .i16, .i32, .i64].contains t && v32 d && v32 a && v32 b
  | .vsar c t d a b => feOk c 3 && noHint c && [.i8, .i16, .i32, .i64].contains t && v32 d && v32 a && v32 b
  | .vadds c t d a b => feOk c 3 && noHint c && [.i8, .i16, .i32, .i64].contains t && v32 d && v32 a && v32 b
  | .vsubs c t d a b => feOk c 3 && noHint c && [.i8, .i16, .i32, .i64].contains t && v32 d && v32 a && v32 b
  | .vmulh c t d a b => feOk c 3 && noHint c && [.i8, .i16, .i32, .i64].contains t && v32 d && v32 a && v32 b
  | .vcmp c _ _ d a b => feOk c 3 && noHint c && p16 d && v32 a && v32 b
  | .vsel c _ d x a b => feOk c 7 && noHint c && v32 d && p16 x && v32 a && v32 b
  | .vmov c t d a => feOk c 1 && noHint c && [.i8, .i16, .i32, .i64, .f16, .bf16, .f32, .t8, .t6].contains t && v32 d && v32 a
  | .vbcast c _ d _ => feOk c 1 && noHint c && v32 d
  | .vext c _ _ a _ => feOk c 3 && noHint c && v32 a
  | .vins c _ d _ _ => feOk c 3 && noHint c && v32 d
  | .vperm c t d a b => feOk c 3 && noHint c && [.i8, .i16, .i32, .i64, .f16, .bf16, .f32, .t8, .t6].contains t && v32 d && v32 a && v32 b
  | .vrot c _ d a _ => feOk c 3 && noHint c && v32 d && v32 a
  | .vslide c _ d a b _ => feOk c 7 && noHint c && v32 d && v32 a && v32 b
  | .vzip c _ d a b _ => feOk c 3 && noHint c && v32 d && v32 a && v32 b
  | .vunzip c _ d a b _ => feOk c 3 && noHint c && v32 d && v32 a && v32 b
  | .vredadd c t d a => feOk c 1 && noHint c && [.i8, .i16, .i32, .i64, .f16, .bf16, .f32].contains t && v32 d && v32 a
  | .vredmin c t d a => feOk c 1 && noHint c && [.i8, .i16, .i32, .i64, .f16, .bf16, .f32].contains t && v32 d && v32 a
  | .vredmax c t d a => feOk c 1 && noHint c && [.i8, .i16, .i32, .i64, .f16, .bf16, .f32].contains t && v32 d && v32 a
  | .vscan c t d a => feOk c 1 && noHint c && [.i8, .i16, .i32, .i64, .f16, .bf16, .f32].contains t && v32 d && v32 a
  | .vany c t d a => feOk c 1 && noHint c && [.i8, .i16, .i32, .i64].contains t && p16 d && p16 a
  | .vall c t d a => feOk c 1 && noHint c && [.i8, .i16, .i32, .i64].contains t && p16 d && p16 a
  | .vpopc c t _ a => feOk c 1 && noHint c && [.i8, .i16, .i32, .i64].contains t && p16 a
  | .vrcp c t _ d a => feOk c 1 && noHint c && [.f16, .bf16, .f32].contains t && v32 d && v32 a
  | .vrsq c t _ d a => feOk c 1 && noHint c && [.f16, .bf16, .f32].contains t && v32 d && v32 a
  | .vsqrt c t _ d a => feOk c 1 && noHint c && [.f16, .bf16, .f32].contains t && v32 d && v32 a
  | .vexp2 c t _ d a => feOk c 1 && noHint c && [.f16, .bf16, .f32].contains t && v32 d && v32 a
  | .vlog2 c t _ d a => feOk c 1 && noHint c && [.f16, .bf16, .f32].contains t && v32 d && v32 a
  | .vtanh c t _ d a => feOk c 1 && noHint c && [.f16, .bf16, .f32].contains t && v32 d && v32 a
  | .vsigm c t _ d a => feOk c 1 && noHint c && [.f16, .bf16, .f32].contains t && v32 d && v32 a
  | .vdiv c t m d a b => feOk c 3 && noHint c && [.f16, .bf16, .f32].contains t && (!t.isInt || m == .rne) && v32 d && v32 a && v32 b
  | .vcvt c t m d a fs j => feOk c 1 && noHint c && (!t.isTaper || m == .rne) && partOk fs.width t.width j && v32 d && v32 a
  | .vmaxexp c t a => feOk c 1 && noHint c && [.f16, .bf16, .f32].contains t && v32 a
  | .vqcvt c t d a fq j => feOk c 1 && noHint c && [.f16, .bf16, .f32].contains t && fq.isTaper && partOk t.width 8 j && v32 d && v32 a
  | .vdq c t _ d a fq j => feOk c 1 && noHint c && [.f16, .bf16, .f32].contains t && fq.isTaper && partOk 8 t.width j && v32 d && v32 a
  | .vfxcvt c t _ d a _ j => feOk c 1 && noHint c && [.f16, .bf16, .f32].contains t && partOk t.width 64 j && v32 d && v32 a
  | .vflcvt c t _ d a _ j => feOk c 1 && noHint c && [.f16, .bf16, .f32].contains t && partOk t.width 64 j && v32 d && v32 a
  | .viota c t d => feOk c 0 && noHint c && [.i8, .i16, .i32, .i64].contains t && v32 d
  | .vclz c t d a => feOk c 1 && noHint c && [.i8, .i16, .i32, .i64].contains t && v32 d && v32 a
  | .osclaim c _ n any => feOk c 0 && noHint c && os16 n && (!any || n == 0)
  | .osrel c n => feOk c 0 && noHint c && os16 n
  | .osld c n _ _ => feOk c 3 && noHint c && os16 n
  | .mwld c t n _ => feOk c 2 && noHint c && [.t8, .i8, .t6, .bf16, .f16].contains t && os16 n && (!t.twoSlots || n != 15)
  | .mma c t acc n _ h => feOk c 2 && noHint c && [.t8, .i8, .t6, .bf16, .f16].contains t && os16 n && acc4 acc && (!h || !t.twoSlots)
  | .mmaz c t acc n _ h => feOk c 2 && noHint c && [.t8, .i8, .t6, .bf16, .f16].contains t && os16 n && acc4 acc && (!h || !t.twoSlots)
  | .maccz c t acc => feOk c 0 && noHint c && [.f32, .i32].contains t && acc4 acc
  | .maccrd c d acc _ => feOk c 2 && noHint c && v32 d && acc4 acc
  | .maccwr c acc a _ => feOk c 3 && noHint c && acc4 acc && v32 a
  | .maccst c acc _ _ => feOk c 6 && noHint c && acc4 acc
  | .maccld c t acc _ _ => feOk c 6 && noHint c && [.f32, .i32].contains t && acc4 acc
  | .mwait c acc => feOk c 0 && noHint c && acc4 acc
  | .mfence c => feOk c 0 && noHint c
  | .ld c t _ _ _ => feOk c 1 && [.i8, .i16, .i32, .i64].contains t
  | .st c t _ _ _ => feOk c 1 && [.i8, .i16, .i32, .i64].contains t
  | .ldl c t _ _ _ => feOk c 1 && noHint c && [.i8, .i16, .i32, .i64].contains t
  | .stl c t _ _ _ => feOk c 1 && noHint c && [.i8, .i16, .i32, .i64].contains t
  | .vld c _ d _ _ => feOk c 1 && v32 d
  | .vst c _ d _ _ => feOk c 1 && v32 d
  | .vldl c _ d _ _ => feOk c 1 && noHint c && v32 d
  | .vstl c _ d _ _ => feOk c 1 && noHint c && v32 d
  | .vlds c _ l d _ _ => feOk c 3 && v32 d && (!l || c.ch == 0)
  | .vsts c _ l d _ _ => feOk c 3 && v32 d && (!l || c.ch == 0)
  | .vldx c _ l d _ b => feOk c 3 && v32 d && v32 b && (!l || c.ch == 0)
  | .vstx c _ l d _ b => feOk c 3 && v32 d && v32 b && (!l || c.ch == 0)
  | .ldblk c _ _ _ _ => feOk c 1 && noHint c
  | .blkrel c _ => feOk c 1 && noHint c
  | .regmap c n _ _ _ => feOk c 7 && noHint c && os16 n
  | .regflush c n _ => feOk c 2 && noHint c && os16 n
  | .regdrop c n _ => feOk c 2 && noHint c && os16 n
  | .aadd c t _ _ _ => feOk c 3 && noHint c && [.i32, .i64].contains t
  | .amin c t _ _ _ => feOk c 3 && noHint c && [.i32, .i64].contains t
  | .amax c t _ _ _ => feOk c 3 && noHint c && [.i32, .i64].contains t
  | .aand c t _ _ _ => feOk c 3 && noHint c && [.i32, .i64].contains t
  | .aor c t _ _ _ => feOk c 3 && noHint c && [.i32, .i64].contains t
  | .axor c t _ _ _ => feOk c 3 && noHint c && [.i32, .i64].contains t
  | .axchg c t _ _ _ => feOk c 3 && noHint c && [.i32, .i64].contains t
  | .acas c t _ _ _ x => feOk c 7 && noHint c && [.i32, .i64].contains t && noFe c 2 x
  | .aaddw c d _ b => feOk c 3 && noHint c && even6 d && even6 b
  | .ared c t _ b op => feOk c 3 && noHint c && [.i32, .i64, .f32].contains t && v32 b && decide (op.toNat < 8) && (t != .f32 || op == 1 || op == 2)
  | .fence c _ => feOk c 0 && noHint c
  | .push c d a q => feOk c 1 && p16 d && decide (a.toNat ≤ 56) && decide (q.toNat ≤ 8)
  | .pushc c d a => feOk c 1 && p16 d && decide (a.toNat ≤ 48)
  | .barinit c _ _ => feOk c 3 && noHint c
  | .bararr c _ _ b => feOk c 3 && noHint c && noFe c 1 b
  | .waitmem c _ _ _ _ x => feOk c 7 && noHint c && noFe c 2 x
  | .fatom c op t _ _ _ _ y => feOk c 15 && noHint c && [.i32, .i64].contains t && (op == 7 || y == 0) && noFe c 3 y
  | .frel c => feOk c 0 && noHint c
  | .emptyPosition => true
  | .producerWriteback _ _ => true
  | .deferredFault _ => true
  | .interruptEntry => true
  | .sideLogReplay _ => true
  | .regionWriteback _ => true
  | .blockFilled _ _ => true
  | .matrixEntryStart _ _ => true
  | .matrixEntryComplete _ _ => true
  | .copyCommand _ _ _ => true
  | .gatherCommand _ _ _ => true
  | .engineCommandStart _ _ _ => true
  | .engineCommandComplete _ _ => true
  | .mcmdOsrel _ _ _ => true
  | .mcmdOsld _ _ _ => true
  | .mcmdMwld _ _ _ => true
  | .mcmdMma _ _ _ => true
  | .mcmdMmaz _ _ _ => true
  | .mcmdMaccz _ _ _ => true
  | .mcmdMaccst _ _ _ => true
  | .mcmdMaccld _ _ _ => true
  | .fabricPut _ _ => true
  | .fabricSend _ _ => true
  | .tmatmul _ _ _ => true
  | .tewise _ _ _ => true
  | .treduce _ _ _ => true
  | .ttopk _ _ _ => true
  | .tcopy _ _ _ => true
  | .tgather _ _ _ => true
  | .tcast _ _ _ => true
  | .ttrans _ _ _ => true
  | .tfill _ _ _ => true
  | .tlaunch _ _ _ => true
  | .tbind _ _ _ => true
  | .tbarrier _ _ _ => true
  | .tallred _ _ _ => true
  | .tileComplete _ => true
  | .tbarrierComplete _ => true
  | .podRecordDelivery _ _ _ _ => true
  | .launchActivate _ => true
  | .stampedGatherDone _ => true
  | .stampedStrandNext _ => true
  | .taskDispatch _ _ => true
  | .taskComplete _ => true
  | .taskReport _ _ => true
  | .taskStop _ => true
  | .taskResume _ _ => true
  | .waitResumable _ _ => true
  | .watchdogExpiry _ => true
  | .eventRecordPost _ => true
  | .governorWindow _ => true
  | .hbmTempRead _ _ => true
  | .hbmRefresh _ _ => true
  | .coreSensorSample _ _ _ => true
  | .thermalTrip _ => true
  | .clockChangeProceed => true
  | .clockRailsTrimmed => true
  | .clockSwitchDone => true
  | .coreGated _ => true
  | .coreOnline _ => true
  | .gatedPortWake _ => true
  | .l2winFilled _ _ => true
  | .shootdownComplete _ => true
  | .migrationRound _ => true
  | .migrationSwitch _ => true
  | .slotHandover _ => true
  | .slotHeaderReceive _ _ _ _ _ => true
  | .ackReceive _ _ => true
  | .forwardHoldExpiry _ => true
  | .resendTimeout _ => true
  | .completionRecordExpiry _ => true
  | .bankSwitch _ => true
  | .laneLock _ => true
  | .lineFailure _ _ => true
  | .lineRestore _ _ => true
  | .retuneStart _ _ => true
  | .retuneEnd _ _ => true
  | .orderedDelivery => true
  | .orderedIncompleteDiscard _ => true
  | .watermarkStall _ _ => true
  | .fatomSendRelease _ => true
  | .fatomRequestArrive _ _ _ _ => true
  | .fatomReplyArrive _ _ _ _ => true
  | .podBarrierComplete _ => true
  | .ptpMessage _ _ _ _ => true
  | .timeParentLost => true
  | .mailboxRead _ => true
  | .mailboxWrite _ _ => true
  | .linkDown => true
  | .hostnote _ _ => true
  | .setEndpointId _ => true
  | .pldmSensorRead _ => true
  | .pldmEffecterReset _ => true
  | .pldmEffecterDebug _ => true
  | .pldmFirmwareUpdate _ => true
  | .getMeasurements _ => true
  | .spdmChallenge _ => true
  | .spdmGetCertificate => true
  | .sidebandMessageDrop _ => true
  | .targetReset => true
  | .powerOnReset => true
  | .bootImage _ => true
  | .go _ _ _ => true
  | .pgreplyRetry _ _ _ => true
  | .pgreplyRefuse _ _ _ => true
  | .tlblockLock _ _ _ => true
  | .tlblockUnlock _ _ _ => true
  | .sdgo _ _ => true
  | .miggo _ _ _ => true
  | .lcmdRelease _ _ => true
  | .lcmdAbort _ _ => true
  | .lcmdContinue _ _ => true
  | .evict _ _ => true
  | .mxcadWrite _ _ _ => true
  | .clkctlWrite _ _ => true
  | .stateGateSet _ _ => true
  | .stateGateClear _ _ => true
  | .l2winWrite _ _ _ _ => true
  | .plact _ _ _ => true
  | .plctlLightOn _ _ _ => true
  | .plctlLightOff _ _ _ => true
  | .ptset _ _ => true
  | .pbarArrive _ _ _ => true
  | .ccrelGo _ _ => true
  | .ccrelRst _ _ => true
  | .dbgctlEnWrite _ _ => true
  | .dbgctlHaltWrite _ _ => true
  | .elpush _ => true
  | .mrxgo _ _ => true
  | .registerWrite _ _ _ => true
  | .linkUp => true
  | .hbmPatrol _ _ _ => true
  | .breakResumption _ => true

end Sys2Proof
end

