-- ==== Sys2Proof/Machine/Num.lean ====
section
/-! DEFINITION. Exact arithmetic of the element formats (02): values as dyadic numbers, rounding once, the taper formats and
the conversions. Every float operation is computed exactly, or to more bits than any rounding needs with a note that more
follow, and rounded by `roundFin`. -/

namespace Sys2Proof.Machine

/-- An exact operand: a sign and magnitude `m` × 2^`e`, an infinity, NaN or NaV. -/
inductive Num where
  | nan
  | nav
  | inf (neg : Bool)
  | fin (neg : Bool) (m : Nat) (e : Int)
  deriving DecidableEq, Repr

/-- NaN or NaV; a NaV counts as a NaN for the NV rule (02 R44). -/
def Num.isNan (x : Num) : Bool :=
  match x with
  | .nan | .nav => true
  | .inf _ | .fin _ _ _ => false

/-- A magnitude of zero. -/
def Num.isZero (x : Num) : Bool :=
  match x with
  | .fin _ m _ => m == 0
  | .nan | .nav | .inf _ => false

/-- An infinity. -/
def Num.isInf (x : Num) : Bool :=
  match x with
  | .inf _ => true
  | .nan | .nav | .fin _ _ _ => false

/-- The sign bit. -/
def Num.sign (x : Num) : Bool :=
  match x with
  | .fin n _ _ => n
  | .inf n => n
  | .nan | .nav => false

/-- The negation of a number. -/
def Num.neg (x : Num) : Num :=
  match x with
  | .fin n m e => .fin (!n) m e
  | .inf n => .inf (!n)
  | .nan => .nan
  | .nav => .nav

/-- An integer as an exact number. -/
def Num.ofInt (i : Int) : Num := .fin (decide (i < 0)) i.natAbs 0

/-- A float format: bits of exponent and of fraction (02 R41). -/
structure FFmt where
  eb : Nat
  fb : Nat
  deriving DecidableEq, Repr

/-- binary32. -/
def f32 : FFmt := ⟨8, 23⟩
/-- binary16. -/
def f16 : FFmt := ⟨5, 10⟩
/-- bfloat16. -/
def bf16 : FFmt := ⟨8, 7⟩

/-- The float format of a type; integer and taper types have none and read as binary32. -/
def ffmtOf (t : Ty) : FFmt :=
  match t with
  | .f16 => f16
  | .bf16 => bf16
  | .f32 | .i8 | .i16 | .i32 | .i64 | .t8 | .t6 => f32

/-- Exponent bias. -/
def FFmt.bias (f : FFmt) : Nat := 2 ^ (f.eb - 1) - 1
/-- Exponent of the smallest normal number. -/
def FFmt.emin (f : FFmt) : Int := 1 - (f.bias : Int)
/-- Infinity without its sign. -/
def FFmt.infBits (f : FFmt) : Nat := (2 ^ f.eb - 1) * 2 ^ f.fb
/-- The canonical NaN (02 R41). -/
def FFmt.nanBits (f : FFmt) : Nat := f.infBits + 2 ^ (f.fb - 1)
/-- Place of the sign bit. -/
def FFmt.signAt (f : FFmt) : Nat := f.eb + f.fb
/-- A sign put on a magnitude. -/
def FFmt.withSign (f : FFmt) (neg : Bool) (mag : Nat) : Nat := if neg then 2 ^ f.signAt + mag else mag

/-- The exact value of a float's bits (02 R41). -/
def FFmt.decode (f : FFmt) (b : Nat) : Num :=
  let neg := b.testBit f.signAt
  let ex := b / 2 ^ f.fb % 2 ^ f.eb
  let fr := b % 2 ^ f.fb
  if ex = 2 ^ f.eb - 1 then if fr = 0 then .inf neg else .nan
  else if ex = 0 then .fin neg fr (f.emin - (f.fb : Int))
  else .fin neg (2 ^ f.fb + fr) ((ex : Int) - (f.bias : Int) - (f.fb : Int))

/-- Number of bits of a magnitude. -/
def bitLen (m : Nat) : Nat := if m = 0 then 0 else m.log2 + 1

/-- Whether a magnitude between `q` and `q + 1`, with remainder `r` of `d`, goes up to `q + 1` (02 R43). -/
def roundsUp (mode : RMode) (neg : Bool) (q r d : Nat) : Bool :=
  match mode with
  | .rne => decide (2 * r > d) || (decide (2 * r = d) && decide (q % 2 = 1))
  | .rtz => false
  | .rup => !neg && decide (r ≠ 0)
  | .rdn => neg && decide (r ≠ 0)

/-- `m` × 2^`e` as a whole number of 2^`q`, rounded, and whether it was inexact. -/
def roundAt (mode : RMode) (neg : Bool) (m : Nat) (e q : Int) : Nat × Bool :=
  if q ≤ e then (m * 2 ^ (e - q).toNat, false)
  else
    let d := 2 ^ (q - e).toNat
    let k := m / d
    let r := m % d
    (if roundsUp mode neg k r d then k + 1 else k, decide (r ≠ 0))

/-- What a rounded result beyond the largest finite value becomes (02 R43). -/
def overflowBits (f : FFmt) (mode : RMode) (neg : Bool) : Nat :=
  let toInf := match mode with
    | .rne => true
    | .rtz => false
    | .rup => !neg
    | .rdn => neg
  f.withSign neg (if toInf then f.infBits else f.infBits - 1)

/-- RoundRNE(x, f, mode) of an exact nonzero or zero dyadic, with the flags of 02 R44. -/
def roundFin (f : FFmt) (mode : RMode) (neg : Bool) (m : Nat) (e : Int) : Val :=
  if m = 0 then { bits := f.withSign neg 0 }
  else
    let top : Int := e + (bitLen m : Int) - 1
    let qfree := top - (f.fb : Int)
    let q := max qfree (f.emin - (f.fb : Int))
    let (k, inexact) := roundAt mode neg m e q
    let (kfree, _) := roundAt mode neg m e qfree
    let tiny := decide (qfree + (bitLen kfree : Int) - 1 < f.emin)
    let ktop : Int := q + (bitLen k : Int) - 1
    if (f.bias : Int) < ktop then { bits := overflowBits f mode neg, flags := fOF ||| fNX }
    else
      let ex := if bitLen k ≤ f.fb then 0 else (ktop + (f.bias : Int)).toNat
      let fr :=
        if bitLen k ≤ f.fb then k
        else (if bitLen k = f.fb + 2 then k / 2 else k) - 2 ^ f.fb
      { bits := f.withSign neg (ex * 2 ^ f.fb + fr)
        flags := flagIf inexact fNX ||| flagIf (inexact && tiny) fUF }

/-- A magnitude that more bits follow: the value lies strictly between `m` and `m + 1` units of 2^`e`. -/
def roundMore (f : FFmt) (mode : RMode) (neg : Bool) (m : Nat) (e : Int) : Val :=
  roundFin f mode neg (m * 2 ^ 64 + 1) (e - 64)

/-- The canonical NaN with flags (02 R42). -/
def FFmt.nan (f : FFmt) (fl : Flags) : Val := { bits := f.nanBits, flags := fl }

/-- Any exact value into a float format (02 R50). -/
def FFmt.encode (f : FFmt) (mode : RMode) (x : Num) : Val :=
  match x with
  | .nan | .nav => f.nan 0
  | .inf n => { bits := f.withSign n f.infBits }
  | .fin n m e => roundFin f mode n m e

/-- A signed magnitude at a common exponent. -/
def signedAt (neg : Bool) (m : Nat) (e lo : Int) : Int :=
  let k : Int := ((m * 2 ^ (e - lo).toNat : Nat) : Int)
  if neg then -k else k

/-- The exact sum of two numbers, none of them NaN and not infinities of opposite sign. The sign of an exact zero sum of
operands of opposite sign is + except in RDN (02 R43). -/
def Num.add (mode : RMode) (x y : Num) : Num :=
  match x, y with
  | .fin n1 m1 e1, .fin n2 m2 e2 =>
    let lo := min e1 e2
    let t := signedAt n1 m1 e1 lo + signedAt n2 m2 e2 lo
    if t = 0 then .fin (if n1 = n2 then n1 else mode == .rdn) 0 0
    else .fin (decide (t < 0)) t.natAbs lo
  | .inf n, _ => .inf n
  | _, .inf n => .inf n
  | _, _ => .nan

/-- The exact product of two numbers, not 0 × ∞. -/
def Num.mul (x y : Num) : Num :=
  match x, y with
  | .fin n1 m1 e1, .fin n2 m2 e2 => .fin (n1 != n2) (m1 * m2) (e1 + e2)
  | .inf n, z => if z.isNan then .nan else .inf (n != z.sign)
  | z, .inf n => if z.isNan then .nan else .inf (n != z.sign)
  | _, _ => .nan

/-- 0 × ∞ in either order. -/
def zeroTimesInf (x y : Num) : Bool := (x.isZero && y.isInf) || (x.isInf && y.isZero)

/-- Infinities of opposite sign. -/
def infMinusInf (x y : Num) : Bool := x.isInf && y.isInf && (x.sign != y.sign)

/-- A float sum rounded once (02 R43 R44). -/
def faddN (f : FFmt) (mode : RMode) (x y : Num) : Val :=
  if x.isNan || y.isNan then f.nan 0
  else if infMinusInf x y then f.nan fNV
  else f.encode mode (x.add mode y)

/-- A float product rounded once. -/
def fmulN (f : FFmt) (mode : RMode) (x y : Num) : Val :=
  if x.isNan || y.isNan then f.nan 0
  else if zeroTimesInf x y then f.nan fNV
  else f.encode mode (x.mul y)

/-- A fused multiply-add, rounded once. -/
def ffmaN (f : FFmt) (mode : RMode) (x y z : Num) : Val :=
  if x.isNan || y.isNan || z.isNan then f.nan 0
  else if zeroTimesInf x y then f.nan fNV
  else if infMinusInf (x.mul y) z then f.nan fNV
  else f.encode mode ((x.mul y).add mode z)

/-- FADD and VADD on floats. -/
def fadd (f : FFmt) (mode : RMode) (a b : Nat) : Val := faddN f mode (f.decode a) (f.decode b)
/-- FSUB and VSUB on floats. -/
def fsub (f : FFmt) (mode : RMode) (a b : Nat) : Val := faddN f mode (f.decode a) (f.decode b).neg
/-- FMUL and VMUL on floats. -/
def fmul (f : FFmt) (mode : RMode) (a b : Nat) : Val := fmulN f mode (f.decode a) (f.decode b)
/-- FFMA and VFMA on floats. -/
def ffma (f : FFmt) (mode : RMode) (a b c : Nat) : Val := ffmaN f mode (f.decode a) (f.decode b) (f.decode c)

/-- The order of two finite or infinite numbers, −0 equal to +0: x < y. -/
def Num.lt (x y : Num) : Bool :=
  match x, y with
  | .fin n1 m1 e1, .fin n2 m2 e2 =>
    let lo := min e1 e2
    decide (signedAt n1 m1 e1 lo < signedAt n2 m2 e2 lo)
  | .inf n, .inf k => n && !k
  | .inf n, .fin _ _ _ => n
  | .fin _ _ _, .inf k => !k
  | _, _ => false

/-- Equal as numbers. -/
def Num.eqv (x y : Num) : Bool := !x.isNan && !y.isNan && !x.lt y && !y.lt x

/-- −0 orders below +0 (02 R45). -/
def Num.minLt (x y : Num) : Bool := x.lt y || (x.eqv y && x.sign && !y.sign)

/-- minimumNumber (02 R45); `mx` for maximumNumber. -/
def fminmax (f : FFmt) (mx : Bool) (a b : Nat) : Val :=
  let x := f.decode a
  let y := f.decode b
  if x.isNan && y.isNan then f.nan 0
  else if x.isNan then { bits := b }
  else if y.isNan then { bits := a }
  else if mx then { bits := if x.minLt y then b else a }
  else { bits := if y.minLt x then b else a }

/-- The float column of 03 R72. -/
def fcond (k : Cond) (x y : Num) : Bool :=
  let u := x.isNan || y.isNan
  match k with
  | .eq => !u && x.eqv y
  | .ne => u || !x.eqv y
  | .lt => !u && x.lt y
  | .le => !u && !y.lt x
  | .gt => !u && y.lt x
  | .ge => !u && !x.lt y
  | .ltu => u
  | .geu => !u

/-- The integer column of 03 R72, on w-bit numbers. -/
def icond (k : Cond) {w : Nat} (a b : BitVec w) : Bool :=
  match k with
  | .eq => a == b
  | .ne => a != b
  | .lt => a.slt b
  | .le => a.sle b
  | .gt => b.slt a
  | .ge => b.sle a
  | .ltu => a.ult b
  | .geu => b.ule a

/-! ### Division, roots (02 R52) -/

/-- The quotient of magnitudes to 80 bits more than the operands have, with a last bit set when more follow. -/
def quotient (m1 : Nat) (e1 : Int) (m2 : Nat) (e2 : Int) : Nat × Int :=
  let k := bitLen m2 + 80
  let q := m1 * 2 ^ k / m2
  let more := decide (m1 * 2 ^ k % m2 ≠ 0)
  (2 * q + (if more then 1 else 0), e1 - e2 - (k : Int) - 1)

/-- VDIV and, with x = 1, VRCP (02 R52). -/
def fdivN (f : FFmt) (mode : RMode) (x y : Num) : Val :=
  if x.isNan || y.isNan then f.nan 0
  else
    let neg := x.sign != y.sign
    match x, y with
    | .inf _, .inf _ => f.nan fNV
    | .inf _, _ => { bits := f.withSign neg f.infBits }
    | _, .inf _ => { bits := f.withSign neg 0 }
    | .fin _ m1 e1, .fin _ m2 e2 =>
      if m2 = 0 then
        if m1 = 0 then f.nan fNV else { bits := f.withSign neg f.infBits, flags := fDZ }
      else
        let (m, e) := quotient m1 e1 m2 e2
        roundFin f mode neg m e
    | _, _ => f.nan 0

/-- Integer square root, bit by bit from bit `k - 1`. -/
def isqrtFrom (n : Nat) (k r : Nat) : Nat :=
  match k with
  | 0 => r
  | j + 1 =>
    let c := r + 2 ^ j
    if c * c ≤ n then isqrtFrom n j c else isqrtFrom n j r

/-- ⌊√n⌋. -/
def isqrt (n : Nat) : Nat := isqrtFrom n (bitLen n / 2 + 1) 0

/-- An even exponent at or below `e` with the magnitude scaled to it. -/
def evenExp (m : Nat) (e : Int) : Nat × Int := if e % 2 = 0 then (m, e) else (2 * m, e - 1)

/-- VSQRT (02 R52). -/
def fsqrtN (f : FFmt) (mode : RMode) (x : Num) : Val :=
  match x with
  | .nan | .nav => f.nan 0
  | .inf n => if n then f.nan fNV else { bits := f.infBits }
  | .fin n m e =>
    if m = 0 then { bits := f.withSign n 0 }
    else if n then f.nan fNV
    else
      let (m1, e1) := evenExp m e
      let r := isqrt (m1 * 2 ^ 160)
      let more := decide (r * r ≠ m1 * 2 ^ 160)
      roundFin f mode false (2 * r + (if more then 1 else 0)) (e1 / 2 - 81)

/-- VRSQ (02 R52). -/
def frsqN (f : FFmt) (mode : RMode) (x : Num) : Val :=
  match x with
  | .nan | .nav => f.nan 0
  | .inf n => if n then f.nan fNV else { bits := 0 }
  | .fin n m e =>
    if m = 0 then { bits := f.withSign n f.infBits, flags := fDZ }
    else if n then f.nan fNV
    else
      let (m1, e1) := evenExp m e
      let r := isqrt (2 ^ 400 / m1)
      let more := decide (r * r * m1 ≠ 2 ^ 400)
      roundFin f mode false (2 * r + (if more then 1 else 0)) (-(e1 / 2) - 201)

/-- VRCP (02 R52). -/
def frcpN (f : FFmt) (mode : RMode) (x : Num) : Val := fdivN f mode (.fin false 1 0) x

/-! ### Taper formats (02 R46 to R49) -/

/-- Bits of a magnitude code: 7 for t8, 5 for t6. -/
def taperBits (t6 : Bool) : Nat := if t6 then 5 else 7

/-- Length of the run of bits equal to `b` that starts at bit `k - 1` of `m`. -/
def runLength (m : Nat) (b : Bool) (k : Nat) : Nat :=
  match k with
  | 0 => 0
  | j + 1 => if m.testBit j = b then runLength m b j + 1 else 0

/-- The value of a nonzero magnitude code at bias 0: mantissa and exponent (02 R46 R47). -/
def taperMag (t6 : Bool) (m : Nat) : Nat × Int :=
  let n := taperBits t6
  let b := m.testBit (n - 1)
  let k := runLength m b n
  let rg : Int := if b then (k : Int) - 1 else -(k : Int)
  let rest := n - k - 1
  let tail := m % 2 ^ rest
  if t6 then (2 ^ rest + tail, rg - (rest : Int))
  else if rest = 0 then (1, 2 * rg)
  else
    let fl := rest - 1
    (2 ^ fl + tail % 2 ^ fl, 2 * rg + ((tail / 2 ^ fl : Nat) : Int) - (fl : Int))

/-- The exact value of a taper code under a bias (02 R46 to R48); bits [7:6] of a t6 byte are ignored. -/
def taperDecode (t6 : Bool) (bias : Int) (b : Nat) : Num :=
  let n := taperBits t6
  let m := b % 2 ^ n
  let neg := b.testBit n
  if m = 0 then if neg then .nav else .fin false 0 0
  else
    let (k, e) := taperMag t6 m
    .fin neg k (e + bias)

/-- Magnitudes compared: m1 × 2^e1 ≤ m2 × 2^e2. -/
def magLe (m1 : Nat) (e1 : Int) (m2 : Nat) (e2 : Int) : Bool :=
  let lo := min e1 e2
  decide (m1 * 2 ^ (e1 - lo).toNat ≤ m2 * 2 ^ (e2 - lo).toNat)

/-- The value of code `m`, 0 for code 0. -/
def taperVal (t6 : Bool) (m : Nat) : Nat × Int := if m = 0 then (0, 0) else taperMag t6 m

/-- The greatest code up to `k` whose value is at most the magnitude. -/
def taperBelow (t6 : Bool) (am : Nat) (ae : Int) (k : Nat) : Nat :=
  match k with
  | 0 => 0
  | j + 1 =>
    let (m, e) := taperVal t6 (j + 1)
    if magLe m e am ae then j + 1 else taperBelow t6 am ae j

/-- TaperRound(v, f, bias) (02 R49). -/
def taperRound (t6 : Bool) (bias : Int) (x : Num) : Val :=
  let n := taperBits t6
  let big := 2 ^ n - 1
  let code (neg : Bool) (m : Nat) : Nat := if neg then 2 ^ n + m else m
  match x with
  | .nan | .nav => { bits := 2 ^ n }
  | .inf neg => { bits := code neg big, flags := fTSAT }
  | .fin neg0 m e0 =>
    let e := e0 - bias
    let neg := neg0 && decide (m ≠ 0)
    let (bm, be) := taperMag t6 big
    if !magLe m e bm be then { bits := code neg big, flags := fTSAT }
    else
      let q := taperBelow t6 m e big
      let pick :=
        if q = big then q
        else
          let (m1, e1) := taperVal t6 q
          let (m2, e2) := taperVal t6 (q + 1)
          let lo := min e (min e1 e2)
          let twice := 2 * m * 2 ^ (e - lo).toNat
          let both := m1 * 2 ^ (e1 - lo).toNat + m2 * 2 ^ (e2 - lo).toNat
          if twice < both then q
          else if both < twice then q + 1
          else if q % 2 = 0 then q
          else q + 1
      { bits := if pick = 0 then 0 else code neg pick }

/-! ### Conversions (02 R50 R51) -/

/-- The signed value of the low `w` bits. -/
def signedOf (w : Nat) (b : Nat) : Int := (BitVec.ofNat w b).toInt

/-- Decode(x, t, bias) (02 R50). -/
def decodeElem (t : Ty) (bias : Int) (b : Nat) : Num :=
  match t with
  | .i8 => .ofInt (signedOf 8 b)
  | .i16 => .ofInt (signedOf 16 b)
  | .i32 => .ofInt (signedOf 32 b)
  | .i64 => .ofInt (signedOf 64 b)
  | .f16 => f16.decode b
  | .bf16 => bf16.decode b
  | .f32 => f32.decode b
  | .t8 => taperDecode false bias b
  | .t6 => taperDecode true bias b

/-- An exact number rounded to an integer in a mode (02 R50). -/
def roundInt (mode : RMode) (neg : Bool) (m : Nat) (e : Int) : Int :=
  let (k, _) := roundAt mode neg m e 0
  if neg then -(k : Int) else (k : Int)

/-- Sat(n, i_w) as bits, with the flag when it clamps (00 R8, 02 R40). -/
def satInt (w : Nat) (n : Int) : Val :=
  let hi : Int := 2 ^ (w - 1) - 1
  let lo : Int := -(2 ^ (w - 1))
  if hi < n then { bits := (BitVec.ofInt w hi).toNat, flags := fSAT }
  else if n < lo then { bits := (BitVec.ofInt w lo).toNat, flags := fSAT }
  else { bits := (BitVec.ofInt w n).toNat }

/-- An exact value into an integer of w bits (02 R50). -/
def toInt (w : Nat) (mode : RMode) (x : Num) : Val :=
  match x with
  | .nan | .nav => { bits := 0, flags := fSAT }
  | .inf neg => { bits := if neg then 2 ^ (w - 1) else 2 ^ (w - 1) - 1, flags := fSAT }
  | .fin neg m e => satInt w (roundInt mode neg m e)

/-- An exact value into a target format (02 R50). -/
def encodeElem (t : Ty) (bias : Int) (mode : RMode) (x : Num) : Val :=
  match t with
  | .i8 => toInt 8 mode x
  | .i16 => toInt 16 mode x
  | .i32 => toInt 32 mode x
  | .i64 => toInt 64 mode x
  | .f16 => f16.encode mode x
  | .bf16 => bf16.encode mode x
  | .f32 => f32.encode mode x
  | .t8 => taperRound false bias x
  | .t6 => taperRound true bias x

/-- Convert(x, fa, ba, ft, bt, mode) (02 R50). -/
def convert (fa : Ty) (ba : Int) (ft : Ty) (bt : Int) (mode : RMode) (b : Nat) : Val :=
  encodeElem ft bt mode (decodeElem fa ba b)

/-- A number times 2^n, exactly. -/
def Num.scale (x : Num) (n : Int) : Num :=
  match x with
  | .fin s m e => .fin s m (e + n)
  | .inf s => .inf s
  | .nan => .nan
  | .nav => .nav

/-- ⌊log₂|x|⌋ of a finite nonzero number (02 R57). -/
def floorLog2 (m : Nat) (e : Int) : Int := e + (bitLen m : Int) - 1

end Sys2Proof.Machine
end

