-- ==== Sys2Proof/Config.lean ====
section
/-! DEFINITION. What an installation or the boot flash fixes, and the free values: constants with no body, so that nothing
can be proved about a value the manual does not give. -/

namespace Sys2Proof.Config

/-- Bytes of the boot ROM (16 R416 gives its behaviour, not its contents; log 5). -/
opaque bootRom : Nat → Byte

/-- Whether an access whose page has a cached translation uses the cached one (11 R300: the old entry or the new one,
chosen per access; log 8). The argument is State.fresh. -/
opaque useCached : Nat → Bool

/-- Whether a fetch uses a line it has fetched before again, where reading it anew would give something else (03 R85; log 9). The
argument is State.fresh. -/
opaque reuseLine : Nat → Bool

/-- How many of the lines dirtied since a migration started were dirtied before its first round began (11 R306; log 81). The argument
is State.fresh. -/
opaque roundBegan : Nat → Nat

/-- The return address of a CALL whose delay positions cannot be found because a header after it cannot be read (log 18). -/
opaque retAddr : Nat → Word

/-- ECDSA P-384 over SHA-384 of header and body, with the image's public key and signature (16 R416 stage 0x05; log 5). -/
opaque ecdsaVerify : List Byte → List Byte → List Byte → Bool

/-- LMS_SHA256_M32_H10 with LMOTS_SHA256_N32_W4 (16 R416 stage 0x06; log 5). -/
opaque lmsVerify : List Byte → List Byte → List Byte → Bool

/-- Fused SHA-384 hash of the ECDSA public key (16 R416 stage 0x03; log 5). -/
opaque fusedEcdsaHash : BitVec 384

/-- Fused SHA-384 hash of the LMS public key (16 R416 stage 0x04; log 5). -/
opaque fusedLmsHash : BitVec 384

/-- Fused minimum security version of image kind `k` (16 R416 stage 0x02; log 5). -/
opaque fusedMinVersion : Nat → BitVec 8

/-- The copy of an image from the boot flash to its load address ends in an error (16 R416 stage 0x07; log 5). -/
opaque copyError : Nat → Bool

/-- How many of the notifications that wait the link has taken by now (16 R410; log 63). -/
opaque linkTakes : Nat → Nat

/-- Fields of a boot image whose places the manual does not give: its kind, load address and entry (16 R416; log 5). -/
opaque imageKind : List Byte → Nat

/-- The load address of a boot image (log 5). -/
opaque imageLoad : List Byte → Nat

/-- The entry of a boot image (log 5). -/
opaque imageEntry : List Byte → Word

/-- Parts of a boot image: 0 header and body, 1 body, 2 ECDSA key, 3 LMS key, 4 ECDSA signature, 5 LMS signature (log 5). -/
opaque imagePart : List Byte → Nat → List Byte

/-- Image `i` is the last of the boot flash's directory (log 5). -/
opaque imageLast : Nat → Bool

/-- Signature of the device key over a response (16 R421; log 5). -/
opaque deviceSign : List Byte → List Byte

/-- Certificate chain of slot 0 (16 R421; log 5). -/
opaque certChain : List Byte

/-- Module input power in W (16 R412 sensor 210; log 17). The argument is State.fresh. -/
opaque inputPower : Nat → Nat

/-- The voltage a rail is trimmed to, before the clamp of 13 R353 (log 7). Arguments: State.fresh, die, column. -/
opaque railTrim : Nat → Nat → Nat → Nat

/-- The context number in which another chip has issued a put or a send. Its accesses here are made in the context of that number
(11 R292), but no field of the header carries it (14 R369): what this chip knows of it comes from outside the model (log 37). Arguments:
source chip, sequence. -/
opaque issuerCtx : Nat → Nat → BitVec 6

/-- Whether a refused request failed at its barrier rather than at its destination, which its acknowledgement does not say
(11 R299, 14 R375; log 41). The argument is State.fresh. -/
opaque refusedAtBar : Nat → Bool

/-- SH.KIND of a level-4 record on its way to the lead chip, which the manual does not give (09 R248, 14 R369; log 39). -/
opaque podKind : BitVec 8

/-- Whether the pod has ended a level-4 record without a completion block, which its own chip is told nowhere (09 R248; log 28). The
argument is State.fresh. -/
opaque podEnded : Nat → Bool

/-- How such a record has ended (09 R248; log 28). The argument is State.fresh. -/
opaque podCode : Nat → BitVec 8

/-- The address of such a report (log 28). The argument is State.fresh. -/
opaque podAddr : Nat → Word

/-- Byte `i` of a save slot after a context has been written to it, none where it keeps what it held (12 R320 R322; log 10). Arguments:
State.fresh, byte. -/
opaque savedByte : Nat → Nat → Option Byte

/-- The chip that is the pod's time root, which no register of a follower names (15 R388; log 40). -/
opaque timeRoot : Nat

/-- The offset from its parent that a follower measures, in ns (15 R388; log 40). The argument is State.fresh. -/
opaque parentOffset : Nat → Int

end Sys2Proof.Config
end

