-- ==== Sys2Proof/Decode.lean ====
section
/-! DEFINITION. The instruction word and the bundle header as bits (03 R59 R65), the reading of a word in its slot
(03 R74 to R79), rejecting by name, the reading of a header, and the encoder written from the same tables. -/

namespace Sys2Proof

/-- The type code (02 R39). -/
def Ty.bits (t : Ty) : BitVec 4 :=
  match t with
  | .i8 => 0
  | .i16 => 1
  | .i32 => 2
  | .i64 => 3
  | .f16 => 4
  | .bf16 => 5
  | .f32 => 6
  | .t8 => 7
  | .t6 => 8

/-- The rounding field (02 R43). -/
def RMode.bits (m : RMode) : BitVec 3 :=
  match m with
  | .rne => 0
  | .rtz => 1
  | .rup => 2
  | .rdn => 3

/-- The condition field (03 R72). -/
def Cond.bits (k : Cond) : BitVec 3 :=
  match k with
  | .eq => 0
  | .ne => 1
  | .lt => 2
  | .le => 3
  | .gt => 4
  | .ge => 5
  | .ltu => 6
  | .geu => 7

/-- Codes 9 to 15 are no type (02 R39). -/
def Ty.ofBits (b : BitVec 4) : Option Ty :=
  match b.toNat with
  | 0 => some .i8
  | 1 => some .i16
  | 2 => some .i32
  | 3 => some .i64
  | 4 => some .f16
  | 5 => some .bf16
  | 6 => some .f32
  | 7 => some .t8
  | 8 => some .t6
  | _ => none

/-- Codes 4 to 7 are no mode (02 R43). -/
def RMode.ofBits (b : BitVec 3) : Option RMode :=
  match b.toNat with
  | 0 => some .rne
  | 1 => some .rtz
  | 2 => some .rup
  | 3 => some .rdn
  | _ => none

/-- The condition of a field. -/
def Cond.ofBits (b : BitVec 3) : Cond :=
  match b.toNat with
  | 0 => .eq
  | 1 => .ne
  | 2 => .lt
  | 3 => .le
  | 4 => .gt
  | 5 => .ge
  | 6 => .ltu
  | _ => .geu

/-- The fields of an instruction word (03 R65). -/
structure Fields where
  fn : BitVec 7 := 0
  ctl : Ctl := {}
  e : BitVec 6 := 0
  c : BitVec 6 := 0
  b : BitVec 6 := 0
  a : BitVec 6 := 0
  d : BitVec 6 := 0
  opc : BitVec 8 := 0
  deriving DecidableEq, Repr

/-- INS.FN[60:57]. -/
def Fields.lo4 (f : Fields) : BitVec 4 := f.fn.extractLsb' 0 4
/-- INS.FN[63:61]. -/
def Fields.hi3 (f : Fields) : BitVec 3 := f.fn.extractLsb' 4 3

/-- A flag as one bit. -/
def bit1 (x : Bool) : BitVec 1 := BitVec.ofBool x
/-- A flag in a field of six bits. -/
def bit6 (x : Bool) : BitVec 6 := if x then 1 else 0
/-- A flag in a field of seven bits. -/
def bit7 (x : Bool) : BitVec 7 := if x then 1 else 0

/-- The word of the fields, from bit 63 down (03 R65). -/
def Fields.pack (f : Fields) : BitVec 64 :=
  f.fn ++ f.ctl.sch ++ f.ctl.ch ++ f.ctl.fe ++ bit1 f.ctl.g2n ++ f.ctl.g2 ++ bit1 f.ctl.g1n ++ f.ctl.g1 ++ f.e ++ f.c ++
    f.b ++ f.a ++ f.d ++ f.opc

/-- The fields of a word (03 R65). -/
def Fields.unpack (w : BitVec 64) : Fields where
  fn := w.extractLsb' 57 7
  ctl :=
    { sch := w.extractLsb' 54 3, ch := w.extractLsb' 52 2, fe := w.extractLsb' 48 4, g2n := w.getLsbD 47,
      g2 := w.extractLsb' 43 4, g1n := w.getLsbD 42, g1 := w.extractLsb' 38 4 }
  e := w.extractLsb' 32 6
  c := w.extractLsb' 26 6
  b := w.extractLsb' 20 6
  a := w.extractLsb' 14 6
  d := w.extractLsb' 8 6
  opc := w.extractLsb' 0 8

/-- The fields an instruction's encoding table gives it (05 R100 R115 R121 R126, 06 R141, 07 R164, 08 R204; opcodes 03 R74
to R79); `none` for what is no instruction word. -/
def Instr.fields (i : Instr) : Option Fields :=
  match i with
  | .bprep c d imm => some { ctl := c, opc := 0x1#8, fn := imm.extractLsb' 18 7, e := imm.extractLsb' 12 6, c := imm.extractLsb' 6 6, b := imm.extractLsb' 0 6, d := d }
  | .bpreps c d a => some { ctl := c, opc := 0x2#8, a := a, d := d }
  | .br c a => some { ctl := c, opc := 0x3#8, a := a }
  | .call c a => some { ctl := c, opc := 0x4#8, a := a }
  | .ret c => some { ctl := c, opc := 0x5#8 }
  | .loopset c a n => some { ctl := c, opc := 0x6#8, fn := (0#1) ++ n, a := a }
  | .loopbrk c n => some { ctl := c, opc := 0x7#8, fn := (0#4) ++ n }
  | .endTask c => some { ctl := c, opc := 0x8#8 }
  | .yield c => some { ctl := c, opc := 0x9#8 }
  | .wait c a b => some { ctl := c, opc := 0xa#8, b := b, a := a }
  | .waitt c a => some { ctl := c, opc := 0xb#8, a := a }
  | .trap c n => some { ctl := c, opc := 0xc#8, fn := n }
  | .eret c => some { ctl := c, opc := 0xd#8 }
  | .brk c n => some { ctl := c, opc := 0xe#8, fn := n }
  | .mfsr c d n => some { ctl := c, opc := 0xf#8, a := n, d := d }
  | .mtsr c n a => some { ctl := c, opc := 0x10#8, a := a, d := n }
  | .sleep c => some { ctl := c, opc := 0x11#8 }
  | .evpop c d => some { ctl := c, opc := 0x12#8, d := d }
  | .add c d a b => some { ctl := c, opc := 0x1#8, b := b, a := a, d := d }
  | .addi c d a imm => some { ctl := c, opc := 0x2#8, fn := imm.extractLsb' 18 7, e := imm.extractLsb' 12 6, c := imm.extractLsb' 6 6, b := imm.extractLsb' 0 6, a := a, d := d }
  | .sub c d a b => some { ctl := c, opc := 0x3#8, b := b, a := a, d := d }
  | .and c d a b => some { ctl := c, opc := 0x4#8, b := b, a := a, d := d }
  | .andi c d a imm => some { ctl := c, opc := 0x5#8, fn := imm.extractLsb' 18 7, e := imm.extractLsb' 12 6, c := imm.extractLsb' 6 6, b := imm.extractLsb' 0 6, a := a, d := d }
  | .or c d a b => some { ctl := c, opc := 0x6#8, b := b, a := a, d := d }
  | .ori c d a imm => some { ctl := c, opc := 0x7#8, fn := imm.extractLsb' 18 7, e := imm.extractLsb' 12 6, c := imm.extractLsb' 6 6, b := imm.extractLsb' 0 6, a := a, d := d }
  | .xor c d a b => some { ctl := c, opc := 0x8#8, b := b, a := a, d := d }
  | .xori c d a imm => some { ctl := c, opc := 0x9#8, fn := imm.extractLsb' 18 7, e := imm.extractLsb' 12 6, c := imm.extractLsb' 6 6, b := imm.extractLsb' 0 6, a := a, d := d }
  | .shl c d a b => some { ctl := c, opc := 0xa#8, b := b, a := a, d := d }
  | .shli c d a imm => some { ctl := c, opc := 0xb#8, fn := imm.extractLsb' 18 7, e := imm.extractLsb' 12 6, c := imm.extractLsb' 6 6, b := imm.extractLsb' 0 6, a := a, d := d }
  | .shr c d a b => some { ctl := c, opc := 0xc#8, b := b, a := a, d := d }
  | .shri c d a imm => some { ctl := c, opc := 0xd#8, fn := imm.extractLsb' 18 7, e := imm.extractLsb' 12 6, c := imm.extractLsb' 6 6, b := imm.extractLsb' 0 6, a := a, d := d }
  | .sar c d a b => some { ctl := c, opc := 0xe#8, b := b, a := a, d := d }
  | .sari c d a imm => some { ctl := c, opc := 0xf#8, fn := imm.extractLsb' 18 7, e := imm.extractLsb' 12 6, c := imm.extractLsb' 6 6, b := imm.extractLsb' 0 6, a := a, d := d }
  | .rotl c d a b => some { ctl := c, opc := 0x10#8, b := b, a := a, d := d }
  | .min c d a b => some { ctl := c, opc := 0x11#8, b := b, a := a, d := d }
  | .max c d a b => some { ctl := c, opc := 0x12#8, b := b, a := a, d := d }
  | .minu c d a b => some { ctl := c, opc := 0x13#8, b := b, a := a, d := d }
  | .maxu c d a b => some { ctl := c, opc := 0x14#8, b := b, a := a, d := d }
  | .adds c d a b => some { ctl := c, opc := 0x23#8, b := b, a := a, d := d }
  | .subs c d a b => some { ctl := c, opc := 0x24#8, b := b, a := a, d := d }
  | .abs c d a => some { ctl := c, opc := 0x15#8, a := a, d := d }
  | .clz c d a => some { ctl := c, opc := 0x16#8, a := a, d := d }
  | .ctz c d a => some { ctl := c, opc := 0x17#8, a := a, d := d }
  | .popc c d a => some { ctl := c, opc := 0x18#8, a := a, d := d }
  | .brev c d a => some { ctl := c, opc := 0x19#8, a := a, d := d }
  | .mov c d a => some { ctl := c, opc := 0x1f#8, a := a, d := d }
  | .movi c d imm => some { ctl := c, opc := 0x20#8, fn := imm.extractLsb' 18 7, e := imm.extractLsb' 12 6, c := imm.extractLsb' 6 6, b := imm.extractLsb' 0 6, d := d }
  | .movhi c d imm => some { ctl := c, opc := 0x21#8, fn := imm.extractLsb' 18 7, e := imm.extractLsb' 12 6, c := imm.extractLsb' 6 6, b := imm.extractLsb' 0 6, d := d }
  | .sext c d a w => some { ctl := c, opc := 0x1a#8, fn := (0#1) ++ w, a := a, d := d }
  | .zext c d a w => some { ctl := c, opc := 0x1b#8, fn := (0#1) ++ w, a := a, d := d }
  | .bfx c d a pos w => some { ctl := c, opc := 0x1c#8, fn := (0#1) ++ w, e := pos, a := a, d := d }
  | .bfi c d a pos w => some { ctl := c, opc := 0x1d#8, fn := (0#1) ++ w, e := pos, a := a, d := d }
  | .lea c d a b sh => some { ctl := c, opc := 0x22#8, fn := (0#4) ++ sh, b := b, a := a, d := d }
  | .sel c d x a b => some { ctl := c, opc := 0x1e#8, c := x, b := b, a := a, d := d }
  | .cmp c k d a b => some { ctl := c, opc := 0x25#8, fn := k.bits ++ (0#4), b := b, a := a, d := d }
  | .cmpi c k d a imm => some { ctl := c, opc := 0x26#8, fn := k.bits ++ imm.extractLsb' 18 4, e := imm.extractLsb' 12 6, c := imm.extractLsb' 6 6, b := imm.extractLsb' 0 6, a := a, d := d }
  | .pand c d a b => some { ctl := c, opc := 0x27#8, b := b, a := a, d := d }
  | .por c d a b => some { ctl := c, opc := 0x28#8, b := b, a := a, d := d }
  | .pxor c d a b => some { ctl := c, opc := 0x29#8, b := b, a := a, d := d }
  | .pnot c d a => some { ctl := c, opc := 0x2a#8, a := a, d := d }
  | .pmov c d a => some { ctl := c, opc := 0x2b#8, a := a, d := d }
  | .fadd c m d a b => some { ctl := c, opc := 0x2c#8, fn := m.bits ++ (0#4), b := b, a := a, d := d }
  | .fsub c m d a b => some { ctl := c, opc := 0x2d#8, fn := m.bits ++ (0#4), b := b, a := a, d := d }
  | .fmul c m d a b => some { ctl := c, opc := 0x2e#8, fn := m.bits ++ (0#4), b := b, a := a, d := d }
  | .ffma c m d a b x => some { ctl := c, opc := 0x2f#8, fn := m.bits ++ (0#4), c := x, b := b, a := a, d := d }
  | .fmin c d a b => some { ctl := c, opc := 0x30#8, b := b, a := a, d := d }
  | .fmax c d a b => some { ctl := c, opc := 0x31#8, b := b, a := a, d := d }
  | .fcmp c k d a b => some { ctl := c, opc := 0x32#8, fn := k.bits ++ (0#4), b := b, a := a, d := d }
  | .fcvti c t m d a => some { ctl := c, opc := 0x33#8, fn := (m.bits ++ t.bits), a := a, d := d }
  | .icvtf c t m d a => some { ctl := c, opc := 0x34#8, fn := (m.bits ++ t.bits), a := a, d := d }
  | .mul c d a b => some { ctl := c, opc := 0x40#8, b := b, a := a, d := d }
  | .muli c d a imm => some { ctl := c, opc := 0x47#8, fn := imm.extractLsb' 18 7, e := imm.extractLsb' 12 6, c := imm.extractLsb' 6 6, b := imm.extractLsb' 0 6, a := a, d := d }
  | .mulh c d a b => some { ctl := c, opc := 0x41#8, b := b, a := a, d := d }
  | .mulhu c d a b => some { ctl := c, opc := 0x42#8, b := b, a := a, d := d }
  | .div c d a b => some { ctl := c, opc := 0x43#8, b := b, a := a, d := d }
  | .divu c d a b => some { ctl := c, opc := 0x44#8, b := b, a := a, d := d }
  | .rem c d a b => some { ctl := c, opc := 0x45#8, b := b, a := a, d := d }
  | .remu c d a b => some { ctl := c, opc := 0x46#8, b := b, a := a, d := d }
  | .vadd c t m d a b => some { ctl := c, opc := 0x1#8, fn := (m.bits ++ t.bits), b := b, a := a, d := d }
  | .vsub c t m d a b => some { ctl := c, opc := 0x2#8, fn := (m.bits ++ t.bits), b := b, a := a, d := d }
  | .vmul c t m d a b => some { ctl := c, opc := 0x3#8, fn := (m.bits ++ t.bits), b := b, a := a, d := d }
  | .vfma c t m d a b x => some { ctl := c, opc := 0x4#8, fn := (m.bits ++ t.bits), c := x, b := b, a := a, d := d }
  | .vmin c t d a b => some { ctl := c, opc := 0x5#8, fn := ((0#3) ++ t.bits), b := b, a := a, d := d }
  | .vmax c t d a b => some { ctl := c, opc := 0x6#8, fn := ((0#3) ++ t.bits), b := b, a := a, d := d }
  | .vabs c t d a => some { ctl := c, opc := 0x7#8, fn := ((0#3) ++ t.bits), a := a, d := d }
  | .vneg c t d a => some { ctl := c, opc := 0x8#8, fn := ((0#3) ++ t.bits), a := a, d := d }
  | .vand c t d a b => some { ctl := c, opc := 0x9#8, fn := ((0#3) ++ t.bits), b := b, a := a, d := d }
  | .vor c t d a b => some { ctl := c, opc := 0xa#8, fn := ((0#3) ++ t.bits), b := b, a := a, d := d }
  | .vxor c t d a b => some { ctl := c, opc := 0xb#8, fn := ((0#3) ++ t.bits), b := b, a := a, d := d }
  | .vnot c t d a => some { ctl := c, opc := 0xc#8, fn := ((0#3) ++ t.bits), a := a, d := d }
  | .vshl c t d a b => some { ctl := c, opc := 0xd#8, fn := ((0#3) ++ t.bits), b := b, a := a, d := d }
  | .vshr c t d a b => some { ctl := c, opc := 0xe#8, fn := ((0#3) ++ t.bits), b := b, a := a, d := d }
  | .vsar c t d a b => some { ctl := c, opc := 0xf#8, fn := ((0#3) ++ t.bits), b := b, a := a, d := d }
  | .vadds c t d a b => some { ctl := c, opc := 0x10#8, fn := ((0#3) ++ t.bits), b := b, a := a, d := d }
  | .vsubs c t d a b => some { ctl := c, opc := 0x11#8, fn := ((0#3) ++ t.bits), b := b, a := a, d := d }
  | .vmulh c t d a b => some { ctl := c, opc := 0x12#8, fn := ((0#3) ++ t.bits), b := b, a := a, d := d }
  | .vcmp c t k d a b => some { ctl := c, opc := 0x13#8, fn := (k.bits ++ t.bits), b := b, a := a, d := d }
  | .vsel c t d x a b => some { ctl := c, opc := 0x14#8, fn := ((0#3) ++ t.bits), c := x, b := b, a := a, d := d }
  | .vmov c t d a => some { ctl := c, opc := 0x15#8, fn := ((0#3) ++ t.bits), a := a, d := d }
  | .vbcast c t d a => some { ctl := c, opc := 0x16#8, fn := ((0#3) ++ t.bits), a := a, d := d }
  | .vext c t d a b => some { ctl := c, opc := 0x17#8, fn := ((0#3) ++ t.bits), b := b, a := a, d := d }
  | .vins c t d a b => some { ctl := c, opc := 0x18#8, fn := ((0#3) ++ t.bits), b := b, a := a, d := d }
  | .vperm c t d a b => some { ctl := c, opc := 0x19#8, fn := ((0#3) ++ t.bits), b := b, a := a, d := d }
  | .vrot c t d a b => some { ctl := c, opc := 0x1a#8, fn := ((0#3) ++ t.bits), b := b, a := a, d := d }
  | .vslide c t d a b x => some { ctl := c, opc := 0x1b#8, fn := ((0#3) ++ t.bits), c := x, b := b, a := a, d := d }
  | .vzip c t d a b h => some { ctl := c, opc := 0x1c#8, fn := ((0#3) ++ t.bits), e := bit6 h, b := b, a := a, d := d }
  | .vunzip c t d a b h => some { ctl := c, opc := 0x1d#8, fn := ((0#3) ++ t.bits), e := bit6 h, b := b, a := a, d := d }
  | .vredadd c t d a => some { ctl := c, opc := 0x1e#8, fn := ((0#3) ++ t.bits), a := a, d := d }
  | .vredmin c t d a => some { ctl := c, opc := 0x1f#8, fn := ((0#3) ++ t.bits), a := a, d := d }
  | .vredmax c t d a => some { ctl := c, opc := 0x20#8, fn := ((0#3) ++ t.bits), a := a, d := d }
  | .vscan c t d a => some { ctl := c, opc := 0x21#8, fn := ((0#3) ++ t.bits), a := a, d := d }
  | .vany c t d a => some { ctl := c, opc := 0x22#8, fn := ((0#3) ++ t.bits), a := a, d := d }
  | .vall c t d a => some { ctl := c, opc := 0x23#8, fn := ((0#3) ++ t.bits), a := a, d := d }
  | .vpopc c t d a => some { ctl := c, opc := 0x24#8, fn := ((0#3) ++ t.bits), a := a, d := d }
  | .vrcp c t m d a => some { ctl := c, opc := 0x25#8, fn := (m.bits ++ t.bits), a := a, d := d }
  | .vrsq c t m d a => some { ctl := c, opc := 0x26#8, fn := (m.bits ++ t.bits), a := a, d := d }
  | .vsqrt c t m d a => some { ctl := c, opc := 0x27#8, fn := (m.bits ++ t.bits), a := a, d := d }
  | .vexp2 c t m d a => some { ctl := c, opc := 0x28#8, fn := (m.bits ++ t.bits), a := a, d := d }
  | .vlog2 c t m d a => some { ctl := c, opc := 0x29#8, fn := (m.bits ++ t.bits), a := a, d := d }
  | .vtanh c t m d a => some { ctl := c, opc := 0x2a#8, fn := (m.bits ++ t.bits), a := a, d := d }
  | .vsigm c t m d a => some { ctl := c, opc := 0x2b#8, fn := (m.bits ++ t.bits), a := a, d := d }
  | .vdiv c t m d a b => some { ctl := c, opc := 0x2c#8, fn := (m.bits ++ t.bits), b := b, a := a, d := d }
  | .vcvt c t m d a fs j => some { ctl := c, opc := 0x2d#8, fn := (m.bits ++ t.bits), e := (0#2) ++ fs.bits, c := j, a := a, d := d }
  | .vmaxexp c t a => some { ctl := c, opc := 0x2e#8, fn := ((0#3) ++ t.bits), a := a }
  | .vqcvt c t d a fq j => some { ctl := c, opc := 0x2f#8, fn := ((0#3) ++ t.bits), e := (0#2) ++ fq.bits, c := j, a := a, d := d }
  | .vdq c t m d a fq j => some { ctl := c, opc := 0x30#8, fn := (m.bits ++ t.bits), e := (0#2) ++ fq.bits, c := j, a := a, d := d }
  | .vfxcvt c t m d a n j => some { ctl := c, opc := 0x31#8, fn := (m.bits ++ t.bits), e := n, c := j, a := a, d := d }
  | .vflcvt c t m d a n j => some { ctl := c, opc := 0x32#8, fn := (m.bits ++ t.bits), e := n, c := j, a := a, d := d }
  | .viota c t d => some { ctl := c, opc := 0x33#8, fn := ((0#3) ++ t.bits), d := d }
  | .vclz c t d a => some { ctl := c, opc := 0x34#8, fn := ((0#3) ++ t.bits), a := a, d := d }
  | .osclaim c d n any => some { ctl := c, opc := 0x1#8, fn := bit7 any, a := n, d := d }
  | .osrel c n => some { ctl := c, opc := 0x2#8, a := n }
  | .osld c n a b => some { ctl := c, opc := 0x3#8, b := b, a := a, d := n }
  | .mwld c t n b => some { ctl := c, opc := 0x4#8, fn := ((0#3) ++ t.bits), b := b, a := n }
  | .mma c t acc n b h => some { ctl := c, opc := 0x5#8, fn := ((0#3) ++ t.bits), e := bit6 h, b := b, a := n, d := acc }
  | .mmaz c t acc n b h => some { ctl := c, opc := 0x6#8, fn := ((0#3) ++ t.bits), e := bit6 h, b := b, a := n, d := acc }
  | .maccz c t acc => some { ctl := c, opc := 0x7#8, fn := ((0#3) ++ t.bits), d := acc }
  | .maccrd c d acc b => some { ctl := c, opc := 0x8#8, b := b, a := acc, d := d }
  | .maccwr c acc a b => some { ctl := c, opc := 0x9#8, b := b, a := a, d := acc }
  | .maccst c acc b x => some { ctl := c, opc := 0xa#8, c := x, b := b, a := acc }
  | .maccld c t acc b x => some { ctl := c, opc := 0xb#8, fn := ((0#3) ++ t.bits), c := x, b := b, d := acc }
  | .mwait c acc => some { ctl := c, opc := 0xc#8, a := acc }
  | .mfence c => some { ctl := c, opc := 0xd#8 }
  | .ld c t d a disp => some { ctl := c, opc := 0x1#8, fn := ((0#3) ++ t.bits), e := disp.extractLsb' 12 6, c := disp.extractLsb' 6 6, b := disp.extractLsb' 0 6, a := a, d := d }
  | .st c t d a disp => some { ctl := c, opc := 0x2#8, fn := ((0#3) ++ t.bits), e := disp.extractLsb' 12 6, c := disp.extractLsb' 6 6, b := disp.extractLsb' 0 6, a := a, d := d }
  | .ldl c t d a disp => some { ctl := c, opc := 0x3#8, fn := ((0#3) ++ t.bits), e := disp.extractLsb' 12 6, c := disp.extractLsb' 6 6, b := disp.extractLsb' 0 6, a := a, d := d }
  | .stl c t d a disp => some { ctl := c, opc := 0x4#8, fn := ((0#3) ++ t.bits), e := disp.extractLsb' 12 6, c := disp.extractLsb' 6 6, b := disp.extractLsb' 0 6, a := a, d := d }
  | .vld c t d a disp => some { ctl := c, opc := 0x5#8, fn := ((0#3) ++ t.bits), e := disp.extractLsb' 12 6, c := disp.extractLsb' 6 6, b := disp.extractLsb' 0 6, a := a, d := d }
  | .vst c t d a disp => some { ctl := c, opc := 0x6#8, fn := ((0#3) ++ t.bits), e := disp.extractLsb' 12 6, c := disp.extractLsb' 6 6, b := disp.extractLsb' 0 6, a := a, d := d }
  | .vldl c t d a disp => some { ctl := c, opc := 0x7#8, fn := ((0#3) ++ t.bits), e := disp.extractLsb' 12 6, c := disp.extractLsb' 6 6, b := disp.extractLsb' 0 6, a := a, d := d }
  | .vstl c t d a disp => some { ctl := c, opc := 0x8#8, fn := ((0#3) ++ t.bits), e := disp.extractLsb' 12 6, c := disp.extractLsb' 6 6, b := disp.extractLsb' 0 6, a := a, d := d }
  | .vlds c t l d a b => some { ctl := c, opc := 0x9#8, fn := (0#2) ++ bit1 l ++ t.bits, b := b, a := a, d := d }
  | .vsts c t l d a b => some { ctl := c, opc := 0xa#8, fn := (0#2) ++ bit1 l ++ t.bits, b := b, a := a, d := d }
  | .vldx c t l d a b => some { ctl := c, opc := 0xb#8, fn := (0#2) ++ bit1 l ++ t.bits, b := b, a := a, d := d }
  | .vstx c t l d a b => some { ctl := c, opc := 0xc#8, fn := (0#2) ++ bit1 l ++ t.bits, b := b, a := a, d := d }
  | .ldblk c d a n ev => some { ctl := c, opc := 0xd#8, fn := bit1 ev ++ n, a := a, d := d }
  | .blkrel c a => some { ctl := c, opc := 0xe#8, a := a }
  | .regmap c n a b x => some { ctl := c, opc := 0xf#8, e := n, c := x, b := b, a := a }
  | .regflush c n b => some { ctl := c, opc := 0x10#8, e := n, b := b }
  | .regdrop c n b => some { ctl := c, opc := 0x11#8, e := n, b := b }
  | .aadd c t d a b => some { ctl := c, opc := 0x12#8, fn := ((0#3) ++ t.bits), b := b, a := a, d := d }
  | .amin c t d a b => some { ctl := c, opc := 0x13#8, fn := ((0#3) ++ t.bits), b := b, a := a, d := d }
  | .amax c t d a b => some { ctl := c, opc := 0x14#8, fn := ((0#3) ++ t.bits), b := b, a := a, d := d }
  | .aand c t d a b => some { ctl := c, opc := 0x15#8, fn := ((0#3) ++ t.bits), b := b, a := a, d := d }
  | .aor c t d a b => some { ctl := c, opc := 0x16#8, fn := ((0#3) ++ t.bits), b := b, a := a, d := d }
  | .axor c t d a b => some { ctl := c, opc := 0x17#8, fn := ((0#3) ++ t.bits), b := b, a := a, d := d }
  | .axchg c t d a b => some { ctl := c, opc := 0x18#8, fn := ((0#3) ++ t.bits), b := b, a := a, d := d }
  | .acas c t d a b x => some { ctl := c, opc := 0x19#8, fn := ((0#3) ++ t.bits), c := x, b := b, a := a, d := d }
  | .aaddw c d a b => some { ctl := c, opc := 0x1a#8, b := b, a := a, d := d }
  | .ared c t a b op => some { ctl := c, opc := 0x1b#8, fn := ((0#3) ++ t.bits), e := op, b := b, a := a }
  | .fence c n => some { ctl := c, opc := 0x1c#8, fn := (0#4) ++ n }
  | .push c d a q => some { ctl := c, opc := 0x1d#8, e := q, a := a, d := d }
  | .pushc c d a => some { ctl := c, opc := 0x1e#8, a := a, d := d }
  | .barinit c a b => some { ctl := c, opc := 0x1f#8, b := b, a := a }
  | .bararr c d a b => some { ctl := c, opc := 0x20#8, b := b, a := a, d := d }
  | .waitmem c k d a b x => some { ctl := c, opc := 0x21#8, fn := k.bits ++ (0#4), c := x, b := b, a := a, d := d }
  | .fatom c op t d a b x y => some { ctl := c, opc := 0x22#8, fn := (op ++ t.bits), e := y, c := x, b := b, a := a, d := d }
  | .frel c => some { ctl := c, opc := 0x23#8 }
  | .emptyPosition => none
  | .producerWriteback _ _ => none
  | .deferredFault _ => none
  | .interruptEntry => none
  | .sideLogReplay _ => none
  | .regionWriteback _ => none
  | .blockFilled _ _ => none
  | .matrixEntryStart _ _ => none
  | .matrixEntryComplete _ _ => none
  | .copyCommand _ _ _ => none
  | .gatherCommand _ _ _ => none
  | .engineCommandStart _ _ _ => none
  | .engineCommandComplete _ _ => none
  | .mcmdOsrel _ _ _ => none
  | .mcmdOsld _ _ _ => none
  | .mcmdMwld _ _ _ => none
  | .mcmdMma _ _ _ => none
  | .mcmdMmaz _ _ _ => none
  | .mcmdMaccz _ _ _ => none
  | .mcmdMaccst _ _ _ => none
  | .mcmdMaccld _ _ _ => none
  | .fabricPut _ _ => none
  | .fabricSend _ _ => none
  | .tmatmul _ _ _ => none
  | .tewise _ _ _ => none
  | .treduce _ _ _ => none
  | .ttopk _ _ _ => none
  | .tcopy _ _ _ => none
  | .tgather _ _ _ => none
  | .tcast _ _ _ => none
  | .ttrans _ _ _ => none
  | .tfill _ _ _ => none
  | .tlaunch _ _ _ => none
  | .tbind _ _ _ => none
  | .tbarrier _ _ _ => none
  | .tallred _ _ _ => none
  | .tileComplete _ => none
  | .tbarrierComplete _ => none
  | .podRecordDelivery _ _ _ _ => none
  | .launchActivate _ => none
  | .stampedGatherDone _ => none
  | .stampedStrandNext _ => none
  | .taskDispatch _ _ => none
  | .taskComplete _ => none
  | .taskReport _ _ => none
  | .taskStop _ => none
  | .taskResume _ _ => none
  | .waitResumable _ _ => none
  | .watchdogExpiry _ => none
  | .eventRecordPost _ => none
  | .governorWindow _ => none
  | .hbmTempRead _ _ => none
  | .hbmRefresh _ _ => none
  | .coreSensorSample _ _ _ => none
  | .thermalTrip _ => none
  | .clockChangeProceed => none
  | .clockRailsTrimmed => none
  | .clockSwitchDone => none
  | .coreGated _ => none
  | .coreOnline _ => none
  | .gatedPortWake _ => none
  | .l2winFilled _ _ => none
  | .shootdownComplete _ => none
  | .migrationRound _ => none
  | .migrationSwitch _ => none
  | .slotHandover _ => none
  | .slotHeaderReceive _ _ _ _ _ => none
  | .ackReceive _ _ => none
  | .forwardHoldExpiry _ => none
  | .resendTimeout _ => none
  | .completionRecordExpiry _ => none
  | .bankSwitch _ => none
  | .laneLock _ => none
  | .lineFailure _ _ => none
  | .lineRestore _ _ => none
  | .retuneStart _ _ => none
  | .retuneEnd _ _ => none
  | .orderedDelivery => none
  | .orderedIncompleteDiscard _ => none
  | .watermarkStall _ _ => none
  | .fatomSendRelease _ => none
  | .fatomRequestArrive _ _ _ _ => none
  | .fatomReplyArrive _ _ _ _ => none
  | .podBarrierComplete _ => none
  | .ptpMessage _ _ _ _ => none
  | .timeParentLost => none
  | .mailboxRead _ => none
  | .mailboxWrite _ _ => none
  | .linkDown => none
  | .hostnote _ _ => none
  | .setEndpointId _ => none
  | .pldmSensorRead _ => none
  | .pldmEffecterReset _ => none
  | .pldmEffecterDebug _ => none
  | .pldmFirmwareUpdate _ => none
  | .getMeasurements _ => none
  | .spdmChallenge _ => none
  | .spdmGetCertificate => none
  | .sidebandMessageDrop _ => none
  | .targetReset => none
  | .powerOnReset => none
  | .bootImage _ => none
  | .go _ _ _ => none
  | .pgreplyRetry _ _ _ => none
  | .pgreplyRefuse _ _ _ => none
  | .tlblockLock _ _ _ => none
  | .tlblockUnlock _ _ _ => none
  | .sdgo _ _ => none
  | .miggo _ _ _ => none
  | .lcmdRelease _ _ => none
  | .lcmdAbort _ _ => none
  | .lcmdContinue _ _ => none
  | .evict _ _ => none
  | .mxcadWrite _ _ _ => none
  | .clkctlWrite _ _ => none
  | .stateGateSet _ _ => none
  | .stateGateClear _ _ => none
  | .l2winWrite _ _ _ _ => none
  | .plact _ _ _ => none
  | .plctlLightOn _ _ _ => none
  | .plctlLightOff _ _ _ => none
  | .ptset _ _ => none
  | .pbarArrive _ _ _ => none
  | .ccrelGo _ _ => none
  | .ccrelRst _ _ => none
  | .dbgctlEnWrite _ _ => none
  | .dbgctlHaltWrite _ _ => none
  | .elpush _ => none
  | .mrxgo _ _ => none
  | .registerWrite _ _ _ => none
  | .linkUp => none
  | .hbmPatrol _ _ _ => none
  | .breakResumption _ => none

/-- The slot whose map holds the instruction (03 R74 to R79); an instruction of both scalar slots is put in SA. -/
def Instr.slot (i : Instr) : Option Slot :=
  match i with
  | .bprep _ _ _ => some .br
  | .bpreps _ _ _ => some .br
  | .br _ _ => some .br
  | .call _ _ => some .br
  | .ret _ => some .br
  | .loopset _ _ _ => some .br
  | .loopbrk _ _ => some .br
  | .endTask _ => some .br
  | .yield _ => some .br
  | .wait _ _ _ => some .br
  | .waitt _ _ => some .br
  | .trap _ _ => some .br
  | .eret _ => some .br
  | .brk _ _ => some .br
  | .mfsr _ _ _ => some .br
  | .mtsr _ _ _ => some .br
  | .sleep _ => some .br
  | .evpop _ _ => some .br
  | .add _ _ _ _ => some .sa
  | .addi _ _ _ _ => some .sa
  | .sub _ _ _ _ => some .sa
  | .and _ _ _ _ => some .sa
  | .andi _ _ _ _ => some .sa
  | .or _ _ _ _ => some .sa
  | .ori _ _ _ _ => some .sa
  | .xor _ _ _ _ => some .sa
  | .xori _ _ _ _ => some .sa
  | .shl _ _ _ _ => some .sa
  | .shli _ _ _ _ => some .sa
  | .shr _ _ _ _ => some .sa
  | .shri _ _ _ _ => some .sa
  | .sar _ _ _ _ => some .sa
  | .sari _ _ _ _ => some .sa
  | .rotl _ _ _ _ => some .sa
  | .min _ _ _ _ => some .sa
  | .max _ _ _ _ => some .sa
  | .minu _ _ _ _ => some .sa
  | .maxu _ _ _ _ => some .sa
  | .adds _ _ _ _ => some .sa
  | .subs _ _ _ _ => some .sa
  | .abs _ _ _ => some .sa
  | .clz _ _ _ => some .sa
  | .ctz _ _ _ => some .sa
  | .popc _ _ _ => some .sa
  | .brev _ _ _ => some .sa
  | .mov _ _ _ => some .sa
  | .movi _ _ _ => some .sa
  | .movhi _ _ _ => some .sa
  | .sext _ _ _ _ => some .sa
  | .zext _ _ _ _ => some .sa
  | .bfx _ _ _ _ _ => some .sa
  | .bfi _ _ _ _ _ => some .sa
  | .lea _ _ _ _ _ => some .sa
  | .sel _ _ _ _ _ => some .sa
  | .cmp _ _ _ _ _ => some .sa
  | .cmpi _ _ _ _ _ => some .sa
  | .pand _ _ _ _ => some .sa
  | .por _ _ _ _ => some .sa
  | .pxor _ _ _ _ => some .sa
  | .pnot _ _ _ => some .sa
  | .pmov _ _ _ => some .sa
  | .fadd _ _ _ _ _ => some .sa
  | .fsub _ _ _ _ _ => some .sa
  | .fmul _ _ _ _ _ => some .sa
  | .ffma _ _ _ _ _ _ => some .sa
  | .fmin _ _ _ _ => some .sa
  | .fmax _ _ _ _ => some .sa
  | .fcmp _ _ _ _ _ => some .sa
  | .fcvti _ _ _ _ _ => some .sa
  | .icvtf _ _ _ _ _ => some .sa
  | .mul _ _ _ _ => some .sb
  | .muli _ _ _ _ => some .sb
  | .mulh _ _ _ _ => some .sb
  | .mulhu _ _ _ _ => some .sb
  | .div _ _ _ _ => some .sb
  | .divu _ _ _ _ => some .sb
  | .rem _ _ _ _ => some .sb
  | .remu _ _ _ _ => some .sb
  | .vadd _ _ _ _ _ _ => some .vx
  | .vsub _ _ _ _ _ _ => some .vx
  | .vmul _ _ _ _ _ _ => some .vx
  | .vfma _ _ _ _ _ _ _ => some .vx
  | .vmin _ _ _ _ _ => some .vx
  | .vmax _ _ _ _ _ => some .vx
  | .vabs _ _ _ _ => some .vx
  | .vneg _ _ _ _ => some .vx
  | .vand _ _ _ _ _ => some .vx
  | .vor _ _ _ _ _ => some .vx
  | .vxor _ _ _ _ _ => some .vx
  | .vnot _ _ _ _ => some .vx
  | .vshl _ _ _ _ _ => some .vx
  | .vshr _ _ _ _ _ => some .vx
  | .vsar _ _ _ _ _ => some .vx
  | .vadds _ _ _ _ _ => some .vx
  | .vsubs _ _ _ _ _ => some .vx
  | .vmulh _ _ _ _ _ => some .vx
  | .vcmp _ _ _ _ _ _ => some .vx
  | .vsel _ _ _ _ _ _ => some .vx
  | .vmov _ _ _ _ => some .vx
  | .vbcast _ _ _ _ => some .vx
  | .vext _ _ _ _ _ => some .vx
  | .vins _ _ _ _ _ => some .vx
  | .vperm _ _ _ _ _ => some .vx
  | .vrot _ _ _ _ _ => some .vx
  | .vslide _ _ _ _ _ _ => some .vx
  | .vzip _ _ _ _ _ _ => some .vx
  | .vunzip _ _ _ _ _ _ => some .vx
  | .vredadd _ _ _ _ => some .vx
  | .vredmin _ _ _ _ => some .vx
  | .vredmax _ _ _ _ => some .vx
  | .vscan _ _ _ _ => some .vx
  | .vany _ _ _ _ => some .vx
  | .vall _ _ _ _ => some .vx
  | .vpopc _ _ _ _ => some .vx
  | .vrcp _ _ _ _ _ => some .vx
  | .vrsq _ _ _ _ _ => some .vx
  | .vsqrt _ _ _ _ _ => some .vx
  | .vexp2 _ _ _ _ _ => some .vx
  | .vlog2 _ _ _ _ _ => some .vx
  | .vtanh _ _ _ _ _ => some .vx
  | .vsigm _ _ _ _ _ => some .vx
  | .vdiv _ _ _ _ _ _ => some .vx
  | .vcvt _ _ _ _ _ _ _ => some .vx
  | .vmaxexp _ _ _ => some .vx
  | .vqcvt _ _ _ _ _ _ => some .vx
  | .vdq _ _ _ _ _ _ _ => some .vx
  | .vfxcvt _ _ _ _ _ _ _ => some .vx
  | .vflcvt _ _ _ _ _ _ _ => some .vx
  | .viota _ _ _ => some .vx
  | .vclz _ _ _ _ => some .vx
  | .osclaim _ _ _ _ => some .mx
  | .osrel _ _ => some .mx
  | .osld _ _ _ _ => some .mx
  | .mwld _ _ _ _ => some .mx
  | .mma _ _ _ _ _ _ => some .mx
  | .mmaz _ _ _ _ _ _ => some .mx
  | .maccz _ _ _ => some .mx
  | .maccrd _ _ _ _ => some .mx
  | .maccwr _ _ _ _ => some .mx
  | .maccst _ _ _ _ => some .mx
  | .maccld _ _ _ _ _ => some .mx
  | .mwait _ _ => some .mx
  | .mfence _ => some .mx
  | .ld _ _ _ _ _ => some .ms
  | .st _ _ _ _ _ => some .ms
  | .ldl _ _ _ _ _ => some .ms
  | .stl _ _ _ _ _ => some .ms
  | .vld _ _ _ _ _ => some .ms
  | .vst _ _ _ _ _ => some .ms
  | .vldl _ _ _ _ _ => some .ms
  | .vstl _ _ _ _ _ => some .ms
  | .vlds _ _ _ _ _ _ => some .ms
  | .vsts _ _ _ _ _ _ => some .ms
  | .vldx _ _ _ _ _ _ => some .ms
  | .vstx _ _ _ _ _ _ => some .ms
  | .ldblk _ _ _ _ _ => some .ms
  | .blkrel _ _ => some .ms
  | .regmap _ _ _ _ _ => some .ms
  | .regflush _ _ _ => some .ms
  | .regdrop _ _ _ => some .ms
  | .aadd _ _ _ _ _ => some .ms
  | .amin _ _ _ _ _ => some .ms
  | .amax _ _ _ _ _ => some .ms
  | .aand _ _ _ _ _ => some .ms
  | .aor _ _ _ _ _ => some .ms
  | .axor _ _ _ _ _ => some .ms
  | .axchg _ _ _ _ _ => some .ms
  | .acas _ _ _ _ _ _ => some .ms
  | .aaddw _ _ _ _ => some .ms
  | .ared _ _ _ _ _ => some .ms
  | .fence _ _ => some .ms
  | .push _ _ _ _ => some .ms
  | .pushc _ _ _ => some .ms
  | .barinit _ _ _ => some .ms
  | .bararr _ _ _ _ => some .ms
  | .waitmem _ _ _ _ _ _ => some .ms
  | .fatom _ _ _ _ _ _ _ _ => some .ms
  | .frel _ => some .ms
  | .emptyPosition => none
  | .producerWriteback _ _ => none
  | .deferredFault _ => none
  | .interruptEntry => none
  | .sideLogReplay _ => none
  | .regionWriteback _ => none
  | .blockFilled _ _ => none
  | .matrixEntryStart _ _ => none
  | .matrixEntryComplete _ _ => none
  | .copyCommand _ _ _ => none
  | .gatherCommand _ _ _ => none
  | .engineCommandStart _ _ _ => none
  | .engineCommandComplete _ _ => none
  | .mcmdOsrel _ _ _ => none
  | .mcmdOsld _ _ _ => none
  | .mcmdMwld _ _ _ => none
  | .mcmdMma _ _ _ => none
  | .mcmdMmaz _ _ _ => none
  | .mcmdMaccz _ _ _ => none
  | .mcmdMaccst _ _ _ => none
  | .mcmdMaccld _ _ _ => none
  | .fabricPut _ _ => none
  | .fabricSend _ _ => none
  | .tmatmul _ _ _ => none
  | .tewise _ _ _ => none
  | .treduce _ _ _ => none
  | .ttopk _ _ _ => none
  | .tcopy _ _ _ => none
  | .tgather _ _ _ => none
  | .tcast _ _ _ => none
  | .ttrans _ _ _ => none
  | .tfill _ _ _ => none
  | .tlaunch _ _ _ => none
  | .tbind _ _ _ => none
  | .tbarrier _ _ _ => none
  | .tallred _ _ _ => none
  | .tileComplete _ => none
  | .tbarrierComplete _ => none
  | .podRecordDelivery _ _ _ _ => none
  | .launchActivate _ => none
  | .stampedGatherDone _ => none
  | .stampedStrandNext _ => none
  | .taskDispatch _ _ => none
  | .taskComplete _ => none
  | .taskReport _ _ => none
  | .taskStop _ => none
  | .taskResume _ _ => none
  | .waitResumable _ _ => none
  | .watchdogExpiry _ => none
  | .eventRecordPost _ => none
  | .governorWindow _ => none
  | .hbmTempRead _ _ => none
  | .hbmRefresh _ _ => none
  | .coreSensorSample _ _ _ => none
  | .thermalTrip _ => none
  | .clockChangeProceed => none
  | .clockRailsTrimmed => none
  | .clockSwitchDone => none
  | .coreGated _ => none
  | .coreOnline _ => none
  | .gatedPortWake _ => none
  | .l2winFilled _ _ => none
  | .shootdownComplete _ => none
  | .migrationRound _ => none
  | .migrationSwitch _ => none
  | .slotHandover _ => none
  | .slotHeaderReceive _ _ _ _ _ => none
  | .ackReceive _ _ => none
  | .forwardHoldExpiry _ => none
  | .resendTimeout _ => none
  | .completionRecordExpiry _ => none
  | .bankSwitch _ => none
  | .laneLock _ => none
  | .lineFailure _ _ => none
  | .lineRestore _ _ => none
  | .retuneStart _ _ => none
  | .retuneEnd _ _ => none
  | .orderedDelivery => none
  | .orderedIncompleteDiscard _ => none
  | .watermarkStall _ _ => none
  | .fatomSendRelease _ => none
  | .fatomRequestArrive _ _ _ _ => none
  | .fatomReplyArrive _ _ _ _ => none
  | .podBarrierComplete _ => none
  | .ptpMessage _ _ _ _ => none
  | .timeParentLost => none
  | .mailboxRead _ => none
  | .mailboxWrite _ _ => none
  | .linkDown => none
  | .hostnote _ _ => none
  | .setEndpointId _ => none
  | .pldmSensorRead _ => none
  | .pldmEffecterReset _ => none
  | .pldmEffecterDebug _ => none
  | .pldmFirmwareUpdate _ => none
  | .getMeasurements _ => none
  | .spdmChallenge _ => none
  | .spdmGetCertificate => none
  | .sidebandMessageDrop _ => none
  | .targetReset => none
  | .powerOnReset => none
  | .bootImage _ => none
  | .go _ _ _ => none
  | .pgreplyRetry _ _ _ => none
  | .pgreplyRefuse _ _ _ => none
  | .tlblockLock _ _ _ => none
  | .tlblockUnlock _ _ _ => none
  | .sdgo _ _ => none
  | .miggo _ _ _ => none
  | .lcmdRelease _ _ => none
  | .lcmdAbort _ _ => none
  | .lcmdContinue _ _ => none
  | .evict _ _ => none
  | .mxcadWrite _ _ _ => none
  | .clkctlWrite _ _ => none
  | .stateGateSet _ _ => none
  | .stateGateClear _ _ => none
  | .l2winWrite _ _ _ _ => none
  | .plact _ _ _ => none
  | .plctlLightOn _ _ _ => none
  | .plctlLightOff _ _ _ => none
  | .ptset _ _ => none
  | .pbarArrive _ _ _ => none
  | .ccrelGo _ _ => none
  | .ccrelRst _ _ => none
  | .dbgctlEnWrite _ _ => none
  | .dbgctlHaltWrite _ _ => none
  | .elpush _ => none
  | .mrxgo _ _ => none
  | .registerWrite _ _ _ => none
  | .linkUp => none
  | .hbmPatrol _ _ _ => none
  | .breakResumption _ => none

/-- Why a word is no instruction (03 R81 check 4). -/
inductive BadWord where
  | opcode
  | field
  deriving DecidableEq, Repr

/-- An instruction and whether its operands could be read: `some none` is a reserved code in a type or mode field. -/
abbrev Reading := Option (Option Instr)

/-- The instruction that the BR map of 03 gives an opcode; `none` where the opcode is unassigned. -/
def readBr (f : Fields) : Reading :=
  match f.opc.toNat with
  | 0x1 => some (some (.bprep f.ctl f.d (f.fn ++ f.e ++ f.c ++ f.b)))
  | 0x2 => some (some (.bpreps f.ctl f.d f.a))
  | 0x3 => some (some (.br f.ctl f.a))
  | 0x4 => some (some (.call f.ctl f.a))
  | 0x5 => some (some (.ret f.ctl))
  | 0x6 => some (some (.loopset f.ctl f.a (f.fn.extractLsb' 0 6)))
  | 0x7 => some (some (.loopbrk f.ctl (f.fn.extractLsb' 0 3)))
  | 0x8 => some (some (.endTask f.ctl))
  | 0x9 => some (some (.yield f.ctl))
  | 0xa => some (some (.wait f.ctl f.a f.b))
  | 0xb => some (some (.waitt f.ctl f.a))
  | 0xc => some (some (.trap f.ctl f.fn))
  | 0xd => some (some (.eret f.ctl))
  | 0xe => some (some (.brk f.ctl f.fn))
  | 0xf => some (some (.mfsr f.ctl f.d f.a))
  | 0x10 => some (some (.mtsr f.ctl f.d f.a))
  | 0x11 => some (some (.sleep f.ctl))
  | 0x12 => some (some (.evpop f.ctl f.d))
  | _ => none

/-- The instruction that the SA map of 03 gives an opcode; `none` where the opcode is unassigned. -/
def readSa (f : Fields) : Reading :=
  match f.opc.toNat with
  | 0x1 => some (some (.add f.ctl f.d f.a f.b))
  | 0x2 => some (some (.addi f.ctl f.d f.a (f.fn ++ f.e ++ f.c ++ f.b)))
  | 0x3 => some (some (.sub f.ctl f.d f.a f.b))
  | 0x4 => some (some (.and f.ctl f.d f.a f.b))
  | 0x5 => some (some (.andi f.ctl f.d f.a (f.fn ++ f.e ++ f.c ++ f.b)))
  | 0x6 => some (some (.or f.ctl f.d f.a f.b))
  | 0x7 => some (some (.ori f.ctl f.d f.a (f.fn ++ f.e ++ f.c ++ f.b)))
  | 0x8 => some (some (.xor f.ctl f.d f.a f.b))
  | 0x9 => some (some (.xori f.ctl f.d f.a (f.fn ++ f.e ++ f.c ++ f.b)))
  | 0xa => some (some (.shl f.ctl f.d f.a f.b))
  | 0xb => some (some (.shli f.ctl f.d f.a (f.fn ++ f.e ++ f.c ++ f.b)))
  | 0xc => some (some (.shr f.ctl f.d f.a f.b))
  | 0xd => some (some (.shri f.ctl f.d f.a (f.fn ++ f.e ++ f.c ++ f.b)))
  | 0xe => some (some (.sar f.ctl f.d f.a f.b))
  | 0xf => some (some (.sari f.ctl f.d f.a (f.fn ++ f.e ++ f.c ++ f.b)))
  | 0x10 => some (some (.rotl f.ctl f.d f.a f.b))
  | 0x11 => some (some (.min f.ctl f.d f.a f.b))
  | 0x12 => some (some (.max f.ctl f.d f.a f.b))
  | 0x13 => some (some (.minu f.ctl f.d f.a f.b))
  | 0x14 => some (some (.maxu f.ctl f.d f.a f.b))
  | 0x23 => some (some (.adds f.ctl f.d f.a f.b))
  | 0x24 => some (some (.subs f.ctl f.d f.a f.b))
  | 0x15 => some (some (.abs f.ctl f.d f.a))
  | 0x16 => some (some (.clz f.ctl f.d f.a))
  | 0x17 => some (some (.ctz f.ctl f.d f.a))
  | 0x18 => some (some (.popc f.ctl f.d f.a))
  | 0x19 => some (some (.brev f.ctl f.d f.a))
  | 0x1f => some (some (.mov f.ctl f.d f.a))
  | 0x20 => some (some (.movi f.ctl f.d (f.fn ++ f.e ++ f.c ++ f.b)))
  | 0x21 => some (some (.movhi f.ctl f.d (f.fn ++ f.e ++ f.c ++ f.b)))
  | 0x1a => some (some (.sext f.ctl f.d f.a (f.fn.extractLsb' 0 6)))
  | 0x1b => some (some (.zext f.ctl f.d f.a (f.fn.extractLsb' 0 6)))
  | 0x1c => some (some (.bfx f.ctl f.d f.a f.e (f.fn.extractLsb' 0 6)))
  | 0x1d => some (some (.bfi f.ctl f.d f.a f.e (f.fn.extractLsb' 0 6)))
  | 0x22 => some (some (.lea f.ctl f.d f.a f.b (f.fn.extractLsb' 0 3)))
  | 0x1e => some (some (.sel f.ctl f.d f.c f.a f.b))
  | 0x25 => some (some (.cmp f.ctl (Cond.ofBits f.hi3) f.d f.a f.b))
  | 0x26 => some (some (.cmpi f.ctl (Cond.ofBits f.hi3) f.d f.a (f.lo4 ++ f.e ++ f.c ++ f.b)))
  | 0x27 => some (some (.pand f.ctl f.d f.a f.b))
  | 0x28 => some (some (.por f.ctl f.d f.a f.b))
  | 0x29 => some (some (.pxor f.ctl f.d f.a f.b))
  | 0x2a => some (some (.pnot f.ctl f.d f.a))
  | 0x2b => some (some (.pmov f.ctl f.d f.a))
  | 0x2c => some (((RMode.ofBits f.hi3)).map fun m => .fadd f.ctl m f.d f.a f.b)
  | 0x2d => some (((RMode.ofBits f.hi3)).map fun m => .fsub f.ctl m f.d f.a f.b)
  | 0x2e => some (((RMode.ofBits f.hi3)).map fun m => .fmul f.ctl m f.d f.a f.b)
  | 0x2f => some (((RMode.ofBits f.hi3)).map fun m => .ffma f.ctl m f.d f.a f.b f.c)
  | 0x30 => some (some (.fmin f.ctl f.d f.a f.b))
  | 0x31 => some (some (.fmax f.ctl f.d f.a f.b))
  | 0x32 => some (some (.fcmp f.ctl (Cond.ofBits f.hi3) f.d f.a f.b))
  | 0x33 => some (((Ty.ofBits f.lo4)).bind fun t => ((RMode.ofBits f.hi3)).map fun m => .fcvti f.ctl t m f.d f.a)
  | 0x34 => some (((Ty.ofBits f.lo4)).bind fun t => ((RMode.ofBits f.hi3)).map fun m => .icvtf f.ctl t m f.d f.a)
  | _ => none

/-- The instruction that the SB map of 03 gives an opcode; `none` where the opcode is unassigned. -/
def readSb (f : Fields) : Reading :=
  match f.opc.toNat with
  | 0x40 => some (some (.mul f.ctl f.d f.a f.b))
  | 0x47 => some (some (.muli f.ctl f.d f.a (f.fn ++ f.e ++ f.c ++ f.b)))
  | 0x41 => some (some (.mulh f.ctl f.d f.a f.b))
  | 0x42 => some (some (.mulhu f.ctl f.d f.a f.b))
  | 0x43 => some (some (.div f.ctl f.d f.a f.b))
  | 0x44 => some (some (.divu f.ctl f.d f.a f.b))
  | 0x45 => some (some (.rem f.ctl f.d f.a f.b))
  | 0x46 => some (some (.remu f.ctl f.d f.a f.b))
  | _ => readSa f

/-- The instruction that the VX map of 03 gives an opcode; `none` where the opcode is unassigned. -/
def readVx (f : Fields) : Reading :=
  match f.opc.toNat with
  | 0x1 => some (((Ty.ofBits f.lo4)).bind fun t => ((RMode.ofBits f.hi3)).map fun m => .vadd f.ctl t m f.d f.a f.b)
  | 0x2 => some (((Ty.ofBits f.lo4)).bind fun t => ((RMode.ofBits f.hi3)).map fun m => .vsub f.ctl t m f.d f.a f.b)
  | 0x3 => some (((Ty.ofBits f.lo4)).bind fun t => ((RMode.ofBits f.hi3)).map fun m => .vmul f.ctl t m f.d f.a f.b)
  | 0x4 => some (((Ty.ofBits f.lo4)).bind fun t => ((RMode.ofBits f.hi3)).map fun m => .vfma f.ctl t m f.d f.a f.b f.c)
  | 0x5 => some (((Ty.ofBits f.lo4)).map fun t => .vmin f.ctl t f.d f.a f.b)
  | 0x6 => some (((Ty.ofBits f.lo4)).map fun t => .vmax f.ctl t f.d f.a f.b)
  | 0x7 => some (((Ty.ofBits f.lo4)).map fun t => .vabs f.ctl t f.d f.a)
  | 0x8 => some (((Ty.ofBits f.lo4)).map fun t => .vneg f.ctl t f.d f.a)
  | 0x9 => some (((Ty.ofBits f.lo4)).map fun t => .vand f.ctl t f.d f.a f.b)
  | 0xa => some (((Ty.ofBits f.lo4)).map fun t => .vor f.ctl t f.d f.a f.b)
  | 0xb => some (((Ty.ofBits f.lo4)).map fun t => .vxor f.ctl t f.d f.a f.b)
  | 0xc => some (((Ty.ofBits f.lo4)).map fun t => .vnot f.ctl t f.d f.a)
  | 0xd => some (((Ty.ofBits f.lo4)).map fun t => .vshl f.ctl t f.d f.a f.b)
  | 0xe => some (((Ty.ofBits f.lo4)).map fun t => .vshr f.ctl t f.d f.a f.b)
  | 0xf => some (((Ty.ofBits f.lo4)).map fun t => .vsar f.ctl t f.d f.a f.b)
  | 0x10 => some (((Ty.ofBits f.lo4)).map fun t => .vadds f.ctl t f.d f.a f.b)
  | 0x11 => some (((Ty.ofBits f.lo4)).map fun t => .vsubs f.ctl t f.d f.a f.b)
  | 0x12 => some (((Ty.ofBits f.lo4)).map fun t => .vmulh f.ctl t f.d f.a f.b)
  | 0x13 => some (((Ty.ofBits f.lo4)).map fun t => .vcmp f.ctl t (Cond.ofBits f.hi3) f.d f.a f.b)
  | 0x14 => some (((Ty.ofBits f.lo4)).map fun t => .vsel f.ctl t f.d f.c f.a f.b)
  | 0x15 => some (((Ty.ofBits f.lo4)).map fun t => .vmov f.ctl t f.d f.a)
  | 0x16 => some (((Ty.ofBits f.lo4)).map fun t => .vbcast f.ctl t f.d f.a)
  | 0x17 => some (((Ty.ofBits f.lo4)).map fun t => .vext f.ctl t f.d f.a f.b)
  | 0x18 => some (((Ty.ofBits f.lo4)).map fun t => .vins f.ctl t f.d f.a f.b)
  | 0x19 => some (((Ty.ofBits f.lo4)).map fun t => .vperm f.ctl t f.d f.a f.b)
  | 0x1a => some (((Ty.ofBits f.lo4)).map fun t => .vrot f.ctl t f.d f.a f.b)
  | 0x1b => some (((Ty.ofBits f.lo4)).map fun t => .vslide f.ctl t f.d f.a f.b f.c)
  | 0x1c => some (((Ty.ofBits f.lo4)).map fun t => .vzip f.ctl t f.d f.a f.b (f.e == 1))
  | 0x1d => some (((Ty.ofBits f.lo4)).map fun t => .vunzip f.ctl t f.d f.a f.b (f.e == 1))
  | 0x1e => some (((Ty.ofBits f.lo4)).map fun t => .vredadd f.ctl t f.d f.a)
  | 0x1f => some (((Ty.ofBits f.lo4)).map fun t => .vredmin f.ctl t f.d f.a)
  | 0x20 => some (((Ty.ofBits f.lo4)).map fun t => .vredmax f.ctl t f.d f.a)
  | 0x21 => some (((Ty.ofBits f.lo4)).map fun t => .vscan f.ctl t f.d f.a)
  | 0x22 => some (((Ty.ofBits f.lo4)).map fun t => .vany f.ctl t f.d f.a)
  | 0x23 => some (((Ty.ofBits f.lo4)).map fun t => .vall f.ctl t f.d f.a)
  | 0x24 => some (((Ty.ofBits f.lo4)).map fun t => .vpopc f.ctl t f.d f.a)
  | 0x25 => some (((Ty.ofBits f.lo4)).bind fun t => ((RMode.ofBits f.hi3)).map fun m => .vrcp f.ctl t m f.d f.a)
  | 0x26 => some (((Ty.ofBits f.lo4)).bind fun t => ((RMode.ofBits f.hi3)).map fun m => .vrsq f.ctl t m f.d f.a)
  | 0x27 => some (((Ty.ofBits f.lo4)).bind fun t => ((RMode.ofBits f.hi3)).map fun m => .vsqrt f.ctl t m f.d f.a)
  | 0x28 => some (((Ty.ofBits f.lo4)).bind fun t => ((RMode.ofBits f.hi3)).map fun m => .vexp2 f.ctl t m f.d f.a)
  | 0x29 => some (((Ty.ofBits f.lo4)).bind fun t => ((RMode.ofBits f.hi3)).map fun m => .vlog2 f.ctl t m f.d f.a)
  | 0x2a => some (((Ty.ofBits f.lo4)).bind fun t => ((RMode.ofBits f.hi3)).map fun m => .vtanh f.ctl t m f.d f.a)
  | 0x2b => some (((Ty.ofBits f.lo4)).bind fun t => ((RMode.ofBits f.hi3)).map fun m => .vsigm f.ctl t m f.d f.a)
  | 0x2c => some (((Ty.ofBits f.lo4)).bind fun t => ((RMode.ofBits f.hi3)).map fun m => .vdiv f.ctl t m f.d f.a f.b)
  | 0x2d => some (((Ty.ofBits f.lo4)).bind fun t => ((RMode.ofBits f.hi3)).bind fun m => ((Ty.ofBits (f.e.extractLsb' 0 4))).map fun fs => .vcvt f.ctl t m f.d f.a fs f.c)
  | 0x2e => some (((Ty.ofBits f.lo4)).map fun t => .vmaxexp f.ctl t f.a)
  | 0x2f => some (((Ty.ofBits f.lo4)).bind fun t => ((Ty.ofBits (f.e.extractLsb' 0 4))).map fun fq => .vqcvt f.ctl t f.d f.a fq f.c)
  | 0x30 => some (((Ty.ofBits f.lo4)).bind fun t => ((RMode.ofBits f.hi3)).bind fun m => ((Ty.ofBits (f.e.extractLsb' 0 4))).map fun fq => .vdq f.ctl t m f.d f.a fq f.c)
  | 0x31 => some (((Ty.ofBits f.lo4)).bind fun t => ((RMode.ofBits f.hi3)).map fun m => .vfxcvt f.ctl t m f.d f.a f.e f.c)
  | 0x32 => some (((Ty.ofBits f.lo4)).bind fun t => ((RMode.ofBits f.hi3)).map fun m => .vflcvt f.ctl t m f.d f.a f.e f.c)
  | 0x33 => some (((Ty.ofBits f.lo4)).map fun t => .viota f.ctl t f.d)
  | 0x34 => some (((Ty.ofBits f.lo4)).map fun t => .vclz f.ctl t f.d f.a)
  | _ => none

/-- The instruction that the MX map of 03 gives an opcode; `none` where the opcode is unassigned. -/
def readMx (f : Fields) : Reading :=
  match f.opc.toNat with
  | 0x1 => some (some (.osclaim f.ctl f.d f.a (f.fn == 1)))
  | 0x2 => some (some (.osrel f.ctl f.a))
  | 0x3 => some (some (.osld f.ctl f.d f.a f.b))
  | 0x4 => some (((Ty.ofBits f.lo4)).map fun t => .mwld f.ctl t f.a f.b)
  | 0x5 => some (((Ty.ofBits f.lo4)).map fun t => .mma f.ctl t f.d f.a f.b (f.e == 1))
  | 0x6 => some (((Ty.ofBits f.lo4)).map fun t => .mmaz f.ctl t f.d f.a f.b (f.e == 1))
  | 0x7 => some (((Ty.ofBits f.lo4)).map fun t => .maccz f.ctl t f.d)
  | 0x8 => some (some (.maccrd f.ctl f.d f.a f.b))
  | 0x9 => some (some (.maccwr f.ctl f.d f.a f.b))
  | 0xa => some (some (.maccst f.ctl f.a f.b f.c))
  | 0xb => some (((Ty.ofBits f.lo4)).map fun t => .maccld f.ctl t f.d f.b f.c)
  | 0xc => some (some (.mwait f.ctl f.a))
  | 0xd => some (some (.mfence f.ctl))
  | _ => none

/-- The instruction that the MS map of 03 gives an opcode; `none` where the opcode is unassigned. -/
def readMs (f : Fields) : Reading :=
  match f.opc.toNat with
  | 0x1 => some (((Ty.ofBits f.lo4)).map fun t => .ld f.ctl t f.d f.a (f.e ++ f.c ++ f.b))
  | 0x2 => some (((Ty.ofBits f.lo4)).map fun t => .st f.ctl t f.d f.a (f.e ++ f.c ++ f.b))
  | 0x3 => some (((Ty.ofBits f.lo4)).map fun t => .ldl f.ctl t f.d f.a (f.e ++ f.c ++ f.b))
  | 0x4 => some (((Ty.ofBits f.lo4)).map fun t => .stl f.ctl t f.d f.a (f.e ++ f.c ++ f.b))
  | 0x5 => some (((Ty.ofBits f.lo4)).map fun t => .vld f.ctl t f.d f.a (f.e ++ f.c ++ f.b))
  | 0x6 => some (((Ty.ofBits f.lo4)).map fun t => .vst f.ctl t f.d f.a (f.e ++ f.c ++ f.b))
  | 0x7 => some (((Ty.ofBits f.lo4)).map fun t => .vldl f.ctl t f.d f.a (f.e ++ f.c ++ f.b))
  | 0x8 => some (((Ty.ofBits f.lo4)).map fun t => .vstl f.ctl t f.d f.a (f.e ++ f.c ++ f.b))
  | 0x9 => some (((Ty.ofBits f.lo4)).map fun t => .vlds f.ctl t (f.fn.extractLsb' 4 1 == 1) f.d f.a f.b)
  | 0xa => some (((Ty.ofBits f.lo4)).map fun t => .vsts f.ctl t (f.fn.extractLsb' 4 1 == 1) f.d f.a f.b)
  | 0xb => some (((Ty.ofBits f.lo4)).map fun t => .vldx f.ctl t (f.fn.extractLsb' 4 1 == 1) f.d f.a f.b)
  | 0xc => some (((Ty.ofBits f.lo4)).map fun t => .vstx f.ctl t (f.fn.extractLsb' 4 1 == 1) f.d f.a f.b)
  | 0xd => some (some (.ldblk f.ctl f.d f.a (f.fn.extractLsb' 0 6) (f.fn.extractLsb' 6 1 == 1)))
  | 0xe => some (some (.blkrel f.ctl f.a))
  | 0xf => some (some (.regmap f.ctl f.e f.a f.b f.c))
  | 0x10 => some (some (.regflush f.ctl f.e f.b))
  | 0x11 => some (some (.regdrop f.ctl f.e f.b))
  | 0x12 => some (((Ty.ofBits f.lo4)).map fun t => .aadd f.ctl t f.d f.a f.b)
  | 0x13 => some (((Ty.ofBits f.lo4)).map fun t => .amin f.ctl t f.d f.a f.b)
  | 0x14 => some (((Ty.ofBits f.lo4)).map fun t => .amax f.ctl t f.d f.a f.b)
  | 0x15 => some (((Ty.ofBits f.lo4)).map fun t => .aand f.ctl t f.d f.a f.b)
  | 0x16 => some (((Ty.ofBits f.lo4)).map fun t => .aor f.ctl t f.d f.a f.b)
  | 0x17 => some (((Ty.ofBits f.lo4)).map fun t => .axor f.ctl t f.d f.a f.b)
  | 0x18 => some (((Ty.ofBits f.lo4)).map fun t => .axchg f.ctl t f.d f.a f.b)
  | 0x19 => some (((Ty.ofBits f.lo4)).map fun t => .acas f.ctl t f.d f.a f.b f.c)
  | 0x1a => some (some (.aaddw f.ctl f.d f.a f.b))
  | 0x1b => some (((Ty.ofBits f.lo4)).map fun t => .ared f.ctl t f.a f.b f.e)
  | 0x1c => some (some (.fence f.ctl (f.fn.extractLsb' 0 3)))
  | 0x1d => some (some (.push f.ctl f.d f.a f.e))
  | 0x1e => some (some (.pushc f.ctl f.d f.a))
  | 0x1f => some (some (.barinit f.ctl f.a f.b))
  | 0x20 => some (some (.bararr f.ctl f.d f.a f.b))
  | 0x21 => some (some (.waitmem f.ctl (Cond.ofBits f.hi3) f.d f.a f.b f.c))
  | 0x22 => some (((Ty.ofBits f.lo4)).map fun t => .fatom f.ctl f.hi3 t f.d f.a f.b f.c f.e)
  | 0x23 => some (some (.frel f.ctl))
  | _ => none

/-- The instruction a slot's map gives (03 R73 to R79). -/
def readSlot (s : Slot) (f : Fields) : Reading :=
  match s with
  | .br => readBr f
  | .sa => readSa f
  | .sb => readSb f
  | .vx => readVx f
  | .mx => readMx f
  | .ms => readMs f

/-- A word read in its slot. The field rules of the instruction hold, and every field it does not use is zero, which is that
its own encoding is the word (03 R65 R81). -/
def decodeWord (s : Slot) (w : BitVec 64) : Except BadWord Instr :=
  match readSlot s (Fields.unpack w) with
  | none => .error .opcode
  | some none => .error .field
  | some (some i) => if i.wf && i.fields == some (Fields.unpack w) then .ok i else .error .field

/-- The word of an instruction. -/
def encode (i : Instr) : Option (BitVec 64) := i.fields.map Fields.pack

/-- Special registers of a tile core (01 R26, column T or all). -/
def tileSr (n : BitVec 6) : Bool := decide (n.toNat < 31)
/-- Special registers of every agent (01 R26). -/
def commonSr (n : BitVec 6) : Bool :=
  [8, 9, 12, 13, 14, 15, 16, 17, 22, 23, 24, 25, 26, 27, 28, 29, 30].contains n.toNat
/-- Special registers of a control core (01 R26, column C). -/
def controlSr (n : BitVec 6) : Bool := commonSr n || [32, 33, 34, 35, 36].contains n.toNat
/-- Special registers of the management controller (01 R26, column M). -/
def machineSr (n : BitVec 6) : Bool := commonSr n || [34, 35, 36].contains n.toNat

/-- What an agent's kind implements: R73 for slots, 05 R127 and 07 R163 for single instructions. -/
def Instr.lacks (k : Kind) (i : Instr) : Option BadWord :=
  match k, i with
  | .tile, .sleep _ => some .opcode
  | .tile, .evpop _ _ => some .opcode
  | .control, .endTask _ => some .opcode
  | .control, .yield _ => some .opcode
  | .control, .ared _ _ _ _ _ => some .opcode
  | .control, .blkrel _ _ => some .opcode
  | .control, .ldblk _ _ _ _ _ => some .opcode
  | .control, .ldl _ _ _ _ _ => some .opcode
  | .control, .pushc _ _ _ => some .opcode
  | .control, .regdrop _ _ _ => some .opcode
  | .control, .regflush _ _ _ => some .opcode
  | .control, .regmap _ _ _ _ _ => some .opcode
  | .control, .stl _ _ _ _ _ => some .opcode
  | .control, .vld _ _ _ _ _ => some .opcode
  | .control, .vldl _ _ _ _ _ => some .opcode
  | .control, .vlds _ _ _ _ _ _ => some .opcode
  | .control, .vldx _ _ _ _ _ _ => some .opcode
  | .control, .vst _ _ _ _ _ => some .opcode
  | .control, .vstl _ _ _ _ _ => some .opcode
  | .control, .vsts _ _ _ _ _ _ => some .opcode
  | .control, .vstx _ _ _ _ _ _ => some .opcode
  | .machine, .endTask _ => some .opcode
  | .machine, .yield _ => some .opcode
  | .machine, .evpop _ _ => some .opcode
  | .machine, .push _ _ _ _ => some .opcode
  | .machine, .fatom _ _ _ _ _ _ _ _ => some .opcode
  | .machine, .frel _ => some .opcode
  | .machine, .ared _ _ _ _ _ => some .opcode
  | .machine, .blkrel _ _ => some .opcode
  | .machine, .ldblk _ _ _ _ _ => some .opcode
  | .machine, .ldl _ _ _ _ _ => some .opcode
  | .machine, .pushc _ _ _ => some .opcode
  | .machine, .regdrop _ _ _ => some .opcode
  | .machine, .regflush _ _ _ => some .opcode
  | .machine, .regmap _ _ _ _ _ => some .opcode
  | .machine, .stl _ _ _ _ _ => some .opcode
  | .machine, .vld _ _ _ _ _ => some .opcode
  | .machine, .vldl _ _ _ _ _ => some .opcode
  | .machine, .vlds _ _ _ _ _ _ => some .opcode
  | .machine, .vldx _ _ _ _ _ _ => some .opcode
  | .machine, .vst _ _ _ _ _ => some .opcode
  | .machine, .vstl _ _ _ _ _ => some .opcode
  | .machine, .vsts _ _ _ _ _ _ => some .opcode
  | .machine, .vstx _ _ _ _ _ _ => some .opcode
  | .tile, .mfsr _ _ n => if tileSr n then none else some .field
  | .tile, .mtsr _ n _ => if tileSr n then none else some .field
  | .control, .mfsr _ _ n => if controlSr n then none else some .field
  | .control, .mtsr _ n _ => if controlSr n then none else some .field
  | .machine, .mfsr _ _ n => if machineSr n then none else some .field
  | .machine, .mtsr _ n _ => if machineSr n then none else some .field
  | .control, .push _ _ _ q => if q.toNat < 4 then some .field else none
  | _, _ => none

/-- Slots VX and MX exist on tile cores only (03 R73). -/
def slotLacking (k : Kind) (s : Slot) : Bool := k != .tile && (s == .vx || s == .mx)

/-- MS opcodes of tile cores only (07 R163). -/
def msTileOnly (opc : BitVec 8) : Bool :=
  (decide (0x03 ≤ opc.toNat) && decide (opc.toNat ≤ 0x11)) || opc == 0x1B || opc == 0x1E

/-- Whether an opcode is assigned, whatever the fields hold; an instruction the agent lacks counts as unassigned
(03 R81 check 4.1, 05 R127, 07 R163). -/
def opcodeLacking (k : Kind) (s : Slot) (opc : BitVec 8) : Bool :=
  match s, k with
  | .br, .tile => opc == 0x11 || opc == 0x12
  | .br, .control => opc == 0x08 || opc == 0x09
  | .br, .machine => opc == 0x08 || opc == 0x09 || opc == 0x12
  | .ms, .control => msTileOnly opc
  | .ms, .machine => msTileOnly opc || opc == 0x1D || opc == 0x22 || opc == 0x23
  | _, _ => false

/-- A word read by an agent of kind `k` (03 R81 check 4). -/
def decodeFor (k : Kind) (s : Slot) (w : BitVec 64) : Except BadWord Instr :=
  if slotLacking k s || opcodeLacking k s (w.extractLsb' 0 8) then .error .opcode
  else
    match decodeWord s w with
    | .error e => .error e
    | .ok i =>
      match i.lacks k with
      | some e => .error e
      | none => .ok i

/-- The bundle header (03 R59). -/
structure Header where
  stamp : BitVec 16
  stv : Bool
  run : BitVec 6
  pres : BitVec 6
  deriving DecidableEq, Repr

/-- A header whose bits [63:29] are not all zero is refused (03 R59). -/
def decodeHeader (w : BitVec 64) : Option Header :=
  if w.extractLsb' 29 35 = 0 then
    some { stamp := w.extractLsb' 13 16, stv := w.getLsbD 12, run := w.extractLsb' 6 6, pres := w.extractLsb' 0 6 }
  else none

/-- The 64 bits of a header (03 R59). -/
def Header.pack (h : Header) : BitVec 64 := 0#35 ++ h.stamp ++ bit1 h.stv ++ h.run ++ h.pres

/-- The present slots, in word order (03 R60). -/
def Header.slots (h : Header) : List Slot :=
  (if h.pres.getLsbD 0 then [.br] else []) ++ (if h.pres.getLsbD 1 then [.sa] else []) ++
    (if h.pres.getLsbD 2 then [.sb] else []) ++ (if h.pres.getLsbD 3 then [.vx] else []) ++
    (if h.pres.getLsbD 4 then [.mx] else []) ++ (if h.pres.getLsbD 5 then [.ms] else [])

/-- Bytes the bundle occupies (03 R60). -/
def Header.size (h : Header) : Nat := 8 + 8 * h.slots.length

/-- The presence bit of a slot (03 R73). -/
def Slot.pres (s : Slot) : BitVec 6 :=
  match s with
  | .br => 1
  | .sa => 2
  | .sb => 4
  | .vx => 8
  | .mx => 16
  | .ms => 32

/-- A bundle's header and one instruction word as one number: what withFetchWord stores and decodeTableWord reads. -/
def tableHeader (w : Nat) : BitVec 64 := BitVec.ofNat 64 w
/-- The instruction word after the header. -/
def tableWord (w : Nat) : BitVec 64 := BitVec.ofNat 64 (w / 2 ^ 64)

/-- The instruction of a stored bundle: its header in bits 63..0 and its one instruction word in bits 127..64; a header with
no slot is an empty position (03 R61). The table gives no row any bits, so every row is asked with 0. -/
def decodeTableWord (_nbits w : Nat) : Option Instr :=
  match decodeHeader (tableHeader w) with
  | none => none
  | some h =>
    match h.slots with
    | [] => some .emptyPosition
    | [s] =>
      match decodeWord s (tableWord w) with
      | .ok i => some i
      | .error _ => none
    | _ :: _ :: _ => none

end Sys2Proof
end

