-- ==== Sys2Proof/Machine/State.lean ====
section
/-! DEFINITION. The state of one chip as plain data: what each agent, tile core, die, stack, plane and chip unit holds, the
machine right after reset, and the reasons a step can stop. Numbered things are sparse maps (Sys2Proof.SMap) whose unlisted
entries read as the default of their type, which is the value after reset. -/

namespace Sys2Proof.Machine

/-! ### Registers of an agent (01 R11 R26 R30) -/

/-- A predicate register and its uniform tag (01 R16). -/
structure Pred where
  bits : BitVec 256 := 0
  tag : Bool := true
  deriving DecidableEq, Repr

/-- A register with a full/empty bit (01 R15). -/
inductive RegId where
  | s (n : Nat)
  | p (n : Nat)
  | v (n : Nat)
  deriving DecidableEq, Repr

/-- A value for such a register. -/
inductive RegVal where
  | w (x : Word)
  | q (x : Pred)
  | r (x : VWord)
  deriving DecidableEq, Repr

/-- The register files of an agent and which of their registers are empty (01 R11 R15). -/
structure Regs where
  s : SMap Word := []
  p : SMap Pred := []
  v : SMap VWord := []
  b : SMap Word := []
  empty : List RegId := []
  deriving DecidableEq, Repr

/-- A producer in flight: the register it fills, with what, the flags it sets, and its cycle; `none` where the latency
is not fixed (01 R15, 05 R101, 06 R142; log 3). -/
structure Producer where
  reg : RegId
  val : RegVal
  flags : BitVec 8 := 0
  due : Option Nat := none
  /-- A load or an atomic of global memory, which FENCE waits for (07 R196). -/
  load : Bool := false
  deriving DecidableEq, Repr

/-- A loop level: remaining count and the addresses of the body's first and last stored bundle (01 R20, 05 R122). -/
structure Loop where
  lc : BitVec 32
  first : Word
  last : Word
  deriving DecidableEq, Repr

/-- A taken transfer whose delay positions are outstanding (05 R116). -/
structure Delay where
  left : Nat
  target : Word
  src : Word
  /-- The transfer is a CALL, whose return address is the bundle after its delay positions (03 R62; log 18). -/
  call : Bool := false
  deriving DecidableEq, Repr

/-- A deferred fault that has arrived (03 R83): its code, the bundle that issued the instruction, the address. -/
structure Deferred where
  code : BitVec 8
  src : Word
  addr : Word
  deriving DecidableEq, Repr

/-- What an agent is doing: `off` is an idle tile core or a held control core (01 R38), `running`, `ended` a task whose END
has issued (05 R128), `faulted` a task ending with a fault (01 R28), `halted` (01 R31), `broken` stopped by BRK (05 R135). -/
inductive Run where
  | off
  | running
  | ended
  | faulted
  | halted
  | broken
  deriving DecidableEq, Repr

/-- An access of an instruction that has issued and waits (07 R173 to R175): the instruction, its sources as read at issue,
and the page it waits for, as context and address of the 64 KiB range; none when it waits for side-log entries, a home hold or
a frozen page. -/
structure PendAccess where
  instr : Instr
  regs : Regs
  bundle : Word
  page : Option (Nat × Nat) := none
  /-- That page, by its first byte, once it has been refused: the access fails when it is next tried (07 R173, 11 R302). -/
  refused : Option (Nat × Nat) := none
  /-- Nothing of the instruction has taken effect: it follows the spill store of its bundle's CALL (10 R277). -/
  whole : Bool := false
  deriving DecidableEq, Repr

/-- A bundle held on a page that is not present: its context, the failing address, and the fault that a refusal raises. -/
structure PageHold where
  ctx : Nat
  va : Nat
  code : BitVec 8
  /-- The bundle that a refusal names as its source: for a target's own bytes, the transfer (05 R119). -/
  src : Word
  deriving DecidableEq, Repr

/-- A bundle held at WAIT, WAITMEM or WAITT (12 R319). -/
structure WaitOn where
  since : Nat
  line : Option Nat := none
  till : Option Nat := none
  deriving DecidableEq, Repr

/-- What every agent holds (01 R11 R26 R30). -/
structure Agent where
  run : Run := .off
  /-- Address of the next stored bundle. -/
  pc : Word := 0
  /-- Address of the stored bundle whose positions issue now. -/
  bundle : Word := 0
  /-- Folded empty positions still to issue (03 R61). -/
  empties : Nat := 0
  delay : Option Delay := none
  /-- The transfer bundle, while its target has not issued (05 R119). -/
  xfer : Option Word := none
  /-- Earliest issue cycle of the next position (03 R63). -/
  earliest : Nat := 0
  /-- Issue cycle of the position that issues now. -/
  issued : Nat := 0
  /-- The latest cycle in which a result of it has landed or a matrix operation of it has completed (05 R128). -/
  busyTo : Nat := 0
  /-- First cycle the bundle that issues now was tried in: its stamp in stamped mode (03 R64). -/
  tried : Option Nat := none
  /-- In stamped mode, the earliest issue cycle of a position whose bytes are still being fetched (03 R63 R64). -/
  waitFrom : Option Nat := none
  regs : Regs := {}
  flight : List Producer := []
  /-- Held link-stack entries, newest first (01 R18). -/
  links : List Word := []
  spill : BitVec 32 := 0
  lsbase : Word := 0
  /-- Active loop levels, innermost first (01 R20). -/
  loops : List Loop := []
  setAside : List Loop := []
  /-- The loop buffer (13 R340). -/
  lbuf : SMap Word := []
  /-- Lines of code fetched since the task began, or since the last trap entry, which may be used again (03 R85; log 9). -/
  lines : SMap (List Byte) := []
  /-- Of these, by number, those fetched before the last FENCE of a control core or the management controller and not since: the
  next taken transfer drops them, `staleNext` the one after a transfer that is outstanding (03 R85). -/
  stale : List Nat := []
  staleNext : List Nat := []
  /-- Lines that the bundle being read has taken bytes from, which it takes the rest of its bytes from too (03 R85). -/
  inUse : List Nat := []
  faultcode : BitVec 8 := 0
  faultpc : Word := 0
  faultsrc : Word := 0
  faultaddr : Word := 0
  trapvec : Word := 0
  epc : Word := 0
  ext : Bool := false
  inh : Bool := false
  code : BitVec 8 := 0
  deferred : List Deferred := []
  /-- Faults that have come for a task that was already ending with one (05 R139). -/
  later : Nat := 0
  /-- Last bundle of a body that LOOPSET skips, until its own positions have issued (05 R122, log 19). -/
  skip : Option Word := none
  /-- Code of a BRK whose bundle has issued (05 R135). -/
  brk : Option (BitVec 7) := none
  /-- In stamped mode, an access has met a page that is not present (07 R177). -/
  missed : Bool := false
  /-- Since when a wait holds the bundle (pod ns), the line it watches, and its time (12 R319). -/
  waitOn : Option WaitOn := none
  /-- SLEEP holds the bundle (05 R132). -/
  asleep : Bool := false
  /-- ERET is part of the bundle that issues: no body ends there (05 R125 R134). -/
  back : Bool := false
  pend : Option PendAccess := none
  /-- Accesses of the same bundle that follow `pend` (10 R277). -/
  behind : List PendAccess := []
  pageHold : Option PageHold := none
  deriving DecidableEq, Repr

/-! ### The state of a tile task and its core (01 R11, 07, 08) -/

/-- Claim states of an operand slot (01 R23). -/
inductive Claim where
  | free
  | claimed
  | filling
  | loaded
  deriving DecidableEq, Repr

/-- The array weight latch (01 R24). -/
structure Latch where
  valid : Bool := false
  fmt : Ty := .t8
  bias : BitVec 8 := 0
  weights : SMap Byte := []
  deriving DecidableEq, Repr

/-- A mapped scratchpad region (07 R184): its ranges and, by line number within it, the lines filled and dirty. -/
structure Region where
  base : Nat
  gbase : Nat
  size : Nat
  filled : List Nat := []
  dirty : List Nat := []
  deriving DecidableEq, Repr

/-- One access retired into the side log (07 R174): its kind, context, the bytes it writes or the elements it combines, and
the bundle that issued it. -/
inductive LogOp where
  | store (elems : List (Nat × List Byte))
  | atomic (op : Nat) (width : Nat) (elems : List (Nat × Word × Word))
  deriving DecidableEq, Repr

/-- A side-log entry. -/
structure LogEntry where
  ctx : Nat
  bundle : Word
  what : LogOp
  /-- Its cache hint (07 R179). -/
  hint : BitVec 2 := 0
  /-- Its place among the accesses that have retired into side logs (07 R174; log 84). -/
  num : Nat := 0
  /-- Physical lines held at their home from the page reply to the replay (07 R174, 11 R302). -/
  home : List Nat := []
  /-- Its first address on a page that has been refused (07 R176). -/
  refused : Option Nat := none
  deriving DecidableEq, Repr

/-- The write-backs of one REGFLUSH, REGDROP or REGMAP that are still to be performed (07 R187): lines with their global address
and bytes, bytes already written back, the barrier, the context and the bundle. -/
structure WriteBack where
  lines : List (Nat × List Byte)
  done : Nat := 0
  bar : Option Word := none
  /-- A scratchpad offset it had to read that is spoilt (11 R307). -/
  ecc : Option Nat := none
  ctx : Nat
  bundle : Word
  task : Nat
  launch : Nat
  /-- How often the task had been stopped before: those of fewer stops are performed first, on whatever core they stand (07 R187). -/
  stops : Nat := 0
  /-- The page it waits for. -/
  page : Option (Nat × Nat) := none
  deriving DecidableEq, Repr

/-- A matrix operation with its operands as they stood when it entered the queue (08 R207 R229). -/
inductive MatrixOp where
  | osrel (n : Nat)
  | osld (n : Nat) (off count : Nat)
  | mwld (t : Ty) (n : Nat) (bias : BitVec 8)
  | mma (zero : Bool) (t : Ty) (acc n : Nat) (row : Word) (half : Bool)
  | maccz (int : Bool) (acc : Nat)
  | maccrd (d : Nat) (acc q : Nat)
  | maccwr (acc q : Nat) (v : VWord)
  | maccst (acc : Nat) (off : Nat) (row : Word)
  | maccld (int : Bool) (acc : Nat) (off : Nat) (row : Word)
  deriving DecidableEq, Repr

/-- An entry of the matrix queue (08 R207 R208 R229 R230): its number, the operation, the earliest cycle it may start in, the
engine commands it follows, the copy it is couched on, when it started and when it completes, its flags, the barrier and event of a command, its bundle, and whether the slot it fills has been released since. -/
structure MatrixEntry where
  id : Nat
  op : MatrixOp
  ready : Nat
  after : List Nat := []
  couch : Option Nat := none
  started : Bool := false
  doneAt : Nat := 0
  /-- Once started, the cycle after that of its last row injection (08 R208 R217). -/
  injEnd : Nat := 0
  flags : BitVec 8 := 0
  /-- It has read a word that is spoilt: the fault address of its end (11 R307). -/
  ecc : Option Nat := none
  bar : Word := 0
  ev : Bool := false
  command : Bool := false
  bundle : Word := 0
  released : Bool := false
  /-- Its record waits for room, which has been counted (12 R335). -/
  waited : Bool := false
  /-- A command whose region lines are still to be filled before it may start (07 R185, 08 R210 R229). -/
  unfilled : Bool := false
  /-- The page its fill or its arrival waits for. -/
  page : Option (Nat × Nat) := none
  deriving DecidableEq, Repr

/-- What identifies a command in its reports: who sent it, the die whose queue took it, the task, its launch, its bundle, and QW1
and QW2 of a GO (08 R233); `own` is the launch that a TLAUNCH or TBIND has become. -/
structure Origin where
  by_ : Pusher
  die : Nat
  task : Nat := 0
  launch : Nat := 0
  bundle : Word := 0
  qw1 : Word := 0
  tag : Word := 0
  own : Option Nat := none
  /-- Its records go to the die that LCTL.EVDIE names when they are posted (12 R335). -/
  roams : Bool := false
  /-- The cache hint of its accesses (07 R178). -/
  hint : BitVec 2 := 0
  deriving DecidableEq, Repr

/-- A command taken by the copy or the gather engine (08 R222 to R228), with its origin, how many elements
have moved, and the index words a gather has read. -/
structure EngineCmd where
  id : Nat
  cmd : Rec
  origin : Origin
  /-- Context of its virtual addresses; none for physical ones (08 R235). -/
  ctx : Option Nat := none
  hint : BitVec 2 := 0
  started : Bool := false
  extRec : Rec := 0
  moved : Nat := 0
  /-- A gather's index words as read: (index number, value) of the current outer iteration and those before (08 R225). -/
  idx : SMap Nat := []
  counted : Bool := false
  waited : Bool := false
  /-- Matrix-queue entries that read or fill its slots and were taken earlier, and slots released since (08 R208 R212). -/
  after : List Nat := []
  released : List Nat := []
  /-- The fault it ends in, while the record of that waits for room (12 R335). -/
  failed : Option (BitVec 8 × Nat) := none
  /-- The page it waits for, as context and address. -/
  page : Option (Nat × Nat) := none
  deriving DecidableEq, Repr

/-- A block of the block cache (07 R178 R181 to R183), of the addresses of a context; one that a load has allocated has one line, is
never pinned, and has keep priority where its hint asked for it. -/
structure Block where
  ctx : Nat := 0
  addr : Nat
  lines : Nat
  pinned : Bool := true
  keep : Bool := false
  /-- Its place in the order of use: a larger number was used more recently (07 R183; log 78). -/
  used : Nat := 0
  /-- The register to mark full, and whether to post the event, while the fill is outstanding; whether its record waits for room,
  which has been counted (12 R335). -/
  fill : Option (Nat × Bool) := none
  waited : Bool := false
  age : Nat := 0
  bundle : Word := 0
  /-- Its lines are in the cache (11 R304). -/
  here : Bool := true
  /-- Of these, by number, those of home-only pages, which no cache holds (07 R178). -/
  away : List Nat := []
  /-- The page its fill waits for. -/
  page : Option (Nat × Nat) := none
  deriving DecidableEq, Repr

/-- A cached translation (11 R300): a page of `size` bytes at `va` in a context, its frame, attribute and permissions, and
whether it is locked (11 R303). -/
structure TlbEntry where
  ctx : Nat
  va : Nat
  size : Nat
  pa : Nat
  attr : Nat
  r : Bool
  w : Bool
  x : Bool
  locked : Bool := false
  deriving DecidableEq, Repr

/-- What runs on a tile core: its task (01 R26 R29, 12 R315 R327). -/
structure Task where
  /-- The model's own: tells this run of the task from every other (log 1). -/
  uid : Nat := 0
  launch : Nat
  die : Nat
  ord : Nat
  tidx : Nat
  coords : List Nat
  ctx : Nat
  entry : Word
  arg : Word
  desc : Word := 0
  /-- ISSMODE: RPL, REC, HOT, MODE from bit 3 down (01 R29). -/
  mode : BitVec 4
  /-- Frame length, and the cycle of offset 0 of frame 0, in stamped mode (12 R327). -/
  frameLen : Nat := 1
  origin : Nat := 0
  /-- Launches the task has pushed (12 R319) and its fabric requests still to be acknowledged (07 R202). -/
  pushed : List Nat := []
  outstanding : Nat := 0
  /-- How often it has been stopped and saved (12 R320). -/
  stops : Nat := 0
  /-- Why the dispatcher has asked the task to stop (12 R319). -/
  stopAsked : Option Nat := none
  /-- The lack of a save slot has been recorded (12 R322). -/
  saveNoted : Bool := false
  /-- Code an abort or a forced end raises before the next stored bundle (12 R314 R330). -/
  doom : Option (BitVec 8) := none
  deriving DecidableEq, Repr

/-- What a tile core holds beside its agent: the state of its task (01 R11) and its engines. -/
structure Core where
  qscale : BitVec 8 := 0
  /-- VMAXEXP results still to land in qscale (01 R21): cycle and value, oldest first. -/
  qpend : List (Nat × BitVec 8) := []
  status : BitVec 8 := 0
  /-- By bit of status, one more than the latest cycle the flag was set in, in which a clear leaves it set (01 R22). -/
  flagAt : SMap Nat := []
  claims : SMap Claim := []
  /-- Operand-slot bytes, at 32,768 × slot + byte (01 R11). -/
  slotMem : SMap Byte := []
  latch : Latch := {}
  /-- The latch as program order leaves it (08 R209). -/
  latchOrder : Option Ty := none
  /-- Accumulator words, at 32,768 × acc + 256 × row + column; formats as program order leaves them: true is INT32. -/
  acc : SMap (BitVec 32) := []
  accInt : SMap Bool := []
  scratch : SMap Byte := []
  /-- Words of its memories that hold an uncorrectable error (11 R307): bytes 8 × word and up, of the scratchpad, of `slotMem`, or of `acc`
  with its elements 4 bytes wide. -/
  spoilt : List (Bank × Nat) := []
  regions : SMap (Option Region) := []
  wb : List WriteBack := []
  slog : List LogEntry := []
  mq : List MatrixEntry := []
  cq : List EngineCmd := []
  gq : List EngineCmd := []
  tq : List Nat := []
  blocks : List Block := []
  /-- The last number given to a use of a block (log 78). -/
  uses : Nat := 0
  hintcnt : BitVec 32 := 0
  utlb : List TlbEntry := []
  task : Option Task := none
  gatheredFor : Option Nat := none
  cad : BitVec 5 := 1
  /-- The cadence before the last write of MXCAD, and the cycle from which the one it wrote is read (13 R343). -/
  cadWas : BitVec 5 := 1
  cadFrom : Nat := 0
  pendCad : BitVec 5 := 0
  pv : Bool := false
  tallow : BitVec 8 := 0
  thermLo : BitVec 16 := 0
  thermHi : BitVec 16 := 0
  trip : Bool := false
  gate : Bool := false
  power : Nat := 0
  /-- Governor (13 R344): the window of 64 cycles that runs, the load of the last one, and the row injections that reach into
  it, as start, interval, base interval and rows. -/
  win : Nat := 0
  load : Nat := 0
  /-- While it is gathered, the cycle in which its load has reached 64 (12 R326, 13 R348). -/
  fullAt : Nat := 0
  inj : List (Nat × Nat × Nat × Nat) := []
  /-- Armed for the absolute and the vertical warning (13 R361), and a trip that is due (13 R358). -/
  armed : Bool := true
  armedV : Bool := true
  tripDue : Bool := false
  /-- The alert bits of a trip that is due: those of the limits that its samples passed (13 R358). -/
  tripWhy : BitVec 8 := 0
  deriving DecidableEq, Repr

/-! ### Dies (11, 12, 13) -/

/-- An unanswered page request (11 R302). -/
structure PageReq where
  num : Nat
  ctx : Nat
  va : Nat
  kind : Nat
  deriving DecidableEq, Repr

/-- A die event record still to be posted (12 R335 R336); `data` holds the line of kind 0x09. -/
structure EvRec where
  kind : Nat
  code : BitVec 8 := 0
  agent : Nat := 0x7F
  slot : Nat := 0
  tag : Nat := 0
  /-- The launch concerned, which the record counts as a sink of (12 R334). -/
  launch : Option Nat := none
  w2 : Word := 0
  w3 : Word := 0
  w4 : Word := 0
  w5 : Word := 0
  data : List Byte := []
  waited : Bool := false
  deriving DecidableEq, Repr

/-- The migration engine of a die (11 R305 R306). -/
structure Migration where
  ctl : Word := 0
  dst : Word := 0
  dirtyCount : Nat := 0
  rounds : Nat := 0
  state : Nat := 0
  leafAt : Nat := 0
  leaf : Word := 0
  frame : Nat := 0
  size : Nat := 0
  /-- New frame, context and address of the page that is being moved, as MIGGO found them in the registers (11 R306). -/
  to_ : Nat := 0
  ctx : Nat := 0
  va : Nat := 0
  /-- Lines dirtied in the running round, the newest first, and those it has to copy. -/
  dirty : List Nat := []
  todo : List Nat := []
  deriving DecidableEq, Repr

/-- A suspended task in the save area (12 R319 to R322): its slot, agent, core state and task, and when it may resume: 0 at
once, 1 after the launches it pushed are dispatched, 2 at a write, a time or 10 µs (log 10). -/
structure Saved where
  slot : Nat
  agent : Agent
  core : Core
  task : Task
  why : Nat
  /-- Why it was stopped: 1 priority, 2 eviction, 3 YIELD, 4 a replay mismatch, 5 a wait (12 R319 R333). -/
  cause : Nat := 1
  since : Nat := 0
  watch : Option Nat := none
  until_ : Option Nat := none
  deriving DecidableEq, Repr

/-- What a die holds beside its cores. -/
structure Die where
  tlb : List TlbEntry := []
  /-- Lines of other dies of which the remote-data cache holds a copy, the most recently used first (07 R178, 10 R274). -/
  remote : List Nat := []
  preqs : List PageReq := []
  preqNext : BitVec 16 := 0
  eccCor : BitVec 32 := 0
  eccUnc : BitVec 32 := 0
  mig : Migration := {}
  evAddr : BitVec 28 := 0
  evEn : Bool := false
  evLog2 : Nat := 10
  evHolds : BitVec 32 := 0
  evLost : BitVec 32 := 0
  evqhead : BitVec 32 := 0
  evqtail : BitVec 32 := 0
  evWait : List EvRec := []
  /-- Accesses that wait for room for their record, by agent and kind of record, each counted once (12 R335). -/
  asked : List (Nat × Nat) := []
  saveAddr : BitVec 20 := 0
  saveCnt : BitVec 8 := 0
  saved : List Saved := []
  l2win : SMap Word := []
  margin : SMap (BitVec 8) := []
  /-- Rail voltages in mV; one not listed stands at the low end of its range (13 R353; log 7). -/
  railMv : SMap (BitVec 16) := []
  /-- Fabric requests of the die's control core still to be acknowledged (07 R202 R438). -/
  outstanding : Nat := 0
  deriving DecidableEq, Repr

/-! ### The chip -/

/-- A task of a launch that has completed and is not yet reported (12 R318). -/
structure Done where
  die : Nat
  ord : Nat
  tidx : Nat
  code : BitVec 8
  addr : Word
  /-- The rest of its fault record: faultpc, faultsrc, and how many faults came later (01 R28, 05 R139). -/
  pc : Word := 0
  src : Word := 0
  later : Nat := 0
  deriving DecidableEq, Repr

/-- A launch, from its taking to its completion (12 R310 to R334). -/
structure Launch where
  num : Nat
  depth : Nat
  prio : Nat
  ctx : Nat
  rec_ : Rec
  table : Rec
  /-- Its place among tile instructions, its origin, the scope whose barriers wait for it, its level and its die. -/
  id : Nat
  origin : Origin
  scope : Option TileQueue := none
  level : Nat
  onDie : Option Nat := none
  phys : Bool := false
  /-- LQ entry while it waits, active slot afterwards. -/
  place : Nat
  active : Bool := false
  released : Bool := false
  /-- Per die: the lowest tidx not yet considered for dispatch (for a stamped launch by strand, the tidx after its last task), the
  tasks dispatched, and the tasks reported. -/
  next : SMap Nat := []
  sent : SMap Nat := []
  head : SMap Nat := []
  done : List Done := []
  nfault : Nat := 0
  bound : Option Nat := none
  first : Option Done := none
  abort : Option (BitVec 8) := none
  aborted : Nat := 0
  abortFirst : Option Nat := none
  halted : Bool := false
  replayOff : Bool := false
  sinkKind : Nat := 0
  sinkTime : Nat := 0
  /-- Watchdog clock (12 R334): the pod time since which it runs, and what it had reached before. -/
  clockFrom : Option Nat := none
  clockAcc : Nat := 0
  /-- Core of each strand, plus one (12 R316). -/
  strands : SMap Nat := []
  begun : Bool := false
  frame0 : Nat := 0
  logCount : Nat := 0
  logTrunc : Bool := false
  streams : SMap Nat := []
  /-- Ring positions of a binding that messages have taken, those of them written whole beyond the first one that is not, the
  deliveries before that one, and the launch that unbinds it (09 R266 to R268). -/
  taken : Nat := 0
  filled : List Nat := []
  delivered : Nat := 0
  /-- Positions taken by messages that have been discarded: the next deliveries take them (09 R267, 15 R395). -/
  holes : List Nat := []
  unbound : Option Nat := none
  /-- Its overridden hint has been counted (07 R179). -/
  counted : Bool := false
  /-- A record of it waits for room, which has been counted (12 R335). -/
  waited : Bool := false
  /-- The page that its completion, or an access to its decision log, waits for. -/
  page : Option (Nat × Nat) := none
  /-- That page has been refused, and the access to the log fails (11 R302, 12 R331). -/
  logLost : Bool := false
  deriving DecidableEq, Repr

/-- A report (09 R253 R254): words 2 to 7 by field, and the byte offset of the shape field a SHAPE_INVALID names (log 31). -/
structure Rep where
  code : BitVec 8 := 0
  child : BitVec 8 := 0
  level : Nat := 0
  oor : Bool := false
  flags : BitVec 8 := 0
  chip : Nat := 0
  die : Nat := 0
  dchild : Nat := 0
  lane : Nat := 0
  llvl : Nat := 0
  lcode : BitVec 8 := 0
  first : Nat := 0
  nfault : Nat := 0
  laddr : Word := 0
  bytes : Nat := 0
  field : Nat := 0
  deriving DecidableEq, Repr

/-- A tile instruction in flight at a level (09 R240 to R255): its record, where it was taken, its origin, context, priority and
depth, the entry whose child it is with its index, whether its checks have passed, its shape records, and its run. A core-level
one holds its core, the units it has computed and the output of the last one still to be written, by operand. `rep` gathers what it has done,
`reports` what its children have reported, `keys` the ranked elements of a TTOPK. -/
structure TileEntry where
  id : Nat
  rec_ : Rec
  queue : TileQueue
  level : Nat
  origin : Origin
  ctx : Nat
  phys : Bool
  prio : Nat := 0
  depth : Nat := 0
  parent : Option (Nat × Nat) := none
  checked : Bool := false
  shapes : List Rec := []
  first : Nat := 0
  units : Nat := 0
  done : Nat := 0
  writes : List (Nat × Nat × List Byte) := []
  core : Option Nat := none
  /-- Matrix-queue entries with scratchpad bytes, or naming acc3, that stood before it when it was taken (08 R210, 09 R272). -/
  after : List Nat := []
  /-- It is a TLAUNCH or TBIND whose loop table waits for a page: whether it came by LQ, and the die of a level-2 one (11 R299). -/
  launch : Option (Bool × Nat) := none
  reports : List (Nat × Rep) := []
  keys : List (Nat × Nat) := []
  ranked : Bool := false
  rep : Rep := {}
  /-- A refusal or a fault of its own, which its report will carry. -/
  failed : Bool := false
  /-- Its overridden hint has been counted (07 R179). -/
  counted : Bool := false
  /-- Its record waits for room, which has been counted (12 R335). -/
  waited : Bool := false
  /-- The page it waits for. -/
  page : Option (Nat × Nat) := none
  deriving DecidableEq, Repr

/-- A barrier instance that is open in a scope (09 R270): its tag, its count and the TBARRIER records taken, and at level 4
whether this chip has arrived at the pod barrier. -/
structure BarrierInst where
  scope : TileQueue
  tag : Nat
  count : Nat
  members : List Nat
  arrived : Bool := false
  deriving DecidableEq, Repr

/-! ### Power, stacks, fabric, pod time, management (13 to 16) -/

/-- An HBM stack (13 R354 to R356): its last reading, its step S and floor, its cap, whether the next successful read chooses
afresh and whether it is the first since reset, the warning's armed mark, and refresh holds by pseudo-channel, in pod ns. -/
structure Stack where
  valid : Bool := false
  degc : BitVec 8 := 0
  floor : Nat := 0
  s : Nat := 2
  limit : Nat := 16
  afresh : Bool := true
  everRead : Bool := false
  armed : Bool := true
  hold : SMap Nat := []
  deriving DecidableEq, Repr

/-- A clock change in progress (13 R350): its step and its phase: 0 waits for stamped launches, 1 waits for the rails, 2 is the
pause. -/
structure ClockChange where
  target : Nat
  phase : Nat
  /-- CLKSTAT.WSTAMP: step 2 has found stamped launches to wait for (13 R350). -/
  wstamp : Bool := false
  /-- Pod time and cycle at which the pause began (13 R351). -/
  since : Nat := 0
  from_ : Nat := 0
  deriving DecidableEq, Repr

/-- Free-slot counters of a port (14 R379). -/
structure Fsc where
  rxfreed : BitVec 16 := 0
  freed : BitVec 16 := 0
  sent : BitVec 16 := 0
  deriving DecidableEq, Repr

/-- A watermark input and what was last heard there (15 R388 R393 R397 R401): floors, chip, pod-barrier bits with the generations that
this chip's channels had then, time sync, the slot, and the pod time at which the path floor last rose or was last reported. -/
structure PlaneIn where
  pf : Nat := 0
  hf : Nat := 0
  chip : Nat := 0
  bar : BitVec 16 := 0
  gens : List (BitVec 32) := []
  heard : Bool := false
  heardAt : Nat := 0
  tsync : Bool := false
  since : Nat := 0
  deriving DecidableEq, Repr

/-- A fabric plane (14 R378): table bytes at 1024 × bank + 16 × entry + lane, detours at 128 × bank + index; `failed` lists the
lines that are out, `out` the lanes that are retuning, `locked` the lanes that have heard a header; `armed` is a stamp with the slot
of its switch, `since` the slot of the last switch. -/
structure Plane where
  len0 : BitVec 6 := 0
  len1 : BitVec 6 := 0
  rxbuf : Nat := 16
  light : Bool := false
  en : Bool := false
  bad : Bool := false
  armed : Option (Nat × Nat) := none
  bank : Bool := false
  since : Nat := 0
  lock : Bool := false
  locked : List Nat := []
  litAt : Nat := 0
  /-- When the stall intervals of its inputs began (15 R397). -/
  stallAt : Nat := 0
  failed : List Nat := []
  out : List Nat := []
  retcnt : BitVec 32 := 0
  table : SMap (BitVec 8) := []
  detours : SMap Word := []
  fsc : SMap Fsc := []
  ins : SMap PlaneIn := []
  inmask : Word := 0
  deriving DecidableEq, Repr

/-- A remote atomic as its issuer keeps it (07 R200, 15 R403): the destination address, the operand words, the context, type and
operation, and the core and register that wait for the old value. -/
structure Fatom where
  addr : Word
  b : Word
  cmp : Word
  ctx : Nat
  wide : Bool
  op : Nat
  core : Nat
  d : Nat
  deriving DecidableEq, Repr

/-- A request of this chip that is not yet acknowledged (14 R370 to R376): its sequence, its origin, command, atomic or level-4
record, the context of its own accesses and that of the ones at the destination, its stamp, its attempt, the pod times of the first
handover of all and of the last of this attempt, and the plane each chunk of this attempt and of the one before went on. -/
structure FabReq where
  seq : Nat
  origin : Origin
  cmd : Rec := 0
  fatom : Option Fatom := none
  /-- The PQ entry whose record it carries (09 R248). -/
  pod : Option Nat := none
  ctx : Option Nat := none
  dctx : Nat := 0
  dst : Nat
  len : Nat
  ord : Bool := false
  stamp : Nat := 0
  /-- A FATOM that waits for the window of 15 R404. -/
  waits : Bool := false
  attempt : Nat := 0
  /-- Since when its chunks wait for a slot: its taking, its release, or the start of the attempt (14 R371). -/
  at_ : Nat := 0
  first : Option Nat := none
  last : Option Nat := none
  sent : List (Nat × Nat) := []
  prev : List (Nat × Nat) := []
  /-- The FQ that it occupies: a tile core's, or 96 + d for a control FQ (13 R338; log 35). -/
  queue : Option Nat := none
  /-- Its overridden hint has been counted (07 R179). -/
  counted : Bool := false
  /-- Acknowledged, while its arrival or its record waits; the page it waits for. -/
  acked : Bool := false
  waited : Bool := false
  page : Option (Nat × Nat) := none
  deriving DecidableEq, Repr

/-- A slot header with its payload (14 R369). -/
structure Chunk where
  hdr : BitVec 512
  data : List Byte
  deriving DecidableEq, Repr

/-- A chunk held for forwarding (14 R374): the plane and port it came by, the slot and time it arrived in, and whether its buffer
has been freed, when its hand-over did not stand (15 R392). -/
structure Held where
  chunk : Chunk
  plane : Nat
  port : Nat
  slot : Nat
  at_ : Nat
  copy : Bool := false
  /-- The plane on which its hand-over did not stand: another one is taken where there is one (15 R392). -/
  avoid : Option Nat := none
  deriving DecidableEq, Repr

/-- An ordered chunk handed to a lane (15 R392): slot, plane and lane, the request and chunk number of an own one, or the copy of a
forwarded one. -/
structure SentChunk where
  slot : Nat
  plane : Nat
  lane : Nat
  seq : Nat
  idx : Nat
  held : Option Held
  deriving DecidableEq, Repr

/-- A chunk of a message that arrives: its offset and bytes, the plane and port of its buffer (plane 8 for a loopback), and whether
it has been performed and its buffer freed. -/
structure RxChunk where
  off : Nat
  data : List Byte
  plane : Nat
  port : Nat
  done : Bool := false
  deriving DecidableEq, Repr

/-- A message arriving at this chip (14 R372 R377, 15 R394): a header of it, when its first and its last chunk so far arrived, its
context where the model knows it (log 37), its chunks, whether its destination has been checked, and of a send the binding's launch
with the ring position it has, and whether its descriptor has been written (09 R267). -/
structure RxMsg where
  src : Nat
  seq : Nat
  hdr : BitVec 512
  at_ : Nat
  last : Nat
  ctx : Option Nat := none
  chunks : List RxChunk
  checked : Bool := false
  pos : Option (Nat × Nat) := none
  described : Bool := false
  /-- The page its performance waits for. -/
  page : Option (Nat × Nat) := none
  deriving DecidableEq, Repr

/-- An acknowledgement or an atomic reply that waits for a lane since a pod time (14 R371 R375, 15 R403); `bar` says that the barrier is
what failed, which only this chip itself can know (11 R299; log 41). -/
structure Answer where
  dst : Nat
  seq : Nat
  result : Nat
  reply : Option Word := none
  bar : Bool := false
  at_ : Nat := 0
  deriving DecidableEq, Repr

/-- The reply cache of a source chip (15 R405): LOWSEQ and entries of sequence, old value and result. -/
structure ReplyCache where
  low : Nat := 0
  entries : List (Nat × Word × Nat) := []
  deriving DecidableEq, Repr

/-- A pod-barrier channel (15 R401 R402): completed generations, the arrived and herd-complete flags, TBARRIER instances that
arrived in this generation and those that wait to arrive. -/
structure PodBar where
  gen : BitVec 32 := 0
  arrived : Bool := false
  herd : Bool := false
  members : List Nat := []
  waiting : List Nat := []
  deriving DecidableEq, Repr

/-- The fabric logic of the chip (14, 15): sequence counter, FABCTL, requests, received messages, completion records (source,
sequence, result, time), answers pending, chunks held for forwarding, the lanes of the last handover by 16 × plane + lane,
the slot last handed over, reply caches, watermark, OTCTL, the key last delivered, pod barriers. -/
structure Fabric where
  seq : Nat := 0
  rto : Nat := 10
  retry : Nat := 8
  herdm1 : BitVec 5 := 0
  reqs : List FabReq := []
  /-- FATOMs that have ended, by destination and sequence, from the lowest unreplied one to it on (15 R404). -/
  gone : List (Nat × Nat) := []
  rx : List RxMsg := []
  done : List (Nat × Nat × Nat × Nat) := []
  answers : List Answer := []
  fwd : List Held := []
  lanes : SMap (Option Chunk) := []
  slot : Nat := 0
  /-- Ordered chunks handed over in the last two slots (15 R392). -/
  handed : List SentChunk := []
  cache : SMap ReplyCache := []
  wmark : Nat := 0
  stall : Nat := 20
  key : Option (Nat × Nat × Nat) := none
  /-- Floors received and not yet applied: slot, plane, port, value; and by 16 × plane + lane, one more than the last slot heard
  there (15 R393; log 36). -/
  floors : List (Nat × Nat × Nat × Nat) := []
  heard : SMap Nat := []
  bars : SMap PodBar := []
  deriving DecidableEq, Repr

/-- Pod time control (15 R389): PTCTL and PTSTAT; `acq` says that time has been stepped once. -/
structure PodTime where
  dom : BitVec 8 := 0
  root : Bool := false
  offs : BitVec 16 := 0
  hold : Bool := false
  ext : Bool := false
  sync : Bool := false
  acq : Bool := false
  /-- Correction still to be slewed in, in ns, and the ns that have passed toward its next one (15 R388; log 40). -/
  slew : Int := 0
  slewAcc : Nat := 0
  deriving DecidableEq, Repr

/-- The management block, measurements, side band and host port (16): MBEN, BOOTSTAT, PODLEAD, PODHEAD, CCPC, MR0 to MR7, MRX,
notifications queued, the link, the last replies on the link and the side band, the endpoint's EID and the image that a firmware update
has written to the boot flash. -/
structure Mgmt where
  mben : Bool := false
  stage : BitVec 8 := 0
  image : BitVec 6 := 0
  fail : Bool := false
  done : Bool := false
  /-- The ROM has measured itself, the images it has taken, and the entry of the one of kind 0x01 (16 R416). -/
  begun : Bool := false
  taken : Nat := 0
  entry : Option Word := none
  podlead : Word := 0
  podhead : BitVec 32 := 0
  podtail : BitVec 32 := 0
  ccpc : SMap Word := []
  mr : SMap (BitVec 384) := []
  mrx : SMap Word := []
  hostq : List Word := []
  /-- Notifications sent on the link, oldest first (16 R410). -/
  noted : List Word := []
  linkUp : Bool := true
  mbReply : List Byte := []
  sbReply : List Byte := []
  eid : BitVec 8 := 0
  update : List Byte := []
  deriving DecidableEq, Repr

/-- A queue-register set (08 R233, 11 R293). -/
structure RegSet where
  qw : SMap Word := []
  ctx : BitVec 6 := 0
  seq : BitVec 16 := 0
  refused : BitVec 16 := 0
  result : BitVec 4 := 0
  pres : BitVec 4 := 0
  deriving DecidableEq, Repr

/-- A shootdown register set (11 R304). -/
structure Shootdown where
  ctl : Word := 0
  bad : Bool := false
  busy : Bool := false
  deriving DecidableEq, Repr

/-- The sources of a bundle as read at issue (01 R13 R21): register files and scale latch. -/
structure Latched where
  regs : Regs
  qscale : BitVec 8
  deriving DecidableEq, Repr

/-- How the last slot, bundle or event ended: it took effect, its bundle is held for want of something, or it raised a
fault that has been taken. -/
inductive Res where
  | issued
  /-- In stamped mode the bundle may be held for `grace` cycles from its issue cycle (05 R130). -/
  | held (grace : Nat)
  | faulted
  deriving DecidableEq, Repr

/-- One thing that happens next: agent `n` issues a position, or a command or event takes place (log 1). -/
inductive Act where
  | agent (n : Nat)
  | event (i : Instr)
  deriving DecidableEq, Repr

/-- The whole chip. -/
structure State where
  /-- The model's own: what happens next, and who issues when nothing is listed (log 1). -/
  agenda : List Act := []
  cur : Nat := 100
  /-- The model's own: how the last act ended (log 2). -/
  res : Res := .issued
  /-- The model's own: the source registers as read at issue, while a bundle of several slots issues (01 R13, log 2). -/
  latched : Option Latched := none
  /-- The model's own: while a page is being refused, its context and address (11 R302). -/
  refuse : Option (Nat × Nat) := none
  /-- The model's own: drawn by every free value (log 8). -/
  fresh : Nat := 0
  cycle : Nat := 0
  chipid : BitVec 11 := 0
  agents : SMap Agent := []
  cores : SMap Core := []
  dies : SMap Die := []
  /-- Physical bytes of HBM and management SRAM; an unlisted byte reads as zero (10 R276, 11 R298, 16 R415). -/
  mem : List Host.Cell := []
  /-- Poisoned 128-byte lines, by number (11 R307). -/
  poison : List Nat := []
  ctxroot : SMap Word := []
  regsets : SMap RegSet := []
  shoot : SMap Shootdown := []
  nextId : Nat := 0
  /-- Thermal alert block (13 R360). -/
  alertStatus : BitVec 8 := 0
  alertMask : BitVec 8 := 0
  /-- Bits set in cycle `alertAt`, which a clear of that cycle leaves set (13 R361). -/
  alertFresh : BitVec 8 := 0
  alertAt : Nat := 0
  /-- A side-band message is pending (01 R32, 16 R411). -/
  sideMsg : Bool := false
  /-- Event log ring (16 R418 R419): entries at 32 × index, and its registers. -/
  elRing : SMap Byte := []
  elHead : BitVec 32 := 0
  elTail : BitVec 32 := 0
  /-- The cycle of the last firmware post, plus one, and how many entries at the tail it has brought (16 R418). -/
  elPushAt : Nat := 0
  elPushes : Nat := 0
  elHwm : Nat := 0
  elLost : BitVec 32 := 0
  elW : SMap Word := []
  /-- CFSTAT.HALT and DBGCTL (16 R414). -/
  cfHalt : BitVec 4 := 0
  dbgEn : BitVec 4 := 0
  dbgHalt : Bool := false
  /-- Launch control (12 R313). -/
  evdie : Nat := 0
  gate : BitVec 4 := 0
  wdog : Nat := 1000
  launchNext : Nat := 0
  launches : List Launch := []
  tiles : List TileEntry := []
  barriers : List BarrierInst := []
  /-- Clock step 0 to 3 and the cycle and pod time at which it was last set (13 R349, 15 R389). -/
  step_ : Nat := 3
  /-- GOVCTL.RAMP (13 R349) and a clock change in progress (13 R350). -/
  ramp : Nat := 8
  clk : Option ClockChange := none
  hbm : SMap Stack := []
  planes : SMap Plane := []
  fab : Fabric := {}
  pt : PodTime := {}
  mg : Mgmt := {}
  /-- ALERT_THRESH and ALERT_SRC (13 R360). -/
  thHbm : BitVec 8 := 85
  thVert : BitVec 16 := 80
  thCore : BitVec 16 := 760
  srcStack : Nat := 0
  srcCore : Nat := 0
  srcStackAt : Nat := 0
  srcCoreAt : Nat := 0
  timeBase : Nat := 0
  cycleBase : Nat := 0
  /-- What is left of a nanosecond at `timeBase`, in parts of the clock step's rate (13 R349). -/
  timeRem : Nat := 0
  deriving DecidableEq, Repr

/-- Reasons a step stops without a next state. -/
inductive Fault where
  /-- The agenda names an agent number above 100 (01 R10); raised by step. Safe: there is no such agent. -/
  | noSuchAgent
  /-- The agenda lists a program instruction where a command or an event belongs (log 1); raised by step. Safe: an instruction issues
  only from a bundle. -/
  | notAnEvent
  deriving DecidableEq, Repr

/-- Reasons a step is refused. -/
inductive Refusal where
  /-- The instruction has no meaning in the model; raised by exec. Safe. -/
  | notModelled (mnemonic : String)
  deriving DecidableEq, Repr

/-- Address of the boot ROM (16 R413), where the management controller starts (01 R38). -/
def bootRomBase : Word := 0xF000F00000

/-- The machine right after power-on reset (01 R38). -/
def State.reset : State where
  agents := [(100, { run := .running, pc := bootRomBase })]

end Sys2Proof.Machine
end

