-- ==== Sys2Proof/Machine/Ops.lean ====
section
/-! DEFINITION. The named operations over the state: agents, cores, registers, bytes, flags, producers, link and loop state,
and taking and returning from a trap. Every meaning acts through these. -/

namespace Sys2Proof.Machine

open Host (Outcome)

/-! ### Bytes -/

/-- `n` bytes of sparse memory from `a`, lowest first. -/
def bytesAt (m : SMap Byte) (a : Nat) (n : Nat) : List Byte :=
  match n with
  | 0 => []
  | k + 1 => SMap.get 0 m a :: bytesAt m (a + 1) k

/-- Bytes put from `a` up. -/
def putBytes (m : SMap Byte) (a : Nat) (bs : List Byte) : SMap Byte :=
  match bs with
  | [] => m
  | b :: r => putBytes (SMap.set 0 m a b) (a + 1) r

/-- The number of little-endian bytes (00 R3). -/
def ofBytes (bs : List Byte) : Nat :=
  match bs with
  | [] => 0
  | b :: r => b.toNat + 256 * ofBytes r

/-- The `n` low bytes of a number, lowest first (00 R3). -/
def toBytes (x : Nat) (n : Nat) : List Byte :=
  match n with
  | 0 => []
  | k + 1 => BitVec.ofNat 8 x :: toBytes (x / 256) k

/-- Bits [lo + n − 1 : lo] of a word as a number. -/
def bitsOf (w : Word) (lo n : Nat) : Nat := w.toNat / 2 ^ lo % 2 ^ n

/-- A one-bit field. -/
def bitOf (w : Word) (i : Nat) : Bool := w.getLsbD i

/-- Word `i` of a record (00 R3). -/
def Rec_word (r : Rec) (i : Nat) : Word := r.extractLsb' (64 * i) 64

/-- The record of 64 bytes. -/
def recOf (bs : List Byte) : Rec := BitVec.ofNat 512 (ofBytes bs)

/-- The 64 bytes of a record. -/
def recBytes (r : Rec) : List Byte := toBytes r.toNat 64

/-! ### Agents and cores -/

/-- The agent that acts. -/
def State.me (s : State) : Agent := s.agents.get {} s.cur
/-- Agent `n`. -/
def State.agent (s : State) (n : Nat) : Agent := s.agents.get {} n
/-- Replaces agent `n`. -/
def State.setAgent (s : State) (n : Nat) (a : Agent) : State := { s with agents := s.agents.set {} n a }
/-- Replaces the agent that acts. -/
def State.setMe (s : State) (a : Agent) : State := s.setAgent s.cur a
/-- Changes the agent that acts. -/
def State.modMe (s : State) (f : Agent → Agent) : State := s.setMe (f s.me)
/-- Tile core `n`. -/
def State.core (s : State) (n : Nat) : Core := s.cores.get {} n
/-- Replaces tile core `n`. -/
def State.setCore (s : State) (n : Nat) (c : Core) : State := { s with cores := s.cores.set {} n c }
/-- The core of the agent that acts. -/
def State.myCore (s : State) : Core := s.core s.cur
/-- Changes the core of the agent that acts. -/
def State.modCore (s : State) (f : Core → Core) : State := s.setCore s.cur (f s.myCore)

/-- The kind of agent `n` (01 R9 R10). -/
def kindOf (n : Nat) : Kind := if n < 96 then .tile else if n < 100 then .control else .machine
/-- The kind of the agent that acts. -/
def State.kind (s : State) : Kind := kindOf s.cur
/-- The die of an agent; the management controller stands on die 0 (00 R1, 01 R10). -/
def dieOf (n : Nat) : Nat := if n < 96 then n / 24 else if n < 100 then n - 96 else 0

/-- Tile core `n` runs a stamped task, or has it stopped at a BRK: it issues at cycles of its own, which may come before the one the chip has
reached (05 R135; log 46). -/
def State.stampedRun (s : State) (n : Nat) : Bool :=
  kindOf n == .tile && ((s.agent n).run == .running || (s.agent n).run == .broken) && (s.core n).task.any (·.mode.getLsbD 0)

/-- The cycle by which what agent `n` has in flight has come: its next position may read it (01 R15; log 46). -/
def State.reached (s : State) (n : Nat) : Nat :=
  if s.stampedRun n then (s.agent n).earliest else max (s.agent n).earliest s.cycle

/-- The cycle up to which engines and arrays have run: they stand while the clock pauses (13 R350 step 4). -/
def State.arrayCycle (s : State) : Nat :=
  match s.clk with
  | some c => if c.phase = 2 then c.from_ else s.cycle
  | none => s.cycle

/-- The cycle up to which those of tile core `n` have run: not past the next position of a stamped task (log 46). -/
def State.ranTo (s : State) (n : Nat) : Nat := if s.stampedRun n then min (s.agent n).earliest s.arrayCycle else s.arrayCycle

/-! ### Registers (01 R11 to R17) -/

/-- The value p1 to p15 hold at dispatch. -/
def Pred.zeros : Pred := { bits := 0, tag := true }
/-- p0 (01 R12). -/
def Pred.ones : Pred := { bits := BitVec.allOnes 256, tag := true }
/-- A predicate of one result in all 256 bits, tagged (01 R16). -/
def Pred.all (b : Bool) : Pred := if b then Pred.ones else Pred.zeros

/-- A scalar register; s0 reads zero (01 R12). -/
def Regs.rs (r : Regs) (n : Nat) : Word := if n = 0 then 0 else r.s.get 0 n
/-- A predicate register; p0 reads all ones (01 R12). -/
def Regs.rp (r : Regs) (n : Nat) : Pred := if n = 0 then Pred.ones else r.p.get Pred.zeros n
/-- A vector register. -/
def Regs.rv (r : Regs) (n : Nat) : VWord := r.v.get 0 n
/-- A branch-target register. -/
def Regs.rb (r : Regs) (n : Nat) : Word := r.b.get 0 n

/-- s0 and p0 discard writes and are never empty (01 R12). -/
def RegId.wired (r : RegId) : Bool :=
  match r with
  | .s n => n == 0
  | .p n => n == 0
  | .v _ => false

/-- Writes a register, leaving it full; a write to s0 or p0 is discarded (01 R12 R15). -/
def Regs.write (g : Regs) (r : RegId) (x : RegVal) : Regs :=
  if r.wired then g
  else
    let g1 := { g with empty := g.empty.filter (· ≠ r) }
    match r, x with
    | .s n, .w y => { g1 with s := g1.s.set 0 n y }
    | .p n, .q y => { g1 with p := g1.p.set Pred.zeros n y }
    | .v n, .r y => { g1 with v := g1.v.set 0 n y }
    | _, _ => g1

/-- Marks a register empty (01 R15). -/
def Regs.mark (g : Regs) (r : RegId) : Regs :=
  if r.wired || g.empty.contains r then g else { g with empty := r :: g.empty }

/-- Full again with its old value: nothing will be written (log 43). -/
def Regs.release (g : Regs) (r : RegId) : Regs := { g with empty := g.empty.filter (· ≠ r) }

/-- Empty (01 R15). -/
def Regs.isEmpty (g : Regs) (r : RegId) : Bool := !r.wired && g.empty.contains r

/-- The register files as sources are read from: as they stood at issue (01 R13). -/
def State.src (s : State) : Regs :=
  match s.latched with
  | some g => g.regs
  | none => s.me.regs

/-- The last VMAXEXP result to have landed by cycle `c`, or the latch itself (01 R21). -/
def Core.qAt (k : Core) (c : Nat) : BitVec 8 :=
  (k.qpend.filter (fun p => decide (p.1 ≤ c))).foldl (fun _ p => p.2) k.qscale

/-- The scale latch as the bundle that issues reads it (01 R21). -/
def State.qNow (s : State) : BitVec 8 :=
  match s.latched with
  | some g => g.qscale
  | none => s.myCore.qAt s.me.issued

/-- VMAXEXP results due by cycle `c` land (01 R21). -/
def Core.qSettle (k : Core) (c : Nat) : Core :=
  { k with qscale := k.qAt c, qpend := k.qpend.filter (fun p => decide (c < p.1)) }

/-- Changes the register files of agent `n`. -/
def State.modRegs (s : State) (n : Nat) (f : Regs → Regs) : State :=
  let a := s.agent n
  s.setAgent n { a with regs := f a.regs }

/-! ### Flags (01 R22) -/

/-- The cycles flags were last set in, once those of `f` have been set in cycle `c` too. -/
def noteFlags (m : SMap Nat) (f : Flags) (c : Nat) : SMap Nat :=
  (List.range 8).foldl (fun l i => if f.getLsbD i then l.set 0 i (max (l.get 0 i) (c + 1)) else l) m

/-- Sets flags of a tile task at cycle `c`; other agents have no status register (05 R102). -/
def State.raiseFlags (s : State) (n : Nat) (f : Flags) (c : Nat) : State :=
  if f = 0 || kindOf n != .tile then s
  else
    let k := s.core n
    s.setCore n { k with status := k.status ||| f, flagAt := noteFlags k.flagAt f c }

/-- Flag `i` has been set in cycle `c` or later. -/
def Core.setAt (k : Core) (i c : Nat) : Bool := decide (c + 1 ≤ k.flagAt.get 0 i)

/-- Writing 1 to status in cycle `c` clears, but for a flag set in the same cycle or later (01 R22; log 46). -/
def Core.clearStatus (k : Core) (w : Flags) (c : Nat) : Core :=
  { k with status := (List.range 8).foldl (fun b i => if k.setAt i c then b else b &&& ~~~(w &&& BitVec.ofNat 8 (2 ^ i))) k.status }

/-! ### Producers (01 R15) -/

/-- A producer writes its result and its flags. -/
def State.land (s : State) (n : Nat) (p : Producer) (c : Nat) : State :=
  (s.modRegs n fun g => g.write p.reg p.val).raiseFlags n p.flags c

/-- The latest cycle of a landing, of those before and of some producers; one without a cycle of its own lands at `c`. -/
def lastDue (c : Nat) (l : List Producer) (m : Nat) : Nat := l.foldl (fun x p => max x (p.due.getD c)) m

/-- The producers of agent `n` that are due by cycle `c`, landed in program order. -/
def State.landDue (s : State) (n : Nat) (c : Nat) : State :=
  let a := s.agent n
  let ready (p : Producer) : Bool :=
    match p.due with
    | some d => decide (d ≤ c)
    | none => false
  let s1 := s.setAgent n
    { a with flight := a.flight.filter (!ready ·), busyTo := lastDue c (a.flight.filter ready) a.busyTo }
  (a.flight.filter ready).foldl (fun t p => t.land n p (p.due.getD c)) s1

/-- Every producer of agent `n` lands. -/
def State.landAll (s : State) (n : Nat) : State :=
  let a := s.agent n
  a.flight.foldl (fun t p => t.land n p (p.due.getD t.cycle))
    (s.setAgent n { a with flight := [], busyTo := lastDue s.cycle a.flight a.busyTo })

/-- An instruction of latency `lat` writes `reg`: at once for 1, else the register is empty until then (01 R15). -/
def State.produce (s : State) (reg : RegId) (x : RegVal) (f : Flags) (lat : Nat) : State :=
  let c := s.me.issued
  if lat ≤ 1 then s.land s.cur { reg := reg, val := x, flags := f } c
  else
    s.modMe fun a =>
      { a with regs := a.regs.mark reg
               flight := a.flight ++ [{ reg := reg, val := x, flags := f, due := some (c + lat) }] }

/-- A producer whose latency is not fixed (07 R165; log 3); `due` is its cycle in stamped mode. -/
def State.produceLater (s : State) (reg : RegId) (x : RegVal) (due : Option Nat) : State :=
  s.modMe fun a =>
    { a with regs := a.regs.mark reg, flight := a.flight ++ [{ reg := reg, val := x, due := due }] }

/-! ### Faults and traps (01 R28 R31 R32, 05 R138 R139) -/

/-- ILLEGAL_OPCODE and the other fault codes of 05 R138. -/
def cOpcode : BitVec 8 := 0x01
/-- ILLEGAL_FIELD. -/
def cField : BitVec 8 := 0x02
/-- ILLEGAL_BUNDLE. -/
def cBundle : BitVec 8 := 0x03
/-- FETCH_FAULT. -/
def cFetch : BitVec 8 := 0x04
/-- LOAD_FAULT. -/
def cLoad : BitVec 8 := 0x05
/-- STORE_FAULT. -/
def cStore : BitVec 8 := 0x06
/-- ALIGN. -/
def cAlign : BitVec 8 := 0x07
/-- LOCAL_RANGE. -/
def cLocal : BitVec 8 := 0x08
/-- EMPTY_TRAP. -/
def cEmpty : BitVec 8 := 0x09
/-- LINK_OVERFLOW. -/
def cLinkOver : BitVec 8 := 0x0A
/-- LINK_UNDERFLOW. -/
def cLinkUnder : BitVec 8 := 0x0B
/-- STAMP_OVERRUN. -/
def cStamp : BitVec 8 := 0x0C
/-- SHAPE_INVALID. -/
def cShape : BitVec 8 := 0x0D
/-- SLOT_STATE. -/
def cSlot : BitVec 8 := 0x0E
/-- ACC_FORMAT. -/
def cAcc : BitVec 8 := 0x0F
/-- QUEUE_PROTOCOL. -/
def cQueue : BitVec 8 := 0x10
/-- SOFTWARE_TRAP. -/
def cTrap : BitVec 8 := 0x11
/-- WATCHDOG. -/
def cWatchdog : BitVec 8 := 0x12
/-- REPLAY_MISMATCH. -/
def cReplay : BitVec 8 := 0x13
/-- FABRIC_PEER. -/
def cPeer : BitVec 8 := 0x14
/-- WATERMARK_STALL. -/
def cStall : BitVec 8 := 0x15
/-- LINE_LOST. -/
def cLine : BitVec 8 := 0x16
/-- REMOTE_TIMEOUT. -/
def cRemote : BitVec 8 := 0x17
/-- CHILD_FAULT. -/
def cChild : BitVec 8 := 0x18
/-- ECC_UNCORRECTABLE. -/
def cEcc : BitVec 8 := 0x19
/-- PRIVILEGE. -/
def cPriv : BitVec 8 := 0x1A
/-- ENGINE_ADDRESS. -/
def cEngine : BitVec 8 := 0x1B
/-- GUARD_NONUNIFORM. -/
def cGuard : BitVec 8 := 0x1C

/-- Entry to the trap handler with a cause: the loop state is set aside, epc and cause are written, the pc becomes trapvec
(01 R31 R32, 05 R125). What becomes of levels already set aside, when a handler has cleared CAUSE.INH by MTSR and another entry comes,
the spec does not say: the model's choice is that the new ones take their place (log 20). -/
def Agent.enter (a : Agent) (epc : Word) (ext : Bool) (code : BitVec 8) : Agent :=
  { a with epc := epc, ext := ext, inh := true, code := code, pc := a.trapvec, empties := 0, delay := none, xfer := none
           setAside := a.loops, loops := [], tried := none, asleep := false, lbuf := [], lines := [], stale := [], staleNext := [] }

/-- The access that waited is over: the one that follows it is next. -/
def Agent.nextPend (a : Agent) : Agent := { a with pend := a.behind.head?, behind := a.behind.tail }

/-- The fault registers of an agent (01 R31). -/
def Agent.record (a : Agent) (code : BitVec 8) (pc src addr : Word) : Agent :=
  { a with faultcode := code, faultpc := pc, faultsrc := src, faultaddr := addr }

/-- The bytes of an event log entry (16 R418). -/
def logBytes (time src code : Nat) (w2 w3 : Word) : List Byte :=
  toBytes (src + 256 * code) 8 ++ toBytes time 8 ++ toBytes w2.toNat 8 ++ toBytes w3.toNat 8

/-- Posts an event log entry of source, code and data; a full ring loses its oldest (16 R418). -/
def State.logPost (s : State) (time : Nat) (src code : Nat) (w2 w3 : Word) : State :=
  let full := decide (256 ≤ (s.elTail - s.elHead).toNat)
  { s with elRing := putBytes s.elRing (32 * (s.elTail.toNat % 256)) (logBytes time src code w2 w3)
           elTail := s.elTail + 1
           elHead := if full then s.elHead + 1 else s.elHead
           elLost := if full then (if s.elLost = 0xFFFFFFFF then s.elLost else s.elLost + 1) else s.elLost }

/-- Entry `i` of the event log ring. -/
def State.logEntry (s : State) (i : Nat) : List Byte := bytesAt s.elRing (32 * (i % 256)) 32

/-- Entries put into the event log ring from entry `i` up. -/
def putEntries (m : SMap Byte) (i : Nat) (l : List (List Byte)) : SMap Byte :=
  match l with
  | [] => m
  | e :: r => putEntries (putBytes m (32 * (i % 256)) e) (i + 1) r

/-- Cycles per ten pod nanoseconds at a clock step: 1.3, 1.1, 0.9 and 0.7 GHz (13 R349). -/
def stepRate (k : Nat) : Nat :=
  match k with
  | 0 => 13
  | 1 => 11
  | 2 => 9
  | _ => 7

/-- The part of a correction slewed in over `dt` ns, at 100 ppm (15 R388). -/
def slewed (x : Int) (dt : Nat) : Int := max (-(dt / 10000 : Nat) : Int) (min x (dt / 10000 : Nat))

/-- Nanoseconds from the base of pod time to a cycle, and what is left of one, in parts of the clock step's rate. -/
def State.sinceBase (s : State) (c : Nat) : Nat × Nat :=
  let x := (c - s.cycleBase) * 10 + s.timeRem
  (x / stepRate s.step_, x % stepRate s.step_)

/-- Pod time in ns at a cycle (01 R26, 15 R389; log 2). -/
def State.timeAt (s : State) (c : Nat) : Nat :=
  let dt := (s.sinceBase c).1
  ((s.timeBase + dt : Nat) + slewed s.pt.slew (s.pt.slewAcc + dt)).toNat
/-- Pod time now. -/
def State.now (s : State) : Nat := s.timeAt s.cycle

/-- A hardware post of source, code and data: it takes the place before the firmware's posts of the same cycle (16 R418). -/
def State.logHard (s : State) (src code : Nat) (w2 w3 : Word) : State :=
  let k := if s.elPushAt = s.cycle + 1 then s.elPushes else 0
  let t := s.logPost s.now src code w2 w3
  if k = 0 then t
  else
    let i := (s.elTail - BitVec.ofNat 32 k).toNat
    { t with elRing := putEntries t.elRing i (logBytes s.now src code w2 w3 :: (List.range k).map fun j => s.logEntry (i + j)) }

/-- The clock pauses: engines, arrays and accesses in flight stand still (13 R350 step 4). -/
def State.paused (s : State) : Bool := s.clk.any (·.phase == 2)

/-- The pod time up to which bounds and the watchdog clock count: it stands while the clock pauses (13 R351). -/
def State.counted (s : State) : Nat :=
  match s.clk with
  | some c => if c.phase = 2 then c.since else s.now
  | none => s.now

/-- Pod time goes on from `t` at this cycle; what is left to slew stays, and what has passed toward it. -/
def State.rebase (s : State) (t : Nat) : State :=
  let (dt, left) := s.sinceBase s.cycle
  let acc := s.pt.slewAcc + dt
  { s with timeBase := t, cycleBase := s.cycle, timeRem := left
           pt := { s.pt with slew := s.pt.slew - slewed s.pt.slew acc, slewAcc := if s.pt.slew = 0 then 0 else acc % 10000 } }

/-- A halted agent: the management controller's reports of a control core that halts are its CFSTAT bit and an event log entry
(01 R31, 16 R414 R418). -/
def State.reportHalt (s : State) (n : Nat) (code : BitVec 8) (pc : Word) : State :=
  match kindOf n with
  | .control =>
    { s with cfHalt := s.cfHalt ||| BitVec.ofNat 4 (2 ^ (n - 96)) }.logHard 2 code.toNat (BitVec.ofNat 64 (n - 96)) pc
  | .tile | .machine => s

/-- A fault of agent `n` (01 R28 R31): a control core or the management controller enters its trap, or halts when CAUSE.INH is
already 1 (log 20); a tile core's task ends, its fault record holding the four registers. A delay outstanding is cancelled
(05 R120); folded empty positions do not issue (03 R82); results in flight land first (03 R82). -/
def State.faultAt (s : State) (n : Nat) (code : BitVec 8) (pc src addr : Word) : State :=
  let s1 := s.landAll n
  let a := (s1.agent n).record code pc src addr
  match kindOf n with
  | .tile => s1.setAgent n { a with run := .faulted, empties := 0, delay := none, xfer := none, tried := none, waitFrom := none }
  | .control | .machine =>
    if a.inh then
      (s1.setAgent n { a with run := .halted, empties := 0, delay := none, xfer := none, tried := none }).reportHalt n code pc
    else s1.setAgent n (a.enter pc false code)

/-- A fault of the bundle that issues (03 R81): faultpc and faultsrc are its address. -/
def State.takeFault (s : State) (code : BitVec 8) (addr : Word) : State :=
  s.faultAt s.cur code s.me.bundle s.me.bundle addr

/-- Return from a trap or interrupt (01 R31, 05 R125 R134): CAUSE.INH is cleared, loop levels the handler left open are
discarded, the levels set aside are restored, and the pc is epc. -/
def Agent.leave (a : Agent) : Agent :=
  { a with inh := false, loops := a.setAside, setAside := [], pc := a.epc, empties := 0, lbuf := [], back := true }

/-- What an instruction of a bundle does: it takes effect; it raises a fault with an address; or its bundle is held, in
stamped mode for at most `grace` cycles from its issue cycle. Each comes with the state reached, which for a fault or a hold
differs only in what translation and page requests change. -/
inductive Eff where
  | done (s : State)
  | raise (s : State) (code : BitVec 8) (addr : Word)
  | hold (s : State) (grace : Nat)
  deriving DecidableEq, Repr

/-- The end of a meaning (log 2): its state, or the state after its fault has been taken, or the held bundle's. -/
def Eff.out (e : Eff) : Outcome State Fault Refusal :=
  match e with
  | .done t => .next { t with res := .issued }
  | .raise t code addr => .next { t.takeFault code addr with res := .faulted }
  | .hold t g => .next { t with res := .held g }

end Sys2Proof.Machine
end

