-- ==== Sys2Proof/Machine/Operands.lean ====
section
/-! DEFINITION. Operands: the guard (01 R17, 03 R67), empty sources and destinations (01 R15, 03 R68), reading scalar,
predicate and vector operands as they stood at issue (01 R13), element access, and the one wrapper every instruction of a
bundle issues through. -/

namespace Sys2Proof.Machine

open Host (Outcome)

/-- One guard term (01 R17). -/
def guardTerm (g : Regs) (r : BitVec 4) (neg : Bool) : BitVec 256 :=
  let b := (g.rp r.toNat).bits
  if neg then ~~~b else b

/-- The guard's 256 bits: the AND of its two terms (01 R17). -/
def guardBits (g : Regs) (c : Ctl) : BitVec 256 := guardTerm g c.g1 c.g1n &&& guardTerm g c.g2 c.g2n

/-- The guard is uniform when both named registers are tagged (01 R17). -/
def guardUniform (g : Regs) (c : Ctl) : Bool := (g.rp c.g1.toNat).tag && (g.rp c.g2.toNat).tag

/-- A term of p0 negated makes the guard false, whatever the other register holds (03 R67). -/
def guardNever (c : Ctl) : Bool := (c.g1 == 0 && c.g1n) || (c.g2 == 0 && c.g2n)

/-- A guard register is empty (01 R15). -/
def guardEmpty (g : Regs) (c : Ctl) : Bool := g.isEmpty (.p c.g1.toNat) || g.isEmpty (.p c.g2.toNat)

/-- How an instruction's guard acts (01 R17): bit by bit, as a transfer, or from bit 0. -/
inductive GuardUse where
  | bit0
  | lanes
  | transfer
  deriving DecidableEq, Repr

/-- A source operand: the register and its INS.FE bit, or none (03 R68). -/
structure Src where
  reg : RegId
  fe : Option Nat := none
  deriving DecidableEq, Repr

/-- What an instruction names: its sources, its destinations, how its guard acts, whether it may stand in a delay position
(05 R117), and whether only tile cores have it (03 R73). -/
structure Form where
  srcs : List Src := []
  dsts : List RegId := []
  guard : GuardUse := .bit0
  br : Bool := false
  tileOnly : Bool := false
  deriving DecidableEq, Repr

/-- The source traps on empty (03 R68). -/
def Src.traps (r : Src) (c : Ctl) : Bool :=
  match r.fe with
  | some i => c.fe.getLsbD i
  | none => false

/-- The guard suppresses the instruction wholly (01 R17, 06 R143): a per-lane one where the guard is uniform, or holds p0 negated, and is false
(03 R67; log 11). -/
def suppressed (g : Regs) (c : Ctl) (u : GuardUse) : Bool :=
  match u with
  | .lanes => (guardUniform g c || guardNever c) && !(guardBits g c).getLsbD 0
  | .bit0 | .transfer => !(guardBits g c).getLsbD 0

/-- The bundle has to wait for a register: an empty source that blocks, or an empty destination (01 R15; log 12). -/
def mustWait (g : Regs) (c : Ctl) (f : Form) : Bool :=
  f.srcs.any (fun r => g.isEmpty r.reg && !r.traps c) || f.dsts.any g.isEmpty

/-- A source with its INS.FE bit set is empty (01 R15). -/
def mustTrap (g : Regs) (c : Ctl) (f : Form) : Bool := f.srcs.any (fun r => g.isEmpty r.reg && r.traps c)

/-- What issuing comes to, before the body: the guard registers, then whether the guard lets it run, then its operands. A
suppressed instruction waits for no operand (log 11); one that has to wait for a source or a destination waits before another of its
sources raises EMPTY_TRAP (log 12). -/
def issueEff (s : State) (c : Ctl) (f : Form) (body : Eff) : Eff :=
  let g := s.src
  if f.tileOnly && s.kind != .tile then .raise s cOpcode 0
  else if f.br && s.me.delay.isSome then .raise s cBundle 0
  else if guardEmpty g c then .hold s 0
  else if f.guard == .transfer && !guardUniform g c then .raise s cGuard 0
  else if suppressed g c f.guard then .done s
  else if mustWait g c f then .hold s 0
  else if mustTrap g c f then .raise s cEmpty 0
  else body

/-- An instruction of a bundle. -/
def issue (s : State) (c : Ctl) (f : Form) (body : Eff) : Outcome State Fault Refusal := (issueEff s c f body).out

/-- Operand A, B, C or E as a scalar source. -/
def srcS (r : BitVec 6) (i : Nat) : Src := { reg := .s r.toNat, fe := some i }
/-- Operand A, B, C or E as a vector source. -/
def srcV (r : BitVec 6) (i : Nat) : Src := { reg := .v r.toNat, fe := some i }
/-- Operand A, B, C or E as a predicate source. -/
def srcP (r : BitVec 6) (i : Nat) : Src := { reg := .p r.toNat, fe := some i }
/-- A scalar destination read as a source: it waits as a writer does (03 R68). -/
def datS (r : BitVec 6) : Src := { reg := .s r.toNat }
/-- A vector destination read as a source. -/
def datV (r : BitVec 6) : Src := { reg := .v r.toNat }

/-- A scalar operand. -/
def State.rs (s : State) (r : BitVec 6) : Word := s.src.rs r.toNat
/-- A predicate operand. -/
def State.rp (s : State) (r : BitVec 6) : Pred := s.src.rp r.toNat
/-- A vector operand. -/
def State.rv (s : State) (r : BitVec 6) : VWord := s.src.rv r.toNat

/-! ### Elements (00 R3, 01 R14) -/

/-- Element `i` of width `w`. -/
def elemOf (v : VWord) (w i : Nat) : Nat := v.toNat / 2 ^ (i * w) % 2 ^ w

/-- Elements in a register (02 R39). -/
def lanesOf (w : Nat) : Nat := 2048 / w

/-- The vector whose elements are listed from element 0 up. -/
def packElems (w : Nat) (xs : List Nat) : Nat :=
  match xs with
  | [] => 0
  | x :: r => x % 2 ^ w + 2 ^ w * packElems w r

/-- A t6 element is written with bits [7:6] zero (02 R47). -/
def t6Clean (t : Ty) (x : Nat) : Nat := if t == .t6 then x % 64 else x

/-- The guard bit of element `i` (01 R14). -/
def laneBit (m : BitVec 256) (w i : Nat) : Bool := m.getLsbD (i * w / 8)

/-- The vector of `f i` where the guard has a bit, and the old element elsewhere (06 R143). -/
def blend (t : Ty) (m : BitVec 256) (old : VWord) (f : Nat → Nat) : VWord :=
  let w := t.width
  BitVec.ofNat 2048 <| packElems w <|
    (List.range (lanesOf w)).map fun i => if laneBit m w i then t6Clean t (f i) else elemOf old w i

/-- The flags of the elements whose guard bit is set, ORed (06 R143). -/
def orFlags (w : Nat) (m : BitVec 256) (f : Nat → Flags) : Flags :=
  (List.range (lanesOf w)).foldl (fun a i => if laneBit m w i then a ||| f i else a) 0

/-- Sign extension of the low `w` bits to 64 (07 R169). -/
def sext64 (w : Nat) (x : Nat) : Word := BitVec.ofInt 64 (BitVec.ofNat w x).toInt

end Sys2Proof.Machine
end

