-- ==== Sys2Proof/Machine/Access.lean ====
section
/-! DEFINITION. Memory: the physical places (01 R36 R37, 10 R274), translation and its caches (11 R291 to R300), page requests
(11 R302), die event records waiting to be posted (12 R335), what holds an access at its home, and an access as agents and
engines make it. An access is performed whole in the step that makes it, so the chip order of 10 R277 is the order of steps. -/

namespace Sys2Proof.Machine

/-! ### Pod time, dies, events -/

/-- Die `d`. -/
def State.die (s : State) (d : Nat) : Die := s.dies.get {} d
/-- Replaces die `d`. -/
def State.setDie (s : State) (d : Nat) (x : Die) : State := { s with dies := s.dies.set {} d x }
/-- Changes die `d`. -/
def State.modDie (s : State) (d : Nat) (f : Die → Die) : State := s.setDie d (f (s.die d))
/-- Changes tile core `n`. -/
def State.modCoreAt (s : State) (n : Nat) (f : Core → Core) : State := s.setCore n (f (s.core n))
/-- Changes agent `n`. -/
def State.modAgent (s : State) (n : Nat) (f : Agent → Agent) : State := s.setAgent n (f (s.agent n))

/-- A count of 32 bits that stops at 0xFFFF_FFFF. -/
def satInc (x : BitVec 32) (n : Nat) : BitVec 32 := BitVec.ofNat 32 (min (x.toNat + n) 0xFFFFFFFF)

/-- A record handed to die `d`'s event ring (12 R335); EVENT_RECORD_POST posts it. -/
def State.post (s : State) (d : Nat) (r : EvRec) : State := s.modDie d fun x => { x with evWait := x.evWait ++ [r] }

/-- The active slot of a launch, as records carry it (12 R336). -/
def State.slotOf (s : State) (num : Nat) : Nat :=
  match s.launches.find? fun l => l.num == num && l.active with
  | some l => l.place
  | none => 0

/-- A record that agent `n` causes, with the launch of its task (12 R336). -/
def State.causedBy (s : State) (n : Nat) (r : EvRec) : EvRec :=
  match (s.core n).task with
  | some t => if n < 96 then { r with agent := n, launch := some t.launch, slot := s.slotOf t.launch } else { r with agent := n }
  | none => { r with agent := n }

/-- Entries a record occupies (12 R337). -/
def EvRec.entries (r : EvRec) : Nat := if r.kind = 9 then 3 else 1

/-- End of HBM and base of the remote windows (01 R36). -/
def hbmEnd : Nat := 0x8000000000

/-- Where entry `i` of a die's ring stands. -/
def Die.ringAt (x : Die) (i : Nat) : Nat := x.evAddr.toNat * 2 ^ 12 + 64 * (i % 2 ^ x.evLog2)

/-- A record of `n` entries from entry `i` on is discarded: the ring is disabled, or one of its places lies outside HBM (12 R335). -/
def Die.discards (x : Die) (i n : Nat) : Bool := !x.evEn || (List.range n).any fun k => decide (hbmEnd < x.ringAt (i + k) + 64)

/-- The ring of die `d` has room for `n` entries after those already waiting, or will discard them: a record that is discarded makes no
producer wait (12 R335). -/
def State.hasRoom (s : State) (d n : Nat) : Bool :=
  let x := s.die d
  let before := (x.evWait.map EvRec.entries).sum
  x.discards (x.evqtail.toNat + before) n || decide ((x.evqtail - x.evqhead).toNat + before + n ≤ 2 ^ x.evLog2)

/-- The ring of die `d` has room for a record of one entry. -/
def State.canPost (s : State) (d : Nat) : Bool := s.hasRoom d 1

/-! ### Places (01 R36 R37, 16 R413) -/

/-- Where a physical address lies. -/
inductive Place where
  | hbm
  | window (core off : Nat)
  | sram
  | rom (off : Nat)
  | control
  | nowhere
  deriving DecidableEq, Repr

/-- Base of chip control space (01 R36). -/
def ctlBase : Nat := 0xF000000000
/-- Bytes of a scratchpad (01 R11). -/
def scratchEnd : Nat := 0x180000

/-- The place of a physical address (01 R36 R37, 16 R413). -/
def placeOf (pa : Nat) : Place :=
  if pa < hbmEnd then .hbm
  else if pa < hbmEnd + 96 * 0x200000 then
    let o := (pa - hbmEnd) % 0x200000
    if o < scratchEnd then .window ((pa - hbmEnd) / 0x200000) o else .nowhere
  else if ctlBase + 0xD00000 ≤ pa && pa < ctlBase + 0xE00000 then .sram
  else if ctlBase + 0xF00000 ≤ pa && pa < ctlBase + 0xF10000 then .rom (pa - (ctlBase + 0xF00000))
  else if ctlBase ≤ pa && pa < ctlBase + 0x100000000 then .control
  else .nowhere

/-- The address of a scratchpad byte in its core's remote window (01 R36). -/
def windowAddr (core off : Nat) : Nat := hbmEnd + 0x200000 * core + off

/-- The spoilt word of least number among `n` bytes from `a` of a bank, as its first byte (11 R307). -/
def Core.badWord (k : Core) (b : Bank) (a n : Nat) : Option Nat :=
  ((k.spoilt.filter fun p => p.1 == b && decide (8 * p.2 < a + n) && decide (a < 8 * p.2 + 8)).map (8 * ·.2)).min?

/-- A write of `n` bytes from `a` of a bank: the words it covers hold no error any more (11 R307; log 83). -/
def Core.mend (k : Core) (b : Bank) (a n : Nat) : Core :=
  { k with spoilt := k.spoilt.filter fun p => !(p.1 == b && decide (a ≤ 8 * p.2) && decide (8 * p.2 + 8 ≤ a + n)) }

/-- Scratchpad bytes are written. -/
def Core.putPad (k : Core) (a : Nat) (bs : List Byte) : Core :=
  { k with scratch := Machine.putBytes k.scratch a bs }.mend .pad a bs.length

/-- The byte at a physical address: HBM, management SRAM, a scratchpad through its window (10 R276), the boot ROM. -/
def State.physByte (s : State) (pa : Nat) : Byte :=
  match placeOf pa with
  | .hbm | .sram => SMap.get 0 s.mem pa
  | .window c o => SMap.get 0 (s.core c).scratch o
  | .rom o => Config.bootRom o
  | .control | .nowhere => 0

/-- `n` bytes at a physical address. -/
def State.physBytes (s : State) (pa n : Nat) : List Byte :=
  match n with
  | 0 => []
  | k + 1 => s.physByte pa :: s.physBytes (pa + 1) k

/-- Puts one byte at a physical address; a store to the boot ROM is ignored (16 R413). -/
def State.putByte (s : State) (pa : Nat) (b : Byte) : State :=
  match placeOf pa with
  | .hbm | .sram => { s with mem := SMap.set 0 s.mem pa b }
  | .window c o =>
    let k := s.core c
    s.setCore c { k with scratch := SMap.set 0 k.scratch o b }
  | .rom _ | .control | .nowhere => s

/-- Puts bytes from a physical address up. -/
def State.putBytes (s : State) (pa : Nat) (bs : List Byte) : State :=
  match bs with
  | [] => s
  | b :: r => (s.putByte pa b).putBytes (pa + 1) r

/-- Lines of 128 bytes that `n` bytes at `pa` touch. -/
def linesOf (pa n : Nat) : List Nat := (List.range ((pa + n - 1) / 128 + 1 - pa / 128)).map (· + pa / 128)

/-- A migration records the lines written in its old frame (11 R306), the scratchpad bytes too that a core writes by their offsets, which
no freeze holds (log 81). -/
def Migration.note (m : Migration) (line : Nat) : Migration :=
  if (m.state = 1 || m.state = 2) && m.frame / 128 ≤ line && line < (m.frame + m.size) / 128 && !m.dirty.contains line then
    { m with dirty := line :: m.dirty }
  else m

/-- A suspended wait that watches the line becomes resumable (12 R319). -/
def Saved.wake (x : Saved) (line : Nat) : Saved := if x.watch = some line then { x with why := 0, watch := none } else x

/-- What a store to a line does beside its bytes: migration tracking and suspended waits. -/
def Die.noteLine (x : Die) (line : Nat) : Die := { x with mig := x.mig.note line, saved := x.saved.map (·.wake line) }

/-- Whether anything on die `d` looks at stores. -/
def Die.watches (x : Die) : Bool := x.mig.state == 1 || x.mig.state == 2 || !x.saved.isEmpty

/-- Migration tracking and suspended waits after a store of `n` bytes. -/
def State.noteStore (s : State) (pa n : Nat) : State :=
  (List.range 4).foldl (fun t d =>
    if (t.die d).watches then t.modDie d fun x => (linesOf pa n).foldl Die.noteLine x else t) s

/-- A store through a remote window mends the scratchpad words it covers. -/
def State.mendAt (s : State) (pa n : Nat) : State :=
  match placeOf pa with
  | .window c o => if (s.core c).spoilt.isEmpty then s else s.modCoreAt c fun k => k.mend .pad o n
  | .hbm | .sram | .rom _ | .control | .nowhere => s

/-- A store at its home: the bytes; tracking; a whole line clears its poison (11 R307). -/
def State.physWrite (s : State) (pa : Nat) (bs : List Byte) : State :=
  let s2 := ((s.putBytes pa bs).mendAt pa bs.length).noteStore pa bs.length
  if bs.length = 128 && pa % 128 = 0 then { s2 with poison := s2.poison.filter (· ≠ pa / 128) } else s2

/-- A little-endian word of `n` bytes. -/
def State.physWord (s : State) (pa n : Nat) : Nat := ofBytes (s.physBytes pa n)

/-! ### Translation (11 R294 to R300) -/

/-- Kinds of access (11 R297): read, write, atomic, the write of a fabric put, ARED and its likes, fetch. -/
inductive AccKind where
  | read
  | write
  | both
  | put
  | red
  | fetch
  deriving DecidableEq, Repr

/-- The number of the permissions a kind needs, in a page-request record (12 R337). -/
def AccKind.num (k : AccKind) : Nat :=
  match k with
  | .read => 0
  | .write | .red => 1
  | .both | .put => 2
  | .fetch => 3

/-- The fault of an access of a kind that fails (11 R299). -/
def AccKind.code (k : AccKind) : BitVec 8 :=
  match k with
  | .read => cLoad
  | .write | .both | .put | .red => cStore
  | .fetch => cFetch

/-- An access of the kind reads its line (11 R307). -/
def AccKind.reads (k : AccKind) : Bool :=
  match k with
  | .read | .both | .red | .fetch => true
  | .write | .put => false

/-- Lowest virtual bit indexed at a level (11 R294). -/
def lvlLo (l : Nat) : Nat :=
  match l with
  | 4 => 48
  | 3 => 39
  | 2 => 30
  | 1 => 21
  | _ => 16

/-- Index bits of a level (11 R294). -/
def lvlBits (l : Nat) : Nat :=
  match l with
  | 4 => 8
  | 0 => 5
  | _ => 9

/-- PTE fields (11 R295). -/
def pteV (e : Word) : Bool := e.getLsbD 0
/-- PTE.PRES. -/
def ptePres (e : Word) : Bool := e.getLsbD 1
/-- PTE.LEAF. -/
def pteLeaf (e : Word) : Bool := e.getLsbD 2
/-- PTE.ADDR as a byte address. -/
def pteAddr (e : Word) : Nat := bitsOf e 8 32 * 256
/-- PTE.ATTR. -/
def pteAttr (e : Word) : Nat := bitsOf e 6 2

/-- Malformed at its level (11 R295). -/
def pteBad (e : Word) (l : Nat) : Bool :=
  bitsOf e 40 24 != 0 || (pteLeaf e && decide (3 ≤ l)) || (!pteLeaf e && l == 0) ||
    (!pteLeaf e && bitsOf e 3 5 != 0) || (e.getLsbD 4 && !e.getLsbD 3) || pteAttr e == 3 ||
    (if pteLeaf e then pteAddr e % 2 ^ lvlLo l != 0
      else pteAddr e % (8 * 2 ^ lvlBits (l - 1)) != 0)

/-- What a walk comes to (11 R296): a leaf, with its entry, level and the entry's address; an invalid entry, with the address of
a malformed one; a page that is not present; or an uncorrectable entry. -/
inductive WalkRes where
  | leaf (e : Word) (level : Nat) (pa : Nat)
  | invalid (bad : Option Nat)
  | absent
  | ecc (pa : Nat)
  deriving DecidableEq, Repr

/-- The walk from level `l` with the table at `base` (11 R296). -/
def State.walkFrom (s : State) (va base : Nat) (l : Nat) : WalkRes :=
  let ea := base + 8 * (va / 2 ^ lvlLo l % 2 ^ lvlBits l)
  if hbmEnd ≤ ea then .invalid (some ea)
  else if s.poison.contains (ea / 128) then .ecc ea
  else
    let e : Word := BitVec.ofNat 64 (s.physWord ea 8)
    if !pteV e then .invalid none
    else if pteBad e l then .invalid (some ea)
    else if !ptePres e then .absent
    else if pteLeaf e then .leaf e l ea
    else
      match l with
      | 0 => .invalid (some ea)
      | k + 1 => s.walkFrom va (pteAddr e) k

/-- The walk of a context (11 R296). -/
def State.walk (s : State) (ctx va : Nat) : WalkRes :=
  let r := s.ctxroot.get 0 ctx
  if !r.getLsbD 0 then .invalid none else s.walkFrom va (bitsOf r 11 29 * 2 ^ 11) 4

/-- The cached form of a leaf (11 R300). -/
def TlbEntry.ofLeaf (ctx va : Nat) (e : Word) (l : Nat) : TlbEntry :=
  let size := 2 ^ lvlLo l
  { ctx := ctx, va := va / size * size, size := size, pa := pteAddr e, attr := pteAttr e
    r := e.getLsbD 3, w := e.getLsbD 4, x := e.getLsbD 5 }

/-- Covers the address. -/
def TlbEntry.covers (t : TlbEntry) (ctx va : Nat) : Bool := t.ctx == ctx && t.va ≤ va && va < t.va + t.size

/-- The permissions a kind needs (11 R297). -/
def TlbEntry.permits (t : TlbEntry) (k : AccKind) : Bool :=
  match k with
  | .read => t.r
  | .write | .red => t.w
  | .both | .put => t.r && t.w
  | .fetch => t.x

/-- Who makes an access: the agent whose die and micro-TLB it uses, and its context; none for physical addresses. -/
structure Issuer where
  agent : Nat
  ctx : Option Nat
  /-- On a tile core, it is not the task's own access: the task's side log is another's to it (07 R174). -/
  other : Bool := false
  /-- On a tile core, it is made by an instruction of the task itself. -/
  mine : Bool := false
  /-- The launch it is made for, where that is not the one on its core (12 R334). -/
  launch : Option Nat := none
  /-- It replays the logged access with this number: those that have retired after it do not hold it (07 R174; log 84). -/
  logged : Option Nat := none
  /-- It is made by a unit that is no agent, whose records carry the number 0x7F (12 R336; log 26). -/
  unit : Bool := false
  deriving DecidableEq, Repr

/-- The agent number that a record caused by an access carries (12 R336). -/
def Issuer.number (i : Issuer) : Nat := if i.unit then 0x7F else i.agent

/-- A record that an access causes, with its launch (12 R334 R336). -/
def State.causedFor (s : State) (i : Issuer) (r : EvRec) : EvRec :=
  match i.launch with
  | some l => { r with agent := i.number, launch := some l, slot := s.slotOf l }
  | none => if i.other || i.unit then { r with agent := i.number } else s.causedBy i.agent r

/-- An access posts a record, for which there is room. -/
def State.postFor (s : State) (i : Issuer) (r : EvRec) : State :=
  (s.post (dieOf i.agent) (s.causedFor i r)).modDie (dieOf i.agent) fun x => { x with asked := x.asked.filter (· ≠ (i.agent, r.kind)) }

/-- An access waits for room for its record of a kind, which is counted once (12 R335). -/
def State.awaitRoom (s : State) (i : Issuer) (kind : Nat) : State :=
  if (s.die (dieOf i.agent)).asked.contains (i.agent, kind) then s
  else s.modDie (dieOf i.agent) fun x => { x with asked := (i.agent, kind) :: x.asked, evHolds := satInc x.evHolds 1 }

/-- A translation kept by the caches (11 R300); locked ones are never evicted (11 R303). -/
def tlbAdd (l : List TlbEntry) (t : TlbEntry) (cap : Nat) : List TlbEntry :=
  if l.any (fun u => u.ctx == t.ctx && u.va == t.va && u.size == t.size && u.locked) then l
  else
    let r := l.filter fun u => !(u.ctx == t.ctx && u.va == t.va && u.size == t.size)
    let held := r.filter (·.locked)
    held ++ (t :: r.filter (!·.locked)).take (cap - held.length)

/-- A translated leaf enters the caches of the issuing die and core. -/
def State.cacheLeaf (s : State) (i : Issuer) (t : TlbEntry) : State :=
  let s1 := s.modDie (dieOf i.agent) fun x => { x with tlb := tlbAdd x.tlb t 8192 }
  if i.agent < 96 then s1.modCoreAt i.agent fun k => { k with utlb := tlbAdd k.utlb t 64 } else s1

/-- A cached translation of the address, if the issuer's core or die holds one. -/
def State.cached (s : State) (i : Issuer) (ctx va : Nat) : Option TlbEntry :=
  let mine := if i.agent < 96 then (s.core i.agent).utlb else []
  (mine ++ (s.die (dieOf i.agent)).tlb).find? (·.covers ctx va)

/-- What a translation comes to: a leaf, of a walk or of a cache, or why there is none. -/
inductive TransRes where
  | leaf (t : TlbEntry) (walked : Bool)
  | invalid
  | absent
  | ecc
  deriving DecidableEq, Repr

/-- The die that counts an uncorrectable word at a physical address: its home (11 R308). -/
def eccDie (pa : Nat) : Nat :=
  match placeOf pa with
  | .window c _ => dieOf c
  | .hbm | .sram | .rom _ | .control | .nowhere => pa / 0x2000000000 % 4

/-- An uncorrectable word that an access has met is recorded, with its physical address, and counted on its die (11 R307 R308). -/
def State.noteLoss (s : State) (i : Issuer) (pa : Nat) : State :=
  (s.postFor i { kind := 10, w2 := BitVec.ofNat 64 pa, w3 := 1 }).modDie (eccDie pa) fun x => { x with eccUnc := satInc x.eccUnc 1 }

/-- A word of a memory of core `n` without a physical address, met by its array: its record names none (11 R307; log 83). -/
def State.noteCoreLoss (s : State) (n : Nat) : State :=
  (s.post (dieOf n) (s.causedBy n { kind := 10, w3 := 1 })).modDie (dieOf n) fun x => { x with eccUnc := satInc x.eccUnc 1 }

/-- The kind of the record that a walk posts: of a malformed entry, or of an uncorrectable one (11 R295 R296 R307). -/
def WalkRes.record (r : WalkRes) : Option Nat :=
  match r with
  | .leaf _ _ _ | .invalid none | .absent => none
  | .invalid (some _) => some 8
  | .ecc _ => some 10

/-- A walk records a malformed entry, and an uncorrectable one (11 R295 R296 R307). -/
def State.noteWalk (s : State) (i : Issuer) (ctx : Nat) (r : WalkRes) : State :=
  match r with
  | .leaf _ _ _ | .invalid none | .absent => s
  | .invalid (some ea) => s.postFor i { kind := 8, w2 := BitVec.ofNat 64 ea, w3 := BitVec.ofNat 64 ctx }
  | .ecc ea => s.noteLoss i ea

/-- What a walk gives a translation. -/
def WalkRes.trans (r : WalkRes) (ctx va : Nat) : TransRes :=
  match r with
  | .leaf e l _ => .leaf (TlbEntry.ofLeaf ctx va e l) true
  | .invalid _ => .invalid
  | .absent => .absent
  | .ecc _ => .ecc

/-- A walk of the tables on behalf of an issuer. -/
def State.walked (s : State) (i : Issuer) (ctx va : Nat) : State × TransRes :=
  let r := s.walk ctx va
  (s.noteWalk i ctx r, r.trans ctx va)

/-- Translation by the caches or by a walk. Where a cached translation and the tables differ, the old entry or the new one is used,
chosen per access (11 R300; log 8). -/
def State.translate (s : State) (i : Issuer) (ctx va : Nat) : State × TransRes :=
  let w := s.walked i ctx va
  match s.cached i ctx va with
  | some t =>
    if w.2 = .leaf t true then w
    else if Config.useCached s.fresh then ({ s with fresh := s.fresh + 1 }, .leaf t false) else ({ w.1 with fresh := w.1.fresh + 1 }, w.2)
  | none => w

/-- The first request number from `n` on that no unanswered request has, among `fuel` (11 R302). -/
def freeReq (l : List PageReq) (n fuel : Nat) : Nat :=
  match fuel with
  | 0 => n % 65536
  | f + 1 => if l.any (·.num == n % 65536) then freeReq l (n + 1) f else n % 65536

/-- A page request for the 64 KiB range (11 R302): joined to one already outstanding, or posted while fewer than 256 are. -/
def State.pageRequest (s : State) (i : Issuer) (ctx va : Nat) (k : AccKind) : State :=
  let d := dieOf i.agent
  let page := va / 65536 * 65536
  let x := s.die d
  if x.preqs.any (fun r => r.ctx == ctx && r.va == page) || 256 ≤ x.preqs.length then s
  else
    let n := freeReq x.preqs x.preqNext.toNat 257
    (s.setDie d { x with preqs := x.preqs ++ [⟨n, ctx, page, k.num⟩], preqNext := BitVec.ofNat 16 (n + 1) }).post d
      (s.causedFor i { kind := 7, w2 := BitVec.ofNat 64 page, w3 := BitVec.ofNat 64 (ctx + 256 * k.num), w4 := BitVec.ofNat 64 n })

/-- The page that something waits for has a request on die `d` that is still unanswered: it waits on, whatever the tables have come to
say (11 R302). -/
def State.unanswered (s : State) (d : Nat) (page : Option (Nat × Nat)) : Bool :=
  page.any fun p => (s.die d).preqs.any fun r => r.ctx == p.1 && r.va == p.2 / 65536 * 65536

/-! ### What holds an access -/

/-- Bytes a logged access names, as virtual addresses. -/
def LogOp.addrs (o : LogOp) : List Nat :=
  match o with
  | .store elems => elems.flatMap fun e => (List.range e.2.length).map (· + e.1)
  | .atomic _ w elems => elems.flatMap fun e => (List.range w).map (· + e.1)

/-- The side logs of every task but the issuer's own, those of stopped tasks too; to a logged access that is replayed, what has
retired before it (log 84). -/
def State.otherLogs (s : State) (i : Issuer) : List (List LogEntry) :=
  ((s.cores.filter fun p => i.other || p.1 != i.agent).map (·.2.slog) ++ s.dies.flatMap fun p => p.2.saved.map (·.core.slog)).map
    (·.filter fun e => i.logged.all fun k => decide (e.num < k))

/-- Another task's side log names the 64 KiB range in the same context (07 R174). -/
def State.loggedElsewhere (s : State) (i : Issuer) (ctx va : Nat) : Bool :=
  (s.otherLogs i).any fun l => l.any fun e => e.ctx == ctx && e.what.addrs.any fun a => a / 65536 == va / 65536

/-- The HBM stack and pseudo-channel of a physical address (10 R275). -/
def channelOf (pa : Nat) : Nat × Nat :=
  let o := pa % 0x2000000000
  (2 * (pa / 0x2000000000) + o / 1024 % 2, o / 2048 % 64)

/-- A refresh holds the channel of an HBM address (13 R356). -/
def State.refreshing (s : State) (pa : Nat) : Bool :=
  decide (pa < hbmEnd) && decide (s.now < ((s.hbm.get {} (channelOf pa).1).hold.get 0 (channelOf pa).2))

/-- The physical address that a context's tables give an address now. -/
def State.physOf (s : State) (ctx va : Nat) : Option Nat :=
  match s.walk ctx va with
  | .leaf e l _ =>
    let t := TlbEntry.ofLeaf ctx va e l
    some (t.pa + (va - t.va))
  | .invalid _ | .absent | .ecc _ => none

/-- The side log of core `n` holds an access to some byte of [pa, pa + len), by whatever address: an access of the same task waits for
it (07 R174 R175, 10 R277). -/
def State.ownLogMeets (s : State) (n pa len : Nat) : Bool :=
  (s.core n).slog.any fun e => e.what.addrs.any fun a => match s.physOf e.ctx a with
    | some p => decide (pa ≤ p) && decide (p < pa + len)
    | none => false

/-- An access of a stamped task itself: a refresh that is within its class leaves it on time (12 R328, 13 R356). -/
def State.stampedOwn (s : State) (i : Issuer) : Bool := i.mine && (s.core i.agent).task.any (·.mode.getLsbD 0)

/-- A line is held at its home: by a page reply whose log entry has not been replayed (07 R174), by a frozen page (11 R306), or
by a refresh, whose time a stamped access has within the latency that its class declares (13 R356; log 34). -/
def State.homeHeld (s : State) (i : Issuer) (pa n : Nat) : Bool :=
  let ls := linesOf pa n
  (!s.stampedOwn i && ls.any fun l => s.refreshing (128 * l)) || (!i.other && s.ownLogMeets i.agent pa n) ||
  (s.otherLogs i).any (fun l => l.any fun e => e.home.any ls.contains) ||
    s.dies.any fun p => p.2.mig.state == 2 && ls.any fun l =>
      decide (p.2.mig.frame / 128 ≤ l) && decide (l < (p.2.mig.frame + p.2.mig.size) / 128)

/-- The table entries that a walk from level `l` reads, as their addresses (11 R296). -/
def State.walkReads (s : State) (va base : Nat) (l : Nat) : List Nat :=
  let ea := base + 8 * (va / 2 ^ lvlLo l % 2 ^ lvlBits l)
  let e : Word := BitVec.ofNat 64 (s.physWord ea 8)
  if hbmEnd ≤ ea then []
  else if !pteV e || pteBad e l || !ptePres e || pteLeaf e then [ea]
  else
    match l with
    | 0 => [ea]
    | k + 1 => ea :: s.walkReads va (pteAddr e) k

/-- A walk for the address meets a table entry that is held at its home (11 R302 R306): each entry is a physical load. -/
def State.walkHeld (s : State) (i : Issuer) (ctx va : Nat) : Bool :=
  (s.walkReads va (bitsOf (s.ctxroot.get 0 ctx) 11 29 * 2 ^ 11) 4).any fun ea => s.homeHeld { i with other := true } ea 8

/-! ### An access -/

/-- How an access ends: performed, waiting (on a page, as context and address), or failed with a code and an address. -/
inductive Acc (α : Type) where
  | ok (s : State) (x : α)
  | wait (s : State) (page : Option (Nat × Nat))
  | fail (s : State) (code : BitVec 8) (addr : Nat)

/-- The result of an access, turned. -/
def Acc.map {α β : Type} (r : Acc α) (f : α → β) : Acc β :=
  match r with
  | .ok t x => .ok t (f x)
  | .wait t p => .wait t p
  | .fail t c x => .fail t c x

/-- One access after another. -/
def Acc.bind {α β : Type} (r : Acc α) (f : State → α → Acc β) : Acc β :=
  match r with
  | .ok t x => f t x
  | .wait t p => .wait t p
  | .fail t c x => .fail t c x

/-- The first uncorrectable word that a read of `n` bytes at `pa` meets in HBM or in a scratchpad, as its physical address: in a poisoned
line, the first word that it reads there (11 R307). -/
def State.lossAt (s : State) (pa n : Nat) : Option Nat :=
  match (linesOf pa n).find? s.poison.contains with
  | some l => some (max (128 * l) (pa / 8 * 8))
  | none =>
    match placeOf pa with
    | .window c o => ((s.core c).badWord .pad o n).map (windowAddr c)
    | .hbm | .sram | .rom _ | .control | .nowhere => none

/-- A word of HBM or of a scratchpad that a read of `n` bytes at `pa` meets is uncorrectable (11 R307). -/
def State.spoiltAt (s : State) (pa n : Nat) : Bool := (s.lossAt pa n).isSome

/-- An uncorrectable word met at `pa` is recorded, once there is room for that (11 R307, 12 R335). -/
def State.recordLoss (s : State) (i : Issuer) (pa : Nat) : Acc Unit :=
  if s.canPost (dieOf i.agent) then .ok (s.noteLoss i pa) () else .wait (s.awaitRoom i 10) none

/-- A task's access, by its remote window, to the scratchpad bytes that a record on its TQ has borrowed waits for the record (09 R272); a
logged one, for the records taken before it retired. -/
def State.windowLent (s : State) (i : Issuer) (pa n : Nat) : Bool :=
  i.mine && ((s.core i.agent).tq.any fun id => i.logged.all fun k => decide (id < k)) && match placeOf pa with
    | .window c o => c == i.agent && decide (0x140000 < o + n)
    | .hbm | .sram | .rom _ | .control | .nowhere => false

/-- An access at its frame `pa`, in a page of an attribute, checked but not yet performed: failures carry the codes of a task (11 R299
R307, 01 R37). -/
def State.atHome (s : State) (i : Issuer) (k : AccKind) (a n pa attr : Nat) : Acc (Nat × Nat) :=
  match placeOf pa with
  | .nowhere => .fail s k.code a
  | .control => if i.ctx.isSome then .fail s cPriv a else .fail s k.code a
  | .rom _ | .sram => if i.ctx.isSome then .fail s cPriv a else .ok s (pa, attr)
  | .hbm | .window _ _ =>
    if s.homeHeld i pa n || s.windowLent i pa n then .wait s none
    else
      match (if k.reads then s.lossAt pa n else none) with
      | some w => (s.recordLoss i w).bind fun t _ => .fail t cEcc a
      | none => .ok s (pa, attr)

/-- The translation of the address is going to post a record for which there is no room (12 R335). -/
def State.walkUnposted (s : State) (i : Issuer) (ctx va : Nat) : Bool :=
  (s.walk ctx va).record.isSome && !s.canPost (dieOf i.agent) && ((s.cached i ctx va).isNone || !Config.useCached s.fresh)

/-- The frame an access of `n` bytes reaches, checked but not yet performed: its physical address and its page's attribute. One that has
waited on a request which is refused fails at once (11 R302). Failures carry the codes of a task (11 R299, 01 R37). -/
def State.reach (s : State) (i : Issuer) (k : AccKind) (a n : Nat) : Acc (Nat × Nat) :=
  match i.ctx with
  | none => s.atHome i k a n a 0
  | some ctx =>
    if 2 ^ 56 ≤ a || s.refuse = some (ctx, a / 65536 * 65536) then .fail s k.code a
    else if s.loggedElsewhere i ctx a || ((s.cached i ctx a).isNone && s.walkHeld i ctx a) then .wait s none
    else if s.walkUnposted i ctx a then .wait (s.awaitRoom i (((s.walk ctx a).record).getD 0)) none
    else
      match s.translate i ctx a with
      | (t, .leaf e walked) =>
        if e.permits k then (if walked then t.cacheLeaf i e else t).atHome i k a n (e.pa + (a - e.va)) e.attr else .fail t k.code a
      | (t, .invalid) => .fail t k.code a
      | (t, .ecc) => .fail t cEcc a
      | (t, .absent) => .wait (t.pageRequest i ctx a k) (some (ctx, a))

/-- A load of `n` bytes, with the attribute of its page. -/
def State.readAttr (s : State) (i : Issuer) (k : AccKind) (a n : Nat) : Acc (List Byte × Nat) :=
  (s.reach i k a n).bind fun t p => .ok t (t.physBytes p.1 n, p.2)

/-- A load of `n` bytes. -/
def State.readMem (s : State) (i : Issuer) (k : AccKind) (a n : Nat) : Acc (List Byte) := (s.readAttr i k a n).map (·.1)

/-- A store of bytes whose page needs what a kind asks. -/
def State.storeAs (s : State) (i : Issuer) (k : AccKind) (a : Nat) (bs : List Byte) : Acc Unit :=
  (s.reach i k a bs.length).bind fun t p => .ok (t.physWrite p.1 bs) ()

/-- A store of bytes, answering the attribute of its page. -/
def State.writeAttr (s : State) (i : Issuer) (a : Nat) (bs : List Byte) : Acc Nat :=
  (s.reach i .write a bs.length).bind fun t p => .ok (t.physWrite p.1 bs) p.2

/-- A store of bytes. -/
def State.writeMem (s : State) (i : Issuer) (a : Nat) (bs : List Byte) : Acc Unit := (s.writeAttr i a bs).map fun _ => ()

/-- A cache hint that the page's attribute overrides (07 R178): stream or keep on a home-only page, keep on a streaming one. -/
def hintOver (ch : BitVec 2) (attr : Nat) : Bool := (ch == 1 && attr == 2) || (ch == 2 && (attr == 1 || attr == 2))

/-- HINTCNT of a core gains 1 (07 R179 R180). -/
def Core.countHint (k : Core) : Core := { k with hintcnt := satInc k.hintcnt 1 }

/-- The hint of an access whose pages carry these attributes is counted, if its instruction has not been: `old` is HINTCNT of the core
before that (07 R179). -/
def State.countOnce (s : State) (n : Nat) (h : BitVec 2) (old : BitVec 32) (attrs : List Nat) : State :=
  if attrs.any (hintOver h) && (s.core n).hintcnt = old then s.modCoreAt n Core.countHint else s

/-- Nothing of an access that waits has been counted. -/
def State.uncount (s : State) (n : Nat) (old : BitVec 32) : State :=
  if (s.core n).hintcnt = old then s else s.modCoreAt n fun k => { k with hintcnt := old }

/-- The issuer of the accesses of the agent that acts: its task's context on a tile core, physical otherwise (01 R36). -/
def State.issuer (s : State) : Issuer :=
  { agent := s.cur, mine := s.kind == .tile
    ctx := match s.kind with
      | .tile => some (match s.myCore.task with
        | some t => t.ctx
        | none => 0)
      | .control | .machine => none }

/-- Arrive(obj, x) on the 16 bytes of a barrier object: the new word 0 (07 R194). -/
def arriveWord (w0 w1 : Word) (x : Nat) : Word :=
  let count := (bitsOf w0 0 63 + x) % 2 ^ 63
  let target := bitsOf w1 0 63
  if target ≠ 0 && target ≤ count then BitVec.ofNat 64 ((if w0.msb then 0 else 2 ^ 63) + (count - target))
  else BitVec.ofNat 64 ((if w0.msb then 2 ^ 63 else 0) + count)

/-- An arrival at a barrier object, translated when it is due; the old word 0 (07 R194, 08 R439). -/
def State.arrive (s : State) (i : Issuer) (a : Nat) (x : Nat) : Acc Word :=
  match s.reach i .both a 16 with
  | .ok t (pa, _) =>
    let w0 : Word := BitVec.ofNat 64 (t.physWord pa 8)
    let w1 : Word := BitVec.ofNat 64 (t.physWord (pa + 8) 8)
    .ok (t.physWrite pa (toBytes (arriveWord w0 w1 x).toNat 8)) w0
  | .wait t p => .wait t p
  | .fail t c y => .fail t c y

end Sys2Proof.Machine
end

