-- ==== Sys2Proof/Machine/Cache.lean ====
section
/-! DEFINITION. Which lines the block cache of a core and the remote-data cache of a die hold copies of (07 R178 R181 to R183,
10 R274). A copy never changes a value (10 R279), so no bytes are kept with it; what it changes is where a later access is served. -/

namespace Sys2Proof.Machine

/-! ### Blocks -/

/-- The handle of a block. -/
def Block.handle (b : Block) : Nat := b.addr + (b.lines - 1)

/-- The line of a context's address is in the block. -/
def Block.holds (b : Block) (ctx a : Nat) : Bool :=
  b.here && b.ctx == ctx && decide (b.addr ≤ a) && decide (a < b.addr + 128 * b.lines) && !b.away.contains ((a - b.addr) / 128)

/-- The lines of a block that its fill has found to be home-only, from the attributes of their pages (07 R178). -/
def awayOf (attrs : List Nat) : List Nat := (List.range attrs.length).filter fun l => attrs[l]? == some 2

/-- Pinned lines of a core. -/
def Core.pinnedLines (k : Core) : Nat := ((k.blocks.filter (·.pinned)).map (·.lines)).sum

/-- Lines of 128 bytes that a block cache has room for (00 R1). -/
def blockRoom : Nat := 2048

/-- Lines that a block cache holds. -/
def Core.cachedLines (k : Core) : Nat := ((k.blocks.filter (·.here)).map (·.lines)).sum

/-- A block leaves the cache; a fill that is outstanding still marks its register full. -/
def Block.evict (b : Block) : Option Block := if b.fill.isSome then some { b with pinned := false, here := false } else none

/-- A block is unpinned and stays cached; nothing is left of one that a shootdown has emptied (07 R183, 11 R304). -/
def Block.unpin (b : Block) : Option Block := if b.here || b.fill.isSome then some { b with pinned := false } else none

/-- A shootdown takes a block out of the cache; a pinned one's handle stays valid (11 R304). -/
def Block.shoot (b : Block) : Option Block := if b.pinned || b.fill.isSome then some { b with here := false } else none

/-- Every block for which `f` holds is evicted whole. -/
def Core.evictAll (k : Core) (f : Block → Bool) : Core :=
  { k with blocks := k.blocks.filterMap fun b => if f b then b.evict else some b }

/-- The order in which unpinned blocks are evicted: those without keep priority first, the least recently used first (07 R178 R183). -/
def Block.evictRank (b : Block) : Nat × Nat := (if b.keep then 1 else 0, b.used)

/-- Of two blocks, the one that is evicted first. -/
def Block.sooner (a b : Block) : Block :=
  if b.evictRank.1 < a.evictRank.1 || (b.evictRank.1 == a.evictRank.1 && decide (b.used < a.used)) then b else a

/-- The block that is evicted next; pinned ones never are. -/
def Core.nextOut (k : Core) : Option Block :=
  (k.blocks.filter fun b => b.here && !b.pinned).foldl (fun r b => some (match r with
    | some a => a.sooner b
    | none => b)) none

/-- Unpinned blocks are evicted until `n` more lines fit. -/
def Core.makeFit (k : Core) (n fuel : Nat) : Core :=
  match fuel with
  | 0 => k
  | f + 1 =>
    if k.cachedLines + n ≤ blockRoom then k
    else
      match k.nextOut with
      | some b => (k.evictAll (· == b)).makeFit n f
      | none => k

/-- A new block of a core, with room made for it; `b.used` of 0 puts it first in line to leave, any other number last (07 R178). -/
def Core.allot (k : Core) (b : Block) : Core :=
  let c := k.makeFit b.lines (k.blocks.length + 1)
  { c with blocks := c.blocks ++ [if b.used = 0 then b else { b with used := c.uses + 1 }]
           uses := if b.used = 0 then c.uses else c.uses + 1 }

/-- The oldest pinned block is unpinned; it stays cached (07 R183). -/
def unpinFirst (l : List Block) : List Block :=
  match l with
  | [] => []
  | b :: r => if b.pinned then b.unpin.toList ++ r else b :: unpinFirst r

/-- Oldest blocks are unpinned, each counted, until `n` more lines fit in 1,792 (07 R183). -/
def Core.makeRoom (k : Core) (n : Nat) (fuel : Nat) : Core :=
  match fuel with
  | 0 => k
  | f + 1 => if k.pinnedLines + n ≤ 1792 then k else ({ k with blocks := unpinFirst k.blocks }.countHint).makeRoom n f

/-- Every block of the task is unpinned, at its end and at pre-emption (07 R183). -/
def Core.unpinAll (k : Core) : Core :=
  { k with blocks := (k.blocks.filter (·.here)).map fun b => { b with pinned := false, fill := none } }

/-- A line is in a pinned block whose fill has completed by cycle `c` (12 R328). -/
def Core.inBlock (k : Core) (ctx a c : Nat) : Bool :=
  k.blocks.any fun b => b.pinned && b.fill.isNone && decide (b.age ≤ c) && b.holds ctx a

/-! ### Hints (07 R178) -/

/-- The line of a load is in the block cache afterwards as its hint asks: allocated as a block of one line, or its block used. -/
def Core.cacheLine (k : Core) (ctx a : Nat) (h : BitVec 2) (attr : Nat) : Core :=
  let keep := h == 2 && attr == 0
  if k.blocks.any (·.holds ctx a) then
    { k with uses := k.uses + 1
             blocks := k.blocks.map fun b =>
               if b.holds ctx a then { b with used := if h = 1 then b.used else k.uses + 1, keep := b.keep || keep } else b }
  else k.allot { ctx := ctx, addr := a / 128 * 128, lines := 1, pinned := false, keep := keep, used := if h = 1 then 0 else 1 }

/-- Lines of a remote-data cache (00 R1): 256 MiB. -/
def remoteRoom : Nat := 2 ^ 21

/-- A line homed on another die has been read on die `d`: a copy is kept, most recently used first (07 R178). -/
def State.copyRemote (s : State) (d pa : Nat) : State :=
  if pa < hbmEnd && pa / 0x2000000000 ≠ d then
    s.modDie d fun x => { x with remote := (pa / 128 :: x.remote.filter (· ≠ pa / 128)).take remoteRoom }
  else s

/-- Copies of a line that an issuer's core and die hold are dropped; a block that holds it goes whole (log 78). -/
def State.dropCopies (s : State) (i : Issuer) (va pa : Nat) : State :=
  let s1 := match i.ctx with
    | some c => if i.agent < 96 then s.modCoreAt i.agent fun k => k.evictAll (·.holds c va) else s
    | none => s
  if (s.die (dieOf i.agent)).remote.contains (pa / 128) then
    s1.modDie (dieOf i.agent) fun x => { x with remote := x.remote.filter (· ≠ pa / 128) }
  else s1

/-- What a load of the line at `va`, with a hint on a page of an attribute, leaves in the caches (07 R178). -/
def State.cacheLoad (s : State) (i : Issuer) (va pa attr : Nat) (h : BitVec 2) : State :=
  if attr = 2 then s
  else if h = 3 then s.dropCopies i va pa
  else
    let s1 := if h = 1 then s else s.copyRemote (dieOf i.agent) pa
    match i.ctx with
    | some c => if i.agent < 96 then s1.modCoreAt i.agent fun k => k.cacheLine c va h attr else s1
    | none => s1

/-- What a store does to copies of its line: they are updated, but a home-bypass store drops them (07 R178). -/
def State.cacheStore (s : State) (i : Issuer) (va pa attr : Nat) (h : BitVec 2) : State :=
  if h = 3 && attr ≠ 2 then s.dropCopies i va pa else s

end Sys2Proof.Machine
end

