-- ==== Sys2Proof/Machine/Control.lean ====
section
/-! DEFINITION. The BR slot but for YIELD, CALL, RET and WAIT (05 R115 to R137): fetching, transfers, the loop buffer, waits,
special registers, traps and their return; and interrupt entry, empty positions and the end of a position. -/

namespace Sys2Proof.Machine

open Host (Outcome)

/-! ### Fetch (03 R81 R84 R85, 13 R340) -/

/-- The fault of a fetch whose access has failed with `code`: an uncorrectable error and a translation into control space keep theirs
(01 R37, 11 R296 R307), anything else is FETCH_FAULT (11 R299). -/
def fetchCode (code : BitVec 8) : BitVec 8 := if code = cPriv || code = cEcc then code else cFetch

/-- The 128 bytes of the line of code at `a`, read whole (03 R84 R85); management SRAM is closed to control cores (16 R415). -/
def State.readLine (s : State) (a : Nat) : Acc (List Byte) :=
  if s.kind == .control && placeOf a == .sram then .fail s cPriv a
  else
    match s.reach s.issuer .fetch a 8 with
    | .ok t p => .ok t (t.physBytes (p.1 / 128 * 128) 128)
    | .wait t p => .wait t p
    | .fail t code x => .fail t (fetchCode code) x

/-- Line `l` of code has been read. -/
def Agent.tookLine (a : Agent) (l : Nat) (bs : List Byte) : Agent :=
  { a with lines := a.lines.set [] l bs, stale := a.stale.filter (· ≠ l), staleNext := a.staleNext.filter (· ≠ l), inUse := l :: a.inUse }

/-- The line of code at `a`: as it is read now, or as it was read before within the task, or since the last trap entry
(03 R85; log 9). What has been chosen for a line stands for the whole of a bundle, so that its bytes are never mixed. -/
def State.codeLine (s : State) (a : Nat) : Acc (List Byte) :=
  let l := a / 128
  let old := s.me.lines.get [] l
  if !old.isEmpty && s.me.inUse.contains l then .ok s old
  else
    let r := s.readLine a
    let same := match r with
      | .ok _ bs => bs == old
      | .wait _ _ | .fail _ _ _ => false
    let drew (t : State) : State := if old.isEmpty || same then t else { t with fresh := s.fresh + 1 }
    if !old.isEmpty && !same && Config.reuseLine s.fresh then .ok ((drew s).modMe fun x => { x with inUse := l :: x.inUse }) old
    else
      match r with
      | .ok t bs => .ok ((drew t).modMe (·.tookLine l bs)) bs
      | .wait t p => .wait (drew t) p
      | .fail t c x => .fail (drew t) c x

/-- Eight bytes of code, from the loop buffer inside a loop body once it holds them (13 R340). An address that is misaligned or has bits
[63:56] set is not fetched (03 R84). -/
def State.readCode (s : State) (a : Word) : Acc Word :=
  let me := s.me
  if a.toNat % 8 ≠ 0 || 2 ^ 56 ≤ a.toNat then .fail s cFetch a.toNat
  else if !me.loops.isEmpty && me.lbuf.any (·.1 == a.toNat) then .ok s (me.lbuf.get 0 a.toNat)
  else (s.codeLine a.toNat).map fun bs => BitVec.ofNat 64 (ofBytes ((bs.drop (a.toNat % 128)).take 8))

/-- Eight bytes of a bundle that is to issue: inside a loop body the loop buffer keeps them (13 R340). -/
def State.fetchWord (s : State) (a : Word) : Acc Word :=
  (s.readCode a).bind fun t w =>
    .ok (if t.me.loops.isEmpty then t else t.modMe fun x => { x with lbuf := (x.lbuf.drop a.toNat).insert a.toNat w }) w

/-- Size of the bundle whose header is `h`: its present slots count whatever the reserved bits hold (03 R60). -/
def headerSize (h : Word) : Nat :=
  8 + 8 * ((List.range 6).filter fun i => h.getLsbD i).length

/-- HDR.RUN. -/
def headerRun (h : Word) : Nat := bitsOf h 6 6

/-- Reading the headers of the `n` stored bundles from `a` (05 R122): the address of the last and the address after it. The loop buffer
takes a bundle whole, on the first pass, so that what it holds of a line is never a mixture (03 R85, 13 R340). -/
def State.readBody (s : State) (n : Nat) (a last : Word) : Acc (Word × Word) :=
  match n with
  | 0 => .ok s (last, a)
  | k + 1 =>
    match s.readCode a with
    | .ok t h => t.readBody k (a + BitVec.ofNat 64 (headerSize h)) a
    | .wait t p => .wait t p
    | .fail t c x => .fail t c x

/-- A bundle held on a page that is not present; a refusal raises `code`, with the source `src` (11 R299). -/
def State.holdOn (s : State) (page : Option (Nat × Nat)) (code : BitVec 8) (src : Word) : State :=
  s.modMe fun a => { a with pageHold := page.map fun p => { ctx := p.1, va := p.2, code := code, src := src } }

/-! ### The end of a position -/

/-- The end of a body at the bundle `last` (05 R123): counts fall, a level repeats or closes, and enclosing levels whose body
ends there follow. -/
def loopEnd (ls : List Loop) (last : Word) : List Loop × Option Word :=
  match ls with
  | [] => ([], none)
  | l :: r =>
    if l.last ≠ last then (l :: r, none)
    else if l.lc.toNat ≤ 1 then loopEnd r last
    else ({ l with lc := l.lc - 1 } :: r, some l.first)

/-- A transfer has been taken: lines of code fetched before the last FENCE that preceded it are not used again (03 R85). -/
def Agent.dropStale (a : Agent) : Agent :=
  { a with lines := a.lines.filter (!a.stale.contains ·.1), stale := a.staleNext, staleNext := [] }

/-- The positions of the stored bundle are over: a body that ends there repeats or closes (05 R122 R123). -/
def Agent.closeBody (a : Agent) : Agent :=
  let (ls, top) := loopEnd a.loops (a.skip.getD a.bundle)
  { a with loops := ls, skip := none, lbuf := if ls.isEmpty then [] else a.lbuf, pc := top.getD a.pc }

/-- A position has issued: the next one's earliest cycle (03 R63), the delay positions of a taken transfer (05 R116), the end of
a loop body (05 R123), and a break (05 R135). `had` says that a delay was outstanding when the position issued. The bundle after a
CALL's delay positions is its return address (03 R62). After ERET the levels it has restored stand as they are (05 R125). -/
def Agent.endPosition (a : Agent) (had : Bool) (stall : Nat) : Agent :=
  let a1 := { a with earliest := a.issued + 1 + stall, tried := none, waitOn := none, asleep := false, pageHold := none }
  match had, a1.delay with
  | true, some d =>
    if d.left ≤ 1 then
      { a1.dropStale with delay := none, pc := d.target, empties := 0, xfer := some d.src
                          links := if d.call then a1.pc :: a1.links.tail else a1.links }
    else { a1 with delay := some { d with left := d.left - 1 } }
  | _, _ =>
    if a1.back then { a1 with back := false } else if a1.empties ≠ 0 then a1 else a1.closeBody

/-- The record of a break, with the address of the next position (05 R135). -/
def State.postBreak (s : State) : State :=
  match s.me.brk with
  | none => s
  | some n =>
    (s.modMe fun a => { a with brk := none }).post (dieOf s.cur) (s.causedBy s.cur { kind := 14, w2 := n.setWidth 64, w3 := s.me.pc })

/-- An empty or folded empty position (03 R61). -/
def execEmptyPosition (s : State) : Outcome State Fault Refusal :=
  let a := s.me
  let b := { a with empties := a.empties - 1 }
  (Eff.done (s.setMe (b.endPosition a.delay.isSome 0)).postBreak).out

/-! ### Preparing and transferring control (05 R115 to R119) -/

/-- BPREP: 8 × imm25 from its own bundle (05 R115). -/
def execBprep (c : Ctl) (d : BitVec 6) (imm : BitVec 25) (s : State) : Outcome State Fault Refusal :=
  issue s c {} (.done (s.modRegs s.cur fun g => { g with b := g.b.set 0 d.toNat (s.me.bundle + (imm.signExtend 64 <<< 3)) }))

/-- BPREPS (05 R115). -/
def execBpreps (c : Ctl) (d a : BitVec 6) (s : State) : Outcome State Fault Refusal :=
  issue s c { srcs := [srcS a 0] } (.done (s.modRegs s.cur fun g => { g with b := g.b.set 0 d.toNat (s.rs a) }))

/-- The form of a transfer. -/
def xferForm : Form := { guard := .transfer, br := true }

/-- A taken transfer: two delay positions, then the target (05 R116). Inside a loop it is refused (05 R125). -/
def State.transfer (s : State) (target : Word) : State :=
  s.modMe fun a => { a with delay := some { left := 2, target := target, src := a.bundle } }

/-- BR (05 R116). -/
def execBr (c : Ctl) (a : BitVec 6) (s : State) : Outcome State Fault Refusal :=
  issue s c xferForm
    (if !s.me.loops.isEmpty then .raise s cBundle 0 else .done (s.transfer (s.src.rb a.toNat)))

/-- The address of the first stored bundle after the second delay position (03 R62). Where a header on the way cannot be read yet, the
model's own, which the address takes the place of once the delay positions have issued (log 18). -/
def State.returnAddr (s : State) : Word :=
  let me := s.me
  let after (a : Word) : Option (Word × Nat) :=
    match s.fetchWord a with
    | .ok _ h => some (a + BitVec.ofNat 64 (headerSize h), headerRun h)
    | .wait _ _ | .fail _ _ _ => none
  let lost := Config.retAddr s.fresh
  if 2 ≤ me.empties then me.pc
  else
    match after me.pc with
    | none => lost
    | some (p1, r1) =>
      if me.empties = 1 || 1 ≤ r1 then p1
      else
        match after p1 with
        | none => lost
        | some (p2, _) => p2

/-- A store of the task retired into the side log (07 R174). -/
def State.logAccess (s : State) (what : LogOp) (hint : BitVec 2) : State :=
  { s.modCore fun k =>
      { k with slog := k.slog ++
          [{ ctx := (k.task.map (·.ctx)).getD 0, bundle := s.me.bundle, what := what, hint := hint, num := s.nextId }] } with
    nextId := s.nextId + 1 }

/-- A deferred fault of the agent that acts (03 R83). -/
def State.deferMe (s : State) (code : BitVec 8) (addr : Nat) : State :=
  s.modMe fun a => { a with deferred := a.deferred ++ [{ code := code, src := a.bundle, addr := BitVec.ofNat 64 addr }] }

/-- CALL's push once the stack has room (05 R118). -/
def State.pushLink (s : State) (target : Word) : State :=
  let ra := s.returnAddr
  let s1 := s.modMe fun a => { a with links := ra :: a.links }
  { s1.modMe fun a => { a with delay := some { left := 2, target := target, src := a.bundle, call := true } } with fresh := s1.fresh + 1 }

/-- The held entries and spill count once the oldest entry has been moved out. -/
def State.dropOldest (s : State) : State := s.modMe fun a => { a with links := a.links.dropLast, spill := a.spill + 1 }

/-- The bytes a logged access puts, or combines, by address; none for a combined one. -/
def LogOp.bytes (o : LogOp) : List (Nat × Option Byte) :=
  match o with
  | .store elems => elems.flatMap fun e => e.2.mapIdx fun i b => (e.1 + i, some b)
  | .atomic _ w elems => elems.flatMap fun e => (List.range w).map fun i => (e.1 + i, none)

/-- What the acting task's side log holds of the byte at `a`, the newest (07 R175): an address is the same byte as another of the same
frame. -/
def State.slogByte (s : State) (a : Nat) : Option (Option Byte) :=
  let k := s.myCore
  let ctx := (k.task.map (·.ctx)).getD 0
  let same (x : Nat) : Bool := x == a || ((s.physOf ctx x).isSome && s.physOf ctx x == s.physOf ctx a)
  ((k.slog.flatMap (·.what.bytes)).reverse.find? fun b => same b.1).map (·.2)

/-- What the side log says of the bytes of a load: nothing; every byte, with their values; or some, or a combined one, for which
the load waits (07 R175). -/
inductive Forward where
  | clear
  | bytes (bs : List Byte)
  | blocked
  deriving DecidableEq, Repr

/-- The log's answer for `n` bytes at `a`. -/
def State.slogForward (s : State) (a n : Nat) : Forward :=
  if s.myCore.slog.isEmpty then .clear
  else
    let xs := (List.range n).map fun i => s.slogByte (a + i)
    if xs.all (·.isNone) then .clear
    else
      match (xs.mapM id).bind (·.mapM id) with
      | some bs => .bytes bs
      | none => .blocked

/-- The task runs in stamped mode (01 R29). -/
def State.stamped (s : State) : Bool :=
  s.kind == .tile && match s.myCore.task with
    | some t => t.mode.getLsbD 0
    | none => false

/-- frame: the cycle's offset within the schedule frame in stamped mode (01 R26, 12 R327). -/
def State.frameAt (s : State) (c : Nat) : Nat :=
  match s.myCore.task with
  | some t => if t.mode.getLsbD 0 then (c - t.origin) % t.frameLen else 0
  | none => 0

/-! ### The loop buffer (05 R121 to R125) -/

/-- LOOPSET: the field holds the body's length minus 1 (05 R122). -/
def execLoopset (c : Ctl) (a n : BitVec 6) (s : State) : Outcome State Fault Refusal :=
  let me := s.me
  let count := s.rs a
  issue s c { srcs := [srcS a 0], guard := .transfer, br := true }
    (match s.readBody (n.toNat + 1) me.pc me.pc with
    | .wait t p => .hold (t.holdOn p cFetch me.bundle) 0
    | .fail t code x => .raise t code (BitVec.ofNat 64 x)
    | .ok t (last, after) =>
      if bitsOf count 32 32 ≠ 0 then .raise t cField 0
      else if 6 ≤ me.loops.length then .raise t cBundle 0
      else if me.loops.any fun l => decide (l.last.toNat < last.toNat) then .raise t cBundle 0
      else if count = 0 then .done (t.modMe fun x => { x with pc := after, skip := some last })
      else .done (t.modMe fun x => { x with loops := { lc := count.setWidth 32, first := me.pc, last := last } :: x.loops }))

/-- LOOPBRK (05 R124). -/
def execLoopbrk (c : Ctl) (n : BitVec 3) (s : State) : Outcome State Fault Refusal :=
  issue s c { guard := .transfer, br := true }
    (if s.me.loops.length < n.toNat then .raise s cField 0
    else .done (s.modMe fun a => { a with loops := a.loops.mapIdx fun i l => if i < n.toNat then { l with lc := 1 } else l }))

/-! ### Task and system instructions (05 R126 to R137) -/

/-- END: no position after it issues; TASK_COMPLETE completes the task (05 R128). -/
def execEndTask (c : Ctl) (s : State) : Outcome State Fault Refusal :=
  issue s c { guard := .transfer, br := true, tileOnly := true }
    (if s.me.missed then .raise s cStamp (BitVec.ofNat 64 (s.frameAt s.me.issued))
    else .done (s.modMe fun a => { a with run := .ended, empties := 0 }))

/-- Declared latency in cycles of a global access that reaches a physical address, without the block cache (12 R328). -/
def State.declared (s : State) (pa : Nat) : Nat :=
  let d := dieOf s.cur
  let hot := match s.myCore.task with
    | some t => t.mode.getLsbD 1
    | none => false
  match placeOf pa with
  | .window c _ => if c = s.cur then 6 else 220
  | .hbm =>
    let h := pa / 0x2000000000
    let ready := (s.die h).l2win.any fun w =>
      w.2.getLsbD 1 && w.2.getLsbD 0 && bitsOf w.2 20 20 * 2 ^ 20 ≤ pa && pa < (bitsOf w.2 20 20 + bitsOf w.2 10 10) * 2 ^ 20
    if ready then (if h = d then 180 else 220)
    else if h = d then (if hot then 1400 else 1100)
    else if hot then 1540 else 1240
  | .sram | .rom _ | .control | .nowhere => 1240

/-- A bundle held at a wait: since when, what it watches (12 R319), and in stamped mode for how long (05 R130). -/
def State.holdWait (s : State) (line : Option Nat) (till : Option Nat) (grace : Nat) : Eff :=
  .hold (s.modMe fun a =>
    { a with waitOn := some { since := (a.waitOn.map (·.since)).getD (s.timeAt a.issued), line := line, till := till } }) grace

/-- WAITT (05 R131). -/
def execWaitt (c : Ctl) (a : BitVec 6) (s : State) : Outcome State Fault Refusal :=
  issue s c { srcs := [srcS a 0], br := true }
    (if (s.rs a).toNat ≤ s.timeAt s.me.issued then .done s else s.holdWait none (some (s.rs a).toNat) 0)

/-- TRAP (05 R133). -/
def execTrap (c : Ctl) (n : BitVec 7) (s : State) : Outcome State Fault Refusal :=
  issue s c { br := true } (.raise s cTrap (n.setWidth 64))

/-- ERET; a tile core lacks it (05 R127 R134). -/
def execEret (c : Ctl) (s : State) : Outcome State Fault Refusal :=
  issue s c { br := true }
    (match s.kind with
    | .tile => .raise s cPriv 0
    | .control | .machine => .done (s.modMe Agent.leave))

/-- Debug is enabled for the agent: the DBGCTL.EN bit of its die (05 R135, 16 R414). -/
def State.debugged (s : State) (n : Nat) : Bool := s.dbgEn.getLsbD (dieOf n)

/-- BRK (05 R135). -/
def execBrk (c : Ctl) (n : BitVec 7) (s : State) : Outcome State Fault Refusal :=
  issue s c { br := true }
    (.done (if s.debugged s.cur then s.modMe fun a => { a with run := .broken, brk := some n } else s))

/-- cause (01 R33). -/
def Agent.cause (a : Agent) : Word :=
  BitVec.ofNat 64 (a.code.toNat + (if a.inh then 256 else 0) + (if a.ext then 512 else 0))

/-- A loop count by level, 0 outermost (01 R20). -/
def Agent.lc (a : Agent) (k : Nat) : Word :=
  match a.loops.reverse[k]? with
  | some l => l.lc.setWidth 64
  | none => 0

/-- The special register with a number (01 R26). A running task reads the fault registers as 0 (01 R28). -/
def State.special (s : State) (n : Nat) : Word :=
  let a := s.me
  let k := s.myCore
  let t (f : Task → Word) : Word := (k.task.map f).getD 0
  let tile := s.kind == .tile
  let d := s.die (dieOf s.cur)
  match n with
  | 0 => t fun x => BitVec.ofNat 64 x.tidx
  | 1 | 2 | 3 | 4 | 5 | 6 => t fun x => BitVec.ofNat 64 (x.coords.getD (n - 1) 0)
  | 7 => t fun x => BitVec.ofNat 64 x.launch
  | 8 => BitVec.ofNat 64 (s.timeAt a.issued)
  | 9 => BitVec.ofNat 64 a.issued
  | 10 => BitVec.ofNat 64 (s.frameAt a.issued)
  | 11 => t fun x => x.mode.setWidth 64
  | 12 => a.lsbase
  | 13 => (a.spill.setWidth 64 <<< 8) ||| BitVec.ofNat 64 a.links.length
  | 14 => if tile then 0 else a.faultcode.setWidth 64
  | 15 => if tile then 0 else a.faultpc
  | 16 => if tile then 0 else a.faultsrc
  | 17 => if tile then 0 else a.faultaddr
  | 18 => (s.qNow).signExtend 64
  | 19 => k.status.setWidth 64
  | 20 => k.cad.setWidth 64
  | 21 => k.tallow.setWidth 64
  | 22 => BitVec.ofNat 64 s.cur
  | 23 => s.chipid.setWidth 64
  | 24 | 25 | 26 | 27 | 28 | 29 => a.lc (n - 24)
  | 30 => BitVec.ofNat 64 a.loops.length
  | 32 => d.evqhead.setWidth 64
  | 33 => d.evqtail.setWidth 64
  | 34 => a.trapvec
  | 35 => a.epc
  | 36 => a.cause
  | _ => 0

/-- MFSR reads the special register at issue (05 R136). -/
def execMfsr (c : Ctl) (d n : BitVec 6) (s : State) : Outcome State Fault Refusal :=
  issue s c { dsts := [.s d.toNat] } (.done (s.produce (.s d.toNat) (.w (s.special n.toNat)) 0 1))

/-- Low bits [2:0] cleared. -/
def clear3 (x : Word) : Word := x &&& ~~~7

/-- A write to a special register by its access code (01 R26 R27, 05 R136); a write to an RO register is ignored. -/
def State.writeSpecial (s : State) (n : Nat) (x : Word) : State :=
  match n with
  | 12 => s.modMe fun a => { a with lsbase := clear3 x }
  | 18 => s.modCore fun k => { k.qSettle s.me.issued with qscale := x.setWidth 8 }
  | 19 => s.modCore fun k => k.clearStatus (x.setWidth 8) s.me.issued
  | 32 => s.modDie (dieOf s.cur) fun d =>
      if (d.evqtail - x.setWidth 32).toNat ≤ (d.evqtail - d.evqhead).toNat then { d with evqhead := x.setWidth 32 } else d
  | 34 => s.modMe fun a => { a with trapvec := clear3 x }
  | 35 => s.modMe fun a => { a with epc := x }
  | 36 => s.modMe fun a => { a with code := x.setWidth 8, inh := x.getLsbD 8, ext := x.getLsbD 9 }
  | _ => s

/-- MTSR; on a tile core mxcad and tallow raise PRIVILEGE (01 R27, 05 R136). -/
def execMtsr (c : Ctl) (n a : BitVec 6) (s : State) : Outcome State Fault Refusal :=
  issue s c { srcs := [srcS a 0] }
    (if n.toNat = 20 || n.toNat = 21 then .raise s cPriv 0 else .done (s.writeSpecial n.toNat (s.rs a)))

/-- The pending interrupt sources of the management controller, lowest first (01 R32, 13 R360, 16 R414 R418). -/
def State.irqs (s : State) : List Nat :=
  (if s.alertStatus &&& ~~~s.alertMask ≠ 0 then [1] else []) ++ (if s.sideMsg then [2] else []) ++
    (if s.elHwm ≠ 0 && s.elHwm ≤ (s.elTail - s.elHead).toNat then [3] else []) ++ (if s.cfHalt ≠ 0 then [4] else [])

/-- SLEEP holds its bundle until an interrupt source is pending or the event queue holds a record (05 R132). -/
def execSleep (c : Ctl) (s : State) : Outcome State Fault Refusal :=
  let d := s.die (dieOf s.cur)
  issue s c { br := true }
    (match s.kind with
    | .tile => .raise s cOpcode 0
    | .control => if d.evqhead ≠ d.evqtail then .done s else .hold s 0
    | .machine => if s.irqs ≠ [] then .done s else .hold (s.modMe fun a => { a with asleep := true }) 0)

/-- EVPOP (05 R137). -/
def execEvpop (c : Ctl) (d : BitVec 6) (s : State) : Outcome State Fault Refusal :=
  let x := s.die (dieOf s.cur)
  issue s c { dsts := [.s d.toNat], br := true }
    (match s.kind with
    | .tile | .machine => .raise s cOpcode 0
    | .control =>
      if x.evqhead = x.evqtail then .done (s.produce (.s d.toNat) (.w (BitVec.allOnes 64)) 0 1)
      else
        .done ((s.produce (.s d.toNat) (.w (x.evqhead.setWidth 64)) 0 1).modDie (dieOf s.cur) fun y =>
          { y with evqhead := y.evqhead + 1 }))

/-- The management controller takes its lowest pending interrupt between bundles, with CAUSE.INH = 0 and no delay positions
outstanding (01 R32, 05 R116 R132, 03 R61); one that ends a SLEEP is taken before the position after it (05 R132). -/
def State.canInterrupt (s : State) : Bool :=
  let a := s.agent 100
  (a.run == .running) && !a.inh && a.delay.isNone && a.empties == 0 && a.pend.isNone && !a.asleep && !s.paused && s.irqs != []

/-- INTERRUPT_ENTRY (01 R32); a side-band message is no longer pending once its interrupt is taken (log 17). -/
def execInterruptEntry (s : State) : Outcome State Fault Refusal :=
  match s.canInterrupt, s.irqs with
  | true, n :: _ =>
    let s1 := if n = 2 then { s with sideMsg := false } else s
    (Eff.done (s1.modAgent 100 fun a => a.enter a.pc true (BitVec.ofNat 8 n))).out
  | _, _ => (Eff.done s).out

/-- A deferred fault of agent `n` may be taken: before any position, or after END (05 R128), but not while delay positions are
outstanding (03 R83, 05 R120). -/
def State.canDefer (s : State) (n : Nat) : Bool :=
  let a := s.agent n
  (a.run == .running || a.run == .ended) && a.delay.isNone && !a.deferred.isEmpty

/-- DEFERRED_FAULT: the oldest deferred fault that has arrived is taken; faultpc is the next stored bundle, or the END bundle
(03 R83, 05 R128 R139). Folded empty positions that are left do not issue, and a body that they would have ended has ended (log 85);
an access that has issued and waits is still performed. -/
def execDeferredFault (n : Nat) (s : State) : Outcome State Fault Refusal :=
  let a := s.agent n
  match s.canDefer n, a.deferred with
  | true, f :: r =>
    let b := if a.empties = 0 then a else { a.closeBody with empties := 0 }
    let s1 := s.setAgent n { b with deferred := r }
    let pc := if a.run == .ended then a.bundle else b.pc
    (Eff.done (s1.faultAt n f.code pc f.src f.addr)).out
  | _, _ => (Eff.done s).out

/-- PRODUCER_WRITEBACK: a producer in flight whose cycle has come, or whose latency is not fixed, writes its result
(01 R15; log 3). -/
def execProducerWriteback (n idx : Nat) (s : State) : Outcome State Fault Refusal :=
  let a := s.agent n
  match a.flight[idx]? with
  | none => (Eff.done s).out
  | some p =>
    let c := p.due.getD (s.reached n)
    if s.reached n < c then (Eff.done s).out
    else (Eff.done ((s.setAgent n { a with flight := a.flight.eraseIdx idx }).land n p c)).out

/-- BREAK_RESUMPTION: an agent stopped by BRK goes on at the next position (05 R135). -/
def execBreakResumption (n : Nat) (s : State) : Outcome State Fault Refusal :=
  let a := s.agent n
  (Eff.done (if a.run == .broken then s.setAgent n { a with run := .running } else s)).out

end Sys2Proof.Machine
end

