-- ==== Sys2Proof/Machine/Report.lean ====
section
/-! DEFINITION. Deferred faults of tasks wherever they are, and the reports of commands that end in a fault (07 R199 R438,
08 R235). -/

namespace Sys2Proof.Machine

/-- The core that holds the task with an identity. -/
def State.coreOfTask (s : State) (uid : Nat) : Option Nat :=
  (s.cores.find? fun p => match p.2.task with
    | some t => t.uid == uid
    | none => false).map (·.1)

/-- The side log of the task with an identity, wherever it is. -/
def State.slogOf (s : State) (uid : Nat) : List LogEntry :=
  match s.coreOfTask uid with
  | some n => (s.core n).slog
  | none => ((List.range 4).findSome? fun d => ((s.die d).saved.find? (·.task.uid == uid)).map (·.core.slog)).getD []

/-- The pusher is a tile task. -/
def byTask (p : Pusher) : Bool :=
  match p with
  | .task _ => true
  | .control _ | .regset _ | .child _ _ | .lead _ _ => false

/-- The pusher is the pod level, whose records are children: they post none (09 R248, 17 R422). -/
def fromPod (p : Pusher) : Bool :=
  match p with
  | .child _ _ | .lead _ _ => true
  | .task _ | .control _ | .regset _ => false

/-- The launch whose task pushed a command: what it does counts for that launch (12 R334). -/
def Origin.byLaunch (o : Origin) : Option Nat := if byTask o.by_ then some o.launch else none

/-- Two commands come from the same pusher: the same task, on whatever core it ran, or the same agent or register set. -/
def samePusher (a b : Origin) : Bool := if byTask a.by_ && byTask b.by_ then a.task == b.task else a.by_ == b.by_

/-- Changes the task with an identity, wherever it is. -/
def State.modTask (s : State) (uid : Nat) (f : Task → Task) : State :=
  match s.coreOfTask uid with
  | some n => s.modCoreAt n fun k => { k with task := k.task.map f }
  | none =>
    match (List.range 4).find? fun d => (s.die d).saved.any (·.task.uid == uid) with
    | some d => s.modDie d fun x => { x with saved := x.saved.map fun (y : Saved) =>
        if y.task.uid = uid then { y with task := f y.task } else y }
    | none => s

/-- Every access of a pusher that precedes what it pushed, which the chip has taken as its number `id`, has been performed: a task's side log,
wherever the task is, holds none that retired before (07 R198, 09 R250). -/
def State.pusherSettled (s : State) (o : Origin) (id : Nat) : Bool := !byTask o.by_ || (s.slogOf o.task).all fun e => decide (id ≤ e.num)

/-- The die whose ring takes the records about a command (12 R335). -/
def State.recordDie (s : State) (o : Origin) : Nat := if o.roams then s.evdie else o.die

/-- A producer that waits for room in a die's ring is counted (12 R335). -/
def State.countHold (s : State) (d : Nat) : State := s.modDie d fun x => { x with evHolds := satInc x.evHolds 1 }

/-- A saved task takes a deferred fault (07 R199). -/
def Saved.defer (x : Saved) (uid : Nat) (f : Deferred) : Saved :=
  if x.task.uid = uid then { x with agent := { x.agent with deferred := x.agent.deferred ++ [f] } } else x

/-- A deferred fault of a task that has not completed, running or stopped (07 R199); one that is already ending with a fault counts it
(05 R139). None once the task has completed. -/
def State.faultTask (s : State) (uid : Nat) (f : Deferred) : Option State :=
  match s.coreOfTask uid with
  | some n =>
    let a := s.agent n
    some (s.setAgent n (if a.run == .faulted then { a with later := a.later + 1 } else { a with deferred := a.deferred ++ [f] }))
  | none =>
    match (List.range 4).find? fun d => (s.die d).saved.any (·.task.uid == uid) with
    | some d => some (s.modDie d fun x => { x with saved := x.saved.map (·.defer uid f) })
    | none => none

/-- The agent number a record about a pusher's command carries (12 R336): the owner of a register set, or none for the mailbox
(log 26). -/
def agentNo (p : Pusher) : Nat :=
  match p with
  | .task c => c
  | .control d => 96 + d
  | .regset n => if n < 4 then 96 + n else if n = 4 then 100 else 0x7F
  | .child _ _ | .lead _ _ => 0x7F

/-- EVR.TAG of a record about a tile instruction or a launch: its tag, or QW2 of a GO (12 R336). -/
def Origin.tagFor (o : Origin) (tag : Nat) : Nat :=
  match o.by_ with
  | .regset _ => o.tag.toNat % 2 ^ 32
  | .task _ | .control _ | .child _ _ | .lead _ _ => tag

/-- A record about a command (12 R337 kinds 0x04 and 0x06): a command taken by a GO carries its address and its tag. -/
def State.recordOf (s : State) (o : Origin) (kind : Nat) (code : BitVec 8) (w2 w3 w4 : Word) : EvRec :=
  match o.by_ with
  | .regset _ =>
    { kind := kind, code := code, agent := agentNo o.by_, tag := o.tag.toNat % 2 ^ 32
      w2 := if kind = 4 then o.qw1 else w2, w3 := w3, w4 := w4, w5 := o.tag }
  | .task _ =>
    { kind := kind, code := code, agent := agentNo o.by_, slot := s.slotOf o.launch, launch := o.launch
      w2 := if kind = 4 then 0 else w2, w3 := w3, w4 := w4 }
  | .control _ | .child _ _ | .lead _ _ =>
    { kind := kind, code := code, agent := agentNo o.by_, w2 := if kind = 4 then 0 else w2, w3 := w3, w4 := w4 }

/-- A fault of a command reaches no task: a record is posted for it (07 R199). -/
def State.mustPost (s : State) (o : Origin) : Bool :=
  !byTask o.by_ || (s.faultTask o.task { code := 0, src := 0, addr := 0 }).isNone

/-- A command ends in a fault: the deferred fault of its task while that has not completed, else a die event record of kind 0x04
or 0x06 (07 R199 R438, 08 R235). -/
def State.commandFault (s : State) (o : Origin) (kind : Nat) (code : BitVec 8) (addr : Nat) (w2 w3 : Word) : State :=
  let a : Word := BitVec.ofNat 64 addr
  let posted := s.post (s.recordDie o) (s.recordOf o kind code w2 w3 a)
  match o.by_ with
  | .task _ => (s.faultTask o.task { code := code, src := o.bundle, addr := a }).getD posted
  | .control _ | .regset _ | .child _ _ | .lead _ _ => posted

/-- The launch with a number. -/
def State.launch (s : State) (num : Nat) : Option Launch := s.launches.find? (·.num == num)
/-- Changes a launch. -/
def State.modLaunch (s : State) (num : Nat) (f : Launch → Launch) : State :=
  { s with launches := s.launches.map fun l => if l.num = num then f l else l }

/-- A sink of a launch: 1 store, 2 engine, 3 fabric, 4 record. -/
def State.sink (s : State) (num kind : Nat) : State :=
  s.modLaunch num fun l =>
    { l with sinkKind := kind, sinkTime := s.now, clockAcc := 0, clockFrom := l.clockFrom.map fun _ => s.now }

/-- A sink by the work of a task's command (12 R334). -/
def State.sinkBy (s : State) (o : Origin) (kind : Nat) : State :=
  match o.by_ with
  | .task _ => s.sink o.launch kind
  | .control _ | .regset _ | .child _ _ | .lead _ _ => s

/-- The origin of a command that the task on the core that acts pushes. -/
def State.myOrigin (s : State) : Origin :=
  match s.kind, s.myCore.task with
  | .tile, some t =>
    { by_ := .task s.cur, die := dieOf s.cur, task := t.uid, launch := t.launch, bundle := s.me.bundle }
  | .tile, none => { by_ := .task s.cur, die := dieOf s.cur, bundle := s.me.bundle }
  | .control, _ | .machine, _ => { by_ := .control (dieOf s.cur), die := dieOf s.cur, bundle := s.me.bundle }

end Sys2Proof.Machine
end

