-- ==== Sys2Proof/Machine/Matrix.lean ====
section
/-! DEFINITION. The matrix array: scratchpad regions as matrix operations and the task's own accesses touch them (07 R184 R185),
the checks and the queue of 08 R203 to R221, the MX slot, and the start and completion of queue entries. -/

namespace Sys2Proof.Machine

open Host (Outcome)

/-! ### Scratchpad lines (07 R185) -/

/-- The region that holds a scratchpad offset, with its number. -/
def Core.regionAt (k : Core) (a : Nat) : Option (Nat × Region) :=
  k.regions.findSome? fun p => match p.2 with
    | some r => if r.base ≤ a && a < r.base + r.size then some (p.1, r) else none
    | none => none

/-- Fills the region line that holds `a`, if it is unfilled: a load in the task's program order (07 R185), which writes the scratchpad line
(12 R319). -/
def State.fillLine (s : State) (n : Nat) (a : Nat) : Acc Unit :=
  match (s.core n).regionAt a with
  | none => .ok s ()
  | some (i, r) =>
    let l := (a - r.base) / 128
    if r.filled.contains l then .ok s ()
    else
      let slot := { s with cur := n }.slogForward (r.gbase + 128 * l) 128
      let ctx := (s.core n).task.map (·.ctx)
      let done (t : State) (bs : List Byte) : Acc Unit :=
        .ok ((t.modCoreAt n fun k =>
          { k.putPad (r.base + 128 * l) bs with regions := k.regions.set none i (some { r with filled := l :: r.filled }) }).noteStore
            (windowAddr n (r.base + 128 * l)) 128) ()
      match slot with
      | .bytes bs => done s bs
      | .blocked => .wait s none
      | .clear =>
        match s.readMem { agent := n, ctx := some (ctx.getD 0) } .read (r.gbase + 128 * l) 128 with
        | .ok t bs => done t bs
        | .wait t p => .wait t p
        | .fail t c x => .fail t c x

/-- Fills every unfilled region line among scratchpad offsets (07 R185). -/
def State.fillLines (s : State) (n : Nat) (offs : List Nat) : Acc Unit :=
  match offs with
  | [] => .ok s ()
  | a :: r =>
    match s.fillLine n a with
    | .ok t _ => t.fillLines n r
    | .wait t p => .wait t p
    | .fail t c x => .fail t c x

/-- One offset in each line of [a, a + len). -/
def lineOffs (a len : Nat) : List Nat := if len = 0 then [] else (linesOf a len).map (· * 128)

/-- Marks the region lines a store touches dirty (07 R185). -/
def Core.dirtyLine (k : Core) (a : Nat) : Core :=
  match k.regionAt a with
  | none => k
  | some (i, r) =>
    let l := (a - r.base) / 128
    if r.dirty.contains l then k else { k with regions := k.regions.set none i (some { r with dirty := l :: r.dirty }) }

/-! ### Formats and operands (08 R203 R206) -/

/-- L of a format: its chunk length. -/
def chunkLen (t : Ty) : Nat := if t == .t6 then 256 else 128
/-- Base interval of a format. -/
def baseInterval (t : Ty) : Nat := if t == .bf16 || t == .f16 then 4 else 1
/-- Slots of a weight window (08 R203). -/
def windowOf (t : Ty) (n : Nat) : List Nat := if t.twoSlots then [n, n + 1] else [n]
/-- A slot holds 32 KiB. -/
def slotSize : Nat := 32768
/-- ROWW.ROW0. -/
def row0 (w : Word) : Nat := bitsOf w 16 7
/-- M of ROWW.MROWS. -/
def rowCount (w : Word) : Nat := bitsOf w 8 7 + 1
/-- ROWW.BIAS, signed. -/
def rowBias (w : Word) : Int := (w.setWidth 8).toInt
/-- Accumulator row of operation row `m` (08 R206). -/
def rowAt (w : Word) (m : Nat) : Nat := (row0 w + m) % 128
/-- Key of an accumulator element. -/
def accKey (a r n : Nat) : Nat := 32768 * a + 256 * r + n

/-- The exact sum of a chunk's products, and its flags (02 R55 R56). -/
def chunkSum (ps : List (Num × Num)) : Num × Flags :=
  if ps.any fun p => p.1.isNan || p.2.isNan then (.nan, 0)
  else if ps.any fun p => zeroTimesInf p.1 p.2 then (.nan, fNV)
  else
    let infs := (ps.filter fun p => p.1.isInf || p.2.isInf).map fun p => p.1.sign != p.2.sign
    if infs.contains true && infs.contains false then (.nan, fNV)
    else
      match infs with
      | n :: _ => (.inf n, 0)
      | [] => (ps.foldl (fun acc p => (acc.add .rne (p.1.mul p.2))) (.fin false 0 0), 0)

/-- An exact zero sum is +0 (02 R56). -/
def plusZero (x : Num) : Num := if x.isZero then .fin false 0 0 else x

/-- A chunk sum added into an accumulator element (02 R55). -/
def accAdd (int : Bool) (old : BitVec 32) (sum : Num × Flags) : Val :=
  if int then
    let add := match (plusZero sum.1) with
      | .fin n m e => if n then -((m * 2 ^ e.toNat : Nat) : Int) else ((m * 2 ^ e.toNat : Nat) : Int)
      | .nan | .nav | .inf _ => 0
    let v := satInt 32 (old.toInt + add)
    { bits := v.bits, flags := if v.flags = 0 then 0 else fOVF }
  else
    match sum.1 with
    | .nan | .nav => { bits := f32.nanBits, flags := sum.2 }
    | .inf _ | .fin _ _ _ =>
      let r := f32.encode .rne (plusZero sum.1)
      let v := fadd f32 .rne old.toNat r.bits
      { bits := v.bits, flags := v.flags ||| r.flags ||| sum.2 }

/-! ### What an operation reads, writes and names -/

/-- The accumulator an operation names. -/
def MatrixOp.acc (o : MatrixOp) : Option Nat :=
  match o with
  | .mma _ _ a _ _ _ | .maccz _ a | .maccrd _ a _ | .maccwr a _ _ | .maccst a _ _ | .maccld _ a _ _ => some a
  | .osrel _ | .osld _ _ _ | .mwld _ _ _ => none

/-- The slots an operation reads. -/
def MatrixOp.reads (o : MatrixOp) : List Nat :=
  match o with
  | .mwld t n _ => windowOf t n
  | .mma _ _ _ n _ _ => [n]
  | .osrel _ | .osld _ _ _ | .maccz _ _ | .maccrd _ _ _ | .maccwr _ _ _ | .maccst _ _ _ | .maccld _ _ _ _ => []

/-- The slot an operation fills. -/
def MatrixOp.fills (o : MatrixOp) : List Nat :=
  match o with
  | .osld n _ _ => [n]
  | .osrel _ | .mwld _ _ _ | .mma _ _ _ _ _ _ | .maccz _ _ | .maccrd _ _ _ | .maccwr _ _ _ | .maccst _ _ _
  | .maccld _ _ _ _ => []

/-- The slot an operation releases. -/
def MatrixOp.frees (o : MatrixOp) : List Nat :=
  match o with
  | .osrel n => [n]
  | .osld _ _ _ | .mwld _ _ _ | .mma _ _ _ _ _ _ | .maccz _ _ | .maccrd _ _ _ | .maccwr _ _ _ | .maccst _ _ _
  | .maccld _ _ _ _ => []

/-- MMA or MMAZ. -/
def MatrixOp.isMma (o : MatrixOp) : Bool :=
  match o with
  | .mma _ _ _ _ _ _ => true
  | .osrel _ | .osld _ _ _ | .mwld _ _ _ | .maccz _ _ | .maccrd _ _ _ | .maccwr _ _ _ | .maccst _ _ _ | .maccld _ _ _ _ => false

/-- MWLD. -/
def MatrixOp.isMwld (o : MatrixOp) : Bool :=
  match o with
  | .mwld _ _ _ => true
  | .osrel _ | .osld _ _ _ | .mma _ _ _ _ _ _ | .maccz _ _ | .maccrd _ _ _ | .maccwr _ _ _ | .maccst _ _ _
  | .maccld _ _ _ _ => false

/-- The scratchpad bytes an operation touches, and whether it writes them. -/
def MatrixOp.touches (o : MatrixOp) : Option (Nat × Nat × Bool) :=
  match o with
  | .osld _ off n => some (off, n, false)
  | .maccst _ off row => some (off, 1024 * rowCount row, true)
  | .maccld _ _ off row => some (off, 1024 * rowCount row, false)
  | .osrel _ | .mwld _ _ _ | .mma _ _ _ _ _ _ | .maccz _ _ | .maccrd _ _ _ | .maccwr _ _ _ => none

/-- Two ranges overlap. -/
def overlap (a n b m : Nat) : Bool := decide (a < b + m) && decide (b < a + n)

/-- A later access of the task to scratchpad bytes waits for an operation of the queue (08 R210). -/
def Core.mqBlocks (k : Core) (a n : Nat) (write : Bool) : Bool :=
  k.mq.any fun e => match e.op.touches with
    | some (b, m, w) => (w || write) && overlap a n b m
    | none => false

/-- How an earlier entry keeps a later one back (08 R208): until it completes, until its last row is injected, or until it has
started. -/
inductive Keep where
  | no
  | started
  | injected
  | completed
  deriving DecidableEq, Repr

/-- Any element in common. -/
def meets (a b : List Nat) : Bool := a.any b.contains

/-- The relation of an earlier operation X to a later Y (08 R208). -/
def keeps (x y : MatrixOp) : Keep :=
  let scratch := match x.touches, y.touches with
    | some (a, n, w), some (b, m, v) => (w || v) && overlap a n b m
    | _, _ => false
  let sameAcc := x.acc.isSome && x.acc == y.acc
  if (sameAcc && !(x.isMma && y.isMma)) || meets x.fills (y.reads ++ y.fills) || scratch || (x.isMwld && (y.isMma || y.isMwld)) ||
      (meets x.reads (y.fills ++ y.frees) && !x.isMma) then .completed
  else if sameAcc || meets x.reads (y.fills ++ y.frees) then .injected
  else if x.isMma && y.isMwld then .started
  else .no

/-! ### Checks (08 R209 to R220) -/

/-- The claim of a slot. -/
def Core.claim (k : Core) (n : Nat) : Claim := k.claims.get .free n
/-- Sets the claim of a slot. -/
def Core.setClaim (k : Core) (n : Nat) (c : Claim) : Core := { k with claims := k.claims.set .free n c }
/-- The format of an accumulator as program order leaves it: true is INT32. -/
def Core.fmt (k : Core) (a : Nat) : Bool := k.accInt.get false a

/-- Filling or loaded. -/
def Claim.filled (c : Claim) : Bool :=
  match c with
  | .filling | .loaded => true
  | .free | .claimed => false

/-- The issue-time checks of an operation, against the state as program order leaves it: fault code and address (08 R209). -/
def Core.check (k : Core) (o : MatrixOp) : Option (BitVec 8 × Word) :=
  let w (x : Nat) : Word := BitVec.ofNat 64 x
  match o with
  | .osrel n => if k.claim n == Claim.free then some (cSlot, 0) else none
  | .osld n off count =>
    if off % 128 ≠ 0 then some (cAlign, w off)
    else if count % 128 ≠ 0 || count = 0 || slotSize < count then some (cAlign, w count)
    else if scratchEnd < off + count then some (cLocal, w off)
    else if k.claim n == Claim.free then some (cSlot, 0)
    else none
  | .mwld t n _ => if (windowOf t n).all fun i => (k.claim i).filled then none else some (cSlot, 0)
  | .mma zero t a n _ _ =>
    if k.latchOrder ≠ some t then some (cSlot, 0)
    else if !(k.claim n).filled then some (cSlot, 0)
    else if !zero && k.fmt a != (t == .i8) then some (cAcc, 0)
    else none
  | .maccz _ _ | .maccrd _ _ _ | .maccwr _ _ _ => none
  | .maccst _ off row | .maccld _ _ off row =>
    if off % 128 ≠ 0 then some (cAlign, w off)
    else if scratchEnd < off + 1024 * rowCount row then some (cLocal, w off)
    else none

/-- Slots released: fills of them still under way no longer change their claim (08 R212). -/
def Core.release (k : Core) (n : Nat) : Core :=
  { k.setClaim n .free with
    mq := k.mq.map fun e => if e.op.fills.contains n then { e with released := true } else e
    cq := k.cq.map fun e => { e with released := n :: e.released } }

/-- What the entering of an operation does to the state of 08 R209. -/
def Core.enterOrder (k : Core) (o : MatrixOp) : Core :=
  match o with
  | .osrel n => k.release n
  | .osld n _ _ => if k.claim n == Claim.claimed then k.setClaim n .filling else k
  | .mwld t _ _ => { k with latchOrder := some t }
  | .mma zero t a _ _ _ => if zero then { k with accInt := k.accInt.set false a (t == .i8) } else k
  | .maccz int a | .maccld int a _ _ => { k with accInt := k.accInt.set false a int }
  | .maccrd _ _ _ | .maccwr _ _ _ | .maccst _ _ _ => k

/-- Destination slots of a copy command that fills slots (08 R222). -/
def cmdSlots (c : Rec) : List Nat :=
  let w := Rec_word c 0
  if bitsOf w 16 2 = 2 then (if w.getLsbD 25 then [bitsOf w 21 4, bitsOf w 21 4 + 1] else [bitsOf w 21 4]) else []

/-- Copy commands under way that fill a slot the operation reads or fills (08 R208). -/
def Core.engineFills (k : Core) (o : MatrixOp) : List Nat :=
  (k.cq.filter fun e => meets (cmdSlots e.cmd) (o.reads ++ o.fills)).map (·.id)

/-- The cycle before which an operation that enters the queue behind started ones may not start: after the last row injection of one that
holds the port, or whose accumulator or slot it names (08 R208 R217). -/
def Core.injectedBy (k : Core) (o : MatrixOp) : Nat :=
  (k.mq.filter fun x => x.started && ((x.op.isMma && o.isMma) || keeps x.op o == .injected)).foldl (fun m x => max m x.injEnd) 0

/-- An operation enters the matrix queue of core `n` (08 R207 to R210). -/
def State.enter (s : State) (n : Nat) (e : MatrixEntry) : State :=
  let k := s.core n
  let after := k.engineFills e.op
  let ready := max e.ready (k.injectedBy e.op)
  let s1 := s.modCoreAt n fun k =>
    let k1 := k.enterOrder e.op
    { k1 with mq := k1.mq ++ [{ e with id := s.nextId, after := after, ready := ready }] }
  { s1 with nextId := s.nextId + 1 }

/-- Entries of the matrix queue (08 R207). -/
def mqDepth : Nat := 32

/-! ### Performing an operation -/

/-- Activation element k of row m, as bytes of slot `n` (08 R203). -/
def Core.activation (k : Core) (t : Ty) (n : Nat) (half : Bool) (m i : Nat) : Nat :=
  let b := t.width / 8
  let stride := if t == .t8 || t == .i8 then 128 else 256
  ofBytes (bytesAt k.slotMem (slotSize * n + (if half then 16384 else 0) + m * stride + i * b) b)

/-- Weight element W[i][n] of the latch (08 R203). -/
def Core.weight (k : Core) (t : Ty) (i n : Nat) : Nat :=
  let b := t.width / 8
  ofBytes (bytesAt k.latch.weights ((i * 256 + n) * b) b)

/-- One MMA element (08 R216). -/
def Core.mmaElem (k : Core) (t : Ty) (a n : Nat) (row : Word) (half : Bool) (m j : Nat) : Val :=
  let ps := (List.range (chunkLen t)).map fun i =>
    (decodeElem t (rowBias row) (k.activation t n half m i), decodeElem t k.latch.bias.toInt (k.weight t i j))
  accAdd (t == .i8) (k.acc.get 0 (accKey a (rowAt row m) j)) (chunkSum ps)

/-- Writes accumulator elements. -/
def Core.putAcc (k : Core) (l : List (Nat × BitVec 32)) : Core :=
  let whole (w : Nat) : Bool := l.any (·.1 == 2 * w) && l.any (·.1 == 2 * w + 1)
  { k with acc := l.foldl (fun m p => m.set 0 p.1 p.2) k.acc, spoilt := k.spoilt.filter fun p => !(p.1 == .acc && whole p.2) }

/-- Every element of an accumulator is zero. -/
def Core.zeroAcc (k : Core) (a : Nat) : Core := { k with acc := k.acc.filter fun p => p.1 / 32768 != a }.mend .acc (131072 * a) 131072

/-- Pairs of a row and a column. -/
def grid (rows cols : Nat) : List (Nat × Nat) := (List.range rows).flatMap fun m => (List.range cols).map fun n => (m, n)

/-- The effect of an operation on the core, with its flags (08 R214 to R220). -/
def Core.perform (k : Core) (o : MatrixOp) : Core × Flags :=
  match o with
  | .osrel _ => (k, 0)
  | .osld n off count =>
    let bs := bytesAt k.scratch off count ++ List.replicate (slotSize - count) 0
    ({ k with slotMem := putBytes k.slotMem (slotSize * n) bs }.mend .slot (slotSize * n) slotSize, 0)
  | .mwld t n bias =>
    let len := (windowOf t n).length * slotSize
    ({ k with latch := { valid := true, fmt := t, bias := bias, weights := putBytes [] 0 (bytesAt k.slotMem (slotSize * n) len) } }, 0)
  | .mma zero t a n row half =>
    let k1 := if zero then k.zeroAcc a else k
    let vs := (grid (rowCount row) 256).map fun p => (accKey a (rowAt row p.1) p.2, k1.mmaElem t a n row half p.1 p.2)
    (k1.putAcc (vs.map fun v => (v.1, BitVec.ofNat 32 v.2.bits)), vs.foldl (fun f v => f ||| v.2.flags) 0)
  | .maccz _ a => (k.zeroAcc a, 0)
  | .maccrd _ _ _ => (k, 0)
  | .maccwr a q v =>
    (k.putAcc ((List.range 64).map fun i =>
      (accKey a (q / 4 % 128) (64 * (q % 4) + i), BitVec.ofNat 32 (elemOf v 32 i))), 0)
  | .maccst a off row =>
    let bs := (grid (rowCount row) 256).flatMap fun p => toBytes (k.acc.get 0 (accKey a (rowAt row p.1) p.2)).toNat 4
    (k.putPad off bs, 0)
  | .maccld _ a off row =>
    (k.putAcc ((grid (rowCount row) 256).map fun p =>
      (accKey a (rowAt row p.1) p.2, BitVec.ofNat 32 (ofBytes (bytesAt k.scratch (off + 1024 * p.1 + 4 * p.2) 4)))), 0)

/-- A spoilt word of an accumulator's rows. -/
def Core.badRows (k : Core) (a : Nat) (row : Word) : Bool :=
  (List.range (rowCount row)).any fun m => (k.badWord .acc (4 * accKey a (rowAt row m) 0) 1024).isSome

/-- The fault address of an operation that reads a spoilt word: its offset in the scratchpad, or 0 (11 R307). -/
def Core.readsBad (k : Core) (o : MatrixOp) : Option Nat :=
  let zeroIf (b : Bool) : Option Nat := if b then some 0 else none
  if k.spoilt.isEmpty then none
  else
    match o with
    | .osrel _ | .maccz _ _ | .maccwr _ _ _ => none
    | .osld _ off count => k.badWord .pad off count
    | .mwld t n _ => zeroIf (k.badWord .slot (slotSize * n) ((windowOf t n).length * slotSize)).isSome
    | .mma zero t a n row half =>
      let stride := if t == .t8 || t == .i8 then 128 else 256
      zeroIf ((k.badWord .slot (slotSize * n + (if half then 16384 else 0)) (stride * rowCount row)).isSome || (!zero && k.badRows a row))
    | .maccrd _ a q => zeroIf (k.badWord .acc (4 * accKey a (q / 4 % 128) (64 * (q % 4))) 256).isSome
    | .maccst a _ row => zeroIf (k.badRows a row)
    | .maccld _ _ off row => k.badWord .pad off (1024 * rowCount row)

/-- The 64 words MACCRD returns (08 R219). -/
def Core.quarter (k : Core) (a q : Nat) : VWord :=
  BitVec.ofNat 2048 (packElems 32 ((List.range 64).map fun i => (k.acc.get 0 (accKey a (q / 4 % 128) (64 * (q % 4) + i))).toNat))

/-- Cycles from the start of an operation to its last row injection and to its completion, at a cadence (08 R214 to R220). -/
def MatrixOp.cycles (o : MatrixOp) (cad : Nat) : Nat × Nat :=
  match o with
  | .osrel _ => (0, 0)
  | .osld _ _ count => (0, (count + 255) / 256 + 6)
  | .mwld t n _ => (0, 128 * (windowOf t n).length)
  | .mma _ t _ _ row _ =>
    let m := rowCount row
    (m * (cad * baseInterval t), m * (cad * baseInterval t) + 24)
  | .maccz _ _ | .maccwr _ _ _ => (0, 1)
  | .maccrd _ _ _ => (0, 4)
  | .maccst _ _ row | .maccld _ _ _ row => (0, 4 * rowCount row + 6)

/-! ### The current governor (13 R344 to R348) -/

/-- Busy cycles that an injection gives window `w`. -/
def injBusy (x : Nat × Nat × Nat × Nat) (w : Nat) : Nat :=
  ((List.range x.2.2.2).map fun m =>
    let a := x.1 + m * x.2.1
    min (a + x.2.2.1) (64 * w + 64) - max a (64 * w)).sum

/-- Busy cycles of real rows in window `w`, as far as they have started (13 R344). -/
def Core.realLoad (k : Core) (w : Nat) : Nat := min 64 ((k.inj.map fun x => injBusy x w).sum)

/-- The load of the window that runs, when it ends: real rows, and ballast to the bounds of 13 R345 R346 R348. Rows of an operation that has
started late in the window fill the next one: ballast raises this one so far that they stay within RAMP of it (log 95). -/
def Core.windowLoad (k : Core) (ramp : Nat) (waits : Bool) : Nat :=
  let up := min 64 (k.load + ramp)
  max (k.realLoad k.win) (if waits || k.gatheredFor.isSome then up else max (k.load - ramp) (min up (k.realLoad (k.win + 1) - ramp)))

/-- A window ends (13 R344). -/
def Core.endWindow (k : Core) (ramp : Nat) (waits : Bool) : Core :=
  let full := k.gatheredFor.isSome && decide (k.load < 64) && decide (64 ≤ k.windowLoad ramp waits)
  { k with load := k.windowLoad ramp waits, win := k.win + 1, fullAt := if full then 64 * (k.win + 1) else k.fullAt
           inj := k.inj.filter fun x => decide (64 * (k.win + 1) < x.1 + x.2.1 * x.2.2.2) }

/-- Windows end until the one that holds cycle `c` runs; `from_` is the cycle from which an operation waits for load. -/
def Core.governTo (k : Core) (ramp : Nat) (from_ : Option Nat) (c : Nat) (fuel : Nat) : Core :=
  match fuel with
  | 0 => { k with win := max k.win (c / 64) }
  | f + 1 =>
    if c / 64 ≤ k.win then k
    else
      let waits := match from_ with
        | some r => decide (r < 64 * (k.win + 1))
        | none => false
      (k.endWindow ramp waits).governTo ramp from_ c f

/-- The cadence that an operation which starts in cycle `c` reads: a write takes effect in the cycle after it (13 R343). -/
def Core.cadAt (k : Core) (c : Nat) : BitVec 5 := if c < k.cadFrom then k.cadWas else k.cad

/-- The core holds a task of a stamped launch, or is gathered for one. -/
def Core.stampHeld (k : Core) : Bool :=
  k.gatheredFor.isSome || match k.task with
    | some t => t.mode.getLsbD 0
    | none => false

/-- The first cycle from `c` on at which the governor lets an MMA start, which has waited since `r` (13 R345 R348). -/
def Core.mmaStart (k : Core) (ramp r c : Nat) (fuel : Nat) : Nat :=
  match fuel with
  | 0 => c
  | f + 1 =>
    let k1 := k.governTo ramp (some r) c 200
    if k1.stampHeld || (64 + (k.cadAt c).toNat - 1) / (k.cadAt c).toNat ≤ k1.load + ramp then c
    else k1.mmaStart ramp r (64 * (c / 64 + 1)) f

/-! ### Start and completion (08 R207 R208) -/

/-- Entry `i` may start, as far as earlier entries and copies go (08 R208). -/
def Core.eligible (k : Core) (i : Nat) : Bool :=
  match k.mq[i]? with
  | none => false
  | some y =>
    !y.started && !y.unfilled && (y.after.all fun id => k.cq.all (·.id != id)) &&
      (match y.couch with
        | some id => k.cq.all (·.id != id)
        | none => true) &&
      (k.mq.take i).all fun x =>
        match keeps x.op y.op with
        | .no => true
        | .started | .injected => x.started
        | .completed => false

/-- What happens next in a matrix queue, and at which cycle. -/
inductive MqAct where
  | start (i : Nat)
  | finish (i : Nat)
  deriving DecidableEq, Repr

/-- The cycle from which an MMA or MMAZ has waited to start, that of the one that has waited longest (13 R345). -/
def Core.waitsSince (k : Core) : Option Nat :=
  ((List.range k.mq.length).filterMap fun i => match k.mq[i]? with
    | some e => if e.op.isMma && k.eligible i then some e.ready else none
    | none => none).min?

/-- The cycle at which an entry starts: an MMA on a core that no stamped launch holds, not before the window that runs (13 R345). -/
def Core.startAt (k : Core) (ramp : Nat) (e : MatrixEntry) : Nat :=
  if !e.op.isMma then e.ready
  else k.mmaStart ramp (k.waitsSince.getD e.ready) (if k.stampHeld then e.ready else max e.ready (64 * k.win)) 80

/-- The acts the queue is ready for, with their cycles: completions first, then starts in program order. -/
def Core.mqActs (k : Core) (ramp : Nat) : List (Nat × MqAct) :=
  let n := List.range k.mq.length
  (n.filterMap fun i => match k.mq[i]? with
    | some e => if e.started then some (e.doneAt, MqAct.finish i) else none
    | none => none) ++
  (n.filterMap fun i => match k.mq[i]? with
    | some e => if k.eligible i then some (k.startAt ramp e, MqAct.start i) else none
    | none => none)

/-- Every window that has ended by cycle `c` is closed (13 R345 R346). -/
def Core.govern (k : Core) (ramp c : Nat) : Core := k.governTo ramp k.waitsSince c 200

/-- The act of the least cycle, the first of its equals. -/
def earliest (l : List (Nat × MqAct)) : Option (Nat × MqAct) :=
  l.foldl (fun b x => match b with
    | some y => if x.1 < y.1 then some x else b
    | none => some x) none

/-- Entry `i` starts at cycle `c`: its effect, its times, and the earliest cycles of the entries it kept back (08 R208). -/
def State.startEntry (s : State) (n i c : Nat) : State :=
  let k := s.core n
  match k.mq[i]? with
  | none => s
  | some e =>
    let k0 := if e.op.isMma then k.governTo s.ramp k.waitsSince c 200 else k
    let cad := (k.cadAt c).toNat
    let (inj, dur) := e.op.cycles cad
    let (k1, fl) := k0.perform e.op
    let k2 := match e.op with
      | .osld m _ _ => if !e.released && k1.claim m == Claim.loaded then k1.setClaim m .filling else k1
      | .mma _ t _ _ row _ =>
        { k1 with inj := k1.inj ++ [(c, cad * baseInterval t, baseInterval t, rowCount row)] }
      | .osrel _ | .mwld _ _ _ | .maccz _ _ | .maccrd _ _ _ | .maccwr _ _ _ | .maccst _ _ _ | .maccld _ _ _ _ => k1
    let e1 := { e with started := true, doneAt := c + dur, injEnd := c + inj, flags := fl, ecc := k0.readsBad e.op }
    let bump (j : Nat) (y : MatrixEntry) : MatrixEntry :=
      if j = i then e1
      else if y.started then y
      else
        let port := if e.op.isMma && y.op.isMma then c + inj else 0
        let kept := if i < j then (match keeps e.op y.op with
          | .injected => c + inj
          | .started => c
          | .no | .completed => 0) else 0
        { y with ready := max y.ready (max port kept) }
    let s0 := s.setCore n { k2 with mq := k2.mq.mapIdx bump }
    let s1 := match e.op.touches with
      | some (a, len, true) => s0.noteStore (windowAddr n a) len
      | some (_, _, false) | none => s0
    match e.op with
    | .maccrd d a q =>
      s1.modAgent n fun x =>
        { x with flight := x.flight ++ [{ reg := .v d, val := .r (k.quarter a q), due := some (c + 4) }] }
    | .osrel _ | .osld _ _ _ | .mwld _ _ _ | .mma _ _ _ _ _ _ | .maccz _ _ | .maccwr _ _ _ | .maccst _ _ _
    | .maccld _ _ _ _ => s1

/-- Bytes an operation moves, for its record (12 R337; log 27). -/
def MatrixOp.moved (o : MatrixOp) : Nat :=
  match o with
  | .osld _ _ count => count
  | .mwld t n _ => (windowOf t n).length * slotSize
  | .maccst _ _ row | .maccld _ _ _ row => 1024 * rowCount row
  | .osrel _ | .mma _ _ _ _ _ _ | .maccz _ _ | .maccrd _ _ _ | .maccwr _ _ _ => 0

/-- Bytes a matrix command's arrival counts (08 R229). -/
def MatrixOp.arrival (o : MatrixOp) : Nat :=
  match o with
  | .maccst _ _ row => 1024 * rowCount row
  | .osrel _ | .osld _ _ _ | .mwld _ _ _ | .mma _ _ _ _ _ _ | .maccz _ _ | .maccrd _ _ _ | .maccwr _ _ _
  | .maccld _ _ _ _ => 1

/-- An engine's physical address lies in HBM or a remote window (01 R36). -/
def enginePlace (pa : Nat) : Bool :=
  match placeOf pa with
  | .hbm | .window _ _ => true
  | .sram | .rom _ | .control | .nowhere => false

/-- On core `n`, a command of this origin is not the running task's (07 R174). -/
def State.foreign (s : State) (n : Nat) (o : Origin) : Bool :=
  match o.by_ with
  | .task _ => (s.core n).task.map (·.uid) != some o.task
  | .control _ | .regset _ | .child _ _ | .lead _ _ => true

/-- The code of an access of an engine or of the fabric logic that has failed: ECC_UNCORRECTABLE where it has met an uncorrectable word
(08 R227, 11 R307), ENGINE_ADDRESS for any other reason (01 R37). -/
def engineFail (code : BitVec 8) : BitVec 8 := if code = cEcc then cEcc else cEngine

/-- The arrival of a completed command at its barrier object (08 R228 R439): none due, made, waiting, or failed. R439 names no code for an
arrival that meets an uncorrectable word; by 11 R307 it is ECC_UNCORRECTABLE (log 83). -/
def State.arriveAt (s : State) (i : Issuer) (bar : Word) (x : Nat) : Acc Unit :=
  if bar = 0 then .ok s ()
  else if bar.toNat % 16 ≠ 0 || (i.ctx.isNone && !enginePlace bar.toNat) then .fail s cEngine bar.toNat
  else
    match s.arrive i bar.toNat x with
    | .ok t _ => .ok t ()
    | .wait t p => .wait t p
    | .fail t c y => .fail t (engineFail c) y

/-- The origin of a matrix command on core `n`. -/
def State.mqOrigin (s : State) (n : Nat) (e : MatrixEntry) : Origin :=
  match (s.core n).task with
  | some t => { by_ := .task n, die := dieOf n, task := t.uid, launch := t.launch, bundle := e.bundle }
  | none => { by_ := .task n, die := dieOf n, bundle := e.bundle }

/-- Entry `i` leaves the queue at cycle `c`: flags, the slot it filled, and the entries it kept back. -/
def State.dropEntry (s : State) (n i c : Nat) (e : MatrixEntry) : State :=
  let bump (j : Nat) (y : MatrixEntry) : MatrixEntry :=
    if i < j && !y.started && keeps e.op y.op == .completed then { y with ready := max y.ready c } else y
  let s1 := s.modCoreAt n fun k =>
    let k1 := { k with mq := (k.mq.mapIdx bump).eraseIdx i }
    match e.op with
    | .osld m _ _ => if !e.released && k1.claim m == Claim.filling then k1.setClaim m .loaded else k1
    | .osrel _ | .mwld _ _ _ | .mma _ _ _ _ _ _ | .maccz _ _ | .maccrd _ _ _ | .maccwr _ _ _ | .maccst _ _ _
    | .maccld _ _ _ _ => k1
  s1.raiseFlags n e.flags c

/-- Entry `i`, which has read a spoilt word, ends with ECC_UNCORRECTABLE, and makes no arrival (08 R227, 11 R307). -/
def State.loseEntry (s : State) (n i c : Nat) (e : MatrixEntry) : State :=
  let a := e.ecc.getD 0
  let met := match e.op with
    | .osld _ _ _ | .maccld _ _ _ _ => s.noteLoss { agent := n, ctx := none } (windowAddr n a)
    | .osrel _ | .mwld _ _ _ | .mma _ _ _ _ _ _ | .maccz _ _ | .maccrd _ _ _ | .maccwr _ _ _ | .maccst _ _ _ => s.noteCoreLoss n
  (met.dropEntry n i c e).commandFault (s.mqOrigin n e) 4 cEcc a 0 0

/-- Entry `i` completes at cycle `c` (08 R207 R229); false while its arrival or its record waits. -/
def State.finishEntry (s : State) (n i c : Nat) : State × Bool :=
  match (s.core n).mq[i]? with
  | none => (s, false)
  | some e =>
    let noRoom (t : State) : State :=
      if e.waited then t
      else
        (t.countHold (dieOf n)).modCoreAt n fun k => { k with mq := k.mq.mapIdx fun j y => if j = i then { y with waited := true } else y }
    let records := if e.ecc.isNone then (if e.ev then 1 else 0) else if s.mustPost (s.mqOrigin n e) then 2 else 1
    if records ≠ 0 && !s.hasRoom (dieOf n) records then (noRoom s, false)
    else if e.ecc.isSome then (s.loseEntry n i c e, true)
    else
      match (if s.unanswered (dieOf n) e.page then .wait s e.page
        else s.arriveAt { agent := n, ctx := some (((s.core n).task.map (·.ctx)).getD 0) } e.bar e.op.arrival) with
      | .wait t p =>
        (t.modCoreAt n fun k => { k with mq := k.mq.mapIdx fun j y => if j = i then { y with page := p } else y }, false)
      | .fail t code y =>
        if s.mustPost (s.mqOrigin n e) && !s.canPost (dieOf n) then (noRoom t, false)
        else ((t.dropEntry n i c e).commandFault (s.mqOrigin n e) 4 code y 0 0, true)
      | .ok t _ =>
        let t0 := (t.dropEntry n i c e).setAgent n { t.agent n with busyTo := max (t.agent n).busyTo c }
        let t1 := if e.command then t0.sinkBy (s.mqOrigin n e) 2 else t0
        (if e.ev then t1.post (dieOf n) (s.recordOf (s.mqOrigin n e) 4 0 0 (BitVec.ofNat 64 e.op.moved) 0) else t1, true)

/-- The matrix queue of core `n` up to cycle `c`: starts and completions in order of their cycles, completions first. An entry
whose arrival waits is passed over. -/
def State.settleMq (s : State) (n c : Nat) (skip : List Nat) (fuel : Nat) : State :=
  match fuel with
  | 0 => s
  | f + 1 =>
    let k := s.core n
    let ok (a : Nat × MqAct) : Bool :=
      match a.2 with
      | .finish i => match k.mq[i]? with
        | some e => !skip.contains e.id
        | none => false
      | .start _ => true
    match earliest ((k.mqActs s.ramp).filter ok) with
    | none => s
    | some (t, act) =>
      if c < t then s
      else
        match act with
        | .start i => (s.startEntry n i t).settleMq n c skip f
        | .finish i =>
          match s.finishEntry n i t with
          | (s1, true) => s1.settleMq n c skip f
          | (s1, false) => s1.settleMq n c (((k.mq[i]?).map (·.id)).toList ++ skip) f

/-- Fills of the region lines an operation touches, at its issue; the lines it stores to become dirty (07 R185, 08 R210). It waits for a
logged access of the task to its bytes by the task's own window (10 R277). -/
def State.touchRegions (s : State) (n : Nat) (o : MatrixOp) : Acc Unit :=
  match o.touches with
  | none => .ok s ()
  | some (a, len, w) =>
    if !(s.core n).slog.isEmpty && s.ownLogMeets n (windowAddr n a) len then .wait s none
    else
    match s.fillLines n (lineOffs a len) with
    | .ok t _ => .ok (if w then t.modCoreAt n fun k => (lineOffs a len).foldl Core.dirtyLine k else t) ()
    | .wait t p => .wait t p
    | .fail t c x => .fail t c x

/-- A queued command's region lines are filled if they can be: then it may start; a fill that fails ends it with a deferred fault
(07 R185, 08 R229). 11 R299 has a row for region fills, LOAD_FAULT, and one for a matrix command's elements, ENGINE_ADDRESS: the model's
choice is the first (log 80). -/
def State.fillEntry (s : State) (n : Nat) (e : MatrixEntry) : State :=
  let set (t : State) (f : MatrixEntry → MatrixEntry) : State :=
    t.modCoreAt n fun k => { k with mq := k.mq.map fun y => if y.id = e.id then f y else y }
  match (if s.unanswered (dieOf n) e.page then .wait s e.page else s.touchRegions n e.op) with
  | .ok t _ => set t fun y => { y with unfilled := false, page := none, ready := max y.ready s.cycle }
  | .wait t p => set t fun y => { y with page := p }
  | .fail t code x =>
    match (t.core n).mq.findIdx? (·.id == e.id) with
    | some i => (t.dropEntry n i s.cycle e).commandFault (s.mqOrigin n e) 4 code x 0 0
    | none => t

/-- The fills that commands in the matrix queue wait for are tried again. -/
def State.fillEntries (s : State) (n : Nat) : State := ((s.core n).mq.filter (·.unfilled)).foldl (fun t e => t.fillEntry n e) s

/-- What a core's array and queue do by cycle `c`, when something is queued and the clock does not pause. -/
def State.settleCore (s : State) (n c : Nat) : State :=
  if (s.core n).mq.isEmpty || s.paused then s else (s.fillEntries n).settleMq n c [] 200

/-- Cycle `c` is past the next position of the stamped task on core `n`, which comes first (log 46). -/
def State.notYet (s : State) (n c : Nat) : Bool := s.stampedRun n && decide ((s.agent n).earliest < c)

/-- MATRIX_ENTRY_START: the entry starts, when it is the next thing its queue does (08 R208). -/
def execMatrixEntryStart (n i : Nat) (s0 : State) : Outcome State Fault Refusal :=
  let s := s0.fillEntries n
  let k := s.core n
  (Eff.done (match (if s.paused then none else (k.mqActs s.ramp).find? fun a => a.2 == .start i) with
    | some (t, _) =>
      if s.notYet n t then s
      else if (k.mqActs s.ramp).all fun a => match a.2 with
          | .start j => t < a.1 || (t == a.1 && i ≤ j)
          | .finish _ => true
      then { s.startEntry n i t with cycle := max s.cycle t } else s
    | none => s)).out

/-- MATRIX_ENTRY_COMPLETE: a started entry completes at its cycle (08 R207). -/
def execMatrixEntryComplete (n i : Nat) (s : State) : Outcome State Fault Refusal :=
  (Eff.done (match (s.core n).mq[i]? with
    | some e => if e.started && !s.paused && !s.notYet n e.doneAt then { (s.finishEntry n i e.doneAt).1 with cycle := max s.cycle e.doneAt } else s
    | none => s)).out

/-- GOVERNOR_WINDOW: the windows of core `n` that have ended by now close, once its queue has done what it does in them (13 R344 to R348). -/
def execGovernorWindow (n : Nat) (s : State) : Outcome State Fault Refusal :=
  (Eff.done (if 96 ≤ n then s
    else
      let t := s.settleCore n (s.ranTo n)
      t.setCore n ((t.core n).govern t.ramp (t.ranTo n)))).out

/-! ### The MX slot (08 R204 to R221) -/

/-- The next position of a stamped task cannot issue: it raises STAMP_OVERRUN (07 R177). -/
def State.overrunNext (s : State) : State :=
  s.modCore fun k => { k with task := k.task.map fun (t : Task) => { t with doom := some cStamp } }

/-- A result of a stamped task that will not arrive in time: the positions that depend on it overrun, or the next one if none can
(07 R177; log 34). -/
def State.late (s : State) (dsts : List RegId) : State :=
  if dsts.all RegId.wired then s.overrunNext
  else s.modMe fun a => { a with missed := true, regs := dsts.foldl Regs.mark a.regs }

/-- An instruction that has issued and waits for its access: its registers as read at issue are kept, its destinations are empty
(07 R173); behind the spill store of its bundle's CALL, if that waits. In stamped mode it will not arrive in time (07 R177). -/
def State.pendOn (s : State) (i : Instr) (page : Option (Nat × Nat)) (dsts : List RegId) : State :=
  if s.stamped then s.late dsts
  else
    let src := s.src
    s.modMe fun a =>
      let p : PendAccess := { instr := i, regs := src, bundle := a.bundle, page := page }
      { a with pend := some (a.pend.getD p), behind := if a.pend.isSome then a.behind ++ [p] else a.behind
               regs := dsts.foldl Regs.mark a.regs }

/-- A record on TQ holds what an operation needs: acc3, the window from 0x14_0000, or the array (09 R272 R273). -/
def Core.borrowed (k : Core) (o : MatrixOp) : Bool :=
  !k.tq.isEmpty && (o.isMma || o.isMwld || o.acc == some 3 ||
    match o.touches with
    | some (a, n, _) => decide (0x140000 < a + n)
    | none => false)

/-- An MX instruction that enters the matrix queue: a full queue holds its bundle, then its checks (08 R207 R209). One whose scratchpad
bytes meet those of an operation that stands in the queue is held, as any later access of the task is (08 R210); a matrix command enters, and
starts in the order of R208 (log 80). -/
def State.mxBody (s : State) (i : Instr) (o : MatrixOp) : Eff :=
  let k := s.myCore
  if (mqDepth ≤ k.mq.length && s.me.pend.isNone) || k.borrowed o then .hold s 0
  else
    match k.check o with
    | some (code, a) => .raise s code a
    | none =>
      match o.touches.map fun x => k.mqBlocks x.1 x.2.1 x.2.2 with
      | some true => .hold s 0
      | some false | none =>
        match s.touchRegions s.cur o with
        | .wait t p => .done (t.pendOn i p [])
        | .fail t code x => .done (t.deferMe code x)
        | .ok t _ =>
          let t1 := match o with
            | .maccrd d _ _ => t.modMe fun a => { a with regs := a.regs.mark (.v d) }
            | .osrel _ | .osld _ _ _ | .mwld _ _ _ | .mma _ _ _ _ _ _ | .maccz _ _ | .maccwr _ _ _ | .maccst _ _ _
            | .maccld _ _ _ _ => t
          .done (t1.enter t1.cur { id := 0, op := o, ready := t1.me.issued, bundle := t1.me.bundle })

/-- The quarter index (08 R219). -/
def quarterOf (x : Word) : Nat := bitsOf x 0 9

/-- OSCLAIM (08 R211); slots that records on TQ have borrowed are not FREE (09 R272). -/
def execOsclaim (c : Ctl) (d n : BitVec 6) (any : Bool) (s : State) : Outcome State Fault Refusal :=
  let k := s.myCore
  let take (m : Nat) : Eff :=
    .done ((s.modCore fun k => k.setClaim m .claimed).produce (.s d.toNat) (.w (BitVec.ofNat 64 m)) 0 1)
  issue s c { dsts := [.s d.toNat], tileOnly := true }
    (if any then
      match (List.range 16).find? fun m => k.claim m == .free && !(decide (12 ≤ m) && !k.tq.isEmpty) with
      | some m => take m
      | none => .done (s.produce (.s d.toNat) (.w (BitVec.allOnes 64)) 0 1)
    else if k.claim n.toNat == .free && !(decide (12 ≤ n.toNat) && !k.tq.isEmpty) then take n.toNat
    else .raise s cSlot 0)

/-- OSREL (08 R212). -/
def execOsrel (c : Ctl) (n : BitVec 6) (s : State) : Outcome State Fault Refusal :=
  issue s c { tileOnly := true } (s.mxBody (.osrel c n) (.osrel n.toNat))

/-- OSLD as an operation, from its registers. -/
def State.opOsld (s : State) (n a b : BitVec 6) : MatrixOp := .osld n.toNat (s.rs a).toNat (s.rs b).toNat

/-- OSLD (08 R214). -/
def execOsld (c : Ctl) (n a b : BitVec 6) (s : State) : Outcome State Fault Refusal :=
  issue s c { srcs := [srcS a 0, srcS b 1], tileOnly := true } (s.mxBody (.osld c n a b) (s.opOsld n a b))

/-- MWLD (08 R215). -/
def execMwld (c : Ctl) (t : Ty) (n b : BitVec 6) (s : State) : Outcome State Fault Refusal :=
  issue s c { srcs := [srcS b 1], tileOnly := true } (s.mxBody (.mwld c t n b) (.mwld t n.toNat ((s.rs b).setWidth 8)))

/-- MMA (08 R216). -/
def execMma (c : Ctl) (t : Ty) (acc n b : BitVec 6) (h : Bool) (s : State) : Outcome State Fault Refusal :=
  issue s c { srcs := [srcS b 1], tileOnly := true }
    (s.mxBody (.mma c t acc n b h) (.mma false t acc.toNat n.toNat (s.rs b) h))

/-- MMAZ (08 R216). -/
def execMmaz (c : Ctl) (t : Ty) (acc n b : BitVec 6) (h : Bool) (s : State) : Outcome State Fault Refusal :=
  issue s c { srcs := [srcS b 1], tileOnly := true }
    (s.mxBody (.mmaz c t acc n b h) (.mma true t acc.toNat n.toNat (s.rs b) h))

/-- MACCZ (08 R218). -/
def execMaccz (c : Ctl) (t : Ty) (acc : BitVec 6) (s : State) : Outcome State Fault Refusal :=
  issue s c { tileOnly := true } (s.mxBody (.maccz c t acc) (.maccz (t == .i32) acc.toNat))

/-- MACCRD (08 R219). -/
def execMaccrd (c : Ctl) (d acc b : BitVec 6) (s : State) : Outcome State Fault Refusal :=
  issue s c { srcs := [srcS b 1], dsts := [.v d.toNat], tileOnly := true }
    (s.mxBody (.maccrd c d acc b) (.maccrd d.toNat acc.toNat (quarterOf (s.rs b))))

/-- MACCWR (08 R219). -/
def execMaccwr (c : Ctl) (acc a b : BitVec 6) (s : State) : Outcome State Fault Refusal :=
  issue s c { srcs := [srcV a 0, srcS b 1], tileOnly := true }
    (s.mxBody (.maccwr c acc a b) (.maccwr acc.toNat (quarterOf (s.rs b)) (s.rv a)))

/-- MACCST as an operation, from its registers. -/
def State.opMaccst (s : State) (acc b x : BitVec 6) : MatrixOp := .maccst acc.toNat (s.rs b).toNat (s.rs x)

/-- MACCST (08 R220). -/
def execMaccst (c : Ctl) (acc b x : BitVec 6) (s : State) : Outcome State Fault Refusal :=
  issue s c { srcs := [srcS b 1, srcS x 2], tileOnly := true } (s.mxBody (.maccst c acc b x) (s.opMaccst acc b x))

/-- MACCLD as an operation, from its registers. -/
def State.opMaccld (s : State) (t : Ty) (acc b x : BitVec 6) : MatrixOp :=
  .maccld (t == .i32) acc.toNat (s.rs b).toNat (s.rs x)

/-- MACCLD (08 R220). -/
def execMaccld (c : Ctl) (t : Ty) (acc b x : BitVec 6) (s : State) : Outcome State Fault Refusal :=
  issue s c { srcs := [srcS b 1, srcS x 2], tileOnly := true } (s.mxBody (.maccld c t acc b x) (s.opMaccld t acc b x))

/-- MWAIT (08 R221); one that names acc3 waits for the records on TQ that have borrowed it (09 R272). -/
def execMwait (c : Ctl) (acc : BitVec 6) (s : State) : Outcome State Fault Refusal :=
  issue s c { tileOnly := true }
    (if (s.myCore.mq.any fun e => e.op.acc == some acc.toNat) || (acc.toNat == 3 && !s.myCore.tq.isEmpty) then .hold s 0 else .done s)

/-- MFENCE (08 R221). -/
def execMfence (c : Ctl) (s : State) : Outcome State Fault Refusal :=
  issue s c { tileOnly := true } (if s.myCore.mq.isEmpty then .done s else .hold s 0)

end Sys2Proof.Machine
end

