-- ==== Sys2Proof/Machine/Engine.lean ====
section
/-! DEFINITION. The copy and gather engines and the matrix commands (08 R222 to R230, R439): taking a command, its start, its
elements, its completion, and couched pairs. -/

namespace Sys2Proof.Machine

open Host (Outcome)

/-! ### Fields of a command (08 R222 R223 R224) -/

/-- CMD.NDIM. -/
def cmdDims (c : Rec) : Nat := bitsOf (Rec_word c 0) 8 3
/-- The element size in bytes. -/
def cmdSize (c : Rec) : Nat := 2 ^ bitsOf (Rec_word c 0) 12 2
/-- CMD.SRCSP. -/
def cmdSrcSp (c : Rec) : Nat := bitsOf (Rec_word c 0) 14 2
/-- CMD.DSTSP. -/
def cmdDstSp (c : Rec) : Nat := bitsOf (Rec_word c 0) 16 2
/-- CMD.EV. -/
def cmdEv (c : Rec) : Bool := (Rec_word c 0).getLsbD 20
/-- CMD.SLOT. -/
def cmdSlot (c : Rec) : Nat := bitsOf (Rec_word c 0) 21 4
/-- CMD.PAIR. -/
def cmdPair (c : Rec) : Bool := (Rec_word c 0).getLsbD 25
/-- CMD.IDXSP. -/
def cmdIdxSp (c : Rec) : Bool := (Rec_word c 0).getLsbD 26
/-- The command is a gather. -/
def cmdGather (c : Rec) : Bool := bitsOf (Rec_word c 0) 0 8 == 2
/-- The command uses an extension record (08 R223). -/
def cmdExt (c : Rec) : Bool := if cmdGather c then decide (3 ≤ cmdDims c) else decide (4 ≤ cmdDims c)

/-- A 32-bit field at byte `i` of the extension record. -/
def extWord (x : Rec) (i : Nat) : Nat := x.toNat / 2 ^ (8 * i) % 2 ^ 32

/-- The extent of dimension `d` (08 R222 to R224). -/
def extentOf (c x : Rec) (d : Nat) : Nat :=
  match d with
  | 1 => bitsOf (Rec_word c 0) 32 32
  | 2 => bitsOf (Rec_word c 4) 0 32
  | 3 => bitsOf (Rec_word c 4) 32 32
  | 4 | 5 | 6 => extWord x (12 * (d - 4))
  | _ => 0

/-- A signed 32-bit stride. -/
def sint32 (n : Nat) : Int := (BitVec.ofNat 32 n).toInt

/-- The source stride of dimension `d`, 2 or above. -/
def srcStride (c x : Rec) (d : Nat) : Int :=
  match d with
  | 2 => sint32 (bitsOf (Rec_word c 5) 0 32)
  | 3 => sint32 (if cmdGather c then extWord x 36 else bitsOf (Rec_word c 6) 0 32)
  | 4 | 5 | 6 => sint32 (extWord x (12 * (d - 4) + 4))
  | _ => 0

/-- The destination stride of dimension `d`, 2 or above. -/
def dstStride (c x : Rec) (d : Nat) : Int :=
  match d with
  | 2 => sint32 (bitsOf (Rec_word c 5) 32 32)
  | 3 => sint32 (if cmdGather c then extWord x 40 else bitsOf (Rec_word c 6) 32 32)
  | 4 | 5 | 6 => sint32 (extWord x (12 * (d - 4) + 8))
  | _ => 0

/-- The dimensions of a command. -/
def dimsOf (c : Rec) : List Nat := (List.range (cmdDims c)).map (· + 1)

/-- The extent product: elements the command moves. -/
def cmdCount (c x : Rec) : Nat := (dimsOf c).foldl (fun p d => p * extentOf c x d) 1

/-- Index of dimension `d` for element number `j` in nest order, dimension 1 fastest (08 R225). -/
def nestIndex (c x : Rec) (j d : Nat) : Nat :=
  j / (((List.range (d - 1)).map fun k => extentOf c x (k + 1)).foldl (· * ·) 1) % extentOf c x d

/-! ### The check when a command is taken (08 R226, R235) -/

/-- A command of the queue's kind that R226 does not refuse; `phys` on the register path and for a control core. PAIR and SLOT are looked
at for a slot destination only (log 80). -/
def Core.commandOk (k : Core) (gather phys : Bool) (c : Rec) : Bool :=
  let w0 := Rec_word c 0
  let n := cmdDims c
  let e := cmdSize c
  let x := Rec_word c 7
  let mult (v : Nat) : Bool := v % e == 0
  bitsOf w0 0 8 == (if gather then 2 else 1) && bitsOf w0 27 5 == 0 && bitsOf w0 18 2 == 0 && !w0.getLsbD 11 &&
    (gather || !cmdIdxSp c) &&
    decide ((if gather then 2 else 1) ≤ n) && decide (n ≤ 6) &&
    (if cmdExt c then x != 0 && x.toNat % 64 == 0 else x == 0) &&
    (decide (2 ≤ n) || (bitsOf (Rec_word c 4) 0 32 == 0 && Rec_word c 5 == 0)) &&
    (decide (3 ≤ n) || (bitsOf (Rec_word c 4) 32 32 == 0 && (gather || Rec_word c 6 == 0))) &&
    mult (Rec_word c 1).toNat && mult (Rec_word c 2).toNat && mult (bitsOf (Rec_word c 5) 0 32) &&
    mult (bitsOf (Rec_word c 5) 32 32) &&
    (if gather then (Rec_word c 6).toNat % 4 == 0 else mult (bitsOf (Rec_word c 6) 0 32) && mult (bitsOf (Rec_word c 6) 32 32)) &&
    decide (cmdSrcSp c < 2) && cmdDstSp c != 3 &&
    (cmdDstSp c != 2 || (!gather && !(cmdPair c && cmdSlot c == 15) && (cmdSlots c).all fun i => k.claim i != Claim.free)) &&
    (!phys || (cmdSrcSp c == 0 && cmdDstSp c == 0 && !cmdIdxSp c))

/-- The extension record's check (08 R224 R226). -/
def extOk (c x : Rec) : Bool :=
  let e := cmdSize c
  let n := cmdDims c
  let used (d : Nat) : Bool := decide (d ≤ n)
  (extWord x 44 == 0 && extWord x 48 == 0 && extWord x 52 == 0 && extWord x 56 == 0 && extWord x 60 == 0) &&
    (cmdGather c || (extWord x 36 == 0 && extWord x 40 == 0)) &&
    ([4, 5, 6].all fun d =>
      let a := extWord x (12 * (d - 4))
      let b := extWord x (12 * (d - 4) + 4)
      let g := extWord x (12 * (d - 4) + 8)
      if used d then b % e == 0 && g % e == 0 else a == 0 && b == 0 && g == 0) &&
    (!cmdGather c || (extWord x 36 % e == 0 && extWord x 40 % e == 0))

/-- Entries of CQ and of GQ (13 R338). -/
def engineDepth : Nat := 16

/-- The queue of an engine. -/
def Core.engine (k : Core) (gather : Bool) : List EngineCmd := if gather then k.gq else k.cq
/-- Replaces the queue of an engine. -/
def Core.setEngine (k : Core) (gather : Bool) (l : List EngineCmd) : Core :=
  if gather then { k with gq := l } else { k with cq := l }

/-- Earlier entries of the matrix queue that a command follows: those that read or fill its slots (08 R208 R213), and the task's
own scratchpad accesses (08 R198 R210). -/
def Core.mqBefore (k : Core) (c : Rec) : List Nat :=
  (k.mq.filter fun e => meets (e.op.reads ++ e.op.fills) (cmdSlots c) || e.op.touches.isSome).map (·.id)

/-- A command joins its queue; the slots it fills begin their fill (08 R213). -/
def State.takeEngine (s : State) (n : Nat) (gather : Bool) (c : Rec) (o : Origin) (ctx : Option Nat) (hint : BitVec 2) : State :=
  let s1 := s.modCoreAt n fun k =>
    let x : EngineCmd := { id := s.nextId, cmd := c, origin := o, ctx := ctx, hint := hint, after := k.mqBefore c }
    let k1 := k.setEngine gather (k.engine gather ++ [x])
    (cmdSlots c).foldl (fun k i => if k.claim i == Claim.claimed then k.setClaim i .filling else k) k1
  { s1 with nextId := s.nextId + 1 }

/-- A command offered to CQ or GQ of core `n` (07 R198, 08 R226): not taken when the queue is full; refused with the deferred
QUEUE_PROTOCOL; or queued. -/
def State.offerEngine (s : State) (n : Nat) (gather : Bool) (c : Rec) (o : Origin) (ctx : Option Nat) (hint : BitVec 2) :
    State × Bool :=
  let k := s.core n
  if engineDepth ≤ (k.engine gather).length then (s, false)
  else if !k.commandOk gather ctx.isNone c then (s.commandFault o 4 cQueue 0 0 0, true)
  else (s.takeEngine n gather c o ctx hint, true)

/-! ### Elements (08 R225 R227) -/

/-- An engine's access: control space and what lies outside R36 are ENGINE_ADDRESS (01 R37); an uncorrectable error keeps its
code. -/
def Acc.engine {α : Type} (r : Acc α) : Acc α :=
  match r with
  | .ok t x => .ok t x
  | .wait t p => .wait t p
  | .fail t c x => .fail t (engineFail c) x

/-- An engine's read of memory with hint `h`, with the page's attribute (07 R178). -/
def State.engineRead (s : State) (i : Issuer) (h : BitVec 2) (a n : Nat) : Acc (List Byte × Nat) :=
  if i.ctx.isNone && !enginePlace a then .fail s cEngine a
  else Acc.engine ((s.reach i .read a n).bind fun t p => .ok (t.cacheLoad i a p.1 p.2 h) (t.physBytes p.1 n, p.2))

/-- An engine's write to memory with hint `h`, with the page's attribute (07 R178). -/
def State.engineWrite (s : State) (i : Issuer) (h : BitVec 2) (a : Nat) (bs : List Byte) : Acc Nat :=
  if i.ctx.isNone && !enginePlace a then .fail s cEngine a
  else Acc.engine ((s.reach i .write a bs.length).bind fun t p => .ok ((t.physWrite p.1 bs).cacheStore i a p.1 p.2 h) p.2)

/-- A 64-bit address plus a signed offset. -/
def addrPlus (a : Nat) (o : Int) : Nat := (BitVec.ofInt 64 ((a : Int) + o)).toNat

/-- Where the destination of element `j` stands. -/
def dstAddr (c x : Rec) (j : Nat) : Nat :=
  addrPlus (Rec_word c 2).toNat <|
    ((dimsOf c).map fun d =>
      (nestIndex c x j d : Int) * (if d = 1 then (cmdSize c : Int) else dstStride c x d)).sum

/-- Where the source of element `j` stands, with the index word a gather has read. -/
def srcAddr (c x : Rec) (j : Nat) (idx : Nat) : Nat :=
  addrPlus (Rec_word c 1).toNat <|
    ((dimsOf c).map fun d =>
      (if cmdGather c && d = 2 then (idx : Int) else (nestIndex c x j d : Int)) *
        (if d = 1 then (cmdSize c : Int) else srcStride c x d)).sum

/-- Bytes of the slot window of a command. -/
def windowSize (c : Rec) : Nat := slotSize * (cmdSlots c).length

/-- The first element whose scratchpad offset or slot offset lies out of bounds, where that is known when the command starts
(08 R227). -/
def boundsFail (c x : Rec) : Option Nat :=
  (List.range (cmdCount c x)).findSome? fun j =>
    let a := srcAddr c x j 0
    let d := dstAddr c x j
    let i := (Rec_word c 6).toNat + 4 * nestIndex c x j 2
    if cmdGather c && cmdIdxSp c && scratchEnd ≤ i then some i
    else if !cmdGather c && cmdSrcSp c == 1 && scratchEnd ≤ a then some a
    else if cmdDstSp c == 1 && scratchEnd ≤ d then some d
    else if cmdDstSp c == 2 && windowSize c ≤ d then some d
    else none

/-- The issuer of the accesses of a command of core `n`. -/
def State.engineIssuer (s : State) (e : EngineCmd) (n : Nat) : Issuer :=
  { agent := n, ctx := e.ctx, other := s.foreign n e.origin, launch := e.origin.byLaunch }

/-- HINTCNT gains 1 for a command whose hint a page overrides, once (07 R179). -/
def State.noteHint (s : State) (n : Nat) (e : EngineCmd) (attr : Nat) : State × EngineCmd :=
  match e.origin.by_ with
  | .task c =>
    if !e.counted && hintOver e.hint attr then (s.modCoreAt c Core.countHint, { e with counted := true }) else (s, e)
  | .control _ | .regset _ | .child _ _ | .lead _ _ => let _ := n; (s, e)

/-- Bytes of the scratchpad of core `n`, read by its engines and its records; an uncorrectable word is recorded for their issuer (11 R307). -/
def State.padRead (s : State) (i : Issuer) (n a len : Nat) : Acc (List Byte) :=
  match (s.core n).badWord .pad a len with
  | some w => (s.recordLoss i (windowAddr n w)).bind fun t _ => .fail t cEcc a
  | none => .ok s (bytesAt (s.core n).scratch a len)

/-- A gather's index word for element `j`, read once per value of i2 (08 R225). -/
def State.indexWord (s : State) (n : Nat) (e : EngineCmd) (j : Nat) : Acc (EngineCmd × Nat) :=
  if !cmdGather e.cmd then .ok s (e, 0)
  else
    let i2 := nestIndex e.cmd e.extRec j 2
    let a := (Rec_word e.cmd 6).toNat + 4 * i2
    let kept := e.idx.get 0 i2
    if kept ≠ 0 then .ok s (e, kept - 1)
    else if cmdIdxSp e.cmd then
      (s.padRead (s.engineIssuer e n) n a 4).bind fun t bs => .ok t ({ e with idx := e.idx.set 0 i2 (ofBytes bs + 1) }, ofBytes bs)
    else
      (s.engineRead (s.engineIssuer e n) e.hint a 4).bind fun t p =>
        let v := ofBytes p.1
        let (t1, e1) := t.noteHint n e p.2
        .ok t1 ({ e1 with idx := e1.idx.set 0 i2 (v + 1) }, v)

/-- How one or several elements end: moved, one waiting, or one failed. The command carries what has been read and counted for it. -/
inductive Moved where
  | done (s : State) (e : EngineCmd)
  | waits (s : State) (e : EngineCmd)
  | failed (s : State) (e : EngineCmd) (code : BitVec 8) (addr : Nat)

/-- An access of a command, and what follows it. -/
def Acc.thenMoved {α : Type} (r : Acc α) (e : EngineCmd) (f : State → α → Moved) : Moved :=
  match r with
  | .ok t x => f t x
  | .wait t p => .waits t { e with page := p }
  | .fail t c a => .failed t e c a

/-- The source bytes of an element. -/
def State.elemRead (s : State) (n : Nat) (e : EngineCmd) (a : Nat) : Acc (List Byte × EngineCmd) :=
  let sz := cmdSize e.cmd
  if cmdSrcSp e.cmd = 1 then
    if scratchEnd ≤ a then .fail s cEngine a else (s.padRead (s.engineIssuer e n) n a sz).map fun bs => (bs, e)
  else
    (s.engineRead (s.engineIssuer e n) e.hint a sz).bind fun t q =>
      let (u, e1) := t.noteHint n e q.2
      .ok u (q.1, e1)

/-- The bytes of an element are written at its destination. -/
def State.elemWrite (s : State) (n : Nat) (e : EngineCmd) (a : Nat) (bs : List Byte) : Acc EngineCmd :=
  match cmdDstSp e.cmd with
  | 0 =>
    (s.engineWrite (s.engineIssuer e n) e.hint a bs).bind fun t attr =>
      let (u, e1) := t.noteHint n e attr
      .ok u e1
  | 1 =>
    .ok ((s.modCoreAt n fun k => k.putPad a bs).noteStore (windowAddr n a) bs.length) e
  | _ =>
    .ok (s.modCoreAt n fun k =>
      { k with slotMem := Machine.putBytes k.slotMem (slotSize * cmdSlot e.cmd + a) bs }.mend .slot (slotSize * cmdSlot e.cmd + a) bs.length) e

/-- Element `j` is read and written (08 R225). -/
def State.moveElem (s : State) (n : Nat) (e : EngineCmd) (j : Nat) : Moved :=
  (s.indexWord n e j).thenMoved e fun t p =>
    (t.elemRead n p.1 (srcAddr e.cmd e.extRec j p.2)).thenMoved p.1 fun u q =>
      (u.elemWrite n q.2 (dstAddr e.cmd e.extRec j) q.1).thenMoved q.2 fun v e1 => .done v { e1 with moved := e1.moved + 1 }

/-- The next `m` elements of a command, in nest order. -/
def State.moveElems (s : State) (n : Nat) (e : EngineCmd) (m : Nat) : Moved :=
  match m with
  | 0 => .done s e
  | r + 1 =>
    match s.moveElem n e e.moved with
    | .done t e1 => t.moveElems n e1 r
    | .waits t e1 => .waits t e1
    | .failed t e1 c a => .failed t e1 c a

/-! ### The end of a command (08 R227 R228 R230 R439) -/

/-- The slots of a starting fill: zero in every byte, FILLING (08 R213). -/
def Core.beginFill (k : Core) (e : EngineCmd) : Core :=
  (cmdSlots e.cmd).foldl (fun k i =>
    let k1 := { k with slotMem := k.slotMem.filter fun p => p.1 / slotSize != i }.mend .slot (slotSize * i) slotSize
    if !e.released.contains i && k1.claim i == Claim.loaded then k1.setClaim i .filling else k1) k

/-- Entry `j` is kept back by an earlier entry that a failed copy discards with it (08 R208 R230). -/
def Core.keptByLost (k : Core) (id j : Nat) : Bool :=
  match k.mq[j]? with
  | none => false
  | some y => !y.started && (k.mq.take j).any fun x => x.couch == some id && keeps x.op y.op != .no

/-- The command leaves its queue; slots it filled become LOADED; entries that followed it, or were kept back by the half that is discarded, may start from
now on; a couched half of a copy whose last byte has not landed is discarded without effect (08 R230). 08 R209 has set the latch's validity
and format, or the accumulator's, when that half entered, and the spec does not say whether they go back: the model's choice is that they
stay as program order has left them, so that later checks pass (log 80). -/
def State.endEngine (s : State) (n : Nat) (gather : Bool) (e : EngineCmd) (failed : Bool) : State :=
  s.modCoreAt n fun k =>
    let k1 := k.setEngine gather ((k.engine gather).filter (·.id != e.id))
    let k2 := (cmdSlots e.cmd).foldl (fun k i =>
      if !e.released.contains i && k.claim i == Claim.filling then k.setClaim i .loaded else k) k1
    { k2 with mq := (k2.mq.mapIdx fun j y =>
        if y.couch == some e.id || y.after.contains e.id || (failed && k2.keptByLost e.id j) then { y with ready := max y.ready s.cycle }
        else y).filter fun y => !(failed && y.couch == some e.id) }

/-- Every element of the command has moved. -/
def EngineCmd.landed (e : EngineCmd) : Bool := e.started && decide (cmdCount e.cmd e.extRec ≤ e.moved)

/-- Replaces a command in its queue. -/
def State.putEngine (s : State) (n : Nat) (gather : Bool) (e : EngineCmd) : State :=
  s.modCoreAt n fun k => k.setEngine gather ((k.engine gather).map fun x => if x.id = e.id then e else x)

/-- The command ends in a fault; while the record of that has no room, it waits, which is counted once (12 R335). One that has not begun
its fill leaves its slots zero in every byte, and LOADED, as a fill that has supplied none (08 R213 R227; log 80). -/
def State.failEngine (s : State) (n : Nat) (gather : Bool) (e : EngineCmd) (code : BitVec 8) (addr : Nat) : State :=
  let s1 := if e.started then s else s.modCoreAt n (·.beginFill e)
  if s1.mustPost e.origin && !s1.canPost (s1.recordDie e.origin) then
    let t := s1.putEngine n gather { e with failed := some (code, addr), waited := true, page := none }
    if e.waited then t else t.countHold (s1.recordDie e.origin)
  else
    (s1.endEngine n gather e (!e.landed)).commandFault e.origin 4 code addr 0 (BitVec.ofNat 64 (e.moved * cmdSize e.cmd))

/-- The head command of a queue of core `n` may start: what it follows has completed, the earlier accesses of its pusher too, on whatever core
the task stands now (07 R198, 10 R278). -/
def State.headReady (s : State) (n : Nat) (e : EngineCmd) : Bool :=
  !e.started && e.failed.isNone && s.pusherSettled e.origin e.id && e.after.all fun id => (s.core n).mq.all (·.id != id)

/-- Start with the extension record read: its check, the bounds known now, and the first `count` elements (08 R224 R226 R227). -/
def State.startWith (s : State) (n : Nat) (gather : Bool) (e : EngineCmd) (count : Nat) : State :=
  let xaddr := (Rec_word e.cmd 7).toNat
  if cmdExt e.cmd && !extOk e.cmd e.extRec then s.failEngine n gather e cQueue xaddr
  else
    let s1 := s.modCoreAt n fun k => k.beginFill e
    match boundsFail e.cmd e.extRec with
    | some a => s1.failEngine n gather e cEngine a
    | none =>
      let e1 := { e with started := true }
      match s1.moveElems n e1 (min count (cmdCount e1.cmd e1.extRec)) with
      | .done t x => t.putEngine n gather { x with page := none }
      | .waits t x => t.putEngine n gather x
      | .failed t x c a => t.failEngine n gather x c a

/-- ENGINE_COMMAND_START: the oldest command of CQ or GQ of core `n` starts, reading its extension record; `count` of its elements
move now (08 R224; log 13). -/
def execEngineCommandStart (n : Nat) (gather : Bool) (count : Nat) (s : State) : Outcome State Fault Refusal :=
  (Eff.done (match (if s.paused then [] else (s.core n).engine gather) with
    | [] => s
    | e :: _ =>
      if !s.headReady n e || s.unanswered (dieOf n) e.page then s
      else if !cmdExt e.cmd then s.startWith n gather e count
      else
        match s.engineRead (s.engineIssuer e n) e.hint (Rec_word e.cmd 7).toNat 64 with
        | .ok t p =>
          let (u, e1) := t.noteHint n e p.2
          u.startWith n gather { e1 with extRec := recOf p.1 } count
        | .wait t p => t.putEngine n gather { e with page := p }
        | .fail t c a => t.failEngine n gather e c a)).out

/-- The completion of a command whose elements have all moved (08 R228 R439). -/
def State.finishEngine (s : State) (n : Nat) (gather : Bool) (e : EngineCmd) : State :=
  let bytes := cmdCount e.cmd e.extRec * cmdSize e.cmd
  if cmdEv e.cmd && !s.canPost (dieOf n) then
    if e.waited then s
    else (s.countHold (dieOf n)).putEngine n gather { e with waited := true }
  else
    match s.arriveAt (s.engineIssuer e n) (Rec_word e.cmd 3) bytes with
    | .wait t p => t.putEngine n gather { e with page := p }
    | .fail t c a => t.failEngine n gather e c a
    | .ok t _ =>
      let t1 := (t.endEngine n gather e false).sinkBy e.origin 2
      if cmdEv e.cmd then t1.post (dieOf n) (s.recordOf e.origin 4 0 0 (BitVec.ofNat 64 bytes) 0) else t1

/-- ENGINE_COMMAND_COMPLETE: the started command of CQ or GQ moves what is left and completes (08 R228), or one that ends in a fault
posts its record. -/
def execEngineCommandComplete (n : Nat) (gather : Bool) (s : State) : Outcome State Fault Refusal :=
  (Eff.done (match (if s.paused then [] else (s.core n).engine gather) with
    | [] => s
    | e :: _ =>
      match e.failed with
      | some (code, a) => s.failEngine n gather e code a
      | none =>
        if !e.started || s.unanswered (dieOf n) e.page then s
        else
          match s.moveElems n e (cmdCount e.cmd e.extRec - e.moved) with
          | .waits t x => t.putEngine n gather x
          | .failed t x c a => t.failEngine n gather x c a
          | .done t x => (t.putEngine n gather { x with page := none }).finishEngine n gather { x with page := none })).out

/-! ### Matrix commands (08 R229 R230) -/

/-- The type code of a matrix command among a list. -/
def mcmdTy (c : Rec) (l : List Ty) : Option Ty :=
  match Ty.ofBits ((Rec_word c 0).extractLsb' 8 4) with
  | some t => if l.contains t then some t else none
  | none => none

/-- The array's formats (08 R205). -/
def arrayTypes : List Ty := [.t8, .i8, .t6, .bf16, .f16]

/-- MCMD.EV. -/
def mcmdEv (c : Rec) : Bool := (Rec_word c 0).getLsbD 19

/-- The operation of a matrix command; none when R229 refuses it. TYPE, ACC, SLOT, HALF and PARAM of an operation that does not take them
are not looked at (log 80). -/
def mcmdOp (c : Rec) : Option MatrixOp :=
  let w0 := Rec_word c 0
  let half := w0.getLsbD 18
  let acc := bitsOf w0 16 2
  let slot := bitsOf w0 12 4
  let param := Rec_word c 1
  let loc := Rec_word c 2
  let bare := loc == 0
  if bitsOf w0 20 44 ≠ 0 || Rec_word c 4 ≠ 0 || Rec_word c 5 ≠ 0 || Rec_word c 6 ≠ 0 || Rec_word c 7 ≠ 0 then none
  else
    match bitsOf w0 0 8 with
    | 0x02 => if bare then some (.osrel slot) else none
    | 0x03 => some (.osld slot loc.toNat param.toNat)
    | 0x04 =>
      match mcmdTy c arrayTypes with
      | some t => if bare && !(t.twoSlots && slot == 15) then some (.mwld t slot (param.setWidth 8)) else none
      | none => none
    | 0x05 | 0x06 =>
      match mcmdTy c arrayTypes with
      | some t =>
        if bare && !(half && !(t == .t8 || t == .i8)) then some (.mma (bitsOf w0 0 8 == 6) t acc slot param half) else none
      | none => none
    | 0x07 =>
      match mcmdTy c [.f32, .i32] with
      | some t => if bare then some (.maccz (t == .i32) acc) else none
      | none => none
    | 0x0A => some (.maccst acc loc.toNat param)
    | 0x0B =>
      match mcmdTy c [.f32, .i32] with
      | some t => some (.maccld (t == .i32) acc loc.toNat param)
      | none => none
    | _ => none

/-- A checked matrix command enters the queue of core `n` at cycle `c`; its issue checks raise deferred faults (08 R229).
One that touches a region line which has to wait for its fill stays in the queue until then (07 R185). -/
def State.enterCommand (s : State) (n : Nat) (op : MatrixOp) (cmd : Rec) (o : Origin) (couch : Option Nat) (c : Nat) : State :=
  match (s.core n).check op with
  | some (code, a) => s.commandFault o 4 code a.toNat 0 0
  | none =>
    let e : MatrixEntry :=
      { id := 0, op := op, ready := c, couch := couch, bar := Rec_word cmd 3, ev := mcmdEv cmd, command := true, bundle := o.bundle }
    match s.touchRegions n op with
    | .ok t _ => t.enter n e
    | .wait t p => t.enter n { e with unfilled := true, page := p }
    | .fail t code x => t.commandFault o 4 code x 0 0

/-- A command offered to MQ of core `n` (07 R198, 08 R229). -/
def State.offerMatrix (s : State) (n : Nat) (cmd : Rec) (o : Origin) (c : Nat) : State × Bool :=
  if mqDepth ≤ (s.core n).mq.length then (s, false)
  else
    match mcmdOp cmd with
    | none => (s.commandFault o 4 cQueue 0 0 0, true)
    | some op => (s.enterCommand n op cmd o none c, true)

/-- The matrix half reads the window of the copy (08 R230). -/
def pairOk (copy : Rec) (op : MatrixOp) : Bool :=
  cmdDstSp copy == 2 &&
    match op with
    | .mma _ _ _ n _ _ => n == cmdSlot copy
    | .mwld t n _ => n == cmdSlot copy && (!t.twoSlots || cmdPair copy)
    | .osrel _ | .osld _ _ _ | .maccz _ _ | .maccrd _ _ _ | .maccwr _ _ _ | .maccst _ _ _ | .maccld _ _ _ _ => false

/-- A couched pair offered to the copy engine of core `n` (08 R230). -/
def State.offerPair (s : State) (n : Nat) (copy cmd : Rec) (o : Origin) (ctx : Option Nat) (hint : BitVec 2) (c : Nat) :
    State × Bool :=
  let k := s.core n
  if engineDepth ≤ k.cq.length || mqDepth ≤ k.mq.length then (s, false)
  else
    match mcmdOp cmd with
    | none => (s.commandFault o 4 cQueue 0 0 0, true)
    | some op =>
      if !k.commandOk false false copy || !pairOk copy op then (s.commandFault o 4 cQueue 0 0 0, true)
      else ((s.takeEngine n false copy o ctx hint).enterCommand n op cmd o (some s.nextId) c, true)

/-! ### The commands as rows of the opcode table -/

/-- The origin and the context of a command that `p` sends to core `n`'s queues: a task's own, or a register set's or control
core's physical one (07 R438, 08 R235). -/
def State.originOf (s : State) (p : Pusher) (n : Nat) : Origin × Option Nat :=
  match p, (s.core n).task with
  | .task m, some t =>
    ({ by_ := .task m, die := dieOf n, task := t.uid, launch := t.launch, bundle := (s.agent m).bundle }, some t.ctx)
  | .task m, none => ({ by_ := .task m, die := dieOf n, bundle := (s.agent m).bundle }, some 0)
  | .control d, _ => ({ by_ := .control d, die := d }, none)
  | .regset r, _ =>
    let x := s.regsets.get {} r
    ({ by_ := .regset r, die := dieOf n, qw1 := x.qw.get 0 1, tag := x.qw.get 0 2 }, none)
  | .child a b, _ => ({ by_ := .child a b, die := dieOf n }, none)
  | .lead a b, _ => ({ by_ := .lead a b, die := dieOf n }, none)

/-- COPY_COMMAND: CQ of core `n` takes and checks a copy command (08 R225 R226). -/
def execCopyCommand (p : Pusher) (n : Nat) (c : Rec) (s : State) : Outcome State Fault Refusal :=
  let (o, ctx) := s.originOf p n
  (Eff.done (s.offerEngine n false c o ctx 0).1).out

/-- GATHER_COMMAND: GQ of core `n` takes and checks a gather command (08 R225 R226). -/
def execGatherCommand (p : Pusher) (n : Nat) (c : Rec) (s : State) : Outcome State Fault Refusal :=
  let (o, ctx) := s.originOf p n
  (Eff.done (s.offerEngine n true c o ctx 0).1).out

/-- A matrix command of the given operation code taken by MQ of core `n`; MQ is reached only from the core's own task
(08 R235). One that needs what a record on TQ has borrowed waits (09 R272 R273). -/
def State.mcmd (s : State) (mop : Nat) (p : Pusher) (n : Nat) (c : Rec) : State :=
  if bitsOf (Rec_word c 0) 0 8 = mop && p == .task n && !(mcmdOp c).any (s.core n).borrowed then
    (s.offerMatrix n c (s.originOf p n).1 (max s.cycle (s.agent n).issued)).1
  else s

/-- MCMD_OSREL (08 R229). -/
def execMcmdOsrel (p : Pusher) (n : Nat) (c : Rec) (s : State) : Outcome State Fault Refusal := (Eff.done (s.mcmd 0x02 p n c)).out
/-- MCMD_OSLD (08 R229). -/
def execMcmdOsld (p : Pusher) (n : Nat) (c : Rec) (s : State) : Outcome State Fault Refusal := (Eff.done (s.mcmd 0x03 p n c)).out
/-- MCMD_MWLD (08 R229). -/
def execMcmdMwld (p : Pusher) (n : Nat) (c : Rec) (s : State) : Outcome State Fault Refusal := (Eff.done (s.mcmd 0x04 p n c)).out
/-- MCMD_MMA (08 R229). -/
def execMcmdMma (p : Pusher) (n : Nat) (c : Rec) (s : State) : Outcome State Fault Refusal := (Eff.done (s.mcmd 0x05 p n c)).out
/-- MCMD_MMAZ (08 R229). -/
def execMcmdMmaz (p : Pusher) (n : Nat) (c : Rec) (s : State) : Outcome State Fault Refusal := (Eff.done (s.mcmd 0x06 p n c)).out
/-- MCMD_MACCZ (08 R229). -/
def execMcmdMaccz (p : Pusher) (n : Nat) (c : Rec) (s : State) : Outcome State Fault Refusal := (Eff.done (s.mcmd 0x07 p n c)).out
/-- MCMD_MACCST (08 R229). -/
def execMcmdMaccst (p : Pusher) (n : Nat) (c : Rec) (s : State) : Outcome State Fault Refusal := (Eff.done (s.mcmd 0x0A p n c)).out
/-- MCMD_MACCLD (08 R229). -/
def execMcmdMaccld (p : Pusher) (n : Nat) (c : Rec) (s : State) : Outcome State Fault Refusal := (Eff.done (s.mcmd 0x0B p n c)).out

end Sys2Proof.Machine
end

