-- ==== Sys2Proof/Machine/Special.lean ====
section
/-! DEFINITION. The special functions of 02 R52 that take no algebraic value: power of two, logarithm, tanh and sigmoid. Each
is computed in fixed point with 400 fraction bits, cut to 360 and rounded once with the note that more bits follow. For finite
operands outside the exact cases R52 says the value is never representable and never a tie, so the cut decides every
rounding (log 16). -/

namespace Sys2Proof.Machine

/-- Fraction bits of the working fixed point. -/
def fixBits : Nat := 400

/-- The fixed-point product of two fractions. -/
def fixMul (a b : Nat) : Nat := a * b / 2 ^ fixBits

/-- Σ z^(2k+1)/(2k+1) from term `k` on: `p` is z^(2k+1), `zz` is z². -/
def atanhSum (zz : Nat) (p k : Nat) (n : Nat) : Nat :=
  match n with
  | 0 => 0
  | j + 1 => p / (2 * k + 1) + atanhSum zz (fixMul p zz) (k + 1) j

/-- ln((1 + z)/(1 − z)) for z ≤ 1/3. -/
def lnRatio (z : Nat) : Nat := 2 * atanhSum (fixMul z z) z 0 140

/-- ln 2. -/
def ln2Fix : Nat := lnRatio (2 ^ fixBits / 3)

/-- Σ x^k/k! from term `k` on, with `p` the term before it. -/
def expSum (x p k : Nat) (n : Nat) : Nat :=
  match n with
  | 0 => 0
  | j + 1 =>
    let p1 := fixMul p x / k
    p1 + expSum x p1 (k + 1) j

/-- e^x for 0 ≤ x < 1. -/
def expFix (x : Nat) : Nat := 2 ^ fixBits + expSum x (2 ^ fixBits) 1 110

/-- The fixed point of a magnitude. -/
def toFix (m : Nat) (e : Int) : Nat :=
  if -(fixBits : Int) ≤ e then m * 2 ^ (e + (fixBits : Int)).toNat else m / 2 ^ (-(fixBits : Int) - e).toNat

/-- A fixed-point value times 2^k, cut and rounded. -/
def roundFix (f : FFmt) (mode : RMode) (neg : Bool) (x : Nat) (k : Int) : Val :=
  roundMore f mode neg (x / 2 ^ 40) (k - 360)

/-- A magnitude below `m` × 2^`e` by less than any rounding sees. -/
def roundBelow (f : FFmt) (mode : RMode) (neg : Bool) (m : Nat) (e : Int) : Val :=
  roundFin f mode neg (m * 2 ^ 200 - 1) (e - 200)

/-- Exponents beyond which every result overflows, or underflows to less than any subnormal. -/
def hugeExp : Int := 4096

/-- 2^x (02 R52). -/
def fexp2N (f : FFmt) (mode : RMode) (x : Num) : Val :=
  match x with
  | .nan | .nav => f.nan 0
  | .inf n => { bits := if n then 0 else f.infBits }
  | .fin n m e =>
    if m = 0 then roundFin f mode false 1 0
    else if 12 < e + (bitLen m : Int) then
      if n then roundFin f mode false 1 (-hugeExp) else roundFin f mode false 1 hugeExp
    else
      let d := 2 ^ (-e).toNat
      let scaled := m * 2 ^ e.toNat
      let whole := scaled / d
      let frac := scaled % d
      if frac = 0 then roundFin f mode false 1 (if n then -(whole : Int) else (whole : Int))
      else
        -- x = ±(whole + frac/d); for a negative x the fraction is taken from below
        let fr := toFix frac (min e 0)
        let part := if n then 2 ^ fixBits - fr else fr
        let k : Int := if n then -(whole : Int) - 1 else (whole : Int)
        roundFix f mode false (expFix (fixMul part ln2Fix)) k

/-- log₂ x (02 R52). -/
def flog2N (f : FFmt) (mode : RMode) (x : Num) : Val :=
  match x with
  | .nan | .nav => f.nan 0
  | .inf n => if n then f.nan fNV else { bits := f.infBits }
  | .fin n m e =>
    if m = 0 then { bits := f.withSign true f.infBits, flags := fDZ }
    else if n then f.nan fNV
    else
      let k := bitLen m - 1
      let top : Int := e + (k : Int)
      if m = 2 ^ k then
        if top = 0 then { bits := 0 } else f.encode mode (.ofInt top)
      else
        -- y = m / 2^k in (1, 2); z = (y − 1)/(y + 1)
        let z := (m - 2 ^ k) * 2 ^ fixBits / (m + 2 ^ k)
        let l := lnRatio z * 2 ^ fixBits / ln2Fix
        if 0 ≤ top then roundFix f mode false (top.toNat * 2 ^ fixBits + l) 0
        else roundFix f mode true ((-top).toNat * 2 ^ fixBits - l) 0

/-- e^(−y) for y in fixed point. -/
def expNeg (y : Nat) : Nat :=
  let k := y / ln2Fix
  let r := y % ln2Fix
  2 ^ (2 * fixBits) / expFix r / 2 ^ k

/-- tanh x (02 R52). -/
def ftanhN (f : FFmt) (mode : RMode) (x : Num) : Val :=
  match x with
  | .nan | .nav => f.nan 0
  | .inf n => f.encode mode (.fin n 1 0)
  | .fin n m e =>
    if m = 0 then { bits := f.withSign n 0 }
    else if floorLog2 m e < -40 then roundBelow f mode n m e
    else if 6 < floorLog2 m e then roundBelow f mode n 1 0
    else
      let u := expNeg (2 * toFix m e)
      roundFix f mode n ((2 ^ fixBits - u) * 2 ^ fixBits / (2 ^ fixBits + u)) 0

/-- 1/(1 + e^−x) (02 R52). -/
def fsigmN (f : FFmt) (mode : RMode) (x : Num) : Val :=
  match x with
  | .nan | .nav => f.nan 0
  | .inf n => if n then { bits := 0 } else f.encode mode (.fin false 1 0)
  | .fin n m e =>
    if m = 0 then f.encode mode (.fin false 1 (-1))
    else if 6 < floorLog2 m e then
      if n then roundFin f mode false 1 (-hugeExp) else roundBelow f mode false 1 0
    else
      let u := expNeg (toFix m e)
      if n then roundFix f mode false (u * 2 ^ fixBits / (2 ^ fixBits + u)) 0
      else roundFix f mode false (2 ^ (2 * fixBits) / (2 ^ fixBits + u)) 0

end Sys2Proof.Machine
end

