-- ==== Sys2Proof/Machine/Scalar.lean ====
section
/-! DEFINITION. The SA and SB slots (05 R100 to R114): integer arithmetic and logic, fields, compares, predicate logic and
scalar FP32. Each meaning computes its result from its operands and hands it to one of the shared forms below, with the latency
of 05 R101. -/

namespace Sys2Proof.Machine

open Host (Outcome)

/-- The sign-extended imm25 (03 R70). -/
def immS (imm : BitVec 25) : Word := imm.signExtend 64

/-- A scalar result from the given sources (05 R100). -/
def toS (s : State) (c : Ctl) (srcs : List Src) (d : BitVec 6) (lat : Nat) (x : Word) (f : Flags := 0) :
    Outcome State Fault Refusal :=
  issue s c { srcs := srcs, dsts := [.s d.toNat] } (.done (s.produce (.s d.toNat) (.w x) f lat))

/-- A predicate result from the given sources. -/
def toP (s : State) (c : Ctl) (srcs : List Src) (d : BitVec 6) (x : Pred) : Outcome State Fault Refusal :=
  issue s c { srcs := srcs, dsts := [.p d.toNat] } (.done (s.produce (.p d.toNat) (.q x) 0 1))

/-- Form RR3 with latency 1 (05 R103). -/
def rr3 (s : State) (c : Ctl) (d a b : BitVec 6) (f : Word → Word → Word) : Outcome State Fault Refusal :=
  toS s c [srcS a 0, srcS b 1] d 1 (f (s.rs a) (s.rs b))

/-- Form RI with latency 1 (05 R103). -/
def ri (s : State) (c : Ctl) (d a : BitVec 6) (imm : BitVec 25) (f : Word → Word → Word) : Outcome State Fault Refusal :=
  toS s c [srcS a 0] d 1 (f (s.rs a) (immS imm))

/-- Form RR2 (05 R104). -/
def rr2 (s : State) (c : Ctl) (d a : BitVec 6) (f : Word → Word) : Outcome State Fault Refusal :=
  toS s c [srcS a 0] d 1 (f (s.rs a))

/-- A saturating form, with STATUS.SAT when it clamps (05 R103). -/
def rr3Sat (s : State) (c : Ctl) (d a b : BitVec 6) (f : Int → Int → Int) : Outcome State Fault Refusal :=
  let v := satInt 64 (f (s.rs a).toInt (s.rs b).toInt)
  toS s c [srcS a 0, srcS b 1] d 1 (BitVec.ofNat 64 v.bits) v.flags

/-- Multiply and divide, with their latency (05 R101 R106). -/
def rr3Long (s : State) (c : Ctl) (d a b : BitVec 6) (lat : Nat) (f : Word → Word → Word) : Outcome State Fault Refusal :=
  toS s c [srcS a 0, srcS b 1] d lat (f (s.rs a) (s.rs b))

/-- Scalar FP32 of two operands: bits [31:0] in, {0, result} out (05 R112). -/
def ff2 (s : State) (c : Ctl) (d a b : BitVec 6) (lat : Nat) (f : Nat → Nat → Val) : Outcome State Fault Refusal :=
  let v := f ((s.rs a).toNat % 2 ^ 32) ((s.rs b).toNat % 2 ^ 32)
  toS s c [srcS a 0, srcS b 1] d lat (BitVec.ofNat 64 v.bits) v.flags

/-- Predicate logic on two sources: the tag is set if both are tagged (05 R111). -/
def pp2 (s : State) (c : Ctl) (d a b : BitVec 6) (f : BitVec 256 → BitVec 256 → BitVec 256) : Outcome State Fault Refusal :=
  toP s c [srcP a 0, srcP b 1] d { bits := f (s.rp a).bits (s.rp b).bits, tag := (s.rp a).tag && (s.rp b).tag }

/-- Predicate logic on one source: the tag is copied (05 R111). -/
def pp1 (s : State) (c : Ctl) (d a : BitVec 6) (f : BitVec 256 → BitVec 256) : Outcome State Fault Refusal :=
  toP s c [srcP a 0] d { bits := f (s.rp a).bits, tag := (s.rp a).tag }

/-- A shift count: bits [5:0] (05 R103). -/
def shamt (b : Word) : Nat := b.toNat % 64

/-- Trailing zero bits among the low `n`, counted from bit `i`. -/
def ctzFrom (x : Nat) (i n : Nat) : Nat :=
  match n with
  | 0 => i
  | k + 1 => if x.testBit i then i else ctzFrom x (i + 1) k

/-- One bits among the low `n`. -/
def popCount (x : Nat) (n : Nat) : Nat :=
  match n with
  | 0 => 0
  | k + 1 => (if x.testBit k then 1 else 0) + popCount x k

/-- Bit i of the result is bit n − 1 − i. -/
def bitRev (x : Nat) (n : Nat) : Nat :=
  match n with
  | 0 => 0
  | k + 1 => x % 2 * 2 ^ k + bitRev (x / 2) k

/-- DIV (05 R106). -/
def divS (a b : Word) : Word := if b = 0 then BitVec.allOnes 64 else BitVec.ofInt 64 (a.toInt.tdiv b.toInt)
/-- DIVU. -/
def divU (a b : Word) : Word := if b = 0 then BitVec.allOnes 64 else BitVec.ofNat 64 (a.toNat / b.toNat)
/-- REM: a − b × DIV(a, b), which has the sign of a (05 R106). -/
def remS (a b : Word) : Word := if b = 0 then a else BitVec.ofInt 64 (a.toInt.tmod b.toInt)
/-- REMU. -/
def remU (a b : Word) : Word := if b = 0 then a else BitVec.ofNat 64 (a.toNat % b.toNat)

/-- ROTL (05 R103). -/
def rotl (a : Word) (n : Nat) : Word := (a <<< n) ||| (a >>> (64 - n))

/-- Bits [pos + w − 1 : pos] (05 R107). -/
def bfx (a : Word) (pos w : Nat) : Word := BitVec.ofNat 64 (a.toNat / 2 ^ pos % 2 ^ w)
/-- The old value with bits [pos + w − 1 : pos] replaced by the low w bits of a (05 R107). -/
def bfi (old a : Word) (pos w : Nat) : Word :=
  let mask := BitVec.ofNat 64 ((2 ^ w - 1) * 2 ^ pos)
  (old &&& ~~~mask) ||| ((a <<< pos) &&& mask)

/-- ADD (05 R103). -/
def execAdd (c : Ctl) (d a b : BitVec 6) (s : State) : Outcome State Fault Refusal :=
  rr3 s c d a b (fun x y => x + y)

/-- SUB (05 R103). -/
def execSub (c : Ctl) (d a b : BitVec 6) (s : State) : Outcome State Fault Refusal :=
  rr3 s c d a b (fun x y => x - y)

/-- AND (05 R103). -/
def execAnd (c : Ctl) (d a b : BitVec 6) (s : State) : Outcome State Fault Refusal :=
  rr3 s c d a b (fun x y => x &&& y)

/-- OR (05 R103). -/
def execOr (c : Ctl) (d a b : BitVec 6) (s : State) : Outcome State Fault Refusal :=
  rr3 s c d a b (fun x y => x ||| y)

/-- XOR (05 R103). -/
def execXor (c : Ctl) (d a b : BitVec 6) (s : State) : Outcome State Fault Refusal :=
  rr3 s c d a b (fun x y => x ^^^ y)

/-- SHL (05 R103). -/
def execShl (c : Ctl) (d a b : BitVec 6) (s : State) : Outcome State Fault Refusal :=
  rr3 s c d a b (fun x y => x <<< shamt y)

/-- SHR (05 R103). -/
def execShr (c : Ctl) (d a b : BitVec 6) (s : State) : Outcome State Fault Refusal :=
  rr3 s c d a b (fun x y => x >>> shamt y)

/-- SAR (05 R103). -/
def execSar (c : Ctl) (d a b : BitVec 6) (s : State) : Outcome State Fault Refusal :=
  rr3 s c d a b (fun x y => x.sshiftRight (shamt y))

/-- ROTL (05 R103). -/
def execRotl (c : Ctl) (d a b : BitVec 6) (s : State) : Outcome State Fault Refusal :=
  rr3 s c d a b (fun x y => rotl x (shamt y))

/-- MIN (05 R103). -/
def execMin (c : Ctl) (d a b : BitVec 6) (s : State) : Outcome State Fault Refusal :=
  rr3 s c d a b (fun x y => if y.slt x then y else x)

/-- MAX (05 R103). -/
def execMax (c : Ctl) (d a b : BitVec 6) (s : State) : Outcome State Fault Refusal :=
  rr3 s c d a b (fun x y => if x.slt y then y else x)

/-- MINU (05 R103). -/
def execMinu (c : Ctl) (d a b : BitVec 6) (s : State) : Outcome State Fault Refusal :=
  rr3 s c d a b (fun x y => if y.ult x then y else x)

/-- MAXU (05 R103). -/
def execMaxu (c : Ctl) (d a b : BitVec 6) (s : State) : Outcome State Fault Refusal :=
  rr3 s c d a b (fun x y => if x.ult y then y else x)

/-- ADDI (05 R103). -/
def execAddi (c : Ctl) (d a : BitVec 6) (imm : BitVec 25) (s : State) : Outcome State Fault Refusal :=
  ri s c d a imm (fun x y => x + y)

/-- ANDI (05 R103). -/
def execAndi (c : Ctl) (d a : BitVec 6) (imm : BitVec 25) (s : State) : Outcome State Fault Refusal :=
  ri s c d a imm (fun x y => x &&& y)

/-- ORI (05 R103). -/
def execOri (c : Ctl) (d a : BitVec 6) (imm : BitVec 25) (s : State) : Outcome State Fault Refusal :=
  ri s c d a imm (fun x y => x ||| y)

/-- XORI (05 R103). -/
def execXori (c : Ctl) (d a : BitVec 6) (imm : BitVec 25) (s : State) : Outcome State Fault Refusal :=
  ri s c d a imm (fun x y => x ^^^ y)

/-- SHLI; the immediate lies between 0 and 63 (05 R103). -/
def execShli (c : Ctl) (d a : BitVec 6) (imm : BitVec 25) (s : State) : Outcome State Fault Refusal :=
  ri s c d a imm (fun x y => x <<< shamt y)

/-- SHRI; the immediate lies between 0 and 63 (05 R103). -/
def execShri (c : Ctl) (d a : BitVec 6) (imm : BitVec 25) (s : State) : Outcome State Fault Refusal :=
  ri s c d a imm (fun x y => x >>> shamt y)

/-- SARI; the immediate lies between 0 and 63 (05 R103). -/
def execSari (c : Ctl) (d a : BitVec 6) (imm : BitVec 25) (s : State) : Outcome State Fault Refusal :=
  ri s c d a imm (fun x y => x.sshiftRight (shamt y))

/-- ADDS (05 R103). -/
def execAdds (c : Ctl) (d a b : BitVec 6) (s : State) : Outcome State Fault Refusal :=
  rr3Sat s c d a b (fun x y => x + y)

/-- SUBS (05 R103). -/
def execSubs (c : Ctl) (d a b : BitVec 6) (s : State) : Outcome State Fault Refusal :=
  rr3Sat s c d a b (fun x y => x - y)

/-- ABS; −2^63 gives itself (05 R104). -/
def execAbs (c : Ctl) (d a : BitVec 6) (s : State) : Outcome State Fault Refusal :=
  rr2 s c d a (fun x => if x.msb then -x else x)

/-- CLZ (05 R104). -/
def execClz (c : Ctl) (d a : BitVec 6) (s : State) : Outcome State Fault Refusal :=
  rr2 s c d a (fun x => BitVec.ofNat 64 (64 - bitLen x.toNat))

/-- CTZ (05 R104). -/
def execCtz (c : Ctl) (d a : BitVec 6) (s : State) : Outcome State Fault Refusal :=
  rr2 s c d a (fun x => BitVec.ofNat 64 (ctzFrom x.toNat 0 64))

/-- POPC (05 R104). -/
def execPopc (c : Ctl) (d a : BitVec 6) (s : State) : Outcome State Fault Refusal :=
  rr2 s c d a (fun x => BitVec.ofNat 64 (popCount x.toNat 64))

/-- BREV (05 R104). -/
def execBrev (c : Ctl) (d a : BitVec 6) (s : State) : Outcome State Fault Refusal :=
  rr2 s c d a (fun x => BitVec.ofNat 64 (bitRev x.toNat 64))

/-- MOV (05 R104). -/
def execMov (c : Ctl) (d a : BitVec 6) (s : State) : Outcome State Fault Refusal :=
  rr2 s c d a (fun x => x)

/-- MOVI (05 R105). -/
def execMovi (c : Ctl) (d : BitVec 6) (imm : BitVec 25) (s : State) : Outcome State Fault Refusal :=
  toS s c [] d 1 (immS imm)

/-- MOVHI reads its destination (05 R105). -/
def execMovhi (c : Ctl) (d : BitVec 6) (imm : BitVec 25) (s : State) : Outcome State Fault Refusal :=
  toS s c [datS d] d 1 ((s.rs d <<< 25) ||| imm.setWidth 64)

/-- MUL (05 R106). -/
def execMul (c : Ctl) (d a b : BitVec 6) (s : State) : Outcome State Fault Refusal :=
  rr3Long s c d a b 3 (fun x y => x * y)

/-- MULH (05 R106). -/
def execMulh (c : Ctl) (d a b : BitVec 6) (s : State) : Outcome State Fault Refusal :=
  rr3Long s c d a b 3 (fun x y => BitVec.ofInt 64 (x.toInt * y.toInt / 2 ^ 64))

/-- MULHU (05 R106). -/
def execMulhu (c : Ctl) (d a b : BitVec 6) (s : State) : Outcome State Fault Refusal :=
  rr3Long s c d a b 3 (fun x y => BitVec.ofNat 64 (x.toNat * y.toNat / 2 ^ 64))

/-- DIV (05 R106). -/
def execDiv (c : Ctl) (d a b : BitVec 6) (s : State) : Outcome State Fault Refusal :=
  rr3Long s c d a b 24 (divS)

/-- DIVU (05 R106). -/
def execDivu (c : Ctl) (d a b : BitVec 6) (s : State) : Outcome State Fault Refusal :=
  rr3Long s c d a b 24 (divU)

/-- REM (05 R106). -/
def execRem (c : Ctl) (d a b : BitVec 6) (s : State) : Outcome State Fault Refusal :=
  rr3Long s c d a b 24 (remS)

/-- REMU (05 R106). -/
def execRemu (c : Ctl) (d a b : BitVec 6) (s : State) : Outcome State Fault Refusal :=
  rr3Long s c d a b 24 (remU)

/-- MULI (05 R106). -/
def execMuli (c : Ctl) (d a : BitVec 6) (imm : BitVec 25) (s : State) : Outcome State Fault Refusal :=
  toS s c [srcS a 0] d 3 (s.rs a * immS imm)

/-- SEXT; the field w holds the width minus 1 (05 R107). -/
def execSext (c : Ctl) (d a w : BitVec 6) (s : State) : Outcome State Fault Refusal :=
  rr2 s c d a (fun x => sext64 (w.toNat + 1) x.toNat)

/-- ZEXT (05 R107). -/
def execZext (c : Ctl) (d a w : BitVec 6) (s : State) : Outcome State Fault Refusal :=
  rr2 s c d a (fun x => bfx x 0 (w.toNat + 1))

/-- BFX (05 R107). -/
def execBfx (c : Ctl) (d a pos w : BitVec 6) (s : State) : Outcome State Fault Refusal :=
  rr2 s c d a (fun x => bfx x pos.toNat (w.toNat + 1))

/-- BFI reads its destination (05 R107). -/
def execBfi (c : Ctl) (d a pos w : BitVec 6) (s : State) : Outcome State Fault Refusal :=
  toS s c [srcS a 0, datS d] d 1 (bfi (s.rs d) (s.rs a) pos.toNat (w.toNat + 1))

/-- LEA (05 R108). -/
def execLea (c : Ctl) (d a b : BitVec 6) (sh : BitVec 3) (s : State) : Outcome State Fault Refusal :=
  rr3 s c d a b (fun x y => x + (y <<< sh.toNat))

/-- SEL takes bit 0 of the predicate (05 R109). -/
def execSel (c : Ctl) (d x a b : BitVec 6) (s : State) : Outcome State Fault Refusal :=
  toS s c [srcS a 0, srcS b 1, srcP x 2] d 1 (if (s.rp x).bits.getLsbD 0 then s.rs a else s.rs b)

/-- CMP writes all 256 bits and sets the tag (05 R110). -/
def execCmp (c : Ctl) (k : Cond) (d a b : BitVec 6) (s : State) : Outcome State Fault Refusal :=
  toP s c [srcS a 0, srcS b 1] d (Pred.all (icond k (s.rs a) (s.rs b)))

/-- CMPI compares with the sign-extended imm22 (05 R110). -/
def execCmpi (c : Ctl) (k : Cond) (d a : BitVec 6) (imm : BitVec 22) (s : State) : Outcome State Fault Refusal :=
  toP s c [srcS a 0] d (Pred.all (icond k (s.rs a) (imm.signExtend 64)))

/-- PAND (05 R111). -/
def execPand (c : Ctl) (d a b : BitVec 6) (s : State) : Outcome State Fault Refusal :=
  pp2 s c d a b (fun x y => x &&& y)

/-- POR (05 R111). -/
def execPor (c : Ctl) (d a b : BitVec 6) (s : State) : Outcome State Fault Refusal :=
  pp2 s c d a b (fun x y => x ||| y)

/-- PXOR (05 R111). -/
def execPxor (c : Ctl) (d a b : BitVec 6) (s : State) : Outcome State Fault Refusal :=
  pp2 s c d a b (fun x y => x ^^^ y)

/-- PNOT (05 R111). -/
def execPnot (c : Ctl) (d a : BitVec 6) (s : State) : Outcome State Fault Refusal :=
  pp1 s c d a (fun x => ~~~x)

/-- PMOV (05 R111). -/
def execPmov (c : Ctl) (d a : BitVec 6) (s : State) : Outcome State Fault Refusal :=
  pp1 s c d a (fun x => x)

/-- FADD (05 R112). -/
def execFadd (c : Ctl) (m : RMode) (d a b : BitVec 6) (s : State) : Outcome State Fault Refusal :=
  ff2 s c d a b 4 (fadd f32 m)

/-- FSUB (05 R112). -/
def execFsub (c : Ctl) (m : RMode) (d a b : BitVec 6) (s : State) : Outcome State Fault Refusal :=
  ff2 s c d a b 4 (fsub f32 m)

/-- FMUL (05 R112). -/
def execFmul (c : Ctl) (m : RMode) (d a b : BitVec 6) (s : State) : Outcome State Fault Refusal :=
  ff2 s c d a b 4 (fmul f32 m)

/-- FFMA, with one rounding (05 R112). -/
def execFfma (c : Ctl) (m : RMode) (d a b x : BitVec 6) (s : State) : Outcome State Fault Refusal :=
  let v := ffma f32 m ((s.rs a).toNat % 2 ^ 32) ((s.rs b).toNat % 2 ^ 32) ((s.rs x).toNat % 2 ^ 32)
  toS s c [srcS a 0, srcS b 1, srcS x 2] d 4 (BitVec.ofNat 64 v.bits) v.flags

/-- FMIN (05 R112). -/
def execFmin (c : Ctl) (d a b : BitVec 6) (s : State) : Outcome State Fault Refusal :=
  ff2 s c d a b 1 (fminmax f32 false)

/-- FMAX (05 R112). -/
def execFmax (c : Ctl) (d a b : BitVec 6) (s : State) : Outcome State Fault Refusal :=
  ff2 s c d a b 1 (fminmax f32 true)

/-- FCMP sets no flag (05 R113). -/
def execFcmp (c : Ctl) (k : Cond) (d a b : BitVec 6) (s : State) : Outcome State Fault Refusal :=
  toP s c [srcS a 0, srcS b 1] d
    (Pred.all (fcond k (f32.decode ((s.rs a).toNat % 2 ^ 32)) (f32.decode ((s.rs b).toNat % 2 ^ 32))))

/-- FCVTI; an i32 result is sign-extended (05 R114). -/
def execFcvti (c : Ctl) (t : Ty) (m : RMode) (d a : BitVec 6) (s : State) : Outcome State Fault Refusal :=
  let v := convert .f32 0 t 0 m ((s.rs a).toNat % 2 ^ 32)
  toS s c [srcS a 0] d 3 (sext64 t.width v.bits) v.flags

/-- ICVTF (05 R114). -/
def execIcvtf (c : Ctl) (t : Ty) (m : RMode) (d a : BitVec 6) (s : State) : Outcome State Fault Refusal :=
  let v := f32.encode m (.ofInt (signedOf t.width (s.rs a).toNat))
  toS s c [srcS a 0] d 3 (BitVec.ofNat 64 v.bits) v.flags

end Sys2Proof.Machine
end

