-- ==== Sys2Proof/Machine/Vector.lean ====
section
/-! DEFINITION. The VX slot (06 R140 to R162): element-wise arithmetic, logic, compares, permutes, reductions, special
functions, conversions and quantisation. An instruction hands a function from element number to result, with its flags, to one
of the shared forms, with the latency of 06 R142. -/

namespace Sys2Proof.Machine

open Host (Outcome)

/-- The form of a per-lane instruction (06 R143). -/
def vxForm (srcs : List Src) (d : RegId) : Form := { srcs := srcs, dsts := [d], guard := .lanes, tileOnly := true }

/-- TI.OPC (09 R236). -/
def tiOpc (r : Rec) : Nat := bitsOf (Rec_word r 0) 0 8

/-- The core runs lane clusters for an opcode (09 R239). -/
def laneOp (opc : Nat) : Bool := opc == 2 || opc == 3 || opc == 4 || opc == 7

/-- A lane cluster's child of the record that runs on the core's TQ holds the vector lanes (09 R273). -/
def State.lanesHeld (s : State) : Bool :=
  (s.myCore.tq.head?.bind fun id => s.tiles.find? (·.id == id)).any fun e =>
    e.checked && !e.failed && laneOp (tiOpc e.rec_) && decide (e.done < e.units)

/-- An instruction of the VX slot: it waits while the lanes are held (09 R273). -/
def issueVx (s : State) (c : Ctl) (f : Form) (body : Eff) : Outcome State Fault Refusal :=
  issue s c f (if s.lanesHeld then .hold s 0 else body)

/-- The elements of v[D] where `m` has a bit become `f i`; the flags are those of the active elements (06 R143). -/
def vxLanes (s : State) (c : Ctl) (srcs : List Src) (t : Ty) (d : BitVec 6) (lat : Nat) (f : Nat → Val) :
    Outcome State Fault Refusal :=
  let m := guardBits s.src c
  issueVx s c (vxForm srcs (.v d.toNat))
    (.done (s.produce (.v d.toNat) (.r (blend t m (s.rv d) fun i => (f i).bits)) (orFlags t.width m fun i => (f i).flags) lat))

/-- A result without flags. -/
def plain (x : Nat) : Val := { bits := x }

/-- Two vector sources (06 R141 form V3). -/
def vx2 (s : State) (c : Ctl) (t : Ty) (d a b : BitVec 6) (lat : Nat) (f : Nat → Nat → Val) : Outcome State Fault Refusal :=
  vxLanes s c [srcV a 0, srcV b 1] t d lat fun i => f (elemOf (s.rv a) t.width i) (elemOf (s.rv b) t.width i)

/-- One vector source (form V2). -/
def vx1 (s : State) (c : Ctl) (t : Ty) (d a : BitVec 6) (lat : Nat) (f : Nat → Val) : Outcome State Fault Refusal :=
  vxLanes s c [srcV a 0] t d lat fun i => f (elemOf (s.rv a) t.width i)

/-- An integer operation modulo 2^w on bit vectors. -/
def wrap2 (w : Nat) (f : BitVec w → BitVec w → BitVec w) (x y : Nat) : Val :=
  plain (f (BitVec.ofNat w x) (BitVec.ofNat w y)).toNat

/-- VADD of one element (06 R144). -/
def addElem (t : Ty) (m : RMode) (x y : Nat) : Val :=
  if t.isInt then plain ((x + y) % 2 ^ t.width) else fadd (ffmtOf t) m x y
/-- VSUB of one element. -/
def subElem (t : Ty) (m : RMode) (x y : Nat) : Val :=
  if t.isInt then plain ((x + (2 ^ t.width - y)) % 2 ^ t.width) else fsub (ffmtOf t) m x y
/-- VMUL of one element. -/
def mulElem (t : Ty) (m : RMode) (x y : Nat) : Val :=
  if t.isInt then plain (x * y % 2 ^ t.width) else fmul (ffmtOf t) m x y
/-- VMIN, or VMAX, of one element: signed, or minimumNumber. -/
def minmaxElem (t : Ty) (mx : Bool) (x y : Nat) : Val :=
  if t.isInt then
    let lt := decide (signedOf t.width x < signedOf t.width y)
    plain (if mx then (if lt then y else x) else (if decide (signedOf t.width y < signedOf t.width x) then y else x))
  else fminmax (ffmtOf t) mx x y
/-- VABS of one element (06 R144): a NaN gives the canonical NaN. -/
def absElem (t : Ty) (x : Nat) : Val :=
  if t.isInt then plain (if x.testBit (t.width - 1) then (2 ^ t.width - x) % 2 ^ t.width else x)
  else if ((ffmtOf t).decode x).isNan then (ffmtOf t).nan 0
  else plain (x % 2 ^ (t.width - 1))
/-- VNEG of one element. -/
def negElem (t : Ty) (x : Nat) : Val :=
  if t.isInt then plain ((2 ^ t.width - x) % 2 ^ t.width)
  else if ((ffmtOf t).decode x).isNan then (ffmtOf t).nan 0
  else plain (x ^^^ 2 ^ (t.width - 1))
/-- VADDS and VSUBS of one element (06 R145). -/
def satElem (t : Ty) (f : Int → Int → Int) (x y : Nat) : Val := satInt t.width (f (signedOf t.width x) (signedOf t.width y))
/-- VMULH of one element (06 R145). -/
def mulhElem (t : Ty) (x y : Nat) : Val :=
  plain (BitVec.ofInt t.width (signedOf t.width x * signedOf t.width y / 2 ^ t.width)).toNat
/-- VSHL, VSHR and VSAR of one element: a count of w or more empties it (06 R146). -/
def shlElem (t : Ty) (x n : Nat) : Val := plain (if t.width ≤ n then 0 else x * 2 ^ n % 2 ^ t.width)
/-- VSHR. -/
def shrElem (t : Ty) (x n : Nat) : Val := plain (if t.width ≤ n then 0 else x / 2 ^ n)
/-- VSAR. -/
def sarElem (t : Ty) (x n : Nat) : Val :=
  plain ((BitVec.ofNat t.width x).sshiftRight (min n t.width)).toNat

/-- One special-function element of a float type. -/
def unary (t : Ty) (m : RMode) (f : FFmt → RMode → Num → Val) (x : Nat) : Val := f (ffmtOf t) m ((ffmtOf t).decode x)
/-- VDIV of one element. -/
def divElem (t : Ty) (m : RMode) (x y : Nat) : Val := fdivN (ffmtOf t) m ((ffmtOf t).decode x) ((ffmtOf t).decode y)

/-- The bits of a predicate, listed from bit 0 up. -/
def packBits (xs : List Bool) : Nat :=
  match xs with
  | [] => 0
  | x :: r => (if x then 1 else 0) + 2 * packBits r

/-- VCMP's condition on one element pair; tapers compare decoded at bias 0 (06 R147). -/
def condElem (t : Ty) (k : Cond) (x y : Nat) : Bool :=
  if t.isInt then icond k (BitVec.ofNat t.width x) (BitVec.ofNat t.width y)
  else fcond k (decodeElem t 0 x) (decodeElem t 0 y)

/-- The 256 predicate bits after VCMP: element i owns bits i·w/8 to i·w/8 + w/8 − 1 (06 R147). -/
def cmpBits (t : Ty) (m old : BitVec 256) (f : Nat → Bool) : BitVec 256 :=
  let w := t.width
  BitVec.ofNat 256 <| packBits <| (List.range (lanesOf w)).flatMap fun i =>
    if laneBit m w i then List.replicate (w / 8) (f i)
    else (List.range (w / 8)).map fun j => old.getLsbD (i * (w / 8) + j)

/-! ### Trees (02 R53 R54) -/

/-- A node of the tree: absent, or its value; and the flags of every operation below it. -/
abbrev Node := Option Nat × Flags

/-- The operation of a node: an absent operand gives the other (02 R53). Where that other is a NaN with a payload, 02 R42 makes every
arithmetic NaN result canonical while R53's Node returns the operand: the model's choice is the operand's own bits, on which no operation has
acted (log 91). -/
def joinNodes (op : Nat → Nat → Val) (l h : Node) : Node :=
  match l.1, h.1 with
  | none, _ => (h.1, l.2 ||| h.2)
  | some _, none => (l.1, l.2 ||| h.2)
  | some x, some y =>
    let v := op x y
    (some v.bits, l.2 ||| h.2 ||| v.flags)

/-- Node(a, t) over the elements `e` (02 R53). -/
def treeNode (op : Nat → Nat → Val) (e : Nat → Option Nat) (a t : Nat) : Node :=
  match t with
  | 0 => (e a, 0)
  | k + 1 => joinNodes op (treeNode op e a k) (treeNode op e (a + 2 ^ k) k)

/-- The elements of v[A] that take part: those whose guard bit is 1. -/
def presentElems (t : Ty) (m : BitVec 256) (v : VWord) (i : Nat) : Option Nat :=
  if laneBit m t.width i then some (elemOf v t.width i) else none

/-- The inclusive prefixes P(0) to P(N − 1), newest first, with the flags so far (02 R54). -/
def scanStep (op : Nat → Nat → Val) (e : Nat → Option Nat) (acc : List (Option Nat) × Flags) (i : Nat) :
    List (Option Nat) × Flags :=
  let t := ctzFrom (i + 1) 0 9
  let n := treeNode op e (i + 1 - 2 ^ t) t
  -- P(i − 2^t) stands 2^t places back, and is absent before element 0
  let before : Node := ((acc.1.getD (2 ^ t - 1) none), 0)
  let r := joinNodes op before n
  (r.1 :: acc.1, acc.2 ||| r.2)

/-- Every prefix, from element 0 up, and the flags of every node and combining step (06 R153). -/
def scanAll (op : Nat → Nat → Val) (e : Nat → Option Nat) (n : Nat) : List (Option Nat) × Flags :=
  let r := (List.range n).foldl (scanStep op e) ([], 0)
  (r.1.reverse, r.2)

/-- What a reduction of no element gives (02 R53). -/
def emptyAdd : Nat := 0
/-- The minimum of no element: +∞, or the type's largest value. -/
def emptyMin (t : Ty) : Nat := if t.isInt then 2 ^ (t.width - 1) - 1 else (ffmtOf t).infBits
/-- The maximum of no element: −∞, or the type's smallest value. -/
def emptyMax (t : Ty) : Nat := if t.isInt then 2 ^ (t.width - 1) else (ffmtOf t).withSign true (ffmtOf t).infBits

/-- A reduction: element 0 takes the root, every other element zero bits (06 R152). -/
def vxReduce (s : State) (c : Ctl) (t : Ty) (d a : BitVec 6) (lat : Nat) (op : Nat → Nat → Val) (none_ : Nat) :
    Outcome State Fault Refusal :=
  let r := treeNode op (presentElems t (guardBits s.src c) (s.rv a)) 0 (lanesOf t.width).log2
  issueVx s c (vxForm [srcV a 0] (.v d.toNat))
    (.done (s.produce (.v d.toNat) (.r (BitVec.ofNat 2048 (r.1.getD none_))) r.2 lat))

/-- The predicate elements that take part (06 R154). -/
def votes (t : Ty) (m p : BitVec 256) : List Bool :=
  ((List.range (lanesOf t.width)).filter (laneBit m t.width)).map (laneBit p t.width)

/-! ### Conversions (06 R156) -/

/-- The source element that destination element `i` is converted from, between element widths `ws` and `wd`, part `j`; none
where a narrowing conversion leaves it. -/
def partSrc (ws wd j i : Nat) : Option Nat :=
  if ws = wd then some i
  else if ws < wd then some (j * lanesOf wd + i)
  else if j * lanesOf ws ≤ i && i < j * lanesOf ws + lanesOf ws then some (i - j * lanesOf ws)
  else none

/-- A conversion of v[A] from width `ws` into the type `t` of v[D]: elements that no source reaches, and inactive ones, keep
their value (06 R156). -/
def vxConvert (s : State) (c : Ctl) (ws : Nat) (t : Ty) (d a j : BitVec 6) (lat : Nat) (f : Nat → Val) :
    Outcome State Fault Refusal :=
  let at_ (i : Nat) : Val :=
    match partSrc ws t.width j.toNat i with
    | some k => f (elemOf (s.rv a) ws k)
    | none => plain (elemOf (s.rv d) t.width i)
  let m := guardBits s.src c
  let keep (i : Nat) : Nat := if (partSrc ws t.width j.toNat i).isSome then t6Clean t (at_ i).bits else elemOf (s.rv d) t.width i
  let w := t.width
  let v := BitVec.ofNat 2048 <| packElems w <|
    (List.range (lanesOf w)).map fun i => if laneBit m w i then keep i else elemOf (s.rv d) w i
  issueVx s c (vxForm [srcV a 0] (.v d.toNat))
    (.done (s.produce (.v d.toNat) (.r v) (orFlags w m fun i => (at_ i).flags) lat))

/-! ### Quantisation (02 R57 R58) -/

/-- E of 02 R57 over a list of exact elements: the greatest exponent of a finite nonzero one, clamped, or 0. -/
def maxExp (xs : List Num) : Int :=
  let es := xs.filterMap fun x =>
    match x with
    | .fin _ m e => if m = 0 then none else some (floorLog2 m e)
    | .nan | .nav | .inf _ => none
  match es with
  | [] => 0
  | e :: r => max (-128) (min 127 (r.foldl max e))

/-- The state of a block of 02 R58: the residual, as binary32 bits, the flags, and the codes so far, newest first. -/
structure Quant where
  e : Nat := 0
  flags : Flags := 0
  codes : List (Option Nat) := []
  deriving DecidableEq, Repr

/-- One element of 02 R58; every block of 32 starts from a residual of +0. -/
def quantStep (t6 : Bool) (q : Int) (active : Nat → Bool) (src : Nat → Num) (a : Quant) (i : Nat) : Quant :=
  let e0 := if i % 32 = 0 then 0 else a.e
  if !active i then { a with e := e0, codes := none :: a.codes }
  else
    let y := (f32.encode .rne ((src i).scale (-q))).bits
    let x := (fadd f32 .rne y e0).bits
    let xn := f32.decode x
    let code := taperRound t6 0 xn
    let e1 :=
      if xn.isNan || xn.isInf then 0
      else (faddN f32 .rne xn (taperDecode t6 0 code.bits).neg).bits
    { e := e1, flags := a.flags ||| code.flags, codes := some code.bits :: a.codes }

/-- The codes of every source element in order, and the flags (02 R58). -/
def quantAll (t6 : Bool) (q : Int) (n : Nat) (active : Nat → Bool) (src : Nat → Num) : List (Option Nat) × Flags :=
  let r := (List.range n).foldl (quantStep t6 q active src) {}
  (r.codes.reverse, r.flags)

/-- Element `i` of the pair with v[A] in the low half (06 R151). -/
def pairElem (a b : VWord) (w i : Nat) : Nat := if i < lanesOf w then elemOf a w i else elemOf b w (i - lanesOf w)

/-- VADD (06 R144). -/
def execVadd (c : Ctl) (t : Ty) (m : RMode) (d a b : BitVec 6) (s : State) : Outcome State Fault Refusal :=
  vx2 s c t d a b (if t.isInt then 2 else 4) (addElem t m)

/-- VSUB (06 R144). -/
def execVsub (c : Ctl) (t : Ty) (m : RMode) (d a b : BitVec 6) (s : State) : Outcome State Fault Refusal :=
  vx2 s c t d a b (if t.isInt then 2 else 4) (subElem t m)

/-- VMUL (06 R144). -/
def execVmul (c : Ctl) (t : Ty) (m : RMode) (d a b : BitVec 6) (s : State) : Outcome State Fault Refusal :=
  vx2 s c t d a b 4 (mulElem t m)

/-- VFMA (06 R144). -/
def execVfma (c : Ctl) (t : Ty) (m : RMode) (d a b x : BitVec 6) (s : State) : Outcome State Fault Refusal :=
  vxLanes s c [srcV a 0, srcV b 1, srcV x 2] t d 4 fun i =>
    let p := elemOf (s.rv a) t.width i
    let q := elemOf (s.rv b) t.width i
    let r := elemOf (s.rv x) t.width i
    if t.isInt then plain ((p * q + r) % 2 ^ t.width) else ffma (ffmtOf t) m p q r

/-- VMIN (06 R144). -/
def execVmin (c : Ctl) (t : Ty) (d a b : BitVec 6) (s : State) : Outcome State Fault Refusal :=
  vx2 s c t d a b 2 (minmaxElem t false)

/-- VMAX (06 R144). -/
def execVmax (c : Ctl) (t : Ty) (d a b : BitVec 6) (s : State) : Outcome State Fault Refusal :=
  vx2 s c t d a b 2 (minmaxElem t true)

/-- VABS (06 R144). -/
def execVabs (c : Ctl) (t : Ty) (d a : BitVec 6) (s : State) : Outcome State Fault Refusal :=
  vx1 s c t d a 2 (absElem t)

/-- VNEG (06 R144). -/
def execVneg (c : Ctl) (t : Ty) (d a : BitVec 6) (s : State) : Outcome State Fault Refusal :=
  vx1 s c t d a 2 (negElem t)

/-- VAND (06 R146). -/
def execVand (c : Ctl) (t : Ty) (d a b : BitVec 6) (s : State) : Outcome State Fault Refusal :=
  vx2 s c t d a b 1 (fun x y => plain (x &&& y))

/-- VOR (06 R146). -/
def execVor (c : Ctl) (t : Ty) (d a b : BitVec 6) (s : State) : Outcome State Fault Refusal :=
  vx2 s c t d a b 1 (fun x y => plain (x ||| y))

/-- VXOR (06 R146). -/
def execVxor (c : Ctl) (t : Ty) (d a b : BitVec 6) (s : State) : Outcome State Fault Refusal :=
  vx2 s c t d a b 1 (fun x y => plain (x ^^^ y))

/-- VNOT (06 R146). -/
def execVnot (c : Ctl) (t : Ty) (d a : BitVec 6) (s : State) : Outcome State Fault Refusal :=
  vx1 s c t d a 1 (fun x => plain (2 ^ t.width - 1 - x))

/-- VSHL: each element has its own count (06 R146). -/
def execVshl (c : Ctl) (t : Ty) (d a b : BitVec 6) (s : State) : Outcome State Fault Refusal :=
  vx2 s c t d a b 2 (shlElem t)

/-- VSHR: each element has its own count (06 R146). -/
def execVshr (c : Ctl) (t : Ty) (d a b : BitVec 6) (s : State) : Outcome State Fault Refusal :=
  vx2 s c t d a b 2 (shrElem t)

/-- VSAR: each element has its own count (06 R146). -/
def execVsar (c : Ctl) (t : Ty) (d a b : BitVec 6) (s : State) : Outcome State Fault Refusal :=
  vx2 s c t d a b 2 (sarElem t)

/-- VADDS (06 R145). -/
def execVadds (c : Ctl) (t : Ty) (d a b : BitVec 6) (s : State) : Outcome State Fault Refusal :=
  vx2 s c t d a b 2 (satElem t fun x y => x + y)

/-- VSUBS (06 R145). -/
def execVsubs (c : Ctl) (t : Ty) (d a b : BitVec 6) (s : State) : Outcome State Fault Refusal :=
  vx2 s c t d a b 2 (satElem t fun x y => x - y)

/-- VMULH (06 R145). -/
def execVmulh (c : Ctl) (t : Ty) (d a b : BitVec 6) (s : State) : Outcome State Fault Refusal :=
  vx2 s c t d a b 4 (mulhElem t)

/-- VCMP clears the tag (06 R147). -/
def execVcmp (c : Ctl) (t : Ty) (k : Cond) (d a b : BitVec 6) (s : State) : Outcome State Fault Refusal :=
  let bits := cmpBits t (guardBits s.src c) (s.rp d).bits fun i =>
    condElem t k (elemOf (s.rv a) t.width i) (elemOf (s.rv b) t.width i)
  issueVx s c (vxForm [srcV a 0, srcV b 1] (.p d.toNat))
    (.done (s.produce (.p d.toNat) (.q { bits := bits, tag := false }) 0 2))

/-- VSEL (06 R148). -/
def execVsel (c : Ctl) (t : Ty) (d x a b : BitVec 6) (s : State) : Outcome State Fault Refusal :=
  vxLanes s c [srcV a 0, srcV b 1, srcP x 2] t d 1 fun i =>
    plain (elemOf (if laneBit (s.rp x).bits t.width i then s.rv a else s.rv b) t.width i)

/-- VMOV (06 R149). -/
def execVmov (c : Ctl) (t : Ty) (d a : BitVec 6) (s : State) : Outcome State Fault Refusal :=
  vx1 s c t d a 1 plain

/-- VBCAST (06 R149). -/
def execVbcast (c : Ctl) (t : Ty) (d a : BitVec 6) (s : State) : Outcome State Fault Refusal :=
  vxLanes s c [srcS a 0] t d 1 fun _ => plain ((s.rs a).toNat % 2 ^ t.width)

/-- VEXT takes its guard from bit 0 (06 R150). -/
def execVext (c : Ctl) (t : Ty) (d a b : BitVec 6) (s : State) : Outcome State Fault Refusal :=
  let x := t6Clean t (elemOf (s.rv a) t.width ((s.rs b).toNat % lanesOf t.width))
  let y : Word := if t.isInt then sext64 t.width x else BitVec.ofNat 64 x
  issueVx s c { srcs := [srcV a 0, srcS b 1], dsts := [.s d.toNat], tileOnly := true }
    (.done (s.produce (.s d.toNat) (.w y) 0 3))

/-- VINS reads its destination and takes its guard from bit 0 (06 R150). -/
def execVins (c : Ctl) (t : Ty) (d a b : BitVec 6) (s : State) : Outcome State Fault Refusal :=
  let k := (s.rs b).toNat % lanesOf t.width
  let w := t.width
  let v := BitVec.ofNat 2048 <| packElems w <| (List.range (lanesOf w)).map fun i =>
    if i = k then t6Clean t ((s.rs a).toNat % 2 ^ w) else elemOf (s.rv d) w i
  issueVx s c { srcs := [srcS a 0, srcS b 1, datV d], dsts := [.v d.toNat], tileOnly := true }
    (.done (s.produce (.v d.toNat) (.r v) 0 3))

/-- VPERM (06 R151). -/
def execVperm (c : Ctl) (t : Ty) (d a b : BitVec 6) (s : State) : Outcome State Fault Refusal :=
  vxLanes s c [srcV a 0, srcV b 1] t d 3 fun i =>
    plain (elemOf (s.rv a) t.width (elemOf (s.rv b) t.width i % lanesOf t.width))

/-- VROT (06 R151). -/
def execVrot (c : Ctl) (t : Ty) (d a b : BitVec 6) (s : State) : Outcome State Fault Refusal :=
  vxLanes s c [srcV a 0, srcS b 1] t d 3 fun i =>
    plain (elemOf (s.rv a) t.width ((i + (s.rs b).toNat) % lanesOf t.width))

/-- VSLIDE over the pair (06 R151). -/
def execVslide (c : Ctl) (t : Ty) (d a b x : BitVec 6) (s : State) : Outcome State Fault Refusal :=
  vxLanes s c [srcV a 0, srcV b 1, srcS x 2] t d 3 fun i =>
    plain (pairElem (s.rv a) (s.rv b) t.width ((i + (s.rs x).toNat) % (2 * lanesOf t.width)))

/-- VZIP (06 R151). -/
def execVzip (c : Ctl) (t : Ty) (d a b : BitVec 6) (h : Bool) (s : State) : Outcome State Fault Refusal :=
  let n := lanesOf t.width
  let half := if h then n / 2 else 0
  vxLanes s c [srcV a 0, srcV b 1] t d 3 fun i =>
    plain (pairElem (s.rv a) (s.rv b) t.width (if i % 2 = 0 then half + i / 2 else n + half + (i - 1) / 2))

/-- VUNZIP (06 R151). -/
def execVunzip (c : Ctl) (t : Ty) (d a b : BitVec 6) (h : Bool) (s : State) : Outcome State Fault Refusal :=
  vxLanes s c [srcV a 0, srcV b 1] t d 3 fun i =>
    plain (pairElem (s.rv a) (s.rv b) t.width (2 * i + if h then 1 else 0))

/-- VREDADD rounds each node in RNE (06 R152). -/
def execVredadd (c : Ctl) (t : Ty) (d a : BitVec 6) (s : State) : Outcome State Fault Refusal :=
  vxReduce s c t d a 10 (addElem t .rne) emptyAdd

/-- VREDMIN (06 R152). -/
def execVredmin (c : Ctl) (t : Ty) (d a : BitVec 6) (s : State) : Outcome State Fault Refusal :=
  vxReduce s c t d a 6 (minmaxElem t false) (emptyMin t)

/-- VREDMAX (06 R152). -/
def execVredmax (c : Ctl) (t : Ty) (d a : BitVec 6) (s : State) : Outcome State Fault Refusal :=
  vxReduce s c t d a 6 (minmaxElem t true) (emptyMax t)

/-- VSCAN writes the active elements (06 R153). -/
def execVscan (c : Ctl) (t : Ty) (d a : BitVec 6) (s : State) : Outcome State Fault Refusal :=
  let m := guardBits s.src c
  let r := scanAll (addElem t .rne) (presentElems t m (s.rv a)) (lanesOf t.width)
  issueVx s c (vxForm [srcV a 0] (.v d.toNat))
    (.done (s.produce (.v d.toNat) (.r (blend t m (s.rv d) fun i => (r.1.getD i none).getD 0)) r.2 12))

/-- VANY (06 R154). -/
def execVany (c : Ctl) (t : Ty) (d a : BitVec 6) (s : State) : Outcome State Fault Refusal :=
  issueVx s c (vxForm [srcP a 0] (.p d.toNat))
    (.done (s.produce (.p d.toNat) (.q (Pred.all ((votes t (guardBits s.src c) (s.rp a).bits).any id))) 0 3))

/-- VALL (06 R154). -/
def execVall (c : Ctl) (t : Ty) (d a : BitVec 6) (s : State) : Outcome State Fault Refusal :=
  issueVx s c (vxForm [srcP a 0] (.p d.toNat))
    (.done (s.produce (.p d.toNat) (.q (Pred.all ((votes t (guardBits s.src c) (s.rp a).bits).all id))) 0 3))

/-- VPOPC (06 R154). -/
def execVpopc (c : Ctl) (t : Ty) (d a : BitVec 6) (s : State) : Outcome State Fault Refusal :=
  let n := ((votes t (guardBits s.src c) (s.rp a).bits).filter id).length
  issueVx s c (vxForm [srcP a 0] (.s d.toNat)) (.done (s.produce (.s d.toNat) (.w (BitVec.ofNat 64 n)) 0 3))

/-- VRCP (06 R155). -/
def execVrcp (c : Ctl) (t : Ty) (m : RMode) (d a : BitVec 6) (s : State) : Outcome State Fault Refusal :=
  vx1 s c t d a 14 (unary t m frcpN)

/-- VRSQ (06 R155). -/
def execVrsq (c : Ctl) (t : Ty) (m : RMode) (d a : BitVec 6) (s : State) : Outcome State Fault Refusal :=
  vx1 s c t d a 14 (unary t m frsqN)

/-- VSQRT (06 R155). -/
def execVsqrt (c : Ctl) (t : Ty) (m : RMode) (d a : BitVec 6) (s : State) : Outcome State Fault Refusal :=
  vx1 s c t d a 14 (unary t m fsqrtN)

/-- VEXP2 (06 R155). -/
def execVexp2 (c : Ctl) (t : Ty) (m : RMode) (d a : BitVec 6) (s : State) : Outcome State Fault Refusal :=
  vx1 s c t d a 14 (unary t m fexp2N)

/-- VLOG2 (06 R155). -/
def execVlog2 (c : Ctl) (t : Ty) (m : RMode) (d a : BitVec 6) (s : State) : Outcome State Fault Refusal :=
  vx1 s c t d a 14 (unary t m flog2N)

/-- VTANH (06 R155). -/
def execVtanh (c : Ctl) (t : Ty) (m : RMode) (d a : BitVec 6) (s : State) : Outcome State Fault Refusal :=
  vx1 s c t d a 14 (unary t m ftanhN)

/-- VSIGM (06 R155). -/
def execVsigm (c : Ctl) (t : Ty) (m : RMode) (d a : BitVec 6) (s : State) : Outcome State Fault Refusal :=
  vx1 s c t d a 14 (unary t m fsigmN)

/-- VDIV (06 R155). -/
def execVdiv (c : Ctl) (t : Ty) (m : RMode) (d a b : BitVec 6) (s : State) : Outcome State Fault Refusal :=
  vx2 s c t d a b 18 (divElem t m)

/-- VCVT; the same code on both sides is an exact copy (06 R157). -/
def execVcvt (c : Ctl) (t : Ty) (m : RMode) (d a : BitVec 6) (fs : Ty) (j : BitVec 6) (s : State) : Outcome State Fault Refusal :=
  vxConvert s c fs.width t d a j 4 (if fs = t then plain else convert fs 0 t 0 m)

/-- VMAXEXP lands in qscale three cycles after issue (06 R159, 01 R21). -/
def execVmaxexp (c : Ctl) (t : Ty) (a : BitVec 6) (s : State) : Outcome State Fault Refusal :=
  let m := guardBits s.src c
  let xs := ((List.range (lanesOf t.width)).filter (laneBit m t.width)).map fun i =>
    decodeElem t 0 (elemOf (s.rv a) t.width i)
  issueVx s c { srcs := [srcV a 0], guard := .lanes, tileOnly := true }
    (.done (s.modCore fun k => { k with qpend := k.qpend ++ [(s.me.issued + 3, BitVec.ofInt 8 (maxExp xs))] }))

/-- VQCVT quantises with error feedback (06 R160, 02 R58). -/
def execVqcvt (c : Ctl) (t : Ty) (d a : BitVec 6) (fq : Ty) (j : BitVec 6) (s : State) : Outcome State Fault Refusal :=
  let m := guardBits s.src c
  let n := lanesOf t.width
  let base := j.toNat * n
  let r := quantAll (fq == .t6) s.qNow.toInt n (fun i => laneBit m 8 (base + i))
    (fun i => decodeElem t 0 (elemOf (s.rv a) t.width i))
  let v := BitVec.ofNat 2048 <| packElems 8 <| (List.range 256).map fun i =>
    if base ≤ i && i < base + n then ((r.1.getD (i - base) none).getD (elemOf (s.rv d) 8 i)) else elemOf (s.rv d) 8 i
  issueVx s c (vxForm [srcV a 0] (.v d.toNat)) (.done (s.produce (.v d.toNat) (.r v) r.2 8))

/-- VDQ decodes under qscale (06 R161). -/
def execVdq (c : Ctl) (t : Ty) (m : RMode) (d a : BitVec 6) (fq : Ty) (j : BitVec 6) (s : State) : Outcome State Fault Refusal :=
  vxConvert s c 8 t d a j 4 fun x => encodeElem t 0 m (decodeElem fq s.qNow.toInt x)

/-- VFXCVT (06 R158, 02 R51). -/
def execVfxcvt (c : Ctl) (t : Ty) (m : RMode) (d a n j : BitVec 6) (s : State) : Outcome State Fault Refusal :=
  vxConvert s c t.width .i64 d a j 4 fun x => toInt 64 m ((decodeElem t 0 x).scale n.toNat)

/-- VFLCVT (06 R158, 02 R51). -/
def execVflcvt (c : Ctl) (t : Ty) (m : RMode) (d a n j : BitVec 6) (s : State) : Outcome State Fault Refusal :=
  vxConvert s c 64 t d a j 4 fun x => encodeElem t 0 m ((decodeElem .i64 0 x).scale (-(n.toNat : Int)))

/-- VIOTA (06 R146). -/
def execViota (c : Ctl) (t : Ty) (d : BitVec 6) (s : State) : Outcome State Fault Refusal :=
  vxLanes s c [] t d 1 fun i => plain i

/-- VCLZ (06 R146). -/
def execVclz (c : Ctl) (t : Ty) (d a : BitVec 6) (s : State) : Outcome State Fault Refusal :=
  vx1 s c t d a 2 fun x => plain (t.width - bitLen x)

end Sys2Proof.Machine
end

