-- ==== Sys2Proof/Machine/Shape.lean ====
section
/-! DEFINITION. Tile-instruction records and shape records (09 R236 to R245 R256): their fields, the elements a shape has, and
the checks a level makes of a record, as functions of the record and its shape records. -/

namespace Sys2Proof.Machine

/-! ### The record (09 R236 to R238) -/

/-- TI.LEVEL. -/
def tiLevel (r : Rec) : Nat := bitsOf (Rec_word r 0) 8 3
/-- TI.EV. -/
def tiEv (r : Rec) : Bool := (Rec_word r 0).getLsbD 16
/-- TI.ZC. -/
def tiZc (r : Rec) : Bool := (Rec_word r 0).getLsbD 17
/-- TI.PRIO. -/
def tiPrio (r : Rec) : Nat := bitsOf (Rec_word r 0) 18 2
/-- TI.TAG. -/
def tiTag (r : Rec) : Nat := bitsOf (Rec_word r 0) 32 32
/-- TI.P0. -/
def tiP0 (r : Rec) : Word := Rec_word r 4
/-- TI.CBLK. -/
def tiCblk (r : Rec) : Word := Rec_word r 6
/-- TI.RUNFST. -/
def tiRunFst (r : Rec) : Nat := bitsOf (Rec_word r 7) 0 32
/-- TI.RUNCNT. -/
def tiRunCnt (r : Rec) : Nat := bitsOf (Rec_word r 7) 32 32

/-- Replaces word `i` of a record. -/
def Rec_setWord (r : Rec) (i : Nat) (w : Word) : Rec :=
  let low := r.toNat % 2 ^ (64 * i)
  let high := r.toNat / 2 ^ (64 * (i + 1))
  BitVec.ofNat 512 (low + 2 ^ (64 * i) * w.toNat + 2 ^ (64 * (i + 1)) * high)

/-- A child's record (09 R246, 17 R422): EV, CBLK and PRIO zero, the level one lower, and its run. -/
def childRec (r : Rec) (fst cnt : Nat) : Rec :=
  let w0 := Rec_word r 0 &&& ~~~(0xD0700 : Word) ||| BitVec.ofNat 64 ((tiLevel r - 1) * 256)
  Rec_setWord (Rec_setWord (Rec_setWord r 0 w0) 6 0) 7 (BitVec.ofNat 64 (fst + 2 ^ 32 * cnt))

/-! ### Shape records (09 R241 to R243) -/

/-- `n` bytes of a record at byte `i`. -/
def recField (r : Rec) (i n : Nat) : Nat := r.toNat / 2 ^ (8 * i) % 2 ^ (8 * n)
/-- SHP.BASE. -/
def shBase (r : Rec) : Nat := recField r 0 8
/-- SHP.FMT, where it names a format. -/
def shFmt (r : Rec) : Option Ty := if recField r 8 1 < 9 then Ty.ofBits (BitVec.ofNat 4 (recField r 8 1)) else none
/-- The format of a checked record. -/
def shTy (r : Rec) : Ty := (shFmt r).getD .i8
/-- SHP.RANK. -/
def shRank (r : Rec) : Nat := recField r 9 1
/-- SHP.FLAGS bit 0, OVERLAP. -/
def shOverlap (r : Rec) : Bool := recField r 10 1 % 2 == 1
/-- SHP.FLAGS bit 1, LOCAL. -/
def shLocal (r : Rec) : Bool := recField r 10 1 / 2 % 2 == 1
/-- SHP.SCALE as a signed number. -/
def shScale (r : Rec) : Int := (BitVec.ofNat 8 (recField r 11 1)).toInt
/-- SHP.ORIGIN. -/
def shOrigin (r : Rec) : Nat := recField r 12 4
/-- SHP.EXTd. -/
def shExt (r : Rec) (d : Nat) : Nat := recField r (16 + 4 * d) 4
/-- SHP.STRd. -/
def shStr (r : Rec) (d : Nat) : Int := sint32 (recField r (40 + 4 * d) 4)
/-- Bytes of an element. -/
def shSize (r : Rec) : Nat := (shTy r).width / 8
/-- The dimensions 0 to r − 1. -/
def shDims (r : Rec) : List Nat := List.range (min (shRank r) 6)
/-- Elements over a list of dimensions. -/
def shCount (r : Rec) (ds : List Nat) : Nat := ds.foldl (fun p d => p * shExt r d) 1
/-- Every element. -/
def shTotal (r : Rec) : Nat := shCount r (shDims r)
/-- Rows (09 R242). -/
def shRows (r : Rec) : Nat := shCount r ((shDims r).drop 1)
/-- The bias of a taper format, 0 for any other (02 R48). -/
def shBias (r : Rec) : Int := if (shTy r).isTaper then shScale r else 0

/-- Indices over dimensions from a linear number, the first fastest. -/
def unlinear (r : Rec) (ds : List Nat) (x : Nat) : List Nat :=
  match ds with
  | [] => []
  | d :: t => x % shExt r d :: unlinear r t (x / shExt r d)

/-- Linear number of indices over dimensions, the first fastest. -/
def linear (r : Rec) (ds is : List Nat) : Nat :=
  match ds, is with
  | d :: t, i :: u => i + shExt r d * linear r t u
  | _, _ => 0

/-- Where an element stands (09 R242). -/
def shAddrInt (r : Rec) (is : List Nat) : Int :=
  (shBase r : Int) + (((shDims r).zip is).map fun p => (p.2 : Int) * shStr r p.1).sum * (shSize r : Int)
/-- The address of an element of a checked shape. -/
def shAddr (r : Rec) (is : List Nat) : Nat := (shAddrInt r is).toNat

/-- Lowest and highest byte a shape reaches, when it has an element. -/
def shSpan (r : Rec) : Int × Int :=
  let reach := (shDims r).map fun d => ((shExt r d : Int) - 1) * shStr r d * (shSize r : Int)
  ((shBase r : Int) + (reach.map fun x => min 0 x).sum, (shBase r : Int) + (reach.map fun x => max 0 x).sum + (shSize r : Int) - 1)

/-- Global index of an element (09 R243). -/
def globalIndex (r : Rec) (is : List Nat) : Nat :=
  let inner := (shDims r).dropLast
  (shOrigin r + is.getLastD 0) * shCount r inner + linear r inner is

/-! ### What each operation accepts (09 R239 R256 R259) -/

/-- Data operations have an opcode of 1 to 9, or 13. -/
def isData (opc : Nat) : Bool := (decide (1 ≤ opc) && decide (opc ≤ 9)) || opc == 13

/-- Levels accepted from a queue (09 R239). -/
def levelOk (opc lvl : Nat) : Bool :=
  match opc with
  | 0x0A => decide (2 ≤ lvl) && decide (lvl ≤ 4)
  | 0x0B => lvl == 3 || lvl == 4
  | 0x0D => lvl == 4
  | _ => decide (1 ≤ lvl) && decide (lvl ≤ 4)

/-- Integer formats. -/
def fmtsInt : List Ty := [.i8, .i16, .i32, .i64]
/-- Float formats. -/
def fmtsFloat : List Ty := [.f16, .bf16, .f32]
/-- Every format. -/
def fmtsAll : List Ty := [.i8, .i16, .i32, .i64, .f16, .bf16, .f32, .t8, .t6]

/-- TEWISE ops of one operand (09 R259). -/
def ewiseOne (op : Nat) : Bool := op == 5 || op == 6 || decide (13 ≤ op)
/-- TEWISE ops whose instruction takes a mode (06 R144 R155). -/
def ewiseMode (op : Nat) : Bool := decide (op ≤ 2) || decide (12 ≤ op)
/-- Formats of a TEWISE op. -/
def ewiseFmts (op : Nat) : List Ty :=
  if op ≤ 6 then fmtsInt ++ fmtsFloat else if op ≤ 11 then fmtsInt else fmtsFloat

/-- Formats accepted for operand 0 A, 1 B or 2 C (09 R256). -/
def operandFmts (opc p0 : Nat) (k : Nat) : List Ty :=
  match opc, k with
  | 1, 2 => [.f32, .i32]
  | 1, _ => arrayTypes
  | 2, _ => ewiseFmts p0
  | 3, _ | 0x0D, _ => fmtsInt ++ fmtsFloat
  | 4, 2 => [.i64]
  | 6, 1 => [.i32, .i64]
  | _, _ => fmtsAll

/-- Operands that an operation has. -/
def hasOperand (opc p0 k : Nat) : Bool :=
  match k with
  | 0 => opc != 9
  | 1 => opc == 1 || opc == 4 || opc == 6 || (opc == 2 && !ewiseOne p0)
  | _ => true

/-- Operands that an operation writes. -/
def writesOperand (opc k : Nat) : Bool := k == 2 || (k == 1 && opc == 4)

/-- Rank an operation fixes for an operand. -/
def fixedRank (opc k : Nat) : Option Nat :=
  match opc, k with
  | 1, _ => some 2
  | 4, 1 | 4, 2 | 6, 1 => some 1
  | _, _ => none

/-! ### Step 3 of R240: fields and parameters -/

/-- The parameter word P0 before any shape is read (09 R256 R259). -/
def p0Ok (opc : Nat) (p0 : Word) : Bool :=
  let op := bitsOf p0 0 8
  match opc with
  | 2 => bitsOf p0 11 53 == 0 && decide (op < 20) && decide (bitsOf p0 8 3 < 4) && (ewiseMode op || bitsOf p0 8 3 == 0)
  | 3 => bitsOf p0 11 53 == 0 && decide (op < 3)
  | 4 => bitsOf p0 32 32 == 0 && decide (1 ≤ bitsOf p0 0 32) && decide (bitsOf p0 0 32 ≤ 65536)
  | 7 => bitsOf p0 3 61 == 0 && decide (bitsOf p0 0 3 < 4)
  | 8 => bitsOf p0 18 46 == 0
  | 9 => true
  | 0x0D => bitsOf p0 8 56 == 0 && decide (op < 3)
  | _ => p0 == 0

/-- Step 3 of 09 R240; `task` says that a tile task pushed the record. -/
def fieldsOk (r : Rec) (task : Bool) : Bool :=
  let w (i : Nat) := Rec_word r i
  let opc := tiOpc r
  let p0 := bitsOf (w 4) 0 8
  let unused (i : Nat) := w i == 0
  let al (i n : Nat) := (w i).toNat % n == 0
  bitsOf (w 0) 20 12 == 0 && bitsOf (w 0) 11 5 == 0 && (!task || tiPrio r == 0) && (opc == 1 || !tiZc r) &&
    levelOk opc (tiLevel r) && al 6 64 &&
    (if isData opc then
      al 1 64 && al 2 64 && al 3 64 && unused 5 && p0Ok opc (w 4) && ([0, 1, 2].all fun k => (w (k + 1) != 0) == hasOperand opc p0 k)
    else if opc = 0x0C then
      ([1, 2, 3, 4, 5].all unused) && bitsOf (w 7) 32 32 == 0 && bitsOf (w 7) 0 32 != 0
    else if opc = 0x0A then al 1 8 && unused 2 && unused 3 && al 5 64
    else
      let b := w 7
      let ent := bitsOf b 32 16
      bitsOf b 48 16 == 0 && bitsOf b 5 11 == 0 &&
        (bitsOf b 16 16 == 0 ||
          (al 1 8 && al 2 64 && al 3 128 && al 5 64 && ent != 0 && decide (ent ≤ 32768) && 2 ^ ent.log2 == ent)))

/-- The operand whose shape record decides whether a parameter is in range: A for an axis, a permutation or the mode of TEWISE, C for
the mode of TCAST (09 R256 R259). -/
def paramOperand (opc : Nat) : Option Nat :=
  match opc with
  | 2 | 3 | 8 => some 0
  | 7 => some 2
  | _ => none

/-- Parameters that a shape record decides; one whose own RANK or FMT is invalid decides nothing, and is refused in step 4
(09 R240 R256; log 54). -/
def paramsOk (opc : Nat) (p0 : Word) (x : Rec) : Bool :=
  let ranked := decide (1 ≤ shRank x) && decide (shRank x ≤ 6)
  match opc with
  | 2 => bitsOf p0 8 3 == 0 || (shFmt x).all (!·.isInt)
  | 3 => !ranked || decide (bitsOf p0 8 3 < shRank x)
  | 7 => bitsOf p0 0 3 == 0 || (shFmt x).all (!·.isTaper)
  | 8 =>
    let r := shRank x
    let ps := (List.range r).map fun d => bitsOf p0 (3 * d) 3
    !ranked || (bitsOf p0 (3 * r) 64 == 0 && (List.range r).all ps.contains)
  | _ => true

/-! ### Step 4 of R240: shape records (09 R244 R245) -/

/-- The sum of 09 R244 over the dimensions inside `d`; an extent of zero counts −1. -/
def innerReach (r : Rec) (d : Nat) : Int :=
  ((List.range d).map fun e => ((shStr r e).natAbs : Int) * ((shExt r e : Int) - 1)).sum

/-- Elements that overlap along dimension `d`. -/
def overlaps (r : Rec) (d : Nat) : Bool :=
  decide (1 < shExt r d) &&
    (if d = 0 then shStr r 0 == 0 else decide (((shStr r d).natAbs : Int) < 1 + innerReach r d))

/-- The first failing check of 09 R244 on operand `k`, as the byte offset of its field; `tq` says that the record runs on TQ with
the window borrowed (09 R272). A rank that the operation does not take is field 9, as one outside 1 to 6 is (09 R244 R256; log 54). -/
def shapeBad (r : Rec) (opc p0 k lvl : Nat) (tq : Bool) : Option Nat :=
  let rank := shRank r
  let fmts := operandFmts opc p0 k
  let fl := recField r 10 1
  let scale := recField r 11 1
  let dims := shDims r
  let beyond := (List.range 6).filter fun d => decide (rank ≤ d)
  let s := shSize r
  let (lo, hi) := shSpan r
  let empty := dims.any fun d => shExt r d == 0
  if rank < 1 || 6 < rank || ((fixedRank opc k).any (· != rank)) then some 9
  else if (match shFmt r with
    | some t => !fmts.contains t
    | none => true) then some 8
  else if fl / 4 ≠ 0 || (shOverlap r && writesOperand opc k) || (shLocal r && lvl != 1) then some 10
  else if !(shTy r).isTaper && !(if shTy r == .i64 then decide (scale < 64) else scale == 0) then some 11
  else
    match beyond.find? fun d => shExt r d != 0 with
    | some d => some (16 + 4 * d)
    | none =>
      match beyond.find? fun d => shStr r d != 0 with
      | some d => some (40 + 4 * d)
      | none =>
        if shBase r % s ≠ 0 || (opc == 1 && shBase r % 128 != 0) then some 0
        else if !empty && (decide (lo < 0) || decide ((if shLocal r then (scratchEnd : Int) else 2 ^ 56) ≤ hi)) then some 0
        else if !empty && shLocal r && tq && decide (0x140000 ≤ hi) then some 0
        else if shOverlap r then none
        else (dims.find? (overlaps r)).map fun d => 40 + 4 * d

/-- The extents C must have, from A and B (09 R256). -/
def wantExt (opc : Nat) (p0 : Word) (a b : Rec) (d : Nat) : Nat :=
  match opc with
  | 3 => if d = bitsOf p0 8 3 then 1 else shExt a d
  | 6 => if d + 1 = shRank a then shExt b 0 else shExt a d
  | 8 => shExt a (bitsOf p0 (3 * d) 3)
  | _ => shExt a d

/-- The first field of B that disagrees with A (09 R245). -/
def crossB (opc : Nat) (p0 : Word) (a b : Rec) : Option Nat :=
  match opc with
  | 1 => if shFmt b ≠ shFmt a then some 8 else if shExt b 1 ≠ shExt a 0 then some 20 else none
  | 2 =>
    if shFmt b ≠ shFmt a then some 8 else if shRank b ≠ shRank a then some 9
    else ((shDims a).find? fun d => shExt b d != shExt a d).map fun d => 16 + 4 * d
  | 4 => if shFmt b ≠ shFmt a then some 8 else if shExt b 0 ≠ bitsOf p0 0 32 then some 16 else none
  | _ => none

/-- The first field of C that disagrees (09 R245). -/
def crossC (opc : Nat) (p0 : Word) (a b c : Rec) : Option Nat :=
  match opc with
  | 1 =>
    if shTy c ≠ (if shTy a == .i8 then .i32 else .f32) then some 8
    else if shExt c 0 ≠ shExt b 0 then some 16 else if shExt c 1 ≠ shExt a 1 then some 20 else none
  | 4 => if shExt c 0 ≠ bitsOf p0 0 32 then some 16 else none
  | 9 =>
    let w := if shTy c == .t6 then 6 else (shTy c).width
    if w < 64 && p0.toNat / 2 ^ w ≠ 0 then some 8 else none
  | _ =>
    if opc ≠ 7 && shFmt c ≠ shFmt a then some 8 else if shRank c ≠ shRank a then some 9
    else ((shDims c).find? fun d => shExt c d != wantExt opc p0 a b d).map fun d => 16 + 4 * d

/-- Every byte of a shape. -/
def shBytes (r : Rec) : List Nat :=
  (List.range (shTotal r)).flatMap fun x =>
    let a := shAddr r (unlinear r (shDims r) x)
    (List.range (shSize r)).map (· + a)

/-- Two shapes share a byte. -/
def shareByte (x y : Rec) : Bool :=
  let (a, b) := shSpan x
  let (c, d) := shSpan y
  shLocal x == shLocal y && shTotal x != 0 && shTotal y != 0 && decide (a ≤ d) && decide (c ≤ b) &&
    (let ys := shBytes y
     (shBytes x).any ys.contains)

/-- The outputs a record writes, as operand numbers, that share a byte with an input (09 R245). -/
def outputBad (opc p0 : Nat) (sh : List Rec) : Option Nat :=
  let out := [1, 2].filter fun k => hasOperand opc p0 k && writesOperand opc k
  let ins := [0, 1].filter fun k => hasOperand opc p0 k && !writesOperand opc k
  out.find? fun o => ins.any fun i =>
    let x := sh.getD o 0
    let y := sh.getD i 0
    shareByte x y && !(opc == 2 && x == y)

/-- The units of an operation (09 R256) and the record with the field of the outermost extent that defines them. -/
def unitsOf (opc : Nat) (sh : List Rec) : Nat × Nat × Nat :=
  let a := sh.getD 0 0
  let b := sh.getD 1 0
  let c := sh.getD 2 0
  match opc with
  | 1 => ((shExt c 1 + 127) / 128 * ((shExt c 0 + 255) / 256), 2, 20)
  | 4 => (shExt a (shRank a - 1), 0, 16 + 4 * (shRank a - 1))
  | 6 => (shExt b 0, 1, 16)
  | _ => (shRows c, 2, 16 + 4 * (shRank c - 1))

/-- What the checks of a data record come to: its run, or the refusal: code, address and field. -/
inductive Check where
  | run (first units : Nat)
  | refuse (code : BitVec 8) (addr : Word) (field : Nat)
  deriving DecidableEq, Repr

/-- The shape checks, cross checks and the run of a data record (09 R240 steps 4 and 5, R244 R245). -/
def checkShapes (r : Rec) (sh : List Rec) (tq : Bool) : Check :=
  let opc := tiOpc r
  let p0 := tiP0 r
  let op := bitsOf p0 0 8
  let at_ (k f : Nat) : Check := .refuse cShape (Rec_word r (k + 1)) f
  let a := sh.getD 0 0
  let b := sh.getD 1 0
  let c := sh.getD 2 0
  let own := [0, 1, 2].findSome? fun k =>
    if hasOperand opc op k then (shapeBad (sh.getD k 0) opc op k (tiLevel r) tq).map fun f => (k, f) else none
  match own with
  | some (k, f) => at_ k f
  | none =>
    match (if hasOperand opc op 1 then crossB opc p0 a b else none) with
    | some f => at_ 1 f
    | none =>
      match crossC opc p0 a b c with
      | some f => at_ 2 f
      | none =>
        match outputBad opc op sh with
        | some k => at_ k 0
        | none =>
          let (u, k, f) := unitsOf opc sh
          if 2 ^ 32 ≤ u then at_ k f
          else if tiRunCnt r = 0 then .run 0 u
          else if u < tiRunFst r + tiRunCnt r then .refuse cField 0 0
          else .run (tiRunFst r) (tiRunCnt r)

end Sys2Proof.Machine
end

