-- ==== Sys2Proof/Machine/Tile.lean ====
section
/-! DEFINITION. Tile instructions as a level takes, checks, deals and computes them (09 R239 to R263, R270, R272, R273), and the
reports they end in (09 R252 to R255, R440). A unit is computed whole when its TILE_COMPLETE comes (log 14). -/

namespace Sys2Proof.Machine

open Host (Outcome)

/-! ### Entries -/

/-- The entry with a number. -/
def State.tile (s : State) (id : Nat) : Option TileEntry := s.tiles.find? (·.id == id)
/-- Replaces an entry; one whose hint has been counted stays so. -/
def State.putTile (s : State) (e : TileEntry) : State :=
  { s with tiles := s.tiles.map fun x => if x.id = e.id then { e with counted := e.counted || x.counted } else x }
/-- Adds an entry. -/
def State.addTile (s : State) (e : TileEntry) : State :=
  { s with tiles := s.tiles ++ [{ e with id := s.nextId }], nextId := s.nextId + 1 }

/-- Records in flight that a queue has taken (13 R338). -/
def State.queued (s : State) (q : TileQueue) : List TileEntry := s.tiles.filter fun e => e.queue == q && e.parent.isNone

/-- Entries of a queue (13 R338). -/
def tileDepth (q : TileQueue) : Nat :=
  match q with
  | .tq _ => 8
  | .dq _ => 32
  | .xq | .pq => 64

/-- The level a queue accepts (08 R231). -/
def queueLevel (q : TileQueue) : Nat :=
  match q with
  | .tq _ => 1
  | .dq _ => 2
  | .xq => 3
  | .pq => 4

/-- The agent whose caches a level uses. -/
def queueAgent (q : TileQueue) : Nat :=
  match q with
  | .tq n => n
  | .dq d => 96 + d
  | .xq | .pq => 96

/-- The issuer of an entry's accesses; only a record that a task has given its own sequencer is the task's own. -/
def TileEntry.issuer (e : TileEntry) : Issuer :=
  { agent := e.core.getD (queueAgent e.queue), ctx := some e.ctx
    other := match e.queue, e.origin.by_ with
      | .tq n, .task m => n != m
      | _, _ => true
    launch := e.origin.byLaunch, unit := e.core.isNone }

/-- The own coordinate of the level that reports; a report without a fault has no path (09 R253 R254; log 48). -/
def TileEntry.located (e : TileEntry) (s : State) (r : Rep) : Rep :=
  if r.code = 0 then { r with level := e.level }
  else
    let r1 := { r with chip := s.chipid.toNat, level := e.level }
    match e.level, e.parent, e.queue with
    | 1, some (_, j), _ => { r1 with dchild := j }
    | 2, _, .dq d => { r1 with die := d }
    | _, _, _ => r1

/-- A failure of its own at the entry's level. -/
def TileEntry.fails (e : TileEntry) (s : State) (code : BitVec 8) (addr : Word) (field : Nat) : TileEntry :=
  { e with checked := true, failed := true
           rep := e.located s { e.rep with code := code, lcode := code, llvl := e.level, laddr := addr, field := field } }

/-- HINTCNT of the core whose task pushed the record gains 1 when a page overrides its hint, once for the record that the task pushed
(07 R179): that of entry `id`, or of the entry whose child it is. -/
def State.noteTile (s : State) (id attr fuel : Nat) : State :=
  match fuel, s.tile id with
  | f + 1, some e =>
    match e.parent, e.origin.by_ with
    | some (p, _), _ => s.noteTile p attr f
    | none, .task c =>
      if hintOver e.origin.hint attr && !e.counted then (s.modCoreAt c Core.countHint).putTile { e with counted := true } else s
    | none, .control _ | none, .regset _ | none, .child _ _ | none, .lead _ _ => s
  | 0, _ | _, none => s

/-- A read of global memory by an entry. -/
def State.tileLoad (s : State) (e : TileEntry) (a n : Nat) : Acc (List Byte) :=
  (s.reach e.issuer .read a n).bind fun t p =>
    .ok ((t.cacheLoad e.issuer a p.1 p.2 e.origin.hint).noteTile e.id p.2 4) (t.physBytes p.1 n)

/-- A write to global memory by an entry, which is a sink of the launch whose task pushed the record (12 R334). -/
def State.tileStore (s : State) (e : TileEntry) (a : Nat) (bs : List Byte) : Acc Unit :=
  (s.reach e.issuer .write a bs.length).bind fun t p =>
    .ok ((((t.physWrite p.1 bs).cacheStore e.issuer a p.1 p.2 e.origin.hint).noteTile e.id p.2 4).sinkBy e.origin 1) ()

/-! ### Checks (09 R240) -/

/-- The shape record of operand `k`; one that cannot be read gives LOAD_FAULT with its own address (09 R240). -/
def State.readShape (s : State) (e : TileEntry) (k : Nat) : Acc Rec :=
  let a := (Rec_word e.rec_ (k + 1)).toNat
  match s.tileLoad e a 64 with
  | .ok t bs => .ok t (recOf bs)
  | .wait t p => .wait t p
  | .fail t _ _ => .fail t cLoad a

/-- The record's shape records in order, read until one of them is invalid; `tq` as for shapeBad. -/
def State.readShapes (s : State) (e : TileEntry) (tq : Bool) (ks : List Nat) : Acc (List Rec) :=
  match ks with
  | [] => .ok s []
  | k :: r =>
    let opc := tiOpc e.rec_
    let op := bitsOf (tiP0 e.rec_) 0 8
    if !hasOperand opc op k then (s.readShapes e tq r).map ((0 : Rec) :: ·)
    else
      (s.readShape e k).bind fun t x =>
        if (shapeBad x opc op k (tiLevel e.rec_) tq).isSome then .ok t [x] else (t.readShapes e tq r).map (x :: ·)

/-- The parameters that a shape record decides are in range (09 R240 step 3). -/
def State.readParams (s : State) (e : TileEntry) : Acc Bool :=
  match paramOperand (tiOpc e.rec_) with
  | none => .ok s true
  | some k => (s.readShape e k).map fun x => paramsOk (tiOpc e.rec_) (tiP0 e.rec_) x

/-- Run `[f, f + u)` of child j of n (09 R246): its first unit and its count. -/
def dealRun (f u n j : Nat) : Nat × Nat := (f + j * u / n, (j + 1) * u / n - j * u / n)

/-- Children of an entry: those of a level with `n` children, in ascending order (09 R246 R247). -/
def State.dealTo (s : State) (e : TileEntry) (n j : Nat) (todo : Nat) (queue : Nat → TileQueue) : State :=
  match todo with
  | 0 => s
  | m + 1 =>
    let (f, u) := dealRun e.first e.units n j
    let s1 :=
      if u = 0 then s
      else
        s.addTile { id := 0, rec_ := childRec e.rec_ f u, queue := queue j, level := e.level - 1, origin := e.origin, ctx := e.ctx
                    phys := false, prio := e.prio, depth := e.depth, parent := some (e.id, j), checked := true
                    shapes := e.shapes, first := f, units := u }
    s1.dealTo e n (j + 1) m queue

/-- The children of an entry with a number, in ascending order. -/
def State.childrenOf (s : State) (id : Nat) : List TileEntry :=
  s.tiles.filter fun e => match e.parent with
    | some (p, _) => p == id
    | none => false

/-- A checked data entry issues its children: a die 24, a chip its dies and theirs (09 R247). -/
def State.deal (s : State) (e : TileEntry) : State :=
  let die (t : State) (x : TileEntry) : State := t.dealTo x 24 0 24 fun _ => x.queue
  match e.level with
  | 2 => die s e
  | 3 =>
    let s1 := s.dealTo e 4 0 4 TileQueue.dq
    (s1.childrenOf e.id).foldl die s1
  | _ => s

/-- A data entry's turn to be checked has come: the accesses of its pusher that precede it have been performed, those of the matrix
queue too, and so has the check of every record that the pusher gave the level before (07 R198, 08 R210, 09 R250). -/
def State.tileReady (s : State) (e : TileEntry) : Bool :=
  s.pusherSettled e.origin e.id && (e.after.all fun id => (s.core (e.core.getD 0)).mq.all (·.id != id)) &&
    s.tiles.all fun x =>
      !(decide (x.id < e.id) && x.queue == e.queue && x.parent.isNone && !x.checked && !x.failed && samePusher x.origin e.origin)

/-- The checks of a data entry that its shape records decide (09 R240 steps 3 to 5). -/
def State.checkTile (s : State) (e : TileEntry) : State :=
  let tq := match e.queue with
    | .tq n => (s.core n).task.isSome
    | .dq _ | .xq | .pq => false
  match (s.readParams e).bind fun t ok => if ok then (t.readShapes e tq [0, 1, 2]).map some else .ok t none with
  | .wait t p => t.putTile { e with page := p }
  | .fail t c a => t.putTile (e.fails t c (BitVec.ofNat 64 a) 0)
  | .ok t none => t.putTile (e.fails t cField 0 0)
  | .ok t (some sh) =>
    match checkShapes e.rec_ sh tq with
    | .refuse code a f => t.putTile (e.fails t code a f)
    | .run f u =>
      let e1 := { e with checked := true, shapes := sh, first := f, units := u }
      (t.putTile e1).deal e1

/-! ### Barriers (09 R270) -/

/-- A TBARRIER record joins the open instance of its scope and tag, opens one, or waits for the one that is full. -/
def State.joinBarrier (s : State) (e : TileEntry) : State :=
  let tag := tiTag e.rec_
  let count := bitsOf (Rec_word e.rec_ 7) 0 32
  match s.barriers.find? fun b => b.scope == e.queue && b.tag == tag with
  | none => { s with barriers := s.barriers ++ [{ scope := e.queue, tag := tag, count := count, members := [e.id] }] }
  | some b =>
    if b.count ≠ count then s.putTile (e.fails s cField 0 0)
    else if b.count ≤ b.members.length then s
    else
      { s with barriers := s.barriers.map fun x =>
          if x.scope == e.queue && x.tag == tag then { x with members := x.members ++ [e.id] } else x }

/-! ### Taking (08 R231, 09 R240 R272 R273) -/

/-- Slots os12 to os15 can be borrowed by a record of TQ (09 R272 R273). -/
def Core.canBorrow (k : Core) : Bool :=
  !k.tq.isEmpty || k.task.isNone || [12, 13, 14, 15].all fun i => k.claim i == Claim.free

/-- The checks of R240 before any shape: the refusal's code. -/
def State.tileRefused (s : State) (q : TileQueue) (r : Rec) (p : Pusher) : Option (BitVec 8) :=
  let borrow := match q with
    | .tq n => (s.core n).canBorrow
    | .dq _ | .xq | .pq => true
  if tiLevel r ≠ queueLevel q || !borrow then some cQueue
  else if tiOpc r = 0 || 13 < tiOpc r then some cOpcode
  else if !fieldsOk r (byTask p) then some cField
  else none

/-- Priority and depth of the work of a record (12 R310 R317). -/
def State.sourceOf (s : State) (r : Rec) (o : Origin) : Nat × Nat :=
  match o.by_ with
  | .task _ =>
    match s.launches.find? (·.num == o.launch) with
    | some l => (l.prio, l.depth + 1)
    | none => (3, 1)
  | .control _ | .regset _ | .child _ _ | .lead _ _ => (tiPrio r, 0)

/-- A data record, a TBARRIER, or a record that is refused, offered to TQ, DQ or XQ; the answer says whether it was taken
(07 R198). -/
def State.offerTile (s : State) (q : TileQueue) (r : Rec) (o : Origin) (ctx : Nat) (phys : Bool) : State × Bool :=
  if tileDepth q ≤ (s.queued q).length then (s, false)
  else
    let (prio, depth) := s.sourceOf r o
    let core := match q with
      | .tq n => some n
      | .dq _ | .xq | .pq => none
    let e : TileEntry :=
      { id := s.nextId, rec_ := r, queue := q, level := queueLevel q, origin := o, ctx := ctx, phys := phys, prio := prio
        depth := depth, core := core
        after := match q with
          | .tq n => ((s.core n).mq.filter fun x => x.op.touches.isSome || x.op.acc == some 3).map (·.id)
          | .dq _ | .xq | .pq => [] }
    match s.tileRefused q r o.by_ with
    | some code => (s.addTile (e.fails s code 0 0), true)
    | none =>
      let s1 := match q with
        | .tq n => (s.addTile e).modCoreAt n fun k => { k with tq := k.tq ++ [s.nextId] }
        | .dq _ | .xq | .pq => s.addTile e
      if tiOpc r = 0x0C then ((s1.putTile { e with checked := true }).joinBarrier { e with checked := true }, true)
      else if s1.tileReady e then (s1.checkTile e, true)
      else (s1, true)

/-! ### Elements (09 R257 to R263) -/

/-- Reads in sequence. -/
def readEach {α β : Type} (s : State) (l : List α) (f : State → α → Acc β) : Acc (List β) :=
  match l with
  | [] => .ok s []
  | x :: r => (f s x).bind fun t y => (readEach t r f).map (y :: ·)

/-- The bits of an element of an operand. -/
def State.tileRead (s : State) (e : TileEntry) (sh : Rec) (is : List Nat) : Acc Nat :=
  let a := shAddr sh is
  let n := shSize sh
  if shLocal sh then (s.padRead e.issuer (e.core.getD 0) a n).map ofBytes
  else (s.tileLoad e a n).map ofBytes

/-- Output bytes of an operand, at its address or its scratchpad offset. -/
def State.tileWrite (s : State) (e : TileEntry) (w : Nat × Nat × List Byte) : Acc Unit :=
  let (k, a, bs) := w
  if shLocal (e.shapes.getD k 0) then
    let n := e.core.getD 0
    .ok (((s.modCoreAt n fun c => c.putPad a bs).noteStore (windowAddr n a) bs.length).sinkBy e.origin 1) ()
  else s.tileStore e a bs

/-- What a unit gives: its output bytes by operand, its flags, and whether an index was out of range. -/
structure UnitOut where
  writes : List (Nat × Nat × List Byte) := []
  flags : Flags := 0
  oor : Bool := false
  deriving DecidableEq, Repr

/-- The output of elements of C. -/
def outOf (c : Rec) (xs : List (List Nat × Val)) (oor : Bool := false) : UnitOut :=
  { writes := xs.map fun p => (2, shAddr c p.1, toBytes (t6Clean (shTy c) p.2.bits) (shSize c))
    flags := xs.foldl (fun a p => a ||| p.2.flags) 0, oor := oor }

/-- Index tuples of row `u` of a shape (09 R242). -/
def rowIndices (c : Rec) (u : Nat) : List (List Nat) :=
  let rest := unlinear c ((shDims c).drop 1) u
  (List.range (shExt c 0)).map fun i => i :: rest

/-- TEWISE on one pair (09 R259). -/
def ewise (t : Ty) (op : Nat) (m : RMode) (x y : Nat) : Val :=
  match op with
  | 0 => addElem t m x y
  | 1 => subElem t m x y
  | 2 => mulElem t m x y
  | 3 => minmaxElem t false x y
  | 4 => minmaxElem t true x y
  | 5 => absElem t x
  | 6 => negElem t x
  | 7 => wrap2 t.width (· &&& ·) x y
  | 8 => wrap2 t.width (· ||| ·) x y
  | 9 => wrap2 t.width (· ^^^ ·) x y
  | 10 => satElem t (· + ·) x y
  | 11 => satElem t (· - ·) x y
  | 12 => divElem t m x y
  | 13 => unary t m frcpN x
  | 14 => unary t m frsqN x
  | 15 => unary t m fsqrtN x
  | 16 => unary t m fexp2N x
  | 17 => unary t m flog2N x
  | 18 => unary t m ftanhN x
  | _ => unary t m fsigmN x

/-- A mode field. -/
def modeOf (n : Nat) : RMode := (RMode.ofBits (BitVec.ofNat 3 n)).getD .rne

/-- The tree of 02 R53 with 2^⌈log₂E⌉ leaves. -/
def reduceOf (t : Ty) (op : Nat) (xs : List Nat) : Val :=
  let levels := if xs.length ≤ 1 then 0 else (xs.length - 1).log2 + 1
  let f := match op with
    | 0 => addElem t .rne
    | 1 => minmaxElem t false
    | _ => minmaxElem t true
  let none_ := match op with
    | 0 => emptyAdd
    | 1 => emptyMin t
    | _ => emptyMax t
  let r := treeNode f (fun i => xs[i]?) 0 levels
  { bits := r.1.getD none_, flags := r.2 }

/-- TCAST on one element (09 R263, 02 R50 R51). -/
def castElem (a c : Rec) (m : RMode) (x : Nat) : Val :=
  let fixA : Int := if shTy a == .i64 then -shScale a else 0
  let fixC : Int := if shTy c == .i64 then shScale c else 0
  encodeElem (shTy c) (shBias c) m (((decodeElem (shTy a) (shBias a) x).scale fixA).scale fixC)

/-- Replaces entry `d` of a list of indices. -/
def setIdx (is : List Nat) (d x : Nat) : List Nat := is.set d x

/-- Consecutive groups of `n`. -/
def groupsOf {α : Type} (n : Nat) (l : List α) (fuel : Nat) : List (List α) :=
  match fuel, l with
  | 0, _ => []
  | _, [] => []
  | f + 1, x :: r => ((x :: r).take n) :: groupsOf n ((x :: r).drop n) f

/-- One element of a TMATMUL tile: its chunks in ascending order of K (09 R258, 02 R55). -/
def tileElem (ta tb : Ty) (ba bb : Int) (int : Bool) (old : Nat) (row col : List Nat) : Val :=
  let ps := (row.zip col).map fun p => (decodeElem ta ba p.1, decodeElem tb bb p.2)
  let step (a : Val) (chunk : List (Num × Num)) : Val :=
    let v := accAdd int (BitVec.ofNat 32 a.bits) (chunkSum chunk)
    { bits := v.bits, flags := a.flags ||| v.flags }
  (groupsOf (chunkLen ta) ps ps.length).foldl step { bits := old }

/-- Tile `t` of a TMATMUL (09 R258). -/
def State.matmulUnit (s : State) (e : TileEntry) (t : Nat) : Acc UnitOut :=
  let a := e.shapes.getD 0 0
  let b := e.shapes.getD 1 0
  let c := e.shapes.getD 2 0
  let tn := (shExt c 0 + 255) / 256
  let rows := (List.range 128).map (· + 128 * (t / tn)) |>.filter fun m => decide (m < shExt c 1)
  let cols := (List.range 256).map (· + 256 * (t % tn)) |>.filter fun n => decide (n < shExt c 0)
  let ks := List.range (shExt a 0)
  (readEach s rows fun u m => readEach u ks fun v k => v.tileRead e a [k, m]).bind fun s1 as =>
  (readEach s1 cols fun u n => readEach u ks fun v k => v.tileRead e b [n, k]).bind fun s2 bs =>
  (readEach s2 rows fun u m => readEach u cols fun v n => if tiZc e.rec_ then .ok v 0 else v.tileRead e c [n, m]).map fun cs =>
    outOf c <| (rows.zip (as.zip cs)).flatMap fun r =>
      (cols.zip (bs.zip r.2.2)).map fun q =>
        ([q.1, r.1], tileElem (shTy a) (shTy b) (shBias a) (shBias b) (shTy a == .i8) q.2.2 r.2.1 q.2.1)

/-- Unit `u` of a data operation other than TTOPK (09 R257 to R263). -/
def State.unitOut (s : State) (e : TileEntry) (u : Nat) : Acc UnitOut :=
  let a := e.shapes.getD 0 0
  let b := e.shapes.getD 1 0
  let c := e.shapes.getD 2 0
  let p0 := tiP0 e.rec_
  let op := bitsOf p0 0 8
  let t := shTy c
  let rows (f : State → List Nat → Acc Val) : Acc UnitOut :=
    (readEach s (rowIndices c u) fun v is => (f v is).map fun x => (is, x)).map fun xs => outOf c xs
  match tiOpc e.rec_ with
  | 1 => s.matmulUnit e u
  | 2 =>
    let m := modeOf (bitsOf p0 8 3)
    rows fun v is => (v.tileRead e a is).bind fun w x =>
      if ewiseOne op then .ok w (ewise t op m x 0) else (w.tileRead e b is).map fun y => ewise t op m x y
  | 3 =>
    let ax := bitsOf p0 8 3
    rows fun v is => (readEach v (List.range (shExt a ax)) fun w i => w.tileRead e a (setIdx is ax i)).map (reduceOf t op)
  | 5 => rows fun v is => (v.tileRead e a is).map plain
  | 6 =>
    (s.tileRead e b [u]).bind fun s1 g =>
      let k : Int := signedOf (shTy b).width g - (shOrigin a : Int)
      let last := shRank a - 1
      let inner := (List.range (shCount c ((shDims c).take last))).map fun x => unlinear c ((shDims c).take last) x
      if k < 0 || (shExt a last : Int) ≤ k then .ok s1 (outOf c (inner.map fun is => (is ++ [u], plain 0)) true)
      else (readEach s1 inner fun v is => (v.tileRead e a (is ++ [k.toNat])).map fun x => (is ++ [u], plain x)).map fun xs => outOf c xs
  | 7 =>
    let m := modeOf (bitsOf p0 0 3)
    rows fun v is => (v.tileRead e a is).map (castElem a c m)
  | 8 =>
    let perm (d : Nat) : Nat := bitsOf p0 (3 * d) 3
    let src (is : List Nat) : List Nat :=
      (List.range (shRank a)).map fun j => ((List.range (shRank a)).find? fun d => perm d == j).elim 0 fun d => is.getD d 0
    rows fun v is => (v.tileRead e a (src is)).map plain
  | _ => rows fun v _ => .ok v (plain (p0.toNat % 2 ^ t.width))

/-! ### TTOPK (09 R261 R262) -/

/-- Key `x` ranks before key `y`; keys are bits and global index (09 R261). -/
def ranksBefore (t : Ty) (bias : Int) (x y : Nat × Nat) : Bool :=
  let a := decodeElem t bias x.1
  let b := decodeElem t bias y.1
  if a.isNan && b.isNan then decide (x.2 < y.2)
  else if a.isNan then true
  else if b.isNan then false
  else if b.lt a then true
  else if a.lt b then false
  else decide (x.2 < y.2)

/-- A key into a ranked list. -/
def rankInsert (t : Ty) (bias : Int) (x : Nat × Nat) (l : List (Nat × Nat)) : List (Nat × Nat) :=
  match l with
  | [] => [x]
  | y :: r => if ranksBefore t bias x y then x :: y :: r else y :: rankInsert t bias x r

/-- The first `k` keys of a list. -/
def topK (t : Ty) (bias : Int) (k : Nat) (xs : List (Nat × Nat)) : List (Nat × Nat) :=
  xs.foldl (fun l x => (rankInsert t bias x l).take k) []

/-- The keys of slice `u` of A. -/
def State.sliceKeys (s : State) (e : TileEntry) (u : Nat) : Acc (List (Nat × Nat)) :=
  let a := e.shapes.getD 0 0
  let inner := (shDims a).dropLast
  readEach s (List.range (shCount a inner)) fun v x =>
    let is := unlinear a inner x ++ [u]
    (v.tileRead e a is).map fun b => (b, globalIndex a is)

/-- The outputs of a ranked record (09 R261). -/
def rankedWrites (e : TileEntry) : List (Nat × Nat × List Byte) :=
  let b := e.shapes.getD 1 0
  let c := e.shapes.getD 2 0
  (List.range (bitsOf (tiP0 e.rec_) 0 32)).flatMap fun i =>
    let key := e.keys[i]?
    let val := (key.map (·.1)).getD 0
    let idx := (key.map (·.2)).getD (2 ^ 64 - 1)
    [(1, shAddr b [i], toBytes (t6Clean (shTy b) val) (shSize b)), (2, shAddr c [i], toBytes idx 8)]

/-! ### Running a core-level entry -/

/-- The lane cluster that computes a unit (09 R246 R247). -/
def TileEntry.laneOf (e : TileEntry) (u : Nat) : Nat :=
  ((List.range 8).find? fun j =>
    let (f, n) := dealRun e.first e.units 8 j
    decide (f ≤ u) && decide (u < f + n)).getD 0

/-- A unit fails: as a lane cluster's fault where the core runs lane clusters, else as the core's own (09 R254). -/
def TileEntry.unitFails (e : TileEntry) (s : State) (code : BitVec 8) (addr : Nat) : TileEntry :=
  let a : Word := BitVec.ofNat 64 addr
  if laneOp (tiOpc e.rec_) && e.done < e.units then
    let j := e.laneOf (e.first + e.done)
    { e with failed := true
             rep := e.located s
               { e.rep with code := cChild, child := code, lcode := code, llvl := 0, lane := j, first := j, nfault := 1, laddr := a } }
  else e.fails s code a 0

/-- How the work of an entry goes on: done, waiting, or failed. -/
inductive TileRun where
  | done (s : State) (e : TileEntry)
  | waits (s : State) (e : TileEntry)
  | failed (s : State) (e : TileEntry)

/-- Output still to be written goes out, in order. -/
def State.flushTile (s : State) (e : TileEntry) (ws : List (Nat × Nat × List Byte)) : TileRun :=
  match ws with
  | [] => .done s { e with writes := [] }
  | w :: r =>
    match s.tileWrite e w with
    | .ok t _ => t.flushTile { e with rep := { e.rep with bytes := e.rep.bytes + w.2.2.length } } r
    | .wait t p => .waits t { e with writes := w :: r, page := p }
    | .fail t c a => .failed t ({ e with writes := [] }.unitFails t c a)

/-- The next `m` units of a core-level entry; a unit reads all it needs before it writes. -/
def State.runUnits (s : State) (e : TileEntry) (m : Nat) : TileRun :=
  match m with
  | 0 => .done s e
  | r + 1 =>
    let u := e.first + e.done
    if tiOpc e.rec_ = 4 then
      let a := e.shapes.getD 0 0
      match s.sliceKeys e u with
      | .ok t ks =>
        t.runUnits { e with done := e.done + 1
                            keys := topK (shTy a) (shBias a) (bitsOf (tiP0 e.rec_) 0 32) (e.keys ++ ks) } r
      | .wait t p => .waits t { e with page := p }
      | .fail t c x => .failed t (e.unitFails t c x)
    else
      match s.unitOut e u with
      | .wait t p => .waits t { e with page := p }
      | .fail t c x => .failed t (e.unitFails t c x)
      | .ok t o =>
        let e1 := { e with rep := { e.rep with flags := e.rep.flags ||| o.flags, oor := e.rep.oor || o.oor } }
        match t.flushTile e1 o.writes with
        | .done v x => v.runUnits { x with done := x.done + 1 } r
        | .waits v x => .waits v x
        | .failed v x => .failed v x

/-- A core-level entry from where it stands: output left over first. -/
def State.runLeaf (s : State) (e : TileEntry) : TileRun :=
  if e.writes.isEmpty then s.runUnits e (e.units - e.done)
  else
    match s.flushTile e e.writes with
    | .done t x =>
      let y := if x.done < x.units && tiOpc e.rec_ ≠ 4 then { x with done := x.done + 1 } else x
      t.runUnits y (y.units - y.done)
    | .waits t x => .waits t x
    | .failed t x => .failed t x

/-- The report of an entry whose children have all completed (09 R254). -/
def TileEntry.combine (e : TileEntry) (s : State) : TileEntry :=
  let bad := e.reports.filter fun p => p.2.code != 0
  let worst := bad.foldl (fun b p => match b with
    | some q => if p.1 < q.1 then some p else some q
    | none => some p) (none : Option (Nat × Rep))
  let sum := (e.reports.map (·.2.bytes)).sum
  let flags := e.reports.foldl (fun a p => a ||| p.2.flags) 0
  let oor := e.reports.any (·.2.oor)
  match worst with
  | none => { e with rep := e.located s { bytes := sum, flags := flags, oor := oor } }
  | some (j, r) =>
    { e with failed := true
             rep := e.located s { r with code := cChild, child := r.code, first := j, nfault := bad.length, bytes := sum
                                         flags := flags, oor := oor, field := 0 } }

/-- The ranked output of a record as taken from a queue (09 R261 R262). -/
def State.writeRanked (s : State) (e : TileEntry) : TileRun :=
  if tiOpc e.rec_ ≠ 4 || e.failed || e.parent.isSome then .done s e
  else if e.ranked && e.writes.isEmpty then .done s e
  else s.flushTile { e with ranked := true } (if e.ranked then e.writes else rankedWrites e)

/-! ### Reports (09 R252 to R255, R440) -/

/-- Words 2 to 7 of a completion block (09 R253). -/
def Rep.bytesOf (r : Rep) (tag : Nat) : List Byte :=
  let w2 := r.code.toNat + 256 * r.child.toNat + 2 ^ 16 * r.level + (if r.oor then 2 ^ 23 else 0) + 2 ^ 24 * r.flags.toNat +
    2 ^ 32 * tag
  let w3 := r.chip + 2 ^ 11 * r.die + 2 ^ 13 * r.dchild + 2 ^ 18 * r.lane + 2 ^ 21 * r.llvl + 2 ^ 24 * r.lcode.toNat
  toBytes w2 8 ++ toBytes w3 8 ++ toBytes r.first 8 ++ toBytes r.nfault 8 ++ toBytes r.laddr.toNat 8 ++ toBytes r.bytes 8

/-- The kind 0x03 record of a report (12 R336 R337); one of a fault of what a control core has pushed names no launch (07 R438). -/
def State.tileRecord (s : State) (o : Origin) (tag : Nat) (cblk : Word) (code : BitVec 8) (r : Rep) : EvRec :=
  let num : Option Nat := match o.own, o.by_ with
    | some n, .control _ => if code = 0 then some n else none
    | some n, .task _ | some n, .regset _ | some n, .child _ _ | some n, .lead _ _ => some n
    | none, .task _ => some o.launch
    | none, .control _ | none, .regset _ | none, .child _ _ | none, .lead _ _ => none
  { kind := 3, code := code, agent := agentNo o.by_, tag := o.tagFor tag, launch := num, slot := (num.map s.slotOf).getD 0
    w2 := cblk, w3 := BitVec.ofNat 64 r.nfault, w4 := BitVec.ofNat 64 r.first, w5 := r.laddr }

/-- The pusher learns of an outcome (09 R255): a fault as the deferred fault of a task that has not completed, and a record when EV
asks for one or a fault reaches no task. A record of the pod level is a child's, which posts none (09 R248, 17 R422). -/
def State.notifyTile (s : State) (o : Origin) (tag : Nat) (cblk : Word) (ev : Bool) (code : BitVec 8) (addr : Word) (r : Rep) :
    State :=
  let rec_ := s.tileRecord o tag cblk code r
  let told : Option State :=
    if code = 0 then some s
    else match o.by_ with
      | .task _ => s.faultTask o.task { code := code, src := o.bundle, addr := addr }
      | .child _ _ | .lead _ _ => some s
      | .control _ | .regset _ => none
  match told with
  | some t => if ev then t.post (s.recordDie o) rec_ else t
  | none => s.post (s.recordDie o) rec_

/-- The issuer that reaches a completion block (09 R440): the level's unit, which only on a tile core belongs to an agent. -/
def cblkIssuer (agent ctx : Nat) (phys : Bool) : Issuer := { agent := agent, ctx := if phys then none else some ctx, unit := decide (96 ≤ agent) }

/-- How a report ends: made, waiting for room in the ring, or waiting for a page or a home. -/
inductive Reported where
  | made (s : State)
  | full (s : State)
  | waits (s : State) (page : Option (Nat × Nat))

/-- A fault of a tile instruction needs a record: it reaches no task, and no pod level (09 R248 R255). -/
def State.mustReport (s : State) (o : Origin) : Bool := !fromPod o.by_ && s.mustPost o

/-- The report and the arrival of an instruction, its words 2 to 7 only when `words` (09 R252 R440). Of chip control space, which no rule
singles out, the model's choice is that a block in management SRAM is reached on the register path and one elsewhere is not (log 86). The
arrival is a sink of the launch whose task pushed the record (12 R334); `note` counts its hint where the block's page overrides that
(07 R179). -/
def State.reportTo (s : State) (i : Issuer) (r : Rec) (o : Origin) (rep : Rep) (x : Nat) (words : Bool) (note : State → Nat → State) :
    Reported :=
  let cblk := tiCblk r
  let tag := tiTag r
  let addr := if rep.code = cChild then cblk else rep.laddr
  if (tiEv r || (rep.code ≠ 0 && s.mustReport o)) && !s.canPost (s.recordDie o) then .full s
  else if cblk = 0 then .made (s.notifyTile o tag cblk (tiEv r) rep.code addr rep)
  else
    match (if i.ctx.isNone && !enginePlace cblk.toNat && placeOf cblk.toNat != .sram then Acc.fail s cEngine cblk.toNat
      else s.reach i .both cblk.toNat 64) with
    | .wait t p => .waits t p
    | .fail t c _ =>
      if (tiEv r || t.mustReport o) && !t.canPost (t.recordDie o) then .full s
      else .made (t.notifyTile o tag cblk (tiEv r) (engineFail c) cblk rep)
    | .ok t (pa, attr) =>
      let t1 := if words then t.physWrite (pa + 16) (rep.bytesOf tag) else t
      match t1.arrive i cblk.toNat x with
      | .ok u _ | .wait u _ | .fail u _ _ =>
        let v := (note (u.cacheStore i cblk.toNat pa attr o.hint) attr).sinkBy o 1
        .made (v.notifyTile o tag cblk (tiEv r) rep.code addr rep)

/-- The completed entry leaves its level: the resources of one that was not refused are given back (09 R272 R273) and its parent takes its
report. A core without a task takes its next one no earlier than now. -/
def State.dropTile (s : State) (e : TileEntry) : State :=
  let s1 := { s with tiles := s.tiles.filter (·.id != e.id) }
  let s2 := match e.parent with
    | none => s1
    | some (p, j) =>
      match s1.tile p with
      | none => s1
      | some x => s1.putTile { x with reports := x.reports ++ [(j, e.rep)], keys := x.keys ++ e.keys }
  match e.core with
  | none => s2
  | some n =>
    let s3 := if (s2.core n).task.isNone then s2.modAgent n fun a => { a with earliest := max a.earliest s.cycle } else s2
    s3.modCoreAt n fun k =>
      let k0 := { k with tq := k.tq.filter (· != e.id) }
      if e.failed && e.shapes.isEmpty then k0
      else
      let k1 := { k0.zeroAcc 3 with
        accInt := k.accInt.drop 3
        scratch := k.scratch.filter fun p => decide (p.1 < 0x140000) }.mend .pad 0x140000 0x40000
      if k.task.isSome then k1
      else
        { k1 with latch := {}, latchOrder := none, slotMem := k1.slotMem.filter fun p => decide (p.1 < 12 * slotSize) }.mend .slot (12 * slotSize) (4 * slotSize)

/-- An entry that has done all its work reports and leaves: to its parent, or to the pusher (09 R252 R255). A record that waits
for room is counted once (12 R335). A refused TLAUNCH or TBIND arrives with 1 as a completed one does (log 49). -/
def State.endTile (s : State) (e : TileEntry) : State :=
  if e.parent.isSome then s.dropTile e
  else
    match s.reportTo (cblkIssuer (queueAgent e.queue) e.ctx e.phys) e.rec_ e.origin e.rep
        (if [0x0A, 0x0B, 0x0C].contains (tiOpc e.rec_) then 1 else e.rep.bytes) true fun t attr => t.noteTile e.id attr 4 with
    | .made t => t.dropTile e
    | .waits t p => t.putTile { e with page := p }
    | .full t =>
      if e.waited then t.putTile e
      else (t.putTile { e with waited := true }).countHold (t.recordDie e.origin)

/-- A record of TQ runs when it is the oldest there, and what its task's side log held when it was taken has drained (09 R250 R272). -/
def State.tileMayRun (s : State) (e : TileEntry) : Bool :=
  match e.core, e.parent with
  | none, _ => false
  | some _, some _ => true
  | some n, none => s.pusherSettled e.origin e.id && (e.failed || (s.core n).tq.head? == some e.id)

/-- What a run of an entry's work comes to. -/
def State.afterRun (s : State) (r : TileRun) : State :=
  let _ := s
  match r with
  | .waits t x => t.putTile x
  | .failed t x => (t.putTile x).endTile x
  | .done t x =>
    let y := { x with rep := x.located t x.rep }
    match t.writeRanked y with
    | .waits u z => u.putTile z
    | .failed u z => (u.putTile z).endTile z
    | .done u z => (u.putTile z).endTile z

/-! ### The records as rows of the opcode table -/

/-- The origin, context and kind of completion block of a tile record (08 R235, 07 R438, 11 R292). A record of the pod level runs in the
context that it had on its origin chip. -/
def State.tileOrigin (s : State) (p : Pusher) (q : TileQueue) : Origin × Nat × Bool :=
  match p with
  | .task m =>
    match (s.core m).task with
    | some t =>
      ({ by_ := p, die := dieOf m, task := t.uid, launch := t.launch, bundle := (s.agent m).bundle }, t.ctx, false)
    | none => ({ by_ := p, die := dieOf m, bundle := (s.agent m).bundle }, 0, false)
  | .control d => ({ by_ := p, die := d }, (s.regsets.get {} d).ctx.toNat, true)
  | .regset n =>
    let x := s.regsets.get {} n
    let o (die : Nat) (roams : Bool) : Origin :=
      { by_ := p, die := die, qw1 := x.qw.get 0 1, tag := x.qw.get 0 2, roams := roams }
    (match q with
      | .tq c => o (dieOf c) false
      | .dq d => o d false
      | .xq | .pq => o (if n < 4 then n else s.evdie) (decide (4 ≤ n)), x.ctx.toNat, true)
  | .child _ _ => ({ by_ := p, die := s.evdie, roams := true }, 0, true)
  | .lead _ ctx => ({ by_ := p, die := s.evdie, roams := true }, ctx, false)

end Sys2Proof.Machine
end

