-- ==== Sys2Proof/Machine/Launch.lean ====
section
/-! DEFINITION. Launches and tasks (09 R264 to R266, 12 R310 to R334): loop tables, the launch queue and active slots, shares and
strands, the choice of work and of a core, dispatch, completion and the reorder window, and the completion of a launch. -/

namespace Sys2Proof.Machine

open Host (Outcome)

/-! ### The loop table (09 R264) -/

/-- Word `i` of a loop table, bits [lo + n − 1 : lo]. -/
def ltBits (t : Rec) (i lo n : Nat) : Nat := bitsOf (Rec_word t i) lo n
/-- LT.EXTi. -/
def ltExt (t : Rec) (i : Nat) : Nat := recField t (4 * i) 4
/-- LT.NLEV. -/
def ltLevels (t : Rec) : Nat := ltBits t 3 0 3
/-- LT.KIND of level i: 0 T, 1 C, 2 D. -/
def ltKind (t : Rec) (i : Nat) : Nat := ltBits t 3 (4 + 2 * i) 2
/-- LT.MODE: stamped. -/
def ltStamped (t : Rec) : Bool := (Rec_word t 3).getLsbD 16
/-- LT.PRIO. -/
def ltPrio (t : Rec) : Nat := ltBits t 3 18 2
/-- LT.REC. -/
def ltRec (t : Rec) : Bool := (Rec_word t 3).getLsbD 20
/-- LT.RPL. -/
def ltRpl (t : Rec) : Bool := (Rec_word t 3).getLsbD 21
/-- LT.FRAME. -/
def ltFrame (t : Rec) : Nat := ltBits t 3 32 32
/-- LT.LOG. -/
def ltLog (t : Rec) : Nat := (Rec_word t 5).toNat
/-- Levels, outermost first. -/
def ltDims (t : Rec) : List Nat := List.range (min (ltLevels t) 6)
/-- The product of the extents of a list of levels. -/
def ltProd (t : Rec) (l : List Nat) : Nat := l.foldl (fun p i => p * ltExt t i) 1
/-- Levels of a kind. -/
def ltOf (t : Rec) (k : Nat) : List Nat := (ltDims t).filter fun i => ltKind t i == k
/-- Tasks of a launch. -/
def ltTotal (t : Rec) : Nat := ltProd t (ltDims t)

/-- Coordinates of a tidx: row-major, level 0 slowest (12 R315). -/
def coordsOf (t : Rec) (x : Nat) : List Nat :=
  (ltDims t).map fun i => x / ltProd t ((ltDims t).filter fun j => decide (i < j)) % ltExt t i

/-- Row-major index over some levels of a task's coordinates. -/
def indexOver (t : Rec) (ls : List Nat) (cs : List Nat) : Nat := ls.foldl (fun a i => a * ltExt t i + cs.getD i 0) 0

/-- The number of the D tuple of a task, and of its strand: its C and D coordinates (12 R315). -/
def strandOf (t : Rec) (x : Nat) : Nat :=
  indexOver t ((ltDims t).filter fun i => ltKind t i != 0) (coordsOf t x)

/-- The layout of a loop table (09 R264, 12 R325 R331). -/
def tableOk (t : Rec) : Bool :=
  let n := ltLevels t
  decide (n ≤ 6) && ltBits t 3 3 1 == 0 && ltBits t 3 22 10 == 0 && ltBits t 4 32 32 == 0 && ltBits t 4 0 3 == 0 &&
    Rec_word t 6 == 0 && Rec_word t 7 == 0 &&
    ((List.range 6).all fun i => if i < n then ltKind t i != 3 else ltKind t i == 0 && ltExt t i == 0) &&
    !(ltRec t && ltRpl t) &&
    (if ltStamped t then decide (1 ≤ ltFrame t) && decide (ltFrame t ≤ 65536) && !ltRec t && !ltRpl t else ltFrame t == 0) &&
    (if ltRec t || ltRpl t then ltLog t % 64 == 0 else ltLog t == 0)

/-! ### Shares (09 R265, 12 R315) -/

/-- TBIND. -/
def Launch.isBind (l : Launch) : Bool := tiOpc l.rec_ == 0x0B
/-- TB.N. -/
def bindN (r : Rec) : Nat := bitsOf (Rec_word r 7) 16 16
/-- TB.RQ. -/
def bindRq (r : Rec) : Nat := bitsOf (Rec_word r 7) 0 5
/-- TB.ENT. -/
def bindEnt (r : Rec) : Nat := bitsOf (Rec_word r 7) 32 16

/-- Task `x` lies in the share of die `d`. -/
def inShare (t : Rec) (onDie : Option Nat) (d x : Nat) : Bool :=
  match onDie with
  | some e => d == e
  | none =>
    let ds := ltOf t 2
    if ds.isEmpty then d == 0
    else
      let (f, n) := dealRun 0 (ltProd t ds) 4 d
      let k := indexOver t ds (coordsOf t x)
      decide (f ≤ k) && decide (k < f + n)

/-- Strands of die `d`. -/
def strandsOn (t : Rec) (onDie : Option Nat) (d : Nat) : Nat :=
  let cs := ltProd t (ltOf t 1)
  let ds := ltOf t 2
  match onDie with
  | some e => if d = e then cs * ltProd t ds else 0
  | none => if ds.isEmpty then (if d = 0 then cs else 0) else cs * (dealRun 0 (ltProd t ds) 4 d).2

/-- The first task of a share from `x` on, among the next `n`. -/
def firstFrom (t : Rec) (onDie : Option Nat) (d x n : Nat) : Option Nat :=
  match n with
  | 0 => none
  | m + 1 => if inShare t onDie d x then some x else firstFrom t onDie d (x + 1) m

/-- The ordinal of a task in its die's share. -/
def ordinalOf (l : Launch) (d x : Nat) : Nat :=
  if l.isBind then x else ((List.range x).filter (inShare l.table l.onDie d)).length

/-- The next undispatched task of a die's share; for a binding, once its deliveries are complete (09 R267). -/
def Launch.nextTask (l : Launch) (d : Nat) : Option Nat :=
  let x := l.next.get 0 d
  if l.isBind then (if d = 0 && (x + 1) * bindN l.rec_ ≤ l.delivered then some x else none)
  else firstFrom l.table l.onDie d x (ltTotal l.table - x)

/-- Nothing stops a launch from dispatching a task of index `x` (12 R314 R318 R333). -/
def Launch.mayDispatch (l : Launch) (x : Nat) : Bool :=
  l.active && l.abort.isNone && !l.halted && match l.bound with
    | some b => decide (x < b)
    | none => true

/-- A task of the launch is still to be dispatched: for a binding, a group that is complete (12 R318 R319). -/
def Launch.undispatched (l : Launch) : Bool :=
  l.abort.isNone &&
    if l.isBind || !ltStamped l.table then
      (List.range 4).any fun d => match l.nextTask d with
        | some x => match l.bound with
          | some b => decide (x < b)
          | none => true
        | none => false
    else
      -- a stamped launch goes on strand by strand
      (List.range (ltTotal l.table)).any fun x =>
        decide (l.next.get 0 (strandOf l.table x) ≤ x) && match l.bound with
          | some b => decide (x < b)
          | none => true

/-! ### The watchdog clock (12 R334) -/

/-- A task of the launch is dispatched and not stopped for priority or by eviction; the clock stands in debug halt (16 R417). -/
def State.ticking (s : State) (num : Nat) : Bool :=
  !s.dbgHalt && ((s.cores.any fun p => match p.2.task with
    | some t => t.launch == num
    | none => false) ||
  (s.dies.any fun p => p.2.saved.any fun x => x.task.launch == num && x.cause != 1 && x.cause != 2))

/-- The clock runs or stands after a task has been dispatched, stopped or completed; it stands while the clock pauses (13 R351). -/
def State.touchClock (s : State) (num : Nat) : State :=
  let run := s.ticking num
  s.modLaunch num fun l =>
    match l.clockFrom, run with
    | none, true => { l with clockFrom := some s.counted }
    | some c, false => { l with clockFrom := none, clockAcc := l.clockAcc + (s.counted - c) }
    | none, false | some _, true => l

/-- WATCHDOG_EXPIRY: the clock of an active launch has reached WDOGINT: a hang report, and the clock starts again (12 R334). -/
def execWatchdogExpiry (num : Nat) (s : State) : Outcome State Fault Refusal :=
  let s1 := s.touchClock num
  (Eff.done (match s1.launch num with
    | none => s1
    | some l =>
      let run := l.clockAcc + (match l.clockFrom with
        | some c => s1.now - c
        | none => 0)
      let lowest := (s1.cores.filterMap fun p => match p.2.task with
        | some t => if t.launch = num then some t.tidx else none
        | none => none) ++ (s1.dies.flatMap fun p => p.2.saved.filterMap fun x => if x.task.launch = num then some x.task.tidx else none)
      if !l.active || s.paused || run < s1.wdog * 1000 then s1
      else
        (s1.modLaunch num fun l => { l with clockAcc := 0, clockFrom := l.clockFrom.map fun _ => s1.now }).post s1.evdie
          { kind := 11, code := cWatchdog, launch := num, slot := l.place, tag := l.origin.tagFor (tiTag l.rec_), w2 := BitVec.ofNat 64 l.sinkKind
            w3 := BitVec.ofNat 64 l.sinkTime, w4 := BitVec.ofNat 64 (lowest.foldl min (lowest.headD 0)) })).out

/-! ### Decision logs (12 R331 to R333) -/

/-- The issuer of the accesses of a launch as a whole. -/
def Launch.issuer (l : Launch) : Issuer := { agent := 96 + l.onDie.getD 0, ctx := some l.ctx, launch := some l.num, unit := true }

/-- A record of a launch waits for room in die `d`'s ring, which is counted once (12 R335). -/
def State.launchWaits (s : State) (num d : Nat) : State :=
  if (s.launch num).any (·.waited) then s else (s.modLaunch num fun x => { x with waited := true }).countHold d

/-- An access to the decision log of a launch waits, for a page if one is absent (11 R302). -/
def State.logWaits (s : State) (num : Nat) (p : Option (Nat × Nat)) : State :=
  if p.isSome then s.modLaunch num fun x => { x with page := p } else s

/-- A decision is recorded; `e` is word 0 of its entry and `v` word 1 (12 R331 R332). A buffer that cannot be written keeps
nothing (log 32). The record of a log that is full waits for room, and the decision with it (12 R335). -/
def State.recordDecision (s : State) (num e v : Nat) : Acc Unit :=
  match s.launch num with
  | none => .ok s ()
  | some l =>
    if !ltRec l.table || l.logTrunc then .ok s ()
    else if l.logLost then .ok (s.modLaunch num fun x => { x with logLost := false }) ()
    else
      let i := l.issuer
      let a := ltLog l.table
      match (if s.unanswered (dieOf i.agent) l.page then .wait s none else s.readMem i .read a 4) with
      | .wait t p => .wait (t.logWaits num p) p
      | .fail t _ _ => .ok t ()
      | .ok t bs =>
        if ofBytes bs ≤ l.logCount then
          if !t.canPost s.evdie then .wait (t.launchWaits num s.evdie) none
          else match t.writeMem i (a + 16) (toBytes 1 8) with
          | .wait u p => .wait (u.logWaits num p) p
          | .fail u _ _ | .ok u _ =>
            .ok ((u.modLaunch num fun l => { l with logTrunc := true, waited := false }).post s.evdie
              { kind := 13, launch := num, slot := l.place, tag := l.origin.tagFor (tiTag l.rec_), w2 := BitVec.ofNat 64 (ofBytes bs) }) ()
        else
          match t.writeMem i (a + 64 + 16 * l.logCount) (toBytes e 8 ++ toBytes v 8) with
          | .wait u p => .wait (u.logWaits num p) p
          | .fail u _ _ => .ok u ()
          | .ok u _ => .ok (u.modLaunch num fun l => { l with logCount := l.logCount + 1 }) ()

/-- What the next entry of a replayed stream says: no replay, an entry with its index and words, that the stream has run out, or that
the log cannot be read now. -/
inductive Replay where
  | off
  | entry (j : Nat) (e v : Nat)
  | over (j : Nat)
  | waits
  deriving DecidableEq, Repr

/-- The key of a stream: its kind with the die, the queue or the object. -/
def streamKey (kind x : Nat) : Nat := 4 * x + kind

/-- The stream an entry belongs to (12 R331 R332). -/
def entryStream (e : Nat) : Nat :=
  let k := e % 256
  match k with
  | 1 => streamKey 1 (e / 2 ^ 8 % 4)
  | 2 => streamKey 2 (e / 2 ^ 17 % 32)
  | _ => streamKey 3 (e / 2 ^ 22 % 2 ^ 40)

/-- The first entry of a stream from index `j` on, among `n`. -/
def State.seekEntry (s : State) (i : Issuer) (a key j n : Nat) : Acc (Option (Nat × Nat × Nat)) :=
  match n with
  | 0 => .ok s none
  | m + 1 =>
    (s.readMem i .read (a + 64 + 16 * j) 16).bind fun t bs =>
      let e := ofBytes (bs.take 8)
      if entryStream e = key then .ok t (some (j, e, ofBytes (bs.drop 8))) else t.seekEntry i a key (j + 1) m

/-- The next entry of a stream of a launch, with what reading it has left (12 R333). -/
def State.replayOf (s : State) (l : Launch) (key : Nat) : State × Replay :=
  if !ltRpl l.table || l.replayOff then (s, .off)
  else if l.logLost then (s.modLaunch l.num fun x => { x with logLost := false }, .over 0)
  else
    let i := l.issuer
    let a := ltLog l.table
    match (if s.unanswered (dieOf i.agent) l.page then .wait s none else s.readMem i .read a 24) with
    | .wait t p => (t.logWaits l.num p, .waits)
    | .fail t _ _ => (t, .over 0)
    | .ok t bs =>
      let count := ofBytes ((bs.drop 8).take 4)
      let trunc := ofBytes ((bs.drop 16).take 1) % 2 == 1
      let j := l.streams.get 0 key
      match t.seekEntry i a key j (count - j) with
      | .ok u (some (k, e, v)) => (u, .entry k e v)
      | .ok u none => (u, if trunc then .off else .over count)
      | .wait u p => (u.logWaits l.num p, .waits)
      | .fail u _ _ => (u, .over 0)

/-- The stream has used its entry `j`. -/
def State.tookEntry (s : State) (num key j : Nat) : State :=
  s.modLaunch num fun l => { l with streams := l.streams.set 0 key (j + 1) }

/-- Changes every core that the state lists. -/
def State.modAllCores (s : State) (f : Core → Core) : State := (s.cores.map (·.1)).foldl (fun t n => t.modCoreAt n f) s

/-- A stop for YIELD or for a wait, which is given up where no save slot beyond the kept ones is free (12 R319 R322). -/
def softStop (cause : Nat) : Bool := cause == 3 || cause == 5

/-- A task has to stop for a cause: that takes the place of a stop that could be given up, and of no other (12 R319 R333). -/
def Task.askStop (t : Task) (cause : Nat) : Task :=
  { t with stopAsked := some (match t.stopAsked with
    | some c => if softStop c then cause else c
    | none => cause) }

/-- A task of a launch is asked to stop, for a cause (12 R319). -/
def Core.askStop (k : Core) (num cause : Nat) : Core :=
  match k.task with
  | some t => if t.launch = num then { k with task := some (t.askStop cause) } else k
  | none => k

/-- A replay mismatch halts the launch: its running tasks are stopped and saved, and a record is posted (12 R333). What waits in a launch
that is halted already waits on. -/
def State.mismatch (s : State) (l : Launch) (j kind : Nat) (who : Nat) : State :=
  if l.halted then s
  else
  let s1 := s.modLaunch l.num fun x => { x with halted := true }
  let s2 := s1.modAllCores fun k => k.askStop l.num 4
  s2.post s.evdie { kind := 12, code := cReplay, launch := l.num, slot := l.place, tag := l.origin.tagFor (tiTag l.rec_), w2 := BitVec.ofNat 64 j
                    w3 := BitVec.ofNat 64 kind, w4 := BitVec.ofNat 64 who }

/-! ### Taking a launch (12 R310 R311) -/

/-- A free LQ entry for a depth (12 R311). -/
def State.lqPlace (s : State) (depth : Nat) : Option Nat :=
  let free (p : Nat) : Bool := s.launches.all fun l => l.active || l.place != p
  match (List.range 192).find? free with
  | some p => some p
  | none => if depth = 0 then none else ((List.range 8).map (· + 192 + 8 * (depth - 1))).find? free

/-- A free active slot for a depth (12 R312). -/
def State.slotPlace (s : State) (depth : Nat) : Option Nat :=
  let free (p : Nat) : Bool := s.launches.all fun l => !l.active || l.place != p
  match (List.range 56).find? free with
  | some p => some p
  | none => if depth ≠ 0 && free (55 + depth) then some (55 + depth) else none

/-- The binding of a receive queue (09 R269). -/
def State.boundTo (s : State) (q : Nat) : Option Launch :=
  s.launches.find? fun l => l.isBind && bindRq l.rec_ == q && bindN l.rec_ != 0 && l.unbound.isNone

/-- The checks of a launch record past its queue's: opcode, fields, context, depth and loop table (09 R240 R264 R266, 11 R292,
12 R310 R325). `hint` says that the table's page overrides the record's hint, which is counted once it is taken (07 R179). -/
inductive LaunchCheck where
  | ok (s : State) (table : Rec) (hint : Bool)
  | refuse (s : State) (code : BitVec 8) (addr : Nat)
  | wait (s : State) (page : Option (Nat × Nat))

/-- HINTCNT of the core that pushed a launch gains 1 where the page of its completion block overrides its hint, unless its loop table's page
has done so (07 R179). -/
def State.noteLaunch (s : State) (num attr : Nat) : State :=
  match s.launch num with
  | none => s
  | some l =>
    match l.origin.by_ with
    | .task c =>
      if hintOver l.origin.hint attr && !l.counted then (s.modCoreAt c Core.countHint).modLaunch num fun x => { x with counted := true } else s
    | .control _ | .regset _ | .child _ _ | .lead _ _ => s

/-- HINTCNT of the core that pushed a launch record gains 1 (07 R179). -/
def State.countLaunchHint (s : State) (o : Origin) (hint : Bool) : State :=
  match o.by_ with
  | .task c => if hint then s.modCoreAt c Core.countHint else s
  | .control _ | .regset _ | .child _ _ | .lead _ _ => s

/-- The checks in order. -/
def State.checkLaunch (s : State) (agent : Nat) (r : Rec) (o : Origin) (ctx depth lvl : Nat) : LaunchCheck :=
  let opc := tiOpc r
  if 8 < depth || !(s.ctxroot.get 0 ctx).getLsbD 0 then .refuse s cQueue 0
  else if !fieldsOk r (byTask o.by_) then .refuse s cField 0
  else
    let q := bindRq r
    if opc = 0x0B && bindN r = 0 then (if (s.boundTo q).isSome then .ok s 0 false else .refuse s cQueue 0)
    else
      let a := (Rec_word r 5).toNat
      let i : Issuer := { agent := agent, ctx := some ctx, unit := decide (96 ≤ agent) }
      match (s.reach i .read a 64).bind fun t p => .ok (t.cacheLoad i a p.1 p.2 o.hint) (t.physBytes p.1 64, p.2) with
      | .wait t p => .wait t p
      | .fail t _ _ => .refuse t cLoad a
      | .ok t (bs, attr) =>
        let hint := hintOver o.hint attr
        let tb := recOf bs
        let bad :=
          !tableOk tb ||
          (opc == 0x0B && (ltLevels tb != 0 || ltStamped tb)) ||
          (opc == 0x0A && lvl == 2 && (ltOf tb 2).any fun i => decide (1 < ltExt tb i)) ||
          (ltStamped tb && (List.range 4).any fun d => decide (24 < strandsOn tb (if lvl = 2 then some d else none) d))
        if bad then .refuse (t.countLaunchHint o hint) cField 0
        else if opc = 0x0B && (t.boundTo q).isSome then .refuse (t.countLaunchHint o hint) cQueue 0
        else .ok t tb hint

/-- A checked record takes an LQ entry (12 R310); `hint` says that its overridden hint is counted (07 R179). -/
def State.takeLaunch (s0 : State) (r tb : Rec) (o : Origin) (ctx depth prio : Nat) (scope : Option TileQueue) (lvl : Nat)
    (onDie : Option Nat) (phys : Bool) (place : Nat) (hint : Bool) : State :=
  let s := s0.countLaunchHint o hint
  let num := s.launchNext
  let unbind := tiOpc r = 0x0B && bindN r = 0
  let l : Launch :=
    { num := num, depth := depth, prio := if unbind then prio else max prio (ltPrio tb), ctx := ctx, rec_ := r, table := tb
      id := s.nextId, origin := o, scope := scope, level := lvl, onDie := onDie, phys := phys, place := place
      counted := hint }
  let mark := match s.boundTo (bindRq r) with
    | some b => if unbind then s.modLaunch b.num fun x => { x with unbound := some num } else s
    | none => s
  let pushed := match o.by_ with
    | .task _ => mark.modTask o.task fun t => { t with pushed := num :: t.pushed }
    | .control _ | .regset _ | .child _ _ | .lead _ _ => mark
  { pushed with launches := pushed.launches ++ [l], launchNext := num + 1, nextId := s.nextId + 1 }.post s.evdie
    { kind := 1, agent := agentNo o.by_, slot := place, tag := o.tagFor (tiTag r), launch := num
      w2 := (match o.by_ with
        | .regset _ => o.qw1
        | .task _ | .control _ | .child _ _ | .lead _ _ => 0)
      w3 := BitVec.ofNat 64 (256 * depth + l.prio), w4 := Rec_word r 4, w5 := tiCblk r }

/-- A refused or waiting launch record stands as a tile entry that reports its refusal (09 R240). -/
def State.launchEntry (s : State) (q : TileQueue) (r : Rec) (o : Origin) (ctx prio depth : Nat) (phys : Bool) : TileEntry :=
  { id := s.nextId, rec_ := r, queue := q, level := tiLevel r, origin := o, ctx := ctx, phys := phys, prio := prio, depth := depth }

/-- A TLAUNCH or TBIND of level 2 or 3 offered to a queue; `lq` says that it came by LQ, `die` the die that a level-2 record runs
on (09 R265, 12 R310). One whose loop table waits for a page, or whose pusher's accesses are still under way, is taken and is checked
when they have been performed (11 R299, 09 R250; log 29). One for which LQ has no room leaves the state as it was (07 R198). -/
def State.offerLaunch (s : State) (q : TileQueue) (lq : Bool) (r : Rec) (o : Origin) (ctx : Nat) (phys : Bool) (die : Nat) :
    State × Bool :=
  let (prio, depth0) := s.sourceOf r o
  let depth := if tiOpc r = 0x0B then 0 else depth0
  let lvl := tiLevel r
  let e := s.launchEntry q r o ctx prio depth phys
  let refuse (t : State) (code : BitVec 8) (addr : Nat) : State × Bool :=
    (t.addTile (e.fails t code (BitVec.ofNat 64 addr) 0), true)
  let later (t : State) (p : Option (Nat × Nat)) : State × Bool :=
    if (s.lqPlace depth).isNone then (s, false) else (t.addTile { e with launch := some (lq, die), page := p }, true)
  if (if lq then decide (5 ≤ lvl) || tiOpc r != 0x0A else lvl != queueLevel q) then refuse s cQueue 0
  else if !s.tileReady e then later s none
  else
    match s.checkLaunch (queueAgent q) r o ctx depth lvl with
    | .wait t p => later t p
    | .refuse t code a => refuse t code a
    | .ok t tb hint =>
      match t.lqPlace depth with
      | none => (s, false)
      | some place =>
        let scope := if lq then none else some q
        (t.takeLaunch r tb o ctx depth prio scope lvl (if lvl = 2 then some die else none) phys place hint, true)

/-- A launch record that has had to wait is checked, and takes its LQ entry once there is one (12 R310). -/
def State.retryLaunch (s : State) (e : TileEntry) (lq : Bool) (die : Nat) : State :=
  let lvl := tiLevel e.rec_
  if !s.tileReady e then s
  else
    match s.checkLaunch (queueAgent e.queue) e.rec_ e.origin e.ctx e.depth lvl with
    | .wait t p => t.putTile { e with page := p }
    | .refuse t code a => t.putTile ({ e with launch := none }.fails t code (BitVec.ofNat 64 a) 0)
    | .ok t tb hint =>
      match t.lqPlace e.depth with
      | none => t.putTile { e with page := none }
      | some place =>
        { t with tiles := t.tiles.filter (·.id != e.id) }.takeLaunch e.rec_ tb e.origin e.ctx e.depth e.prio
          (if lq then none else some e.queue) lvl (if lvl = 2 then some die else none) e.phys place hint

/-! ### Completion of a launch (09 R252 R254 R268, 12 R314 R318) -/

/-- The report of a launch whose tasks have been reported (09 R254, 12 R314). -/
def State.launchRep (s : State) (l : Launch) : Rep :=
  let chip := s.chipid.toNat
  match l.abort, l.first with
  | some c, _ =>
    { code := c, lcode := c, llvl := l.level, level := l.level, chip := chip, nfault := l.aborted, first := l.abortFirst.getD 0 }
  | none, some f =>
    { code := cChild, child := f.code, lcode := f.code, llvl := 1, level := l.level, chip := chip, die := f.die, first := f.tidx
      nfault := l.nfault, laddr := f.addr }
  | none, none => { level := l.level }

/-- A task of index `x` of the launch runs or is stopped. -/
def State.holdsTask (s : State) (num : Nat) (p : Nat → Bool) : Bool :=
  (s.cores.any fun c => match c.2.task with
    | some t => t.launch == num && p t.tidx
    | none => false) ||
  s.dies.any fun d => d.2.saved.any fun x => x.task.launch == num && p x.task.tidx

/-- Every dispatched task has been reported: none runs, is stopped, or stands in a reorder window (12 R318). -/
def State.allReported (s : State) (l : Launch) : Bool := l.done.isEmpty && !s.holdsTask l.num fun _ => true

/-- The launch has nothing left to do: an unbind waits for its binding, and a binding for its unbind. -/
def State.isOver (s : State) (l : Launch) : Bool :=
  (l.active || l.abort.isSome) && s.allReported l && !l.undispatched && (!l.isBind || l.unbound.isSome || l.abort.isSome)

/-- The number of tasks of a launch that have been dispatched, which at its completion have all been reported. -/
def Launch.reported (l : Launch) : Nat := ((List.range 4).map fun d => l.sent.get 0 d).sum

/-- The kind 0x02 record of a launch (12 R337). -/
def State.doneRecord (s : State) (l : Launch) (r : Rep) : EvRec :=
  let _ := s
  { kind := 2, code := r.code, slot := if l.active then l.place else 0, tag := l.origin.tagFor (tiTag l.rec_), launch := l.num, w2 := tiCblk l.rec_
    w3 := BitVec.ofNat 64 l.reported, w4 := BitVec.ofNat 64 r.first, w5 := r.laddr }

/-- A core is released by its stamped launch: the window that runs is the last one it is held at 64 in, and a pending cadence takes
effect (12 R327, 13 R343 R348). -/
def State.releaseCore (s : State) (n : Nat) : State :=
  (s.settleCore n (s.ranTo n)).modCoreAt n fun c =>
    { c.governTo s.ramp none s.arrayCycle 200 with
      gatheredFor := none, cad := if c.pv then c.pendCad else c.cad, cadFrom := if c.pv then 0 else c.cadFrom, pv := false }

/-- The launch leaves: its slot is free, and the cores held for it are released. -/
def State.dropLaunch (s : State) (num : Nat) : State :=
  ((s.cores.filter fun p => p.2.gatheredFor == some num).map (·.1)).foldl State.releaseCore
    { s with launches := s.launches.filter (·.num != num) }

/-- The issuer of a launch's completion block. -/
def Launch.blockIssuer (l : Launch) : Issuer := { cblkIssuer (96 + l.onDie.getD 0) l.ctx l.phys with launch := some l.num }

/-- A launch whose tasks have all been reported completes: its report, its arrival, its record (12 R318). A binding completes with
its unbind, whose block takes the combined report (09 R268). While the ring has no room for all the records that this may post, it waits
(12 R335). -/
def State.tryFinish (s : State) (num : Nat) : State :=
  match s.launch num with
  | none => s
  | some l =>
    if !s.isOver l || s.unanswered (dieOf l.issuer.agent) l.page then s
    else
      let target := (match l.unbound with
        | some u => s.launch u
        | none => none).getD l
      let records := (if target.num = num then 1 else 2) + (if s.recordDie target.origin = s.evdie then 1 else 0)
      if !s.hasRoom s.evdie records then s.launchWaits num s.evdie
      else
      let report (t0 : State) : State :=
        match t0.reportTo target.blockIssuer target.rec_ { target.origin with own := some target.num } (t0.launchRep l) 1 true
            fun t attr => t.noteLaunch target.num attr with
        | .full t => t.launchWaits num (t.recordDie target.origin)
        | .waits t p => t.modLaunch num fun x => { x with page := p }
        | .made t =>
          let t1 := (t.post s.evdie (t.doneRecord l (t.launchRep l))).dropLaunch num
          if target.num = num then t1 else (t1.post s.evdie (t1.doneRecord target (t.launchRep l))).dropLaunch target.num
      if !ltRec l.table then report s
      else
        match s.writeMem l.issuer (ltLog l.table + 8) (toBytes l.logCount 8) with
        | .wait t p => t.modLaunch num fun x => { x with page := p }
        | .ok t _ | .fail t _ _ => report t

/-! ### Activation (12 R312 R326) -/

/-- No core-level record is on the core, which takes no task before (09 R272 R273). -/
def State.tileFree (s : State) (n : Nat) : Bool := (s.core n).tq.isEmpty && s.tiles.all fun e => e.core != some n

/-- A core is online and may take work of a launch (12 R316). -/
def State.eligible (s : State) (n : Nat) (num : Option Nat) : Bool :=
  let k := s.core n
  decide (n < 96) && k.power == 0 && k.tallow != 0 && k.task.isNone && s.tileFree n &&
    match k.gatheredFor with
    | none => true
    | some g => num == some g

/-- The start time of a launch (09 R265). -/
def Launch.start (l : Launch) : Nat := if l.isBind then 0 else (Rec_word l.rec_ 7).toNat

/-- The record of the taking of a launch still waits for room in a ring (12 R310 R335). -/
def State.takingWaits (s : State) (num : Nat) : Bool :=
  s.dies.any fun p => p.2.evWait.any fun r => r.kind == 1 && r.launch == some num && r.waited

/-- Conditions 1 and 3 of 12 R312 for a launch in LQ, and 13 R350 step 1; its taking is done with (12 R335). A stamped launch gathers
cores while they hold: the gathering may end before the start time (12 R326; log 88). -/
def State.mayGather (s : State) (l : Launch) : Bool :=
  !l.active && !(l.isBind && bindN l.rec_ == 0) && l.abort.isNone && (s.slotPlace l.depth).isSome && !s.takingWaits l.num &&
    (!s.gate.getLsbD l.prio || l.released) && (!ltStamped l.table || s.clk.isNone)

/-- Conditions 1 to 3 of 12 R312 for a launch in LQ, and 13 R350 step 1; its taking is done with (12 R335). -/
def State.canActivate (s : State) (l : Launch) : Bool := s.mayGather l && decide (l.start ≤ s.now)

/-- Priority order, then launch-number order. -/
def Launch.before (a b : Launch) : Bool := decide (a.prio < b.prio) || (a.prio == b.prio && decide (a.num < b.num))

/-- The launch moves to an active slot. -/
def State.activate (s : State) (l : Launch) : State :=
  match s.slotPlace l.depth with
  | none => s
  | some p => s.modLaunch l.num fun x => { x with active := true, place := p, sinkTime := s.now }

/-- The strands of a die's share, as their numbers. -/
def strandsList (t : Rec) (onDie : Option Nat) (d : Nat) : List Nat :=
  ((List.range (ltTotal t)).filter (inShare t onDie d)).foldl (fun l x =>
    if l.contains (strandOf t x) then l else l ++ [strandOf t x]) []

/-- The eligible core with the highest tallow, the lowest number of its equals (12 R316). -/
def State.bestCore (s : State) (d : Nat) (num : Option Nat) : Option Nat :=
  (((List.range 24).map (· + 24 * d)).filter fun n => s.eligible n num).foldl (fun b n => match b with
    | some m => if (s.core m).tallow.toNat < (s.core n).tallow.toNat then some n else some m
    | none => some n) none

/-- Cores gathered for a stamped launch on a die. -/
def State.gatheredOn (s : State) (num d : Nat) : List Nat :=
  ((List.range 24).map (· + 24 * d)).filter fun n => (s.core n).gatheredFor == some num

/-- Strands of a stamped launch that still lack a core on a die. -/
def State.lacks (s : State) (l : Launch) (d : Nat) : Bool :=
  ltStamped l.table && decide ((s.gatheredOn l.num d).length < strandsOn l.table l.onDie d)

/-- Every strand of every die has its core, and ballast has raised their load to 64 (13 R348). -/
def State.gathered (s : State) (l : Launch) : Bool :=
  (List.range 4).all fun d => decide (strandsOn l.table l.onDie d ≤ (s.gatheredOn l.num d).length) &&
    (s.gatheredOn l.num d).all fun n => ((s.core n).governTo s.ramp none s.arrayCycle 200).load == 64

/-- The launch can become active (12 R312). -/
def State.ready (s : State) (l : Launch) : Bool := s.canActivate l && (!ltStamped l.table || s.gathered l)

/-- No launch that can become active goes before this one (12 R312). -/
def State.isFirst (s : State) (l : Launch) : Bool := s.launches.all fun x => !(s.ready x && x.before l)

/-! ### Dispatch (01 R11, 12 R315 to R318) -/

/-- What a core keeps when the next task is dispatched to it: cadence, power and thermal state, engines, translations, cached lines,
write-backs (01 R11 R34). A copy still under way for an earlier task no longer changes a claim. -/
def Core.bare (k : Core) : Core :=
  { cq := k.cq.map fun e => { e with released := List.range 16 }
    gq := k.gq, tq := k.tq, wb := k.wb, blocks := k.unpinAll.blocks, uses := k.uses, hintcnt := k.hintcnt, utlb := k.utlb
    gatheredFor := k.gatheredFor, cad := k.cad, cadWas := k.cadWas, cadFrom := k.cadFrom, pendCad := k.pendCad, pv := k.pv, tallow := k.tallow, thermLo := k.thermLo
    thermHi := k.thermHi, trip := k.trip, gate := k.gate, power := k.power, win := k.win, load := k.load, inj := k.inj
    armed := k.armed, armedV := k.armedV, tripDue := k.tripDue, tripWhy := k.tripWhy
    fullAt := k.fullAt }

/-- A core whose task has gone: its blocks are unpinned, its regions and its side log empty; scratchpad, slots and accumulators keep
what they hold until the next dispatch, for the commands that go on (01 R34, 05 R128, 12 R320). -/
def Core.leftBy (k : Core) : Core := { k.unpinAll with task := none, regions := [], slog := [] }

/-- Task `x` of a launch on die `d`, as it is placed. -/
def State.taskOf (s : State) (l : Launch) (d x : Nat) (origin : Nat) : Task :=
  let t := l.table
  let flag (b : Bool) (v : Nat) : Nat := if b then v else 0
  { uid := s.nextId, launch := l.num, die := d, ord := ordinalOf l d x, tidx := x, coords := if l.isBind then [] else coordsOf t x
    ctx := l.ctx, entry := Rec_word l.rec_ 4, arg := Rec_word l.rec_ 1
    desc := if l.isBind then Rec_word l.rec_ 2 + BitVec.ofNat 64 (64 * (((x + 1) * bindN l.rec_ - 1) % bindEnt l.rec_)) else 0
    mode := BitVec.ofNat 4
      (flag (ltStamped t) 1 + flag ((Rec_word t 3).getLsbD 17) 2 + flag (ltRec t) 4 + flag (ltRpl t) 8)
    frameLen := max 1 (ltFrame t), origin := origin }

/-- A new task begins on core `n`, and may issue from cycle `c` on (01 R11, 03 R63). A task that begins in debug halt in stamped mode
ends with STAMP_OVERRUN (16 R417). -/
def State.beginTask (s : State) (l : Launch) (d x n c origin : Nat) : State :=
  let t := s.taskOf l d x origin
  let halted := s.dbgHalt && ltStamped l.table
  let s1 := s.modCoreAt n fun k => { k.bare with task := some (if halted then { t with doom := some cStamp } else t) }
  let s2 := s1.setAgent n
    { run := .running, pc := t.entry, earliest := c
      regs := { s := (SMap.set 0 (SMap.set 0 [] 1 t.arg) 2 t.desc) } }
  let s3 := s2.modLaunch l.num fun y =>
    { y with sent := y.sent.set 0 d (y.sent.get 0 d + 1), strands := y.strands.set 0 (strandOf l.table x) (n + 1)
             next := if ltStamped l.table && !l.isBind then y.next.set 0 (strandOf l.table x) (x + 1) else y.next.set 0 d (x + 1) }
  { s3 with nextId := s.nextId + 1 }.touchClock l.num

/-- Work a die could place next (12 R317). -/
inductive Work where
  | child (id : Nat)
  | fresh (num tidx : Nat)
  | resume (slot : Nat) (num tidx : Nat)
  deriving DecidableEq, Repr

/-- A suspended YIELD whose launches have been dispatched, or another suspended task that may resume (12 R319). -/
def State.resumable (s : State) (x : Saved) : Bool :=
  match x.why with
  | 0 => true
  | 1 => x.task.pushed.all fun n => match s.launch n with
    | some l => !l.undispatched
    | none => true
  | _ => false

/-- The placing that entry `e`, `v` of a replayed log asks for on die `d` cannot be: its core is not eligible or its task has completed
(12 R333). -/
def State.replayBad (s : State) (l : Launch) (d e v : Nat) : Bool :=
  let m := e / 2 ^ 10 % 128
  let k := s.core m
  let gone := l.done.any (·.tidx == v) || (decide (v < l.next.get 0 d) && !s.holdsTask l.num (· == v))
  decide (96 ≤ m) || dieOf m != d || k.power != 0 || k.tallow == 0 || (k.gatheredFor.isSome && k.gatheredFor != some l.num) || gone

/-- What the log of a launch lets die `d` do with task `x`: anything without a replay; the task that the entry names, when its core is
free; a mismatch (12 R333). -/
def State.replayAllows (s : State) (l : Launch) (d x : Nat) : Bool :=
  match (s.replayOf l (streamKey 1 d)).2 with
  | .off | .over _ => true
  | .waits => false
  | .entry _ e v => s.replayBad l d e v || (v == x && s.eligible (e / 2 ^ 10 % 128) none)

/-- Launch `l` has work that die `d` may place next, as far as its log goes (12 R317 R319). -/
def State.offers (s : State) (l : Launch) (d : Nat) : Bool :=
  (match l.nextTask d with
    | some x => l.mayDispatch x && decide (ordinalOf l d x < l.head.get 0 d + 256)
    | none => false) ||
  (s.die d).saved.any fun x => x.task.launch == l.num && s.resumable x && !l.halted

/-- Die `d` reads the logs of the replays that it has work of: a page of a log that is not present is asked for (11 R302, 12 R333). -/
def State.readLogs (s : State) (d : Nat) : State :=
  s.launches.foldl (fun t l =>
    if !ltRpl l.table || !t.offers l d then t
    else
      match t.replayOf l (streamKey 1 d) with
      | (u, .waits) => u
      | (_, .off) | (_, .entry _ _ _) | (_, .over _) => t) s

/-- A task of the launch with a lower index than `x` runs on die `d` and has been told to stop for priority or by eviction: it is resumed before
task `x` is dispatched (12 R319 R324 promise 1). -/
def State.stopsBefore (s : State) (num d x : Nat) : Bool :=
  s.cores.any fun p => decide (dieOf p.1 = d) && p.2.task.any fun t =>
    t.launch == num && decide (t.tidx < x) && (t.stopAsked == some 1 || t.stopAsked == some 2)

/-- Work with its rank: priority, the depth from the deepest up, children before tasks, launch number or order of receipt, tidx
(12 R317). -/
def State.works (s : State) (d : Nat) : List (Work × List Nat) :=
  let kids := (s.tiles.filter fun e =>
    e.level == 1 && e.parent.isSome && e.core.isNone && e.queue == .dq d).map fun e =>
      (Work.child e.id, [e.prio, 9 - e.depth, 0, (e.parent.map (·.1)).getD 0, (e.parent.map (·.2)).getD 0])
  let fresh := s.launches.filterMap fun l =>
    if ltStamped l.table && !l.isBind then none
    else
      match l.nextTask d with
      | some x =>
        if l.mayDispatch x && decide (ordinalOf l d x < l.head.get 0 d + 256) && s.replayAllows l d x && !s.stopsBefore l.num d x then
          some (Work.fresh l.num x, [l.prio, 9 - l.depth, 1, l.num, x]) else none
      | none => none
  let back := (s.die d).saved.filterMap fun x =>
    match s.launch x.task.launch with
    | some l =>
      if s.resumable x && !l.halted && s.replayAllows l d x.task.tidx then
        some (Work.resume x.slot l.num x.task.tidx, [l.prio, 9 - l.depth, 1, l.num, x.task.tidx]) else none
    | none => none
  kids ++ fresh ++ back

/-- The rank of a stamped launch as work (12 R317). -/
def Launch.rank (l : Launch) : List Nat := [l.prio, 9 - l.depth, 1, l.num, 0]

/-- Stamped launches that gather and lack cores on die `d`, as work with its rank (12 R317 R326). -/
def State.gathering (s : State) (d : Nat) : List (Work × List Nat) :=
  s.launches.filterMap fun l => if s.mayGather l && s.lacks l d then some (Work.fresh l.num 0, l.rank) else none

/-- Those of them that could become active. -/
def State.stampedWork (s : State) (d : Nat) : List (Work × List Nat) :=
  s.launches.filterMap fun l => if s.canActivate l && s.lacks l d then some (Work.fresh l.num 0, l.rank) else none

/-- Lexicographic order of ranks. -/
def rankLt (a b : List Nat) : Bool :=
  match a, b with
  | x :: r, y :: t => decide (x < y) || (x == y && rankLt r t)
  | _, _ => false

/-- The work that comes first. -/
def firstWork (l : List (Work × List Nat)) : Option (Work × List Nat) :=
  l.foldl (fun b w => match b with
    | some c => if rankLt w.2 c.2 then some w else some c
    | none => some w) none

/-- The core for work of die `d` (12 R316): the strand's own if it is eligible, else the best. -/
def State.coreFor (s : State) (d : Nat) (l : Option Launch) (x : Nat) : Option Nat :=
  let own := match l with
    | some y => y.strands.get 0 (strandOf y.table x)
    | none => 0
  if own ≠ 0 && (own - 1) / 24 = d && s.eligible (own - 1) none then some (own - 1) else s.bestCore d none

/-- What the decision log of a launch says about the placing of a task on core `n` of die `d`: it may be placed, it has to wait, or
the replay mismatches (12 R333). -/
inductive Placing where
  | go (s : State)
  | later (s : State)
  deriving DecidableEq, Repr

/-- The placing of task `x` of launch `l` on core `n`: its record is written, or its entry is used. -/
def State.placing (s : State) (l : Launch) (d x n : Nat) : Placing :=
  let key := streamKey 1 d
  match s.replayOf l key with
  | (u, .off) =>
    match u.recordDecision l.num (1 + 2 ^ 8 * d + 2 ^ 10 * n) x with
    | .ok t _ => .go t
    | .wait t _ | .fail t _ _ => .later t
  | (u, .over j) => .later (u.mismatch l j 1 x)
  | (u, .waits) => .later u
  | (u, .entry j e v) =>
    if u.replayBad l d e v then .later (u.mismatch l j 1 v)
    else if v = x && e / 2 ^ 10 % 128 = n then .go (u.tookEntry l.num key j)
    else .later u

/-- A replayed launch places its tasks on the cores that its log names. -/
def State.placeCore (s : State) (l : Launch) (d x n : Nat) : Bool :=
  match (s.replayOf l (streamKey 1 d)).2 with
  | .off => s.coreFor d (some l) x == some n
  | .entry _ e v => !(v == x) || (e / 2 ^ 10 % 128 == n && s.eligible n none)
  | .over _ => true
  | .waits => false

/-- The cores of a die are kept for a stamped launch that gathers, unless the work has a lower priority number (12 R326). -/
def State.keptFor (s : State) (d prio : Nat) : Bool := (s.gathering d).any fun g => decide (g.2.headD 0 ≤ prio)

/-- A die gathers one eligible core for each strand that has none yet, leaving those that work of a lower priority number needs, and
those that another launch which gathers there comes before it for (12 R326; log 88). -/
def State.gatherOn (s : State) (l : Launch) (d : Nat) (m : Nat) : State :=
  match m with
  | 0 => s
  | k + 1 =>
    if !s.lacks l d || ((s.works d).any fun w => decide (w.2.headD 0 < l.prio)) || (s.gathering d).any fun w => rankLt w.2 l.rank then s
    else
      match s.bestCore d none with
      | none => s
      | some n =>
        (s.modCoreAt n fun c => { c.governTo s.ramp none s.arrayCycle 200 with gatheredFor := some l.num, fullAt := s.cycle }).gatherOn l d k

/-- LAUNCH_ACTIVATE: a launch in LQ takes an active slot once its conditions hold and none that can become active goes before it
(12 R312); a stamped one first gathers its cores (12 R326). A launch without tasks then completes (09 R264). -/
def execLaunchActivate (num : Nat) (s : State) : Outcome State Fault Refusal :=
  (Eff.done (match s.launch num with
    | none => s
    | some l =>
      if !s.mayGather l then s
      else if ltStamped l.table then (List.range 4).foldl (fun t d => t.gatherOn l d 24) s
      else if !s.canActivate l || !s.isFirst l then s
      else (s.activate l).tryFinish num)).out

/-- TASK_DISPATCH: die `d` places its next work on core `n`, when that is the core 12 R316 chooses (12 R317). -/
def execTaskDispatch (d n : Nat) (s0 : State) : Outcome State Fault Refusal :=
  let s := s0.readLogs d
  (Eff.done (match firstWork (s.works d) with
    | none => s
    | some (.child id, w) =>
      match s.tile id with
      | some e => if !s.keptFor d (w.headD 0) && s.coreFor d none 0 = some n then s.putTile { e with core := some n } else s
      | none => s
    | some (.fresh num x, w) =>
      match s.launch num with
      | none => s
      | some l =>
        if s.keptFor d (w.headD 0) || !s.placeCore l d x n then s
        else
          match s.placing l d x n with
          | .go t =>
            let c := max t.cycle (t.agent n).earliest
            t.beginTask l d x n c c
          | .later t => t
    | some (.resume _ _ _, _) => s)).out

/-- The first tasks of the strands of a stamped launch begin (12 R326). Of a first task whose ordinal is not below the head's plus 256, 12 R318
says that it is not dispatched and R326 that frame 0 of the first task of every strand begins at the same cycle: the model's choice is that
it begins (log 88). A core whose tallow has been written 0 since it was gathered takes no task until that changes (12 R316). -/
def State.beginStrands (s : State) (l : Launch) (d : Nat) (ks ns : List Nat) (c : Nat) : State :=
  match ks, ns with
  | k :: kr, n :: nr =>
    let s1 := match (List.range (ltTotal l.table)).find? fun x => inShare l.table l.onDie d x && strandOf l.table x == k with
      | some x => s.beginTask l d x n c c
      | none => s
    s1.beginStrands l d kr nr c
  | _, _ => s

/-- The first cycle from `c` on, among the next `m`, at which pod time is at or after `t`. -/
def State.firstAt (s : State) (t c m : Nat) : Nat :=
  match m with
  | 0 => c
  | k + 1 => if t ≤ s.timeAt c then c else s.firstAt t (c + 1) k

/-- The cycle in which frame 0 of a gathered launch begins: the first at which pod time is at or after its start time, and not before
the last core was gathered and had done with what it ran before (12 R326). -/
def State.frameZero (s : State) (l : Launch) : Nat :=
  let c := (List.range 4).foldl (fun m d =>
    (s.gatheredOn l.num d).foldl (fun x n => max x (max (s.agent n).earliest ((s.core n).governTo s.ramp none s.arrayCycle 200).fullAt)) m) 0
  s.firstAt l.start c (s.cycle - c)

/-- The cores gathered for a launch may take a task now: they are online, their tallow is not 0, and no core-level record is on them
(01 R38, 12 R316). -/
def State.gatheredFree (s : State) (num : Nat) : Bool := (List.range 4).all fun d => (s.gatheredOn num d).all fun n => s.eligible n (some num)

/-- STAMPED_GATHER_DONE: with every core gathered, the launch becomes active and frame 0 of the first task of every strand begins,
in the same cycle (12 R326). -/
def execStampedGatherDone (num : Nat) (s : State) : Outcome State Fault Refusal :=
  (Eff.done (match s.launch num with
    | none => s
    | some l =>
      if !s.ready l || !ltStamped l.table || l.isBind || !s.isFirst l || !s.gatheredFree num then s
      else
        let c := s.frameZero l
        let s1 := (s.activate l).modLaunch num fun x => { x with begun := true, frame0 := c }
        match s1.launch num with
        | none => s1
        | some l1 =>
          ((List.range 4).foldl (fun t d =>
            t.beginStrands l1 d (strandsList l1.table l1.onDie d) (t.gatheredOn num d) c) s1).tryFinish num)).out

/-- STAMPED_STRAND_NEXT: the next task of the strand of core `n` begins at the first frame boundary after the one before it has
completed, or the core is released (12 R327, 13 R343). While the window of 12 R318 or the core's eligibility (R316) holds it back, that boundary
moves on. -/
def execStampedStrandNext (n : Nat) (s : State) : Outcome State Fault Refusal :=
  let k := s.core n
  (Eff.done (match k.gatheredFor, k.task with
    | some num, none =>
      match s.launch num with
      | none => s.releaseCore n
      | some l =>
        if !l.begun || !s.tileFree n then s
        else
          match l.strands.find? fun p => p.2 == n + 1 with
          | none => s.releaseCore n
          | some (key, _) =>
            let d := dieOf n
            let x0 := l.next.get 0 key
            match ((List.range (ltTotal l.table - x0)).map (· + x0)).find? fun x =>
                inShare l.table l.onDie d x && strandOf l.table x == key with
            | none => s.releaseCore n
            | some x =>
              if !l.mayDispatch x then s.releaseCore n
              else if l.head.get 0 d + 256 ≤ ordinalOf l d x || !s.eligible n (some num) then
                s.modAgent n fun a => { a with earliest := max a.earliest s.cycle }
              else
                let len := max 1 (ltFrame l.table)
                let passed := (s.agent n).earliest - l.frame0
                s.beginTask l d x n (l.frame0 + (passed + len - 1) / len * len) l.frame0
    | _, _ => s)).out

/-! ### Completion and the reorder window (05 R128, 12 R318) -/

/-- The write-back of the dirty lines of a region, with the bytes they hold now; the lines become clean (07 R187). One that would read a
spoilt word reports it in place of the line (11 R307; log 83). -/
def Core.flushRegion (k : Core) (i : Nat) (bar : Option Word) (t : Task) (bundle : Word) : Core :=
  let w (lines : List (Nat × List Byte)) (ecc : Option Nat) : WriteBack :=
    { lines := lines, bar := bar, ecc := ecc, ctx := t.ctx, bundle := bundle, task := t.uid, launch := t.launch, stops := t.stops }
  match k.regions.get none i with
  | none => if bar.isNone then k else { k with wb := k.wb ++ [w [] none] }
  | some r =>
    let bad (l : Nat) : Option Nat := if k.spoilt.isEmpty then none else k.badWord .pad (r.base + 128 * l) 128
    let lines := (r.dirty.reverse.filter fun l => (bad l).isNone).map fun l => (r.gbase + 128 * l, bytesAt k.scratch (r.base + 128 * l) 128)
    if r.dirty.isEmpty && bar.isNone then k
    else { k with regions := k.regions.set none i (some { r with dirty := [] }), wb := k.wb ++ [w lines (r.dirty.reverse.findSome? bad)] }

/-- Every dirty line of every region is to be written back (07 R184). -/
def Core.flushAll (k : Core) (t : Task) (bundle : Word) : Core :=
  (k.regions.map (·.1)).foldl (fun c i => c.flushRegion i none t bundle) k

/-- Every mapped region is dropped (07 R188). -/
def Core.dropRegions (k : Core) (t : Task) (bundle : Word) : Core := { k.flushAll t bundle with regions := [] }

/-- The task on a core may complete (05 R128, 07 R176). -/
def State.mayComplete (s : State) (n : Nat) : Bool :=
  let a := s.agent n
  let k := s.core n
  k.mq.isEmpty && k.slog.isEmpty && match a.run with
    | .ended => a.flight.isEmpty && a.pend.isNone && a.deferred.isEmpty && k.blocks.all fun b => b.fill.isNone
    | .faulted => a.pend.isNone
    | .off | .running | .halted | .broken => false

/-- TASK_COMPLETE: a task that has ended or faulted completes once its work in flight and its side log are done (05 R128): its
regions are dropped, it enters the reorder window, and a fault lowers its launch's bound (12 R318). -/
def execTaskComplete (n : Nat) (s0 : State) : Outcome State Fault Refusal :=
  let s := s0.settleCore n (s0.ranTo n)
  let a := s.agent n
  let k := s.core n
  (Eff.done (match k.task with
    | none => s
    | some t =>
      if !s.mayComplete n then s
      else
        let bad := a.run == .faulted
        let k1 := if bad then { k with regions := [] } else k.dropRegions t a.bundle
        let s1 := (s.setCore n k1.leftBy).setAgent n { earliest := max a.issued a.busyTo + 1 }
        let code := if bad then a.faultcode else 0
        let doomed := bad && t.doom.isSome && t.doom == some code
        let d : Done :=
          { die := t.die, ord := t.ord, tidx := t.tidx, code := code, addr := a.faultaddr, pc := a.faultpc, src := a.faultsrc
            later := if bad then a.later + a.deferred.length else 0 }
        (s1.modLaunch t.launch fun l =>
          let l1 := { l with done := l.done ++ [d] }
          if !bad then l1
          else if doomed && l.abort == some code then
            { l1 with aborted := l.aborted + 1, abortFirst := some (min t.tidx (l.abortFirst.getD t.tidx)) }
          else
            { l1 with nfault := l.nfault + 1, bound := some (min t.tidx (l.bound.getD t.tidx))
                      first := match l.first with
                        | some f => if f.tidx < t.tidx then some f else some d
                        | none => some d }).touchClock t.launch)).out

/-- A reported task of a binding: its arrival without a report, and its fault as 09 R255 gives (09 R268 R440); false while that waits. -/
def State.reportBound (s : State) (l : Launch) (d : Done) : State × Bool :=
  let rep : Rep := if d.code = 0 then { level := l.level }
    else { code := cChild, child := d.code, lcode := d.code, llvl := 1, level := l.level, chip := s.chipid.toNat, die := d.die
           first := d.tidx, nfault := 1, laddr := d.addr }
  let o := { l.origin with own := some l.num }
  if s.unanswered (dieOf l.issuer.agent) l.page then (s, false)
  else
  match s.reportTo l.blockIssuer (l.rec_ &&& ~~~(0x10000 : Rec)) o rep 1 false fun t attr => t.noteLaunch l.num attr with
  | .made t => (t.modLaunch l.num fun x => { x with waited := false }, true)
  | .full t => (t.launchWaits l.num (t.recordDie o), false)
  | .waits t p => (t.modLaunch l.num fun x => { x with page := p }, false)

/-- Task `y` of a stamped launch will never be dispatched: the launch is aborted, or the task lies above its fault bound
(12 R314 R318). -/
def State.neverRuns (s : State) (l : Launch) (y : Nat) : Bool :=
  ltStamped l.table && !s.holdsTask l.num (· == y) && !l.done.any (·.tidx == y) && (l.abort.isSome || match l.bound with
    | some b => decide (b < y)
    | none => false)

/-- The task of a die's share to be reported next: that of the lowest ordinal which is unreported and can still be dispatched, once it
has completed (12 R318). -/
def State.nextReport (s : State) (l : Launch) (d : Nat) : Option Done :=
  let h := l.head.get 0 d
  (l.done.filter fun x => x.die == d).find? fun x =>
    x.ord == h || (List.range x.tidx).all fun y =>
      !inShare l.table l.onDie d y || decide (ordinalOf l d y < h) || s.neverRuns l y

/-- TASK_REPORT: the lowest unreported ordinal of a die's share is reported once it has completed (12 R318), and the launch
completes when nothing is left. -/
def execTaskReport (num d : Nat) (s : State) : Outcome State Fault Refusal :=
  (Eff.done (match s.launch num with
    | none => s
    | some l =>
      match s.nextReport l d with
      | none => s.tryFinish num
      | some x =>
        let (s1, ok) := if l.isBind then s.reportBound l x else (s, true)
        if !ok then s1
        else
          (s1.modLaunch num fun y =>
            { y with head := y.head.set 0 d (x.ord + 1)
                     done := y.done.filter fun z => !(z.die == d && z.ord == x.ord) }).tryFinish num)).out

end Sys2Proof.Machine
end

