-- ==== Sys2Proof/Machine/Sched.lean ====
section
/-! DEFINITION. Stopping and resuming tasks (12 R319 to R322), YIELD (05 R129), launch commands and EVICT (12 R314 R322), and the
die event rings (12 R335 to R337). -/

namespace Sys2Proof.Machine

open Host (Outcome)

/-! ### Who has to stop (12 R319) -/

/-- Causes of a stop: 1 priority, 2 eviction, 3 YIELD, 4 a replay mismatch, 5 a wait. -/
def causePriority : Nat := 1
/-- Eviction. -/
def causeEvict : Nat := 2
/-- YIELD. -/
def causeYield : Nat := 3
/-- A wait. -/
def causeWait : Nat := 5

/-- The rank of a task among the work of its die (12 R317). -/
def State.rankOf (s : State) (t : Task) : List Nat :=
  match s.launch t.launch with
  | some l => [l.prio, 9 - l.depth, 1, l.num, t.tidx]
  | none => []

/-- Free save slots of a die (12 R322). -/
def Die.freeSlots (x : Die) : Nat := x.saveCnt.toNat - x.saved.length

/-- The lowest free save slot. -/
def Die.freeSlot (x : Die) : Option Nat := (List.range x.saveCnt.toNat).find? fun i => x.saved.all (·.slot != i)

/-- Work for which die `d` has no eligible core, stamped launches that lack cores among it (12 R317 R326). -/
def State.waiting (s : State) (d : Nat) : List (Work × List Nat) :=
  if (s.bestCore d none).isNone then s.works d ++ s.stampedWork d else []

/-- A resumable task of the same launch with a lower tidx. -/
def lowerOwn (t : Task) (w : Work × List Nat) : Bool :=
  match w.1 with
  | .resume _ num x => num == t.launch && decide (x < t.tidx)
  | .child _ | .fresh _ _ => false

/-- A pending child of the task (05 R129). -/
def State.ownChild (s : State) (t : Task) (w : Work × List Nat) : Bool :=
  match w.1 with
  | .fresh num _ => t.pushed.contains num
  | .child id => match s.tile id with
    | some e => e.origin.task == t.uid && byTask e.origin.by_
    | none => false
  | .resume _ _ _ => false

/-- Work that displaces a task held at a wait: placed before it, or a resumable lower task of its launch (12 R319). -/
def State.displaced (s : State) (t : Task) : Bool :=
  (s.waiting t.die).any fun w => rankLt w.2 (s.rankOf t) || lowerOwn t w

/-- Work that displaces a task that yields: placed before its launch, a resumable lower task of it, or a child (12 R319). -/
def State.yields (s : State) (t : Task) : Bool :=
  (s.waiting t.die).any fun w => rankLt w.2 ((s.rankOf t).take 4) || lowerOwn t w || s.ownChild t w

/-- YIELD: with effect, the task is stopped and resumes after the bundle (05 R129). -/
def execYield (c : Ctl) (s : State) : Outcome State Fault Refusal :=
  issue s c { br := true, tileOnly := true }
    (.done (match s.myCore.task with
      | some t =>
        if !s.stamped && s.yields t && decide (72 < (s.die t.die).freeSlots) && t.stopAsked.isNone then
          s.modCore fun k => { k with task := some { t with stopAsked := some causeYield } }
        else s
      | none => s))

/-- The order in which 12 R319 prefers victims: higher priority number, an idle matrix queue and sequencer, higher launch number,
higher tidx; as a rank of which the least is preferred. -/
def State.victimRank (s : State) (n : Nat) (t : Task) : List Nat :=
  let k := s.core n
  let p := (s.launch t.launch).elim 3 (·.prio)
  [3 - p, if k.mq.isEmpty && k.tq.isEmpty then 0 else 1, s.launchNext - t.launch, 2 ^ 192 - t.tidx]

/-- The victim of a pre-emption on die `d`: a task of a higher priority number than the die's next work, which finds no core. -/
def State.victim (s : State) (d : Nat) : Option Nat :=
  match firstWork (s.waiting d) with
  | none => none
  | some (_, r) =>
    let p := r.headD 0
    let cands := ((List.range 24).map (· + 24 * d)).filterMap fun n =>
      match (s.core n).task with
      | some t => if decide (p < (s.launch t.launch).elim 3 (·.prio)) && (s.agent n).run == .running then some (n, s.victimRank n t) else none
      | none => none
    (cands.foldl (fun b x => match b with
      | some y => if rankLt x.2 y.2 then some x else some y
      | none => some x) (none : Option (Nat × List Nat))).map (·.1)

/-- A free-issue task has been held at a wait for 2 µs and may be stopped for it (12 R319). -/
def State.waitTooLong (s : State) (n : Nat) (t : Task) : Bool :=
  match (s.agent n).waitOn with
  | none => false
  | some w => !t.mode.getLsbD 0 && decide (w.since + 2000 ≤ s.counted) && s.displaced t && decide (72 < (s.die t.die).freeSlots)

/-- A stop for a cause may use a slot: the last 72 free ones are kept for priority, and a replay mismatch needs no reserve (12 R322
R333). -/
def Die.slotFor (x : Die) (cause : Nat) : Option Nat :=
  if cause = causePriority || cause = 4 || 72 < x.freeSlots then x.freeSlot else none

/-- A task that is to be stopped ends instead when it is stamped (12 R330). -/
def Task.stopFor (t : Task) (cause : Nat) : Task := if t.mode.getLsbD 0 then { t with doom := some cStamp } else t.askStop cause

/-- The launch of the task on core `n` is halted, and nothing of the task is under way but a BARARR that its log does not let arrive: it is
saved with the task (12 R333; log 32). -/
def State.arrivalKept (s : State) (n : Nat) : Bool :=
  let a := s.agent n
  ((s.core n).task.bind fun t => s.launch t.launch).any (·.halted) && a.behind.isEmpty && match a.pend with
    | some p => p.page.isNone && match p.instr with
      | .bararr _ d _ _ => (a.regs.release (.s d.toNat)).empty.isEmpty
      | _ => false
    | none => false

/-- Nothing of the task is in flight on its core, every register is full, and it stands between stored bundles (01 R35, 12 R320). -/
def State.drained (s : State) (n : Nat) : Bool :=
  let a := s.agent n
  let k := s.core n
  (a.run == .running) && a.flight.isEmpty && ((a.pend.isNone && a.regs.empty.isEmpty) || s.arrivalKept n) && a.delay.isNone &&
    a.empties == 0 && a.deferred.isEmpty && k.qpend.isEmpty && k.mq.isEmpty && k.tq.isEmpty && k.blocks.all fun b => b.fill.isNone

/-- A range of physical addresses meets a page that is frozen, or a line held for a side log (11 R302 R306). -/
def State.spanHeld (s : State) (pa n : Nat) : Bool :=
  (s.dies.any fun p => p.2.mig.state == 2 && overlap p.2.mig.frame p.2.mig.size pa n) ||
    (s.otherLogs { agent := 96, ctx := none, other := true }).any fun l => l.any fun e => e.home.any fun h =>
      decide (pa < 128 * (h + 1)) && decide (128 * h < pa + n)

/-- The registers as a save slot holds them: every one full (01 R35). The destination of an arrival that is saved with its task has its old
value there (log 32). -/
def Regs.filled (g : Regs) : Regs := { g with empty := [] }

/-- A resumed task whose arrival still waits: its destination is empty again (07 R194; log 32). -/
def Agent.rewait (a : Agent) : Agent :=
  match a.pend with
  | some p =>
    match p.instr with
    | .bararr _ d _ _ => if d = 0 then a else { a with regs := a.regs.mark (.s d.toNat) }
    | _ => a
  | none => a

/-- The bytes of a save slot. -/
def State.slotSpan (s : State) (d slot : Nat) : Nat := (s.die d).saveAddr.toNat * 2 ^ 20 + slot * 0x300000

/-- A context is written to save slot `slot` of die `d`. Its format is not given: each byte of the slot that lies in the HBM of the
dies is a free value (12 R320 R322; log 10). -/
def State.writeSlot (s : State) (d slot : Nat) : State :=
  let a := s.slotSpan d slot
  let old := s.physBytes a (min 0x300000 (hbmEnd - a))
  { s with fresh := s.fresh + 1 }.physWrite a (old.mapIdx fun i b => (Config.savedByte s.fresh i).getD b)

/-- The context of a drained task goes to a save slot, its dirty region lines to memory (12 R320 R321, 07 R184). -/
def State.saveTask (s : State) (n : Nat) (t : Task) (cause slot : Nat) : State :=
  let a := s.agent n
  let k := (s.core n).flushAll t a.bundle
  let w := a.waitOn
  let x : Saved :=
    { slot := slot
      agent := { a with regs := a.regs.filled, waitOn := none, tried := none, pageHold := none, lbuf := [], lines := [], inUse := [] }
      core := { k.qSettle a.earliest with cq := [], gq := [], tq := [], wb := [], utlb := [], blocks := [], task := none }
      task := { t with stopAsked := none, saveNoted := false, stops := t.stops + 1 }
      why := if cause = causeYield then 1 else if cause = causeWait then 2 else 0
      cause := cause
      since := s.now
      watch := if cause = causeWait then w.bind (·.line) else none
      until_ := if cause = causeWait then w.bind (·.till) else none }
  ((((s.writeSlot t.die slot).modDie t.die fun d => { d with saved := d.saved ++ [x] }).setCore n k.leftBy).setAgent n
    { earliest := max a.earliest s.cycle }).touchClock t.launch

/-- TASK_STOP: a task that has to stop is asked to, and is saved once it has drained and a slot is free; a stop for YIELD or a wait
that finds no slot beyond those kept is given up (12 R319 to R322). Writing the slot waits for what holds its lines (11 R306). -/
def execTaskStop (n : Nat) (s0 : State) : Outcome State Fault Refusal :=
  let s := (s0.settleCore n (s0.ranTo n)).modCoreAt n (·.qSettle (s0.ranTo n))
  (Eff.done (match (s.core n).task with
    | none => s
    | some t =>
      let cause :=
        if (t.stopAsked.all softStop) && s.victim (dieOf n) = some n then some causePriority
        else t.stopAsked.or (if s.waitTooLong n t then some causeWait else none)
      match cause with
      | none => s
      | some c =>
        let t1 := t.stopFor c
        let s1 := s.modCoreAt n fun k => { k with task := some t1 }
        if t1.doom.isSome || !s1.drained n then s1
        else
          match (s1.die t.die).slotFor c with
          | some slot => if s1.spanHeld (s1.slotSpan t.die slot) 0x300000 then s1 else s1.saveTask n t1 c slot
          | none =>
            if c = causeYield || c = causeWait then s1.modCoreAt n fun k => { k with task := some { t1 with stopAsked := none } }
            else if t1.saveNoted then s1
            else
              (s1.modCoreAt n fun k => { k with task := some { t1 with saveNoted := true } }).post t.die
                { kind := 15, agent := n, launch := t.launch, slot := s.slotOf t.launch, w2 := BitVec.ofNat 64 n })).out

/-- The saved context on core `n` (12 R320). -/
def State.restore (s : State) (d n : Nat) (x : Saved) : State :=
  let k := s.core n
  let c := x.core
  let s1 := s.setCore n
    { k.bare with
      qscale := c.qscale, qpend := c.qpend, status := c.status, flagAt := c.flagAt, claims := c.claims
      slotMem := c.slotMem, latch := c.latch, latchOrder := c.latchOrder, acc := c.acc, accInt := c.accInt, scratch := c.scratch, spoilt := c.spoilt
      regions := c.regions, slog := c.slog, task := some x.task }
  let s2 := s1.setAgent n { x.agent.rewait with earliest := max s.cycle (s.agent n).earliest }
  let s3 := s2.modDie d fun y => { y with saved := y.saved.filter (·.slot != x.slot) }
  (match s3.launch x.task.launch with
    | some l => s3.modLaunch l.num fun y => { y with strands := y.strands.set 0 (strandOf y.table x.task.tidx) (n + 1) }
    | none => s3).touchClock x.task.launch

/-- TASK_RESUME: die `d`'s next work is a stopped task, which goes on on core `n`, the one 12 R316 chooses, unless a stamped launch that
gathers needs the core (12 R326). -/
def execTaskResume (d n : Nat) (s0 : State) : Outcome State Fault Refusal :=
  let s := s0.readLogs d
  (Eff.done (match firstWork (s.works d) with
    | some (.resume slot num x, w) =>
      match s.launch num, (s.die d).saved.find? (·.slot == slot) with
      | some l, some y =>
        if s.keptFor d (w.headD 0) || !s.placeCore l d x n || s.spanHeld (s.slotSpan d slot) 0x300000 then s
        else
          match s.placing l d x n with
          | .go t => t.restore d n y
          | .later t => t
      | _, _ => s
    | some (.child _, _) | some (.fresh _ _, _) | none => s)).out

/-- WAIT_RESUMABLE: a task stopped at a wait becomes resumable at its time, or 10 µs after its suspension; a write to its line has
done so at once (12 R319). -/
def execWaitResumable (num ord : Nat) (s : State) : Outcome State Fault Refusal :=
  let wake (x : Saved) : Saved :=
    let due := (match x.until_ with
      | some u => decide (u ≤ s.now)
      | none => false) || decide (x.since + 10000 ≤ s.counted)
    if x.task.launch = num && x.task.ord = ord && x.why = 2 && due then { x with why := 0, watch := none } else x
  (Eff.done ((List.range 4).foldl (fun t d =>
    if (t.die d).saved.isEmpty then t else t.modDie d fun y => { y with saved := y.saved.map wake }) s)).out

/-! ### Launch commands (12 R314) and EVICT (12 R322) -/

/-- Control cores and the management controller reach chip control space. -/
def reaches (who : Nat) : Bool := decide (96 ≤ who) && decide (who ≤ 100)

/-- The launch an LCMD write names (12 R314). -/
def State.lcmdOf (s : State) (val : Word) : Option Launch :=
  s.launches.find? fun l => l.place == bitsOf val 0 8 && l.num % 2 ^ 32 == bitsOf val 32 32

/-- LCMD 1: release. -/
def State.lcmdRelease (s : State) (val : Word) : State :=
  match s.lcmdOf val with
  | some l => s.modLaunch l.num fun x => { x with released := true }
  | none => s

/-- LCMD 2: abort: tasks that run, stand at a BRK or are stopped end before their next stored bundle, those that have ended or faulted
complete as they are, and a replay no longer decides where the stopped ones go on. Of a second abort of a launch 12 R314 says nothing: the
model's choice is that it is ignored, and the launch keeps its first code (log 87). -/
def State.lcmdAbort (s : State) (val : Word) : State :=
  let code : BitVec 8 := BitVec.ofNat 8 (bitsOf val 24 8)
  match s.lcmdOf val with
  | none => s
  | some l =>
    if code ≠ cTrap && code ≠ cWatchdog && code ≠ cReplay then s
    else if l.abort.isSome then s
    else
      let doom (t : Task) : Task := if t.launch = l.num then { t with doom := some code } else t
      let running := (s.cores.map (·.1)).filter fun n => (s.agent n).run == .running || (s.agent n).run == .broken
      let s1 := running.foldl (fun t n => t.modCoreAt n fun k => { k with task := k.task.map doom })
        (s.modLaunch l.num fun x => { x with abort := some code, halted := false, replayOff := true })
      let s2 := (List.range 4).foldl (fun t d =>
        if (t.die d).saved.isEmpty then t
        else t.modDie d fun y => { y with saved := y.saved.map fun x =>
          if x.task.launch = l.num then { x with task := doom x.task, why := 0 } else x }) s1
      s2.tryFinish l.num

/-- LCMD 3: a launch halted by a replay mismatch goes on with replay off. -/
def State.lcmdContinue (s : State) (val : Word) : State :=
  match s.lcmdOf val with
  | some l => if l.halted then s.modLaunch l.num fun x => { x with halted := false, replayOff := true } else s
  | none => s

/-- A store to LCMD acts by its operation; 0 is ignored. -/
def State.writeLcmd (s : State) (val : Word) : State :=
  match bitsOf val 8 2 with
  | 1 => s.lcmdRelease val
  | 2 => s.lcmdAbort val
  | 3 => s.lcmdContinue val
  | _ => s

/-- LCMD_RELEASE (12 R314). -/
def execLcmdRelease (who : Nat) (val : Word) (s : State) : Outcome State Fault Refusal :=
  (Eff.done (if reaches who && bitsOf val 8 2 = 1 then s.lcmdRelease val else s)).out
/-- LCMD_ABORT (12 R314). -/
def execLcmdAbort (who : Nat) (val : Word) (s : State) : Outcome State Fault Refusal :=
  (Eff.done (if reaches who && bitsOf val 8 2 = 2 then s.lcmdAbort val else s)).out
/-- LCMD_CONTINUE (12 R314). -/
def execLcmdContinue (who : Nat) (val : Word) (s : State) : Outcome State Fault Refusal :=
  (Eff.done (if reaches who && bitsOf val 8 2 = 3 then s.lcmdContinue val else s)).out

/-- A store to EVICT of die `d`: the task of a core of that die is to stop (12 R322). -/
def State.writeEvict (s : State) (d : Nat) (val : Word) : State :=
  let n := bitsOf val 0 7
  if n / 24 ≠ d then s
  else
    match (s.core n).task with
    | some t => s.modCoreAt n fun k => { k with task := some (t.stopFor causeEvict) }
    | none => s

/-- EVICT, by the register of the die of the core it names (12 R322). -/
def execEvict (who : Nat) (val : Word) (s : State) : Outcome State Fault Refusal :=
  (Eff.done (if reaches who then s.writeEvict (bitsOf val 0 7 / 24) val else s)).out

/-! ### Posting (12 R335 to R337) -/

/-- The first entry of a record as it stands in the ring (12 R336 R337). -/
def EvRec.bytesOf (r : EvRec) (time index : Nat) : List Byte :=
  toBytes (r.kind % 256 + 2 ^ 8 * r.code.toNat + 2 ^ 16 * (r.agent % 128) + 2 ^ 24 * (r.slot % 256) + 2 ^ 32 * r.tag) 8 ++
    toBytes (r.launch.getD 0) 8 ++ toBytes r.w2.toNat 8 ++ toBytes r.w3.toNat 8 ++ toBytes r.w4.toNat 8 ++ toBytes r.w5.toNat 8 ++
    toBytes time 8 ++ toBytes index 8

/-- The entries of a record in order, at their places in the ring. -/
def ringPut (s : State) (x : Die) (i : Nat) (chunks : List (List Byte)) : State :=
  match chunks with
  | [] => s
  | c :: r => ringPut (s.physWrite (x.ringAt i) c) x (i + 1) r

/-- EVENT_RECORD_POST: the oldest record waiting at die `d` is written to the ring, waits for room or for what holds its lines, or is
discarded (11 R302 R306, 12 R335). -/
def execEventRecordPost (d : Nat) (s : State) : Outcome State Fault Refusal :=
  let x := s.die d
  (Eff.done (match x.evWait with
    | [] => s
    | r :: rest =>
      let n := r.entries
      let used := (x.evqtail - x.evqhead).toNat
      let places := (List.range n).map fun k => x.ringAt (x.evqtail.toNat + k)
      if x.discards x.evqtail.toNat n then s.modDie d fun y => { y with evWait := rest, evLost := satInc y.evLost 1 }
      else if 2 ^ x.evLog2 < used + n then
        if r.waited then s
        else s.modDie d fun y => { y with evWait := { r with waited := true } :: rest, evHolds := satInc y.evHolds 1 }
      else if places.any fun a => s.homeHeld { agent := 96 + d, ctx := none, other := true } a 64 then s
      else
        let data := if r.kind = 9 then [r.data.take 64, r.data.drop 64] else []
        let s1 := match r.launch with
          | some l => if r.kind = 11 then s else s.sink l 4
          | none => s
        (ringPut s1 x x.evqtail.toNat (r.bytesOf s.now x.evqtail.toNat :: data)).modDie d fun y =>
          { y with evWait := rest, evqtail := y.evqtail + BitVec.ofNat 32 n })).out

end Sys2Proof.Machine
end

