-- ==== Sys2Proof/Machine/Xlate.lean ====
section
/-! DEFINITION. The translation registers (11 R291 R293 R303 to R309): contexts, TLB locks, shootdown, migration, error counts and
the patrol. Page replies stand in PageReply. -/

namespace Sys2Proof.Machine

open Host (Outcome)

/-! ### Contexts and locks (11 R291 R303) -/

/-- A store to CTXROOT of context `n`. -/
def State.writeCtxroot (s : State) (n : Nat) (val : Word) : State :=
  { s with ctxroot := s.ctxroot.set 0 n (val &&& 0xFFFFFFF801) }

/-- Locked entries of a die TLB. -/
def Die.locked (x : Die) : Nat := (x.tlb.filter (·.locked)).length

/-- TLBLOCK.VA as an address and TLBLOCK.CTX. -/
def lockVa (val : Word) : Nat := bitsOf val 16 40 * 65536
/-- TLBLOCK.CTX. -/
def lockCtx (val : Word) : Nat := bitsOf val 8 6

/-- The issuer of what a unit of die `d` does of itself: walks for its registers, the copies of its migration engine. -/
def unitIssuer (d : Nat) : Issuer := { agent := 96 + d, ctx := none, other := true, unit := true }

/-- The record that a walk posts on die `d` has no room: the unit that walks waits (12 R335). -/
def State.walkFull (s : State) (d : Nat) (r : WalkRes) : Bool := r.record.isSome && !s.canPost d

/-- TLBLOCK 1: the page is walked and held in the TLB of die `d` (11 R303). -/
def State.lockPage (s : State) (d : Nat) (val : Word) : State :=
  let ctx := lockCtx val
  let r := s.walk ctx (lockVa val)
  if s.walkFull d r then s.awaitRoom (unitIssuer d) (r.record.getD 0)
  else
  let s1 := s.noteWalk (unitIssuer d) ctx r
  match r with
  | .leaf e l _ =>
    let t := TlbEntry.ofLeaf ctx (lockVa val) e l
    let x := s1.die d
    let rest := x.tlb.filter fun u => !(u.ctx == t.ctx && u.va == t.va && u.size == t.size)
    if 256 ≤ (rest.filter (·.locked)).length then s1
    else s1.setDie d { x with tlb := tlbAdd rest { t with locked := true } 8192 }
  | .invalid _ | .absent | .ecc _ => s1

/-- TLBLOCK 2: a locked page is an ordinary cached one again. -/
def State.unlockPage (s : State) (d : Nat) (val : Word) : State :=
  let free (t : TlbEntry) : TlbEntry :=
    if t.locked && (t.covers (lockCtx val) (lockVa val)) then { t with locked := false } else t
  s.modDie d fun x => { x with tlb := x.tlb.map free }

/-- A store to TLBLOCK; operations 0 and 3 are ignored. -/
def State.writeTlblock (s : State) (d : Nat) (val : Word) : State :=
  match bitsOf val 0 2 with
  | 1 => s.lockPage d val
  | 2 => s.unlockPage d val
  | _ => s

/-- TLBLOCK_LOCK (11 R303). -/
def execTlblockLock (who d : Nat) (val : Word) (s : State) : Outcome State Fault Refusal :=
  (Eff.done (if reaches who && bitsOf val 0 2 = 1 then s.lockPage d val else s)).out
/-- TLBLOCK_UNLOCK (11 R303). -/
def execTlblockUnlock (who d : Nat) (val : Word) (s : State) : Outcome State Fault Refusal :=
  (Eff.done (if reaches who && bitsOf val 0 2 = 2 then s.unlockPage d val else s)).out

/-! ### Shootdown (11 R304) -/

/-- The agent that owns a set of an array with one set for each control core and one for the management controller. -/
def ownsSet (who n : Nat) : Bool := who == 96 + n && decide (n ≤ 4)

/-- Cached translations of a context that overlap [va, va + size) are dropped everywhere; blocks with a line of the range leave the
block caches. -/
def State.dropRange (s : State) (ctx va size : Nat) : State :=
  let hit (t : TlbEntry) : Bool := t.ctx == ctx && overlap t.va t.size va size
  let gone (b : Block) : Bool := b.ctx == ctx && overlap b.addr (128 * b.lines) va size
  let s1 := (List.range 4).foldl (fun t d =>
    if (t.die d).tlb.any hit then t.modDie d fun x => { x with tlb := x.tlb.filter (!hit ·) } else t) s
  s1.modAllCores fun k =>
    { k with utlb := k.utlb.filter (!hit ·), blocks := k.blocks.filterMap fun b => if gone b then b.shoot else some b }

/-- Bytes of a SDCTL.SIZE. -/
def sdSize (n : Nat) : Nat :=
  match n with
  | 0 => 2 ^ 16
  | 1 => 2 ^ 21
  | 2 => 2 ^ 30
  | _ => 2 ^ 56

/-- SDGO on a set (11 R304). -/
def State.shootdown (s : State) (n : Nat) : State :=
  let x := s.shoot.get {} n
  let size := sdSize (bitsOf x.ctl 0 2)
  let va := bitsOf x.ctl 16 40 * 65536
  let whole := bitsOf x.ctl 0 2 == 3
  let bad := bitsOf x.ctl 56 8 != 0 || bitsOf x.ctl 10 6 != 0 || bitsOf x.ctl 2 2 != 0 || (!whole && va % size != 0)
  if x.busy then s
  else if bad then { s with shoot := s.shoot.set {} n { x with bad := true } }
  else
    { s.dropRange (bitsOf x.ctl 4 6) (if whole then 0 else va) size with
      shoot := s.shoot.set {} n { x with bad := false, busy := true } }

/-- A store to SDCTL, kept whole: SDGO looks at its reserved bits, which read as zero (00 R7, 11 R304; log 77). -/
def State.writeSdctl (s : State) (n : Nat) (val : Word) : State :=
  { s with shoot := s.shoot.set {} n { s.shoot.get {} n with ctl := val } }

/-- SDGO, by the set's owner (11 R304). -/
def execSdgo (who n : Nat) (s : State) : Outcome State Fault Refusal :=
  (Eff.done (if ownsSet who n then s.shootdown n else s)).out

/-- SHOOTDOWN_COMPLETE: accesses are performed whole, so none still uses a dropped translation (11 R304). -/
def execShootdownComplete (n : Nat) (s : State) : Outcome State Fault Refusal :=
  (Eff.done { s with shoot := s.shoot.set {} n { s.shoot.get {} n with busy := false } }).out

/-! ### Migration (11 R305 R306) -/

/-- Lines copied by the engine of die `d` from the old frame to the new one; one that holds an uncorrectable word is recorded, and is
written poisoned (11 R307). -/
def State.copyLines (s : State) (d src dst : Nat) (ls : List Nat) : State :=
  match ls with
  | [] => s
  | l :: r =>
    let t := s.physWrite (dst + 128 * (l - src / 128)) (s.physBytes (128 * l) 128)
    let u := if s.spoiltAt (128 * l) 128 then
        { t with poison := (dst / 128 + (l - src / 128)) :: t.poison }.noteLoss (unitIssuer d) ((s.lossAt (128 * l) 128).getD (128 * l))
      else t
    u.copyLines d src dst r

/-- The records of the uncorrectable words that copying lines meets have no room on die `d`: its engine waits (12 R335). More than the
ring holds are waited for as a full ring. -/
def State.copyFull (s : State) (d : Nat) (ls : List Nat) : Bool :=
  let n := (ls.filter fun l => s.spoiltAt (128 * l) 128).length
  n != 0 && !s.hasRoom d (min n (2 ^ (s.die d).evLog2))

/-- The size of a migrated page by MIGCTL.SIZE, with the level of its leaf. -/
def migSize (n : Nat) : Nat × Nat := if n = 0 then (2 ^ 16, 0) else (2 ^ 21, 1)

/-- The frame of MIGDST. -/
def migDst (m : Migration) : Nat := bitsOf m.dst 16 24 * 65536

/-- Changes the migration engine of a die. -/
def State.modMig (s : State) (d : Nat) (f : Migration → Migration) : State := s.modDie d fun x => { x with mig := f x.mig }

/-- The lines of a page's frame. -/
def frameLines (frame size : Nat) : List Nat := (List.range (size / 128)).map (· + frame / 128)

/-- MIGCTL or MIGDST is malformed. Of a MIGCTL.VA that is no multiple of the page's size 11 R305 says nothing: the model's choice is that it
makes the register malformed, as it does SDCTL (log 81). -/
def Migration.malformed (m : Migration) : Bool :=
  let size := (migSize (bitsOf m.ctl 0 2)).1
  bitsOf m.ctl 56 8 != 0 || bitsOf m.ctl 8 8 != 0 || decide (2 ≤ bitsOf m.ctl 0 2) || bitsOf m.dst 40 24 != 0 || bitsOf m.dst 0 16 != 0 ||
    migDst m % size != 0 || decide (hbmEnd < migDst m + size) || bitsOf m.ctl 16 40 * 65536 % size != 0

/-- What the engine of die `d` finds at its page: a present leaf of the given size that no other engine migrates, with its address; or the
walk that gave none. -/
def State.migPage (s : State) (d : Nat) : Except WalkRes (Word × Nat) :=
  let m := (s.die d).mig
  let (size, lvl) := migSize (bitsOf m.ctl 0 2)
  let r := s.walk (bitsOf m.ctl 2 6) (bitsOf m.ctl 16 40 * 65536)
  match r with
  | .leaf e l at_ =>
    let busy := (List.range 4).any fun k =>
      let o := (s.die k).mig
      k != d && (o.state == 1 || o.state == 2) && overlap o.frame o.size (pteAddr e) size
    if l ≠ lvl || busy then .error r else .ok (e, at_)
  | .invalid _ | .absent | .ecc _ => .error r

/-- The kind of the record for which MIGGO has to wait, if there is no room for it (12 R335). -/
def State.migRoom (s : State) (d : Nat) : Option Nat :=
  let m := (s.die d).mig
  if m.malformed then none
  else
    match s.migPage d with
    | .ok (e, _) => if s.copyFull d (frameLines (pteAddr e) (migSize (bitsOf m.ctl 0 2)).1) then some 10 else none
    | .error r => if s.walkFull d r then r.record else none

/-- MIGGO (11 R305 R306 step 1): the migration goes by what the registers hold now, whatever is stored to them while it runs. -/
def State.migGo (s : State) (d : Nat) : State :=
  let m := (s.die d).mig
  let size := (migSize (bitsOf m.ctl 0 2)).1
  let refuse (t : State) : State := t.modMig d fun x => { x with state := 4 }
  if m.state = 1 || m.state = 2 then s
  else
    match s.migRoom d with
    | some kind => s.awaitRoom (unitIssuer d) kind
    | none =>
      if m.malformed then refuse s
      else
        match s.migPage d with
        | .ok (e, at_) =>
          (s.modMig d fun x => { x with state := 1, leafAt := at_, leaf := e, frame := pteAddr e, size := size, dirty := [], todo := []
                                        to_ := migDst m, ctx := bitsOf m.ctl 2 6, va := bitsOf m.ctl 16 40 * 65536
                                        rounds := 0, dirtyCount := 0 }).copyLines d (pteAddr e) (migDst m) (frameLines (pteAddr e) size)
        | .error r => refuse (s.noteWalk (unitIssuer d) (bitsOf m.ctl 2 6) r)

/-- MIGGO, by control core `d` or the management controller (11 R305). -/
def execMiggo (who d : Nat) (_ : Word) (s : State) : Outcome State Fault Refusal :=
  (Eff.done (if who = 96 + d || who = 100 then s.migGo d else s)).out

/-- The lines dirtied so far that the round which ends has had to copy, and those that became dirty during it. Which of the lines
dirtied since the start were dirtied before the first round began is left open (11 R306; log 81). -/
def State.roundSplit (s : State) (m : Migration) : List Nat × List Nat :=
  let n := m.dirty.length
  let before := if m.rounds = 0 then min (Config.roundBegan s.fresh) n else 0
  (m.todo ++ m.dirty.drop (n - before), m.dirty.take (n - before))

/-- MIGRATION_ROUND: a round of die `d`'s engine ends: the lines that were dirty when it began are copied, and those it leaves dirty
decide: fewer than 16 freeze the page; after 8 rounds the engine gives up; otherwise the next round begins with them (11 R306). Which lines
MIGSTAT.DIRTY counts, R305 calls found dirty in the last round: the model's choice is those that the round leaves dirty (log 60). -/
def execMigrationRound (d : Nat) (s : State) : Outcome State Fault Refusal :=
  let m := (s.die d).mig
  (Eff.done (if m.state ≠ 1 then s
    else
      let (ls, left) := s.roundSplit m
      if s.copyFull d ls then s.awaitRoom (unitIssuer d) 10
      else
      let m1 := { m with rounds := m.rounds + 1, dirtyCount := left.length, todo := [], dirty := [] }
      let t := { s with fresh := s.fresh + 1 }.copyLines d m.frame m.to_ ls
      t.modMig d fun _ =>
        if left.length < 16 then { m1 with state := 2, dirty := left }
        else if 8 ≤ m1.rounds then { m1 with state := 5 }
        else { m1 with todo := left })).out

/-- The bytes of PTE.ADDR replaced. -/
def pteMoved (e : Word) (dst : Nat) : Word := (e &&& ~~~(0xFFFFFFFF00 : Word)) ||| BitVec.ofNat 64 dst

/-- MIGRATION_SWITCH: the frozen page's last lines are copied; an entry that has changed abandons the copy, otherwise it names the
new frame and the page is shot down; the holds are lifted (11 R306). -/
def execMigrationSwitch (d : Nat) (s : State) : Outcome State Fault Refusal :=
  let m := (s.die d).mig
  (Eff.done (if m.state ≠ 2 then s
    else if s.copyFull d m.dirty then s.awaitRoom (unitIssuer d) 10
    else
      let s1 := s.copyLines d m.frame m.to_ m.dirty
      let e : Word := BitVec.ofNat 64 (s1.physWord m.leafAt 8)
      if e ≠ m.leaf then s1.modMig d fun x => { x with state := 6, dirty := [] }
      else
        let s2 := s1.modMig d fun x => { x with state := 3, dirty := [] }
        let s3 := s2.physWrite m.leafAt (toBytes (pteMoved e m.to_).toNat 8)
        s3.dropRange m.ctx m.va m.size)).out

/-! ### The patrol (11 R307 R308) -/

/-- A word found uncorrectable: its line is poisoned, counted, and recorded. -/
def State.loseWord (s : State) (pa : Nat) : State :=
  let d := pa / 0x2000000000 % 4
  let s1 := if s.poison.contains (pa / 128) then s else { s with poison := pa / 128 :: s.poison }
  (s1.modDie d fun x => { x with eccUnc := satInc x.eccUnc 1 }).post d { kind := 10, w2 := BitVec.ofNat 64 pa, w3 := 1 }

/-- 64-bit words of a bank. -/
def bankWords (b : Bank) : Nat :=
  match b with
  | .pad => scratchEnd / 8
  | .slot => 16 * slotSize / 8
  | .acc => 4 * 32768 / 2

/-- The block cache of core `n`, or the remote-data cache of the die whose control core is `n`, holds a copy of the line at `pa`. -/
def State.holdsCopy (s : State) (n pa : Nat) : Bool :=
  if n < 96 then
    (s.core n).blocks.any fun b => (List.range b.lines).any fun l =>
      let va := b.addr + 128 * l
      b.holds b.ctx va && ((s.physOf b.ctx va).map (· / 128)) == some (pa / 128)
  else decide (n < 100) && (s.die (dieOf n)).remote.contains (pa / 128)

/-- An uncorrectable error found in a copy: the line is fetched again from its home, so that the copy stands; recorded and counted on the
die of the cache (11 R307 R308). 12 R337 does not say what the corrected path of word 3 is: the model's choice is that this error, which no
access sees, is recorded as uncorrectable all the same (log 83). -/
def State.loseCopy (s : State) (n pa : Nat) : State :=
  let r : EvRec := { kind := 10, w2 := BitVec.ofNat 64 pa, w3 := 1 }
  (s.post (dieOf n) (if n < 96 then s.causedBy n r else r)).modDie (dieOf n) fun x => { x with eccUnc := satInc x.eccUnc 1 }

/-- An uncorrectable error: in a word of the stack that is patrolled, which finds it, in the copy that a cache holds of one, which is found
then, or in a word of a core, which the next read of it finds (11 R307; log 83). -/
def State.strike (h : Nat) (s : State) (x : Spot) : State :=
  match x with
  | .home pa => if pa < hbmEnd && (channelOf pa).1 == h then s.loseWord pa else s
  | .copy n pa => if s.holdsCopy n pa then s.loseCopy n pa else s
  | .core n b w =>
    if n < 96 && w < bankWords b && !(s.core n).spoilt.contains (b, w) then s.modCoreAt n fun k => { k with spoilt := (b, w) :: k.spoilt } else s

/-- HBM_PATROL: the patrol of a stack has read every line: it corrected `fixed` soft errors and found the words of that stack in `lost`
uncorrectable (11 R307 R308); errors in other memories come with it (log 83). -/
def execHbmPatrol (h fixed : Nat) (lost : List Spot) (s : State) : Outcome State Fault Refusal :=
  (Eff.done (if 8 ≤ h then s
    else lost.foldl (State.strike h) (s.modDie (h / 2) fun x => { x with eccCor := satInc x.eccCor fixed }))).out

end Sys2Proof.Machine
end

