-- ==== Sys2Proof/Machine/Power.lean ====
section
/-! DEFINITION. Cadence, clock steps, column rails, stack temperature and refresh, core sensors, trips and gating, the thermal alert
block (13 R341 to R361), and the L2 windows (12 R329). -/

namespace Sys2Proof.Machine

open Host (Outcome)

/-! ### The thermal alert block (13 R360 R361) -/

/-- Sets bits of ALERT_STATUS. -/
def State.alert (s : State) (m : BitVec 8) : State :=
  if m = 0 then s
  else
    { s with alertStatus := s.alertStatus ||| m, alertFresh := (if s.alertAt = s.cycle then s.alertFresh else 0) ||| m
             alertAt := s.cycle }

/-- W1C on ALERT_STATUS; a bit set in the same cycle stays set (13 R361). -/
def State.clearAlert (s : State) (m : BitVec 8) : State :=
  let keep := if s.alertAt = s.cycle then s.alertFresh else 0
  { s with alertStatus := s.alertStatus &&& (~~~m ||| keep) }

/-- ALERT_SRC.CORE: the core of the latest alert, the lowest of one cycle. -/
def State.alertCore (s : State) (c : Nat) (m : BitVec 8) : State :=
  if m = 0 then s
  else
    let n := if s.srcCoreAt = s.cycle + 1 then min s.srcCore c else c
    { s.alert m with srcCore := n, srcCoreAt := s.cycle + 1 }

/-- ALERT_SRC.STACK. -/
def State.alertStack (s : State) (h : Nat) (m : BitVec 8) : State :=
  if m = 0 then s
  else
    let n := if s.srcStackAt = s.cycle + 1 then min s.srcStack h else h
    { s.alert m with srcStack := n, srcStackAt := s.cycle + 1 }

/-- CWARN. -/
def alCwarn : BitVec 8 := 1
/-- VWARN. -/
def alVwarn : BitVec 8 := 2
/-- HWARN. -/
def alHwarn : BitVec 8 := 4
/-- CTRIP. -/
def alCtrip : BitVec 8 := 8
/-- VTRIP. -/
def alVtrip : BitVec 8 := 16
/-- HSTEP. -/
def alHstep : BitVec 8 := 32
/-- HFAIL. -/
def alHfail : BitVec 8 := 64
/-- CLKDONE. -/
def alClkdone : BitVec 8 := 128

/-! ### Cadence (13 R342 R343) -/

/-- The stamped task on a core ends with STAMP_OVERRUN at its next issue cycle. -/
def Core.overrun (k : Core) : Core :=
  { k with task := k.task.map fun (t : Task) => if t.mode.getLsbD 0 then { t with doom := some cStamp } else t }

/-- A store to MXCAD of core `c` (13 R343), whose value an operation reads that starts from the next cycle on. -/
def State.writeMxcad (s : State) (c : Nat) (val : Word) : State :=
  let v := bitsOf val 0 5
  let force := val.getLsbD 8
  let k := s.core c
  if v = 0 || 16 < v then s
  else if k.trip && v < 16 then s
  else if force || !k.stampHeld then
    (s.settleCore c (s.ranTo c)).modCoreAt c fun x =>
      let y := { x with cad := BitVec.ofNat 5 v, cadWas := x.cadAt s.cycle, cadFrom := s.cycle + 1, pv := false }
      if force then y.overrun else y
  else s.modCoreAt c fun x => { x with pendCad := BitVec.ofNat 5 v, pv := true }

/-- MXCAD_WRITE (13 R343). -/
def execMxcadWrite (who c : Nat) (val : Word) (s : State) : Outcome State Fault Refusal :=
  (Eff.done (if reaches who && c < 96 then s.writeMxcad c val else s)).out

/-! ### Clock steps and rails (13 R349 to R353) -/

/-- A stamped launch is active. -/
def State.stampedActive (s : State) : Bool := s.launches.any fun l => l.active && ltStamped l.table

/-- A store to CLKCTL by the management controller (13 R350 steps 1 and 2). -/
def State.writeClkctl (s : State) (val : Word) : State :=
  let step := bitsOf val 0 2
  let emerg := val.getLsbD 8
  if s.clk.isSome || step = s.step_ then s
  else
    let s1 := if emerg then s.modAllCores Core.overrun else s
    { s1 with clk := some { target := step, phase := if !emerg && s.stampedActive then 0 else 1, wstamp := !emerg && s.stampedActive } }

/-- CLKCTL_WRITE (13 R350). -/
def execClkctlWrite (who : Nat) (val : Word) (s : State) : Outcome State Fault Refusal :=
  (Eff.done (if who = 100 then s.writeClkctl val else s)).out

/-- CLOCK_CHANGE_PROCEED: no stamped launch is active any more (13 R350 step 2). -/
def execClockChangeProceed (s : State) : Outcome State Fault Refusal :=
  (Eff.done (match s.clk with
    | some c => if c.phase = 0 && !s.stampedActive then { s with clk := some { c with phase := 1 } } else s
    | none => s)).out

/-- A column cannot meet the step that the change asks for at 950 mV; its margin has no part in that (13 R353). -/
def State.railShort (s : State) (d k : Nat) : Bool := decide (950 < Config.railTrim s.fresh d k)

/-- The voltage a rail needs, before its clamp: the trim and the margin (13 R353; log 7). -/
def State.railNeeds (s : State) (d k : Nat) : Nat :=
  Config.railTrim s.fresh d k + 2 * (((s.die d).margin.get 0 k).toNat)

/-- A rail voltage within 600 mV to 950 mV. -/
def railClamp (mv : Nat) : BitVec 16 := BitVec.ofNat 16 (max 600 (min 950 mv))

/-- Dies and columns. -/
def railList : List (Nat × Nat) := (List.range 4).flatMap fun d => (List.range 6).map fun k => (d, k)

/-- Every rail goes to its trim. -/
def State.trimRails (s : State) : State :=
  let s1 := railList.foldl (fun t p =>
    t.modDie p.1 fun x => { x with railMv := x.railMv.set 600 p.2 (railClamp (s.railNeeds p.1 p.2)) }) s
  { s1 with fresh := s.fresh + 1 }

/-- CLOCK_RAILS_TRIMMED: when raising the frequency, the rails reach their trim for the new step, or a column cannot meet it and the
change is abandoned; otherwise the pause begins, once the arrays have done what they do until then (13 R350 steps 3 and 4, R353). -/
def execClockRailsTrimmed (s : State) : Outcome State Fault Refusal :=
  (Eff.done (match s.clk with
    | some c =>
      if c.phase ≠ 1 then s
      else if c.target < s.step_ && railList.any fun p => s.railShort p.1 p.2 then
        { s.alert alClkdone with clk := none, fresh := s.fresh + 1 }
      else
        let s0 := (s.cores.map (·.1)).foldl (fun t n => t.settleCore n (t.ranTo n)) s
        let s1 := if c.target < s.step_ then s0.trimRails else s0
        { s1 with clk := some { c with phase := 2, since := s.now, from_ := s.cycle } }
    | none => s)).out

/-- A moment from which an interval counts, once a pause from `from_` to `now` is left out of the interval (13 R351, 15 R397). -/
def pastPause (from_ now t : Nat) : Nat := t + (now - max t from_)

/-- The intervals of a plane, without the pause. -/
def Plane.pause (x : Plane) (p : Nat → Nat) : Plane :=
  { x with stallAt := p x.stallAt, litAt := p x.litAt, ins := x.ins.map fun (y : Nat × PlaneIn) => (y.1, { y.2 with since := p y.2.since }) }

/-- The intervals of an agent: a wait that holds it. -/
def Agent.pause (a : Agent) (p : Nat → Nat) : Agent := { a with waitOn := a.waitOn.map fun w => { w with since := p w.since } }

/-- The intervals of a die: its suspended tasks. -/
def Die.pause (x : Die) (p : Nat → Nat) : Die := { x with saved := x.saved.map fun (y : Saved) => { y with since := p y.since } }

/-- The intervals of the fabric logic: requests, messages, completion records, chunks held for forwarding. -/
def Fabric.pause (f : Fabric) (p : Nat → Nat) : Fabric :=
  { f with reqs := f.reqs.map fun (r : FabReq) => { r with last := r.last.map p, first := r.first.map p }
           rx := f.rx.map fun (m : RxMsg) => { m with at_ := p m.at_ }
           done := f.done.map fun d => (d.1, d.2.1, d.2.2.1, p d.2.2.2)
           fwd := f.fwd.map fun (x : Held) => { x with at_ := p x.at_ } }

/-- The row injections of an operation, as `inj` of a core holds them, when the array has stood still for `d` cycles from cycle `c` on: those
that had begun keep their cycles up to it, and what is left follows afterwards (13 R350). -/
def pauseRows (c d : Nat) (x : Nat × Nat × Nat × Nat) : List (Nat × Nat × Nat × Nat) :=
  let (a, step, busy, n) := x
  let begun := min n ((c - a + step - 1) / step)
  let last := a + (begun - 1) * step
  let part := min busy (c - last)
  (if begun = 0 then [] else [(a, step, busy, begun - 1), (last, step, part, 1), (c + d, step, busy - part, 1)]) ++
    [(a + begun * step + d, step, busy, n - begun)]

/-- What was to come after cycle `c` comes later by the cycles of the pause, which ends at `now` (13 R350). -/
def latePast (c now t : Nat) : Nat := if t ≤ c then t else t + (now - c)

/-- A matrix operation that was under way when the clock paused at cycle `c` goes on, with the rows it had still to inject, and one that
waited starts afterwards (13 R350). -/
def Core.pause (k : Core) (c now : Nat) : Core :=
  { k with
    mq := k.mq.map fun (e : MatrixEntry) =>
      if e.started then { e with doneAt := latePast c now e.doneAt, injEnd := latePast c now e.injEnd }
      else { e with ready := max now (latePast c now e.ready) }
    inj := (k.inj.flatMap (pauseRows c (now - c))).filter fun x => x.2.2.1 != 0 && x.2.2.2 != 0 }

/-- CLOCK_SWITCH_DONE: the clock has switched, and issue resumes: cycle and pod time go on from where they stand; when lowering, the
rails follow; what counts time has stood still (13 R350 steps 4 to 6, R351). -/
def execClockSwitchDone (s : State) : Outcome State Fault Refusal :=
  (Eff.done (match s.clk with
    | some c =>
      if c.phase ≠ 2 then s
      else
        let p := pastPause c.since s.now
        let s0 := s.modAllCores fun k => k.pause c.from_ s.cycle
        let s2 := s0.rebase s.now
        let s1 := { s2 with
          step_ := c.target, clk := none
          timeRem := s2.timeRem * stepRate c.target / stepRate s.step_
          launches := s.launches.map fun (l : Launch) => { l with clockFrom := l.clockFrom.map p }
          agents := s.agents.map fun (a : Nat × Agent) => (a.1, a.2.pause p)
          dies := s.dies.map fun (d : Nat × Die) => (d.1, d.2.pause p)
          planes := s.planes.map fun (x : Nat × Plane) => (x.1, x.2.pause p)
          fab := s.fab.pause p }
        (if s.step_ < c.target then s1.trimRails else s1).alert alClkdone
    | none => s)).out

/-- A store to VCOL: the margin, and the rail's trim with it (13 R353). -/
def State.writeVcol (s : State) (d k : Nat) (val : Word) : State :=
  let s1 := s.modDie d fun x => { x with margin := x.margin.set 0 k (BitVec.ofNat 8 (bitsOf val 24 8)) }
  { s1.modDie d fun x => { x with railMv := x.railMv.set 600 k (railClamp (s1.railNeeds d k)) } with fresh := s.fresh + 1 }

/-! ### Stacks (13 R354 to R356) -/

/-- REFSTEP.CUR. -/
def Stack.cur (x : Stack) : Nat := max x.s x.floor
/-- BWCAP.EFF. -/
def Stack.eff (x : Stack) : Nat := if !x.valid || 100 ≤ x.degc.toNat then min x.limit 8 else x.limit

/-- The step chosen from a reading alone. -/
def stepAlone (t : Nat) : Nat := if 96 ≤ t then 2 else if 86 ≤ t then 1 else 0

/-- The step after a reading (13 R355). -/
def stepAfter (s t : Nat) : Nat :=
  match s with
  | 0 => stepAlone t
  | 1 => if 96 ≤ t then 2 else if t ≤ 83 then 0 else 1
  | _ => if t ≤ 83 then 0 else if t ≤ 93 then 1 else 2

/-- Replaces a stack. -/
def State.setStack (s : State) (h : Nat) (x : Stack) : State := { s with hbm := s.hbm.set {} h x }

/-- HBM_TEMP_READ: a reading of a stack, or a failed read (13 R355 R361). -/
def execHbmTempRead (h : Nat) (reading : Option (BitVec 8)) (s : State) : Outcome State Fault Refusal :=
  let x := s.hbm.get {} h
  (Eff.done (if 8 ≤ h then s
    else
      match reading with
      | none =>
        let y := { x with valid := false, s := 2, afresh := true }
        ((s.setStack h y).alertStack h (if y.cur ≠ x.cur then alHstep else 0)).alertStack h alHfail
      | some b =>
        let t := b.toNat
        let y := { x with valid := true, degc := b, s := if x.afresh then stepAlone t else stepAfter x.s t, afresh := false
                          everRead := true
                          armed := if s.thHbm.toNat ≤ t then false else if t + 2 ≤ s.thHbm.toNat then true else x.armed }
        let warn := x.armed && decide (s.thHbm.toNat ≤ t)
        ((s.setStack h y).alertStack h (if y.cur ≠ x.cur && x.everRead then alHstep else 0)).alertStack h
          (if warn then alHwarn else 0))).out

/-- HBM_REFRESH: a refresh holds a pseudo-channel for 200 ns (13 R356). -/
def execHbmRefresh (h pc : Nat) (s : State) : Outcome State Fault Refusal :=
  let x := s.hbm.get {} h
  (Eff.done (if 8 ≤ h || 64 ≤ pc then s else s.setStack h { x with hold := x.hold.set 0 pc (s.now + 200) })).out

/-- A store to REFSTEP: the floor; a change of the step in effect is an alert (13 R354 R355). -/
def State.writeRefstep (s : State) (h : Nat) (val : Word) : State :=
  let x := s.hbm.get {} h
  let f := bitsOf val 8 2
  if f = 3 then s
  else
    let y := { x with floor := f }
    (s.setStack h y).alertStack h (if y.cur ≠ x.cur then alHstep else 0)

/-- A store to BWCAP. -/
def State.writeBwcap (s : State) (h : Nat) (val : Word) : State :=
  let l := bitsOf val 0 5
  if l = 0 || 16 < l then s else s.setStack h { s.hbm.get {} h with limit := l }

/-! ### Core sensors, trips and gating (13 R357 to R359) -/

/-- CORE_SENSOR_SAMPLE: the sensors of a core, the warnings, and the trip (13 R357 R358 R361). Whether the threshold fields are signed the spec
does not say: the model's choice is that CORE is, as the sensors it is held to, and VERT, a difference's bound, is not (log 89). Of a
threshold that is lowered to a standing reading or below it R361 does not say whether that reading has reached it from below: the model's
choice, here and at HBM_TEMP_READ, is that the next sample of an armed core or stack sets the bit (log 89). -/
def execCoreSensorSample (c : Nat) (lo hi : BitVec 16) (s : State) : Outcome State Fault Refusal :=
  let k := s.core c
  let top := max lo.toInt hi.toInt
  let gap : Int := (hi.toInt - lo.toInt).natAbs
  let th := s.thCore.toInt
  let tv : Int := s.thVert.toNat
  let warn := (if k.armed && decide (th ≤ top) then alCwarn else 0) ||| (if k.armedV && decide (tv ≤ gap) then alVwarn else 0)
  let arm (old : Bool) (x t : Int) : Bool := if t ≤ x then false else if x + 16 ≤ t then true else old
  let past := (if 840 < top then alCtrip else 0) ||| (if 96 < gap then alVtrip else 0)
  let cool := decide (top < 800) && decide (gap < 64)
  (Eff.done (if 96 ≤ c then s
    else
      (s.setCore c { k with thermLo := lo, thermHi := hi, armed := arm k.armed top th, armedV := arm k.armedV gap tv
                            tripDue := k.tripDue || (past != 0 && !k.trip), tripWhy := if k.trip then k.tripWhy else k.tripWhy ||| past
                            trip := k.trip && !cool }).alertCore c warn)).out

/-- THERMAL_TRIP: a core that a sample found beyond a limit is set to cadence 16 by force and flagged for the limits that it passed
(13 R358). -/
def execThermalTrip (c : Nat) (s : State) : Outcome State Fault Refusal :=
  let k := s.core c
  (Eff.done (if !k.tripDue || k.trip then s
    else
      ((s.writeMxcad c 0x110).modCoreAt c fun x => { x with trip := true, tripDue := false, tripWhy := 0 }).alertCore c k.tripWhy)).out

/-- A store of 1 to STATE.GATE (13 R359), which takes an online core out of eligibility. Of one to a core that is gated or draining already R359
says nothing: the model's choice is that it changes nothing (log 89). -/
def State.gateSet (s : State) (c : Nat) : State :=
  s.modCoreAt c fun k => { k with gate := true, power := if k.power = 0 || k.power = 3 then 1 else k.power }

/-- A store of 0 to STATE.GATE (13 R359), which wakes a gated core and cancels a gating. Of one to a core that is online or waking already R359
says nothing: the model's choice is that it changes nothing (log 89). -/
def State.gateClear (s : State) (c : Nat) : State :=
  s.modCoreAt c fun k => { k with gate := false, power := if k.power = 1 then 0 else if k.power = 2 then 3 else k.power }

/-- STATE_GATE_SET, by the management controller (13 R357 R359). -/
def execStateGateSet (who c : Nat) (s : State) : Outcome State Fault Refusal :=
  (Eff.done (if who = 100 && c < 96 then s.gateSet c else s)).out
/-- STATE_GATE_CLEAR (13 R359). -/
def execStateGateClear (who c : Nat) (s : State) : Outcome State Fault Refusal :=
  (Eff.done (if who = 100 && c < 96 then s.gateClear c else s)).out

/-- CORE_GATED: a draining core without task, commands or load closes (13 R359). -/
def execCoreGated (c : Nat) (s : State) : Outcome State Fault Refusal :=
  let k := s.core c
  let idle := k.task.isNone && k.cq.isEmpty && k.gq.isEmpty && s.fab.reqs.all (·.queue != some c) && k.tq.isEmpty && k.mq.isEmpty &&
    k.wb.isEmpty && (s.tiles.all fun e => e.core != some c) && k.blocks.all fun b => b.fill.isNone
  let low := (k.govern s.ramp s.arrayCycle).load == 0
  (Eff.done (if k.power = 1 && idle && low then s.setCore c { k with power := 2 } else s)).out

/-- CORE_ONLINE: a waking core is online (13 R359). -/
def execCoreOnline (c : Nat) (s : State) : Outcome State Fault Refusal :=
  (Eff.done (if (s.core c).power = 3 then s.modCoreAt c fun k => { k with power := 0 } else s)).out

/-- GATED_PORT_WAKE: the port of a gated core wakes and its scratchpad window is served; the core stays gated (13 R359). The
scratchpad is retained and read through State.physByte at any power state, so nothing changes. -/
def execGatedPortWake (_ : Nat) (s : State) : Outcome State Fault Refusal := (Eff.done s).out

/-! ### L2 windows (12 R329) -/

/-- Base and bytes of a window. -/
def l2Range (w : Word) : Nat × Nat := (bitsOf w 20 20 * 2 ^ 20, bitsOf w 10 10 * 2 ^ 20)

/-- A store to L2WIN `w` of die `d`. -/
def State.writeL2win (s : State) (d w : Nat) (val : Word) : State :=
  let v := val &&& 0xFFFFFFFC01
  let x := s.die d
  let (a, n) := l2Range v
  let others := (List.range 4).filter fun i => i != w && (x.l2win.get 0 i).getLsbD 0
  let total := n + (others.map fun i => (l2Range (x.l2win.get 0 i)).2).sum
  let bad := n == 0 || a / 0x2000000000 != d || (a + n - 1) / 0x2000000000 != d || decide (512 * 2 ^ 20 < total) ||
    others.any fun i => overlap a n (l2Range (x.l2win.get 0 i)).1 (l2Range (x.l2win.get 0 i)).2
  if v.getLsbD 0 && bad then s else s.setDie d { x with l2win := x.l2win.set 0 w v }

/-- L2WIN_WRITE (12 R329). -/
def execL2winWrite (who d w : Nat) (val : Word) (s : State) : Outcome State Fault Refusal :=
  (Eff.done (if reaches who && d < 4 && w < 4 then s.writeL2win d w val else s)).out

/-- L2WIN_FILLED: the fill of an enabled window is done (12 R329). -/
def execL2winFilled (d w : Nat) (s : State) : Outcome State Fault Refusal :=
  let v := (s.die d).l2win.get 0 w
  (Eff.done (if v.getLsbD 0 then s.modDie d fun x => { x with l2win := x.l2win.set 0 w (v ||| 2) } else s)).out

end Sys2Proof.Machine
end

