-- ==== Sys2Proof/Machine/Region.lean ====
section
/-! DEFINITION. What the memory unit does apart from the issuing instruction: atomics at the home (07 R189 to R194), the side log
and its replay (07 R174 R176), scratchpad regions and their write-back (07 R184 to R188), and the block cache (07 R181 to R183). -/

namespace Sys2Proof.Machine

open Host (Outcome)

/-! ### Atomics (07 R189 to R191 R194) -/

/-- Operations of an atomic: those of ARED by their numbers, then xchg, cas, the f32 forms of ARED, and an arrival. -/
def aXchg : Nat := 8
/-- Compare and swap. -/
def aCas : Nat := 9
/-- minimumNumber on f32. -/
def aFmin : Nat := 10
/-- maximumNumber on f32. -/
def aFmax : Nat := 11
/-- An arrival at a barrier object. -/
def aArrive : Nat := 13

/-- The new value of an element of `w` bits (07 R189 R190 R191). -/
def atomicNew (op w old b c : Nat) : Nat :=
  let o := BitVec.ofNat w old
  let x := BitVec.ofNat w b
  match op with
  | 0 => (o + x).toNat
  | 1 => if o.toInt ≤ x.toInt then o.toNat else x.toNat
  | 2 => if x.toInt ≤ o.toInt then o.toNat else x.toNat
  | 3 => (o &&& x).toNat
  | 4 => (o ||| x).toNat
  | 5 => (o ^^^ x).toNat
  | 6 => min o.toNat x.toNat
  | 7 => max o.toNat x.toNat
  | 8 => x.toNat
  | 9 => if o = BitVec.ofNat w c then x.toNat else o.toNat
  | 10 => (fminmax f32 false o.toNat x.toNat).bits
  | _ => (fminmax f32 true o.toNat x.toNat).bits

/-- A BARARR of task `x` of a launch has arrived at the object at `pa` and waits there. -/
def State.arrivalWaits (s : State) (num x pa : Nat) : Bool :=
  s.cores.any fun p => match p.2.task with
    | none => false
    | some t =>
      let here (a : Nat) : Bool := s.physOf t.ctx a == some pa
      t.launch == num && t.tidx == x &&
        ((match (s.agent p.1).pend with
          | some w => (match w.instr with
            | .bararr _ _ a _ => here (w.regs.rs a.toNat).toNat
            | _ => false)
          | none => false) ||
          p.2.slog.any fun e => match e.what with
            | .atomic op _ es => op == aArrive && es.any fun y => here y.1
            | .store _ => false)

/-- The object of an entry of kind 3, as its field holds it (12 R331). -/
def logObj (pa : Nat) : Nat := pa % 2 ^ 40

/-- What the decision log says of a BARARR of task `x` at the object at `pa` (12 R332 R333). -/
def State.placeArrival (s : State) (l : Launch) (x pa : Nat) : Placing :=
  let key := streamKey 3 (logObj pa)
  match s.replayOf l key with
  | (u, .off) =>
    match u.recordDecision l.num (3 + 2 ^ 22 * logObj pa) x with
    | .ok t _ => .go t
    | .wait t _ | .fail t _ _ => .later t
  | (u, .over j) => .later (u.mismatch l j 3 x)
  | (u, .waits) => .later u
  | (u, .entry j _ v) =>
    if v = x then .go (u.tookEntry l.num key j)
    else if u.arrivalWaits l.num v pa then .later u
    else .later (u.mismatch l j 3 x)

/-- BARARR at its object: a task's is recorded, or performed in its turn of a replay (07 R194, 12 R332). -/
def State.arriveInTurn (s : State) (i : Issuer) (a x : Nat) : Acc Word :=
  let task := if i.agent < 96 then (s.core i.agent).task else none
  match task.bind fun t => (s.launch t.launch).map fun l => (t, l) with
  | none => s.arrive i a x
  | some (t, l) =>
    (s.reach i .both a 16).bind fun u p =>
      match u.placeArrival l t.tidx p.1 with
      | .go v => v.arrive i a x
      | .later v => .wait v none

/-- An ARED's operations are those of the atomics, numbered from here (07 R191). -/
def aRed : Nat := 32

/-- An atomic of `n` bytes at its home: the old value. An element of 16 bytes takes its operand from both words (07 R190); ARED needs
its page to be writable only (11 R297). -/
def State.atomicAt (s : State) (i : Issuer) (op n a : Nat) (b c : Word) : Acc Nat :=
  if op = aArrive then (s.arriveInTurn i a b.toNat).map BitVec.toNat
  else
    (s.reach i (if aRed ≤ op then .red else .both) a n).bind fun t p =>
      let old := t.physWord p.1 n
      let x := if n = 16 then b.toNat + 2 ^ 64 * c.toNat else b.toNat
      .ok (t.physWrite p.1 (toBytes (atomicNew (op % aRed) (8 * n) old x c.toNat) n)) old

/-- The elements of a store with hint `h`, or of an atomic, in order: what each answers, the attribute of its page or the old value. A hint
that a page overrides is counted, once, and a home-bypass store drops the copies of its line (07 R178 R179). -/
def State.performOp (s : State) (i : Issuer) (h : BitVec 2) (o : LogOp) : Acc (List Nat) :=
  match o with
  | .store es => readEach s es fun t e =>
      (t.reach i .write e.1 e.2.length).bind fun u p =>
        .ok (((u.physWrite p.1 e.2).cacheStore i e.1 p.1 p.2 h).countOnce i.agent h (s.core i.agent).hintcnt [p.2]) p.2
  | .atomic op w es => readEach s es fun t e => t.atomicAt i op w e.1 e.2.1 e.2.2

/-- Nothing to do. -/
def LogOp.isEmpty (o : LogOp) : Bool :=
  match o with
  | .store es => es.isEmpty
  | .atomic _ _ es => es.isEmpty

/-- The state before an attempt, with what it asked of the dies. -/
def State.undo (s t : State) : State := { s with dies := t.dies, fresh := t.fresh }

/-- A failed attempt has counted its hint. -/
def State.recount (s t : State) (n : Nat) : State := if (t.core n).hintcnt = (s.core n).hintcnt then s else s.modCoreAt n Core.countHint

/-- One element, whose failed attempt has changed nothing that must be undone. -/
def LogOp.single (o : LogOp) : Bool :=
  match o with
  | .store es => es.length == 1
  | .atomic _ _ es => es.length == 1

/-- The state after an attempt that waits: no element has been performed. -/
def State.back (s t : State) (o : LogOp) : State := if o.single then t else s.undo t

/-! ### The side log (07 R174 R176) -/

/-- The issuer of a logged access of core `n` as it is replayed. -/
def LogEntry.issuer (e : LogEntry) (n : Nat) : Issuer := { agent := n, ctx := some e.ctx, mine := true, logged := some e.num }

/-- A page that a logged access names has a request on die `d` that is still unanswered (11 R302). -/
def State.entryWaits (s : State) (d : Nat) (e : LogEntry) : Bool := e.what.addrs.any fun a => s.unanswered d (some (e.ctx, a))

/-- SIDE_LOG_REPLAY: the oldest entry of the side log of core `n` is performed whole; while its page is absent, or the request for it is
unanswered (11 R302), it stays, and while the log of another task holds an access to its range that has retired before it (log 84); an entry that fails is discarded with every younger
one, as a deferred fault (07 R174 R176). What is performed is a sink of the task's launch (12 R334). -/
def execSideLogReplay (n : Nat) (s : State) : Outcome State Fault Refusal :=
  let lose (t : State) (e : LogEntry) (code : BitVec 8) (a : Nat) : State :=
    (t.modCoreAt n fun k => { k with slog := [] }).modAgent n fun x =>
      { x with deferred := x.deferred ++ [{ code := code, src := e.bundle, addr := BitVec.ofNat 64 a }] }
  (Eff.done (match (if s.paused then [] else (s.core n).slog) with
    | [] => s
    | e :: r =>
      match e.refused with
      | some a => lose s e cStore a
      | none =>
        if s.entryWaits (dieOf n) e then s
        else
        -- no entry of the log holds the one that is replayed
        let log (t : State) (l : List LogEntry) : State := t.modCoreAt n fun k => { k with slog := l }
        match (log s []).performOp (e.issuer n) e.hint e.what with
        | .ok t _ =>
          match (s.core n).task with
          | some k => (log t r).sink k.launch 1
          | none => log t r
        | .wait t _ => log (s.back t e.what) (e :: r)
        | .fail t code a => lose ((s.undo t).recount t n) e code a)).out

/-! ### Regions (07 R184 to R188) -/

/-- A write-back of a line that cannot be made: the task's deferred STORE_FAULT while it runs, else a record with the line
(11 R299). -/
def State.lostLine (s : State) (n : Nat) (w : WriteBack) (code : BitVec 8) (a : Nat) (bs : List Byte) : State :=
  (s.faultTask w.task { code := code, src := w.bundle, addr := BitVec.ofNat 64 a }).getD
    (s.post (dieOf n) { kind := 9, code := code, agent := n, launch := w.launch, slot := s.slotOf w.launch
                        w2 := BitVec.ofNat 64 a, w3 := BitVec.ofNat 64 w.ctx, data := bs })

/-- The issuer of a write-back of core `n`: the memory unit, for the task that started it. -/
def WriteBack.issuer (w : WriteBack) (n : Nat) : Issuer := { agent := n, ctx := some w.ctx, other := true, launch := some w.launch }

/-- The oldest write-back of core `n` with its next line or its arrival performed (07 R186 R187; log 33). -/
def State.writeBack (s : State) (n : Nat) (w : WriteBack) (r : List WriteBack) : State :=
  let i : Issuer := w.issuer n
  let put (t : State) (l : List WriteBack) : State := t.modCoreAt n fun k => { k with wb := l }
  match w.ecc with
  | some a =>
    match s.recordLoss i (windowAddr n a) with
    | .ok u _ =>
      let t := put u ({ w with ecc := none, bar := none } :: r)
      (t.faultTask w.task { code := cEcc, src := w.bundle, addr := BitVec.ofNat 64 a }).getD t
    | .wait u _ | .fail u _ _ => u
  | none =>
    match w.lines with
    | (a, bs) :: rest =>
      match s.writeMem i a bs with
      | .ok t _ => (put t ({ w with lines := rest, done := w.done + 128, page := none } :: r)).sink w.launch 1
      | .wait t p => put (s.undo t) ({ w with page := p } :: r)
      | .fail t code x => (put (s.undo t) ({ w with lines := rest, bar := none, page := none } :: r)).lostLine n w code x bs
    | [] =>
      match w.bar with
      | none => put s r
      | some b =>
        match s.arrive i b.toNat w.done with
        | .ok t _ => put t r
        | .wait t p => put (s.undo t) ({ w with page := p } :: r)
        | .fail t code x =>
          let u := put (s.undo t) r
          (u.faultTask w.task { code := code, src := w.bundle, addr := BitVec.ofNat 64 x }).getD u

/-- A write-back of the same task stands on a core that the task has left since: it comes first (07 R187, 12 R320). -/
def State.olderBack (s : State) (w : WriteBack) : Bool := s.cores.any fun p => p.2.wb.any fun x => x.task == w.task && decide (x.stops < w.stops)

/-- REGION_WRITEBACK: the oldest write-back of core `n` performs its next line, or its arrival once none is left; it follows the
task's earlier accesses, those in the side log too, and its earlier write-backs (07 R187). -/
def execRegionWriteback (n : Nat) (s : State) : Outcome State Fault Refusal :=
  (Eff.done (match (if s.paused then [] else (s.core n).wb) with
    | [] => s
    | w :: r => if (s.slogOf w.task).isEmpty && !s.olderBack w && !s.unanswered (dieOf n) w.page then s.writeBack n w r else s)).out

/-- The task on the core that acts. -/
def State.myTask (s : State) : Task :=
  s.myCore.task.getD { launch := 0, die := 0, ord := 0, tidx := 0, coords := [], ctx := 0, entry := 0, arg := 0, mode := 0 }

/-- A matrix operation still has to write the scratchpad bytes of a region, which the region's write-back would read (08 R210). -/
def Core.regionBusy (k : Core) (i : Nat) : Bool :=
  match k.regions.get none i with
  | some r => k.mqBlocks r.base r.size false
  | none => false

/-- The lines of a region are not yet what its write-back has to read: a queued matrix operation, or a logged access of the task by its own
window, still has to write them (08 R210, 10 R277). -/
def State.regionHeld (s : State) (i : Nat) : Bool :=
  s.myCore.regionBusy i || match s.myCore.regions.get none i with
    | some r => !s.myCore.slog.isEmpty && s.ownLogMeets s.cur (windowAddr s.cur r.base) r.size
    | none => false

/-- REGMAP's checks (07 R184), for a region `n` bound to local bytes [a, a + c) and global bytes from b. -/
def Core.mapBad (k : Core) (n : Nat) (a b c : Word) : Option (BitVec 8 × Word) :=
  let other (p : Nat × Option Region) : Bool :=
    match p.2 with
    | some r => p.1 != n && overlap r.base r.size a.toNat c.toNat
    | none => false
  if a.toNat % 4096 ≠ 0 then some (cAlign, a)
  else if c.toNat % 4096 ≠ 0 || c = 0 then some (cAlign, c)
  else if b.toNat % 128 ≠ 0 then some (cAlign, b)
  else if scratchEnd < a.toNat + c.toNat || k.regions.any other then some (cLocal, a)
  else if 2 ^ 56 ≤ (b + c - 1).toNat then some (cStore, b)
  else none

/-- REGMAP (07 R184). -/
def execRegmap (c : Ctl) (n a b x : BitVec 6) (s : State) : Outcome State Fault Refusal :=
  issue s c { srcs := [srcS a 0, srcS b 1, srcS x 2], tileOnly := true }
    (match s.myCore.mapBad n.toNat (s.rs a) (s.rs b) (s.rs x) with
    | some (code, y) => .raise s code y
    | none =>
      if s.regionHeld n.toNat then .hold s 0
      else
        .done (s.modCore fun k =>
          let k1 := k.flushRegion n.toNat none s.myTask s.me.bundle
          { k1 with regions := k1.regions.set none n.toNat
                      (some { base := (s.rs a).toNat, gbase := (s.rs b).toNat, size := (s.rs x).toNat }) }))

/-- The barrier of REGFLUSH and REGDROP: its object's address where B is not 0, checked as the 16-byte atomic that arrives there
(07 R166 R187 R193; log 33). -/
def barOperand (s : State) (b : BitVec 6) : Option Word := if b = 0 then none else some (s.rs b)

/-- What is wrong with a barrier operand. -/
def barBad (b : Option Word) : Option (BitVec 8 × Word) :=
  match b with
  | none => none
  | some a => if 2 ^ 56 ≤ a.toNat then some (cStore, a) else if a.toNat % 16 ≠ 0 then some (cAlign, a) else none

/-- REGFLUSH, and REGDROP when `drop` (07 R187). -/
def State.flush (s : State) (n b : BitVec 6) (drop : Bool) : Eff :=
  match barBad (barOperand s b) with
  | some (code, y) => .raise s code y
  | none =>
    if s.regionHeld n.toNat then .hold s 0
    else
      .done (s.modCore fun k =>
        let k1 := k.flushRegion n.toNat (barOperand s b) s.myTask s.me.bundle
        if drop then { k1 with regions := k1.regions.drop n.toNat } else k1)

/-- REGFLUSH (07 R187). -/
def execRegflush (c : Ctl) (n b : BitVec 6) (s : State) : Outcome State Fault Refusal :=
  issue s c { srcs := [srcS b 1], tileOnly := true } (s.flush n b false)

/-- REGDROP (07 R187). -/
def execRegdrop (c : Ctl) (n b : BitVec 6) (s : State) : Outcome State Fault Refusal :=
  issue s c { srcs := [srcS b 1], tileOnly := true } (s.flush n b true)

/-! ### The block cache (07 R181 to R183) -/

/-- A stack that refreshes more often than the class declares, or serves less than its full bandwidth (12 R328, 13 R356). -/
def slowStack (hot : Bool) (x : Stack) : Bool := decide ((if hot then 2 else 1) ≤ x.cur) || decide (x.eff < 16)

/-- A stamped access that misses its class: no cached translation, a wake of a gated port, or a stack that refreshes more often than
the launch declared (12 R328, 13 R359). `block` says that it is served from a pinned block. -/
def State.missesClass (s : State) (va pa : Nat) (block : Bool) : Bool :=
  let i := s.issuer
  let cold := match i.ctx with
    | some c => (s.cached i c va).isNone
    | none => false
  let hot := match s.myCore.task with
    | some t => t.mode.getLsbD 1
    | none => false
  let slow := match placeOf pa with
    | .window c _ => (s.core c).power == 2
    | .hbm => decide (1000 ≤ s.declared pa) && slowStack hot (s.hbm.get {} (channelOf pa).1)
    | .sram | .rom _ | .control | .nowhere => false
  cold || (slow && !block)

/-- The lines of a block are read; the answer is each one's declared latency, whether it misses its class, and its page's attribute. -/
def State.readLines (s : State) (i : Issuer) (a n : Nat) : Acc (List (Nat × Bool × Nat)) :=
  readEach s ((List.range n).map fun l => a + 128 * l) fun t x =>
    (t.reach i .read x 128).bind fun u p => .ok u (u.declared p.1, t.missesClass x p.1 false, p.2)

/-- A load's result in flight; FENCE waits for it. -/
def State.produceLoad (s : State) (reg : RegId) (x : RegVal) (due : Option Nat) : State :=
  s.modMe fun a =>
    { a with regs := a.regs.mark reg, flight := a.flight ++ [{ reg := reg, val := x, due := due, load := true }] }

/-- The record of a filled block (12 R337). -/
def State.blockRecord (s : State) (n : Nat) (b : Block) : State :=
  s.post (dieOf n) (s.causedBy n { kind := 5, w2 := BitVec.ofNat 64 b.handle })

/-- A new block: pinned, with its fill started. In stamped mode its lines are read now, and the handle is written at the largest
latency among them plus n cycles (12 R328); one with a record to post is full then if there is room for the record (12 R335). -/
def State.startBlock (s : State) (d : BitVec 6) (a n : Nat) (ev : Bool) : State :=
  let b : Block := { ctx := s.myTask.ctx, addr := a, lines := n, bundle := s.me.bundle, fill := some (d.toNat, ev), used := 1 }
  if !s.stamped then (s.modCore (·.allot b)).modMe fun x => { x with regs := x.regs.mark (.s d.toNat) }
  else
    match s.readLines s.issuer a n with
    | .wait t _ => t.late [.s d.toNat]
    | .fail t code x => t.deferMe code x
    | .ok t ls =>
      if ls.any (·.2.1) then t.late [.s d.toNat]
      else
        let due := t.me.issued + (ls.map (·.1)).foldl max 0 + n
        let c : Block := { b with age := due, away := awayOf (ls.map (·.2.2)) }
        if ev then (t.modCore (·.allot c)).modMe fun x => { x with regs := x.regs.mark (.s d.toNat) }
        else (t.modCore (·.allot { c with fill := none })).produceLater (.s d.toNat) (.w (BitVec.ofNat 64 b.handle)) (some due)

/-- Block `idx` of core `n`, whose lines are all in the cache, is filled: its register is full, and its record is posted. -/
def State.filled (s : State) (n idx d : Nat) (ev : Bool) (b : Block) : State :=
  let t := (s.modCoreAt n fun k =>
    { k with blocks := (k.blocks.take idx) ++ (if b.here || b.pinned then [{ b with fill := none, waited := false, page := none }] else []) ++
               k.blocks.drop (idx + 1) }).modRegs n fun g => g.write (.s d) (.w (BitVec.ofNat 64 b.handle))
  if ev then t.blockRecord n b else t

/-- A block's record waits for room, which is counted once (12 R335). -/
def State.blockWaits (s : State) (n idx : Nat) (b : Block) : State :=
  if b.waited then s
  else (s.countHold (dieOf n)).modCoreAt n fun k => { k with blocks := k.blocks.mapIdx fun j x => if j = idx then { x with waited := true } else x }

/-- The blocks of a stamped task whose cycle has come by `c` are filled, each if there is room for its record (12 R328 R335). -/
def State.blocksDue (s : State) (n c : Nat) : State :=
  (List.range (s.core n).blocks.length).reverse.foldl (fun t idx =>
    match (t.core n).blocks[idx]? with
    | none => t
    | some b =>
      match b.fill with
      | none => t
      | some (d, ev) =>
        if b.age = 0 || c < b.age then t
        else if ev && !t.canPost (dieOf n) then t.blockWaits n idx b
        else (t.filled n idx d ev b).modAgent n fun a => { a with busyTo := max a.busyTo b.age }) s

/-- LDBLK (07 R181). One that names a block already pinned writes the handle and does nothing else: it posts no record, and the block
keeps its place among the pinned (log 79). Whether one whose lines a shootdown has evicted (11 R304) still is such a block the spec does
not say: the model's choice is to fill it afresh (log 79). -/
def execLdblk (c : Ctl) (d a : BitVec 6) (n : BitVec 6) (ev : Bool) (s : State) : Outcome State Fault Refusal :=
  let base := (s.rs a).toNat
  let lines := n.toNat + 1
  let ctx := s.myTask.ctx
  let out := (List.range lines).findSome? fun l =>
    let x := (s.rs a + BitVec.ofNat 64 (128 * l)).toNat
    if 2 ^ 56 ≤ x then some (cLoad, x) else if x % 128 ≠ 0 then some (cAlign, x) else none
  issue s c { srcs := [srcS a 0], dsts := [.s d.toNat], tileOnly := true }
    (match out with
    | some (code, x) => .raise s code (BitVec.ofNat 64 x)
    | none =>
      let same (b : Block) : Bool := b.pinned && b.here && b.ctx == ctx && b.handle == base + n.toNat
      if s.myCore.blocks.any same then
        .done (s.produce (.s d.toNat) (.w (BitVec.ofNat 64 (base + n.toNat))) 0 1)
      else
        .done ((s.modCore fun k =>
          (k.evictAll fun b => b.ctx == ctx && overlap b.addr (128 * b.lines) base (128 * lines)).makeRoom lines 2000).startBlock d base lines ev))

/-- BLKREL: the pinned block of the handle is unpinned and stays cached; one that is being filled goes on (07 R183). -/
def execBlkrel (c : Ctl) (a : BitVec 6) (s : State) : Outcome State Fault Refusal :=
  let free (b : Block) : Option Block := if b.pinned && b.handle == (s.rs a).toNat then b.unpin else some b
  issue s c { srcs := [srcS a 0], tileOnly := true }
    (.done (s.modCore fun k => { k with blocks := k.blocks.filterMap free }))

/-- BLOCK_FILLED: the lines of a block land: its register is full and its record is posted, once there is room for that (12 R335); a line that fails is a deferred fault,
and one whose page is absent leaves the fill waiting (07 R173 R181 R182). -/
def execBlockFilled (n idx : Nat) (s : State) : Outcome State Fault Refusal :=
  let k := s.core n
  (Eff.done (match k.blocks[idx]?, k.task with
    | some b, some t =>
      match b.fill with
      | none => s
      | some (d, ev) =>
        if s.paused || s.unanswered (dieOf n) b.page then s
        else if b.age ≠ 0 then s.blocksDue n (s.reached n)
        else if ev && !s.canPost (dieOf n) then s.blockWaits n idx b
        else
        let put (u : State) (f : Block → Option Block) : State :=
          u.modCoreAt n fun k => { k with blocks := (k.blocks.take idx) ++ (f b).toList ++ k.blocks.drop (idx + 1) }
        match readEach s ((List.range b.lines).map fun l => b.addr + 128 * l) fun u x =>
            (u.readAttr { agent := n, ctx := some t.ctx } .read x 128).map (·.2) with
        | .wait u p => put (s.undo u) fun b => some { b with page := p }
        | .fail u code x =>
          (put (s.undo u) fun _ => none).modAgent n fun a =>
            { a with regs := a.regs.release (.s d), deferred := a.deferred ++ [{ code := code, src := b.bundle, addr := BitVec.ofNat 64 x }] }
        | .ok u attrs => u.filled n idx d ev { b with away := awayOf attrs }
    | _, _ => s)).out

end Sys2Proof.Machine
end

