-- ==== Sys2Proof/Machine/Fabric.lean ====
section
/-! DEFINITION. The fabric's parts (14): ports and routes (14 R363 R364 R365), the slot header and its check code (14 R369), slot
tables (14 R366 R367), free-slot counts (14 R373), requests as the chip takes and ends them (08 R232, 14 R370 R376), and chunks as
they arrive (14 R372 R377). -/

namespace Sys2Proof.Machine

open Host (Outcome)

/-! ### Ports and routes (14 R363 R364 R365) -/

/-- The herd of a chip number. -/
def herdOf (c : Nat) : Nat := c / 64
/-- The member index of a chip number. -/
def memOf (c : Nat) : Nat := c % 64
/-- This chip's number. -/
def State.self (s : State) : Nat := s.chipid.toNat
/-- Chips of the pod. -/
def State.podChips (s : State) : Nat := 64 * (s.fab.herdm1.toNat + 1)
/-- A row plane. -/
def rowPlane (p : Nat) : Bool := decide (p < 4)
/-- The port of a chip on a row or a column grating. -/
def portOn (row : Bool) (c : Nat) : Nat := if row then memOf c else 2 * herdOf c + memOf c % 2
/-- The chip at a port of the row or column grating that chip `me` joins. -/
def chipOn (row : Bool) (me q : Nat) : Nat := if row then 64 * herdOf me + q else 64 * (q / 2) + 2 * (memOf me / 2) + q % 2
/-- The offset that takes light from port `i` to port `j`. -/
def offsetTo (i j : Nat) : Nat := (j + 64 - i) % 64

/-- The first hop of a message in an attempt: row or column, and the chip it reaches (14 R365). -/
def firstHop (src dst attempt : Nat) : Bool × Nat :=
  if herdOf src = herdOf dst then (true, dst)
  else if memOf src / 2 = memOf dst / 2 then (false, dst)
  else if attempt % 2 = 0 then (true, 64 * herdOf src + memOf dst)
  else (false, 64 * herdOf dst + memOf src)

/-- The second hop, from the chip the first one reached. -/
def secondHop (me dst : Nat) : Bool × Nat := (herdOf me == herdOf dst, dst)

/-! ### The slot header (14 R369) -/

/-- Bits [lo + n − 1 : lo] of word `i` of a header. -/
def hdBits (h : BitVec 512) (i lo n : Nat) : Nat := bitsOf (Rec_word h i) lo n
/-- Replaces bits of a header. -/
def hdSet (h : BitVec 512) (i lo n v : Nat) : BitVec 512 :=
  let m : BitVec 512 := BitVec.ofNat 512 ((2 ^ n - 1) * 2 ^ (64 * i + lo))
  (h &&& ~~~m) ||| BitVec.ofNat 512 (v % 2 ^ n * 2 ^ (64 * i + lo))
/-- SH.KIND. -/
def hdKind (h : BitVec 512) : Nat := hdBits h 0 0 8
/-- SH.ORD. -/
def hdOrd (h : BitVec 512) : Bool := (Rec_word h 0).getLsbD 8
/-- SH.RQ. -/
def hdRq (h : BitVec 512) : Nat := hdBits h 0 11 5
/-- SH.SRC. -/
def hdSrc (h : BitVec 512) : Nat := hdBits h 0 16 11
/-- SH.DST. -/
def hdDst (h : BitVec 512) : Nat := hdBits h 0 27 11
/-- SH.HOPSRC. -/
def hdHop (h : BitVec 512) : Nat := hdBits h 0 38 11
/-- SH.SEQ. -/
def hdSeq (h : BitVec 512) : Nat := hdBits h 1 0 48
/-- SH.MLEN. -/
def hdLen (h : BitVec 512) : Nat := hdBits h 2 32 32
/-- SH.OFF. -/
def hdOff (h : BitVec 512) : Nat := hdBits h 2 0 32
/-- SH.ADDR. -/
def hdAddr (h : BitVec 512) : Nat := hdBits h 3 0 64
/-- SH.STAMP. -/
def hdStamp (h : BitVec 512) : Nat := hdBits h 4 0 64
/-- SH.FLOOR. -/
def hdFloor (h : BitVec 512) : Nat := hdBits h 5 0 64
/-- SH.RBAR. -/
def hdRbar (h : BitVec 512) : Nat := hdBits h 7 0 64
/-- The key of an ordered message (15 R391). -/
def hdKey (h : BitVec 512) : Nat × Nat × Nat := (hdStamp h, hdSrc h, hdSeq h)

/-- The order of keys. -/
def keyLt (a b : Nat × Nat × Nat) : Bool :=
  decide (a.1 < b.1) || (a.1 == b.1 && (decide (a.2.1 < b.2.1) || (a.2.1 == b.2.1 && decide (a.2.2 < b.2.2))))

/-- One bit of CRC-32C, reflected. -/
def crcBit (c : BitVec 32) : BitVec 32 := if c.getLsbD 0 then (c >>> 1) ^^^ 0x82F63B78 else c >>> 1

/-- `n` bits of it. -/
def crcBits (c : BitVec 32) (n : Nat) : BitVec 32 :=
  match n with
  | 0 => c
  | k + 1 => crcBits (crcBit c) k

/-- CRC-32C (Castagnoli) of bytes. -/
def crc32c (bs : List Byte) : BitVec 32 := ~~~(bs.foldl (fun c b => crcBits (c ^^^ b.setWidth 32) 8) 0xFFFFFFFF)

/-- SH.CRC over header words 0 to 5, the low half of word 6, word 7 and the payload. -/
def hdCheck (h : BitVec 512) (data : List Byte) : Nat :=
  let bs := recBytes h
  (crc32c (bs.take 52 ++ bs.drop 56 ++ data)).toNat

/-- A message's header without the fields of a hop: kind, class, attempt, source, destination, receive queue, sequence, message
length, offset, payload, address, stamp and barrier. -/
def hdMake (kind : Nat) (ord : Bool) (attempt src dst rq seq mlen off plen addr stamp rbar : Nat) : BitVec 512 :=
  BitVec.ofNat 512 <| packElems 64
    [kind + (if ord then 2 ^ 8 else 0) + (if attempt = 0 then 0 else 2 ^ 10) + 2 ^ 11 * rq + 2 ^ 16 * src + 2 ^ 27 * dst,
      seq + 2 ^ 48 * (plen - 1), off + 2 ^ 32 * mlen, addr, stamp, 0, 0, rbar]

/-! ### Planes (14 R366 R367 R373 R378) -/

/-- Plane `p`. -/
def State.plane (s : State) (p : Nat) : Plane := s.planes.get {} p
/-- Changes plane `p`. -/
def State.modPlane (s : State) (p : Nat) (f : Plane → Plane) : State := { s with planes := s.planes.set {} p (f (s.plane p)) }
/-- Changes the fabric logic. -/
def State.modFab (s : State) (f : Fabric → Fabric) : State := { s with fab := f s.fab }

/-- Entries of a bank. -/
def Plane.lenOf (x : Plane) (bank : Bool) : Nat := (if bank then x.len1.toNat else x.len0.toNat) + 1
/-- The number of a bank. -/
def bankNo (bank : Bool) : Nat := if bank then 1 else 0
/-- Byte `l` of entry `e` of a bank. -/
def Plane.entry (x : Plane) (bank : Bool) (e l : Nat) : Nat := (x.table.get 0 (1024 * bankNo bank + 16 * e + l)).toNat
/-- The offset appears among the first LEN entries of a bank. -/
def Plane.hasOffset (x : Plane) (bank : Bool) (o : Nat) : Bool :=
  (List.range (x.lenOf bank)).any fun e => (List.range 16).any fun l => x.entry bank e l % 64 == o
/-- Bytes of a detour entry of a bank (14 R384). -/
def Plane.detourAt (x : Plane) (bank : Bool) (j : Nat) : Word := x.detours.get 0 (128 * bankNo bank + j)
/-- DET.V, DET.SPORT, DET.OFF and DET.VIA. -/
def detV (w : Word) : Bool := w.getLsbD 63
/-- DET.SPORT. -/
def detPort (w : Word) : Nat := bitsOf w 0 6
/-- DET.OFF. -/
def detOff (w : Word) : Nat := bitsOf w 8 6
/-- DET.VIA. -/
def detVia (w : Word) : Nat := bitsOf w 16 6
/-- A bank may be activated (14 R367 R384): reserved bits, offsets within an entry, an offset for the way back, and its detours. -/
def Plane.bankOk (x : Plane) (bank : Bool) : Bool :=
  let n := x.lenOf bank
  let row (e : Nat) : List Nat := (List.range 16).map fun l => x.entry bank e l
  let dets := ((List.range 128).map (x.detourAt bank)).filter detV
  let has (o : Nat) : Bool := o != 0 && x.hasOffset bank o
  ((List.range n).all fun e =>
    (row e).all (fun b => decide (b < 64) && (b == 0 || x.hasOffset bank (64 - b))) && ((row e).filter (· != 0)).Nodup) &&
  dets.all (fun w =>
    detVia w != 0 && detVia w != detOff w && detOff w != 0 && has (detVia w) && has ((detOff w + 64 - detVia w) % 64)) &&
  (dets.map fun w => (detPort w, detOff w)).Nodup
/-- The bank of slot `n` (14 R368). -/
def Plane.bankIn (x : Plane) (n : Nat) : Bool :=
  if n < x.since then !x.bank
  else
    match x.armed with
    | some (_, m) => if m ≤ n && x.bankOk (!x.bank) then !x.bank else x.bank
    | none => x.bank
/-- The offset of lane `l` in slot `n` (14 R366). -/
def Plane.offset (x : Plane) (n l : Nat) : Nat := x.entry (x.bankIn n) (n % x.lenOf (x.bankIn n)) l % 64
/-- A line and its twin are out (14 R383). -/
def Plane.lost (x : Plane) (o : Nat) : Bool := x.failed.contains o && x.failed.contains (o + 64)
/-- Lane `l` transmits in slot `n`. -/
def Plane.sends (x : Plane) (n l : Nat) : Bool :=
  x.light && x.offset n l != 0 && !x.out.contains l && !x.lost (x.offset n l)
/-- Active for striping (14 R371). -/
def Plane.stripes (x : Plane) : Bool := x.light && x.en && x.lock
/-- The counters of a port. -/
def Plane.port (x : Plane) (q : Nat) : Fsc := x.fsc.get {} q
/-- FSC.FREE (14 R373). -/
def Plane.free (x : Plane) (q : Nat) : Nat := x.rxbuf - ((x.port q).sent - (x.port q).freed).toNat
/-- Changes the counters of a port. -/
def Plane.modPort (x : Plane) (q : Nat) (f : Fsc → Fsc) : Plane := { x with fsc := x.fsc.set {} q (f (x.port q)) }

/-- The first-hop offset that a detour gives the chip at port `i` for offset `o` in slot `n`. -/
def Plane.detour (x : Plane) (n i o : Nat) : Option Nat :=
  ((List.range 128).map (x.detourAt (x.bankIn n))).findSome? fun w =>
    if detV w && detPort w == i && detOff w == o then some (detVia w) else none

/-- A buffer is freed (14 R373); plane 8 is a loopback, which takes none. -/
def State.freeBuf (s : State) (p q : Nat) : State :=
  if 8 ≤ p then s else s.modPlane p fun x => x.modPort q fun c => { c with rxfreed := c.rxfreed + 1 }

/-- Buffers of plane `p` that hold a chunk, by port. -/
def State.heldPorts (s : State) (p : Nat) : List Nat :=
  ((s.fab.fwd.filter fun x => x.plane == p && !x.copy).map (·.port)) ++
    s.fab.rx.flatMap fun m => (m.chunks.filter fun c => c.plane == p && !c.done).map (·.port)

/-- A record of kind 0x10 (14 R386, 15 R406). -/
def State.fabRecord (s : State) (die sub plane lane : Nat) (code : BitVec 8) (w3 w4 w5 : Nat) : State :=
  s.post die { kind := 0x10, code := code, w2 := BitVec.ofNat 64 (sub + 2 ^ 8 * plane + 2 ^ 12 * lane), w3 := BitVec.ofNat 64 w3
               w4 := BitVec.ofNat 64 w4, w5 := BitVec.ofNat 64 w5 }

/-- A record of a plane goes to its die. -/
def State.planeRecord (s : State) (sub plane lane : Nat) (code : BitVec 8) (w3 w4 w5 : Nat) : State :=
  s.fabRecord (plane / 2) sub plane lane code w3 w4 w5

/-! ### Requests (08 R232, 14 R370 R376) -/

/-- FCMD.KIND. -/
def fcKind (c : Rec) : Nat := bitsOf (Rec_word c 0) 0 8
/-- FCMD.ORD. -/
def fcOrd (c : Rec) : Bool := (Rec_word c 0).getLsbD 8
/-- FCMD.EV. -/
def fcEv (c : Rec) : Bool := (Rec_word c 0).getLsbD 9
/-- FCMD.DCHIP. -/
def fcChip (c : Rec) : Nat := bitsOf (Rec_word c 0) 10 11
/-- FCMD.RQ. -/
def fcRq (c : Rec) : Nat := bitsOf (Rec_word c 0) 21 5
/-- FCMD.LEN. -/
def fcLen (c : Rec) : Nat := bitsOf (Rec_word c 0) 32 32

/-- A fabric command that is not refused when it is taken (08 R232, 15 R391). -/
def State.fabricOk (s : State) (c : Rec) : Bool :=
  bitsOf (Rec_word c 0) 26 6 == 0 && Rec_word c 6 == 0 && Rec_word c 7 == 0 && decide (fcChip c < s.podChips) &&
    decide (1 ≤ fcLen c) &&
    (if fcKind c = 1 then fcRq c == 0 && Rec_word c 5 == 0
      else fcKind c == 2 && decide (fcLen c ≤ 65536) && Rec_word c 2 == 0) &&
    (!fcOrd c || s.pt.sync)

/-- The lowest sequence among unreplied FATOMs to a destination (15 R403 R404). -/
def lowFatom (l : List FabReq) (dst : Nat) : Option Nat :=
  ((l.filter fun r => r.fatom.isSome && r.dst == dst).map (·.seq)).foldl (fun b q => some (match b with
    | some x => min x q
    | none => q)) none

/-- A request leaves the fabric logic; a FATOM that ends is remembered while one of a lower sequence to its destination is unreplied
(15 R404). -/
def Fabric.leave (f : Fabric) (r : FabReq) : Fabric :=
  let rest := f.reqs.filter (·.seq != r.seq)
  let gone := if r.fatom.isSome then (r.dst, r.seq) :: f.gone else f.gone
  { f with reqs := rest, gone := gone.filter fun g => (lowFatom rest g.1).any fun q => decide (q ≤ g.2) }

/-- FATOMs to a destination of a sequence below `seq`, at or above the lowest unreplied one (15 R404). -/
def Fabric.window (f : Fabric) (dst seq : Nat) : Nat :=
  (f.reqs.filter fun r => r.fatom.isSome && r.dst == dst && decide (r.seq < seq)).length +
    (f.gone.filter fun g => g.1 == dst && decide (g.2 < seq)).length

/-- The count of requests that FREL waits for changes (07 R202): a task's, wherever it is, or a control core's own. -/
def State.countReq (s : State) (o : Origin) (f : Nat → Nat) : State :=
  match o.by_ with
  | .task _ => s.modTask o.task fun t => { t with outstanding := f t.outstanding }
  | .control d => s.modDie d fun x => { x with outstanding := f x.outstanding }
  | .regset _ | .child _ _ | .lead _ _ => s

/-- The chip takes a request: it is sequenced (14 R370) and counted. -/
def State.takeReq (s : State) (r : FabReq) : State :=
  let s1 := s.modFab fun f => { f with reqs := f.reqs ++ [{ r with seq := f.seq, at_ := s.now }], seq := (f.seq + 1) % 2 ^ 48 }
  if r.pod.isSome then s1 else s1.countReq r.origin (· + 1)

/-- A fabric command offered to an FQ, a tile core's or the control FQ 96 + d of a die (07 R198, 13 R338, 15 R399). The stamp of an ordered one
is the pod time at its taking (15 R391). After pod time has been stepped backward that and the other sentence of R391, that stamps do not
decrease, cannot both hold: the model's choice is pod time as it stands (log 93). -/
def State.offerFabric (s : State) (q : Nat) (c : Rec) (o : Origin) (ctx : Option Nat) (dctx : Nat) : State × Bool :=
  if 16 ≤ (s.fab.reqs.filter (·.queue == some q)).length || s.dbgHalt then (s, false)
  else if !s.fabricOk c then
    (s.commandFault o 6 cQueue 0 (BitVec.ofNat 64 (fcChip c)) (BitVec.ofNat 64 (fcLen c)), true)
  else
    (s.takeReq { seq := 0, origin := o, cmd := c, ctx := ctx, dctx := dctx, dst := fcChip c, len := fcLen c, ord := fcOrd c
                 stamp := if fcOrd c then s.now else 0, queue := some q }, true)

/-- The request leaves. It has been counted until now, or until its acknowledgement (07 R202). -/
def State.endReq (s : State) (r : FabReq) : State :=
  let s1 := s.modFab (·.leave r)
  if r.pod.isSome || r.acked then s1 else s1.countReq r.origin (· - 1)

/-- Replaces a request; one whose hint has been counted stays so. -/
def State.putReq (s : State) (r : FabReq) : State :=
  s.modFab fun f => { f with reqs := f.reqs.map fun x => if x.seq = r.seq then { r with counted := r.counted || x.counted } else x }

/-- Changes the registers of the task that issued a request, wherever it is, or of the control core that did. -/
def State.issuerRegs (s : State) (o : Origin) (f : Regs → Regs) : State :=
  match o.by_ with
  | .task _ =>
    match s.coreOfTask o.task with
    | some n => s.modRegs n f
    | none =>
      match (List.range 4).find? fun k => (s.die k).saved.any (·.task.uid == o.task) with
      | some k => s.modDie k fun y => { y with saved := y.saved.map fun (z : Saved) =>
          if z.task.uid = o.task then { z with agent := { z.agent with regs := f z.agent.regs } } else z }
      | none => s
  | .control k => s.modRegs (96 + k) f
  | .regset _ | .child _ _ | .lead _ _ => s

/-- A FATOM that ends in a fault leaves its destination as it was (07 R201; log 43); a control core's is its own deferred fault. -/
def State.failFatom (s : State) (r : FabReq) (f : Fatom) (code : BitVec 8) (addr : Nat) : State :=
  let s1 := s.issuerRegs r.origin (·.release (.s f.d))
  match r.origin.by_ with
  | .control d => s1.modAgent (96 + d) fun a =>
      { a with deferred := a.deferred ++ [{ code := code, src := r.origin.bundle, addr := BitVec.ofNat 64 addr }] }
  | .task _ | .regset _ | .child _ _ | .lead _ _ => s1.commandFault r.origin 6 code addr (BitVec.ofNat 64 r.dst) (BitVec.ofNat 64 r.len)

/-- The request ends in a fault (07 R199 R201, 08 R235, 14 R376): as its task's, as a record, or in the report of a level-4 record. -/
def State.failReq (s : State) (r : FabReq) (code : BitVec 8) (addr : Nat) : State :=
  let s1 := s.endReq r
  match r.pod with
  | some id =>
    match s1.tile id with
    | some e => s1.putTile (e.fails s1 code (BitVec.ofNat 64 addr) 0)
    | none => s1
  | none =>
    match r.fatom with
    | some f => s1.failFatom r f code addr
    | none => s1.commandFault r.origin 6 code addr (BitVec.ofNat 64 r.dst) (BitVec.ofNat 64 r.len)

/-- The address that a FABRIC_PEER carries (14 R376, 07 R201). -/
def FabReq.peerAddr (r : FabReq) : Nat :=
  match r.fatom with
  | some f => f.addr.toNat
  | none => (if fcKind r.cmd = 1 then Rec_word r.cmd 2 else Rec_word r.cmd 1).toNat

/-- The agent whose caches a request's own accesses use. -/
def originAgent (o : Origin) : Nat :=
  match o.by_ with
  | .task c => c
  | .control d => 96 + d
  | .regset _ | .child _ _ | .lead _ _ => 96 + o.die

/-- The issuer of a request's own accesses; what they cause counts for the launch that pushed it (12 R334). -/
def FabReq.issuer (r : FabReq) : Issuer :=
  let unit := match r.origin.by_ with
    | .task _ | .control _ => false
    | .regset _ | .child _ _ | .lead _ _ => true
  { agent := originAgent r.origin, ctx := r.ctx, launch := r.origin.byLaunch, unit }

/-- [a, a + n) cut at multiples of `w`. -/
def cutAt (w a n : Nat) (fuel : Nat) : List (Nat × Nat) :=
  match fuel with
  | 0 => []
  | f + 1 =>
    if n = 0 then []
    else
      let k := min n (w - a % w)
      (a, k) :: cutAt w (a + k) (n - k) f

/-- FATOM's operation as one of the memory unit's (07 R200). -/
def fatomOp (op : Nat) : Nat :=
  match op with
  | 6 => aXchg
  | 7 => aCas
  | n => n

/-- The payload of an atomic request (15 R403). -/
def State.fatomBytes (s : State) (r : FabReq) (f : Fatom) : List Byte :=
  let mask (x : Word) : Nat := if f.wide then x.toNat else x.toNat % 2 ^ 32
  toBytes (mask f.b) 8 ++ toBytes f.cmp.toNat 8 ++ toBytes (f.ctx + (if f.wide then 256 else 0) + 1024 * f.op) 8 ++
    toBytes ((lowFatom s.fab.reqs r.dst).getD r.seq) 8

/-- HINTCNT of the core that pushed a request gains 1 when a page overrides its hint, once (07 R179). -/
def State.noteReq (s : State) (r : FabReq) (attr : Nat) : State :=
  match r.origin.by_ with
  | .task c =>
    if hintOver r.origin.hint attr && !(s.fab.reqs.any fun x => x.seq == r.seq && x.counted) then
      (s.modCoreAt c Core.countHint).putReq { r with counted := true }
    else s
  | .control _ | .regset _ | .child _ _ | .lead _ _ => s

/-- Bytes [off, off + n) of a request's payload; a task's source is read after its earlier accesses, those in its side log too,
and a FATOM is sent after them (07 R198 R200). -/
def State.payload (s : State) (r : FabReq) (off n : Nat) : Acc (List Byte) :=
  let logged := !s.pusherSettled r.origin s.nextId
  match r.fatom, r.pod with
  | some f, _ => if logged then .wait s none else .ok s (s.fatomBytes r f)
  | none, some _ => .ok s (((recBytes r.cmd ++ toBytes r.dctx 8).drop off).take n)
  | none, none =>
    if logged then .wait s none
    else
      let a := addrPlus (Rec_word r.cmd 1).toNat off
      let i := { r.issuer with other := s.foreign r.issuer.agent r.origin }
      (readEach s (cutAt 128 a n n) fun t p =>
        (t.engineRead i r.origin.hint p.1 p.2).bind fun u x => .ok (u.noteReq r x.2) x.1).map List.flatten

/-- Bytes of a chunk. -/
def chunkBytes : Nat := 1536
/-- Chunks of a request. -/
def FabReq.chunks (r : FabReq) : Nat := (r.len + chunkBytes - 1) / chunkBytes

/-- SH.KIND of a request. -/
def FabReq.kind (r : FabReq) : Nat :=
  match r.fatom, r.pod with
  | some _, _ => 3
  | none, some _ => Config.podKind.toNat
  | none, none => fcKind r.cmd

/-- The header of chunk `c` of a request, without the fields of a hop. -/
def State.reqHeader (s : State) (r : FabReq) (c n : Nat) : BitVec 512 :=
  let cmd := r.pod.isNone && r.fatom.isNone
  let addr := match r.fatom with
    | some f => f.addr.toNat
    | none => if !cmd then 0 else if fcKind r.cmd = 1 then (Rec_word r.cmd 2).toNat else (Rec_word r.cmd 5).toNat
  hdMake r.kind r.ord r.attempt s.self r.dst (if cmd then fcRq r.cmd else 0) r.seq r.len (chunkBytes * c) n addr
    (if r.ord then r.stamp else 0) (if cmd then (Rec_word r.cmd 4).toNat else 0)

/-! ### Chunks as they arrive (14 R372 R377) -/

/-- An answer is pending. -/
def State.answer (s : State) (a : Answer) : State := s.modFab fun f => { f with answers := f.answers ++ [{ a with at_ := s.now }] }

/-- The lane by which a chunk came, as its header says (14 R369). -/
def hdLane (h : BitVec 512) : Nat := hdBits h 0 52 4

/-- A chunk for this chip enters its buffer: a duplicate, one of a completed message or one that the full store cannot take is
discarded (14 R377), and room in the store is kept for messages that are arriving (log 82); others wait to be performed or delivered. `ctx`
is the message's context where it is known. Which plane the record of a discarded loopback chunk names 14 R386 does not say: the model's
choice is 7, whose die 3 takes it (log 92). Whether the chunks that R377 discards stay in their buffers in debug halt 15 R399 does not say:
the model's choice is that they are discarded, as nothing of them is performed (log 93). -/
def State.arriveChunk (s : State) (h : BitVec 512) (data : List Byte) (p q : Nat) (ctx : Option Nat) : State :=
  let c : RxChunk := { off := hdOff h, data := data, plane := p, port := q }
  let m : RxMsg := { src := hdSrc h, seq := hdSeq h, hdr := h, at_ := s.now, last := s.now, ctx := ctx, chunks := [c] }
  let add (t : State) : State := t.modFab fun f => { f with rx := f.rx ++ [m] }
  let alone (g : BitVec 512) : Bool := hdKind g == 3 || hdKind g == 4 || hdKind g == 5
  if alone h then add s
  else
    let same (x : RxMsg) : Bool := x.src == m.src && x.seq == m.seq && !alone x.hdr
    match s.fab.done.find? fun d => d.1 == m.src && d.2.1 == m.seq with
    | some d => (s.freeBuf p q).answer { dst := m.src, seq := m.seq, result := d.2.2.1 }
    | none =>
      match s.fab.rx.find? same with
      | some x =>
        if x.chunks.any (·.off == c.off) then s.freeBuf p q
        else
          s.modFab fun f => { f with rx := f.rx.map fun y => if same y then { y with chunks := y.chunks ++ [c], last := s.now } else y }
      | none =>
        if 65536 ≤ s.fab.done.length + (s.fab.rx.filter fun x => !alone x.hdr).length then
          (s.freeBuf p q).planeRecord 0x07 (min p 7) (hdLane h) 0 q (hdHop h) 0
        else add s

/-- Every byte of a message has arrived. -/
def RxMsg.whole (m : RxMsg) : Bool := (m.chunks.map (·.data.length)).sum == hdLen m.hdr

/-- The bytes of a whole message, in order. -/
def RxMsg.bytes (m : RxMsg) : List Byte :=
  ((List.range m.chunks.length).filterMap fun i => m.chunks.find? (·.off == chunkBytes * i)).flatMap (·.data)

/-- The buffers of a message's chunks that have not been performed are freed. -/
def State.freeChunks (s : State) (m : RxMsg) : State :=
  (m.chunks.filter (!·.done)).foldl (fun t c => t.freeBuf c.plane c.port) s

/-- The message leaves. -/
def State.dropMsg (s : State) (m : RxMsg) : State := s.modFab fun f => { f with rx := f.rx.erase m }

/-- The message has been performed, or refused: its completion is recorded, and an acknowledgement waits (14 R375 R377). -/
def State.finishMsg (s : State) (m0 m : RxMsg) (result : Nat) (bar : Bool := false) : State :=
  (((s.freeChunks m).dropMsg m0).modFab fun f => { f with done := f.done ++ [(m.src, m.seq, result, s.now)] }).answer
    { dst := m.src, seq := m.seq, result := result, bar := bar }

/-- Replaces a message. -/
def State.putMsg (s : State) (m0 m : RxMsg) : State := s.modFab fun f => { f with rx := f.rx.map fun x => if x = m0 then m else x }

/-! ### The commands as rows of the opcode table -/

/-- The FQ that a pusher's command reaches, and the contexts of its accesses here and at the destination (07 R197, 08 R233 R235,
11 R292). -/
def State.fabricPath (s : State) (p : Pusher) : Nat × Origin × Option Nat × Nat :=
  match p with
  | .task m =>
    let (o, ctx) := s.originOf p m
    (m, o, ctx, ctx.getD 0)
  | .control d => (96 + d, { by_ := p, die := d }, none, (s.regsets.get {} d).ctx.toNat)
  | .regset r =>
    let x := s.regsets.get {} r
    let d := bitsOf (x.qw.get 0 0) 4 7 % 4
    (96 + d, { by_ := p, die := d, qw1 := x.qw.get 0 1, tag := x.qw.get 0 2 }, none, x.ctx.toNat)
  | .child _ _ | .lead _ _ => (96, { by_ := p, die := 0 }, none, 0)

/-- A fabric command of a kind taken by the FQ that its pusher reaches. -/
def State.takeFabric (s : State) (kind : Nat) (p : Pusher) (c : Rec) : State :=
  let (q, o, ctx, dctx) := s.fabricPath p
  if fcKind c = kind then (s.offerFabric q c o ctx dctx).1 else s

/-- FABRIC_PUT (08 R232). -/
def execFabricPut (p : Pusher) (c : Rec) (s : State) : Outcome State Fault Refusal := (Eff.done (s.takeFabric 1 p c)).out
/-- FABRIC_SEND (08 R232). -/
def execFabricSend (p : Pusher) (c : Rec) (s : State) : Outcome State Fault Refusal := (Eff.done (s.takeFabric 2 p c)).out

end Sys2Proof.Machine
end

