-- ==== Sys2Proof/Machine/Order.lean ====
section
/-! DEFINITION. What requests do where they arrive (10 R285, 09 R267 to R269, 14 R372 R375, 15 R405), how they end where they came
from (14 R375, 15 R404), floors, watermark and ordered delivery (15 R391 to R397), pod barriers (15 R400 to R402) and pod time
(15 R387 to R389). -/

namespace Sys2Proof.Machine

open Host (Outcome)

/-! ### Performing at the destination (10 R285, 11 R299, 09 R267) -/

/-- The issuer of a message's accesses here: the fabric logic, in the context of the issuer's context number (11 R292; log 37). -/
def RxMsg.issuer (m : RxMsg) : Issuer :=
  { agent := 96 + (match m.chunks with
      | c :: _ => if c.plane < 8 then c.plane / 2 else 0
      | [] => 0)
    ctx := some (m.ctx.getD (Config.issuerCtx m.src m.seq).toNat), unit := true }

/-- Every piece of [a, a + n) can be reached by accesses of a kind. -/
def State.reachAll (s : State) (i : Issuer) (k : AccKind) (a n : Nat) : Acc Unit :=
  (readEach s (cutAt 65536 a n (n / 65536 + 2)) fun t p => (t.reach i k p.1 p.2).map fun _ => ()).map fun _ => ()

/-- SH.RBAR can be reached, as the 16 bytes of a barrier object. -/
def State.reachBar (s : State) (i : Issuer) (a : Nat) : Acc Unit :=
  if a = 0 then .ok s ()
  else if a % 16 ≠ 0 then .fail s cStore a
  else (s.reach i .both a 16).map fun _ => ()

/-- The arrival at SH.RBAR. -/
def State.arriveRbar (s : State) (i : Issuer) (a n : Nat) : Acc Unit :=
  if a = 0 then .ok s () else (s.arrive i a n).map fun _ => ()

/-- Bytes written in aligned 8-byte words, each single-copy atomic (10 R285). -/
def State.writeWords (s : State) (i : Issuer) (k : AccKind) (a : Nat) (bs : List Byte) : Acc Unit :=
  (readEach s (cutAt 8 a bs.length bs.length) fun t p => t.storeAs i k p.1 ((bs.drop (p.1 - a)).take p.2)).map fun _ => ()

/-- How a message goes on here: it is done with, or it stays, on a page or behind something. -/
inductive Perform where
  | done (s : State)
  | stays (s : State)

/-- A message stays, waiting on a page. -/
def State.keepMsg (s : State) (m0 m : RxMsg) (p : Option (Nat × Nat)) : Perform := .stays (s.putMsg m0 { m with page := p })

/-- A part of a message's effect after its checks: performed whole, and the rest follows; or not at all for now. What fails now waits, as
a page that is absent does, since a request that has been checked is not refused any more (11 R299; log 41). -/
def State.orStay (s : State) (m0 m : RxMsg) (x : Acc Unit) (go : State → Perform) : Perform :=
  match x with
  | .ok t _ => go t
  | .wait t p => (s.undo t).keepMsg m0 m p
  | .fail _ _ _ => s.keepMsg m0 m none

/-- The chunks of a message that have not been performed are written from `a` up, in turn, each in its own access; once every byte of
the message has been performed the rest of its effect follows (14 R372). -/
def State.writeChunks (s : State) (i : Issuer) (k : AccKind) (m0 m : RxMsg) (a : Nat) (done todo : List RxChunk)
    (rest : State → RxMsg → Perform) : Perform :=
  match todo with
  | [] =>
    let m1 := { m with chunks := done, page := none }
    if m1.whole then rest s m1 else .stays (s.putMsg m0 m1)
  | c :: r =>
    if c.done then s.writeChunks i k m0 m a (done ++ [c]) r rest
    else
      s.orStay m0 { m with chunks := done ++ c :: r } (s.writeWords i k (addrPlus a c.off) c.data) fun t =>
        (t.freeBuf c.plane c.port).writeChunks i k m0 m a (done ++ [{ c with done := true }]) r rest

/-- Where an entry's completion block lies. -/
def State.blockAt (s : State) (e : TileEntry) : Option Nat :=
  let b := (tiCblk e.rec_).toNat
  if b = 0 then none else if e.phys then some b else s.physOf e.ctx b

/-- A put has written words 2 to 7 of the completion block at the physical address `b`, or has arrived at its barrier object, by whatever
context and addresses. -/
def State.putReaches (s : State) (m : RxMsg) (b : Nat) : Bool :=
  let phys (a : Nat) : Option Nat := m.issuer.ctx.bind fun c => s.physOf c a
  let n := hdLen m.hdr
  (hdRbar m.hdr != 0 && phys (hdRbar m.hdr) == some b) || (cutAt 65536 (hdAddr m.hdr) n (n / 65536 + 2)).any fun p =>
    (phys p.1).any fun q => decide (q ≤ b + 16) && decide (b + 64 ≤ q + p.2)

/-- The report of a level-4 record stands in its completion block once a put of the lead chip has written it there, or has arrived at
its barrier object (09 R248 R253, 10 R286; log 28). -/
def State.podReport (s : State) (m : RxMsg) : State :=
  let told (e : TileEntry) : Bool :=
    e.queue == .pq && e.level == 4 && tiOpc e.rec_ != 0x0C && !e.failed && e.done == 0 && (s.blockAt e).any (s.putReaches m)
  if m.src ≠ bitsOf s.mg.podlead 48 11 then s
  else
    match s.tiles.find? told with
    | some e => s.putTile { e with done := 1 }
    | none => s

/-- A put as far as its chunks have arrived; its destination is checked first, and refuses it whole (11 R297 R299). -/
def State.performPut (s : State) (m : RxMsg) : Perform :=
  let i := m.issuer
  let run (t : State) (x : RxMsg) : Perform :=
    t.writeChunks i .put m x (hdAddr m.hdr) [] x.chunks fun u y =>
      u.orStay m y (u.arriveRbar i (hdRbar m.hdr) (hdLen m.hdr)) fun v => .done ((v.finishMsg m y 0).podReport m)
  if m.checked then run s m
  else
    match s.reachAll i .put (hdAddr m.hdr) (hdLen m.hdr) with
    | .wait t p => t.keepMsg m m p
    | .fail t _ _ => .done (t.finishMsg m m 1)
    | .ok t _ =>
      match t.reachBar i (hdRbar m.hdr) with
      | .ok u _ => run u { m with checked := true }
      | .wait u p => u.keepMsg m m p
      | .fail u _ _ => .done (u.finishMsg m m 1 true)

/-- Delivery `i` to a bound queue may be placed: its ring entry's last task has been reported (09 R268). -/
def Launch.ringFree (l : Launch) (i : Nat) : Bool :=
  decide (i < bindEnt l.rec_) || decide ((i - bindEnt l.rec_) / bindN l.rec_ < l.head.get 0 0)

/-- The descriptor of delivery `i` (09 R267). -/
def descriptor (m : RxMsg) (i : Nat) (payload : Nat) : List Byte :=
  let h := m.hdr
  toBytes (m.src + 2 ^ 16 * hdRq h + (if hdOrd h then 2 ^ 24 else 0) + 2 ^ 32 * (i % 2 ^ 32)) 8 ++ toBytes (hdLen h) 8 ++
    toBytes (hdAddr h) 8 ++ toBytes payload 8 ++ toBytes (if hdOrd h then hdStamp h else m.last) 8 ++ toBytes 0 24

/-- What the decision log tells of an unordered delivery to a queue of a binding: it goes, it waits, or the replay mismatches
(12 R332 R333). -/
def State.mayDeliver (s : State) (l : Launch) (m : RxMsg) : Placing :=
  let q := bindRq l.rec_
  let key := streamKey 2 q
  let name := 2 ^ 48 * m.src + m.seq
  if hdOrd m.hdr then .go s
  else
    match s.replayOf l key with
    | (u, .off) =>
      match u.recordDecision l.num (2 + 2 ^ 17 * q) name with
      | .ok t _ => .go t
      | .wait t _ | .fail t _ _ => .later t
    | (u, .over j) => .later (u.mismatch l j 2 m.src)
    | (u, .waits) => .later u
    | (u, .entry j _ v) =>
      if v = name then .go (u.tookEntry l.num key j)
      else if u.fab.rx.any fun x => hdKind x.hdr == 2 && 2 ^ 48 * x.src + x.seq == v then .later u
      else .later (u.mismatch l j 2 m.src)

/-- The first ring position from `d` on that is not written, among `fuel`, and what is written beyond it. -/
def advance (d : Nat) (l : List Nat) (fuel : Nat) : Nat × List Nat :=
  match fuel with
  | 0 => (d, l)
  | f + 1 => if l.contains d then advance (d + 1) (l.erase d) f else (d, l)

/-- Ring position `i` has been written: what stands in the ring up to the first position that is not is delivered (09 R267). -/
def Launch.fill (l : Launch) (i : Nat) : Launch :=
  let x := advance l.delivered (i :: l.filled) (l.filled.length + 1)
  { l with delivered := x.1, filled := x.2 }

/-- The next ring position of a binding is taken: that of a message that has been discarded, or the first that none has had. -/
def Launch.takePlace (l : Launch) : Launch := if l.holes.isEmpty then { l with taken := l.taken + 1 } else { l with holes := l.holes.tail }

/-- A send at its ring position: its chunks, then its descriptor, then its arrival (10 R285, 09 R267). -/
def State.placeSend (s : State) (l : Launch) (i : Nat) (m0 m : RxMsg) : Perform :=
  let ctx : Issuer := { m.issuer with ctx := some l.ctx }
  let slot := i % bindEnt l.rec_
  let data := addrPlus (Rec_word l.rec_ 3).toNat (65536 * slot : Nat)
  let arrives (t : State) (x : RxMsg) : Perform :=
    t.orStay m0 x (t.arriveRbar m.issuer (hdRbar m.hdr) (hdLen m.hdr)) fun u => .done (u.finishMsg m0 x 0)
  s.writeChunks ctx .write m0 m data [] m.chunks fun t x =>
    if x.described then arrives t x
    else
      t.orStay m0 x (t.writeWords ctx .write (addrPlus (Rec_word l.rec_ 2).toNat (64 * slot : Nat)) (descriptor x i data)) fun u =>
        arrives (u.modLaunch l.num (·.fill i)) { x with described := true }

/-- A send as far as its chunks have arrived: after the checks of its destination it takes the next ring position of its queue, where
its chunks are written (09 R267 R268 R269, 14 R372; log 38). -/
def State.performSend (s : State) (m : RxMsg) : Perform :=
  match s.boundTo (hdRq m.hdr) with
  | none => .done (s.finishMsg m m 2)
  | some l =>
    match m.pos with
    | some p => if p.1 = l.num then s.placeSend l p.2 m m else .done (s.finishMsg m m 2)
    | none =>
      let i := l.holes.headD l.taken
      let ctx : Issuer := { m.issuer with ctx := some l.ctx }
      let slot := i % bindEnt l.rec_
      if l.halted || !l.ringFree i then .stays s
      else
        match (s.reachAll ctx .write (addrPlus (Rec_word l.rec_ 3).toNat (65536 * slot : Nat)) (hdLen m.hdr)).bind fun t _ =>
            (t.reachAll ctx .write (addrPlus (Rec_word l.rec_ 2).toNat (64 * slot : Nat)) 64).bind fun u _ =>
              match u.reachBar m.issuer (hdRbar m.hdr) with
              | .ok v _ => .ok v true
              | .wait v p => .wait v p
              | .fail v _ _ => .ok v false with
        | .wait t p => t.keepMsg m m p
        | .fail t _ _ => .done (t.finishMsg m m 1)
        | .ok t false => .done (t.finishMsg m m 1 true)
        | .ok t true =>
          match t.mayDeliver l m with
          | .later u => .stays u
          | .go u =>
            (u.modLaunch l.num (·.takePlace)).placeSend l i m { m with checked := true, pos := some (l.num, i) }

/-- A level-4 record on the lead chip takes the next ring entry (09 R248); none while the ring is full or the entry's line is held (11 R302
R306). -/
def State.podDeliver (s : State) (origin ctx : Nat) (stamp : Word) (r : Rec) : Option State :=
  let w := s.mg.podlead
  let n := 2 ^ bitsOf w 40 4
  let i := s.mg.podtail
  if !w.getLsbD 63 || bitsOf w 48 11 ≠ s.self || n ≤ (i - s.mg.podhead).toNat then none
  else
    let a := bitsOf w 7 33 * 128 + 128 * (i.toNat % n)
    let bs := recBytes r ++ toBytes origin 8 ++ toBytes ctx 8 ++ toBytes stamp.toNat 8 ++ toBytes 0 40
    if s.homeHeld (unitIssuer 0) a 128 then none
    else
    let s1 := s.physWrite a bs
    some ({ s1 with mg := { s1.mg with podtail := i + 1 } }.post 0
      { kind := 0x11, w2 := i.setWidth 64, w3 := BitVec.ofNat 64 origin })

/-- POD_RECORD_DELIVERY (09 R248); none in debug halt (15 R399). -/
def execPodRecordDelivery (origin ctx : Nat) (stamp : Word) (r : Rec) (s : State) : Outcome State Fault Refusal :=
  (Eff.done (if s.dbgHalt then s else (s.podDeliver origin ctx stamp r).getD s)).out

/-- A whole level-4 record: 64 bytes and its context (log 39). -/
def State.performPod (s : State) (m : RxMsg) : Perform :=
  let bs := m.bytes
  match s.podDeliver m.src (ofBytes (bs.drop 64)) (BitVec.ofNat 64 (hdStamp m.hdr)) (recOf (bs.take 64)) with
  | some t => .done (t.finishMsg m m 0)
  | none => .stays s

/-! ### Remote atomics (15 R403 R404 R405) -/

/-- Entries of a reply cache below a sequence are dropped. -/
def ReplyCache.raise (c : ReplyCache) (low : Nat) : ReplyCache :=
  let l := max c.low low
  { low := l, entries := c.entries.filter fun e => decide (l ≤ e.1) }

/-- An atomic request from `src`: discarded, answered from the cache, or performed as one access (15 R405). -/
def State.performAtomic (s : State) (m : RxMsg) (src seq addr : Nat) (w0 w1 w2 low : Nat) : Perform :=
  let c := s.fab.cache.get {} src
  let put (t : State) (x : ReplyCache) : State := t.modFab fun f => { f with cache := f.cache.set {} src (x.raise low) }
  let leave (t : State) : State := (t.freeChunks m).dropMsg m
  let reply (t : State) (old : Word) (result : Nat) : State :=
    t.answer { dst := src, seq := seq, result := result, reply := some old }
  if seq < c.low then .done (leave (put s c))
  else
    match c.entries.find? (·.1 == seq) with
    | some e => .done (leave (put (reply s e.2.1 e.2.2) c))
    | none =>
      let n := if w2 / 2 ^ 8 % 2 = 1 then 8 else 4
      let i : Issuer := { m.issuer with ctx := some (w2 % 64) }
      let done (t : State) (old : Word) (result : Nat) : Perform :=
        .done (leave (put (reply t old result) { c with entries := c.entries ++ [(seq, old, result)] }))
      match s.atomicAt i (fatomOp (w2 / 2 ^ 10 % 8)) n addr (BitVec.ofNat 64 w0) (BitVec.ofNat 64 w1) with
      | .ok t old => done t (sext64 (8 * n) old) 0
      | .wait t p => t.keepMsg m m p
      | .fail t _ _ => done t 0 1

/-- An atomic reply from `src`: it fills the register and acknowledges the request; one already replied is ignored (15 R404,
07 R201). -/
def State.takeReply (s : State) (src seq status : Nat) (old : Word) : State :=
  match s.fab.reqs.find? fun r => r.seq == seq && r.dst == src && r.fatom.isSome && !r.waits with
  | none => s
  | some r =>
    match r.fatom with
    | none => s
    | some f => if status % 4 = 0 then (s.issuerRegs r.origin fun g => g.write (.s f.d) (.w old)).endReq r else s.failReq r cStore f.addr.toNat

/-- FATOM_REPLY_ARRIVE (15 R404); in debug halt it stays in its buffer (15 R399). -/
def execFatomReplyArrive (src seq status : Nat) (old : Word) (s : State) : Outcome State Fault Refusal :=
  (Eff.done (if s.dbgHalt then s else s.takeReply src seq status old)).out

/-! ### Acknowledgement (14 R375) -/

/-- FREL stops counting a request when it is acknowledged (07 R202). -/
def State.acknowledged (s : State) (r : FabReq) : State := if r.acked then s else s.countReq r.origin (· - 1)

/-- A request that has been performed ends with its arrival and its record (08 R232 R439); until then it stays, acknowledged. -/
def State.finishReq (s0 : State) (r0 : FabReq) : State :=
  let s := s0.acknowledged r0
  let r := { r0 with acked := true }
  if r0.pod.isSome then s0.endReq r0
  else if fcEv r.cmd && !s.canPost r.origin.die then
    if r.waited then s.putReq r else (s.countHold r.origin.die).putReq { r with waited := true }
  else
    match (if s.unanswered (dieOf r.issuer.agent) r.page then .wait s r.page else s.arriveAt r.issuer (Rec_word r.cmd 3) r.len) with
    | .wait t p => t.putReq { r with page := p }
    | .fail t code a => t.failReq r code a
    | .ok t _ =>
      let t1 := t.endReq r
      if fcEv r.cmd then
        t1.post r.origin.die (s.recordOf r.origin 6 0 (BitVec.ofNat 64 r.dst) (BitVec.ofNat 64 r.len) 0)
      else t1

/-- One acknowledgement record (14 R375): performed; refused at the destination, with the address that failed there (log 41); or
refused because the queue is not bound. -/
def State.ackOne (s : State) (src : Nat) (w : Word) (known : Option Bool := none) : State :=
  match s.fab.reqs.find? fun r => r.seq == bitsOf w 0 48 && r.dst == src && r.fatom.isNone && !r.acked with
  | none => s
  | some r =>
    match bitsOf w 48 2 with
    | 0 => s.finishReq r
    | 1 =>
      let bar := known.getD (Rec_word r.cmd 4 != 0 && Config.refusedAtBar s.fresh)
      { s.failReq r cStore (Rec_word r.cmd (if bar then 4 else 2)).toNat with fresh := s.fresh + 1 }
    | 2 => s.failReq r cQueue (Rec_word r.cmd 1).toNat
    | _ => s

/-- ACK_RECEIVE (14 R375); in debug halt the chunk stays in its buffer (15 R399). -/
def execAckReceive (src : Nat) (acks : List Word) (s : State) : Outcome State Fault Refusal :=
  (Eff.done (if s.dbgHalt then s else acks.foldl (fun t w => t.ackOne src w) s)).out

/-! ### What waits here goes on -/

/-- A message that is not an ordered one goes on as far as it can. -/
def State.performMsg (s : State) (m : RxMsg) : State :=
  let word (bs : List Byte) (k : Nat) : Nat := ofBytes ((bs.drop (8 * k)).take 8)
  let bs := m.bytes
  let result (p : Perform) : State :=
    match p with
    | .done t | .stays t => t
  if s.unanswered (dieOf m.issuer.agent) m.page then s
  else
  match hdKind m.hdr with
  | 1 => result (s.performPut m)
  | 2 => result (s.performSend m)
  | 3 => result (s.performAtomic m m.src m.seq (hdAddr m.hdr) (word bs 0) (word bs 1) (word bs 2) (word bs 3 % 2 ^ 48))
  | 4 => ((s.takeReply m.src m.seq (word bs 1) (BitVec.ofNat 64 (word bs 0))).freeChunks m).dropMsg m
  | 5 =>
    let acks := (List.range (hdLen m.hdr / 8)).map fun k => BitVec.ofNat 64 (word bs k)
    ((acks.foldl (fun t w => t.ackOne m.src w) s).freeChunks m).dropMsg m
  | _ => s

/-- A message of the ordered class. -/
def RxMsg.ordered (m : RxMsg) : Bool := hdOrd m.hdr

/-- Unordered messages, in their order of arrival. In debug halt none is performed (15 R399). -/
def State.performAll (s : State) : State :=
  if s.dbgHalt then s
  else (s.fab.rx.filter (!·.ordered)).foldl (fun t m => if t.fab.rx.contains m then t.performMsg m else t) s

/-- Requests whose arrival or record waits. -/
def State.retryAcked (s : State) : State :=
  (s.fab.reqs.filter (·.acked)).foldl (fun t r => match t.fab.reqs.find? (·.seq == r.seq) with
    | some x => t.finishReq x
    | none => t) s

/-- FATOM_REQUEST_ARRIVE: an atomic request from `src`, its address in word 0 of `rec`, words 0 to 2 of its payload after it, and
LOW (15 R403 R405). -/
def execFatomRequestArrive (src seq low : Nat) (r : Rec) (s : State) : Outcome State Fault Refusal :=
  let h := hdMake 3 false 0 src s.self 0 seq 32 0 32 (Rec_word r 0).toNat 0 0
  let bs := toBytes (Rec_word r 1).toNat 8 ++ toBytes (Rec_word r 2).toNat 8 ++ toBytes (Rec_word r 3).toNat 8 ++ toBytes low 8
  (Eff.done (s.arriveChunk h bs 8 0 none).performAll).out

/-- FATOM_SEND_RELEASE: a FATOM that waits is sent once fewer than 4,096 to its destination have a sequence at or above the lowest
unreplied one (15 R404). -/
def execFatomSendRelease (idx : Nat) (s : State) : Outcome State Fault Refusal :=
  (Eff.done (match s.fab.reqs[idx]? with
    | none => s
    | some r =>
      let first := s.fab.reqs.find? fun x => x.waits && x.dst == r.dst
      if r.waits && decide (s.fab.window r.dst r.seq < 4096) && (first.map (·.seq)) == some r.seq then
        s.putReq { r with waits := false, at_ := s.now }
      else s)).out

/-! ### Floors and the watermark (15 R392 R393) -/

/-- Tn of a slot. -/
def slotTime (n : Nat) : Nat := 64 * n - 48

/-- The least of numbers and a bound. -/
def leastOf (b : Nat) (l : List Nat) : Nat := l.foldl min b

/-- OwnP toward chip `y`, at Tn. -/
def State.ownFloor (s : State) (y t : Nat) : Nat :=
  leastOf t ((s.fab.reqs.filter fun r =>
    r.ord && !r.acked && decide (r.sent.length < r.chunks) && (if r.dst = s.self then s.self else (firstHop s.self r.dst r.attempt).2) == y).map
      (·.stamp))

/-- The next hop of a chunk held for forwarding: on which kind of plane, or on its own plane only when it has come by a detour
(14 R374). A first hop by column ends at the source's member of the destination's herd, by whatever relay the chunk came. Where a detoured hop
by column is the only one and the two members differ, the chip that R374 names and the offset (o − a) that it gives name different chips:
the model's choice is the chip, and a hop by row from there (log 90). -/
def State.forwardHop (s : State) (x : Held) : Option Nat × Bool × Nat :=
  let row := rowPlane x.plane
  let hop := hdHop x.chunk.hdr
  let dst := hdDst x.chunk.hdr
  let target := if row then 64 * herdOf hop + memOf dst else 64 * herdOf dst + memOf hop
  if s.self = target || (!row && s.self == 64 * herdOf dst + memOf (hdSrc x.chunk.hdr)) then (none, secondHop s.self dst) else (some x.plane, row, target)

/-- HeldP toward chip `y`. -/
def State.heldFloor (s : State) (y t : Nat) : Nat :=
  leastOf t ((s.fab.fwd.filter fun x => hdOrd x.chunk.hdr && (s.forwardHop x).2.2 == y).map fun x => hdStamp x.chunk.hdr)

/-- The watermark inputs: planes and ports. -/
def State.inputs (s : State) : List (Nat × Nat) :=
  (List.range 8).flatMap fun p =>
    let x := s.plane p
    let row := rowPlane p
    let i := portOn row s.self
    if !x.light then []
    else ((List.range 64).filter fun q =>
      q != i && decide (chipOn row s.self q < s.podChips) && x.hasOffset x.bank (offsetTo q i) && !x.inmask.getLsbD q).map fun q => (p, q)

/-- An input as it stands. -/
def State.input (s : State) (k : Nat × Nat) : PlaneIn := (s.plane k.1).ins.get {} k.2

/-- Fwd: the least first-hop floor of the inputs. -/
def State.fwdFloor (s : State) (t : Nat) : Nat := leastOf t (s.inputs.map fun k => (s.input k).hf)

/-- SH.FLOOR of a header of slot `n` to chip `y`: the path floor in an even slot, the first-hop floor in an odd one. -/
def State.floorTo (s : State) (n y : Nat) : Nat :=
  let t := slotTime n
  if n % 2 = 1 then s.ownFloor y t else min (s.ownFloor y t) (min (s.heldFloor y t) (s.fwdFloor t))

/-- Every lit receive lane has received slot `n`, or a microsecond has passed since the slot in which it was dark (log 36). -/
def State.slotHeard (s : State) (n : Nat) : Bool :=
  decide (64 * n + 1064 ≤ s.now) ||
    (List.range 8).all fun p =>
      let x := s.plane p
      let row := rowPlane p
      let i := portOn row s.self
      !x.light || (List.range 16).all fun l =>
        let o := x.offset n l
        o == 0 || x.out.contains l || !decide (chipOn row s.self (offsetTo o i) < s.podChips) ||
          decide (n < s.fab.heard.get 0 (16 * p + l))

/-- A floor is applied to its input: a lower value is ignored. -/
def State.applyFloor (s : State) (f : Nat × Nat × Nat × Nat) : State :=
  s.modPlane f.2.1 fun x =>
    let y := x.ins.get {} f.2.2.1
    let z :=
      if f.1 % 2 = 1 then { y with hf := max y.hf f.2.2.2 }
      else if y.pf < f.2.2.2 then { y with pf := f.2.2.2, since := s.now } else y
    { x with ins := x.ins.set {} f.2.2.1 z }

/-- Floors of slots that have been heard are applied. -/
def State.applyFloors (s : State) : State :=
  let (now, later) := s.fab.floors.partition fun f => s.slotHeard f.1
  now.foldl State.applyFloor (s.modFab fun f => { f with floors := later })

/-- The watermark: it never falls. Its first term is the floor of the chip toward itself (15 R393), and a loopback has no header whose slot
that could be: the model's choice is the floor at the start of the slot last handed over, with what has been handed over in that slot itself
left out (log 93). -/
def State.setWmark (s : State) : State :=
  let t := slotTime s.fab.slot
  s.modFab fun f => { f with wmark := max f.wmark (leastOf (s.ownFloor s.self t) (s.inputs.map fun k => (s.input k).pf)) }

/-- What waits in the fabric logic goes on. -/
def State.fabricWork (s : State) : State := s.performAll.retryAcked.applyFloors.setWmark

/-! ### Ordered delivery (15 R394 R395 R396) -/

/-- Ordered messages of which a chunk has arrived. -/
def State.orderedRx (s : State) : List RxMsg := s.fab.rx.filter (·.ordered)

/-- The message is late: its key is below that of one already delivered. -/
def State.isLate (s : State) (m : RxMsg) : Bool :=
  match s.fab.key with
  | some k => keyLt (hdKey m.hdr) k
  | none => false

/-- A part of the message's effect has been performed. -/
def RxMsg.begun (m : RxMsg) : Bool := m.pos.isSome || m.chunks.any (·.done)

/-- The ordered message that is delivered next: a late one that is whole, or the one of least key when it is whole and below the
watermark; one whose effect has begun goes on first. -/
def State.nextOrdered (s : State) : Option RxMsg :=
  let l := s.orderedRx
  match l.find? fun m => m.whole && m.begun with
  | some m => some m
  | none =>
    match l.find? fun m => m.whole && s.isLate m with
    | some m => some m
    | none => l.find? fun m => m.whole && decide (hdStamp m.hdr < s.fab.wmark) && l.all fun x => x == m || !keyLt (hdKey x.hdr) (hdKey m.hdr)

/-- The whole effect of an ordered message. -/
def State.performOrdered (s : State) (m : RxMsg) : Perform :=
  match hdKind m.hdr with
  | 1 => s.performPut m
  | 2 => s.performSend m
  | k => if k = Config.podKind.toNat then s.performPod m else .stays s

/-- An ordered message whose turn it is: its effect, and then its key is the last delivered, or it has been late (15 R394 R396). -/
def State.deliver (s : State) (m : RxMsg) : State :=
  if s.unanswered (dieOf m.issuer.agent) m.page then s
  else
  match s.performOrdered m with
  | .stays t => t
  | .done t => if s.isLate m then t.fabRecord 0 0x21 0 0 0 0 0 (hdStamp m.hdr) else t.modFab fun f => { f with key := some (hdKey m.hdr) }

/-- ORDERED_DELIVERY (15 R394 R396); none in debug halt (15 R399). -/
def execOrderedDelivery (s0 : State) : Outcome State Fault Refusal :=
  let s := s0.fabricWork
  (Eff.done (match s.nextOrdered with
    | none => s
    | some m => if s.dbgHalt then s else s.deliver m)).out

/-- A discarded message leaves the ring position that it had taken to the next delivery (09 R267, 15 R395; log 38). -/
def State.leavePlace (s : State) (m : RxMsg) : State :=
  match m.pos with
  | some p => s.modLaunch p.1 fun l => { l with holes := l.holes ++ [p.2] }
  | none => s

/-- ORDERED_INCOMPLETE_DISCARD: an ordered message that is still incomplete (RETRY + 2) × RTO µs after its first chunk is dropped
(15 R395), also one of which a part was written before the rest of it was lost (14 R382); none in debug halt, where its chunks stay in their
buffers (15 R399). -/
def execOrderedIncompleteDiscard (idx : Nat) (s : State) : Outcome State Fault Refusal :=
  (Eff.done (match s.orderedRx[idx]? with
    | none => s
    | some m =>
      if m.whole || s.dbgHalt || s.counted < m.at_ + (s.fab.retry + 2) * s.fab.rto * 1000 then s
      else (((s.freeChunks m).dropMsg m).leavePlace m).fabRecord 0 0x22 0 0 0 0 0 (hdStamp m.hdr))).out

/-- WATERMARK_STALL: the path floor of an input has not risen for OTCTL.STALL µs, the pause of a clock change not counted (15 R397). -/
def execWatermarkStall (p q : Nat) (s : State) : Outcome State Fault Refusal :=
  let y := s.input (p, q)
  let since := max y.since (s.plane p).stallAt
  (Eff.done (if s.paused || !s.inputs.contains (p, q) || s.counted < since + s.fab.stall * 1000 then s
    else
      (s.modPlane p fun x => { x with ins := x.ins.set {} q { y with since := s.now } }).planeRecord 0x20 p 0 cStall q y.chip y.pf)).out

/-- COMPLETION_RECORD_EXPIRY: a completion record is dropped after (RETRY + 3) × RTO µs (14 R377). -/
def execCompletionRecordExpiry (idx : Nat) (s : State) : Outcome State Fault Refusal :=
  (Eff.done (match s.fab.done[idx]? with
    | none => s
    | some d =>
      if s.counted < d.2.2.2 + (s.fab.retry + 3) * s.fab.rto * 1000 then s
      else s.modFab fun f => { f with done := f.done.eraseIdx idx })).out

/-! ### Pod barriers (15 R400 R401 R402) -/

/-- Channel `k`. -/
def State.bar (s : State) (k : Nat) : PodBar := s.fab.bars.get {} k
/-- Replaces a channel. -/
def State.setBar (s : State) (k : Nat) (b : PodBar) : State := s.modFab fun f => { f with bars := f.bars.set {} k b }

/-- PB.G, PB.S and PB.A of a channel. -/
def barBits (b : PodBar) : Nat := (if b.arrived then 1 else 0) + (if b.herd then 2 else 0) + 4 * (b.gen.toNat % 4)

/-- SH.BAR of a header. -/
def State.shBar (s : State) : Nat := ((List.range 4).map fun k => barBits (s.bar k) * 2 ^ (4 * k)).sum

/-- A peer at a port of the row or column gratings counts as arrived, or as herd-complete, for the channel's generation. What a header
said two generations ago says nothing about this one. -/
def State.peerCounts (s : State) (row : Bool) (k q : Nat) : Bool :=
  let b := s.bar k
  let planes := (List.range 8).filter fun p => rowPlane p == row
  let tells (p : Nat) : Bool :=
    let y := s.input (p, q)
    let v := bitsOf (y.bar.setWidth 64) (4 * k) 4
    (s.plane p).light && y.heard && decide ((b.gen - y.gens.getD k 0).toNat ≤ 1) &&
      (v / 4 == (b.gen.toNat + 1) % 4 || (v / 4 == b.gen.toNat % 4 && (v / (if row then 1 else 2)) % 2 == 1))
  q == portOn row s.self || !decide (chipOn row s.self q < s.podChips) || planes.all (fun p => (s.plane p).inmask.getLsbD q) ||
    planes.any tells

/-- Herd complete once the chip and every member of its herd have arrived. -/
def State.herdUpdate (s : State) (k : Nat) : State :=
  let b := s.bar k
  if b.arrived && !b.herd && (List.range 64).all fun q => s.peerCounts true k q then s.setBar k { b with herd := true } else s

/-- Every channel's herd-complete flag. -/
def State.herdUpdates (s : State) : State := (List.range 4).foldl State.herdUpdate s

/-- A level-4 TBARRIER instance of a tag has met its local conditions: it arrives, or waits for the pending generation (15 R402). -/
def State.barArrive (s : State) (k tag : Nat) : State :=
  let b := s.bar k
  if b.arrived then s.setBar k { b with waiting := b.waiting ++ [tag] }
  else s.setBar k { b with arrived := true, members := b.members ++ [tag] }

/-- A store to PBAR k (15 R402). -/
def State.writePbar (s : State) (k : Nat) (val : Word) : State :=
  let b := s.bar k
  if val.getLsbD 32 && !b.arrived then s.setBar k { b with arrived := true } else s

/-- PBAR_ARRIVE (15 R402). -/
def execPbarArrive (who k : Nat) (val : Word) (s : State) : Outcome State Fault Refusal :=
  (Eff.done (if reaches who && k < 4 then s.writePbar k val else s)).out

/-! ### Pod time (15 R388 R389) -/

/-- Changes pod time control. -/
def State.modTime (s : State) (f : PodTime → PodTime) : State := { s with pt := f s.pt }

/-- PTSTAT.OFFS: clamped to ±32,767. -/
def offsField (x : Int) : BitVec 16 := BitVec.ofInt 16 (max (-32767) (min 32767 x))

/-- A measured offset from the reference is taken: stepped at first acquisition and beyond 1 µs, slewed otherwise (15 R388;
log 40). -/
def State.discipline (s : State) (off : Int) : State :=
  let far := decide (1000 < off) || decide (off < -1000)
  let s1 := s.modTime fun p => { p with offs := offsField off }
  if !s.pt.acq || far then
    (s1.rebase ((s.now : Int) - off).toNat).modTime fun p => { p with acq := true, slew := 0 }
  else (s1.rebase s.now).modTime fun p => { p with slew := -off }

/-- SYNC changes; a clearing is recorded (15 R388). -/
def State.setSync (s : State) (v : Bool) : State :=
  let s1 := s.modTime fun p => { p with sync := v }
  if s.pt.sync && !v then s1.fabRecord 0 0x24 0 0 0 0 0 0 else s1

/-- PTP_MESSAGE: the root takes the four times of an exchange with its grandmaster in PTCTL.DOM: Sync sent (`sync.sent`) and
received, Delay_Req sent and received (15 R388). -/
def execPtpMessage (sync : PtpSync) (t2 t3 t4 : Nat) (s : State) : Outcome State Fault Refusal :=
  let off : Int := (((t2 : Int) - sync.sent) - ((t4 : Int) - t3)) / 2
  (Eff.done (if !s.pt.root || sync.dom ≠ s.pt.dom.toNat then s
    else ((s.discipline off).modTime fun p => { p with ext := true, hold := false }).setSync true)).out

/-- A plane has heard a port within a rotation of its slot table (15 R388; log 40). -/
def Plane.hears (x : Plane) (q now : Nat) : Bool :=
  let y := x.ins.get {} q
  x.light && y.heard && decide (now ≤ y.heardAt + x.lenOf x.bank + 1)

/-- A follower measures its offset from a header of its parent (15 R388; log 40). -/
def State.followParent (s : State) (plane chip : Nat) (tsync : Bool) : State :=
  let root := Config.timeRoot
  let me := s.self
  let parent := if herdOf me = herdOf root then root else 64 * herdOf root + memOf me
  let row := herdOf me == herdOf root
  let q := portOn row parent
  let lower := (List.range plane).any fun p =>
    rowPlane p == row && (s.plane p).hears q (s.now / 64) && (s.input (p, q)).chip == parent
  if s.pt.root || me = root || chip ≠ parent || rowPlane plane ≠ row || lower then s
  else
    let off := Config.parentOffset s.fresh
    let s1 := { s.discipline off with fresh := s.fresh + 1 }
    (s1.modTime fun p => { p with hold := false }).setSync (tsync && decide (-1 ≤ off) && decide (off ≤ 1))

/-- TIME_PARENT_LOST: holdover: a follower clears SYNC; a root keeps it (15 R388). -/
def execTimeParentLost (s : State) : Outcome State Fault Refusal :=
  let s1 := s.modTime fun p => { p with hold := true }
  (Eff.done ((if s.pt.root then s1.modTime fun p => { p with ext := false } else s1.setSync false).fabRecord 0 0x23 0 0 0 0 0 0)).out

/-- A store to PTSET: the root's time and SYNC (15 R389). -/
def State.writePtset (s : State) (val : Word) : State :=
  if s.pt.ext || !s.pt.root then s
  else (s.rebase val.toNat).modTime fun p => { p with sync := true, acq := true, slew := 0 }

/-- PTSET (15 R389). -/
def execPtset (who : Nat) (val : Word) (s : State) : Outcome State Fault Refusal :=
  (Eff.done (if reaches who then s.writePtset val else s)).out

end Sys2Proof.Machine
end

