-- ==== Sys2Proof/Machine/Slot.lean ====
section
/-! DEFINITION. Slots: what each lane carries (14 R366 R371 R374, 15 R392), what a received header does (14 R369 R373 R377), resends
and hold limits (14 R374 R376), bank switches, lighting, line failures and retuning (14 R367 R368 R378 to R384). -/

namespace Sys2Proof.Machine

open Host (Outcome)

/-! ### Placing a chunk on a lane (14 R371) -/

/-- Planes of a kind that are active for striping, ascending. -/
def State.striped (s : State) (row : Bool) : List Nat :=
  (List.range 8).filter fun p => rowPlane p == row && (s.plane p).stripes

/-- A list read from its place `i mod k` on, cyclically. -/
def rotated (l : List Nat) (i : Nat) : List Nat := l.drop (i % l.length) ++ l.take (i % l.length)

/-- A lane of plane `p` for a chunk to chip `hop` in slot `n`: the lane and the port it reaches. `direct` chunks take no detour. -/
def State.laneFor (s : State) (n p hop : Nat) (direct : Bool) : Option (Nat × Nat) :=
  let x := s.plane p
  let row := rowPlane p
  let i := portOn row s.self
  let o := offsetTo i (portOn row hop)
  let via := if direct then o else (x.detour n i o).getD o
  let q := (i + via) % 64
  if x.free q = 0 then none
  else
    ((List.range 16).find? fun l => x.offset n l == via && x.sends n l && (s.fab.lanes.get none (16 * p + l)).isNone).map fun l => (l, q)

/-- What a chunk needs of its next hop: the kind of plane, or the one plane it must take, the chip, its sequence and number, a plane
it would rather not use again, and whether it may take a detour. -/
structure Hop where
  row : Bool
  only : Option Nat := none
  chip : Nat
  seq : Nat
  idx : Nat
  avoid : Option Nat := none
  direct : Bool
  deriving DecidableEq, Repr

/-- The plane, lane and port a chunk takes in slot `n`. -/
def State.qualify (s : State) (n : Nat) (h : Hop) : Option (Nat × Nat × Nat) :=
  let order := match h.only with
    | some p => (s.striped h.row).filter (· == p)
    | none =>
      let l := rotated (s.striped h.row) (h.seq + h.idx)
      l.filter (fun p => h.avoid != some p) ++ l.filter fun p => h.avoid == some p
  order.findSome? fun p => (s.laneFor n p h.chip h.direct).map fun x => (p, x.1, x.2)

/-- A chunk goes to a lane. -/
def State.load (s : State) (at_ : Nat × Nat × Nat) (c : Chunk) : State :=
  let (p, l, q) := at_
  (s.modPlane p fun x => x.modPort q fun f => { f with sent := f.sent + 1 }).modFab fun f =>
    { f with lanes := f.lanes.set none (16 * p + l) (some c) }

/-- An ordered chunk that goes to a lane is remembered (15 R392). -/
def State.remember (s : State) (h : SentChunk) : State := s.modFab fun f => { f with handed := f.handed ++ [h] }

/-- DECKLE.CYC at a clock step (13 R352). -/
def deckle (k : Nat) : Nat :=
  match k with
  | 0 => 63
  | 1 => 53
  | 2 => 44
  | _ => 34

/-- What has waited since pod time `t` is in time for slot `n`: it was there DECKLE.CYC cycles before the slot (13 R352, 14 R371). -/
def State.inTime (s : State) (n t : Nat) : Bool := decide (10 * deckle s.step_ + t * stepRate s.step_ ≤ 64 * n * stepRate s.step_)

/-- A chunk has been held for forwarding for RTO µs: it is discarded, and not handed over any more (14 R374). -/
def State.heldOut (s : State) (x : Held) : Bool := decide (x.at_ + s.fab.rto * 1000 ≤ s.counted)

/-- A chunk held for forwarding, from the second slot after its arrival until its hold limit (14 R374), and in time for the slot
(13 R352). -/
def State.forwardOne (s : State) (n : Nat) (x : Held) : State :=
  let (only, row, chip) := s.forwardHop x
  let h := x.chunk.hdr
  let hop : Hop := { row := row, only := only, chip := chip, seq := hdSeq h, idx := hdOff h / chunkBytes, direct := hdOrd h || only.isSome }
  if n < x.slot + 2 || !s.inTime n x.at_ || s.heldOut x then s
  else
    match s.qualify n { hop with avoid := x.avoid } with
    | none => s
    | some (p, l, q) =>
      let s1 := (s.load (p, l, q) x.chunk).modFab fun f => { f with fwd := f.fwd.erase x }
      let s2 := if x.copy then s1 else s1.freeBuf x.plane x.port
      if hdOrd h then
        s2.remember { slot := n, plane := p, lane := l, seq := 0, idx := 0, held := some { x with copy := true, avoid := some p } }
      else s2

/-- Answers cut into chunks: each atomic reply its own, acknowledgements by chip, up to 192 (14 R375). -/
def packets (l : List Answer) (fuel : Nat) : List (List Answer) :=
  match fuel, l with
  | 0, _ | _, [] => []
  | f + 1, a :: r =>
    if a.reply.isSome then [a] :: packets r f
    else
      let same (x : Answer) : Bool := x.dst == a.dst && x.reply.isNone
      let mine := (a :: r).filter same
      mine.take 192 :: packets ((r.filter fun x => !same x) ++ mine.drop 192) f

/-- The 8-byte record of an acknowledgement. -/
def ackWord (a : Answer) : Nat := a.seq + 2 ^ 48 * a.result

/-- The chunk of a packet of answers (14 R375, 15 R403). -/
def State.answerChunk (s : State) (a : Answer) (l : List Answer) : Chunk :=
  match a.reply with
  | some old =>
    { hdr := hdMake 4 false 0 s.self a.dst 0 a.seq 16 0 16 0 0 0, data := toBytes old.toNat 8 ++ toBytes a.result 8 }
  | none =>
    { hdr := hdMake 5 false 0 s.self a.dst 0 a.seq (8 * l.length) 0 (8 * l.length) 0 0 0
      data := l.flatMap fun x => toBytes (ackWord x) 8 }

/-- A packet of answers; one for this chip itself takes no lane. -/
def State.answerOne (s : State) (n : Nat) (l : List Answer) : State :=
  match l with
  | [] => s
  | a :: _ =>
    let gone (t : State) : State := t.modFab fun f => { f with answers := l.foldl List.erase f.answers }
    if a.dst = s.self then
      if s.dbgHalt then s
      else
      match a.reply with
      | some old => (gone s).takeReply s.self a.seq a.result old
      | none => l.foldl (fun t x => t.ackOne s.self (BitVec.ofNat 64 (ackWord x)) (some x.bar)) (gone s)
    else
      let (row, chip) := firstHop s.self a.dst 0
      match s.qualify n { row := row, chip := chip, seq := a.seq, idx := 0, direct := false } with
      | none => s
      | some p => gone (s.load p (s.answerChunk a l))

/-- A request is past the last time at which a chunk of it may be handed over (14 R376). -/
def State.tooLate (s : State) (r : FabReq) : Bool :=
  match r.first with
  | some t => decide (t + (s.fab.retry + 1) * s.fab.rto * 1000 < s.counted)
  | none => false

/-- Chunk `c` of a request has been handed over. -/
def FabReq.handed (r : FabReq) (c p t : Nat) : FabReq :=
  let r1 := { r with sent := r.sent ++ [(c, p)], first := some (r.first.getD t), last := some t, page := none }
  if r1.sent.length = r.chunks then { r1 with queue := none } else r1

/-- Chunk `c` of the request with a sequence, if it can go in slot `n`: its bytes are read as it goes (08 R232). -/
def State.sendOne (s : State) (n seq c : Nat) : State :=
  match s.fab.reqs.find? (·.seq == seq) with
  | none => s
  | some r =>
    let len := min chunkBytes (r.len - chunkBytes * c)
    let avoid := (r.prev.find? (·.1 == c)).map (·.2)
    let put (place : Option (Nat × Nat × Nat)) : State :=
      match (if s.unanswered (dieOf r.issuer.agent) r.page then .wait s r.page else s.payload r (chunkBytes * c) len) with
      | .wait t p => t.putReq { r with page := p }
      | .fail t code a => t.failReq r code a
      | .ok t bs =>
        let h := t.reqHeader r c len
        match place with
        | none => ((t.putReq (r.handed c 8 s.now)).sinkBy r.origin 3).arriveChunk h bs 8 0 (some r.dctx)
        | some (p, l, q) =>
          let t1 := ((t.load (p, l, q) { hdr := h, data := bs }).putReq (r.handed c p s.now)).sinkBy r.origin 3
          if r.ord then t1.remember { slot := n, plane := p, lane := l, seq := r.seq, idx := c, held := none } else t1
    if r.waits || !s.inTime n r.at_ || r.acked || r.sent.any (·.1 == c) || s.tooLate r then s
    else if r.dst = s.self then put none
    else
      let (row, chip) := firstHop s.self r.dst r.attempt
      match s.qualify n { row := row, chip := chip, seq := r.seq, idx := c, avoid := avoid, direct := r.ord } with
      | none => s
      | some p => put (some p)

/-- The chip's own chunks, by sequence and number; none in the pause of a clock change (13 R352). -/
def State.sendAll (s : State) (n : Nat) : State :=
  let pause := match s.clk with
    | some c => c.phase == 2
    | none => false
  if pause then s
  else s.fab.reqs.foldl (fun t r => (List.range r.chunks).foldl (fun u c => u.sendOne n r.seq c) t) s

/-- The fields of a hop are filled in, and the check code (14 R369). -/
def State.seal (s : State) (floor p l q : Nat) (c : Chunk) : Chunk :=
  let h0 := hdSet c.hdr 0 38 11 s.self
  let h1 := hdSet (hdSet h0 0 49 3 p) 0 52 4 l
  let h2 := hdSet h1 0 9 1 (if s.pt.sync then 1 else 0)
  let h3 := hdSet (hdSet h2 5 0 64 floor) 6 16 16 s.shBar
  let h4 := hdSet (hdSet h3 6 0 16 ((s.plane p).port q).rxfreed.toNat) 6 32 32 0
  { c with hdr := hdSet h4 6 32 32 (hdCheck h4 c.data) }

/-- Planes, lanes and ports that transmit in slot `n`. -/
def State.sending (s : State) (n : Nat) : List (Nat × Nat × Nat) :=
  (List.range 8).flatMap fun p =>
    let x := s.plane p
    ((List.range 16).filter fun l => x.sends n l).map fun l => (p, l, (portOn (rowPlane p) s.self + x.offset n l) % 64)

/-- Every lane that transmits gets its header: its chunk's, or a beacon. -/
def State.sealLanes (s : State) (ls : List ((Nat × Nat × Nat) × Nat)) : State :=
  ls.foldl (fun t x =>
    let (p, l, q) := x.1
    let c := (t.fab.lanes.get none (16 * p + l)).getD { hdr := 0, data := [] }
    t.modFab fun f => { f with lanes := f.lanes.set none (16 * p + l) (some (s.seal x.2 p l q c)) }) s

/-- SLOT_HANDOVER: the lanes of slot `n` are filled with what was there at its deadline (14 R371); the floors they carry are those of
that time (15 R392). -/
def execSlotHandover (n : Nat) (s : State) : Outcome State Fault Refusal :=
  (Eff.done (if n ≤ s.fab.slot || s.now + 48 < 64 * n then s
    else
      let s1 := s.fabricWork.herdUpdates
      let ls := (s1.sending n).map fun x => (x, s1.floorTo n (chipOn (rowPlane x.1) s1.self x.2.2))
      let s2 := s1.modFab fun f => { f with lanes := [], handed := f.handed.filter fun h => decide (n ≤ h.slot + 1) }
      let s3 := s2.fab.fwd.foldl (fun t x => t.forwardOne n x) s2
      let s4 := (packets (s3.fab.answers.filter fun a => s3.inTime n a.at_) s3.fab.answers.length).foldl (fun t l => t.answerOne n l) s3
      let s5 := (s4.sendAll n).sealLanes ls
      (s5.modFab fun f => { f with slot := n }).fabricWork)).out

/-! ### A header arrives (14 R369 R373 R374 R377, 15 R393) -/

/-- What a good header says of its sender. -/
def State.noteHeader (s : State) (p q slot : Nat) (h : BitVec 512) : State :=
  let tsync := (Rec_word h 0).getLsbD 9
  let s1 := s.modPlane p fun x =>
    let y := x.ins.get {} q
    let z := { y with chip := hdHop h, bar := BitVec.ofNat 16 (hdBits h 6 16 16), heard := true, tsync := tsync, heardAt := slot
                      gens := (List.range 4).map fun k => (s.bar k).gen }
    { (x.modPort q fun f => { f with freed := BitVec.ofNat 16 (hdBits h 6 0 16) }) with ins := x.ins.set {} q z }
  (s1.modFab fun f => { f with floors := f.floors ++ [(slot, p, q, hdFloor h)] }).followParent p (hdHop h) tsync

/-- A chunk with a good header enters a buffer for its port, or is discarded where none is free. -/
def State.takeChunk (s : State) (p l q slot : Nat) (h : BitVec 512) (data : List Byte) : State :=
  if (s.plane p).rxbuf ≤ ((s.heldPorts p).filter (· == q)).length then
    (s.freeBuf p q).planeRecord 0x07 p l 0 q (hdHop h) 0
  else if hdDst h = s.self then s.arriveChunk h data p q none
  else
    s.modFab fun f => { f with fwd := f.fwd ++ [{ chunk := { hdr := h, data := data }, plane := p, port := q, slot := slot, at_ := s.now }] }

/-- SLOT_HEADER_RECEIVE: lane `l` of plane `p` hears a header in `slot`, with the payload after it. A lane that is dark by 14 R363, or that is
retuning, hears none. Whether one that R383 calls dark, as this chip's line and its twin are both out, still hears what the sender's own comb
brings the spec does not say: the model's choice is that it does (log 92). -/
def execSlotHeaderReceive (p l slot : Nat) (h : BitVec 512) (data : List Byte) (s : State) : Outcome State Fault Refusal :=
  let x := s.plane p
  let row := rowPlane p
  let o := x.offset slot l
  let q := offsetTo o (portOn row s.self)
  (Eff.done (if 8 ≤ p || 16 ≤ l || !x.light || o == 0 || x.out.contains l then s
    else
      let s1 := s.modFab fun f =>
        { f with heard := f.heard.set 0 (16 * p + l) (max (f.heard.get 0 (16 * p + l)) (slot + 1)) }
      let s2 := s1.modPlane p fun y => { y with locked := if y.locked.contains l then y.locked else l :: y.locked }
      let lose (sub : Nat) : State :=
        let t := s2.planeRecord sub p l 0 q (hdHop h) 0
        if data.isEmpty then t else t.freeBuf p q
      let whole := if hdKind h = 0 then data.isEmpty else decide (data.length = hdBits h 1 48 11 + 1)
      let s3 :=
        if hdBits h 6 32 32 ≠ hdCheck h data || !whole then lose 0x07
        else if hdHop h ≠ chipOn row s.self q then lose 0x0A
        else
          let t := s2.noteHeader p q slot h
          if data.isEmpty then t else t.takeChunk p l q slot h data
      s3.fabricWork.herdUpdates)).out

/-! ### Limits (14 R374 R376) -/

/-- FORWARD_HOLD_EXPIRY: a chunk held for forwarding for RTO µs is discarded (14 R374). -/
def execForwardHoldExpiry (idx : Nat) (s : State) : Outcome State Fault Refusal :=
  (Eff.done (match s.fab.fwd[idx]? with
    | none => s
    | some x =>
      if !s.heldOut x then s
      else
        let s1 := s.modFab fun f => { f with fwd := f.fwd.eraseIdx idx }
        (if x.copy then s1 else s1.freeBuf x.plane x.port).planeRecord 0x07 x.plane (hdLane x.chunk.hdr) 0 x.port (hdHop x.chunk.hdr) 0)).out

/-- RESEND_TIMEOUT: a request that is not acknowledged within RTO µs of the handover of its last chunk starts its next attempt, or ends
with FABRIC_PEER after RETRY of them; an attempt that could not be wholly handed over in time ends it too (14 R376). -/
def execResendTimeout (seq : Nat) (s : State) : Outcome State Fault Refusal :=
  (Eff.done (match s.fab.reqs.find? (·.seq == seq) with
    | none => s
    | some r =>
      let whole := decide (r.sent.length = r.chunks)
      let due := match r.last with
        | some t => decide (t + s.fab.rto * 1000 ≤ s.counted)
        | none => false
      if r.acked then s
      else if !whole then (if s.tooLate r then s.failReq r cPeer r.peerAddr else s)
      else if !due then s
      else if s.fab.retry ≤ r.attempt then s.failReq r cPeer r.peerAddr
      else s.putReq { r with attempt := r.attempt + 1, prev := r.sent, sent := [], last := none, at_ := s.now })).out

/-! ### Chunks that count as not handed over (15 R392) -/

/-- A chunk waits for forwarding again, at its place by arrival (14 R371). -/
def reinsert (x : Held) (l : List Held) : List Held :=
  match l with
  | [] => [x]
  | y :: r => if x.at_ < y.at_ then x :: y :: r else y :: reinsert x r

/-- An ordered chunk counts as not handed over: its request sends it again, or its copy waits again. -/
def State.unhand (s : State) (h : SentChunk) : State :=
  let s1 := s.modFab fun f => { f with handed := f.handed.erase h }
  match h.held with
  | some x => s1.modFab fun f => { f with fwd := reinsert x f.fwd }
  | none =>
    match s1.fab.reqs.find? (·.seq == h.seq) with
    | none => s1
    | some r =>
      s1.putReq { r with sent := r.sent.filter (· != (h.idx, h.plane)), prev := (h.idx, h.plane) :: r.prev.filter (·.1 != h.idx) }

/-- Those on plane `p` that a test picks. -/
def State.unhandAll (s : State) (p : Nat) (f : SentChunk → Bool) : State :=
  (s.fab.handed.filter fun h => h.plane == p && f h).foldl State.unhand s

/-! ### Banks (14 R367 R368) -/

/-- BANK_SWITCH: an armed switch takes place at the start of its slot, or is refused (14 R367 R368). -/
def execBankSwitch (p : Nat) (s : State) : Outcome State Fault Refusal :=
  let x := s.plane p
  (Eff.done (match x.armed with
    | none => s
    | some (stamp, n) =>
      if s.now < 64 * n then s
      else if x.bankOk (!x.bank) then
        s.modPlane p fun y => { y with armed := none, bad := false, bank := !y.bank, since := n }
      else (s.modPlane p fun y => { y with armed := none, bad := true }).planeRecord 0x05 p 0 0 0 0 stamp)).out

/-- A store to PLACT (14 R368). -/
def State.writePlact (s : State) (p : Nat) (val : Word) : State :=
  let t := val.toNat
  if t ≤ s.now then
    (s.modPlane p fun x => { x with armed := some (t, s.now / 64 + 1) }).planeRecord 0x06 p 0 0 0 0 t
  else s.modPlane p fun x => { x with armed := some (t, (t + 63) / 64) }

/-- PLACT (14 R368). -/
def execPlact (who p : Nat) (val : Word) (s : State) : Outcome State Fault Refusal :=
  (Eff.done (if reaches who && p < 8 then s.writePlact p val else s)).out

/-! ### Light (14 R378 R382) -/

/-- LANE_LOCK: every receive lane has locked on a header, or 20 µs have passed since the lighting (14 R382). -/
def execLaneLock (p : Nat) (s : State) : Outcome State Fault Refusal :=
  let x := s.plane p
  (Eff.done (if x.light && !x.lock && ((List.range 16).all x.locked.contains || decide (x.litAt + 20000 ≤ s.counted)) then
      s.modPlane p fun y => { y with lock := true }
    else s)).out

/-- The lasers go on: counters, buffers and floors start anew (14 R382, 15 R393). -/
def State.lightOn (s : State) (p : Nat) : State :=
  (s.modPlane p fun x => { x with light := true, lock := false, locked := [], litAt := s.now, stallAt := s.now, fsc := [], ins := [] }).modFab
    fun f =>
      { f with floors := f.floors.filter (·.2.1 != p), heard := (List.range 16).foldl (fun m l => SMap.set 0 m (16 * p + l) 0) f.heard }

/-- Chunks of a message in buffers of plane `p` are lost. -/
def RxMsg.lose (m : RxMsg) (p : Nat) : RxMsg := { m with chunks := m.chunks.filter fun c => c.done || c.plane != p }

/-- The lasers go off: what stands in the plane's buffers is lost, and ordered chunks handed to it in this slot count as not handed over
(14 R382, 15 R392). -/
def State.lightOff (s : State) (p : Nat) : State :=
  let s1 := (s.modPlane p fun x => { x with light := false }).modFab fun f =>
    { f with fwd := f.fwd.filter fun x => x.copy || x.plane != p
             rx := (f.rx.map (·.lose p)).filter fun m => !m.chunks.isEmpty || m.pos.isSome }
  s1.unhandAll p fun h => decide (s.now / 64 ≤ h.slot)

/-- A store to PLCTL (14 R378 R382). -/
def State.writePlctl (s : State) (p : Nat) (val : Word) : State :=
  let x := s.plane p
  let s1 := s.modPlane p fun y =>
    { y with len1 := if y.bank then y.len1 else BitVec.ofNat 6 (bitsOf val 26 6)
             len0 := if y.bank then BitVec.ofNat 6 (bitsOf val 20 6) else y.len0
             rxbuf := if x.light || bitsOf val 8 6 = 0 then y.rxbuf else bitsOf val 8 6
             en := val.getLsbD 0 }
  if val.getLsbD 1 && !x.light then s1.lightOn p else if !val.getLsbD 1 && x.light then s1.lightOff p else s1

/-- PLCTL_LIGHT_ON (14 R382). -/
def execPlctlLightOn (who p : Nat) (val : Word) (s : State) : Outcome State Fault Refusal :=
  (Eff.done (if reaches who && p < 8 && val.getLsbD 1 then s.writePlctl p val else s)).out

/-- PLCTL_LIGHT_OFF (14 R382). -/
def execPlctlLightOff (who p : Nat) (val : Word) (s : State) : Outcome State Fault Refusal :=
  (Eff.done (if reaches who && p < 8 && !val.getLsbD 1 then s.writePlctl p val else s)).out

/-- PLSTAT.OUT: requests not acknowledged, a chunk of which last went on the plane. -/
def State.planeOut (s : State) (p : Nat) : Nat :=
  (s.fab.reqs.filter fun r => !r.acked && (List.range r.chunks).any fun c =>
    match r.sent.find? (·.1 == c) with
    | some x => x.2 == p
    | none => r.prev.contains (c, p)).length

/-! ### Lines and lanes (14 R383) -/

/-- LINE_FAILURE: a line is out of its limits: its lanes switch to its twin, or are lost with it. Ordered chunks sent on it in this slot,
or later ones on a line that is lost, count as not handed over (14 R383, 15 R392). A line is no lane, and 14 R386 does not say what the lane
field of its record holds: the model's choice is 0 (log 92). -/
def execLineFailure (p line : Nat) (s : State) : Outcome State Fault Refusal :=
  let x := s.plane p
  let o := line % 64
  let now := s.now / 64
  let s1 := s.modPlane p fun y => { y with failed := line :: y.failed }
  let mine (h : SentChunk) : Bool := x.offset h.slot h.lane == o
  (Eff.done (if 8 ≤ p || 128 ≤ line || x.failed.contains line then s
    else if x.failed.contains ((line + 64) % 128) then
      (s1.unhandAll p fun h => mine h && decide (now ≤ h.slot)).planeRecord 0x02 p 0 cLine line 0 0
    else if line < 64 then (s1.unhandAll p fun h => mine h && now == h.slot).planeRecord 0x01 p 0 0 line 0 0
    else s1)).out

/-- LINE_RESTORE: a line is back within its limits (14 R383). -/
def execLineRestore (p line : Nat) (s : State) : Outcome State Fault Refusal :=
  (Eff.done (if 8 ≤ p then s else s.modPlane p fun y => { y with failed := y.failed.filter (· != line) })).out

/-- RETUNE_START (14 R383). -/
def execRetuneStart (p l : Nat) (s : State) : Outcome State Fault Refusal :=
  (Eff.done (if 8 ≤ p || 16 ≤ l || (s.plane p).out.contains l then s
    else (s.modPlane p fun y => { y with out := l :: y.out, retcnt := satInc y.retcnt 1 }).planeRecord 0x03 p l 0 0 0 0)).out

/-- RETUNE_END (14 R383). -/
def execRetuneEnd (p l : Nat) (s : State) : Outcome State Fault Refusal :=
  (Eff.done (if 8 ≤ p || !(s.plane p).out.contains l then s
    else (s.modPlane p fun y => { y with out := y.out.filter (· != l) }).planeRecord 0x04 p l 0 0 0 0)).out

end Sys2Proof.Machine
end

