-- ==== Sys2Proof/Machine/Pod.lean ====
section
/-! DEFINITION. Tile records as the queues take them (08 R231, 09 R240 R248 R265, 12 R310), and barriers among them, up to the pod's
(09 R270, 15 R401 R402). -/

namespace Sys2Proof.Machine

open Host (Outcome)

/-! ### Taking a record -/

/-- PODLEAD.V. -/
def State.podLed (s : State) : Bool := s.mg.podlead.getLsbD 63

/-- The record with its source priority in TI.PRIO (09 R248). -/
def setPrio (r : Rec) (p : Nat) : Rec := hdSet r 0 18 2 p

/-- A level-4 launch record is refused before it leaves: its context is not enabled, or its depth would be 9 (08 R231, 11 R292,
12 R310). -/
def State.podRefuses (s : State) (r : Rec) (ctx depth : Nat) : Bool :=
  (tiOpc r == 0x0A || tiOpc r == 0x0B) &&
    (!(s.ctxroot.get 0 ctx).getLsbD 0 || (tiOpc r == 0x0A && decide (8 < depth)))

/-- A record offered to PQ (09 R248): without a lead chip, at another level or without pod time it is refused; a TBARRIER stays here;
every other record goes to the lead chip as an ordered message. -/
def State.offerPod (s : State) (r : Rec) (o : Origin) (ctx : Nat) (phys : Bool) : State × Bool :=
  let (prio, depth) := s.sourceOf r o
  let e : TileEntry :=
    { id := s.nextId, rec_ := r, queue := .pq, level := 4, origin := o, ctx := ctx, phys := phys, prio := prio, depth := depth
      checked := true }
  if tileDepth .pq ≤ (s.queued .pq).length then (s, false)
  else if tiLevel r ≠ 4 || !s.podLed || s.podRefuses r ctx depth then (s.addTile (e.fails s cQueue 0 0), true)
  else if tiOpc r = 0x0C then s.offerTile .pq r o ctx phys
  else if s.dbgHalt then (s, false)
  else if !s.pt.sync then (s.addTile (e.fails s cQueue 0 0), true)
  else
    ((s.addTile e).takeReq
      { seq := 0, origin := o, cmd := setPrio r prio, pod := some s.nextId, dctx := ctx, dst := bitsOf s.mg.podlead 48 11, len := 72
        ord := true, stamp := s.now }, true)

/-- A record offered to a queue: launches are taken by the launch unit, level 4 by PQ. -/
def State.offerRecord (s : State) (q : TileQueue) (r : Rec) (o : Origin) (ctx : Nat) (phys : Bool) : State × Bool :=
  let launch := tiOpc r == 0x0A || tiOpc r == 0x0B
  match q with
  | .pq => s.offerPod r o ctx phys
  | .tq _ => s.offerTile q r o ctx phys
  | .dq d => if launch then s.offerLaunch q false r o ctx phys d else s.offerTile q r o ctx phys
  | .xq => if launch then s.offerLaunch q false r o ctx phys 0 else s.offerTile q r o ctx phys

/-- A record offered to LQ by an agent of die `d`: level 4 goes on as on PQ (12 R310). -/
def State.offerLq (s : State) (r : Rec) (o : Origin) (ctx : Nat) (phys : Bool) (d : Nat) : State × Bool :=
  if tiLevel r = 4 && tiOpc r = 0x0A then s.offerPod r o ctx phys else s.offerLaunch .xq true r o ctx phys d

/-- A record of an opcode that a pusher gives a queue. -/
def State.takeRecord (s : State) (opc : Nat) (p : Pusher) (q : TileQueue) (r : Rec) : State :=
  let (o, ctx, phys) := s.tileOrigin p q
  if tiOpc r = opc then (s.offerRecord q r o ctx phys).1 else s

/-- TMATMUL (09 R257 R258). -/
def execTmatmul (p : Pusher) (q : TileQueue) (r : Rec) (s : State) : Outcome State Fault Refusal := (Eff.done (s.takeRecord 1 p q r)).out
/-- TEWISE (09 R259). -/
def execTewise (p : Pusher) (q : TileQueue) (r : Rec) (s : State) : Outcome State Fault Refusal := (Eff.done (s.takeRecord 2 p q r)).out
/-- TREDUCE (09 R260). -/
def execTreduce (p : Pusher) (q : TileQueue) (r : Rec) (s : State) : Outcome State Fault Refusal := (Eff.done (s.takeRecord 3 p q r)).out
/-- TTOPK (09 R261 R262). -/
def execTtopk (p : Pusher) (q : TileQueue) (r : Rec) (s : State) : Outcome State Fault Refusal := (Eff.done (s.takeRecord 4 p q r)).out
/-- TCOPY (09 R263). -/
def execTcopy (p : Pusher) (q : TileQueue) (r : Rec) (s : State) : Outcome State Fault Refusal := (Eff.done (s.takeRecord 5 p q r)).out
/-- TGATHER (09 R263). -/
def execTgather (p : Pusher) (q : TileQueue) (r : Rec) (s : State) : Outcome State Fault Refusal := (Eff.done (s.takeRecord 6 p q r)).out
/-- TCAST (09 R263). -/
def execTcast (p : Pusher) (q : TileQueue) (r : Rec) (s : State) : Outcome State Fault Refusal := (Eff.done (s.takeRecord 7 p q r)).out
/-- TTRANS (09 R263). -/
def execTtrans (p : Pusher) (q : TileQueue) (r : Rec) (s : State) : Outcome State Fault Refusal := (Eff.done (s.takeRecord 8 p q r)).out
/-- TFILL (09 R263). -/
def execTfill (p : Pusher) (q : TileQueue) (r : Rec) (s : State) : Outcome State Fault Refusal := (Eff.done (s.takeRecord 9 p q r)).out
/-- TLAUNCH (09 R265, 12 R310). -/
def execTlaunch (p : Pusher) (q : TileQueue) (r : Rec) (s : State) : Outcome State Fault Refusal := (Eff.done (s.takeRecord 10 p q r)).out
/-- TBIND (09 R266). -/
def execTbind (p : Pusher) (q : TileQueue) (r : Rec) (s : State) : Outcome State Fault Refusal := (Eff.done (s.takeRecord 11 p q r)).out
/-- TBARRIER (09 R270). -/
def execTbarrier (p : Pusher) (q : TileQueue) (r : Rec) (s : State) : Outcome State Fault Refusal := (Eff.done (s.takeRecord 12 p q r)).out
/-- TALLRED (09 R271). -/
def execTallred (p : Pusher) (q : TileQueue) (r : Rec) (s : State) : Outcome State Fault Refusal := (Eff.done (s.takeRecord 13 p q r)).out

/-! ### Completion of an entry (09 R252 R254 R255) -/

/-- The report in a completion block, words 2 to 7 (09 R253). -/
def repOf (bs : List Byte) : Rep :=
  let w (k : Nat) : Nat := ofBytes ((bs.drop (8 * k)).take 8)
  { code := BitVec.ofNat 8 (w 0), child := BitVec.ofNat 8 (w 0 / 2 ^ 8), first := w 2, nfault := w 3, laddr := BitVec.ofNat 64 (w 4)
    bytes := w 5 }

/-- A record of the pod level is done with once the lead chip has acknowledged it and its report stands in its completion block
(09 R248 R270, 10 R286); the pusher learns of a fault as of any (09 R255). One without a completion block is done with once
the pod has ended it, which this chip is told by no access: whether it has, and with what outcome, are free values (log 28). -/
def State.podDone (s : State) (e : TileEntry) : State :=
  let cblk := tiCblk e.rec_
  let told (t : State) (r : Rep) : State :=
    (t.notifyTile e.origin (tiTag e.rec_) cblk (tiEv e.rec_) r.code (if r.code = cChild then cblk else r.laddr) r).dropTile e
  if s.fab.reqs.any fun r => r.pod == some e.id then s
  else if (tiEv e.rec_ || s.mustReport e.origin) && !s.canPost (s.recordDie e.origin) then
    if e.waited then s else (s.putTile { e with waited := true }).countHold (s.recordDie e.origin)
  else if cblk = 0 then
    if Config.podEnded s.fresh then told { s with fresh := s.fresh + 1 } { code := Config.podCode s.fresh, laddr := Config.podAddr s.fresh }
    else { s with fresh := s.fresh + 1 }
  else if e.done = 0 then s
  else
    match s.readMem (cblkIssuer (queueAgent e.queue) e.ctx e.phys) .read (cblk.toNat + 16) 48 with
    | .wait t p => t.putTile { e with page := p }
    | .fail t _ _ => t.dropTile e
    | .ok t bs => told t (repOf bs)

/-- TILE_COMPLETE: an entry does what is left of it, as far as its accesses go, and completes: a refusal reports; a launch record that
had to wait is checked; a data record whose turn has come is checked; a core computes its units; a level whose children have all
completed combines their reports (09 R252 R254); a TBARRIER record whose instance has completed reports. -/
def execTileComplete (id : Nat) (s : State) : Outcome State Fault Refusal :=
  (Eff.done (match (if s.paused then none else (s.tile id).filter fun e => !s.unanswered (dieOf e.issuer.agent) e.page) with
    | none => s
    | some e =>
      if e.failed then s.endTile e
      else if tiOpc e.rec_ = 0x0C then (if e.done = 0 then s else s.endTile e)
      else if e.level = 4 then s.podDone e
      else
        match e.launch with
        | some (lq, die) => s.retryLaunch e lq die
        | none =>
          if !e.checked then (if s.tileReady e then s.checkTile e else s)
          else if e.level = 1 then
            if s.tileMayRun e then s.afterRun (s.runLeaf e) else s
          else if !(s.childrenOf id).isEmpty then s
          else
            let e1 := if e.ranked then e else
              let a := e.shapes.getD 0 0
              let e0 := e.combine s
              if tiOpc e.rec_ = 4 then
                { e0 with keys := topK (shTy a) (shBias a) (bitsOf (tiP0 e.rec_) 0 32) e0.keys } else e0
            if e1.failed then (s.putTile e1).endTile e1 else s.afterRun (.done s e1))).out

/-! ### Barriers (09 R270, 15 R401 R402) -/

/-- What a pusher gave the scope before a barrier record has completed; a TBIND counts as completed once it has been taken (09 R270). -/
def State.earlierDone (s : State) (b : BarrierInst) (e : TileEntry) : Bool :=
  (s.tiles.all fun x =>
    !(x.queue == b.scope && x.parent.isNone && decide (x.id < e.id) && samePusher x.origin e.origin && !b.members.contains x.id &&
      tiOpc x.rec_ != 0x0B)) &&
  s.launches.all fun l => !(l.scope == some b.scope && decide (l.id < e.id) && samePusher l.origin e.origin && !l.isBind)

/-- The two conditions of R270; at level 4 the accesses that the pushers issued before have been performed too (10 R286). -/
def State.barrierReady (s : State) (b : BarrierInst) : Bool :=
  b.members.length == b.count && b.members.all fun i => match s.tile i with
    | some e => s.earlierDone b e && (b.scope != .pq || s.pusherSettled e.origin e.id)
    | none => true

/-- TBARRIER records of a scope and tag that no instance holds join the next one. -/
def State.rejoin (s : State) (q : TileQueue) (tag : Nat) : State :=
  let free (t : State) (e : TileEntry) : Bool :=
    e.queue == q && tiOpc e.rec_ == 0x0C && tiTag e.rec_ == tag && !e.failed && e.done == 0 && !t.barriers.any (·.members.contains e.id)
  (s.tiles.filter (free s)).foldl (fun t e => if free t e then t.joinBarrier e else t) s

/-- The instance completes: each record reports, and the next instance opens. -/
def State.closeBarrier (s : State) (b : BarrierInst) : State :=
  let s1 := { s with barriers := s.barriers.filter (· != b)
                     tiles := s.tiles.map fun (e : TileEntry) => if b.members.contains e.id then { e with done := 1, rep := e.located s e.rep } else e }
  let s2 := b.members.foldl (fun t i => match t.tile i with
    | some e => t.endTile e
    | none => t) s1
  s2.rejoin b.scope b.tag

/-- TBARRIER_COMPLETE: the instance that holds record `id` has met its conditions; at level 4 it arrives at the pod barrier, once
(09 R270). -/
def execTbarrierComplete (id : Nat) (s : State) : Outcome State Fault Refusal :=
  (Eff.done (match s.barriers.find? fun b => b.members.contains id with
    | none => s
    | some b =>
      if !s.barrierReady b || b.arrived then s
      else if b.scope == .pq then
        let s1 := { s with barriers := s.barriers.map fun (x : BarrierInst) => if x = b then { x with arrived := true } else x }
        s1.barArrive (b.tag % 3) b.tag
      else s.closeBarrier b)).out

/-- POD_BARRIER_COMPLETE: the pending generation of a channel completes: the instances that arrived in it complete, and those that wait
all arrive in the next (15 R401 R402). -/
def execPodBarrierComplete (k : Nat) (s0 : State) : Outcome State Fault Refusal :=
  let s := s0.herdUpdate k
  let b := s.bar k
  (Eff.done (if 4 ≤ k || !b.herd || !(List.range 64).all (fun q => s.peerCounts false k q) then s
    else
      let s1 := s.setBar k { gen := b.gen + 1, arrived := !b.waiting.isEmpty, members := b.waiting }
      b.members.foldl (fun t tag => match t.barriers.find? fun x => x.scope == .pq && x.tag == tag && x.arrived with
        | some x => t.closeBarrier x
        | none => t) s1)).out

end Sys2Proof.Machine
end

