-- ==== Sys2Proof/Machine/Queue.lean ====
section
/-! DEFINITION. The queue-register path (08 R233 to R235, 11 R293) and the answers to page requests (11 R302). -/

namespace Sys2Proof.Machine

open Host (Outcome)

/-! ### Queue-register sets (08 R233 R234) -/

/-- The number under which the mailbox engine, which applies the host's stores, acts. -/
def mailboxNo : Nat := 101

/-- The owner of a queue-register set: a control core, the management controller, the mailbox engine. -/
def ownsQueue (who n : Nat) : Bool := decide (n ≤ 5) && who == 96 + n

/-- Set `n`. -/
def State.regset (s : State) (n : Nat) : RegSet := s.regsets.get {} n
/-- Changes set `n`. -/
def State.modRegset (s : State) (n : Nat) (f : RegSet → RegSet) : State := { s with regsets := s.regsets.set {} n (f (s.regset n)) }

/-- QSTAT. -/
def RegSet.qstat (x : RegSet) : Word :=
  BitVec.ofNat 64 (2 ^ 32 * x.seq.toNat + 2 ^ 16 * x.refused.toNat + 2 ^ 4 * x.result.toNat + x.pres.toNat)

/-- A store to QW0 to QW3, kept whole: GO looks at the reserved bits of QW0 (08 R233 R234; log 77). -/
def RegSet.putQw (x : RegSet) (k : Nat) (val : Word) : RegSet :=
  { x with qw := x.qw.set 0 k val, pres := x.pres ||| BitVec.ofNat 4 (2 ^ k) }

/-- The agent whose caches a set's reads use. -/
def setCaller (n : Nat) : Nat := if n ≤ 4 then 96 + n else 96

/-- The core, die or nothing that QW0 names is in range (08 R234 step 2). -/
def targetOk (q t : Nat) : Bool :=
  if q ≤ 2 then decide (t ≤ 95) else if q = 4 || q = 6 then decide (t ≤ 3) else t == 0

/-- QW0 to QW3 are well formed. -/
def RegSet.wellFormed (x : RegSet) : Bool :=
  let w0 := x.qw.get 0 0
  let q := bitsOf w0 0 4
  bitsOf w0 11 53 == 0 && decide (q ≤ 8) && q != 3 && targetOk q (bitsOf w0 4 7) && (x.qw.get 0 1).toNat % 64 == 0 &&
    (x.qw.get 0 3).toNat % 16 == 0

/-- The command of a GO is offered to its queue (08 R234 step 4, 13 R338); the answer says whether it was taken. -/
def State.goOffer (s : State) (n : Nat) (r : Rec) : State × Bool :=
  let w0 := (s.regset n).qw.get 0 0
  let t := bitsOf w0 4 7
  let p := Pusher.regset n
  let give (q : TileQueue) : State × Bool :=
    let (o, ctx, phys) := s.tileOrigin p q
    s.offerRecord q r o ctx phys
  let asleep := (s.core t).power != 0
  match bitsOf w0 0 4 with
  | 0 => if asleep then (s, false) else give (.tq t)
  | 1 => if asleep then (s, false) else s.offerEngine t false r (s.originOf p t).1 none 0
  | 2 => if asleep then (s, false) else s.offerEngine t true r (s.originOf p t).1 none 0
  | 4 =>
    let (q, o, ctx, dctx) := s.fabricPath p
    s.offerFabric q r o ctx dctx
  | 5 =>
    let (o, ctx, phys) := s.tileOrigin p .xq
    s.offerLq r o ctx phys (if n < 4 then n else 0)
  | 6 => give (.dq t)
  | 7 => give .xq
  | _ => give .pq

/-- Where the 16 bytes of a GO's result go, if QW3 names a place for them (08 R234). -/
def RegSet.area (x : RegSet) : Option Nat :=
  let a := (x.qw.get 0 3).toNat
  let reach (pa : Nat) : Bool :=
    match placeOf pa with
    | .hbm | .sram => true
    | .window _ _ => true
    | .rom _ | .control | .nowhere => false
  if a ≠ 0 && reach a && reach (a + 15) && decide (a < hbmEnd) == decide (a + 15 < hbmEnd) then some a else none

/-- The end of a GO: the result, and its 16 bytes where QW3 reaches (08 R234). -/
def State.goEnd (s : State) (n : Nat) (val : Word) (result : Nat) : State :=
  let s1 := s.modRegset n fun x =>
    { x with pres := 0, seq := val.setWidth 16, result := BitVec.ofNat 4 result
             refused := if result = 2 || result = 3 then (if x.refused = 0xFFFF then x.refused else x.refused + 1) else x.refused }
  let x := s1.regset n
  match x.area with
  | some a => s1.physWrite a (toBytes x.qstat.toNat 8 ++ toBytes (x.qw.get 0 2).toNat 8)
  | none => s1

/-- The result's line is held at its home (11 R302 R306). -/
def State.areaHeld (s : State) (n : Nat) : Bool :=
  (s.regset n).area.any fun a => s.homeHeld { agent := setCaller n, ctx := none, other := true } a 16

/-- A store to GO of set `n`; none while the record's home holds the read, or the result's home the write (08 R234). -/
def State.go (s : State) (n : Nat) (val : Word) : Option State :=
  let x := s.regset n
  if s.areaHeld n then none
  else if x.pres ≠ 0xF then some (s.goEnd n val 2)
  else if !x.wellFormed then some (s.goEnd n val 3)
  else
    match s.readMem { agent := setCaller n, ctx := none, unit := decide (5 ≤ n) } .read (x.qw.get 0 1).toNat 64 with
    | .wait _ _ => none
    | .fail t _ _ => some (t.goEnd n val 4)
    | .ok t bs =>
      let r := recOf bs
      if bitsOf (x.qw.get 0 0) 0 4 = 4 && fcOrd r && !t.pt.sync then some (t.goEnd n val 3)
      else
        let (u, taken) := t.goOffer n r
        some (u.goEnd n val (if taken then 0 else 1))

/-- GO (08 R234). -/
def execGo (who n : Nat) (val : Word) (s : State) : Outcome State Fault Refusal :=
  (Eff.done (if ownsQueue who n then (s.go n val).getD s else s)).out

/-- A register of a set as it reads (08 R233, 11 R293); GO, unused offsets and the reserved field of QW0, which GO looks at, read as zero
(00 R7; log 77). -/
def RegSet.read (x : RegSet) (off : Nat) : Word :=
  match off with
  | 0x00 => x.qw.get 0 0 &&& 0x7FF
  | 0x08 => x.qw.get 0 1
  | 0x10 => x.qw.get 0 2
  | 0x18 => x.qw.get 0 3
  | 0x28 => x.qstat
  | 0x30 => x.ctx.setWidth 64
  | _ => 0

/-- A store to a register of a set by its owner; none while a GO waits. -/
def State.writeRegset (s : State) (n off : Nat) (val : Word) : Option State :=
  match off with
  | 0x00 => some (s.modRegset n fun x => x.putQw 0 val)
  | 0x08 => some (s.modRegset n fun x => x.putQw 1 val)
  | 0x10 => some (s.modRegset n fun x => x.putQw 2 val)
  | 0x18 => some (s.modRegset n fun x => x.putQw 3 val)
  | 0x20 => s.go n val
  | 0x28 => some (s.modRegset n fun x => { x with refused := BitVec.ofNat 16 (bitsOf val 16 16) })
  | 0x30 => some (s.modRegset n fun x => { x with ctx := val.setWidth 6 })
  | _ => some s

/-! ### Page replies (11 R302, 07 R173 R174 R176) -/

/-- The state an event or command ends in. -/
def ran (r : Outcome State Fault Refusal) (s : State) : State :=
  match r with
  | .next t => t
  | .fault _ | .refused _ => s

/-- What waits on a page of 64 KiB, from what it waits for. -/
def onPage (p : Option (Nat × Nat)) (ctx va : Nat) : Bool :=
  match p with
  | some (c, a) => c == ctx && a / 65536 * 65536 == va
  | none => false

/-- Logged lines on a page that is now present are held at their homes until the entry is replayed (07 R174). R302 lets the retry reply that
maps the page begin this. Of an access logged behind others whose own page has been present all along it says nothing: the model's choice is
that no reply gives it a home, and toward other contexts and physical addresses it takes its place when it is replayed (log 84). -/
def LogEntry.hold (e : LogEntry) (s : State) (ctx va : Nat) : LogEntry :=
  let mine := e.what.addrs.filter fun a => a / 65536 * 65536 == va
  let line (a : Nat) : Option Nat :=
    match s.walk ctx a with
    | .leaf p l _ =>
      let t := TlbEntry.ofLeaf ctx a p l
      some ((t.pa + (a - t.va)) / 128)
    | .invalid _ | .absent | .ecc _ => none
  if e.ctx = ctx then { e with home := (e.home ++ mine.filterMap line).dedup } else e

/-- An entry that names a refused page fails when its turn comes (07 R176). -/
def LogEntry.refuse (e : LogEntry) (ctx va : Nat) : LogEntry :=
  if e.ctx = ctx && e.refused.isNone then { e with refused := e.what.addrs.find? fun a => a / 65536 * 65536 == va } else e

/-- Every side log, of running and of stopped tasks. -/
def State.mapLogs (s : State) (f : LogEntry → LogEntry) : State :=
  { s with cores := s.cores.map fun (p : Nat × Core) => (p.1, { p.2 with slog := p.2.slog.map f })
           dies := s.dies.map fun (p : Nat × Die) =>
             (p.1, { p.2 with saved := p.2.saved.map fun (x : Saved) => { x with core := { x.core with slog := x.core.slog.map f } } }) }

/-- The page request with a number is answered. -/
def State.answered (s : State) (d num : Nat) : State :=
  s.modDie d fun x => { x with preqs := x.preqs.filter (·.num != num) }

/-- PGREPLY 0: what waits walks again when it next comes to its access. -/
def State.pageRetry (s : State) (d : Nat) (r : PageReq) : State :=
  let s1 := s.answered d r.num
  s1.mapLogs fun e => e.hold s1 r.ctx r.va

/-- What a core has waiting on a refused page fails. -/
def State.refuseCore (s : State) (n ctx va : Nat) : State :=
  let engine (t : State) (g : Bool) : State :=
    (((t.core n).engine g).filter fun e => onPage e.page ctx va).foldl
      (fun u e => u.failEngine n g e cEngine ((e.page.map (·.2)).getD 0)) t
  let s1 := engine (engine s false) true
  let s2 := ((s1.core n).mq.filter fun e => onPage e.page ctx va).foldl (fun t e =>
    if e.unfilled then t.fillEntry n e
    else
      match (t.core n).mq.findIdx? (·.id == e.id) with
      | some i => (t.finishEntry n i e.doneAt).1
      | none => t) s1
  let s3 := if (s2.core n).wb.head?.any fun w => onPage w.page ctx va then ran (execRegionWriteback n s2) s2 else s2
  ((s3.core n).blocks.filter fun b => onPage b.page ctx va).foldl (fun t b =>
    match (t.core n).blocks.findIdx? (· == b) with
    | some i => ran (execBlockFilled n i t) t
    | none => t) s3

/-- An access that waits on a refused page fails when its agent next acts; the elements of a vector access before the one that waits keep
their effect (07 R167 R173). -/
def PendAccess.refuse (p : PendAccess) (ctx va : Nat) : PendAccess := if onPage p.page ctx va then { p with refused := some (ctx, va) } else p

/-- What an agent has waiting on a refused page fails: a fetch as FETCH_FAULT, any other access as a deferred fault (07 R173). -/
def State.refuseAgent (s : State) (n ctx va : Nat) : State :=
  let a := s.agent n
  let s1 := if a.pend.isNone then s else s.modAgent n fun x => { x with pend := x.pend.map (·.refuse ctx va) }
  match a.pageHold with
  | none => s1
  | some h =>
    let addr : Word := BitVec.ofNat 64 h.va
    if !onPage (some (h.ctx, h.va)) ctx va then s1
    else if h.code = cFetch then
      (s1.modAgent n fun x => { x with pageHold := none }).faultAt n cFetch a.pc h.src addr
    else
      s1.modAgent n fun x => { x with pageHold := none, deferred := x.deferred ++ [{ code := h.code, src := h.src, addr := addr }] }

/-- What the fabric logic has waiting on a refused page fails, through die `d`. -/
def State.refuseFabric (s : State) (d ctx va : Nat) : State :=
  let s1 := (s.fab.rx.filter fun m => dieOf m.issuer.agent == d && onPage m.page ctx va).foldl (fun t m =>
    if m.ordered then t.deliver m else t.performMsg m) s
  (s1.fab.reqs.filter fun r => dieOf r.issuer.agent == d && onPage r.page ctx va).foldl (fun t r =>
    if r.acked then t.finishReq r else t.failReq r cEngine ((r.page.map (·.2)).getD 0)) s1

/-- PGREPLY 1: every access that waits on the request fails at once (11 R299). -/
def State.pageRefuse (s : State) (d : Nat) (r : PageReq) : State :=
  let ctx := r.ctx
  let va := r.va
  let s1 := { s.answered d r.num with refuse := some (ctx, va) }
  let s2 := ((s1.cores.map (·.1)).filter (dieOf · == d)).foldl (fun t n => t.refuseCore n ctx va) s1
  let s3 := (s2.tiles.filter fun e => dieOf e.issuer.agent == d && onPage e.page ctx va).foldl (fun t e => ran (execTileComplete e.id t) t) s2
  let s4 := (s3.launches.filter fun l => dieOf l.issuer.agent == d && onPage l.page ctx va).foldl (fun t l =>
    if t.isOver l then t.tryFinish l.num else t.modLaunch l.num fun x => { x with page := none, logLost := true }) s3
  let s5 := ((s4.agents.map (·.1)).filter (dieOf · == d)).foldl (fun t n => t.refuseAgent n ctx va) (s4.refuseFabric d ctx va)
  { s5.mapLogs (fun e => e.refuse ctx va) with refuse := none }

/-- A store to PGREPLY of die `d`; an unknown request number is ignored. -/
def State.writePgreply (s : State) (d : Nat) (val : Word) : State :=
  match (s.die d).preqs.find? (·.num == bitsOf val 0 16) with
  | none => s
  | some r => if val.getLsbD 16 then s.pageRefuse d r else s.pageRetry d r

/-- PGREPLY_RETRY (11 R302). -/
def execPgreplyRetry (who d : Nat) (val : Word) (s : State) : Outcome State Fault Refusal :=
  (Eff.done (if reaches who && d < 4 && !val.getLsbD 16 then s.writePgreply d val else s)).out

/-- PGREPLY_REFUSE (11 R302). -/
def execPgreplyRefuse (who d : Nat) (val : Word) (s : State) : Outcome State Fault Refusal :=
  (Eff.done (if reaches who && d < 4 && val.getLsbD 16 then s.writePgreply d val else s)).out

end Sys2Proof.Machine
end

