-- ==== Sys2Proof/Machine/Mgmt.lean ====
section
/-! DEFINITION. Management (16): SHA-384, measurements and boot (16 R416 R420), the event log's firmware posts (16 R418), the mailbox and
its link (16 R407 to R410), the side band (16 R411 R412 R421), release and halt of agents (16 R414 R417), and resets. -/

namespace Sys2Proof.Machine

open Host (Outcome)

/-! ### SHA-384 -/

/-- The round constants. -/
def shaK : List Word :=
  [0x428A2F98D728AE22, 0x7137449123EF65CD, 0xB5C0FBCFEC4D3B2F, 0xE9B5DBA58189DBBC,
    0x3956C25BF348B538, 0x59F111F1B605D019, 0x923F82A4AF194F9B, 0xAB1C5ED5DA6D8118,
    0xD807AA98A3030242, 0x12835B0145706FBE, 0x243185BE4EE4B28C, 0x550C7DC3D5FFB4E2,
    0x72BE5D74F27B896F, 0x80DEB1FE3B1696B1, 0x9BDC06A725C71235, 0xC19BF174CF692694] ++
  [0xE49B69C19EF14AD2, 0xEFBE4786384F25E3, 0x0FC19DC68B8CD5B5, 0x240CA1CC77AC9C65,
    0x2DE92C6F592B0275, 0x4A7484AA6EA6E483, 0x5CB0A9DCBD41FBD4, 0x76F988DA831153B5,
    0x983E5152EE66DFAB, 0xA831C66D2DB43210, 0xB00327C898FB213F, 0xBF597FC7BEEF0EE4,
    0xC6E00BF33DA88FC2, 0xD5A79147930AA725, 0x06CA6351E003826F, 0x142929670A0E6E70] ++
  [0x27B70A8546D22FFC, 0x2E1B21385C26C926, 0x4D2C6DFC5AC42AED, 0x53380D139D95B3DF,
    0x650A73548BAF63DE, 0x766A0ABB3C77B2A8, 0x81C2C92E47EDAEE6, 0x92722C851482353B,
    0xA2BFE8A14CF10364, 0xA81A664BBC423001, 0xC24B8B70D0F89791, 0xC76C51A30654BE30,
    0xD192E819D6EF5218, 0xD69906245565A910, 0xF40E35855771202A, 0x106AA07032BBD1B8] ++
  [0x19A4C116B8D2D0C8, 0x1E376C085141AB53, 0x2748774CDF8EEB99, 0x34B0BCB5E19B48A8,
    0x391C0CB3C5C95A63, 0x4ED8AA4AE3418ACB, 0x5B9CCA4F7763E373, 0x682E6FF3D6B2B8A3,
    0x748F82EE5DEFB2FC, 0x78A5636F43172F60, 0x84C87814A1F0AB72, 0x8CC702081A6439EC,
    0x90BEFFFA23631E28, 0xA4506CEBDE82BDE9, 0xBEF9A3F7B2C67915, 0xC67178F2E372532B] ++
  [0xCA273ECEEA26619C, 0xD186B8C721C0C207, 0xEADA7DD6CDE0EB1E, 0xF57D4F7FEE6ED178,
    0x06F067AA72176FBA, 0x0A637DC5A2C898A6, 0x113F9804BEF90DAE, 0x1B710B35131C471B,
    0x28DB77F523047D84, 0x32CAAB7B40C72493, 0x3C9EBE0A15C9BEBC, 0x431D67C49C100D4C,
    0x4CC5D4BECB3E42B6, 0x597F299CFC657E2A, 0x5FCB6FAB3AD6FAEC, 0x6C44198C4A475817]

/-- The initial hash words. -/
def shaInit : List Word :=
  [0xCBBB9D5DC1059ED8, 0x629A292A367CD507, 0x9159015A3070DD17, 0x152FECD8F70E5939,
    0x67332667FFC00B31, 0x8EB44A8768581511, 0xDB0C2E0D64F98FA7, 0x47B5481DBEFA4FA4]

/-- A rotation to the right. -/
def rotr (x : Word) (n : Nat) : Word := (x >>> n) ||| (x <<< (64 - n))

/-- The next word of the schedule, from the last sixteen, newest first. -/
def shaNext (w : List Word) : Word :=
  let a := w.getD 1 0
  let b := w.getD 14 0
  let s1 := rotr a 19 ^^^ rotr a 61 ^^^ (a >>> 6)
  let s0 := rotr b 1 ^^^ rotr b 8 ^^^ (b >>> 7)
  s1 + w.getD 6 0 + s0 + w.getD 15 0

/-- The schedule, newest word first, with `n` words added. -/
def shaExtend (w : List Word) (n : Nat) : List Word :=
  match n with
  | 0 => w
  | k + 1 => shaExtend (shaNext w :: w) k

/-- One round on the eight working words. -/
def shaRound (v : List Word) (kw : Word) : List Word :=
  match v with
  | [a, b, c, d, e, f, g, h] =>
    let t1 := h + (rotr e 14 ^^^ rotr e 18 ^^^ rotr e 41) + ((e &&& f) ^^^ (~~~e &&& g)) + kw
    let t2 := (rotr a 28 ^^^ rotr a 34 ^^^ rotr a 39) + ((a &&& b) ^^^ (a &&& c) ^^^ (b &&& c))
    [t1 + t2, a, b, c, d + t1, e, f, g]
  | _ => v

/-- A big-endian word of eight bytes. -/
def bigWord (bs : List Byte) : Word := BitVec.ofNat 64 (ofBytes bs.reverse)

/-- A block of 128 bytes. -/
def shaBlock (h : List Word) (bs : List Byte) : List Word :=
  let first := (List.range 16).map fun i => bigWord ((bs.drop (8 * i)).take 8)
  let w := (shaExtend first.reverse 64).reverse
  List.zipWith (· + ·) h ((List.zipWith (· + ·) w shaK).foldl shaRound h)

/-- The blocks of a padded message. -/
def shaBlocks (h : List Word) (bs : List Byte) (n : Nat) : List Word :=
  match n with
  | 0 => h
  | k + 1 => shaBlocks (shaBlock h (bs.take 128)) (bs.drop 128) k

/-- The SHA-384 digest of bytes: 48 bytes, first byte lowest. -/
def sha384 (bs : List Byte) : BitVec 384 :=
  let n := bs.length
  let zeros := (239 - n % 128) % 128
  let padded := bs ++ [0x80] ++ List.replicate zeros 0 ++ (toBytes (8 * n) 16).reverse
  let h := shaBlocks shaInit padded (padded.length / 128)
  BitVec.ofNat 384 (ofBytes ((h.take 6).flatMap fun w => (toBytes w.toNat 8).reverse))

/-! ### Measurements (16 R420) -/

/-- The SHA-384 digest of the boot ROM's own contents (16 R416 step 1, R413). -/
def romDigest : BitVec 384 := sha384 ((List.range 0x10000).map Config.bootRom)

/-- Changes the management block. -/
def State.modMg (s : State) (f : Mgmt → Mgmt) : State := { s with mg := f s.mg }

/-- The 48 bytes of a digest. -/
def digestBytes (x : BitVec 384) : List Byte := toBytes x.toNat 48

/-- MR `i` is extended with a digest. -/
def State.extend (s : State) (i : Nat) (x : BitVec 384) : State :=
  s.modMg fun m => { m with mr := m.mr.set 0 i (sha384 (digestBytes (m.mr.get 0 i) ++ digestBytes x)) }

/-- The digest staged in MRX0 to MRX5. -/
def Mgmt.staged (m : Mgmt) : BitVec 384 :=
  BitVec.ofNat 384 (ofBytes ((List.range 6).flatMap fun i => toBytes (m.mrx.get 0 i).toNat 8))

/-- A store to MRXGO. -/
def State.writeMrxgo (s : State) (val : Word) : State :=
  if val = 5 || val = 6 then s.extend val.toNat s.mg.staged else s

/-- MRXGO (16 R420). -/
def execMrxgo (who : Nat) (val : Word) (s : State) : Outcome State Fault Refusal :=
  (Eff.done (if reaches who then s.writeMrxgo val else s)).out

/-! ### Boot (16 R416) -/

/-- BOOTSTAT. -/
def Mgmt.bootstat (m : Mgmt) : Word :=
  BitVec.ofNat 64 (2 ^ 8 * m.stage.toNat + 4 * m.image.toNat + (if m.fail then 2 else 0) + (if m.done then 1 else 0))

/-- [a, a + n) lies in HBM or in management SRAM. -/
def loadRangeOk (a n : Nat) : Bool :=
  decide (a + n ≤ hbmEnd) || (decide (ctlBase + 0xD00000 ≤ a) && decide (a + n ≤ ctlBase + 0xE00000))

/-- The first check of stages 0x01 to 0x06 that an image fails. -/
def imageFails (img : List Byte) : Option Nat :=
  let word0 := ofBytes (img.take 8)
  let kind := Config.imageKind img
  let signed := Config.imagePart img 0
  let ecKey := Config.imagePart img 2
  let lmsKey := Config.imagePart img 3
  if word0 % 2 ^ 16 ≠ 0x424E || kind = 0 || 4 < kind || !loadRangeOk (Config.imageLoad img) (Config.imagePart img 1).length then some 1
  else if word0 / 2 ^ 16 % 2 ^ 8 < (Config.fusedMinVersion kind).toNat then some 2
  else if sha384 ecKey ≠ Config.fusedEcdsaHash then some 3
  else if sha384 lmsKey ≠ Config.fusedLmsHash then some 4
  else if !Config.ecdsaVerify ecKey (digestBytes (sha384 signed)) (Config.imagePart img 4) then some 5
  else if !Config.lmsVerify lmsKey signed (Config.imagePart img 5) then some 6
  else none

/-- The boot stops at a stage. -/
def State.bootFails (s : State) (stage : Nat) : State :=
  let i := s.mg.taken
  (s.modMg fun m => { m with fail := true, stage := BitVec.ofNat 8 stage, image := BitVec.ofNat 6 i }).logHard 1 stage
    (BitVec.ofNat 64 i) 0

/-- An image that has passed is copied and measured; after the last one the controller jumps to the management firmware. -/
def State.bootTakes (s : State) (img : List Byte) : State :=
  let kind := Config.imageKind img
  let s1 := (s.physWrite (Config.imageLoad img) (Config.imagePart img 1)).extend kind (sha384 (Config.imagePart img 0))
  let s2 := s1.modMg fun m =>
    { m with taken := m.taken + 1, entry := if kind = 1 then some (Config.imageEntry img) else m.entry }
  if Config.imageLast s.mg.taken || s2.mg.taken = 16 then
    let s3 := s2.modMg fun m => { m with done := true }
    match s3.mg.entry with
    | some a => s3.modAgent 100 fun x => { x with pc := a, empties := 0, delay := none, xfer := none, tried := none }
    | none => s3
  else s2

/-- BOOT_IMAGE: the boot ROM checks, copies and measures the next image of the boot flash, or the boot fails (16 R416; log 4, log 5). -/
def execBootImage (img : List Byte) (s : State) : Outcome State Fault Refusal :=
  (Eff.done (if s.mg.fail || s.mg.done || 16 ≤ s.mg.taken then s
    else
      let s1 := if s.mg.begun then s else (s.extend 0 romDigest).modMg fun m => { m with begun := true }
      match imageFails img with
      | some stage => s1.bootFails stage
      | none =>
        let s2 := { s1 with fresh := s1.fresh + 1 }
        if Config.copyError s1.fresh then s2.bootFails 7 else s2.bootTakes img)).out

/-! ### Release, debug, the event log (16 R414 R417 R418) -/

/-- CCPC of a control core as an address. -/
def Mgmt.startOf (m : Mgmt) (d : Nat) : Word := m.ccpc.get 0 d &&& 0xFFFFFFFFF8

/-- A store to CCREL, for one die: RST wins over GO, and puts every register of the core at its reset value, those of its die's event ring
that are special registers of it too (01 R26). -/
def State.releaseOne (s : State) (val : Word) (d : Nat) : State :=
  let a := s.agent (96 + d)
  if val.getLsbD (4 + d) then (s.setAgent (96 + d) {}).modDie d fun x => { x with evqhead := 0, evqtail := 0 }
  else if val.getLsbD d && a.run == .off then s.setAgent (96 + d) { a with run := .running, pc := s.mg.startOf d }
  else s

/-- A store to CCREL. -/
def State.writeCcrel (s : State) (val : Word) : State := (List.range 4).foldl (fun t d => t.releaseOne val d) s

/-- CCREL_GO: the GO bits of a store to CCREL (16 R414). -/
def execCcrelGo (who : Nat) (val : Word) (s : State) : Outcome State Fault Refusal :=
  (Eff.done (if reaches who && bitsOf val 0 4 ≠ 0 then s.writeCcrel val else s)).out

/-- CCREL_RST: the RST bits of a store to CCREL (16 R414). -/
def execCcrelRst (who : Nat) (val : Word) (s : State) : Outcome State Fault Refusal :=
  (Eff.done (if reaches who && bitsOf val 4 4 ≠ 0 then s.writeCcrel val else s)).out

/-- DBGCTL. -/
def State.dbgctl (s : State) : Word := BitVec.ofNat 64 (s.dbgEn.toNat + if s.dbgHalt then 256 else 0)

/-- DBGCTL.EN takes a value; `new` is the value of the whole register that an enabling is measured with (16 R417). -/
def State.writeDbgEn (s : State) (en : BitVec 4) (new : Word) : State :=
  let s1 := if en &&& ~~~s.dbgEn ≠ 0 then s.extend 7 (sha384 (toBytes new.toNat 8)) else s
  { s1 with dbgEn := en }

/-- DBGCTL.HALT takes a value: running stamped tasks end with STAMP_OVERRUN, and watchdog clocks stand (16 R417). -/
def State.writeDbgHalt (s : State) (halt : Bool) : State :=
  if halt = s.dbgHalt then s
  else
    let s1 := { (if halt then s.modAllCores Core.overrun else s) with dbgHalt := halt }
    s1.launches.foldl (fun t l => t.touchClock l.num) s1

/-- A store to DBGCTL. -/
def State.writeDbgctl (s : State) (val : Word) : State := (s.writeDbgEn (val.setWidth 4) (val &&& 0x10F)).writeDbgHalt (val.getLsbD 8)

/-- DBGCTL_EN_WRITE: the EN field of a store to DBGCTL (16 R417). -/
def execDbgctlEnWrite (who : Nat) (val : Word) (s : State) : Outcome State Fault Refusal :=
  (Eff.done (if who = 100 then s.writeDbgEn (val.setWidth 4) (val &&& 0x10F) else s)).out

/-- DBGCTL_HALT_WRITE: the HALT field of a store to DBGCTL (16 R417). -/
def execDbgctlHaltWrite (who : Nat) (val : Word) (s : State) : Outcome State Fault Refusal :=
  (Eff.done (if who = 100 then s.writeDbgHalt (val.getLsbD 8) else s)).out

/-- A store to ELPUSH: the staged entry joins the ring (16 R418). -/
def State.writeElpush (s : State) : State :=
  let w0 := (s.elW.get 0 0).toNat
  { s.logPost s.now (w0 % 256) (w0 / 256) (s.elW.get 0 2) (s.elW.get 0 3) with
    elPushAt := s.cycle + 1, elPushes := (if s.elPushAt = s.cycle + 1 then s.elPushes else 0) + 1 }

/-- ELPUSH (16 R418). -/
def execElpush (who : Nat) (s : State) : Outcome State Fault Refusal := (Eff.done (if reaches who then s.writeElpush else s)).out

/-! ### The link and the mailbox (16 R407 to R410) -/

/-- Notifications queued. -/
def hostDepth : Nat := 64

/-- The link takes some of the notifications that wait, the oldest first; the replies to the requests before them have gone, since a
request is performed and answered in one step (16 R410; log 63). -/
def State.linkSends (s : State) : State :=
  let n := Config.linkTakes s.fresh
  { s.modMg fun m => { m with hostq := m.hostq.drop n, noted := m.noted ++ m.hostq.take n } with fresh := s.fresh + 1 }

/-- A store to HOSTNOTE, and whether it is performed: not while the queue is full. With the link down the notification is discarded
(16 R410); the link may send it at once. -/
def State.writeHostnote (s : State) (val : Word) : State × Bool :=
  let t := s.linkSends
  if !s.mg.linkUp then (s, true)
  else if hostDepth ≤ t.mg.hostq.length then (t, false)
  else ((t.modMg fun m => { m with hostq := m.hostq ++ [val] }).linkSends, true)

/-- HOSTNOTE (16 R410). -/
def execHostnote (who : Nat) (val : Word) (s : State) : Outcome State Fault Refusal :=
  (Eff.done (if reaches who then (s.writeHostnote val).1 else s)).out

/-- LINK_DOWN: the notifications that the link has not sent by then are discarded, and requests get no reply (16 R407 R410; log 63). -/
def execLinkDown (s : State) : Outcome State Fault Refusal :=
  (Eff.done ((if s.mg.linkUp then s.linkSends else s).modMg fun m => { m with linkUp := false, hostq := [] })).out

/-- LINK_UP (16 R407). -/
def execLinkUp (s : State) : Outcome State Fault Refusal := (Eff.done (s.modMg fun m => { m with linkUp := true })).out

/-- Base of queue-register set 5. -/
def set5Base : Nat := ctlBase + 0x400000 + 0x500

/-- [a, a + n) lies in queue-register set 5. -/
def inSet5 (a n : Nat) : Bool := decide (set5Base ≤ a) && decide (a + n ≤ set5Base + 0x100)

/-- [a, a + n) lies in HBM, in the scratchpad of one window, or in set 5. -/
def mailRange (a n : Nat) : Bool :=
  let o := (a - hbmEnd) % 0x200000
  decide (a + n ≤ hbmEnd) || inSet5 a n ||
    (decide (hbmEnd ≤ a) && decide (a < hbmEnd + 96 * 0x200000) && decide (o + n ≤ scratchEnd))

/-- The status of a request that is not performed (16 R409). Whether a range that meets set 5 only in part is an access to set 5 the rule does
not say: the model's choice is that it is not, so that its status is 1 (log 94). -/
def State.mailStatus (s : State) (h : BitVec 128) (op : Nat) : Nat :=
  let w0 : Word := h.extractLsb' 0 64
  let w1 : Word := h.extractLsb' 64 64
  let n := bitsOf w0 32 32
  let a := bitsOf w1 0 40
  if !s.mg.done || !s.mg.mben then 4
  else if bitsOf w0 8 8 ≠ 0 || bitsOf w1 40 24 ≠ 0 || bitsOf w0 0 8 ≠ op || n = 0 || 4096 < n ||
      (inSet5 a n && !(op == 2 && n == 8 && a % 8 == 0)) then 3
  else if !mailRange a n then 1
  else 0

/-- A reply: the tag and the status, then the data (16 R408). Notifications that wait may follow it (16 R410). -/
def State.mailReply (s : State) (h : BitVec 128) (status : Nat) (data : List Byte) : State :=
  let tag := bitsOf (h.extractLsb' 0 64) 16 16
  (s.modMg fun m => { m with mbReply := toBytes (2 ^ 16 * tag + status) 16 ++ data }).linkSends

/-- The issuer of the mailbox's accesses. -/
def mailIssuer : Issuer := { agent := 0x7F, ctx := none }

/-- MAILBOX_READ: a read request of the host, performed whole or not at all (16 R409). -/
def execMailboxRead (h : BitVec 128) (s : State) : Outcome State Fault Refusal :=
  let n := bitsOf (h.extractLsb' 0 64) 32 32
  let a := bitsOf (h.extractLsb' 64 64) 0 40
  (Eff.done (if !s.mg.linkUp then s
    else if s.mailStatus h 1 ≠ 0 then s.mailReply h (s.mailStatus h 1) []
    else
      match readEach s (cutAt 8 a n n) fun t p => t.readMem mailIssuer .read p.1 p.2 with
      | .wait _ _ => s
      | .fail t _ _ => t.mailReply h 2 []
      | .ok t bs => t.mailReply h 0 bs.flatten)).out

/-- MAILBOX_WRITE: a write request of the host (16 R409). -/
def execMailboxWrite (h : BitVec 128) (data : List Byte) (s : State) : Outcome State Fault Refusal :=
  let n := bitsOf (h.extractLsb' 0 64) 32 32
  let a := bitsOf (h.extractLsb' 64 64) 0 40
  let bs := (data ++ List.replicate n 0).take n
  (Eff.done (if !s.mg.linkUp then s
    else if s.mailStatus h 2 ≠ 0 then s.mailReply h (s.mailStatus h 2) []
    else if inSet5 a n then
      match s.writeRegset 5 (a - set5Base) (BitVec.ofNat 64 (ofBytes bs)) with
      | some t => t.mailReply h 0 []
      | none => s
    else
      match s.writeWords mailIssuer .write a bs with
      | .ok t _ => t.mailReply h 0 []
      | .wait _ _ | .fail _ _ _ => s)).out

/-! ### The side band (16 R411 R412 R421) -/

/-- The endpoint answers: not while the management controller is halted (01 R31, 16 R411). -/
def State.endpointUp (s : State) : Bool := (s.agent 100).run != .halted

/-- A message the endpoint serves: its reply, and the interrupt once the firmware serves it (01 R32; log 17). -/
def State.serve (s : State) (reply : List Byte) : State :=
  if s.endpointUp then
    { s.modMg (fun m => { m with sbReply := reply }) with sideMsg := s.sideMsg || s.mg.done }
  else s

/-- SET_ENDPOINT_ID (16 R411). -/
def execSetEndpointId (eid : Nat) (s : State) : Outcome State Fault Refusal :=
  (Eff.done (if s.endpointUp then (s.serve []).modMg fun m => { m with eid := BitVec.ofNat 8 eid } else s)).out

/-- The value of a sensor; none where there is no such sensor (16 R412). -/
def State.sensor (s : State) (id : Nat) : Option (List Byte) :=
  if 1 ≤ id && id ≤ 96 then some (toBytes (s.core (id - 1)).thermLo.toNat 2)
  else if 101 ≤ id && id ≤ 196 then some (toBytes (s.core (id - 101)).thermHi.toNat 2)
  else if 200 ≤ id && id ≤ 207 then some [(s.hbm.get {} (id - 200)).degc]
  else if id = 210 then some (toBytes (Config.inputPower s.fresh) 4)
  else if id = 220 then some (toBytes s.mg.bootstat.toNat 8)
  else none

/-- PLDM_SENSOR_READ (16 R412; log 17). -/
def execPldmSensorRead (id : Nat) (s : State) : Outcome State Fault Refusal :=
  (Eff.done { s.serve ((s.sensor id).getD []) with fresh := s.fresh + 1 }).out

/-- PLDM_EFFECTER_DEBUG: effecter 301 writes DBGCTL.EN, after its event log entry (16 R412 R417 R418). -/
def execPldmEffecterDebug (v : Nat) (s : State) : Outcome State Fault Refusal :=
  let en := BitVec.ofNat 4 v
  let new : Word := BitVec.ofNat 64 (en.toNat + if s.dbgHalt then 256 else 0)
  (Eff.done (if s.endpointUp then ((s.logHard 3 1 (en.setWidth 64) 0).writeDbgEn en new).serve [] else s)).out

/-- PLDM_FIRMWARE_UPDATE: the image is written to the boot flash (16 R411 R416). -/
def execPldmFirmwareUpdate (data : List Byte) (s : State) : Outcome State Fault Refusal :=
  (Eff.done (if s.endpointUp then (s.serve []).modMg fun m => { m with update := data } else s)).out

/-- The values of indices 1 to 9 (16 R421). -/
def State.measured (s : State) : List Byte :=
  (List.range 8).flatMap (fun i => digestBytes (s.mg.mr.get 0 i)) ++
    toBytes (s.dbgEn.toNat + 2 ^ 16 * (s.mg.bootstat.toNat % 2 ^ 16)) 4 ++ (List.range 4).map fun k => Config.fusedMinVersion (k + 1)

/-- GET_MEASUREMENTS: the values, signed together with the requester's nonce (16 R421). -/
def execGetMeasurements (nonce : List Byte) (s : State) : Outcome State Fault Refusal :=
  (Eff.done (s.serve (s.measured ++ Config.deviceSign (nonce ++ s.measured)))).out

/-- SPDM_CHALLENGE (16 R421). -/
def execSpdmChallenge (nonce : List Byte) (s : State) : Outcome State Fault Refusal :=
  (Eff.done (s.serve (Config.deviceSign nonce))).out

/-- SPDM_GET_CERTIFICATE (16 R421). -/
def execSpdmGetCertificate (s : State) : Outcome State Fault Refusal := (Eff.done (s.serve Config.certChain)).out

/-- SIDEBAND_MESSAGE_DROP: a message of another type leaves no trace (16 R411). -/
def execSidebandMessageDrop (_ : Nat) (s : State) : Outcome State Fault Refusal := (Eff.done s).out

/-! ### Resets (01 R38, 16 R411) -/

/-- The module starts again; the boot flash keeps an image written to it, and what is the model's own goes on. -/
def State.restart (s : State) : State :=
  { State.reset with
    agenda := s.agenda, fresh := s.fresh, nextId := s.nextId, chipid := s.chipid, mg := { update := s.mg.update } }

/-- TARGET_RESET (16 R411). -/
def execTargetReset (s : State) : Outcome State Fault Refusal := (Eff.done s.restart).out

/-- POWER_ON_RESET (01 R38). -/
def execPowerOnReset (s : State) : Outcome State Fault Refusal := (Eff.done s.restart).out

/-- PLDM_EFFECTER_RESET: effecter 300 resets the module, after its event log entry (16 R412 R418). -/
def execPldmEffecterReset (_ : Nat) (s : State) : Outcome State Fault Refusal :=
  (Eff.done (if s.endpointUp then (s.logHard 3 0 0 0).restart else s)).out

end Sys2Proof.Machine
end

