-- ==== Sys2Proof/Machine/CtlSpace.lean ====
section
/-! DEFINITION. Chip control space (16 R413): what its registers read as and what a store to each does. Every register is an aligned
word of 8 bytes; an address without a register is absent (log 42). -/

namespace Sys2Proof.Machine

open Host (Outcome)

/-! ### Reading -/

/-- Tile core `c` (07 R180, 11 R309, 13 R342 R357). -/
def State.readCoreReg (s : State) (c off : Nat) : Option Word :=
  let k := s.core c
  match off with
  | 0x00 => some (BitVec.ofNat 64 (k.cad.toNat + 2 ^ 12 * k.pendCad.toNat + if k.pv then 2 ^ 17 else 0))
  | 0x08 => some (k.tallow.setWidth 64)
  | 0x10 => some (k.thermLo.setWidth 64)
  | 0x18 => some (k.thermHi.setWidth 64)
  | 0x20 => some (BitVec.ofNat 64 (k.power + (if k.gate then 2 ^ 8 else 0) + if k.trip then 2 ^ 16 else 0))
  | 0x28 => some (k.hintcnt.setWidth 64)
  | 0x30 => some (BitVec.ofNat 64 k.slog.length)
  | _ => none

/-- HBM stack `h` (13 R354). -/
def State.readStackReg (s : State) (h off : Nat) : Option Word :=
  let x := s.hbm.get {} h
  match off with
  | 0x00 => some (BitVec.ofNat 64 (x.degc.toNat + if x.valid then 2 ^ 15 else 0))
  | 0x08 => some (BitVec.ofNat 64 (x.cur + 2 ^ 8 * x.floor))
  | 0x10 => some (BitVec.ofNat 64 (x.limit + 2 ^ 8 * x.eff))
  | _ => none

/-- The thermal alert block (13 R360). -/
def State.readAlertReg (s : State) (off : Nat) : Option Word :=
  match off with
  | 0x00 => some (s.alertStatus.setWidth 64)
  | 0x08 => some (s.alertMask.setWidth 64)
  | 0x10 => some (BitVec.ofNat 64 (s.thCore.toNat + 2 ^ 16 * s.thVert.toNat + 2 ^ 32 * s.thHbm.toNat))
  | 0x18 => some (BitVec.ofNat 64 (s.srcCore + 2 ^ 16 * s.srcStack))
  | _ => none

/-- The event log ring (16 R418 R419). -/
def State.readLogReg (s : State) (off : Nat) : Option Word :=
  match off with
  | 0x00 => some (s.elHead.setWidth 64)
  | 0x08 => some (s.elTail.setWidth 64)
  | 0x10 => some (BitVec.ofNat 64 s.elHwm)
  | 0x18 => some (s.elLost.setWidth 64)
  | 0x20 => some (s.elW.get 0 0)
  | 0x30 => some (s.elW.get 0 2)
  | 0x38 => some (s.elW.get 0 3)
  | 0x40 => some 0
  | _ => if 0x1000 ≤ off && off < 0x3000 then some (BitVec.ofNat 64 (ofBytes (bytesAt s.elRing (off - 0x1000) 8))) else none

/-- Map units and their error counts, shootdown sets, migration engines (11 R303 R304 R305 R308); reserved fields read as zero
(00 R7). -/
def State.readMapReg (s : State) (off : Nat) : Option Word :=
  let d := off / 0x100 % 0x100
  let x := s.die d
  if off < 5 * 0x40 then
    let y := s.shoot.get {} (off / 0x40)
    match off % 0x40 with
    | 0x00 => some (y.ctl &&& 0x00FFFFFFFFFF03F3)
    | 0x08 => some 0
    | 0x10 => some (BitVec.ofNat 64 ((if y.busy then 1 else 0) + if y.bad then 2 else 0))
    | _ => none
  else if 0x10000 ≤ off && off < 0x10400 then
    match off % 0x100 with
    | 0x00 | 0x08 => some 0
    | 0x10 => some (BitVec.ofNat 64 x.locked)
    | 0x18 => some (BitVec.ofNat 64 x.preqs.length)
    | 0x20 => some (x.eccCor.setWidth 64)
    | 0x28 => some (x.eccUnc.setWidth 64)
    | _ => none
  else if 0x20000 ≤ off && off < 0x20400 then
    match off % 0x100 with
    | 0x00 => some (x.mig.ctl &&& 0x00FFFFFFFFFF00FF)
    | 0x08 => some (x.mig.dst &&& 0x000000FFFFFF0000)
    | 0x10 => some 0
    | 0x18 => some (BitVec.ofNat 64 (x.mig.state + 2 ^ 8 * x.mig.rounds + 2 ^ 16 * (x.mig.dirtyCount % 2 ^ 16)))
    | _ => none
  else none

/-- Launch control, die scheduling and L2 windows (12 R313 R322 R329). -/
def State.readLaunchReg (s : State) (off : Nat) : Option Word :=
  let x := s.die (off / 0x100 % 0x100)
  let active := (s.launches.filter (·.active)).length
  if off < 0x10000 then
    match off with
    | 0x00 => some (BitVec.ofNat 64 (s.gate.toNat + 2 ^ 6 * s.evdie))
    | 0x08 => some 0
    | 0x10 => some (BitVec.ofNat 64 (s.launches.length - active + 2 ^ 16 * active))
    | 0x18 => some (BitVec.ofNat 64 s.wdog)
    | _ => none
  else if off < 0x10400 then
    match off % 0x100 with
    | 0x00 => some (BitVec.ofNat 64 (2 ^ 12 * x.evAddr.toNat + if x.evEn then 1 else 0))
    | 0x08 => some (BitVec.ofNat 64 x.evLog2)
    | 0x10 => some (BitVec.ofNat 64 (x.evLost.toNat + 2 ^ 32 * x.evHolds.toNat))
    | 0x18 => some (BitVec.ofNat 64 (2 ^ 20 * x.saveAddr.toNat))
    | 0x20 => some (x.saveCnt.setWidth 64)
    | 0x28 => some (BitVec.ofNat 64 x.saved.length)
    | 0x30 => some 0
    | 0x40 => some (x.l2win.get 0 0)
    | 0x50 => some (x.l2win.get 0 1)
    | 0x60 => some (x.l2win.get 0 2)
    | 0x70 => some (x.l2win.get 0 3)
    | _ => none
  else none

/-- Clock, governor and rails (13 R349 R353). -/
def State.readClockReg (s : State) (off : Nat) : Option Word :=
  if off < 0x10000 then
    match off with
    | 0x00 => some (BitVec.ofNat 64 ((s.clk.map (·.target)).getD s.step_))
    | 0x08 =>
      some (BitVec.ofNat 64 (s.step_ + (if s.clk.isSome then 2 ^ 8 else 0) + if s.clk.any (·.wstamp) then 2 ^ 9 else 0))
    | 0x10 => some (BitVec.ofNat 64 (deckle s.step_))
    | 0x18 => some (BitVec.ofNat 64 s.ramp)
    | _ => none
  else
    let d := (off - 0x10000) / 0x40
    let k := (off - 0x10000) % 0x40 / 8
    if d < 4 && k < 6 then some (BitVec.ofNat 64 (((s.die d).railMv.get 600 k).toNat + 2 ^ 24 * ((s.die d).margin.get 0 k).toNat)) else none

/-- PLSTAT (14 R378). -/
def State.plstat (s : State) (p : Nat) : Word :=
  let x := s.plane p
  let out := s.planeOut p
  let held := (s.heldPorts p).length
  BitVec.ofNat 64 ((if x.light then 1 else 0) + (if !x.en && out == 0 && held == 0 then 2 else 0) + (if x.lock then 4 else 0) +
    (if x.bank then 8 else 0) + (if x.armed.isSome then 16 else 0) + (if x.bad then 32 else 0) + 2 ^ 16 * (held % 2 ^ 16) + 2 ^ 32 * out)

/-- A word of numbered bits. -/
def bitWord (l : List Nat) : Word := l.foldl (fun w i => w ||| BitVec.ofNat 64 (2 ^ i)) 0

/-- FSC of port `q` (14 R379). -/
def State.fscWord (s : State) (p q : Nat) : Word :=
  let x := s.plane p
  let c := x.port q
  let held := ((s.heldPorts p).filter (· == q)).length
  BitVec.ofNat 64 (c.sent.toNat + 2 ^ 16 * c.freed.toNat + 2 ^ 32 * c.rxfreed.toNat + 2 ^ 48 * (x.free q) + 2 ^ 56 * held)

/-- Plane `p` (14 R367 R378 R379 R384). -/
def State.readPlaneReg (s : State) (p off : Nat) : Option Word :=
  let x := s.plane p
  match off with
  | 0x00 =>
    some (BitVec.ofNat 64 ((if x.en then 1 else 0) + (if x.light then 2 else 0) + 2 ^ 8 * x.rxbuf + 2 ^ 20 * x.len0.toNat + 2 ^ 26 * x.len1.toNat))
  | 0x08 => some (s.plstat p)
  | 0x10 => some 0
  | 0x18 => some (bitWord (x.failed.filter (· < 64)))
  | 0x20 => some (bitWord ((x.failed.filter (64 ≤ ·)).map (· - 64)))
  | 0x28 => some (bitWord x.out)
  | 0x30 => some (x.retcnt.setWidth 64)
  | _ =>
    if 0x100 ≤ off && off < 0x300 then some (s.fscWord p ((off - 0x100) / 8))
    else if 0x400 ≤ off && off < 0x1400 then
      let b := (off - 0x400) / 0x800
      let o := (off - 0x400) % 0x800
      if o < 0x400 then some (BitVec.ofNat 64 (ofBytes (bytesAt x.table (1024 * b + o) 8)) &&& 0x3F3F3F3F3F3F3F3F) else some (x.detourAt (b == 1) ((o - 0x400) / 8))
    else none

/-- Pod time, ordered delivery, pod barriers (15 R389 R398 R402). -/
def State.readTimeReg (s : State) (off : Nat) : Option Word :=
  if off < 0x20000 then
    match off with
    | 0x00 => some (BitVec.ofNat 64 s.now)
    | 0x08 => some (BitVec.ofNat 64 ((if s.pt.root then 1 else 0) + 2 ^ 8 * s.pt.dom.toNat))
    | 0x10 =>
      some (BitVec.ofNat 64 ((if s.pt.sync then 1 else 0) + (if s.pt.ext then 2 else 0) + (if s.pt.hold then 4 else 0) + 2 ^ 32 * s.pt.offs.toNat))
    | 0x18 => some 0
    | _ => none
  else if off < 0x30000 then
    match off - 0x20000 with
    | 0x00 => some (BitVec.ofNat 64 s.fab.wmark)
    | 0x08 => some (BitVec.ofNat 64 s.fab.stall)
    | o => if 0x40 ≤ o && o < 0x80 then some (s.plane ((o - 0x40) / 8)).inmask else none
  else
    let k := (off - 0x30000) / 8
    if k < 4 then some (BitVec.ofNat 64 ((s.bar k).gen.toNat + if (s.bar k).arrived then 2 ^ 33 else 0)) else none

/-- The management block (16 R414). -/
def State.readMgReg (s : State) (off : Nat) : Option Word :=
  match off with
  | 0x00 => some (if s.mg.mben then 1 else 0)
  | 0x08 => some 0
  | 0x10 => some (s.cfHalt.setWidth 64)
  | 0x18 => some 0
  | 0x20 => some s.dbgctl
  | 0x28 => some s.mg.bootstat
  | 0x30 => some s.mg.podlead
  | 0x38 => some (s.mg.podhead.setWidth 64)
  | 0x40 => some (s.mg.ccpc.get 0 0)
  | 0x48 => some (s.mg.ccpc.get 0 1)
  | 0x50 => some (s.mg.ccpc.get 0 2)
  | 0x58 => some (s.mg.ccpc.get 0 3)
  | _ => none

/-- The measurement registers (16 R420). -/
def State.readMrReg (s : State) (off : Nat) : Option Word :=
  if off < 0x200 then
    if off % 0x40 < 48 then some ((s.mg.mr.get 0 (off / 0x40)).extractLsb' (8 * (off % 0x40)) 64) else none
  else if off < 0x230 then some (s.mg.mrx.get 0 ((off - 0x200) / 8))
  else if off = 0x230 then some 0
  else none

/-- What the register at an aligned control-space address reads as; none where there is no register. -/
def State.ctlRead (s : State) (pa : Nat) : Option Word :=
  let off := (pa - ctlBase) % 0x100000
  match (pa - ctlBase) / 0x100000 with
  | 0x0 => if off / 0x1000 < 96 then s.readCoreReg (off / 0x1000) (off % 0x1000) else none
  | 0x1 => if off / 0x100 < 8 then s.readStackReg (off / 0x100) (off % 0x100) else none
  | 0x2 => s.readAlertReg off
  | 0x3 => s.readLogReg off
  | 0x4 => if off / 0x100 < 6 && off % 0x100 ≤ 0x30 then some ((s.regset (off / 0x100)).read (off % 0x100)) else none
  | 0x5 => if off / 0x10 < 64 && off % 0x10 = 0 then some (s.ctxroot.get 0 (off / 0x10)) else none
  | 0x6 => s.readMapReg off
  | 0x7 => s.readLaunchReg off
  | 0x8 => s.readClockReg off
  | 0x9 =>
    if off < 0x10000 then s.readPlaneReg (off / 0x2000) (off % 0x2000)
    else if off = 0x10000 then some (BitVec.ofNat 64 (s.fab.herdm1.toNat + 2 ^ 16 * s.fab.retry + 2 ^ 32 * s.fab.rto))
    else none
  | 0xA => s.readTimeReg off
  | 0xB => s.readMgReg off
  | 0xC => s.readMrReg off
  | _ => none

/-! ### Writing -/

/-- Registers with a field that only the management controller writes: RW-M (00 R6). -/
def machineOnly (pa : Nat) : Bool :=
  let b := (pa - ctlBase) / 0x100000
  let off := (pa - ctlBase) % 0x100000
  match b with
  | 0x0 => off % 0x1000 == 0x20
  | 0x2 => off == 0x08 || off == 0x10
  | 0x3 => [0x00, 0x10, 0x18, 0x20, 0x30, 0x38].contains off
  | 0x8 => off == 0x00 || off == 0x18 || decide (0x10000 ≤ off)
  | 0x9 => off == 0x10000
  | 0xA => off == 0x08 || off == 0x20008 || (decide (0x20040 ≤ off) && decide (off < 0x20080))
  | 0xB => [0x00, 0x20, 0x30, 0x40, 0x48, 0x50, 0x58].contains off
  | 0xC => decide (0x200 ≤ off) && decide (off < 0x230)
  | _ => false

/-- What a store to a register comes to: its effect, a wait, or nothing at that address. -/
inductive CtlStore where
  | ok (s : State)
  | wait (s : State)
  | absent

/-- A store that may have to wait, in which case it leaves the state that comes with it. -/
def CtlStore.ofPair (x : State × Bool) : CtlStore := if x.2 then .ok x.1 else .wait x.1

/-- A store to tile core `c`. -/
def State.writeCoreReg (s : State) (c off : Nat) (val : Word) : State :=
  match off with
  | 0x00 => s.writeMxcad c val
  | 0x08 => s.modCoreAt c fun k => { k with tallow := val.setWidth 8 }
  | 0x20 => if val.getLsbD 8 then s.gateSet c else s.gateClear c
  | 0x28 => s.modCoreAt c fun k => { k with hintcnt := val.setWidth 32 }
  | _ => s

/-- A store to HBM stack `h`. -/
def State.writeStackReg (s : State) (h off : Nat) (val : Word) : State :=
  match off with
  | 0x08 => s.writeRefstep h val
  | 0x10 => s.writeBwcap h val
  | _ => s

/-- A store to the thermal alert block. -/
def State.writeAlertReg (s : State) (off : Nat) (val : Word) : State :=
  match off with
  | 0x00 => s.clearAlert (val.setWidth 8)
  | 0x08 => { s with alertMask := val.setWidth 8 }
  | 0x10 =>
    { s with thCore := BitVec.ofNat 16 (bitsOf val 0 16), thVert := BitVec.ofNat 16 (bitsOf val 16 16), thHbm := BitVec.ofNat 8 (bitsOf val 32 8) }
  | _ => s

/-- A store to the event log ring. -/
def State.writeLogReg (s : State) (off : Nat) (val : Word) : State :=
  match off with
  | 0x00 =>
    let i : BitVec 32 := val.setWidth 32
    if (s.elTail - i).toNat ≤ (s.elTail - s.elHead).toNat then { s with elHead := i } else s
  | 0x10 => { s with elHwm := bitsOf val 0 9 }
  | 0x18 => { s with elLost := val.setWidth 32 }
  | 0x20 => { s with elW := s.elW.set 0 0 val }
  | 0x30 => { s with elW := s.elW.set 0 2 val }
  | 0x38 => { s with elW := s.elW.set 0 3 val }
  | 0x40 => s.writeElpush
  | _ => s

/-- A store to a map unit, a shootdown set or a migration engine; one by another agent than its owner is ignored. MIGCTL and MIGDST are
kept whole: MIGGO looks at their reserved bits, which read as zero (00 R7, 11 R305; log 77). -/
def State.writeMapReg (s : State) (who off : Nat) (val : Word) : State :=
  let d := off / 0x100 % 0x100
  if off < 0x10000 then
    let n := off / 0x40
    if !ownsSet who n then s
    else if off % 0x40 = 0 then s.writeSdctl n val
    else if off % 0x40 = 8 then s.shootdown n
    else s
  else if off < 0x20000 then
    match off % 0x100 with
    | 0x00 => s.writePgreply d val
    | 0x08 => s.writeTlblock d val
    | 0x20 => s.modDie d fun x => { x with eccCor := val.setWidth 32 }
    | 0x28 => s.modDie d fun x => { x with eccUnc := val.setWidth 32 }
    | _ => s
  else if who ≠ 96 + d && who ≠ 100 then s
  else
    match off % 0x100 with
    | 0x00 => s.modMig d fun m => { m with ctl := val }
    | 0x08 => s.modMig d fun m => { m with dst := val }
    | 0x10 => s.migGo d
    | _ => s

/-- A store to a map unit or a migration engine waits while the unit has no room for the record that its walk posts (12 R335). -/
def State.mapWaits (s : State) (who off : Nat) (val : Word) : Bool :=
  let d := off / 0x100 % 0x100
  let m := (s.die d).mig
  if 0x10000 ≤ off && off < 0x20000 then
    off % 0x100 == 8 && bitsOf val 0 2 == 1 && s.walkFull d (s.walk (lockCtx val) (lockVa val))
  else
    decide (0x20000 ≤ off) && off % 0x100 == 0x10 && (who == 96 + d || who == 100) && m.state != 1 && m.state != 2 &&
      (s.migRoom d).isSome

/-- A store to launch control, die scheduling or an L2 window. -/
def State.writeLaunchReg (s : State) (off : Nat) (val : Word) : State :=
  let d := off / 0x100 % 0x100
  if off < 0x10000 then
    match off with
    | 0x00 => { s with gate := val.setWidth 4, evdie := bitsOf val 6 2 }
    | 0x08 => s.writeLcmd val
    | 0x18 => let us := bitsOf val 0 30; if us = 0 || 1000000 < us then s else { s with wdog := us }
    | _ => s
  else
    match off % 0x100 with
    | 0x00 => s.modDie d fun x => { x with evAddr := BitVec.ofNat 28 (bitsOf val 12 28), evEn := val.getLsbD 0 }
    | 0x08 => let n := bitsOf val 0 5; if n < 6 || 20 < n then s else s.modDie d fun x => { x with evLog2 := n }
    | 0x10 => s.modDie d fun x => { x with evLost := val.setWidth 32, evHolds := BitVec.ofNat 32 (bitsOf val 32 32) }
    | 0x18 => if (s.die d).saved.isEmpty then s.modDie d fun x => { x with saveAddr := BitVec.ofNat 20 (bitsOf val 20 20) } else s
    | 0x20 => if (s.die d).saved.isEmpty then s.modDie d fun x => { x with saveCnt := val.setWidth 8 } else s
    | 0x30 => s.writeEvict d val
    | 0x40 => s.writeL2win d 0 val
    | 0x50 => s.writeL2win d 1 val
    | 0x60 => s.writeL2win d 2 val
    | 0x70 => s.writeL2win d 3 val
    | _ => s

/-- A store to GOVCTL: the windows that have ended keep the RAMP that they ended under, once each queue has done what it does in them
(13 R345 R346). -/
def State.writeRamp (s : State) (val : Word) : State :=
  let n := bitsOf val 0 7
  let closed (t : State) (c : Nat) : State := (t.settleCore c (t.ranTo c)).modCoreAt c fun k => k.govern t.ramp (t.ranTo c)
  if n = 0 || 64 < n then s else { (s.cores.map (·.1)).foldl closed s with ramp := n }

/-- A store to the clock, the governor or a rail. -/
def State.writeClockReg (s : State) (off : Nat) (val : Word) : State :=
  if off < 0x10000 then
    match off with
    | 0x00 => s.writeClkctl val
    | 0x18 => s.writeRamp val
    | _ => s
  else s.writeVcol ((off - 0x10000) / 0x40) ((off - 0x10000) % 0x40 / 8) val

/-- A store to a bank of a slot table; the active bank ignores it (14 R368). Bits [7:6] of an entry are kept, for the
check of 14 R367, and read as zero; the reserved fields of a detour, which no check looks at, ignore writes (00 R7; log 77). -/
def State.writeBank (s : State) (p off : Nat) (val : Word) : State :=
  let b := (off - 0x400) / 0x800
  let o := (off - 0x400) % 0x800
  if (s.plane p).bank = (b == 1) then s
  else
    s.modPlane p fun x =>
      if o < 0x400 then { x with table := Machine.putBytes x.table (1024 * b + o) (toBytes val.toNat 8) }
      else { x with detours := x.detours.set 0 (128 * b + (o - 0x400) / 8) (val &&& 0x80000000003F3F3F) }

/-- A store to plane `p`. -/
def State.writePlaneReg (s : State) (p off : Nat) (val : Word) : State :=
  match off with
  | 0x00 => s.writePlctl p val
  | 0x10 => s.writePlact p val
  | 0x30 => s.modPlane p fun x => { x with retcnt := val.setWidth 32 }
  | _ => if 0x400 ≤ off then s.writeBank p off val else s

/-- A store to FABCTL (14 R380). -/
def State.writeFabctl (s : State) (val : Word) : State :=
  let rto := bitsOf val 32 16
  let retry := bitsOf val 16 8
  s.modFab fun f =>
    { f with rto := if rto = 0 || 1000 < rto then f.rto else rto
             retry := if retry = 0 then f.retry else retry
             herdm1 := val.setWidth 5 }

/-- A store to pod time, ordered delivery or a pod barrier. -/
def State.writeTimeReg (s : State) (off : Nat) (val : Word) : State :=
  if off < 0x20000 then
    match off with
    | 0x08 => s.modTime fun p => { p with root := val.getLsbD 0, dom := BitVec.ofNat 8 (bitsOf val 8 8) }
    | 0x18 => s.writePtset val
    | _ => s
  else if off < 0x30000 then
    match off - 0x20000 with
    | 0x08 => let n := bitsOf val 0 14; if n = 0 || 10000 < n then s else s.modFab fun f => { f with stall := n }
    | o => if 0x40 ≤ o then s.modPlane ((o - 0x40) / 8) fun x => { x with inmask := val } else s
  else s.writePbar ((off - 0x30000) / 8) val

/-- A store to the management block. -/
def State.writeMgReg (s : State) (off : Nat) (val : Word) : CtlStore :=
  match off with
  | 0x00 => .ok (s.modMg fun m => { m with mben := val.getLsbD 0 })
  | 0x08 => .ok (s.writeCcrel val)
  | 0x10 => .ok { s with cfHalt := s.cfHalt &&& ~~~(val.setWidth 4) }
  | 0x18 => .ofPair (s.writeHostnote val)
  | 0x20 => .ok (s.writeDbgctl val)
  | 0x30 => .ok (s.modMg fun m => { m with podlead := val &&& 0x87FF0FFFFFFFFF80 })
  | 0x38 => .ok (s.modMg fun m => { m with podhead := val.setWidth 32 })
  | 0x40 => .ok (s.modMg fun m => { m with ccpc := m.ccpc.set 0 0 (val &&& 0xFFFFFFFFF8) })
  | 0x48 => .ok (s.modMg fun m => { m with ccpc := m.ccpc.set 0 1 (val &&& 0xFFFFFFFFF8) })
  | 0x50 => .ok (s.modMg fun m => { m with ccpc := m.ccpc.set 0 2 (val &&& 0xFFFFFFFFF8) })
  | 0x58 => .ok (s.modMg fun m => { m with ccpc := m.ccpc.set 0 3 (val &&& 0xFFFFFFFFF8) })
  | _ => .ok s

/-- A store to the measurement registers. -/
def State.writeMrReg (s : State) (off : Nat) (val : Word) : State :=
  if off = 0x230 then s.writeMrxgo val
  else if 0x200 ≤ off then s.modMg fun m => { m with mrx := m.mrx.set 0 ((off - 0x200) / 8) val }
  else s

/-- A store by agent `who` to the register at an aligned control-space address. -/
def State.ctlWrite (s : State) (who pa : Nat) (val : Word) : CtlStore :=
  let off := (pa - ctlBase) % 0x100000
  if (s.ctlRead pa).isNone then .absent
  else
    match (pa - ctlBase) / 0x100000 with
    | 0x0 => .ok (s.writeCoreReg (off / 0x1000) (off % 0x1000) val)
    | 0x1 => .ok (s.writeStackReg (off / 0x100) (off % 0x100) val)
    | 0x2 => .ok (s.writeAlertReg off val)
    | 0x3 => .ok (s.writeLogReg off val)
    | 0x4 => if ownsQueue who (off / 0x100) then .ofPair (match s.writeRegset (off / 0x100) (off % 0x100) val with
      | some t => (t, true)
      | none => (s, false)) else .ok s
    | 0x5 => .ok (s.writeCtxroot (off / 0x10) val)
    | 0x6 => if s.mapWaits who off val then .wait (s.writeMapReg who off val) else .ok (s.writeMapReg who off val)
    | 0x7 => .ok (s.writeLaunchReg off val)
    | 0x8 => .ok (s.writeClockReg off val)
    | 0x9 => .ok (if off < 0x10000 then s.writePlaneReg (off / 0x2000) (off % 0x2000) val else s.writeFabctl val)
    | 0xA => .ok (s.writeTimeReg off val)
    | 0xB => s.writeMgReg off val
    | 0xC => .ok (s.writeMrReg off val)
    | _ => .absent

/-- REGISTER_WRITE: a store to the register at `pa` by an agent whose privilege allows it (00 R6, 16 R413). -/
def execRegisterWrite (who pa : Nat) (val : Word) (s : State) : Outcome State Fault Refusal :=
  (Eff.done (if !reaches who || pa < ctlBase || pa % 8 ≠ 0 || (machineOnly pa && who ≠ 100) then s
    else
      match s.ctlWrite who pa val with
      | .ok t | .wait t => t
      | .absent => s)).out

end Sys2Proof.Machine
end

