-- ==== Sys2Proof/Machine/Load.lean ====
section
/-! DEFINITION. Loads and stores of the agent that acts (07 R163 to R179): physical addresses and control space (01 R36 R37,
16 R413), a task's accesses past its side log, the scratchpad forms, and the BR-slot instructions that reach memory, CALL, RET and
WAIT (05 R118 R130). -/

namespace Sys2Proof.Machine

open Host (Outcome)

/-! ### Physical addresses (01 R36 R37, 16 R413 R415) -/

/-- A load by physical address, with hint `h`. A register takes one aligned word of 8 bytes, and management SRAM is closed to control
cores. A line of another die leaves a copy (07 R178). -/
def State.physLoad (s : State) (h : BitVec 2) (a n : Nat) : Acc (List Byte) :=
  match placeOf a with
  | .control =>
    match s.ctlRead a with
    | some w => if n = 8 then .ok s (toBytes w.toNat 8) else .fail s cLoad a
    | none => .fail s cLoad a
  | .sram => if s.kind == .control then .fail s cPriv a else s.readMem s.issuer .read a n
  | .hbm | .window _ _ | .rom _ | .nowhere =>
    (s.reach s.issuer .read a n).bind fun t p => .ok (t.cacheLoad t.issuer a p.1 p.2 h) (t.physBytes p.1 n)

/-- A store of bytes by physical address, with hint `h`: a home-bypass one drops the die's copy of its line (07 R178). -/
def State.storeHome (s : State) (h : BitVec 2) (a : Nat) (bs : List Byte) : Acc Unit :=
  (s.writeAttr s.issuer a bs).bind fun t attr => .ok (t.cacheStore t.issuer a a attr h) ()

/-- A store by physical address, with hint `h`. A register that only the management controller writes raises PRIVILEGE elsewhere
(00 R6). -/
def State.physStore (s : State) (h : BitVec 2) (a : Nat) (bs : List Byte) : Acc Unit :=
  match placeOf a with
  | .control =>
    if (s.ctlRead a).isNone || bs.length ≠ 8 then .fail s cStore a
    else if s.kind == .control && machineOnly a then .fail s cPriv a
    else
      match s.ctlWrite s.cur a (BitVec.ofNat 64 (ofBytes bs)) with
      | .ok t => .ok t ()
      | .wait t => .wait t none
      | .absent => .fail s cStore a
  | .sram => if s.kind == .control then .fail s cPriv a else s.storeHome h a bs
  | .hbm | .window _ _ | .rom _ | .nowhere => s.storeHome h a bs

/-- A fault of a physical access: an uncorrectable error is deferred, anything else is found at issue (07 R166). -/
def State.physFault (s : State) (code : BitVec 8) (a : Nat) : Eff :=
  if code = cEcc then .done (s.deferMe code a) else .raise s code (BitVec.ofNat 64 a)

/-- An ordinary load of the agent that acts, past its side log (07 R175). -/
def State.loadMine (s : State) (a n : Nat) : Acc (List Byte) :=
  match s.kind with
  | .tile =>
    match s.slogForward a n with
    | .clear =>
      (s.reach s.issuer .read a n).bind fun t p => .ok (t.cacheLoad t.issuer a p.1 p.2 0) (t.physBytes p.1 n)
    | .bytes bs => .ok s bs
    | .blocked => .wait s none
  | .control | .machine => s.physLoad 0 a n

/-! ### Checks and elements (07 R166 R167 R170 R171) -/

/-- What is wrong with a global access of `n` bytes (07 R166); `code` names the range fault. -/
def accessBad (code : BitVec 8) (n : Nat) (a : Word) : Option (BitVec 8 × Word) :=
  if 2 ^ 56 ≤ a.toNat then some (code, a) else if a.toNat % n ≠ 0 then some (cAlign, a) else none

/-- What is wrong with a scratchpad access of `n` bytes. -/
def localBad (n : Nat) (a : Word) : Option (BitVec 8 × Word) :=
  if scratchEnd < a.toNat + n then some (cLocal, a) else if a.toNat % n ≠ 0 then some (cAlign, a) else none

/-- The active elements of a vector access, in order (07 R167 R168). -/
def actives (s : State) (c : Ctl) (t : Ty) : List Nat :=
  (List.range (lanesOf t.width)).filter (laneBit (guardBits s.src c) t.width)

/-- Bytes of an element. -/
def elemBytes (t : Ty) : Nat := t.width / 8

/-- s[A] + d. -/
def dispAddr (s : State) (a : BitVec 6) (disp : BitVec 18) : Word := s.rs a + disp.signExtend 64
/-- Contiguous elements (07 R170). -/
def lineAddr (s : State) (t : Ty) (a : BitVec 6) (disp : BitVec 18) (i : Nat) : Word :=
  dispAddr s a disp + BitVec.ofNat 64 (i * elemBytes t)
/-- Strided elements (07 R171). -/
def strideAddr (s : State) (a b : BitVec 6) (i : Nat) : Word := s.rs a + BitVec.ofNat 64 i * s.rs b
/-- Indexed elements (07 R171). -/
def indexAddr (s : State) (t : Ty) (a b : BitVec 6) (i : Nat) : Word :=
  s.rs a + BitVec.ofNat 64 (elemOf (s.rv b) t.width i * elemBytes t)

/-- The first check that fails, in element order. -/
def firstBad (bad : Word → Option (BitVec 8 × Word)) (addr : Nat → Word) (is : List Nat) : Option (BitVec 8 × Word) :=
  is.findSome? fun i => bad (addr i)

/-- v[D] with the active elements loaded (07 R167). -/
def loadedVec (t : Ty) (m : BitVec 256) (old : VWord) (is : List Nat) (xs : List (List Byte)) : VWord :=
  let got := is.zip (xs.map ofBytes)
  blend t m old fun i => (got.lookup i).getD 0

/-- The bytes that a store takes from element `i` of v[D] (07 R167). -/
def storedBytes (t : Ty) (v : VWord) (i : Nat) : List Byte := toBytes (t6Clean t (elemOf v t.width i)) (elemBytes t)

/-! ### Global loads of a task (07 R173 R175 R178, 12 R328) -/

/-- An element as loaded: its bytes, its page's attribute, its declared latency, and whether it misses its class. -/
structure LoadElem where
  bytes : List Byte
  attr : Nat
  lat : Nat
  missed : Bool
  deriving DecidableEq, Repr

/-- A stamped load of the acting task is served from a pinned block (12 R328). -/
def State.blockHit (s : State) (a : Nat) : Bool := s.stamped && s.myCore.inBlock s.myTask.ctx a s.me.issued

/-- The elements of a load with hint `h` are read in order, which leaves copies of their lines (07 R178); a hint that a page overrides is
counted, once (07 R179). A home-bypass load uses no copy. -/
def State.loadElems (s : State) (h : BitVec 2) (n : Nat) (as : List Nat) : Acc (List LoadElem) :=
  let st := s.stamped
  readEach s as fun t a =>
    (t.reach t.issuer .read a n).bind fun u p =>
      let blk := u.blockHit a && h ≠ 3
      .ok ((u.countOnce u.cur h s.myCore.hintcnt [p.2]).cacheLoad u.issuer a p.1 p.2 h)
        { bytes := u.physBytes p.1 n, attr := p.2, lat := if blk then 14 else if st then u.declared p.1 else 0
          missed := st && t.missesClass a p.1 blk }

/-- What the side log answers for the elements of one load (07 R175). -/
def State.slogElems (s : State) (n : Nat) (as : List Nat) : Forward :=
  let fs := as.map fun a => s.slogForward a n
  if fs.all (· == .clear) then .clear
  else
    match fs.mapM fun f => (match f with
      | .bytes bs => some bs
      | .clear | .blocked => none) with
    | some xs => .bytes xs.flatten
    | none => .blocked

/-- Bytes cut into elements. -/
def chunksOf (n : Nat) (as : List Nat) (bs : List Byte) : List (List Byte) := as.mapIdx fun k _ => (bs.drop (k * n)).take n

/-- A global load of a task: the elements at `as`, whose bytes `val` turns into a register's value. -/
def State.loadTask (s : State) (i : Instr) (h : BitVec 2) (reg : RegId) (n : Nat) (as : List Nat)
    (val : List (List Byte) → RegVal) : Eff :=
  match s.slogElems n as with
  | .bytes bs => .done (s.produce reg (val (chunksOf n as bs)) 0 1)
  | .blocked => .done (s.pendOn i none [reg])
  | .clear =>
    match s.loadElems h n as with
    | .wait t p => .done ((t.uncount t.cur s.myCore.hintcnt).pendOn i p [reg])
    | .fail t code x => .done (t.deferMe code x)
    | .ok t1 es =>
      if es.any (·.missed) then .done (t1.late [reg])
      else
        .done (t1.produceLoad reg (val (es.map (·.bytes)))
          (if t1.stamped then some (t1.me.issued + (es.map (·.lat)).foldl max 0) else none))

/-- A scalar's value from the one element loaded (07 R169). -/
def scalarVal (t : Ty) (xs : List (List Byte)) : RegVal := .w (sext64 t.width (ofBytes (xs.headD [])))

/-- LD's access (07 R169). -/
def State.bodyLd (s : State) (i : Instr) (c : Ctl) (t : Ty) (d a : BitVec 6) (disp : BitVec 18) : Eff :=
  let addr := dispAddr s a disp
  let n := elemBytes t
  match accessBad cLoad n addr with
  | some (code, x) => .raise s code x
  | none =>
    match s.kind with
    | .tile => s.loadTask i c.ch (.s d.toNat) n [addr.toNat] (scalarVal t)
    | .control | .machine =>
      match s.physLoad c.ch addr.toNat n with
      | .ok u bs => .done (u.produceLoad (.s d.toNat) (scalarVal t [bs]) none)
      | .wait u p => .done (u.pendOn i p [.s d.toNat])
      | .fail u code x => u.physFault code x

/-- LD (07 R169). -/
def execLd (c : Ctl) (t : Ty) (d a : BitVec 6) (disp : BitVec 18) (s : State) : Outcome State Fault Refusal :=
  issue s c { srcs := [srcS a 0], dsts := [.s d.toNat] } (s.bodyLd (.ld c t d a disp) c t d a disp)

/-- The access of VLD, VLDS and VLDX in global memory. With no active element it accesses nothing, and its register is marked empty and then
full with its old value (06 R143, 07 R167). Of the latency of one that accesses nothing in stamped mode the spec says nothing: the model's
choice is that the register is full again in the issue cycle (log 34). -/
def State.bodyVload (s : State) (i : Instr) (c : Ctl) (t : Ty) (d : BitVec 6) (addr : Nat → Word) : Eff :=
  let n := elemBytes t
  let is := actives s c t
  match firstBad (accessBad cLoad n) addr is with
  | some (code, x) => .raise s code x
  | none =>
    s.loadTask i c.ch (.v d.toNat) n (is.map fun k => (addr k).toNat) fun xs =>
      .r (loadedVec t (guardBits s.src c) (s.rv d) is xs)

/-! ### Stores of a task (07 R173 R174 R177) -/

/-- A sink of the acting task's launch by a store (12 R334). -/
def State.storeSink (s : State) : State :=
  match s.kind, s.myCore.task with
  | .tile, some t => s.sink t.launch 1
  | .tile, none | .control, _ | .machine, _ => s

/-- A stamped store that misses its class; `t` is the state once it has been performed (12 R328). -/
def State.storeLate (s t : State) (what : LogOp) : Bool :=
  s.stamped && what.addrs.any fun a => match t.physOf (t.issuer.ctx.getD 0) a with
    | some pa => s.missesClass a pa false
    | none => false

/-- A store, or an atomic without a result, of the acting task. With entries in the side log it joins them; where a page is not
present it retires there; 64 entries make it wait. A stamped one does neither (07 R177; log 34). -/
def State.storeTask (s : State) (i : Instr) (h : BitVec 2) (what : LogOp) : Eff :=
  if what.isEmpty then .done s
  else if !s.myCore.slog.isEmpty && !s.stamped then
    if 64 ≤ s.myCore.slog.length then .hold s 0 else .done (s.logAccess what h).storeSink
  else
    match s.performOp s.issuer h what with
    | .ok t _ => .done (if s.storeLate t what then t.storeSink.overrunNext else t.storeSink)
    | .wait t p =>
      let u := s.back t what
      if s.stamped then .done u.overrunNext
      else if p.isSome then .done (u.logAccess what h).storeSink
      else .done (u.pendOn i none [])
    | .fail t code x => .done (t.deferMe code x)

/-- ST's access (07 R169). -/
def State.bodySt (s : State) (i : Instr) (c : Ctl) (t : Ty) (d a : BitVec 6) (disp : BitVec 18) : Eff :=
  let addr := dispAddr s a disp
  let n := elemBytes t
  let bs := toBytes (s.rs d).toNat n
  match accessBad cStore n addr with
  | some (code, x) => .raise s code x
  | none =>
    match s.kind with
    | .tile => s.storeTask i c.ch (.store [(addr.toNat, bs)])
    | .control | .machine =>
      match s.physStore c.ch addr.toNat bs with
      | .ok u _ => .done u
      | .wait u p => .done (u.pendOn i p [])
      | .fail u code x => u.physFault code x

/-- ST (07 R169). -/
def execSt (c : Ctl) (t : Ty) (d a : BitVec 6) (disp : BitVec 18) (s : State) : Outcome State Fault Refusal :=
  issue s c { srcs := [srcS a 0, datS d] } (s.bodySt (.st c t d a disp) c t d a disp)

/-- The access of VST, VSTS and VSTX in global memory. -/
def State.bodyVstore (s : State) (i : Instr) (c : Ctl) (t : Ty) (d : BitVec 6) (addr : Nat → Word) : Eff :=
  let is := actives s c t
  match firstBad (accessBad cStore (elemBytes t)) addr is with
  | some (code, x) => .raise s code x
  | none => s.storeTask i c.ch (.store (is.map fun k => ((addr k).toNat, storedBytes t (s.rv d) k)))

/-! ### The scratchpad (07 R172 R185, 08 R210, 09 R272) -/

/-- A scratchpad access has to wait for a queued matrix operation, or for a record that has borrowed the window. -/
def State.localWaits (s : State) (write : Bool) (n : Nat) (as : List Nat) : Bool :=
  as.any fun a => s.myCore.mqBlocks a n write || (!s.myCore.tq.isEmpty && decide (0x140000 < a + n))

/-- Some byte lies in an unfilled line of a region. -/
def Core.unfilled (k : Core) (a : Nat) : Bool :=
  match k.regionAt a with
  | some (_, r) => !r.filled.contains ((a - r.base) / 128)
  | none => false

/-- An earlier access of the task to one of these scratchpad bytes, by its own window, stands in its side log: the access waits for it
(10 R277 R278). -/
def State.localLogged (s : State) (n : Nat) (as : List Nat) : Bool :=
  !s.myCore.slog.isEmpty && as.any fun a => s.ownLogMeets s.cur (windowAddr s.cur a) n

/-- A scratchpad load of latency `lat` (07 R172); a first touch in stamped mode comes late (log 34). An uncorrectable word is recorded
before the load can fail (11 R307, 12 R335). -/
def State.localLoad (s : State) (i : Instr) (reg : RegId) (lat n : Nat) (as : List Nat) (val : List (List Byte) → RegVal) : Eff :=
  if s.localWaits false n as then .hold s 0
  else if s.localLogged n as then .done (s.pendOn i none [reg])
  else
    match s.fillLines s.cur as with
    | .wait t p => .done (t.pendOn i p [reg])
    | .fail t code x => .done (t.deferMe code x)
    | .ok t _ =>
      if s.stamped && as.any s.myCore.unfilled then .done (t.late [reg])
      else
        match as.find? fun a => (t.myCore.badWord .pad a n).isSome with
        | some a =>
          match t.recordLoss t.issuer (windowAddr t.cur ((t.myCore.badWord .pad a n).getD a)) with
          | .ok u _ => .done (u.deferMe cEcc a)
          | .wait u _ | .fail u _ _ => .done (u.pendOn i none [reg])
        | none => .done (t.produce reg (val (as.map fun a => bytesAt t.myCore.scratch a n)) 0 lat)

/-- Scratchpad stores in element order; lines of regions become dirty (07 R185). -/
def State.putLocal (s : State) (es : List (Nat × List Byte)) : State :=
  es.foldl (fun t e =>
    (t.modCore fun k => (k.putPad e.1 e.2).dirtyLine e.1).noteStore
      (windowAddr t.cur e.1) e.2.length) s

/-- A scratchpad store. A region line that cannot be filled fails the element that touches it: those before it are performed (07 R167). -/
def State.localStore (s : State) (i : Instr) (n : Nat) (es : List (Nat × List Byte)) : Eff :=
  let as := es.map (·.1)
  if as.isEmpty then .done s
  else if s.localWaits true n as then .hold s 0
  else if s.localLogged n as then .done (s.pendOn i none [])
  else
    match s.fillLines s.cur as with
    | .wait t p => .done (t.pendOn i p [])
    | .fail t code x =>
      let before := es.takeWhile fun e => !t.myCore.unfilled e.1
      .done ((if before.isEmpty then t else (t.putLocal before).storeSink).deferMe code x)
    | .ok t _ => .done (t.putLocal es).storeSink

/-- LDL's access. -/
def State.bodyLdl (s : State) (i : Instr) (t : Ty) (d a : BitVec 6) (disp : BitVec 18) : Eff :=
  let addr := dispAddr s a disp
  let n := elemBytes t
  match localBad n addr with
  | some (code, x) => .raise s code x
  | none => s.localLoad i (.s d.toNat) 6 n [addr.toNat] (scalarVal t)

/-- LDL (07 R169). -/
def execLdl (c : Ctl) (t : Ty) (d a : BitVec 6) (disp : BitVec 18) (s : State) : Outcome State Fault Refusal :=
  issue s c { srcs := [srcS a 0], dsts := [.s d.toNat], tileOnly := true } (s.bodyLdl (.ldl c t d a disp) t d a disp)

/-- STL's access. -/
def State.bodyStl (s : State) (i : Instr) (t : Ty) (d a : BitVec 6) (disp : BitVec 18) : Eff :=
  let addr := dispAddr s a disp
  let n := elemBytes t
  match localBad n addr with
  | some (code, x) => .raise s code x
  | none => s.localStore i n [(addr.toNat, toBytes (s.rs d).toNat n)]

/-- STL (07 R169). -/
def execStl (c : Ctl) (t : Ty) (d a : BitVec 6) (disp : BitVec 18) (s : State) : Outcome State Fault Refusal :=
  issue s c { srcs := [srcS a 0, datS d], tileOnly := true } (s.bodyStl (.stl c t d a disp) t d a disp)

/-- The scratchpad access of VLDL, VLDS and VLDX; with no active element its register is marked empty, and full with its old value when its
latency is over (06 R143, 07 R167). -/
def State.bodyVloadl (s : State) (i : Instr) (c : Ctl) (t : Ty) (d : BitVec 6) (lat : Nat) (addr : Nat → Word) : Eff :=
  let n := elemBytes t
  let is := actives s c t
  match firstBad (localBad n) addr is with
  | some (code, x) => .raise s code x
  | none =>
    s.localLoad i (.v d.toNat) lat n (is.map fun k => (addr k).toNat) fun xs =>
      .r (loadedVec t (guardBits s.src c) (s.rv d) is xs)

/-- The scratchpad access of VSTL, VSTS and VSTX. -/
def State.bodyVstorel (s : State) (i : Instr) (c : Ctl) (t : Ty) (d : BitVec 6) (addr : Nat → Word) : Eff :=
  let n := elemBytes t
  let is := actives s c t
  match firstBad (localBad n) addr is with
  | some (code, x) => .raise s code x
  | none => s.localStore i n (is.map fun k => ((addr k).toNat, storedBytes t (s.rv d) k))

/-! ### The vector forms (07 R170 R171) -/

/-- The form of a vector load. -/
def vloadForm (srcs : List Src) (d : BitVec 6) : Form := { srcs := srcs, dsts := [.v d.toNat], guard := .lanes, tileOnly := true }
/-- The form of a vector store. -/
def vstoreForm (srcs : List Src) (d : BitVec 6) : Form := { srcs := srcs ++ [datV d], guard := .lanes, tileOnly := true }

/-- VLD (07 R170). -/
def execVld (c : Ctl) (t : Ty) (d a : BitVec 6) (disp : BitVec 18) (s : State) : Outcome State Fault Refusal :=
  issue s c (vloadForm [srcS a 0] d) (s.bodyVload (.vld c t d a disp) c t d (lineAddr s t a disp))
/-- VST (07 R170). -/
def execVst (c : Ctl) (t : Ty) (d a : BitVec 6) (disp : BitVec 18) (s : State) : Outcome State Fault Refusal :=
  issue s c (vstoreForm [srcS a 0] d) (s.bodyVstore (.vst c t d a disp) c t d (lineAddr s t a disp))
/-- VLDL (07 R170). -/
def execVldl (c : Ctl) (t : Ty) (d a : BitVec 6) (disp : BitVec 18) (s : State) : Outcome State Fault Refusal :=
  issue s c (vloadForm [srcS a 0] d) (s.bodyVloadl (.vldl c t d a disp) c t d 6 (lineAddr s t a disp))
/-- VSTL (07 R170). -/
def execVstl (c : Ctl) (t : Ty) (d a : BitVec 6) (disp : BitVec 18) (s : State) : Outcome State Fault Refusal :=
  issue s c (vstoreForm [srcS a 0] d) (s.bodyVstorel (.vstl c t d a disp) c t d (lineAddr s t a disp))

/-- A strided or indexed load, of the scratchpad where `l`. -/
def State.bodyGather (s : State) (i : Instr) (c : Ctl) (t : Ty) (l : Bool) (d : BitVec 6) (addr : Nat → Word) : Eff :=
  if l then s.bodyVloadl i c t d 8 addr else s.bodyVload i c t d addr
/-- A strided or indexed store. -/
def State.bodyScatter (s : State) (i : Instr) (c : Ctl) (t : Ty) (l : Bool) (d : BitVec 6) (addr : Nat → Word) : Eff :=
  if l then s.bodyVstorel i c t d addr else s.bodyVstore i c t d addr

/-- VLDS (07 R171). -/
def execVlds (c : Ctl) (t : Ty) (l : Bool) (d a b : BitVec 6) (s : State) : Outcome State Fault Refusal :=
  issue s c (vloadForm [srcS a 0, srcS b 1] d) (s.bodyGather (.vlds c t l d a b) c t l d (strideAddr s a b))
/-- VSTS (07 R171). -/
def execVsts (c : Ctl) (t : Ty) (l : Bool) (d a b : BitVec 6) (s : State) : Outcome State Fault Refusal :=
  issue s c (vstoreForm [srcS a 0, srcS b 1] d) (s.bodyScatter (.vsts c t l d a b) c t l d (strideAddr s a b))
/-- VLDX (07 R171). -/
def execVldx (c : Ctl) (t : Ty) (l : Bool) (d a b : BitVec 6) (s : State) : Outcome State Fault Refusal :=
  issue s c (vloadForm [srcS a 0, srcV b 1] d) (s.bodyGather (.vldx c t l d a b) c t l d (indexAddr s t a b))
/-- VSTX (07 R171). -/
def execVstx (c : Ctl) (t : Ty) (l : Bool) (d a b : BitVec 6) (s : State) : Outcome State Fault Refusal :=
  issue s c (vstoreForm [srcS a 0, srcV b 1] d) (s.bodyScatter (.vstx c t l d a b) c t l d (indexAddr s t a b))

/-! ### CALL, RET and WAIT (05 R118 R130) -/

/-- CALL's push once its oldest entry has gone to the spill area. -/
def State.pushSpilled (s : State) (target : Word) : State := s.dropOldest.pushLink target

/-- The spill store goes on as a store that waits, with its address and its word in registers of its own. -/
def State.pendSpill (s : State) (slot word : Word) (page : Option (Nat × Nat)) : State :=
  s.modMe fun a =>
    { a with pend := some { instr := .st {} .i64 2 1 0, regs := { s := SMap.set 0 (SMap.set 0 [] 1 slot) 2 word }
                            bundle := a.bundle, page := page } }

/-- The spill store of a full link stack (05 R118): it never holds the CALL. On a page that is not present it retires into the side log;
one that waits for anything else, a free entry of a full log among it, goes on as an access that waits (07 R173 R174; log 43). In stamped
mode it is late as any store is (07 R177, 12 R328). -/
def State.spillCall (s : State) (target slot oldest : Word) : Eff :=
  let bs := toBytes oldest.toNat 8
  match s.kind with
  | .tile =>
    if 2 ^ 56 ≤ slot.toNat then .raise s cStore slot
    else
      let what : LogOp := .store [(slot.toNat, bs)]
      if !s.stamped && 64 ≤ s.myCore.slog.length then .done ((s.pendSpill slot oldest none).pushSpilled target)
      else if !s.stamped && !s.myCore.slog.isEmpty then .done ((s.logAccess what 0).storeSink.pushSpilled target)
      else
        match s.performOp s.issuer 0 what with
        | .ok t _ => .done ((if s.storeLate t what then t.storeSink.overrunNext else t.storeSink).pushSpilled target)
        | .wait t p =>
          if s.stamped then .done (t.overrunNext.pushSpilled target)
          else if p.isSome then .done ((t.logAccess what 0).storeSink.pushSpilled target)
          else .done ((t.pendSpill slot oldest none).pushSpilled target)
        | .fail t code x => .done ((t.deferMe code x).pushSpilled target)
  | .control | .machine =>
    match s.physStore 0 slot.toNat bs with
    | .ok t _ => .done (t.pushSpilled target)
    | .wait t p => .done ((t.pendSpill slot oldest p).pushSpilled target)
    | .fail t code x => .raise t code (BitVec.ofNat 64 x)

/-- CALL (05 R118). -/
def execCall (c : Ctl) (a : BitVec 6) (s : State) : Outcome State Fault Refusal :=
  let me := s.me
  let target := s.src.rb a.toNat
  issue s c xferForm
    (if !me.loops.isEmpty then .raise s cBundle 0
    else if me.links.length < 16 then .done (s.pushLink target)
    else if me.lsbase = 0 then .raise s cLinkOver 0
    else s.spillCall target (me.lsbase + (me.spill.setWidth 64 <<< 3)) (me.links.getLastD 0))

/-- RET (05 R118). A refill holds its bundle until the load returns, and its failure is the bundle's fault. -/
def execRet (c : Ctl) (s : State) : Outcome State Fault Refusal :=
  let me := s.me
  let slot := me.lsbase + ((me.spill.setWidth 64 - 1) <<< 3)
  issue s c xferForm
    (if !me.loops.isEmpty then .raise s cBundle 0
    else
      match me.links with
      | l :: r => .done ((s.modMe fun a => { a with links := r }).transfer l)
      | [] =>
        if me.spill = 0 then .raise s cLinkUnder 0
        else if s.stamped then .raise s cStamp (BitVec.ofNat 64 (s.frameAt me.issued))
        else
          match s.loadMine slot.toNat 8 with
          | .ok t bs =>
            .done ((t.modMe fun a => { a with spill := a.spill - 1 }).transfer (BitVec.ofNat 64 (ofBytes bs)))
          | .wait t p => .hold (t.holdOn p cLoad me.bundle) 0
          | .fail t _ _ => .raise t cLoad slot)

/-- A bundle held at a wait on memory: it watches the line, in stamped mode for the declared latency of a load there (05 R130,
07 R195, 12 R319 R328). -/
def State.holdWatch (s : State) (addr : Nat) : Eff :=
  let stays (t : State) (p : Option Nat) : Eff :=
    match p with
    | some pa => t.holdWait (some (pa / 128)) none (if t.blockHit addr then 14 else t.declared pa)
    | none => t.holdWait none none 0
  match s.issuer.ctx with
  | none => stays s (some addr)
  | some ctx => stays s (s.physOf ctx addr)

/-- A stamped observation of the word at `addr` that cannot meet its class (12 R328). -/
def State.watchLate (s : State) (addr : Nat) : Bool :=
  s.stamped && match s.issuer.ctx.bind fun c => s.physOf c addr with
    | some pa => s.missesClass addr pa (s.blockHit addr)
    | none => false

/-- The observation of WAIT or WAITMEM, held there whatever the load waits for (12 R319), in stamped mode until the latency of a load has passed
(05 R130): `ok` says whether the word lets the bundle issue, and `go` issues it. -/
def State.observe (s : State) (addr : Nat) (ok : Word → Bool) (go : State → Word → Eff) : Eff :=
  match s.loadMine addr 8 with
  | .ok t bs =>
    let w : Word := BitVec.ofNat 64 (ofBytes bs)
    if s.watchLate addr then .hold t 0 else if ok w then go t w else t.holdWatch addr
  | .wait t p => (t.holdOn p cLoad t.me.bundle).holdWatch addr
  | .fail t code x => .raise t code (BitVec.ofNat 64 x)

/-- WAIT (05 R130). -/
def execWait (c : Ctl) (a b : BitVec 6) (s : State) : Outcome State Fault Refusal :=
  let addr := s.rs a
  issue s c { srcs := [srcS a 0, srcS b 1], br := true }
    (if 2 ^ 56 ≤ addr.toNat then .raise s cLoad addr
    else if addr.toNat % 16 ≠ 0 then .raise s cAlign addr
    else s.observe addr.toNat (fun w => w.msb == (s.rs b).getLsbD 0) fun t _ => .done t)

end Sys2Proof.Machine
end

