-- ==== Sys2Proof/Machine/Atomic.lean ====
section
/-! DEFINITION. Atomics, ARED, barrier objects, WAITMEM and FENCE (07 R189 to R196). -/

namespace Sys2Proof.Machine

open Host (Outcome)

/-! ### Atomics (07 R189 to R192) -/

/-- An atomic of the agent that acts; a register of control space takes none (log 42). -/
def State.atomicMine (s : State) (op n a : Nat) (b c : Word) : Acc Nat :=
  match s.kind, placeOf a with
  | .control, .sram => .fail s cPriv a
  | .tile, _ | .control, _ | .machine, _ => s.atomicAt s.issuer op n a b c

/-- The declared latency of an access by address, and whether it misses its class; `t` is the state once it has been performed
(12 R328). -/
def State.classOf (s t : State) (a : Nat) : Nat × Bool :=
  match t.issuer.ctx.bind fun c => t.physOf c a with
  | some pa => (t.declared pa, s.missesClass a pa false)
  | none => (0, true)

/-- The side log of the acting task names one of the bytes (07 R175). -/
def State.slogMeets (s : State) (a n : Nat) : Bool :=
  match s.slogForward a n with
  | .clear => false
  | .bytes _ | .blocked => true

/-- An atomic that returns its old value into registers; `vals` turns it into theirs (07 R189 R190 R194). -/
def State.atomicValue (s : State) (i : Instr) (op n a : Nat) (b c : Word) (dsts : List RegId) (vals : Nat → List RegVal) : Eff :=
  if s.kind == .tile && s.slogMeets a n then .done (s.pendOn i none dsts)
  else
    match s.atomicMine op n a b c with
    | .ok t old =>
      let due := if t.stamped then some (t.me.issued + (s.classOf t a).1) else none
      let t1 := t.storeSink
      if t.stamped && (s.classOf t a).2 then .done (t1.late dsts)
      else .done ((dsts.zip (vals old)).foldl (fun u p => u.produceLoad p.1 p.2 due) t1)
    | .wait t p => .done (t.pendOn i p dsts)
    | .fail t code x => if s.kind == .tile then .done (t.deferMe code x) else t.physFault code x

/-- An atomic of the MS slot, checked (07 R166 R192): without a destination it is a task's non-returning one. -/
def State.bodyAtomic (s : State) (i : Instr) (op n : Nat) (a b c : Word) (dsts : List RegId) (vals : Nat → List RegVal) : Eff :=
  match accessBad cStore n a with
  | some (code, x) => .raise s code x
  | none =>
    if dsts.isEmpty && s.kind == .tile then s.storeTask i 0 (.atomic op n [(a.toNat, b, c)])
    else s.atomicValue i op n a.toNat b c dsts vals

/-- The destination of an atomic: none where D is 0 (07 R164). -/
def destOf (d : BitVec 6) : List RegId := if d = 0 then [] else [.s d.toNat]

/-- The body of a scalar atomic of type `t`. -/
def State.bodyAmo (s : State) (i : Instr) (t : Ty) (op : Nat) (d a b : BitVec 6) (c : Word) : Eff :=
  s.bodyAtomic i op (elemBytes t) (s.rs a) (s.rs b) c (destOf d) fun old => [.w (sext64 t.width old)]

/-- The form of a scalar atomic. -/
def amoForm (d a b : BitVec 6) : Form := { srcs := [srcS a 0, srcS b 1], dsts := [.s d.toNat] }

/-- AADD (07 R189). -/
def execAadd (c : Ctl) (t : Ty) (d a b : BitVec 6) (s : State) : Outcome State Fault Refusal :=
  issue s c (amoForm d a b) (s.bodyAmo (.aadd c t d a b) t 0 d a b 0)
/-- AMIN (07 R189). -/
def execAmin (c : Ctl) (t : Ty) (d a b : BitVec 6) (s : State) : Outcome State Fault Refusal :=
  issue s c (amoForm d a b) (s.bodyAmo (.amin c t d a b) t 1 d a b 0)
/-- AMAX (07 R189). -/
def execAmax (c : Ctl) (t : Ty) (d a b : BitVec 6) (s : State) : Outcome State Fault Refusal :=
  issue s c (amoForm d a b) (s.bodyAmo (.amax c t d a b) t 2 d a b 0)
/-- AAND (07 R189). -/
def execAand (c : Ctl) (t : Ty) (d a b : BitVec 6) (s : State) : Outcome State Fault Refusal :=
  issue s c (amoForm d a b) (s.bodyAmo (.aand c t d a b) t 3 d a b 0)
/-- AOR (07 R189). -/
def execAor (c : Ctl) (t : Ty) (d a b : BitVec 6) (s : State) : Outcome State Fault Refusal :=
  issue s c (amoForm d a b) (s.bodyAmo (.aor c t d a b) t 4 d a b 0)
/-- AXOR (07 R189). -/
def execAxor (c : Ctl) (t : Ty) (d a b : BitVec 6) (s : State) : Outcome State Fault Refusal :=
  issue s c (amoForm d a b) (s.bodyAmo (.axor c t d a b) t 5 d a b 0)
/-- AXCHG (07 R189). -/
def execAxchg (c : Ctl) (t : Ty) (d a b : BitVec 6) (s : State) : Outcome State Fault Refusal :=
  issue s c (amoForm d a b) (s.bodyAmo (.axchg c t d a b) t aXchg d a b 0)
/-- ACAS (07 R189). -/
def execAcas (c : Ctl) (t : Ty) (d a b x : BitVec 6) (s : State) : Outcome State Fault Refusal :=
  issue s c { srcs := [srcS a 0, srcS b 1, srcS x 2], dsts := [.s d.toNat] } (s.bodyAmo (.acas c t d a b x) t aCas d a b (s.rs x))

/-- The odd register of a pair. -/
def pairReg (r : BitVec 6) : BitVec 6 := r ||| 1

/-- AADDW's access. -/
def State.bodyAaddw (s : State) (i : Instr) (d a b : BitVec 6) : Eff :=
  s.bodyAtomic i 0 16 (s.rs a) (s.rs b) (s.rs (pairReg b)) (if d = 0 then [] else [.s d.toNat, .s (pairReg d).toNat])
    fun old => [.w (BitVec.ofNat 64 old), .w (BitVec.ofNat 64 (old / 2 ^ 64))]

/-- AADDW (07 R190). -/
def execAaddw (c : Ctl) (d a b : BitVec 6) (s : State) : Outcome State Fault Refusal :=
  issue s c
    { srcs := [srcS a 0, srcS b 1, srcS (pairReg b) 1]
      dsts := if d = 0 then [] else [.s d.toNat, .s (pairReg d).toNat] }
    (s.bodyAaddw (.aaddw c d a b) d a b)

/-- ARED's operation as one of the memory unit's (07 R191). -/
def aredOp (t : Ty) (op : BitVec 6) : Nat := aRed + (if t == .f32 then (if op = 1 then aFmin else aFmax) else op.toNat)

/-- ARED's accesses. -/
def State.bodyAred (s : State) (i : Instr) (c : Ctl) (t : Ty) (a b op : BitVec 6) : Eff :=
  let n := elemBytes t
  let is := actives s c t
  let addr := lineAddr s t a 0
  match firstBad (accessBad cStore n) addr is with
  | some (code, x) => .raise s code x
  | none =>
    s.storeTask i 0 (.atomic (aredOp t op) n
      (is.map fun k => ((addr k).toNat, BitVec.ofNat 64 (elemOf (s.rv b) t.width k), 0)))

/-- ARED (07 R191). -/
def execAred (c : Ctl) (t : Ty) (a b op : BitVec 6) (s : State) : Outcome State Fault Refusal :=
  issue s c { srcs := [srcS a 0, srcV b 1], guard := .lanes, tileOnly := true } (s.bodyAred (.ared c t a b op) c t a b op)

/-! ### Barrier objects (07 R193 R194) -/

/-- BARINIT's store of 16 bytes. -/
def State.bodyBarinit (s : State) (i : Instr) (a b : BitVec 6) : Eff :=
  let addr := s.rs a
  let bs := toBytes 0 8 ++ toBytes (bitsOf (s.rs b) 0 63) 8
  match accessBad cStore 16 addr with
  | some (code, x) => .raise s code x
  | none =>
    match s.kind with
    | .tile => s.storeTask i 0 (.store [(addr.toNat, bs)])
    | .control | .machine =>
      match s.physStore 0 addr.toNat bs with
      | .ok u _ => .done u
      | .wait u p => .done (u.pendOn i p [])
      | .fail u code x => u.physFault code x

/-- BARINIT (07 R193). -/
def execBarinit (c : Ctl) (a b : BitVec 6) (s : State) : Outcome State Fault Refusal :=
  issue s c { srcs := [srcS a 0, srcS b 1] } (s.bodyBarinit (.barinit c a b) a b)

/-- The amount of a BARARR: s[B][62:0], or 1 where B is 0. -/
def arriveAmount (s : State) (b : BitVec 6) : Word := if b = 0 then 1 else BitVec.ofNat 64 (bitsOf (s.rs b) 0 63)

/-- BARARR's arrival. -/
def State.bodyBararr (s : State) (i : Instr) (d a b : BitVec 6) : Eff :=
  s.bodyAtomic i aArrive 16 (s.rs a) (arriveAmount s b) 0 (destOf d) fun old => [.w (BitVec.ofNat 64 old)]

/-- BARARR (07 R194). -/
def execBararr (c : Ctl) (d a b : BitVec 6) (s : State) : Outcome State Fault Refusal :=
  issue s c { srcs := [srcS a 0] ++ (if b = 0 then [] else [srcS b 1]), dsts := [.s d.toNat] }
    (s.bodyBararr (.bararr c d a b) d a b)

/-! ### WAITMEM and FENCE (07 R195 R196) -/

/-- The declared latency of a load of the word at `addr` (12 R328). -/
def State.watchLatency (s : State) (addr : Nat) : Option Nat :=
  if !s.stamped then none
  else if s.blockHit addr then some 14
  else (s.issuer.ctx.bind fun c => s.physOf c addr).map s.declared

/-- WAITMEM (07 R195); in stamped mode its result comes as a load's (12 R328). -/
def execWaitmem (c : Ctl) (k : Cond) (d a b x : BitVec 6) (s : State) : Outcome State Fault Refusal :=
  let addr := s.rs a
  let mask : Word := if x = 0 then BitVec.allOnes 64 else s.rs x
  issue s c { srcs := [srcS a 0, srcS b 1] ++ (if x = 0 then [] else [srcS x 2]), dsts := [.s d.toNat] }
    (match accessBad cLoad 8 addr with
    | some (code, y) => .raise s code y
    | none =>
      s.observe addr.toNat (fun w => icond k (w &&& mask) (s.rs b)) fun t w =>
        match s.watchLatency addr.toNat with
        | some lat => .done (t.produceLoad (.s d.toNat) (.w w) (some (t.me.issued + lat)))
        | none => .done (t.produce (.s d.toNat) (.w w) 0 1))

/-- The command comes from the acting task (07 R196). -/
def State.isMine (s : State) (o : Origin) : Bool := byTask o.by_ && o.task == s.myTask.uid

/-- Kind `mem` of FENCE: loads have returned, and stores and atomics have been performed. The fill of an LDBLK is none of them (07 R196;
log 79). -/
def State.memQuiet (s : State) : Bool := s.me.pend.isNone && s.me.flight.all (!·.load) && (s.kind != .tile || s.myCore.slog.isEmpty)
/-- Kind `reg`: the task's write-backs have been performed, those of a core it has left too. -/
def State.regQuiet (s : State) : Bool := s.kind != .tile || s.cores.all fun p => p.2.wb.all (·.task != s.myTask.uid)
/-- Kind `eng`: the task's commands to TQ, CQ and GQ, on whatever core it pushed them, and the matrix queue have completed. -/
def State.engQuiet (s : State) : Bool :=
  let gone (l : List EngineCmd) : Bool := l.all fun e => !s.isMine e.origin
  let quiet (k : Core) : Bool := gone k.cq && gone k.gq && k.tq.all fun id => !(s.tile id).any fun e => s.isMine e.origin
  s.kind != .tile || (s.cores.all (fun p => quiet p.2) && s.myCore.mq.isEmpty)

/-- What a completed FENCE means for fetch on a control core or the management controller: lines of code it has fetched go with the
next transfer that issues (03 R85). -/
def State.fenced (s : State) : State :=
  match s.kind with
  | .tile => s
  | .control | .machine =>
    s.modMe fun a =>
      if a.delay.isNone then { a with stale := a.lines.map (·.1) } else { a with staleNext := a.lines.map (·.1) }

/-- FENCE; no kind selects all three (07 R196). -/
def execFence (c : Ctl) (n : BitVec 3) (s : State) : Outcome State Fault Refusal :=
  let on (i : Nat) : Bool := n == 0 || n.getLsbD i
  issue s c {}
    (if (on 0 && !s.memQuiet) || (on 1 && !s.regQuiet) || (on 2 && !s.engQuiet) then .hold s 0 else .done s.fenced)

end Sys2Proof.Machine
end

