-- ==== Sys2Proof/Machine/Push.lean ====
section
/-! DEFINITION. Commands that an agent pushes (07 R197 R198 R438), fabric atomics and FREL (07 R200 R202), and the accesses of
instructions that have issued and wait, as they are tried again (07 R173). -/

namespace Sys2Proof.Machine

open Host (Outcome)

/-! ### PUSH and PUSHC (07 R197 R198) -/

/-- The record in eight scalar registers from s[A], word 0 first. -/
def State.recAt (s : State) (a : Nat) : Rec :=
  BitVec.ofNat 512 (packElems 64 ((List.range 8).map fun k => (s.src.rs (a + k)).toNat))

/-- The registers a command is read from, governed by the block-or-trap bit of A (07 R197). -/
def recSrcs (a : BitVec 6) (n : Nat) : List Src := (List.range n).map fun k => { reg := .s (a.toNat + k), fe := some 0 }

/-- The agent that acts, as a pusher of commands. -/
def State.pusher (s : State) : Pusher :=
  match s.kind with
  | .tile => .task s.cur
  | .control | .machine => .control (dieOf s.cur)

/-- A command offered to queue `q`: whether it was taken (07 R197 R198); none where a matrix command has to wait (09 R273). -/
def State.pushTo (s : State) (q : Nat) (r : Rec) (hint : BitVec 2) : Option (State × Bool) :=
  let p := s.pusher
  let die := dieOf s.cur
  let give (t : TileQueue) : State × Bool :=
    let (o, ctx, phys) := s.tileOrigin p t
    s.offerRecord t r { o with hint := hint } ctx phys
  let engine (g : Bool) : State × Bool :=
    let (o, ctx) := s.originOf p s.cur
    s.offerEngine s.cur g r o ctx hint
  match q with
  | 0 => some (give (.tq s.cur))
  | 1 => some (engine false)
  | 2 => some (engine true)
  | 3 =>
    if (mcmdOp r).any s.myCore.borrowed then none
    else some (s.offerMatrix s.cur r (s.originOf p s.cur).1 s.me.issued)
  | 4 =>
    let (f, o, ctx, dctx) := s.fabricPath p
    some (s.offerFabric f r { o with hint := hint } ctx dctx)
  | 5 =>
    let (o, ctx, phys) := s.tileOrigin p .xq
    some (s.offerLq r { o with hint := hint } ctx phys die)
  | 6 => some (give (.dq die))
  | 7 => some (give .xq)
  | _ => some (give .pq)

/-- p[D] after a push: ones where the queue was full (07 R198). -/
def Eff.pushed (d : BitVec 6) (x : State × Bool) : Eff := .done (x.1.produce (.p d.toNat) (.q (Pred.all (!x.2))) 0 1)

/-- PUSH (07 R197 R198 R438). -/
def execPush (c : Ctl) (d a q : BitVec 6) (s : State) : Outcome State Fault Refusal :=
  issue s c { srcs := recSrcs a 8, dsts := [.p d.toNat] }
    (match s.kind, decide (q.toNat < 4) with
    | .machine, _ => .raise s cOpcode 0
    | .control, true => .raise s cField 0
    | .tile, _ | .control, false =>
      match s.pushTo q.toNat (s.recAt a.toNat) c.ch with
      | some x => .pushed d x
      | none => .hold s 0)

/-- PUSHC (07 R197, 08 R230). -/
def execPushc (c : Ctl) (d a : BitVec 6) (s : State) : Outcome State Fault Refusal :=
  let copy := s.recAt a.toNat
  let cmd := s.recAt (a.toNat + 8)
  let (o, ctx) := s.originOf s.pusher s.cur
  issue s c { srcs := recSrcs a 16, dsts := [.p d.toNat], tileOnly := true }
    (if (mcmdOp cmd).any s.myCore.borrowed then .hold s 0
    else .pushed d (s.offerPair s.cur copy cmd o ctx c.ch s.me.issued))

/-! ### FATOM and FREL (07 R200 R202) -/

/-- The context of a FATOM: the task's, or a control core's QCTX.CTX (11 R292; log 44). -/
def State.fatomCtx (s : State) : Nat :=
  match s.kind with
  | .tile => s.issuer.ctx.getD 0
  | .control | .machine => (s.regsets.get {} (dieOf s.cur)).ctx.toNat

/-- A FATOM as the chip takes it: one that would pass the window of 15 R404 waits in the fabric logic. -/
def State.takeFatom (s : State) (op : Nat) (wide : Bool) (d : BitVec 6) (addr b cmp : Word) (dst : Nat) : State :=
  let s1 := s.takeReq
    { seq := 0, origin := s.myOrigin, dctx := s.fatomCtx, dst := dst, len := 32, waits := decide (4096 ≤ s.fab.window dst s.fab.seq)
      fatom := some { addr := addr, b := b, cmp := cmp, ctx := s.fatomCtx, wide := wide, op := op, core := s.cur, d := d.toNat } }
  s1.modMe fun a => { a with regs := a.regs.mark (.s d.toNat) }

/-- FATOM (07 R200). A chip outside the pod is a deferred fault, which leaves s[D] as it was (log 43); in debug halt the fabric logic
takes no request (15 R399). -/
def execFatom (c : Ctl) (op : BitVec 3) (t : Ty) (d a b x y : BitVec 6) (s : State) : Outcome State Fault Refusal :=
  let addr := s.rs a
  let chip := (s.rs x).toNat
  issue s c
    { srcs := [srcS a 0, srcS b 1, srcS x 2] ++ (if y = 0 then [] else [srcS y 3]), dsts := [.s d.toNat] }
    (match s.kind, accessBad cStore (elemBytes t) addr with
    | .machine, _ => .raise s cOpcode 0
    | .tile, some (code, z) | .control, some (code, z) => .raise s code z
    | .tile, none | .control, none =>
      if s.podChips ≤ chip then .done (s.deferMe cPeer addr.toNat)
      else if s.dbgHalt then .hold s 0
      else .done (s.takeFatom op.toNat (t == .i64) d addr (s.rs b) (if y = 0 then 0 else s.rs y) chip))

/-- Fabric requests of the acting agent that are not yet acknowledged (07 R202). -/
def State.myOutstanding (s : State) : Nat :=
  match s.kind with
  | .tile => (s.myCore.task.map (·.outstanding)).getD 0
  | .control | .machine => (s.die (dieOf s.cur)).outstanding

/-- FREL (07 R202). -/
def execFrel (c : Ctl) (s : State) : Outcome State Fault Refusal :=
  issue s c {}
    (match s.kind with
    | .machine => .raise s cOpcode 0
    | .tile | .control => if s.myOutstanding = 0 then .done s else .hold s 0)

/-! ### Accesses that wait (07 R173) -/

/-- The access of an instruction that has issued and waits, tried again; no other instruction waits so. -/
def State.pendBody (s : State) (i : Instr) : Eff :=
  match i with
  | .ld c t d a disp => s.bodyLd i c t d a disp
  | .st c t d a disp => s.bodySt i c t d a disp
  | .ldl _ t d a disp => s.bodyLdl i t d a disp
  | .stl _ t d a disp => s.bodyStl i t d a disp
  | .vld c t d a disp => s.bodyVload i c t d (lineAddr s t a disp)
  | .vst c t d a disp => s.bodyVstore i c t d (lineAddr s t a disp)
  | .vldl c t d a disp => s.bodyVloadl i c t d 6 (lineAddr s t a disp)
  | .vstl c t d a disp => s.bodyVstorel i c t d (lineAddr s t a disp)
  | .vlds c t l d a b => s.bodyGather i c t l d (strideAddr s a b)
  | .vsts c t l d a b => s.bodyScatter i c t l d (strideAddr s a b)
  | .vldx c t l d a b => s.bodyGather i c t l d (indexAddr s t a b)
  | .vstx c t l d a b => s.bodyScatter i c t l d (indexAddr s t a b)
  | .aadd _ t d a b => s.bodyAmo i t 0 d a b 0
  | .amin _ t d a b => s.bodyAmo i t 1 d a b 0
  | .amax _ t d a b => s.bodyAmo i t 2 d a b 0
  | .aand _ t d a b => s.bodyAmo i t 3 d a b 0
  | .aor _ t d a b => s.bodyAmo i t 4 d a b 0
  | .axor _ t d a b => s.bodyAmo i t 5 d a b 0
  | .axchg _ t d a b => s.bodyAmo i t aXchg d a b 0
  | .acas _ t d a b x => s.bodyAmo i t aCas d a b (s.rs x)
  | .aaddw _ d a b => s.bodyAaddw i d a b
  | .ared c t a b op => s.bodyAred i c t a b op
  | .barinit _ a b => s.bodyBarinit i a b
  | .bararr _ d a b => s.bodyBararr i d a b
  | .osld _ n a b => s.mxBody i (s.opOsld n a b)
  | .maccst _ acc b x => s.mxBody i (s.opMaccst acc b x)
  | .maccld _ t acc b x => s.mxBody i (s.opMaccld t acc b x)
  | _ => .done s

end Sys2Proof.Machine
end

