-- ==== Sys2Proof/Machine/Dispatch.lean ====
section
/-! DEFINITION. One arm per constructor of Instr, each a direct call of its meaning. -/

namespace Sys2Proof.Machine

open Host (Outcome)

/-- The meaning of an instruction, command or event. -/
def exec (i : Instr) (s : State) : Host.Outcome State Fault Refusal :=
  match i with
  | .bprep c d imm => Sys2Proof.Machine.execBprep c d imm s
  | .bpreps c d a => Sys2Proof.Machine.execBpreps c d a s
  | .br c a => Sys2Proof.Machine.execBr c a s
  | .call c a => Sys2Proof.Machine.execCall c a s
  | .ret c => Sys2Proof.Machine.execRet c s
  | .loopset c a n => Sys2Proof.Machine.execLoopset c a n s
  | .loopbrk c n => Sys2Proof.Machine.execLoopbrk c n s
  | .endTask c => Sys2Proof.Machine.execEndTask c s
  | .yield c => Sys2Proof.Machine.execYield c s
  | .wait c a b => Sys2Proof.Machine.execWait c a b s
  | .waitt c a => Sys2Proof.Machine.execWaitt c a s
  | .trap c n => Sys2Proof.Machine.execTrap c n s
  | .eret c => Sys2Proof.Machine.execEret c s
  | .brk c n => Sys2Proof.Machine.execBrk c n s
  | .mfsr c d n => Sys2Proof.Machine.execMfsr c d n s
  | .mtsr c n a => Sys2Proof.Machine.execMtsr c n a s
  | .sleep c => Sys2Proof.Machine.execSleep c s
  | .evpop c d => Sys2Proof.Machine.execEvpop c d s
  | .add c d a b => Sys2Proof.Machine.execAdd c d a b s
  | .addi c d a imm => Sys2Proof.Machine.execAddi c d a imm s
  | .sub c d a b => Sys2Proof.Machine.execSub c d a b s
  | .and c d a b => Sys2Proof.Machine.execAnd c d a b s
  | .andi c d a imm => Sys2Proof.Machine.execAndi c d a imm s
  | .or c d a b => Sys2Proof.Machine.execOr c d a b s
  | .ori c d a imm => Sys2Proof.Machine.execOri c d a imm s
  | .xor c d a b => Sys2Proof.Machine.execXor c d a b s
  | .xori c d a imm => Sys2Proof.Machine.execXori c d a imm s
  | .shl c d a b => Sys2Proof.Machine.execShl c d a b s
  | .shli c d a imm => Sys2Proof.Machine.execShli c d a imm s
  | .shr c d a b => Sys2Proof.Machine.execShr c d a b s
  | .shri c d a imm => Sys2Proof.Machine.execShri c d a imm s
  | .sar c d a b => Sys2Proof.Machine.execSar c d a b s
  | .sari c d a imm => Sys2Proof.Machine.execSari c d a imm s
  | .rotl c d a b => Sys2Proof.Machine.execRotl c d a b s
  | .min c d a b => Sys2Proof.Machine.execMin c d a b s
  | .max c d a b => Sys2Proof.Machine.execMax c d a b s
  | .minu c d a b => Sys2Proof.Machine.execMinu c d a b s
  | .maxu c d a b => Sys2Proof.Machine.execMaxu c d a b s
  | .adds c d a b => Sys2Proof.Machine.execAdds c d a b s
  | .subs c d a b => Sys2Proof.Machine.execSubs c d a b s
  | .abs c d a => Sys2Proof.Machine.execAbs c d a s
  | .clz c d a => Sys2Proof.Machine.execClz c d a s
  | .ctz c d a => Sys2Proof.Machine.execCtz c d a s
  | .popc c d a => Sys2Proof.Machine.execPopc c d a s
  | .brev c d a => Sys2Proof.Machine.execBrev c d a s
  | .mov c d a => Sys2Proof.Machine.execMov c d a s
  | .movi c d imm => Sys2Proof.Machine.execMovi c d imm s
  | .movhi c d imm => Sys2Proof.Machine.execMovhi c d imm s
  | .sext c d a w => Sys2Proof.Machine.execSext c d a w s
  | .zext c d a w => Sys2Proof.Machine.execZext c d a w s
  | .bfx c d a pos w => Sys2Proof.Machine.execBfx c d a pos w s
  | .bfi c d a pos w => Sys2Proof.Machine.execBfi c d a pos w s
  | .lea c d a b sh => Sys2Proof.Machine.execLea c d a b sh s
  | .sel c d x a b => Sys2Proof.Machine.execSel c d x a b s
  | .cmp c k d a b => Sys2Proof.Machine.execCmp c k d a b s
  | .cmpi c k d a imm => Sys2Proof.Machine.execCmpi c k d a imm s
  | .pand c d a b => Sys2Proof.Machine.execPand c d a b s
  | .por c d a b => Sys2Proof.Machine.execPor c d a b s
  | .pxor c d a b => Sys2Proof.Machine.execPxor c d a b s
  | .pnot c d a => Sys2Proof.Machine.execPnot c d a s
  | .pmov c d a => Sys2Proof.Machine.execPmov c d a s
  | .fadd c m d a b => Sys2Proof.Machine.execFadd c m d a b s
  | .fsub c m d a b => Sys2Proof.Machine.execFsub c m d a b s
  | .fmul c m d a b => Sys2Proof.Machine.execFmul c m d a b s
  | .ffma c m d a b x => Sys2Proof.Machine.execFfma c m d a b x s
  | .fmin c d a b => Sys2Proof.Machine.execFmin c d a b s
  | .fmax c d a b => Sys2Proof.Machine.execFmax c d a b s
  | .fcmp c k d a b => Sys2Proof.Machine.execFcmp c k d a b s
  | .fcvti c t m d a => Sys2Proof.Machine.execFcvti c t m d a s
  | .icvtf c t m d a => Sys2Proof.Machine.execIcvtf c t m d a s
  | .mul c d a b => Sys2Proof.Machine.execMul c d a b s
  | .muli c d a imm => Sys2Proof.Machine.execMuli c d a imm s
  | .mulh c d a b => Sys2Proof.Machine.execMulh c d a b s
  | .mulhu c d a b => Sys2Proof.Machine.execMulhu c d a b s
  | .div c d a b => Sys2Proof.Machine.execDiv c d a b s
  | .divu c d a b => Sys2Proof.Machine.execDivu c d a b s
  | .rem c d a b => Sys2Proof.Machine.execRem c d a b s
  | .remu c d a b => Sys2Proof.Machine.execRemu c d a b s
  | .vadd c t m d a b => Sys2Proof.Machine.execVadd c t m d a b s
  | .vsub c t m d a b => Sys2Proof.Machine.execVsub c t m d a b s
  | .vmul c t m d a b => Sys2Proof.Machine.execVmul c t m d a b s
  | .vfma c t m d a b x => Sys2Proof.Machine.execVfma c t m d a b x s
  | .vmin c t d a b => Sys2Proof.Machine.execVmin c t d a b s
  | .vmax c t d a b => Sys2Proof.Machine.execVmax c t d a b s
  | .vabs c t d a => Sys2Proof.Machine.execVabs c t d a s
  | .vneg c t d a => Sys2Proof.Machine.execVneg c t d a s
  | .vand c t d a b => Sys2Proof.Machine.execVand c t d a b s
  | .vor c t d a b => Sys2Proof.Machine.execVor c t d a b s
  | .vxor c t d a b => Sys2Proof.Machine.execVxor c t d a b s
  | .vnot c t d a => Sys2Proof.Machine.execVnot c t d a s
  | .vshl c t d a b => Sys2Proof.Machine.execVshl c t d a b s
  | .vshr c t d a b => Sys2Proof.Machine.execVshr c t d a b s
  | .vsar c t d a b => Sys2Proof.Machine.execVsar c t d a b s
  | .vadds c t d a b => Sys2Proof.Machine.execVadds c t d a b s
  | .vsubs c t d a b => Sys2Proof.Machine.execVsubs c t d a b s
  | .vmulh c t d a b => Sys2Proof.Machine.execVmulh c t d a b s
  | .vcmp c t k d a b => Sys2Proof.Machine.execVcmp c t k d a b s
  | .vsel c t d x a b => Sys2Proof.Machine.execVsel c t d x a b s
  | .vmov c t d a => Sys2Proof.Machine.execVmov c t d a s
  | .vbcast c t d a => Sys2Proof.Machine.execVbcast c t d a s
  | .vext c t d a b => Sys2Proof.Machine.execVext c t d a b s
  | .vins c t d a b => Sys2Proof.Machine.execVins c t d a b s
  | .vperm c t d a b => Sys2Proof.Machine.execVperm c t d a b s
  | .vrot c t d a b => Sys2Proof.Machine.execVrot c t d a b s
  | .vslide c t d a b x => Sys2Proof.Machine.execVslide c t d a b x s
  | .vzip c t d a b h => Sys2Proof.Machine.execVzip c t d a b h s
  | .vunzip c t d a b h => Sys2Proof.Machine.execVunzip c t d a b h s
  | .vredadd c t d a => Sys2Proof.Machine.execVredadd c t d a s
  | .vredmin c t d a => Sys2Proof.Machine.execVredmin c t d a s
  | .vredmax c t d a => Sys2Proof.Machine.execVredmax c t d a s
  | .vscan c t d a => Sys2Proof.Machine.execVscan c t d a s
  | .vany c t d a => Sys2Proof.Machine.execVany c t d a s
  | .vall c t d a => Sys2Proof.Machine.execVall c t d a s
  | .vpopc c t d a => Sys2Proof.Machine.execVpopc c t d a s
  | .vrcp c t m d a => Sys2Proof.Machine.execVrcp c t m d a s
  | .vrsq c t m d a => Sys2Proof.Machine.execVrsq c t m d a s
  | .vsqrt c t m d a => Sys2Proof.Machine.execVsqrt c t m d a s
  | .vexp2 c t m d a => Sys2Proof.Machine.execVexp2 c t m d a s
  | .vlog2 c t m d a => Sys2Proof.Machine.execVlog2 c t m d a s
  | .vtanh c t m d a => Sys2Proof.Machine.execVtanh c t m d a s
  | .vsigm c t m d a => Sys2Proof.Machine.execVsigm c t m d a s
  | .vdiv c t m d a b => Sys2Proof.Machine.execVdiv c t m d a b s
  | .vcvt c t m d a fs j => Sys2Proof.Machine.execVcvt c t m d a fs j s
  | .vmaxexp c t a => Sys2Proof.Machine.execVmaxexp c t a s
  | .vqcvt c t d a fq j => Sys2Proof.Machine.execVqcvt c t d a fq j s
  | .vdq c t m d a fq j => Sys2Proof.Machine.execVdq c t m d a fq j s
  | .vfxcvt c t m d a n j => Sys2Proof.Machine.execVfxcvt c t m d a n j s
  | .vflcvt c t m d a n j => Sys2Proof.Machine.execVflcvt c t m d a n j s
  | .viota c t d => Sys2Proof.Machine.execViota c t d s
  | .vclz c t d a => Sys2Proof.Machine.execVclz c t d a s
  | .osclaim c d n any => Sys2Proof.Machine.execOsclaim c d n any s
  | .osrel c n => Sys2Proof.Machine.execOsrel c n s
  | .osld c n a b => Sys2Proof.Machine.execOsld c n a b s
  | .mwld c t n b => Sys2Proof.Machine.execMwld c t n b s
  | .mma c t acc n b h => Sys2Proof.Machine.execMma c t acc n b h s
  | .mmaz c t acc n b h => Sys2Proof.Machine.execMmaz c t acc n b h s
  | .maccz c t acc => Sys2Proof.Machine.execMaccz c t acc s
  | .maccrd c d acc b => Sys2Proof.Machine.execMaccrd c d acc b s
  | .maccwr c acc a b => Sys2Proof.Machine.execMaccwr c acc a b s
  | .maccst c acc b x => Sys2Proof.Machine.execMaccst c acc b x s
  | .maccld c t acc b x => Sys2Proof.Machine.execMaccld c t acc b x s
  | .mwait c acc => Sys2Proof.Machine.execMwait c acc s
  | .mfence c => Sys2Proof.Machine.execMfence c s
  | .ld c t d a disp => Sys2Proof.Machine.execLd c t d a disp s
  | .st c t d a disp => Sys2Proof.Machine.execSt c t d a disp s
  | .ldl c t d a disp => Sys2Proof.Machine.execLdl c t d a disp s
  | .stl c t d a disp => Sys2Proof.Machine.execStl c t d a disp s
  | .vld c t d a disp => Sys2Proof.Machine.execVld c t d a disp s
  | .vst c t d a disp => Sys2Proof.Machine.execVst c t d a disp s
  | .vldl c t d a disp => Sys2Proof.Machine.execVldl c t d a disp s
  | .vstl c t d a disp => Sys2Proof.Machine.execVstl c t d a disp s
  | .vlds c t l d a b => Sys2Proof.Machine.execVlds c t l d a b s
  | .vsts c t l d a b => Sys2Proof.Machine.execVsts c t l d a b s
  | .vldx c t l d a b => Sys2Proof.Machine.execVldx c t l d a b s
  | .vstx c t l d a b => Sys2Proof.Machine.execVstx c t l d a b s
  | .ldblk c d a n ev => Sys2Proof.Machine.execLdblk c d a n ev s
  | .blkrel c a => Sys2Proof.Machine.execBlkrel c a s
  | .regmap c n a b x => Sys2Proof.Machine.execRegmap c n a b x s
  | .regflush c n b => Sys2Proof.Machine.execRegflush c n b s
  | .regdrop c n b => Sys2Proof.Machine.execRegdrop c n b s
  | .aadd c t d a b => Sys2Proof.Machine.execAadd c t d a b s
  | .amin c t d a b => Sys2Proof.Machine.execAmin c t d a b s
  | .amax c t d a b => Sys2Proof.Machine.execAmax c t d a b s
  | .aand c t d a b => Sys2Proof.Machine.execAand c t d a b s
  | .aor c t d a b => Sys2Proof.Machine.execAor c t d a b s
  | .axor c t d a b => Sys2Proof.Machine.execAxor c t d a b s
  | .axchg c t d a b => Sys2Proof.Machine.execAxchg c t d a b s
  | .acas c t d a b x => Sys2Proof.Machine.execAcas c t d a b x s
  | .aaddw c d a b => Sys2Proof.Machine.execAaddw c d a b s
  | .ared c t a b op => Sys2Proof.Machine.execAred c t a b op s
  | .fence c n => Sys2Proof.Machine.execFence c n s
  | .push c d a q => Sys2Proof.Machine.execPush c d a q s
  | .pushc c d a => Sys2Proof.Machine.execPushc c d a s
  | .barinit c a b => Sys2Proof.Machine.execBarinit c a b s
  | .bararr c d a b => Sys2Proof.Machine.execBararr c d a b s
  | .waitmem c k d a b x => Sys2Proof.Machine.execWaitmem c k d a b x s
  | .fatom c op t d a b x y => Sys2Proof.Machine.execFatom c op t d a b x y s
  | .frel c => Sys2Proof.Machine.execFrel c s
  | .emptyPosition => Sys2Proof.Machine.execEmptyPosition s
  | .producerWriteback agent idx => Sys2Proof.Machine.execProducerWriteback agent idx s
  | .deferredFault agent => Sys2Proof.Machine.execDeferredFault agent s
  | .interruptEntry => Sys2Proof.Machine.execInterruptEntry s
  | .sideLogReplay core => Sys2Proof.Machine.execSideLogReplay core s
  | .regionWriteback core => Sys2Proof.Machine.execRegionWriteback core s
  | .blockFilled core idx => Sys2Proof.Machine.execBlockFilled core idx s
  | .matrixEntryStart core idx => Sys2Proof.Machine.execMatrixEntryStart core idx s
  | .matrixEntryComplete core idx => Sys2Proof.Machine.execMatrixEntryComplete core idx s
  | .copyCommand p core rec => Sys2Proof.Machine.execCopyCommand p core rec s
  | .gatherCommand p core rec => Sys2Proof.Machine.execGatherCommand p core rec s
  | .engineCommandStart core gather count => Sys2Proof.Machine.execEngineCommandStart core gather count s
  | .engineCommandComplete core gather => Sys2Proof.Machine.execEngineCommandComplete core gather s
  | .mcmdOsrel p core rec => Sys2Proof.Machine.execMcmdOsrel p core rec s
  | .mcmdOsld p core rec => Sys2Proof.Machine.execMcmdOsld p core rec s
  | .mcmdMwld p core rec => Sys2Proof.Machine.execMcmdMwld p core rec s
  | .mcmdMma p core rec => Sys2Proof.Machine.execMcmdMma p core rec s
  | .mcmdMmaz p core rec => Sys2Proof.Machine.execMcmdMmaz p core rec s
  | .mcmdMaccz p core rec => Sys2Proof.Machine.execMcmdMaccz p core rec s
  | .mcmdMaccst p core rec => Sys2Proof.Machine.execMcmdMaccst p core rec s
  | .mcmdMaccld p core rec => Sys2Proof.Machine.execMcmdMaccld p core rec s
  | .fabricPut p rec => Sys2Proof.Machine.execFabricPut p rec s
  | .fabricSend p rec => Sys2Proof.Machine.execFabricSend p rec s
  | .tmatmul p lvl rec => Sys2Proof.Machine.execTmatmul p lvl rec s
  | .tewise p lvl rec => Sys2Proof.Machine.execTewise p lvl rec s
  | .treduce p lvl rec => Sys2Proof.Machine.execTreduce p lvl rec s
  | .ttopk p lvl rec => Sys2Proof.Machine.execTtopk p lvl rec s
  | .tcopy p lvl rec => Sys2Proof.Machine.execTcopy p lvl rec s
  | .tgather p lvl rec => Sys2Proof.Machine.execTgather p lvl rec s
  | .tcast p lvl rec => Sys2Proof.Machine.execTcast p lvl rec s
  | .ttrans p lvl rec => Sys2Proof.Machine.execTtrans p lvl rec s
  | .tfill p lvl rec => Sys2Proof.Machine.execTfill p lvl rec s
  | .tlaunch p lvl rec => Sys2Proof.Machine.execTlaunch p lvl rec s
  | .tbind p lvl rec => Sys2Proof.Machine.execTbind p lvl rec s
  | .tbarrier p lvl rec => Sys2Proof.Machine.execTbarrier p lvl rec s
  | .tallred p lvl rec => Sys2Proof.Machine.execTallred p lvl rec s
  | .tileComplete id => Sys2Proof.Machine.execTileComplete id s
  | .tbarrierComplete id => Sys2Proof.Machine.execTbarrierComplete id s
  | .podRecordDelivery origin ctx stamp rec => Sys2Proof.Machine.execPodRecordDelivery origin ctx stamp rec s
  | .launchActivate num => Sys2Proof.Machine.execLaunchActivate num s
  | .stampedGatherDone num => Sys2Proof.Machine.execStampedGatherDone num s
  | .stampedStrandNext core => Sys2Proof.Machine.execStampedStrandNext core s
  | .taskDispatch die core => Sys2Proof.Machine.execTaskDispatch die core s
  | .taskComplete core => Sys2Proof.Machine.execTaskComplete core s
  | .taskReport num die => Sys2Proof.Machine.execTaskReport num die s
  | .taskStop core => Sys2Proof.Machine.execTaskStop core s
  | .taskResume die core => Sys2Proof.Machine.execTaskResume die core s
  | .waitResumable num ord => Sys2Proof.Machine.execWaitResumable num ord s
  | .watchdogExpiry num => Sys2Proof.Machine.execWatchdogExpiry num s
  | .eventRecordPost die => Sys2Proof.Machine.execEventRecordPost die s
  | .governorWindow core => Sys2Proof.Machine.execGovernorWindow core s
  | .hbmTempRead stack reading => Sys2Proof.Machine.execHbmTempRead stack reading s
  | .hbmRefresh stack pc => Sys2Proof.Machine.execHbmRefresh stack pc s
  | .coreSensorSample core lo hi => Sys2Proof.Machine.execCoreSensorSample core lo hi s
  | .thermalTrip core => Sys2Proof.Machine.execThermalTrip core s
  | .clockChangeProceed => Sys2Proof.Machine.execClockChangeProceed s
  | .clockRailsTrimmed => Sys2Proof.Machine.execClockRailsTrimmed s
  | .clockSwitchDone => Sys2Proof.Machine.execClockSwitchDone s
  | .coreGated core => Sys2Proof.Machine.execCoreGated core s
  | .coreOnline core => Sys2Proof.Machine.execCoreOnline core s
  | .gatedPortWake core => Sys2Proof.Machine.execGatedPortWake core s
  | .l2winFilled die w => Sys2Proof.Machine.execL2winFilled die w s
  | .shootdownComplete set => Sys2Proof.Machine.execShootdownComplete set s
  | .migrationRound die => Sys2Proof.Machine.execMigrationRound die s
  | .migrationSwitch die => Sys2Proof.Machine.execMigrationSwitch die s
  | .slotHandover slot => Sys2Proof.Machine.execSlotHandover slot s
  | .slotHeaderReceive plane lane slot hdr data => Sys2Proof.Machine.execSlotHeaderReceive plane lane slot hdr data s
  | .ackReceive src acks => Sys2Proof.Machine.execAckReceive src acks s
  | .forwardHoldExpiry idx => Sys2Proof.Machine.execForwardHoldExpiry idx s
  | .resendTimeout seq => Sys2Proof.Machine.execResendTimeout seq s
  | .completionRecordExpiry idx => Sys2Proof.Machine.execCompletionRecordExpiry idx s
  | .bankSwitch plane => Sys2Proof.Machine.execBankSwitch plane s
  | .laneLock plane => Sys2Proof.Machine.execLaneLock plane s
  | .lineFailure plane line => Sys2Proof.Machine.execLineFailure plane line s
  | .lineRestore plane line => Sys2Proof.Machine.execLineRestore plane line s
  | .retuneStart plane lane => Sys2Proof.Machine.execRetuneStart plane lane s
  | .retuneEnd plane lane => Sys2Proof.Machine.execRetuneEnd plane lane s
  | .orderedDelivery => Sys2Proof.Machine.execOrderedDelivery s
  | .orderedIncompleteDiscard idx => Sys2Proof.Machine.execOrderedIncompleteDiscard idx s
  | .watermarkStall plane port => Sys2Proof.Machine.execWatermarkStall plane port s
  | .fatomSendRelease idx => Sys2Proof.Machine.execFatomSendRelease idx s
  | .fatomRequestArrive src seq low rec => Sys2Proof.Machine.execFatomRequestArrive src seq low rec s
  | .fatomReplyArrive src seq status old => Sys2Proof.Machine.execFatomReplyArrive src seq status old s
  | .podBarrierComplete ch => Sys2Proof.Machine.execPodBarrierComplete ch s
  | .ptpMessage sync t2 t3 t4 => Sys2Proof.Machine.execPtpMessage sync t2 t3 t4 s
  | .timeParentLost => Sys2Proof.Machine.execTimeParentLost s
  | .mailboxRead hdr => Sys2Proof.Machine.execMailboxRead hdr s
  | .mailboxWrite hdr data => Sys2Proof.Machine.execMailboxWrite hdr data s
  | .linkDown => Sys2Proof.Machine.execLinkDown s
  | .hostnote who val => Sys2Proof.Machine.execHostnote who val s
  | .setEndpointId eid => Sys2Proof.Machine.execSetEndpointId eid s
  | .pldmSensorRead sensor => Sys2Proof.Machine.execPldmSensorRead sensor s
  | .pldmEffecterReset state => Sys2Proof.Machine.execPldmEffecterReset state s
  | .pldmEffecterDebug state => Sys2Proof.Machine.execPldmEffecterDebug state s
  | .pldmFirmwareUpdate data => Sys2Proof.Machine.execPldmFirmwareUpdate data s
  | .getMeasurements nonce => Sys2Proof.Machine.execGetMeasurements nonce s
  | .spdmChallenge nonce => Sys2Proof.Machine.execSpdmChallenge nonce s
  | .spdmGetCertificate => Sys2Proof.Machine.execSpdmGetCertificate s
  | .sidebandMessageDrop kind => Sys2Proof.Machine.execSidebandMessageDrop kind s
  | .targetReset => Sys2Proof.Machine.execTargetReset s
  | .powerOnReset => Sys2Proof.Machine.execPowerOnReset s
  | .bootImage image => Sys2Proof.Machine.execBootImage image s
  | .go who set val => Sys2Proof.Machine.execGo who set val s
  | .pgreplyRetry who die val => Sys2Proof.Machine.execPgreplyRetry who die val s
  | .pgreplyRefuse who die val => Sys2Proof.Machine.execPgreplyRefuse who die val s
  | .tlblockLock who die val => Sys2Proof.Machine.execTlblockLock who die val s
  | .tlblockUnlock who die val => Sys2Proof.Machine.execTlblockUnlock who die val s
  | .sdgo who set => Sys2Proof.Machine.execSdgo who set s
  | .miggo who die val => Sys2Proof.Machine.execMiggo who die val s
  | .lcmdRelease who val => Sys2Proof.Machine.execLcmdRelease who val s
  | .lcmdAbort who val => Sys2Proof.Machine.execLcmdAbort who val s
  | .lcmdContinue who val => Sys2Proof.Machine.execLcmdContinue who val s
  | .evict who val => Sys2Proof.Machine.execEvict who val s
  | .mxcadWrite who core val => Sys2Proof.Machine.execMxcadWrite who core val s
  | .clkctlWrite who val => Sys2Proof.Machine.execClkctlWrite who val s
  | .stateGateSet who core => Sys2Proof.Machine.execStateGateSet who core s
  | .stateGateClear who core => Sys2Proof.Machine.execStateGateClear who core s
  | .l2winWrite who die w val => Sys2Proof.Machine.execL2winWrite who die w val s
  | .plact who plane val => Sys2Proof.Machine.execPlact who plane val s
  | .plctlLightOn who plane val => Sys2Proof.Machine.execPlctlLightOn who plane val s
  | .plctlLightOff who plane val => Sys2Proof.Machine.execPlctlLightOff who plane val s
  | .ptset who val => Sys2Proof.Machine.execPtset who val s
  | .pbarArrive who ch val => Sys2Proof.Machine.execPbarArrive who ch val s
  | .ccrelGo who val => Sys2Proof.Machine.execCcrelGo who val s
  | .ccrelRst who val => Sys2Proof.Machine.execCcrelRst who val s
  | .dbgctlEnWrite who val => Sys2Proof.Machine.execDbgctlEnWrite who val s
  | .dbgctlHaltWrite who val => Sys2Proof.Machine.execDbgctlHaltWrite who val s
  | .elpush who => Sys2Proof.Machine.execElpush who s
  | .mrxgo who val => Sys2Proof.Machine.execMrxgo who val s
  | .registerWrite who addr val => Sys2Proof.Machine.execRegisterWrite who addr val s
  | .linkUp => Sys2Proof.Machine.execLinkUp s
  | .hbmPatrol stack fixed lost => Sys2Proof.Machine.execHbmPatrol stack fixed lost s
  | .breakResumption agent => Sys2Proof.Machine.execBreakResumption agent s

end Sys2Proof.Machine
end

