-- ==== Sys2Proof/Machine/Issue.lean ====
section
/-! DEFINITION. How an agent takes its turn: fetching and checking a bundle (03 R81 R84), its issue cycle (03 R63 R64), issuing its
slots (01 R13 R15, 03 R82), and what comes before the next position: deferred faults, interrupts, stops and waiting accesses. -/

namespace Sys2Proof.Machine

open Host (Outcome)

/-! ### Time (03 R63 R64, log 2 and 3) -/

/-- The first cycle in which the acting agent's next position may issue; a stamped one issues exactly then (03 R64). -/
def State.issueCycle (s : State) : Nat := if s.stamped then s.me.earliest else max s.me.earliest s.cycle

/-- What is due by cycle `c` lands: results, the scale latch, and what the matrix queue has done. -/
def State.settleAt (s : State) (c : Nat) : State :=
  let t := s.landDue s.cur c
  match s.kind with
  | .tile => ((t.modCore (·.qSettle c)).settleCore s.cur c).blocksDue s.cur c
  | .control | .machine => t

/-- Results of no fixed latency land while their agent waits (log 3). -/
def State.landLoose (s : State) : State :=
  let a := s.me
  (a.flight.filter (·.due.isNone)).foldl (fun t p => t.land s.cur p s.cycle)
    (s.setMe { a with flight := a.flight.filter (·.due.isSome) })

/-- A cycle passes without a position of the acting agent. -/
def State.idle (s : State) (c : Nat) : State :=
  { (s.settleAt c).landLoose with cycle := max s.cycle (c + 1), latched := none, res := .held 0 }

/-! ### Reading a bundle (03 R59 R60 R81) -/

/-- Words of code from `a`. -/
def State.fetchWords (s : State) (a : Word) (n : Nat) : Acc (List Word) :=
  match n with
  | 0 => .ok s []
  | k + 1 => (s.fetchWord a).bind fun t w => (t.fetchWords (a + 8) k).map (w :: ·)

/-- The words of a bundle read in slot order by an agent of kind `k`: the first that is refused decides (03 R81 check 4). -/
def decodeSlots (k : Kind) (slots : List Slot) (ws : List Word) : Except BadWord (List Instr) :=
  match slots, ws with
  | sl :: r, w :: q =>
    match decodeFor k sl w with
    | .error e => .error e
    | .ok i =>
      match decodeSlots k r q with
      | .error e => .error e
      | .ok l => .ok (i :: l)
  | _, _ => .ok []

/-- The registers that the word of a slot names as destinations (01 R13); s0, p0 and a D of 0 name none. -/
def destsOf (sl : Slot) (f : Fields) : List RegId :=
  let d := f.d.toNat
  let o := f.opc.toNat
  let reg : List RegId :=
    match sl with
    | .br => if o = 0x0F || o = 0x12 then [.s d] else []
    | .sa | .sb => if (0x25 ≤ o && o ≤ 0x2B) || o = 0x32 then [.p d] else [.s d]
    | .vx => if o = 0x13 || o = 0x22 || o = 0x23 then [.p d] else if o = 0x17 || o = 0x24 then [.s d] else if o = 0x2E then [] else [.v d]
    | .mx => if o = 0x01 then [.s d] else if o = 0x08 then [.v d] else []
    | .ms =>
      if o = 0x01 || o = 0x03 || o = 0x0D || (0x12 ≤ o && o ≤ 0x19) || (0x20 ≤ o && o ≤ 0x22) then [.s d]
      else if o = 0x05 || o = 0x07 || o = 0x09 || o = 0x0B then [.v d]
      else if o = 0x1A then (if d = 0 then [] else [.s d, .s (d + 1)])
      else if o = 0x1D || o = 0x1E then [.p d]
      else []
  reg.filter (!·.wired)

/-- The destinations of an instruction. -/
def instrDests (i : Instr) : List RegId :=
  match i.slot, i.fields with
  | some sl, some f => destsOf sl f
  | _, _ => []

/-- No register twice. -/
def distinct (l : List RegId) : Bool :=
  match l with
  | [] => true
  | x :: r => !r.contains x && distinct r

/-- The fault of a word that is refused. -/
def badCode (e : BadWord) : BitVec 8 :=
  match e with
  | .opcode => cOpcode
  | .field => cField

/-- What reading the bundle at the pc comes to: its header and instructions, a wait for its bytes, or the fault of checks 1 to 5
(03 R81). -/
inductive Fetched where
  | ok (s : State) (h : Header) (is : List Instr)
  | wait (s : State) (page : Option (Nat × Nat))
  | bad (s : State) (code : BitVec 8) (src addr : Word)

/-- Checks 1 to 5. A fetch fault at the target of a transfer names the transfer as its source (05 R119). -/
def State.readBundle (s0 : State) : Fetched :=
  let s := s0.modMe fun a => { a with inUse := [] }
  let a := s.me
  let src := a.xfer.getD a.pc
  match s.fetchWord a.pc with
  | .wait t p => .wait t p
  | .fail t code x => .bad t code src (BitVec.ofNat 64 x)
  | .ok t hw =>
    match decodeHeader hw with
    | none => .bad t cBundle a.pc 0
    | some h =>
      match t.fetchWords (a.pc + 8) h.slots.length with
      | .wait u p => .wait u p
      | .fail u code x => .bad u code src (BitVec.ofNat 64 x)
      | .ok u ws =>
        match decodeSlots u.kind h.slots ws with
        | .error e => .bad u (badCode e) a.pc 0
        | .ok is => if distinct (is.flatMap instrDests) then .ok u h is else .bad u cBundle a.pc 0

/-! ### Issuing a bundle (01 R13 R15, 03 R64 R82) -/

/-- The issue cycle of a stamped bundle, or the cycle in which it overruns: its stamp cannot be met, or its bytes have come too late
(03 R64, 12 R327; log 46). -/
def State.stampedAt (s : State) (h : Header) : Except Nat Nat :=
  let now := s.me.earliest
  let e := s.me.waitFrom.getD now
  match s.myCore.task, s.me.tried with
  | some t, none =>
    let c := if h.stv then t.origin + (e - t.origin) / t.frameLen * t.frameLen + h.stamp.toNat else e
    if h.stv && (t.frameLen ≤ h.stamp.toNat || c < e) then .error e else if c < now then .error c else .ok c
  | _, _ => .ok now

/-- The bundle at the pc is the one that issues, in cycle `c`: what it does happens at the pod time of that cycle. -/
def State.begin (s : State) (h : Header) (c : Nat) : State :=
  { s.modMe fun a =>
      { a with bundle := a.pc, pc := a.pc + BitVec.ofNat 64 h.size, empties := h.run.toNat + (if h.slots.isEmpty then 1 else 0)
               issued := c, xfer := none, pageHold := none, waitFrom := none }
    with cycle := max s.cycle c }

/-- The position could not issue in its cycle (03 R64): the value of frame is the fault address. -/
def State.overrunAt (s : State) (c : Nat) : State :=
  let a := s.me
  let pc := if a.empties = 0 then a.pc else a.bundle
  { s.faultAt s.cur cStamp pc pc (BitVec.ofNat 64 (s.frameAt c)) with cycle := max s.cycle c, latched := none, res := .faulted }

/-- A bundle that is held: nothing of it has happened; `s` is the state before it, `t` what trying it in cycle `c` has left. A stamped
one may be tried again for `grace` cycles from its own (03 R64, 05 R130). -/
def State.heldBundle (s t : State) (c grace : Nat) : State :=
  let a := s.me
  let first := a.tried.getD c
  let u := t.modMe fun x =>
    { x with pc := a.pc, bundle := a.bundle, empties := a.empties, issued := a.issued, xfer := a.xfer, tried := some first
             earliest := if s.stamped then c + 1 else a.earliest }
  if s.stamped && first + grace ≤ c then u.overrunAt first else u.idle c

/-- Every slot of a bundle tried on one state; an outcome that is no next state decides. -/
def tryAll (s : State) (is : List Instr) : Except (Outcome State Fault Refusal) (List State) :=
  match is with
  | [] => .ok []
  | i :: r =>
    match exec i s with
    | .next t =>
      match tryAll s r with
      | .ok l => .ok (t :: l)
      | .error o => .error o
    | .fault x => .error (.fault x)
    | .refused x => .error (.refused x)

/-- A slot's outcome holds the bundle. -/
def Res.isHeld (r : Res) : Bool :=
  match r with
  | .held _ => true
  | .issued | .faulted => false

/-- An instruction whose bundle's CALL still has its spill store to perform: it follows it whole (10 R277). -/
def State.putOff (s : State) (i : Instr) : State :=
  let p : PendAccess := { instr := i, regs := s.src, bundle := s.me.bundle, whole := true }
  s.modMe fun a => { a with behind := a.behind ++ [p], regs := (instrDests i).foldl Regs.mark a.regs }

/-- The instruction may access memory, or push what does: it stands in the MS slot, or is a matrix operation on the scratchpad. -/
def mayAccess (i : Instr) : Bool :=
  match i with
  | .osld _ _ _ _ | .maccst _ _ _ _ | .maccld _ _ _ _ _ => true
  | _ => i.slot == some .ms

/-- The slots take effect in slot order, each reading its sources as they stood at issue (01 R13). A slot that finds, after those
before it, that it has to wait goes on as an access that waits. -/
def runSlots (s : State) (is : List Instr) : Outcome State Fault Refusal :=
  match is with
  | [] => .next { s with res := .issued }
  | i :: r =>
    match (if s.me.pend.isSome && mayAccess i then .next { s.putOff i with res := .issued } else exec i s) with
    | .next t =>
      match t.res with
      | .issued => runSlots t r
      | .held _ => runSlots (t.pendOn i none (instrDests i)) r
      | .faulted => .next t
    | .fault x => .fault x
    | .refused x => .refused x

/-- CALL. -/
def isCall (i : Instr) : Bool :=
  match i with
  | .call _ _ => true
  | _ => false

/-- The slots of a bundle, from the state in which it issues: it is held if any slot holds it, else the lowest slot's fault is its
fault, else every slot takes effect (01 R15, 03 R82, 05 R139). Two slots that would both wait for an access hold it (log 47), but a
CALL's spill store never does (05 R118). -/
def runBundle (s : State) (is : List Instr) : Outcome State Fault Refusal :=
  match is with
  | [i] => exec i s
  | _ =>
    match tryAll s is with
    | .error o => o
    | .ok ts =>
      match ts.find? (·.res.isHeld) with
      | some t => .next t
      | none =>
        match ts.find? (·.res == .faulted) with
        | some t => .next t
        | none =>
          match (if is.any isCall then [] else ts.filter (·.me.pend.isSome)) with
          | t :: _ :: _ => .next { (s.undo t).holdOn ((t.me.pend.bind (·.page))) cLoad s.me.bundle with res := .held 0 }
          | _ => runSlots { s with latched := some { regs := s.me.regs, qscale := s.qNow } } is

/-- The largest INS.SCH of a bundle (03 R63). -/
def stallOf (is : List Instr) : Nat :=
  (is.map fun i => match i.fields with
    | some f => f.ctl.sch.toNat
    | none => 0).foldl max 0

/-- A position has issued in cycle `c`. -/
def State.endBundle (s : State) (had : Bool) (stall c : Nat) : State :=
  { (s.modMe fun a => a.endPosition had stall).postBreak with cycle := max s.cycle c, latched := none, res := .issued }

/-- What a bundle's slots came to, from `s`, the state before it (03 R82). -/
def afterSlots (s : State) (had : Bool) (stall c : Nat) (o : Outcome State Fault Refusal) : Outcome State Fault Refusal :=
  match o with
  | .next t =>
    match t.res with
    | .issued => .next (t.endBundle had stall c)
    | .held g => .next (s.heldBundle t c g)
    | .faulted => .next { t with cycle := max s.cycle c, latched := none }
  | .fault x => .fault x
  | .refused x => .refused x

/-- An empty position in cycle `c` (03 R61). -/
def emptyAt (s : State) (c : Nat) : Outcome State Fault Refusal :=
  match exec .emptyPosition (s.modMe fun a => { a with issued := c }) with
  | .next t => .next { t with cycle := max s.cycle c }
  | .fault x => .fault x
  | .refused x => .refused x

/-- A bundle that has been read issues in cycle `c`. -/
def issueBundle (s : State) (h : Header) (is : List Instr) (c : Nat) : Outcome State Fault Refusal :=
  let t := (s.settleAt c).begin h c
  if is.isEmpty then emptyAt t c else afterSlots (s.settleAt c) s.me.delay.isSome (stallOf is) c (runBundle t is)

/-- The bytes of the bundle at the pc are not there in cycle `c`: it waits for them. A stamped one overruns at its issue cycle, once its
header has been read and that cycle has come (03 R63 R64). -/
def State.fetchWait (s : State) (page : Option (Nat × Nat)) (c : Nat) : State :=
  let a := s.me
  let held := s.holdOn page cFetch (a.xfer.getD a.pc)
  if !s.stamped then held.idle c
  else
    let wait := (held.modMe fun x => { x with waitFrom := some (a.waitFrom.getD a.earliest), earliest := c + 1 }).idle c
    match s.fetchWord a.pc with
    | .ok _ hw =>
      match (decodeHeader hw).map s.stampedAt with
      | some (.ok k) => if k ≤ c then s.overrunAt k else wait
      | some (.error k) => s.overrunAt k
      | none => wait
    | .wait _ _ | .fail _ _ _ => wait

/-- The page request that holds the bundle at the pc is unanswered: the hold (11 R302). -/
def State.heldOnPage (s : State) : Option PageHold := s.me.pageHold.filter fun h => s.unanswered (dieOf s.cur) (some (h.ctx, h.va))

/-- A turn of a bundle that such a hold keeps. -/
def State.keepHeld (s : State) (h : PageHold) : State :=
  if h.code = cFetch then s.fetchWait (some (h.ctx, h.va)) s.issueCycle else s.idle s.issueCycle

/-- The next stored bundle of the acting agent: its bytes are read and checked, and it issues (03 R64 R81). -/
def nextBundle (s : State) : Outcome State Fault Refusal :=
  let a := s.me
  match s.readBundle with
  | .wait t p => .next (t.fetchWait p s.issueCycle)
  | .bad t code src addr =>
    .next { t.faultAt s.cur code a.pc src addr with cycle := max s.cycle s.issueCycle, latched := none, res := .faulted }
  | .ok t h is =>
    if t.stamped then
      match t.stampedAt h with
      | .error c => .next (t.overrunAt c)
      | .ok c => issueBundle t h is c
    else issueBundle t h is t.issueCycle

/-! ### A turn -/

/-- What the next access that waits keeps of a refusal: the rest of an instruction that was refused a page is refused it too. -/
def Agent.keepRefused (a : Agent) (p : PendAccess) : Agent :=
  if p.refused.isNone then a else { a with pend := a.pend.map fun (q : PendAccess) => { q with refused := p.refused } }

/-- An access that waits is tried again (07 R173): it waits on, it is performed, or its fault is deferred. One that waits on a page whose
request is unanswered waits on, and one whose page has been refused fails there (11 R302). -/
def State.retry (s : State) (p : PendAccess) : Outcome State Fault Refusal :=
  let c := max s.me.issued s.cycle
  let more := s.me.behind
  let t := { (s.modMe fun a => { a with pend := none, behind := [], issued := c, bundle := p.bundle }) with
    cycle := c, latched := some { regs := p.regs, qscale := s.qNow }, refuse := p.refused }
  let stays (x : State) : State := x.modMe fun a => { a with pend := some p, behind := more }
  let ended (x : State) : State := x.modMe fun a =>
    if a.pend.isSome then { a with behind := a.behind ++ more }.keepRefused p else { a with behind := more }.nextPend
  let ends (u : State) : Outcome State Fault Refusal :=
    .next { u.modMe fun a => { a with bundle := s.me.bundle } with
      latched := none, refuse := s.refuse, res := .issued, cycle := max s.cycle (c + 1) }
  if s.unanswered (dieOf s.cur) p.page && p.refused.isNone then ends (stays t)
  else if p.whole then
    match exec p.instr (t.modRegs s.cur fun g => (instrDests p.instr).foldl Regs.release g) with
    | .next u =>
      match u.res with
      | .issued => ends (ended u)
      | .held _ => ends (stays ((t.undo u).modRegs s.cur fun g => (instrDests p.instr).foldl Regs.mark g))
      | .faulted => .next { u with latched := none, refuse := s.refuse, cycle := max s.cycle c }
    | o => o
  else
    match t.pendBody p.instr with
    | .done x => ends (ended x)
    | .hold x _ => ends (stays x)
    | .raise x code addr => ends (ended (x.deferMe code addr.toNat))

/-- The acting agent may not begin a stored bundle: its task is asked to stop, debug halts it, or the clock pauses (12 R320,
13 R350, 16 R414). -/
def State.stopped (s : State) : Bool :=
  let a := s.me
  let asked := s.kind == .tile && s.myCore.task.any (·.stopAsked.isSome)
  a.delay.isNone && a.empties == 0 && (asked || (s.dbgHalt && s.kind != .machine) || s.paused)

/-- A task that ends before its next position or stored bundle, one in a delay position too: the code (12 R314 R330, 07 R177). -/
def State.doomed (s : State) : Option (BitVec 8) :=
  let a := s.me
  match s.kind, s.myCore.task.bind (·.doom) with
  | .tile, some d => if d = cStamp || a.empties = 0 then some d else none
  | _, _ => none

/-- The accesses that an agent has waiting are tried again while it runs, after END or BRK, and when a fault has ended its task or
halted it: what issued before keeps its effects (03 R83, 05 R128 R135). -/
def Run.retries (r : Run) : Bool :=
  match r with
  | .running | .ended | .broken | .faulted | .halted => true
  | .off => false

/-- The issue cycle of the acting agent's next position, for a stored bundle by its header where that can be read (03 R64). -/
def State.nextIssue (s : State) : Nat :=
  if s.me.empties ≠ 0 || !s.stamped then s.issueCycle
  else
    match s.fetchWord s.me.pc with
    | .ok _ hw =>
      match (decodeHeader hw).map s.stampedAt with
      | some (.ok k) => k
      | some (.error k) => k
      | none => s.issueCycle
    | .wait _ _ | .fail _ _ _ => s.issueCycle

/-- The acting agent's turn: what comes before its next position (03 R83, 01 R32, 05 R139), then the position. -/
def turn (s : State) : Outcome State Fault Refusal :=
  let a := s.me
  let c := s.issueCycle
  if s.canDefer s.cur then exec (.deferredFault s.cur) s
  else
    match (if a.run.retries && !s.paused then a.pend else none) with
    | some p => s.retry p
    | none =>
      if a.run != .running || a.pend.isSome then .next (s.idle c)
      else if s.cur == 100 && s.canInterrupt then exec .interruptEntry s
      else
        match s.doomed with
        | some code =>
          if code = cStamp then .next (s.overrunAt s.nextIssue)
          else .next { s.faultAt s.cur code a.pc a.pc 0 with cycle := max s.cycle c, res := .faulted }
        | none =>
          if s.stopped then .next (s.idle c)
          else if a.empties ≠ 0 then emptyAt (s.settleAt c) c
          else
            match s.heldOnPage with
            | some h => .next (s.keepHeld h)
            | none => nextBundle s

end Sys2Proof.Machine
end

