-- ==== Sys2Proof/Machine/Step.lean ====
section
/-! DEFINITION. One step: what the agenda lists next, or a turn of the agent that acts; and a word placed where the next step fetches. -/

namespace Sys2Proof.Machine

open Host (Outcome)

/-- One step. -/
def step (s : State) : Outcome State Fault Refusal :=
  match s.agenda with
  | [] => turn s
  | .agent n :: r => if n ≤ 100 then turn { s with agenda := r, cur := n } else .fault .noSuchAgent
  | .event i :: r => if i.fields.isSome then .fault .notAnEvent else exec i { s with agenda := r }

/-- The state with a bundle of one slot where the next step fetches: the header in bits [63:0] of `w` and the slot's word above it,
at HBM address 0, and the management controller about to fetch there (log 45). -/
def State.withFetchWord (s : State) (_nbits w : Nat) : State :=
  let a := s.agent 100
  { (s.setAgent 100 { a with run := .running, pc := 0, empties := 0, pend := none, lbuf := [], lines := [], stale := [], staleNext := [] }).putBytes 0 (toBytes w 16) with
    agenda := [], cur := 100 }

end Sys2Proof.Machine
end

