-- ==== Sys2Proof/Safety.lean ====
section
/-! DEFINITION. The terms that claims are stated in: memory in its canonical form, when an instruction finds its guard and its registers
ready, what it writes, and what a step leaves as it was. -/

namespace Sys2Proof.Machine

open Host (Outcome)

/-- Memory is in its canonical form: addresses strictly rising, no entry equal to what an unlisted address reads as. -/
def Memory.wf (m : List Host.Cell) : Bool := SMap.wf 0 m

/-- The byte of memory at a physical address of HBM or management SRAM. -/
def State.byteAt (s : State) (a : Nat) : Byte := SMap.get 0 s.mem a

/-! ### When an instruction runs (01 R15 R17) -/

/-- Neither register that the guard names is empty (01 R15). -/
def State.GuardFull (s : State) (c : Ctl) : Prop :=
  s.src.isEmpty (.p c.g1.toNat) = false ∧ s.src.isEmpty (.p c.g2.toNat) = false

/-- Both terms of the guard are 1 at bit 0 (01 R17). -/
def State.GuardOn (s : State) (c : Ctl) : Prop :=
  (s.src.rp c.g1.toNat).bits.getLsbD 0 ≠ c.g1n ∧ (s.src.rp c.g2.toNat).bits.getLsbD 0 ≠ c.g2n

/-- The guard is uniform: both registers that it names are tagged (01 R17). -/
def State.GuardTagged (s : State) (c : Ctl) : Prop := (s.src.rp c.g1.toNat).tag = true ∧ (s.src.rp c.g2.toNat).tag = true

/-- The guard is of one value for every lane: it is uniform, or a term of p0 negated makes it false (03 R67; log 11). -/
def State.GuardWhole (s : State) (c : Ctl) : Prop :=
  s.GuardTagged c ∨ (c.g1 = 0 ∧ c.g1n = true) ∨ (c.g2 = 0 ∧ c.g2n = true)

/-- None of the registers is empty. -/
def State.Full (s : State) (l : List RegId) : Prop := ∀ r ∈ l, s.src.isEmpty r = false

/-- An instruction that takes its guard from bit 0 runs: the guard lets it, and none of the registers it names is empty. -/
def State.Ready (s : State) (c : Ctl) (l : List RegId) : Prop := s.GuardFull c ∧ s.GuardOn c ∧ s.Full l

/-- A BR-slot instruction that may not stand in a delay position runs (05 R117). -/
def State.ReadyBr (s : State) (c : Ctl) (l : List RegId) : Prop := s.Ready c l ∧ s.me.delay = none

/-- A transfer runs: its guard is uniform as well (01 R17). -/
def State.ReadyXfer (s : State) (c : Ctl) (l : List RegId) : Prop := s.ReadyBr c l ∧ s.GuardTagged c

/-- An instruction that only tile cores have runs. -/
def State.ReadyTile (s : State) (c : Ctl) (l : List RegId) : Prop := s.Ready c l ∧ s.cur < 96

/-- A per-lane instruction runs: its guard is not false for every lane as a whole (06 R143). -/
def State.ReadyLanes (s : State) (c : Ctl) (l : List RegId) : Prop :=
  s.cur < 96 ∧ s.GuardFull c ∧ ¬ (s.GuardWhole c ∧ ¬ s.GuardOn c) ∧ s.Full l

/-- A per-lane instruction of the VX slot runs: no record of the core's TQ holds the vector lanes either (09 R273). -/
def State.ReadyVx (s : State) (c : Ctl) (l : List RegId) : Prop := s.ReadyLanes c l ∧ s.lanesHeld = false

/-! ### What an instruction does -/

/-- The instruction has issued and `reg` takes `x` with flags `f` after `lat` cycles (01 R15). -/
def State.wrote (s : State) (reg : RegId) (x : RegVal) (f : BitVec 8) (lat : Nat) : State :=
  { s.produce reg x f lat with res := .issued }

/-- The instruction has issued, and the state is `t`. -/
def State.issues (t : State) : State := { t with res := .issued }

/-- The instruction has raised the fault `code` with address `addr` (03 R81). -/
def State.faults (s : State) (code : BitVec 8) (addr : Word) : State := { s.takeFault code addr with res := .faulted }

/-- Issuing `i`, scalar register d takes `x` with flags `f` after `lat` cycles (05 R101). -/
def GivesS (s : State) (d : BitVec 6) (lat : Nat) (i : Instr) (x : Word) (f : BitVec 8 := 0) : Prop :=
  exec i s = .next (s.wrote (.s d.toNat) (.w x) f lat)

/-- Issuing `i`, predicate register d takes `q` after `lat` cycles. -/
def GivesP (s : State) (d : BitVec 6) (lat : Nat) (i : Instr) (q : Pred) : Prop :=
  exec i s = .next (s.wrote (.p d.toNat) (.q q) 0 lat)

/-- The bit of the guard that governs element `i` of width `w` (01 R14 R17). -/
def State.laneOn (s : State) (c : Ctl) (w i : Nat) : Prop :=
  (s.src.rp c.g1.toNat).bits.getLsbD (i * w / 8) ≠ c.g1n ∧ (s.src.rp c.g2.toNat).bits.getLsbD (i * w / 8) ≠ c.g2n

/-- The instruction writes v[d] after `lat` cycles: element i becomes `f i` where the guard has a bit and keeps its value elsewhere, and
the flags are those of the active elements (06 R143). -/
def WritesLanes (s : State) (c : Ctl) (t : Ty) (d : BitVec 6) (lat : Nat) (f : Nat → Val) (i : Instr) : Prop :=
  ∃ v : VWord,
    exec i s = .next (s.wrote (.v d.toNat) (.r v) (orFlags t.width (guardBits s.src c) fun k => (f k).flags) lat) ∧
    ∀ k, k < 2048 / t.width →
      (s.laneOn c t.width k → elemOf v t.width k = (f k).bits % 2 ^ t.width) ∧
      (¬ s.laneOn c t.width k → elemOf v t.width k = elemOf (s.rv d) t.width k)

/-- The source element that destination element `k` of a conversion comes from, between element widths `ws` and `wd`, part `j`
(06 R156). -/
def convertedFrom (ws wd j k : Nat) : Option Nat :=
  if ws = wd then some k
  else if ws < wd then some (j * (2048 / wd) + k)
  else if j * (2048 / ws) ≤ k ∧ k < j * (2048 / ws) + 2048 / ws then some (k - j * (2048 / ws))
  else none

/-- The instruction converts elements of v[a], of width `ws`, into v[d] by `f` after `lat` cycles; an element that no source element
reaches, or that the guard does not let through, keeps its value (06 R156). -/
def ConvertsLanes (s : State) (c : Ctl) (ws : Nat) (t : Ty) (d a : BitVec 6) (j lat : Nat) (f : Nat → Val) (i : Instr) : Prop :=
  ∃ v : VWord,
    exec i s = .next (s.wrote (.v d.toNat) (.r v)
      (orFlags t.width (guardBits s.src c) fun k => ((convertedFrom ws t.width j k).map fun q => (f (elemOf (s.rv a) ws q)).flags).getD 0)
      lat) ∧
    ∀ k, k < 2048 / t.width →
      (s.laneOn c t.width k → ∀ q, convertedFrom ws t.width j k = some q →
        elemOf v t.width k = t6Clean t (f (elemOf (s.rv a) ws q)).bits % 2 ^ t.width) ∧
      (¬ (s.laneOn c t.width k ∧ (convertedFrom ws t.width j k).isSome) → elemOf v t.width k = elemOf (s.rv d) t.width k)

/-! ### Accesses (07 R166) -/

/-- A global address that passes the checks of 07 R166 for `n` bytes. -/
def GoodAddr (n : Nat) (a : Word) : Prop := a.toNat < 2 ^ 56 ∧ a.toNat % n = 0

/-- A scratchpad offset that passes them. -/
def GoodLocal (n : Nat) (a : Word) : Prop := a.toNat + n ≤ 0x180000 ∧ a.toNat % n = 0

/-- When a load's data of declared latency `lat` arrive: in stamped mode exactly then, else in no fixed cycle (07 R165, 12 R328). -/
def State.arrivesAt (s : State) (lat : Nat) : Option Nat := if s.stamped then some (s.me.issued + lat) else none

/-- The elements of a vector access that the guard lets through, in order (07 R167). -/
def State.activeElems (s : State) (c : Ctl) (t : Ty) : List Nat :=
  (List.range (2048 / t.width)).filter fun k => laneBit (guardBits s.src c) t.width k

/-- v[d] as a vector load leaves it: active element k holds the bytes loaded for it, a t6 element without bits [7:6], and every other
element is as before (07 R167). -/
def LoadedInto (s : State) (c : Ctl) (t : Ty) (d : BitVec 6) (bss : List (List Byte)) (v : VWord) : Prop :=
  (∀ (j k : Nat) (bs : List Byte), (s.activeElems c t)[j]? = some k → bss[j]? = some bs →
    elemOf v t.width k = t6Clean t (ofBytes bs) % 2 ^ t.width) ∧
  ∀ k, k < 2048 / t.width → ¬ s.laneOn c t.width k → elemOf v t.width k = elemOf (s.rv d) t.width k

/-- The bytes that a store takes from element k of v[d], lowest first (00 R3, 07 R167). -/
def elemBytesOf (s : State) (t : Ty) (d : BitVec 6) (k : Nat) : List Byte :=
  toBytes (t6Clean t (elemOf (s.rv d) t.width k)) (t.width / 8)

/-- The operation enters the matrix queue of the core that acts, last and not started, with what program order makes of slots, latch and
accumulator formats (08 R207 R209); it follows the copy commands under way that fill a slot it reads or fills (08 R208). -/
def State.entersQueue (s : State) (o : MatrixOp) (order : Core → Core) : State :=
  { s.modCore fun k =>
      { order k with mq := (order k).mq ++
          [{ id := s.nextId, op := o, ready := max s.me.issued (s.myCore.injectedBy o), bundle := s.me.bundle, after := k.engineFills o }] } with
    nextId := s.nextId + 1 }

/-! ### Frames -/

/-- Where the elements of a store of issuer `i` with hint `h` go, each reached in the state that the elements before it leave: physical
address and bytes (07 R167); `old` is HINTCNT before the store. -/
def State.placesOf (s : State) (i : Issuer) (h : BitVec 2) (old : BitVec 32) (es : List (Nat × List Byte)) : List (Nat × Nat) :=
  match es with
  | [] => []
  | e :: r =>
    match s.reach i .write e.1 e.2.length with
    | .ok t p =>
      (p.1, e.2.length) :: (((t.physWrite p.1 e.2).cacheStore i e.1 p.1 p.2 h).countOnce i.agent h old [p.2]).placesOf i h old r
    | .wait _ _ | .fail _ _ _ => []

/-- What a register reads as. -/
def Regs.read (g : Regs) (r : RegId) : RegVal :=
  match r with
  | .s n => .w (g.rs n)
  | .p n => .q (g.rp n)
  | .v n => .r (g.rv n)

/-- Nothing of the chip but the acting agent, its tile core and the note of how the slot ended has changed: every other agent, core and
die, memory, and every register outside them are as before. -/
def State.OnlyMine (s t : State) : Prop :=
  t = { s with agents := t.agents, cores := t.cores, res := t.res } ∧
    ∀ n, n ≠ s.cur → t.agent n = s.agent n ∧ t.core n = s.core n

/-- Of the acting agent nothing has changed but its registers and results in flight; and of the registers, values and empty bits only
those of `dests`. -/
def State.OnlyRegs (s t : State) (dests : List RegId) : Prop :=
  t.me = { s.me with regs := t.me.regs, flight := t.me.flight } ∧ t.me.regs.b = s.me.regs.b ∧
    ∀ r, r ∉ dests → t.me.regs.read r = s.me.regs.read r ∧ t.me.regs.isEmpty r = s.me.regs.isEmpty r

/-- Of the tile core nothing has changed but its status flags. -/
def State.OnlyFlags (s t : State) : Prop :=
  t.myCore = { s.myCore with status := t.myCore.status, flagAt := t.myCore.flagAt }

end Sys2Proof.Machine
end

