-- ==== Sys2Proof/Certificates/Slice0/Obligations.lean ====
section
/-! DEFINITION. What is to be proved of the machine: one definition for each statement, its rules in its docstring. -/

open Sys2Proof Sys2Proof.Machine

/-! ### Scalar integers, predicates and FP32 (05) -/

/-- 05 R103: s[D] takes f(s[A], b) with latency 1, where b is s[B] or the sign-extended imm25. Shift counts are bits [5:0] of s[B], or the
immediate from 0 to 63; MIN and MAX compare signed, MINU and MAXU unsigned; ADDS and SUBS clamp to 64 signed bits and set SAT exactly when
they clamp. -/
def Obligations.AluResults : Prop :=
  (∀ (s : State) (c : Ctl) (d a b : BitVec 6), s.Ready c [.s a.toNat, .s b.toNat, .s d.toNat] →
     let x := s.rs a
     let y := s.rs b
     let n := y.toNat % 64
     let clamp (z : Int) : Word := BitVec.ofInt 64 (max (-2 ^ 63) (min (2 ^ 63 - 1) z))
     let sat (z : Int) : BitVec 8 := if -2 ^ 63 ≤ z ∧ z ≤ 2 ^ 63 - 1 then 0 else 0x02
     GivesS s d 1 (.add c d a b) (x + y) ∧ GivesS s d 1 (.sub c d a b) (x - y) ∧
     GivesS s d 1 (.and c d a b) (x &&& y) ∧ GivesS s d 1 (.or c d a b) (x ||| y) ∧ GivesS s d 1 (.xor c d a b) (x ^^^ y) ∧
     GivesS s d 1 (.shl c d a b) (x <<< n) ∧ GivesS s d 1 (.shr c d a b) (x >>> n) ∧
     GivesS s d 1 (.sar c d a b) (x.sshiftRight n) ∧ GivesS s d 1 (.rotl c d a b) (x.rotateLeft n) ∧
     GivesS s d 1 (.min c d a b) (BitVec.ofInt 64 (min x.toInt y.toInt)) ∧
     GivesS s d 1 (.max c d a b) (BitVec.ofInt 64 (max x.toInt y.toInt)) ∧
     GivesS s d 1 (.minu c d a b) (BitVec.ofNat 64 (min x.toNat y.toNat)) ∧
     GivesS s d 1 (.maxu c d a b) (BitVec.ofNat 64 (max x.toNat y.toNat)) ∧
     GivesS s d 1 (.adds c d a b) (clamp (x.toInt + y.toInt)) (sat (x.toInt + y.toInt)) ∧
     GivesS s d 1 (.subs c d a b) (clamp (x.toInt - y.toInt)) (sat (x.toInt - y.toInt))) ∧
  (∀ (s : State) (c : Ctl) (d a : BitVec 6) (imm : BitVec 25), s.Ready c [.s a.toNat, .s d.toNat] →
     let x := s.rs a
     let y : Word := imm.signExtend 64
     GivesS s d 1 (.addi c d a imm) (x + y) ∧ GivesS s d 1 (.andi c d a imm) (x &&& y) ∧
     GivesS s d 1 (.ori c d a imm) (x ||| y) ∧ GivesS s d 1 (.xori c d a imm) (x ^^^ y) ∧
     (imm.toNat < 64 →
       GivesS s d 1 (.shli c d a imm) (x <<< imm.toNat) ∧ GivesS s d 1 (.shri c d a imm) (x >>> imm.toNat) ∧
       GivesS s d 1 (.sari c d a imm) (x.sshiftRight imm.toNat)))

/-- 05 R104: MOV copies, ABS is the two's-complement magnitude, CLZ and CTZ count the zeros above the highest and below the lowest 1 (64 for
zero), POPC counts the 1 bits and BREV reverses the word, with latency 1. -/
def Obligations.OneSourceResults : Prop :=
  ∀ (s : State) (c : Ctl) (d a : BitVec 6), s.Ready c [.s a.toNat, .s d.toNat] →
    let x := s.rs a
    GivesS s d 1 (.mov c d a) x ∧ GivesS s d 1 (.abs c d a) (BitVec.ofNat 64 x.toInt.natAbs) ∧
    (∃ n, n ≤ 64 ∧ GivesS s d 1 (.clz c d a) (BitVec.ofNat 64 n) ∧ (∀ k, 64 - n ≤ k → x.getLsbD k = false) ∧
      (n < 64 → x.getLsbD (63 - n) = true)) ∧
    (∃ n, n ≤ 64 ∧ GivesS s d 1 (.ctz c d a) (BitVec.ofNat 64 n) ∧ (∀ k, k < n → x.getLsbD k = false) ∧
      (n < 64 → x.getLsbD n = true)) ∧
    GivesS s d 1 (.popc c d a) (BitVec.ofNat 64 ((List.range 64).filter x.getLsbD).length) ∧
    (∃ y : Word, GivesS s d 1 (.brev c d a) y ∧ ∀ k, k < 64 → y.getLsbD k = x.getLsbD (63 - k))

/-- 05 R105, R107, R108, R109: constants, bit fields, LEA and SEL; the field w holds the width minus 1. -/
def Obligations.FieldResults : Prop :=
  ∀ (s : State) (c : Ctl) (d a : BitVec 6), s.Ready c [.s a.toNat, .s d.toNat] →
    let x := s.rs a
    (∀ imm : BitVec 25, GivesS s d 1 (.movi c d imm) (imm.signExtend 64) ∧
      GivesS s d 1 (.movhi c d imm) ((s.rs d <<< 25) ||| imm.zeroExtend 64)) ∧
    (∀ w : BitVec 6, GivesS s d 1 (.sext c d a w) ((x.setWidth (w.toNat + 1)).signExtend 64) ∧
      GivesS s d 1 (.zext c d a w) ((x.setWidth (w.toNat + 1)).zeroExtend 64)) ∧
    (∀ pos w : BitVec 6, pos.toNat + w.toNat < 64 →
      GivesS s d 1 (.bfx c d a pos w) ((x.extractLsb' pos.toNat (w.toNat + 1)).zeroExtend 64) ∧
      ∃ y : Word, GivesS s d 1 (.bfi c d a pos w) y ∧ ∀ k, k < 64 →
        y.getLsbD k = if pos.toNat ≤ k ∧ k ≤ pos.toNat + w.toNat then x.getLsbD (k - pos.toNat) else (s.rs d).getLsbD k) ∧
    (∀ (b : BitVec 6) (sh : BitVec 3), s.Full [.s b.toNat] → GivesS s d 1 (.lea c d a b sh) (x + (s.rs b <<< sh.toNat))) ∧
    (∀ (b p : BitVec 6), s.Full [.s b.toNat, .p p.toNat] →
      GivesS s d 1 (.sel c d p a b) (if (s.rp p).bits.getLsbD 0 then x else s.rs b))

/-- 05 R106: multiply and divide, with the latencies of 05 R101, 3 and 24 cycles. -/
def Obligations.MultiplyDivideResults : Prop :=
  ∀ (s : State) (c : Ctl) (d a b : BitVec 6), s.Ready c [.s a.toNat, .s b.toNat, .s d.toNat] →
    let x := s.rs a
    let y := s.rs b
    GivesS s d 3 (.mul c d a b) (x * y) ∧
    (∀ imm : BitVec 25, GivesS s d 3 (.muli c d a imm) (x * imm.signExtend 64)) ∧
    GivesS s d 3 (.mulh c d a b) ((x.signExtend 128 * y.signExtend 128).extractLsb' 64 64) ∧
    GivesS s d 3 (.mulhu c d a b) ((x.zeroExtend 128 * y.zeroExtend 128).extractLsb' 64 64) ∧
    (y = 0 →
      GivesS s d 24 (.div c d a b) (BitVec.allOnes 64) ∧ GivesS s d 24 (.divu c d a b) (BitVec.allOnes 64) ∧
      GivesS s d 24 (.rem c d a b) x ∧ GivesS s d 24 (.remu c d a b) x) ∧
    (y ≠ 0 →
      GivesS s d 24 (.div c d a b) (BitVec.ofInt 64 (x.toInt.tdiv y.toInt)) ∧
      GivesS s d 24 (.divu c d a b) (BitVec.ofNat 64 (x.toNat / y.toNat)) ∧
      GivesS s d 24 (.rem c d a b) (x - y * BitVec.ofInt 64 (x.toInt.tdiv y.toInt)) ∧
      GivesS s d 24 (.remu c d a b) (x - y * BitVec.ofNat 64 (x.toNat / y.toNat)))

/-- 05 R110 R111 with 03 R72: CMP and CMPI fill p[D] with the one result and tag it; predicate logic is bit by bit, tagged if every source
is. -/
def Obligations.PredicateResults : Prop :=
  ∀ (s : State) (c : Ctl) (d a b : BitVec 6), s.GuardFull c ∧ s.GuardOn c ∧ s.Full [.p d.toNat] →
    let all (r : Bool) : Pred := { bits := if r then BitVec.allOnes 256 else 0, tag := true }
    let holds (k : Cond) (x y : Word) : Bool :=
      match k with
      | .eq => decide (x = y)
      | .ne => decide (x ≠ y)
      | .lt => decide (x.toInt < y.toInt)
      | .le => decide (x.toInt ≤ y.toInt)
      | .gt => decide (y.toInt < x.toInt)
      | .ge => decide (y.toInt ≤ x.toInt)
      | .ltu => decide (x.toNat < y.toNat)
      | .geu => decide (y.toNat ≤ x.toNat)
    (s.Full [.s a.toNat] →
      (∀ k (imm : BitVec 22), GivesP s d 1 (.cmpi c k d a imm) (all (holds k (s.rs a) (imm.signExtend 64)))) ∧
      (s.Full [.s b.toNat] → ∀ k, GivesP s d 1 (.cmp c k d a b) (all (holds k (s.rs a) (s.rs b))))) ∧
    (s.Full [.p a.toNat] →
      let p := s.rp a
      let q := s.rp b
      GivesP s d 1 (.pnot c d a) { bits := ~~~p.bits, tag := p.tag } ∧ GivesP s d 1 (.pmov c d a) p ∧
      (s.Full [.p b.toNat] →
        GivesP s d 1 (.pand c d a b) { bits := p.bits &&& q.bits, tag := p.tag && q.tag } ∧
        GivesP s d 1 (.por c d a b) { bits := p.bits ||| q.bits, tag := p.tag && q.tag } ∧
        GivesP s d 1 (.pxor c d a b) { bits := p.bits ^^^ q.bits, tag := p.tag && q.tag }))

/-- 05 R112 R113 R114: scalar FP32 reads bits [31:0], writes {0, result} with its flags after 4 cycles (1 for FMIN and FMAX, 3 for the
conversions), and FCMP tags p[D] and sets no flag. -/
def Obligations.ScalarFloatResults : Prop :=
  ∀ (s : State) (c : Ctl) (m : RMode) (d a b : BitVec 6), s.Ready c [.s a.toNat, .s b.toNat] →
    let lo (r : BitVec 6) : Nat := (s.rs r).toNat % 2 ^ 32
    let gives (lat : Nat) (i : Instr) (v : Val) : Prop := GivesS s d lat i (BitVec.ofNat 64 v.bits) v.flags
    (s.Full [.s d.toNat] →
      gives 4 (.fadd c m d a b) (fadd f32 m (lo a) (lo b)) ∧ gives 4 (.fsub c m d a b) (fsub f32 m (lo a) (lo b)) ∧
      gives 4 (.fmul c m d a b) (fmul f32 m (lo a) (lo b)) ∧
      (∀ x : BitVec 6, s.Full [.s x.toNat] → gives 4 (.ffma c m d a b x) (ffma f32 m (lo a) (lo b) (lo x))) ∧
      gives 1 (.fmin c d a b) (fminmax f32 false (lo a) (lo b)) ∧ gives 1 (.fmax c d a b) (fminmax f32 true (lo a) (lo b)) ∧
      (let v := convert .f32 0 .i64 0 m (lo a)
       GivesS s d 3 (.fcvti c .i64 m d a) (BitVec.ofNat 64 v.bits) v.flags) ∧
      (let v := convert .f32 0 .i32 0 m (lo a)
       GivesS s d 3 (.fcvti c .i32 m d a) ((BitVec.ofNat 32 v.bits).signExtend 64) v.flags) ∧
      gives 3 (.icvtf c .i32 m d a) (f32.encode m (.ofInt ((s.rs a).setWidth 32).toInt)) ∧
      gives 3 (.icvtf c .i64 m d a) (f32.encode m (.ofInt (s.rs a).toInt))) ∧
    (s.Full [.p d.toNat] → ∀ k,
      GivesP s d 1 (.fcmp c k d a b) (if fcond k (f32.decode (lo a)) (f32.decode (lo b)) then Pred.ones else Pred.zeros))

/-! ### The VX slot (06) -/

/-- 06 R144 with the latencies of R142: element-wise arithmetic wraps for integers and rounds once for floats. -/
def Obligations.VectorArithmetic : Prop :=
  ∀ (s : State) (c : Ctl) (t : Ty) (m : RMode) (d a b x : BitVec 6), t.isTaper = false →
    s.ReadyVx c [.v a.toNat, .v b.toNat, .v x.toNat, .v d.toNat] →
    let w := t.width
    let p (k : Nat) : Nat := elemOf (s.rv a) w k
    let q (k : Nat) : Nat := elemOf (s.rv b) w k
    let r (k : Nat) : Nat := elemOf (s.rv x) w k
    let short : Nat := if t.isInt then 2 else 4
    let sgn (n : Nat) : Int := (BitVec.ofNat w n).toInt
    let num (f g : Nat → Val) (k : Nat) : Val := if t.isInt then f k else g k
    WritesLanes s c t d short (num (fun k => plain ((p k + q k) % 2 ^ w)) fun k => fadd (ffmtOf t) m (p k) (q k)) (.vadd c t m d a b) ∧
    WritesLanes s c t d short (num (fun k => plain ((2 ^ w + p k - q k) % 2 ^ w)) fun k => fsub (ffmtOf t) m (p k) (q k))
      (.vsub c t m d a b) ∧
    WritesLanes s c t d 4 (num (fun k => plain (p k * q k % 2 ^ w)) fun k => fmul (ffmtOf t) m (p k) (q k)) (.vmul c t m d a b) ∧
    WritesLanes s c t d 4 (num (fun k => plain ((p k * q k + r k) % 2 ^ w)) fun k => ffma (ffmtOf t) m (p k) (q k) (r k))
      (.vfma c t m d a b x) ∧
    WritesLanes s c t d 2 (num (fun k => plain (if sgn (q k) < sgn (p k) then q k else p k)) fun k => fminmax (ffmtOf t) false (p k) (q k))
      (.vmin c t d a b) ∧
    WritesLanes s c t d 2 (num (fun k => plain (if sgn (p k) < sgn (q k) then q k else p k)) fun k => fminmax (ffmtOf t) true (p k) (q k))
      (.vmax c t d a b) ∧
    WritesLanes s c t d 2
      (num (fun k => plain ((sgn (p k)).natAbs % 2 ^ w)) fun k =>
        if ((ffmtOf t).decode (p k)).isNan then plain (ffmtOf t).nanBits else plain (p k % 2 ^ (w - 1))) (.vabs c t d a) ∧
    WritesLanes s c t d 2
      (num (fun k => plain ((2 ^ w - p k) % 2 ^ w)) fun k =>
        if ((ffmtOf t).decode (p k)).isNan then plain (ffmtOf t).nanBits else plain (p k ^^^ 2 ^ (w - 1))) (.vneg c t d a)

/-- 06 R145 R146 with the latencies of R142: the integer-only element operations. -/
def Obligations.VectorIntegerOps : Prop :=
  ∀ (s : State) (c : Ctl) (t : Ty) (d a b : BitVec 6), t.isInt = true → s.ReadyVx c [.v a.toNat, .v b.toNat, .v d.toNat] →
    let w := t.width
    let p (k : Nat) : Nat := elemOf (s.rv a) w k
    let q (k : Nat) : Nat := elemOf (s.rv b) w k
    let sgn (n : Nat) : Int := (BitVec.ofNat w n).toInt
    let clamp (z : Int) : Val :=
      if z < -2 ^ (w - 1) then { bits := 2 ^ (w - 1), flags := 0x02 }
      else if 2 ^ (w - 1) - 1 < z then { bits := 2 ^ (w - 1) - 1, flags := 0x02 }
      else plain (BitVec.ofInt w z).toNat
    WritesLanes s c t d 2 (fun k => clamp (sgn (p k) + sgn (q k))) (.vadds c t d a b) ∧
    WritesLanes s c t d 2 (fun k => clamp (sgn (p k) - sgn (q k))) (.vsubs c t d a b) ∧
    WritesLanes s c t d 4 (fun k => plain (BitVec.ofInt w (sgn (p k) * sgn (q k) / 2 ^ w)).toNat) (.vmulh c t d a b) ∧
    WritesLanes s c t d 1 (fun k => plain (p k &&& q k)) (.vand c t d a b) ∧
    WritesLanes s c t d 1 (fun k => plain (p k ||| q k)) (.vor c t d a b) ∧
    WritesLanes s c t d 1 (fun k => plain (p k ^^^ q k)) (.vxor c t d a b) ∧
    WritesLanes s c t d 1 (fun k => plain (~~~ BitVec.ofNat w (p k)).toNat) (.vnot c t d a) ∧
    WritesLanes s c t d 2 (fun k => plain (BitVec.ofNat w (p k) <<< q k).toNat) (.vshl c t d a b) ∧
    WritesLanes s c t d 2 (fun k => plain (BitVec.ofNat w (p k) >>> q k).toNat) (.vshr c t d a b) ∧
    WritesLanes s c t d 2 (fun k => plain ((BitVec.ofNat w (p k)).sshiftRight (q k)).toNat) (.vsar c t d a b) ∧
    WritesLanes s c t d 1 (fun k => plain k) (.viota c t d) ∧
    ∃ f : Nat → Nat, WritesLanes s c t d 2 (fun k => plain (f k)) (.vclz c t d a) ∧
      ∀ k, k < 2048 / w → f k ≤ w ∧ p k < 2 ^ (w - f k) ∧ (f k < w → 2 ^ (w - f k - 1) ≤ p k)

/-- 06 R147 R148 with 03 R72: VCMP writes every predicate bit of an active element, keeps the others and clears the tag; VSEL takes
each active element from v[A] or v[B]. -/
def Obligations.VectorCompareSelect : Prop :=
  ∀ (s : State) (c : Ctl) (t : Ty) (k : Cond) (d a b p : BitVec 6),
    let w := t.width
    let cond (i : Nat) : Bool :=
      let x := elemOf (s.rv a) w i
      let y := elemOf (s.rv b) w i
      if t.isInt then icond k (BitVec.ofNat w x) (BitVec.ofNat w y) else fcond k (decodeElem t 0 x) (decodeElem t 0 y)
    (s.ReadyVx c [.v a.toNat, .v b.toNat, .p d.toNat] →
      ∃ q : BitVec 256, GivesP s d 2 (.vcmp c t k d a b) { bits := q, tag := false } ∧
        ∀ i j, i < 2048 / w → j < w / 8 →
          (s.laneOn c w i → q.getLsbD (i * w / 8 + j) = cond i) ∧
          (¬ s.laneOn c w i → q.getLsbD (i * w / 8 + j) = (s.rp d).bits.getLsbD (i * w / 8 + j))) ∧
    (s.ReadyVx c [.v a.toNat, .v b.toNat, .p p.toNat, .v d.toNat] →
      WritesLanes s c t d 1
        (fun i => plain (t6Clean t (if (s.rp p).bits.getLsbD (i * w / 8) then elemOf (s.rv a) w i else elemOf (s.rv b) w i)))
        (.vsel c t d p a b))

/-- 06 R149 R150 R151: moves and permutes copy bits unchanged, but for bits [7:6] of a t6 element, which are written as zero. -/
def Obligations.VectorMoves : Prop :=
  ∀ (s : State) (c : Ctl) (t : Ty) (d a b x : BitVec 6) (h : Bool),
    let w := t.width
    let n := 2048 / w
    let p (k : Nat) : Nat := elemOf (s.rv a) w k
    let pair (k : Nat) : Nat := if k < n then elemOf (s.rv a) w k else elemOf (s.rv b) w (k - n)
    let copy (z : Nat) : Val := plain (if t = .t6 then z % 64 else z)
    let half : Nat := if h then 1 else 0
    (s.ReadyVx c [.v a.toNat, .v d.toNat] → WritesLanes s c t d 1 (fun k => copy (p k)) (.vmov c t d a)) ∧
    (s.ReadyVx c [.s a.toNat, .v d.toNat] →
      WritesLanes s c t d 1 (fun _ => copy ((s.rs a).toNat % 2 ^ w)) (.vbcast c t d a)) ∧
    (s.ReadyVx c [.v a.toNat, .s b.toNat, .v d.toNat] →
      WritesLanes s c t d 3 (fun k => copy (p ((k + (s.rs b).toNat) % n))) (.vrot c t d a b)) ∧
    (s.ReadyVx c [.v a.toNat, .v b.toNat, .v d.toNat] →
      WritesLanes s c t d 3 (fun k => copy (p (elemOf (s.rv b) w k % n))) (.vperm c t d a b) ∧
      WritesLanes s c t d 3 (fun k => copy (pair (if k % 2 = 0 then half * (n / 2) + k / 2 else n + half * (n / 2) + (k - 1) / 2)))
        (.vzip c t d a b h) ∧
      WritesLanes s c t d 3 (fun k => copy (pair (2 * k + half))) (.vunzip c t d a b h)) ∧
    (s.ReadyVx c [.v a.toNat, .v b.toNat, .s x.toNat, .v d.toNat] →
      WritesLanes s c t d 3 (fun k => copy (pair ((k + (s.rs x).toNat) % (2 * n)))) (.vslide c t d a b x)) ∧
    (s.ReadyTile c [.v a.toNat, .s b.toNat, .s d.toNat] ∧ s.lanesHeld = false →
      GivesS s d 3 (.vext c t d a b)
        (let z := p ((s.rs b).toNat % n)
         if t.isInt then (BitVec.ofNat w z).signExtend 64 else BitVec.ofNat 64 (if t = .t6 then z % 64 else z))) ∧
    (s.ReadyTile c [.s a.toNat, .s b.toNat, .v d.toNat] ∧ s.lanesHeld = false →
      ∃ v : VWord, exec (.vins c t d a b) s = .next (s.wrote (.v d.toNat) (.r v) 0 3) ∧
        ∀ k, k < n → elemOf v w k =
          if k = (s.rs b).toNat % n then (if t = .t6 then (s.rs a).toNat % 64 else (s.rs a).toNat % 2 ^ w) else elemOf (s.rv d) w k)

/-- 06 R152 R153: after a reduction v[D] is, as a number, the root of the tree of 02 R53 over the active elements, which stands in element 0;
VSCAN writes the prefixes of 02 R54 into the active elements; that one present NaN keeps its payload is the model's choice between 02 R42 and R53
(log 91). On integers VREDADD leaves in element 0 the sum modulo 2^w of the elements whose
guard bit is 1, and zero in every other element. -/
def Obligations.ReductionsAndScan : Prop :=
  (∀ (s : State) (c : Ctl) (t : Ty) (d a : BitVec 6), t.isTaper = false → s.ReadyVx c [.v a.toNat, .v d.toNat] →
     let w := t.width
     let n := 2048 / w
     let present (k : Nat) : Option Nat := if laneBit (guardBits s.src c) w k then some (elemOf (s.rv a) w k) else none
     let add (x y : Nat) : Val := if t.isInt then plain ((x + y) % 2 ^ w) else fadd (ffmtOf t) .rne x y
     let gives (lat : Nat) (op : Nat → Nat → Val) (none_ : Nat) (i : Instr) : Prop :=
       let root := treeNode op present 0 n.log2
       exec i s = .next (s.wrote (.v d.toNat) (.r (BitVec.ofNat 2048 (root.1.getD none_))) root.2 lat)
     gives 10 add 0 (.vredadd c t d a) ∧
     gives 6 (minmaxElem t false) (if t.isInt then 2 ^ (w - 1) - 1 else (ffmtOf t).infBits) (.vredmin c t d a) ∧
     gives 6 (minmaxElem t true) (if t.isInt then 2 ^ (w - 1) else (ffmtOf t).infBits + 2 ^ (w - 1)) (.vredmax c t d a) ∧
     ∃ v : VWord, exec (.vscan c t d a) s = .next (s.wrote (.v d.toNat) (.r v) (scanAll add present n).2 12) ∧
       ∀ k, k < n →
         (s.laneOn c w k → elemOf v w k = (((scanAll add present n).1.getD k none).getD 0) % 2 ^ w) ∧
         (¬ s.laneOn c w k → elemOf v w k = elemOf (s.rv d) w k)) ∧
  (∀ (s : State) (c : Ctl) (t : Ty) (d a : BitVec 6), t.isInt = true → s.ReadyVx c [.v a.toNat, .v d.toNat] →
     ∃ v : VWord, exec (.vredadd c t d a) s = .next (s.wrote (.v d.toNat) (.r v) 0 10) ∧
       elemOf v t.width 0 =
         (((List.range (2048 / t.width)).filter fun k => laneBit (guardBits s.src c) t.width k).map
           fun k => elemOf (s.rv a) t.width k).sum % 2 ^ t.width ∧
       ∀ k, 0 < k → k < 2048 / t.width → elemOf v t.width k = 0)

/-- 06 R154: the votes read one bit of p[A] for each element that takes part; VANY and VALL tag p[D]; a uniform
false guard, or one of p0 negated, suppresses all three, whatever stands in their operands and whether the lanes are free or not, which is the
model's reading (log 11). -/
def Obligations.VectorVotes : Prop :=
  ∀ (s : State) (c : Ctl) (t : Ty) (d a : BitVec 6), t.isInt = true →
    let w := t.width
    let n := 2048 / w
    let bit (k : Nat) : Bool := (s.rp a).bits.getLsbD (k * w / 8)
    let all (r : Bool) : Pred := { bits := if r then BitVec.allOnes 256 else 0, tag := true }
    (s.ReadyVx c [.p a.toNat, .p d.toNat] →
      (∃ r, GivesP s d 3 (.vany c t d a) (all r) ∧ (r = true ↔ ∃ k, k < n ∧ s.laneOn c w k ∧ bit k = true)) ∧
      (∃ r, GivesP s d 3 (.vall c t d a) (all r) ∧ (r = true ↔ ∀ k, k < n → s.laneOn c w k → bit k = true))) ∧
    (s.ReadyVx c [.p a.toNat, .s d.toNat] →
      GivesS s d 3 (.vpopc c t d a)
        (BitVec.ofNat 64 ((List.range n).filter fun k => laneBit (guardBits s.src c) w k && bit k).length)) ∧
    (s.cur < 96 → s.GuardFull c → s.GuardWhole c → ¬ s.GuardOn c →
      exec (.vany c t d a) s = .next s.issues ∧ exec (.vall c t d a) s = .next s.issues ∧ exec (.vpopc c t d a) s = .next s.issues)

/-- 06 R155 with the latencies of R142: each special function of 02 R52 element by element, in the instruction's mode. -/
def Obligations.VectorSpecialFunctions : Prop :=
  ∀ (s : State) (c : Ctl) (t : Ty) (m : RMode) (d a b : BitVec 6), t.isInt = false → t.isTaper = false →
    s.ReadyVx c [.v a.toNat, .v b.toNat, .v d.toNat] →
    let f := ffmtOf t
    let p (k : Nat) : Machine.Num := f.decode (elemOf (s.rv a) t.width k)
    let q (k : Nat) : Machine.Num := f.decode (elemOf (s.rv b) t.width k)
    WritesLanes s c t d 14 (fun k => fdivN f m (.fin false 1 0) (p k)) (.vrcp c t m d a) ∧
    WritesLanes s c t d 14 (fun k => frsqN f m (p k)) (.vrsq c t m d a) ∧
    WritesLanes s c t d 14 (fun k => fsqrtN f m (p k)) (.vsqrt c t m d a) ∧
    WritesLanes s c t d 14 (fun k => fexp2N f m (p k)) (.vexp2 c t m d a) ∧
    WritesLanes s c t d 14 (fun k => flog2N f m (p k)) (.vlog2 c t m d a) ∧
    WritesLanes s c t d 14 (fun k => ftanhN f m (p k)) (.vtanh c t m d a) ∧
    WritesLanes s c t d 14 (fun k => fsigmN f m (p k)) (.vsigm c t m d a) ∧
    WritesLanes s c t d 18 (fun k => fdivN f m (p k) (q k)) (.vdiv c t m d a b)

/-- 06 R156 to R161 with 01 R21: the conversions; VDQ reads the scale latch at issue, and a conversion to the same type copies; VMAXEXP
puts the greatest exponent of the active elements into the scale latch three cycles after its issue; VQCVT writes the codes of 02 R58 of its
active elements under the latch as it stands at issue. -/
def Obligations.VectorConversions : Prop :=
  (∀ (s : State) (c : Ctl) (t fs : Ty) (m : RMode) (d a j n : BitVec 6), s.ReadyVx c [.v a.toNat, .v d.toNat] →
     ConvertsLanes s c fs.width t d a j.toNat 4
       (fun x => if fs = t then plain x else encodeElem t 0 m (decodeElem fs 0 x)) (.vcvt c t m d a fs j) ∧
     (fs.isTaper = true → ConvertsLanes s c 8 t d a j.toNat 4
       (fun x => encodeElem t 0 m (decodeElem fs s.qNow.toInt x)) (.vdq c t m d a fs j)) ∧
     ConvertsLanes s c t.width .i64 d a j.toNat 4
       (fun x => encodeElem .i64 0 m ((decodeElem t 0 x).scale n.toNat)) (.vfxcvt c t m d a n j) ∧
     ConvertsLanes s c 64 t d a j.toNat 4
       (fun x => encodeElem t 0 m ((Machine.Num.ofInt (BitVec.ofNat 64 x).toInt).scale (-(n.toNat : Int)))) (.vflcvt c t m d a n j)) ∧
  (∀ (s : State) (c : Ctl) (t fq : Ty) (d a j : BitVec 6),
     let w := t.width
     let n := 2048 / w
     let src (k : Nat) : Machine.Num := decodeElem t 0 (elemOf (s.rv a) w k)
     (s.ReadyVx c [.v a.toNat] →
       exec (.vmaxexp c t a) s =
         .next (s.modCore fun k => { k with qpend := k.qpend ++
           [(s.me.issued + 3,
             BitVec.ofInt 8 (maxExp (((List.range n).filter fun i => laneBit (guardBits s.src c) w i).map src)))] }).issues) ∧
     (s.ReadyVx c [.v a.toNat, .v d.toNat] →
       let codes := quantAll (fq == .t6) s.qNow.toInt n (fun i => laneBit (guardBits s.src c) 8 (j.toNat * n + i)) src
       ∃ v : VWord, exec (.vqcvt c t d a fq j) s = .next (s.wrote (.v d.toNat) (.r v) codes.2 8) ∧
         ∀ k, k < 256 → elemOf v 8 k =
           (if j.toNat * n ≤ k ∧ k < j.toNat * n + n then (codes.1.getD (k - j.toNat * n) none).getD (elemOf (s.rv d) 8 k)
             else elemOf (s.rv d) 8 k) % 256))

/-! ### The BR slot (05), special registers and traps (01) -/

/-- 05 R115: BPREP writes b[D] with the address of its own bundle plus 8 times the sign-extended immediate, BPREPS with s[A]; nothing else
changes. -/
def Obligations.PrepareResults : Prop :=
  ∀ (s : State) (c : Ctl) (d a : BitVec 6) (imm : BitVec 25), s.Ready c [.s a.toNat] →
    let gives (i : Instr) (x : Word) : Prop :=
      ∃ t, exec i s = .next t ∧ t.res = .issued ∧ s.OnlyMine t ∧ t.cores = s.cores ∧
        t.me = { s.me with regs := { s.me.regs with b := t.me.regs.b } } ∧
        ∀ k, t.me.regs.rb k = if k = d.toNat then x else s.me.regs.rb k
    gives (.bprep c d imm) (s.me.bundle + 8 * imm.signExtend 64) ∧ gives (.bpreps c d a) (s.rs a)

/-- 05 R116 R118 with R125: a taken BR, CALL or RET sets out two delay positions and its target, where the second of them leaves the pc;
CALL pushes the return address, the first bundle stored after its delay positions (03 R62), RET pops. What stands for that address until the
positions have issued is the model's State.returnAddr, a free value where their headers cannot be read yet (log 18). The refill of a RET in
stamped mode and the spill store of a tile core are not stated here. A CALL with 16 entries held stores the oldest at lsbase + 8 × SPILL and counts it in SPILL, on a control core or the management controller
by physical address; with lsbase 0 it raises LINK_OVERFLOW. Within a loop all three raise ILLEGAL_BUNDLE. A transfer, LOOPSET, LOOPBRK or END
whose guard registers are not both tagged raises GUARD_NONUNIFORM, whatever the guard's bits (01 R17, 03 R81), and a BR-slot instruction other than BPREP,
BPREPS, MFSR and MTSR in a delay position raises ILLEGAL_BUNDLE (05 R117). -/
def Obligations.Transfers : Prop :=
  ((∀ (s : State) (c : Ctl) (a : BitVec 6), s.ReadyXfer c [] →
      let target := s.src.rb a.toNat
      let go (x : Agent) (dest : Word) : Agent := { x with delay := some { left := 2, target := dest, src := x.bundle } }
      let called (x : Agent) (dest : Word) : Agent := { x with delay := some { left := 2, target := dest, src := x.bundle, call := true } }
      (s.me.loops = [] →
        exec (.br c a) s = .next (s.setMe (go s.me target)).issues ∧
        (s.me.links.length < 16 →
          exec (.call c a) s =
            .next ({ s.setMe (called { s.me with links := s.returnAddr :: s.me.links } target) with fresh := s.fresh + 1 } : State).issues) ∧
        (16 ≤ s.me.links.length → s.me.lsbase = 0 → exec (.call c a) s = .next (s.faults cLinkOver 0)) ∧
        (∀ l r, s.me.links = l :: r → exec (.ret c) s = .next (s.setMe (go { s.me with links := r } l)).issues) ∧
        (s.me.links = [] → s.me.spill = 0 → exec (.ret c) s = .next (s.faults cLinkUnder 0)) ∧
        (∀ u bs, s.me.links = [] → s.me.spill ≠ 0 → s.stamped = false →
          s.loadMine (s.me.lsbase + 8 * (s.me.spill.zeroExtend 64 - 1)).toNat 8 = .ok u bs →
          exec (.ret c) s =
            .next (u.setMe (go { u.me with spill := u.me.spill - 1 } (BitVec.ofNat 64 (ofBytes bs)))).issues)) ∧
      (s.me.loops ≠ [] →
        exec (.br c a) s = .next (s.faults cBundle 0) ∧ exec (.call c a) s = .next (s.faults cBundle 0) ∧
        exec (.ret c) s = .next (s.faults cBundle 0))) ∧
   (∀ (s u : State) (c : Ctl) (a : BitVec 6), s.ReadyXfer c [] → 96 ≤ s.cur → s.me.loops = [] → s.me.links.length = 16 →
      s.me.lsbase ≠ 0 →
      s.physStore 0 (s.me.lsbase + 8 * s.me.spill.zeroExtend 64).toNat (toBytes (s.me.links.getLastD 0).toNat 8) = .ok u () →
      ∃ t, exec (.call c a) s = .next t ∧ t.res = .issued ∧ t.mem = u.mem ∧
        t.me = { u.me with links := u.dropOldest.returnAddr :: u.me.links.dropLast, spill := u.me.spill + 1
                           delay := some { left := 2, target := s.src.rb a.toNat, src := u.me.bundle, call := true } })) ∧
  (∀ (a : Agent) (d : Delay) (stall : Nat), a.delay = some d → d.left ≤ 1 →
     let b := a.endPosition true stall
     b.pc = d.target ∧ b.delay = none ∧ b.links = if d.call then a.pc :: a.links.tail else a.links) ∧
  (∀ (s : State) (c : Ctl) (a b n : BitVec 6) (k : BitVec 3) (m : BitVec 7),
     (s.GuardFull c → ¬ s.GuardTagged c → s.me.delay = none →
       exec (.br c a) s = .next (s.faults cGuard 0) ∧ exec (.call c a) s = .next (s.faults cGuard 0) ∧
       exec (.ret c) s = .next (s.faults cGuard 0) ∧ exec (.loopset c a n) s = .next (s.faults cGuard 0) ∧
       exec (.loopbrk c k) s = .next (s.faults cGuard 0) ∧ (s.cur < 96 → exec (.endTask c) s = .next (s.faults cGuard 0))) ∧
     (s.me.delay ≠ none →
       exec (.br c a) s = .next (s.faults cBundle 0) ∧ exec (.call c a) s = .next (s.faults cBundle 0) ∧
       exec (.ret c) s = .next (s.faults cBundle 0) ∧ exec (.loopset c a n) s = .next (s.faults cBundle 0) ∧
       exec (.loopbrk c k) s = .next (s.faults cBundle 0) ∧ exec (.wait c a b) s = .next (s.faults cBundle 0) ∧
       exec (.waitt c a) s = .next (s.faults cBundle 0) ∧ exec (.trap c m) s = .next (s.faults cBundle 0) ∧
       exec (.eret c) s = .next (s.faults cBundle 0) ∧ exec (.brk c m) s = .next (s.faults cBundle 0) ∧
       exec (.sleep c) s = .next (s.faults cBundle 0) ∧ exec (.evpop c a) s = .next (s.faults cBundle 0) ∧
       (s.cur < 96 →
         exec (.endTask c) s = .next (s.faults cBundle 0) ∧ exec (.yield c) s = .next (s.faults cBundle 0))))

/-- 05 R122 R123 R124: LOOPSET reads the headers of its body, then makes the checks of the rule in order; a count of 0 skips the body, any other
opens a level with its count and bounds. LOOPBRK k sets the count of the innermost k levels to 1 and leaves the others; a k above ldepth raises
ILLEGAL_FIELD. At the end of a body whose last bundle is `last`, the innermost level that ends there loses 1 from its count and returns to the top
of its body while it repeats; one that does not closes, and the next whose body ends there follows. -/
def Obligations.Loops : Prop :=
  (∀ (s u : State) (c : Ctl) (a n : BitVec 6) (last after : Word), s.ReadyXfer c [.s a.toNat] →
     s.readBody (n.toNat + 1) s.me.pc s.me.pc = .ok u (last, after) →
     let x := s.rs a
     let outside : Prop := ∃ l ∈ s.me.loops, l.last.toNat < last.toNat
     (2 ^ 32 ≤ x.toNat → exec (.loopset c a n) s = .next (u.faults cField 0)) ∧
     (x.toNat < 2 ^ 32 → (6 ≤ s.me.loops.length ∨ outside) → exec (.loopset c a n) s = .next (u.faults cBundle 0)) ∧
     (x.toNat < 2 ^ 32 → s.me.loops.length < 6 → ¬ outside →
       (x = 0 → exec (.loopset c a n) s = .next (u.setMe { u.me with pc := after, skip := some last }).issues) ∧
       (x ≠ 0 → exec (.loopset c a n) s =
         .next (u.setMe { u.me with
           loops := { lc := BitVec.ofNat 32 x.toNat, first := s.me.pc, last := last } :: u.me.loops }).issues))) ∧
  ((∀ (s : State) (c : Ctl) (k : BitVec 3), s.ReadyXfer c [] →
      (s.me.loops.length < k.toNat → exec (.loopbrk c k) s = .next (s.faults cField 0)) ∧
      (k.toNat ≤ s.me.loops.length →
        ∃ t, exec (.loopbrk c k) s = .next t ∧ t.res = .issued ∧ t.me = { s.me with loops := t.me.loops } ∧
          t.me.loops.length = s.me.loops.length ∧
          ∀ j l, s.me.loops[j]? = some l → t.me.loops[j]? = some (if j < k.toNat then { l with lc := 1 } else l))) ∧
   (∀ (l : Loop) (r : List Loop) (last : Word),
      loopEnd [] last = ([], none) ∧
      (l.last ≠ last → loopEnd (l :: r) last = (l :: r, none)) ∧
      (l.last = last → 1 < l.lc.toNat → loopEnd (l :: r) last = ({ l with lc := l.lc - 1 } :: r, some l.first)) ∧
      (l.last = last → l.lc.toNat ≤ 1 → loopEnd (l :: r) last = loopEnd r last)))

/-- 05 R128 to R135: END ends the task's issue; WAITT issues once time has reached s[A]; WAIT once the phase bit equals s[B][0]; TRAP
raises SOFTWARE_TRAP with its code; BRK stops an agent whose debug is enabled and else does nothing; YIELD asks for the task to be stopped
where work displaces it in free-issue mode, and else does nothing. -/
def Obligations.TaskInstructions : Prop :=
  ∀ (s : State) (c : Ctl) (a b : BitVec 6) (n : BitVec 7), s.ReadyBr c [] →
    (s.cur < 96 → s.GuardTagged c → s.me.missed = false →
      exec (.endTask c) s = .next (s.setMe { s.me with run := .ended, empties := 0 }).issues) ∧
    (s.Full [.s a.toNat] → (s.rs a).toNat ≤ s.timeAt s.me.issued → exec (.waitt c a) s = .next s.issues) ∧
    (∀ u bs, s.Full [.s a.toNat, .s b.toNat] → (s.rs a).toNat % 16 = 0 → (s.rs a).toNat < 2 ^ 56 →
      s.watchLate (s.rs a).toNat = false → s.loadMine (s.rs a).toNat 8 = .ok u bs →
      (BitVec.ofNat 64 (ofBytes bs)).getLsbD 63 = (s.rs b).getLsbD 0 → exec (.wait c a b) s = .next u.issues) ∧
    (s.Full [.s a.toNat, .s b.toNat] →
      (2 ^ 56 ≤ (s.rs a).toNat → exec (.wait c a b) s = .next (s.faults cLoad (s.rs a))) ∧
      ((s.rs a).toNat < 2 ^ 56 → (s.rs a).toNat % 16 ≠ 0 → exec (.wait c a b) s = .next (s.faults cAlign (s.rs a)))) ∧
    exec (.trap c n) s = .next (s.faults cTrap (n.zeroExtend 64)) ∧
    (s.dbgEn.getLsbD (dieOf s.cur) = true → exec (.brk c n) s = .next (s.setMe { s.me with run := .broken, brk := some n }).issues) ∧
    (s.dbgEn.getLsbD (dieOf s.cur) = false → exec (.brk c n) s = .next s.issues) ∧
    (s.cur < 96 →
      (∀ t, s.myCore.task = some t → s.stamped = false → s.yields t = true → 72 < (s.die t.die).freeSlots → t.stopAsked = none →
        exec (.yield c) s = .next (s.setCore s.cur { s.myCore with task := some { t with stopAsked := some causeYield } }).issues) ∧
      ((∀ t, s.myCore.task = some t → s.stamped = true ∨ s.yields t = false) → exec (.yield c) s = .next s.issues))

/-- 05 R132 R134 R137 on control cores and the management controller: SLEEP issues once something is pending; ERET clears CAUSE.INH,
restores the loop levels set aside and goes on at epc; EVPOP takes the oldest event record, or gives all ones. -/
def Obligations.SystemInstructions : Prop :=
  ∀ (s : State) (c : Ctl) (d : BitVec 6), s.ReadyBr c [] →
    (96 ≤ s.cur →
      exec (.eret c) s =
        .next (s.setMe { s.me with inh := false, loops := s.me.setAside, setAside := [], pc := s.me.epc, empties := 0, lbuf := [], back := true }).issues) ∧
    (s.cur < 96 → exec (.eret c) s = .next (s.faults cPriv 0)) ∧
    (100 ≤ s.cur → s.irqs ≠ [] → exec (.sleep c) s = .next s.issues) ∧
    (∀ x, x = s.die (dieOf s.cur) → 96 ≤ s.cur → s.cur < 100 →
      (x.evqhead ≠ x.evqtail → exec (.sleep c) s = .next s.issues) ∧
      (s.Full [.s d.toNat] →
        (x.evqhead = x.evqtail → GivesS s d 1 (.evpop c d) (BitVec.allOnes 64)) ∧
        (x.evqhead ≠ x.evqtail →
          ∃ t, exec (.evpop c d) s = .next t ∧ t.res = .issued ∧
            t.agents = (s.wrote (.s d.toNat) (.w (x.evqhead.zeroExtend 64)) 0 1).agents ∧
            t.die (dieOf s.cur) = { x with evqhead := x.evqhead + 1 } ∧ t.mem = s.mem)))

/-- 05 R136 with 01 R19 R21 R22 R26 R27 R28 R33: MFSR reads each special register of the acting agent, zero-extended but for qscale; a running
task reads its fault registers as 0. MTSR writes each writable special register as its layout says, ignores a write to one that is read-only,
and raises PRIVILEGE for mxcad and tallow. That a flag set in a later cycle than the write stands too is the model's reading (log 46). -/
def Obligations.SpecialRegisters : Prop :=
  (∀ (s : State) (c : Ctl) (d : BitVec 6), s.Ready c [.s d.toNat] →
     let a := s.me
     let k := s.myCore
     let x := s.die (dieOf s.cur)
     let reads (n : Nat) (v : Word) : Prop := GivesS s d 1 (.mfsr c d (BitVec.ofNat 6 n)) v
     reads 8 (BitVec.ofNat 64 (s.timeAt a.issued)) ∧ reads 9 (BitVec.ofNat 64 a.issued) ∧ reads 12 a.lsbase ∧
     reads 13 (a.spill.zeroExtend 64 * 256 + BitVec.ofNat 64 a.links.length) ∧ reads 22 (BitVec.ofNat 64 s.cur) ∧
     reads 23 (s.chipid.zeroExtend 64) ∧ reads 30 (BitVec.ofNat 64 a.loops.length) ∧
     (∀ j, j < 6 → reads (24 + j) (((a.loops.reverse[j]?).map fun l => l.lc.zeroExtend 64).getD 0)) ∧
     (s.cur < 96 →
       reads 14 0 ∧ reads 15 0 ∧ reads 16 0 ∧ reads 17 0 ∧ reads 18 (s.qNow.signExtend 64) ∧ reads 19 (k.status.zeroExtend 64) ∧
       reads 20 (k.cad.zeroExtend 64) ∧ reads 21 (k.tallow.zeroExtend 64) ∧
       ∀ t, k.task = some t →
         reads 0 (BitVec.ofNat 64 t.tidx) ∧ (∀ j, j < 6 → reads (1 + j) (BitVec.ofNat 64 (t.coords.getD j 0))) ∧
         reads 7 (BitVec.ofNat 64 t.launch) ∧ reads 11 (t.mode.zeroExtend 64) ∧
         (t.mode.getLsbD 0 = false → reads 10 0) ∧
         (t.mode.getLsbD 0 = true → reads 10 (BitVec.ofNat 64 ((a.issued - t.origin) % t.frameLen)))) ∧
     (96 ≤ s.cur →
       reads 14 (a.faultcode.zeroExtend 64) ∧ reads 15 a.faultpc ∧ reads 16 a.faultsrc ∧ reads 17 a.faultaddr ∧
       reads 32 (x.evqhead.zeroExtend 64) ∧ reads 33 (x.evqtail.zeroExtend 64) ∧ reads 34 a.trapvec ∧ reads 35 a.epc ∧
       ∃ v : Word, reads 36 v ∧ v.toNat = a.code.toNat + (if a.inh then 256 else 0) + (if a.ext then 512 else 0))) ∧
  (∀ (s : State) (c : Ctl) (a : BitVec 6), s.Ready c [.s a.toNat] →
     let x := s.rs a
     let writes (n : Nat) (t : State) : Prop := exec (.mtsr c (BitVec.ofNat 6 n) a) s = .next t.issues
     let low3 : Word := (x >>> 3) <<< 3
     writes 12 (s.setMe { s.me with lsbase := low3 }) ∧
     (∀ n ∈ [0, 1, 2, 3, 4, 5, 6, 7, 8, 9, 10, 11, 13, 14, 15, 16, 17, 22, 23, 24, 25, 26, 27, 28, 29, 30, 33], writes n s) ∧
     exec (.mtsr c 20 a) s = .next (s.faults cPriv 0) ∧ exec (.mtsr c 21 a) s = .next (s.faults cPriv 0) ∧
     writes 34 (s.setMe { s.me with trapvec := low3 }) ∧ writes 35 (s.setMe { s.me with epc := x }) ∧
     writes 36 (s.setMe { s.me with code := x.setWidth 8, inh := x.getLsbD 8, ext := x.getLsbD 9 }) ∧
     (∃ t, writes 18 t ∧ t.me = s.me ∧ t.myCore.qscale = x.setWidth 8 ∧
       t.myCore.qpend = s.myCore.qpend.filter fun p => decide (s.me.issued < p.1)) ∧
     (∃ t, writes 19 t ∧ t.me = s.me ∧
       ∀ j, j < 8 → t.myCore.status.getLsbD j =
         (s.myCore.status.getLsbD j && (!x.getLsbD j || decide (s.me.issued + 1 ≤ s.myCore.flagAt.get 0 j)))) ∧
     (∀ y, y = s.die (dieOf s.cur) →
       ((y.evqtail - x.setWidth 32).toNat ≤ (y.evqtail - y.evqhead).toNat →
         writes 32 (s.setDie (dieOf s.cur) { y with evqhead := x.setWidth 32 })) ∧
       ((y.evqtail - y.evqhead).toNat < (y.evqtail - x.setWidth 32).toNat → writes 32 s)))

/-- 01 R31 R32, with 05 R125: a fault of a control core or the management controller whose CAUSE.INH is 0 writes the four fault registers,
saves the address of the bundle in epc, sets CODE and INH, clears EXT, sets the loop levels aside and goes to trapvec; with INH 1 it halts, a
control core with source 0x04 and its die's bit, the management controller with its endpoint silent; ERET clears INH and goes on at epc, with
the loop levels as they were; on a tile core the task ends, its fault registers holding the fault. The management controller takes its lowest pending source only with
CAUSE.INH 0 and between bundles; CODE takes the source number, EXT and INH become 1, epc takes the address of the next bundle, and the pc
becomes trapvec; where it may not, nothing changes, as is the model's choice of every event that is not enabled (log 15). That the halting fault writes the four fault registers is the model's reading (log 20); that an entry drops the lines of code
fetched so far is its choice (log 9). -/
def Obligations.ExceptionEntry : Prop :=
  (∀ (s : State) (code : BitVec 8) (addr : Word), s.me.flight = [] →
     let t := s.faults code addr
     let noted : Agent := { s.me with faultcode := code, faultpc := s.me.bundle, faultsrc := s.me.bundle, faultaddr := addr }
     t.res = .faulted ∧
     (96 ≤ s.cur → s.me.inh = false →
       t.me = { noted with epc := s.me.bundle, code := code, ext := false, inh := true, pc := s.me.trapvec, setAside := s.me.loops
                           loops := [], empties := 0, delay := none, xfer := none, tried := none, asleep := false, lbuf := []
                           lines := [], stale := [], staleNext := [] }) ∧
     (96 ≤ s.cur → s.me.inh = true →
       t.me = { noted with run := .halted, empties := 0, delay := none, xfer := none, tried := none } ∧
       (s.cur < 100 → t.cfHalt = s.cfHalt ||| BitVec.ofNat 4 (2 ^ (s.cur - 96)) ∧ 4 ∈ t.irqs) ∧ (s.cur = 100 → t.endpointUp = false) ∧
       ∀ n, n ≠ s.cur → t.agent n = s.agent n) ∧
     (s.cur < 96 → t.me = { noted with run := .faulted, empties := 0, delay := none, xfer := none, tried := none, waitFrom := none }) ∧
     t.mem = s.mem) ∧
  (∀ (s : State) (c : Ctl), 96 ≤ s.cur → s.ReadyBr c [] →
     exec (.eret c) s =
       .next (s.setMe { s.me with inh := false, loops := s.me.setAside, setAside := [], pc := s.me.epc, empties := 0, lbuf := [], back := true }).issues) ∧
  (∀ (s : State) (n : Nat) (r : List Nat), s.irqs = n :: r →
     let a := s.agent 100
     ((a.run = .running ∧ a.inh = false ∧ a.delay = none ∧ a.empties = 0 ∧ a.pend = none ∧ a.asleep = false ∧
         s.paused = false) →
       ∃ t, exec .interruptEntry s = .next t ∧ t.res = .issued ∧
         t.agent 100 = { a with epc := a.pc, ext := true, inh := true, code := BitVec.ofNat 8 n, pc := a.trapvec, setAside := a.loops
                                loops := [], xfer := none, tried := none, lbuf := [], lines := [], stale := [], staleNext := [] } ∧
         (∀ k, k ≠ 100 → t.agent k = s.agent k) ∧ t.mem = s.mem) ∧
     (a.inh = true ∨ s.paused = true → exec .interruptEntry s = .next s.issues))

/-! ### The MS slot (07) -/

/-- 07 R169: LD moves one element, sign-extended, into s[D], which is empty until it arrives; ST writes the low w bits of s[D] to the address, lowest
byte first, and leaves the copies of caches as its hint asks (07 R178); a task's access goes through its translation, a control core's or the management controller's to the physical address. LDL and STL do the
same on the scratchpad: LDL's latency is 6, and the first touch of a region line fills it (07 R172); one that meets an uncorrectable word raises
ECC_UNCORRECTABLE with its local offset, deferred (11 R307), once its record has room; that its register stays full, as it was, and what the word's
address is are the model's readings (logs 43 and 83). An access that waits, on a page or for the task's side log, is not stated here. That a load of global memory is performed in the
step that issues it, and fills its register at any later time, is the model's choice (log 3). -/
def Obligations.ScalarAccesses : Prop :=
  ((∀ (s u : State) (c : Ctl) (t : Ty) (d a : BitVec 6) (disp : BitVec 18), t.isInt = true → s.Ready c [.s a.toNat, .s d.toNat] →
      let addr := s.rs a + disp.signExtend 64
      let n := t.width / 8
      GoodAddr n addr →
      (∀ pa attr, s.cur < 96 → s.myCore.slog = [] → s.reach s.issuer .read addr.toNat n = .ok u (pa, attr) →
        let hit := u.blockHit addr.toNat && c.ch != 3
        (s.stamped = true → s.missesClass addr.toNat pa hit = false) →
        let w := (u.countOnce u.cur c.ch s.myCore.hintcnt [attr]).cacheLoad u.issuer addr.toNat pa attr c.ch
        exec (.ld c t d a disp) s =
          .next (w.produceLoad (.s d.toNat) (.w ((BitVec.ofNat t.width (ofBytes (u.physBytes pa n))).signExtend 64))
            (w.arrivesAt (if hit then 14 else if s.stamped then u.declared pa else 0))).issues) ∧
      (∀ bs, 96 ≤ s.cur → s.physLoad c.ch addr.toNat n = .ok u bs →
        exec (.ld c t d a disp) s =
          .next (u.produceLoad (.s d.toNat) (.w ((BitVec.ofNat t.width (ofBytes bs)).signExtend 64)) none).issues)) ∧
   (∀ (s u : State) (c : Ctl) (t : Ty) (d a : BitVec 6) (disp : BitVec 18), t.isInt = true → s.Ready c [.s a.toNat, .s d.toNat] →
      let addr := s.rs a + disp.signExtend 64
      let n := t.width / 8
      let bs := toBytes (s.rs d).toNat n
      GoodAddr n addr →
      (∀ pa attr, s.cur < 96 → s.stamped = false → s.myCore.slog = [] → s.reach s.issuer .write addr.toNat n = .ok u (pa, attr) →
        let v := ((u.physWrite pa bs).cacheStore s.issuer addr.toNat pa attr c.ch).countOnce s.cur c.ch s.myCore.hintcnt [attr]
        exec (.st c t d a disp) s = .next v.storeSink.issues) ∧
      (96 ≤ s.cur → s.physStore c.ch addr.toNat bs = .ok u () → exec (.st c t d a disp) s = .next u.issues))) ∧
  (∀ (s u : State) (c : Ctl) (t : Ty) (d a : BitVec 6) (disp : BitVec 18), t.isInt = true → s.ReadyTile c [.s a.toNat, .s d.toNat] →
     let addr := s.rs a + disp.signExtend 64
     let n := t.width / 8
     GoodLocal n addr → s.localLogged n [addr.toNat] = false → s.fillLines s.cur [addr.toNat] = .ok u () →
     (s.localWaits false n [addr.toNat] = false → (s.stamped = true → s.myCore.unfilled addr.toNat = false) →
       (u.myCore.badWord .pad addr.toNat n = none →
         exec (.ldl c t d a disp) s =
           .next (u.wrote (.s d.toNat)
             (.w ((BitVec.ofNat t.width (ofBytes (bytesAt u.myCore.scratch addr.toNat n))).signExtend 64)) 0 6)) ∧
       (∀ w, u.myCore.badWord .pad addr.toNat n = some w → u.canPost (dieOf u.issuer.agent) = true →
         exec (.ldl c t d a disp) s =
           .next ((u.noteLoss u.issuer (windowAddr u.cur w)).deferMe cEcc addr.toNat).issues)) ∧
     (s.localWaits true n [addr.toNat] = false →
       exec (.stl c t d a disp) s = .next ((u.putLocal [(addr.toNat, toBytes (s.rs d).toNat n)]).storeSink).issues))

/-- 07 R167 R170 R171: the vector loads of global memory read each active element at its own address, in ascending order, each through its
own translation in turn and with its bytes as they stand then, and leave the others as they were; with no active element they access
nothing, and the register is filled with what it held (06 R143), in stamped mode in the issue cycle, which is the model's choice (log 34). The step from element to element is stated for one whose hint no page overrides. That a load without a fixed latency lands when it is performed is the model's choice (log 3). -/
def Obligations.VectorLoads : Prop :=
  (∀ (s u : State) (c : Ctl) (t : Ty) (d a b : BitVec 6) (disp : BitVec 18) (es : List LoadElem),
     s.ReadyLanes c [.v d.toNat, .s a.toNat] → s.myCore.slog = [] →
     let n := t.width / 8
     let lanes := s.activeElems c t
     let runs (addr : Nat → Word) (i : Instr) : Prop :=
       (∀ k ∈ lanes, GoodAddr n (addr k)) → s.loadElems c.ch n (lanes.map fun k => (addr k).toNat) = .ok u es →
         (∀ e ∈ es, e.missed = false) →
         ∃ v : VWord, LoadedInto s c t d (es.map (·.bytes)) v ∧
           exec i s =
             .next (u.produceLoad (.v d.toNat) (.r v) (u.arrivesAt ((es.map (·.lat)).foldl max 0))).issues
     runs (fun k => s.rs a + disp.signExtend 64 + BitVec.ofNat 64 (k * n)) (.vld c t d a disp) ∧
     (s.Full [.s b.toNat] → runs (fun k => s.rs a + BitVec.ofNat 64 k * s.rs b) (.vlds c t false d a b)) ∧
     (s.Full [.v b.toNat] → runs (fun k => s.rs a + BitVec.ofNat 64 (elemOf (s.rv b) t.width k * n)) (.vldx c t false d a b))) ∧
  (∀ (s u v : State) (h : BitVec 2) (n a : Nat) (r : List Nat) (pa attr : Nat) (es : List LoadElem), s.stamped = false →
     s.loadElems h n [] = .ok s [] ∧
     (s.reach s.issuer .read a n = .ok u (pa, attr) → hintOver h attr = false →
       let w := u.cacheLoad u.issuer a pa attr h
       w.stamped = false → w.myCore.hintcnt = s.myCore.hintcnt → w.loadElems h n r = .ok v es →
       ∃ e, s.loadElems h n (a :: r) = .ok v (e :: es) ∧ e.bytes = u.physBytes pa n ∧ e.attr = attr ∧ e.missed = false))

/-- 07 R167 R170 R171 R178: the vector stores put the bytes of each active element of v[D] at its own address, in ascending order, each through
its own translation in turn, and a home-bypass store drops the copies of its line. The step from element to element is stated for one whose hint no
page overrides. -/
def Obligations.VectorStores : Prop :=
  (∀ (s u : State) (c : Ctl) (t : Ty) (d a b : BitVec 6) (disp : BitVec 18) (attrs : List Nat),
    s.ReadyLanes c [.v d.toNat, .s a.toNat] → s.myCore.slog = [] → s.stamped = false →
    let n := t.width / 8
    let lanes := s.activeElems c t
    let runs (addr : Nat → Word) (i : Instr) : Prop :=
      (lanes = [] → exec i s = .next s.issues) ∧
      (lanes ≠ [] → (∀ k ∈ lanes, GoodAddr n (addr k)) →
        let es := lanes.map fun k => ((addr k).toNat, elemBytesOf s t d k)
        s.performOp s.issuer c.ch (.store es) = .ok u attrs →
        exec i s = .next u.storeSink.issues)
    runs (fun k => s.rs a + disp.signExtend 64 + BitVec.ofNat 64 (k * n)) (.vst c t d a disp) ∧
    (s.Full [.s b.toNat] → runs (fun k => s.rs a + BitVec.ofNat 64 k * s.rs b) (.vsts c t false d a b)) ∧
    (s.Full [.v b.toNat] → runs (fun k => s.rs a + BitVec.ofNat 64 (elemOf (s.rv b) t.width k * n)) (.vstx c t false d a b))) ∧
  (∀ (s u v : State) (i : Issuer) (h : BitVec 2) (a : Nat) (bs : List Byte) (r : List (Nat × List Byte)) (pa attr : Nat) (attrs : List Nat),
     s.performOp i h (.store []) = .ok s [] ∧
     (s.reach i .write a bs.length = .ok u (pa, attr) → hintOver h attr = false →
       let w := (u.physWrite pa bs).cacheStore i a pa attr h
       (w.core i.agent).hintcnt = (s.core i.agent).hintcnt → w.performOp i h (.store r) = .ok v attrs →
       s.performOp i h (.store ((a, bs) :: r)) = .ok v (attr :: attrs)) ∧
     (∀ code x, s.reach i .write a bs.length = .fail u code x → s.performOp i h (.store ((a, bs) :: r)) = .fail u code x))

/-- 07 R170 R171 R172: the vector forms of the scratchpad, with latency 6, or 8 for the strided and indexed loads, where no element loaded
is uncorrectable. -/
def Obligations.VectorLocal : Prop :=
  ∀ (s u : State) (c : Ctl) (t : Ty) (d a b : BitVec 6) (disp : BitVec 18), s.ReadyLanes c [.v d.toNat, .s a.toNat] →
    s.stamped = false →
    let n := t.width / 8
    let lanes := s.activeElems c t
    let runs (lat : Nat) (addr : Nat → Word) (load store : Instr) : Prop :=
      let as := lanes.map fun k => (addr k).toNat
      (lanes = [] → exec store s = .next s.issues) ∧
      ((∀ k ∈ lanes, GoodLocal n (addr k)) → s.localLogged n as = false → s.fillLines s.cur as = .ok u () →
        (s.localWaits false n as = false → (∀ x ∈ as, u.myCore.badWord .pad x n = none) →
          ∃ v : VWord, LoadedInto s c t d (as.map fun x => bytesAt u.myCore.scratch x n) v ∧
            exec load s = .next (u.wrote (.v d.toNat) (.r v) 0 lat)) ∧
        (lanes ≠ [] → s.localWaits true n as = false →
          exec store s = .next ((u.putLocal (lanes.map fun k => ((addr k).toNat, elemBytesOf s t d k))).storeSink).issues))
    runs 6 (fun k => s.rs a + disp.signExtend 64 + BitVec.ofNat 64 (k * n)) (.vldl c t d a disp) (.vstl c t d a disp) ∧
    (s.Full [.s b.toNat] →
      runs 8 (fun k => s.rs a + BitVec.ofNat 64 k * s.rs b) (.vlds c t true d a b) (.vsts c t true d a b)) ∧
    (s.Full [.v b.toNat] →
      runs 8 (fun k => s.rs a + BitVec.ofNat 64 (elemOf (s.rv b) t.width k * n)) (.vldx c t true d a b) (.vstx c t true d a b))

/-- 07 R166 R167 R192 with 05 R138: an address with bits [63:56] set is a LOAD_FAULT, or a STORE_FAULT of stores and atomics, and comes before
ALIGN; a scratchpad byte above 0x17_FFFF is LOCAL_RANGE; each names the address, of a vector access that of the lowest-numbered active element that
fails. That LOCAL_RANGE too comes before ALIGN is the order of R166's table. -/
def Obligations.AddressChecks : Prop :=
  ((∀ (s : State) (c : Ctl) (t : Ty) (d a : BitVec 6) (disp : BitVec 18), s.Ready c [.s a.toNat, .s d.toNat] →
    let addr := s.rs a + disp.signExtend 64
    let n := t.width / 8
    (2 ^ 56 ≤ addr.toNat →
      exec (.ld c t d a disp) s = .next (s.faults cLoad addr) ∧ exec (.st c t d a disp) s = .next (s.faults cStore addr)) ∧
    (addr.toNat < 2 ^ 56 → addr.toNat % n ≠ 0 →
      exec (.ld c t d a disp) s = .next (s.faults cAlign addr) ∧ exec (.st c t d a disp) s = .next (s.faults cAlign addr)) ∧
    (s.cur < 96 →
      (0x180000 < addr.toNat + n →
        exec (.ldl c t d a disp) s = .next (s.faults cLocal addr) ∧ exec (.stl c t d a disp) s = .next (s.faults cLocal addr)) ∧
      (addr.toNat + n ≤ 0x180000 → addr.toNat % n ≠ 0 →
        exec (.ldl c t d a disp) s = .next (s.faults cAlign addr) ∧ exec (.stl c t d a disp) s = .next (s.faults cAlign addr)))) ∧
   (∀ (s : State) (c : Ctl) (t : Ty) (k : Cond) (d a b x : BitVec 6), s.Ready c [.s a.toNat, .s b.toNat, .s x.toNat, .s d.toNat] →
      let addr := s.rs a
      let checks (n : Nat) (code : BitVec 8) (i : Instr) : Prop :=
        (2 ^ 56 ≤ addr.toNat → exec i s = .next (s.faults code addr)) ∧
        (addr.toNat < 2 ^ 56 → addr.toNat % n ≠ 0 → exec i s = .next (s.faults cAlign addr))
      let atomic (i : Instr) : Prop := t = .i32 ∨ t = .i64 → checks (t.width / 8) cStore i
      atomic (.aadd c t d a b) ∧ atomic (.amin c t d a b) ∧ atomic (.amax c t d a b) ∧ atomic (.aand c t d a b) ∧ atomic (.aor c t d a b) ∧
      atomic (.axor c t d a b) ∧ atomic (.axchg c t d a b) ∧ atomic (.acas c t d a b x) ∧
      (d.toNat % 2 = 0 → b.toNat % 2 = 0 → s.Full [.s (b.toNat + 1), .s (d.toNat + 1)] → checks 16 cStore (.aaddw c d a b)) ∧
      checks 8 cLoad (.waitmem c k d a b x) ∧ checks 16 cStore (.barinit c a b) ∧ checks 16 cStore (.bararr c d a b))) ∧
  (∀ (s : State) (c : Ctl) (t : Ty) (d a b op : BitVec 6) (disp : BitVec 18) (k : Nat), s.ReadyLanes c [.v d.toNat, .s a.toNat] →
     k ∈ s.activeElems c t →
     let n := t.width / 8
     let line (j : Nat) : Word := s.rs a + disp.signExtend 64 + BitVec.ofNat 64 (j * n)
     let stride (j : Nat) : Word := s.rs a + BitVec.ofNat 64 j * s.rs b
     let index (j : Nat) : Word := s.rs a + BitVec.ofNat 64 (elemOf (s.rv b) t.width j * n)
     let outside (code : BitVec 8) (addr : Nat → Word) (i : Instr) : Prop :=
       ¬ GoodAddr n (addr k) → (∀ j ∈ s.activeElems c t, j < k → GoodAddr n (addr j)) →
         exec i s = .next (s.faults (if 2 ^ 56 ≤ (addr k).toNat then code else cAlign) (addr k))
     let offPad (addr : Nat → Word) (i : Instr) : Prop :=
       ¬ GoodLocal n (addr k) → (∀ j ∈ s.activeElems c t, j < k → GoodLocal n (addr j)) →
         exec i s = .next (s.faults (if 0x180000 < (addr k).toNat + n then cLocal else cAlign) (addr k))
     outside cLoad line (.vld c t d a disp) ∧ outside cStore line (.vst c t d a disp) ∧
     offPad line (.vldl c t d a disp) ∧ offPad line (.vstl c t d a disp) ∧
     (s.Full [.s b.toNat] →
       outside cLoad stride (.vlds c t false d a b) ∧ outside cStore stride (.vsts c t false d a b) ∧
       offPad stride (.vlds c t true d a b) ∧ offPad stride (.vsts c t true d a b)) ∧
     (s.Full [.v b.toNat] →
       outside cLoad index (.vldx c t false d a b) ∧ outside cStore index (.vstx c t false d a b) ∧
       offPad index (.vldx c t true d a b) ∧ offPad index (.vstx c t true d a b) ∧
       (disp = 0 → outside cStore line (.ared c t a b op))))

/-- 07 R189 R190: a scalar atomic puts its new value at the address and, where D is not 0, its old value, sign-extended, into s[D]; AADDW adds
{s[B+1], s[B]} into the 16 bytes at s[A] modulo 2^128 and, where D is not 0, leaves the old value in {s[D+1], s[D]}. 07 R191: ARED performs one
non-returning atomic for each active element of v[B], in ascending order, at s[A] plus its offset; on f32 its minimum and maximum are minimumNumber
and maximumNumber (02 R45: -0 below +0, a number rather than a NaN, and two NaNs give the canonical one), on integers of `w` bits its operations are those of the table, and its page has to be writable only (11 R297).
That an atomic is performed in the step that issues it, and fills its register at any later time, is the model's choice (log 3). -/
def Obligations.Atomics : Prop :=
  ((∀ (s u : State) (c : Ctl) (t : Ty) (d a b x : BitVec 6) (pa attr : Nat), t = .i32 ∨ t = .i64 →
      s.Ready c [.s a.toNat, .s b.toNat, .s x.toNat, .s d.toNat] → s.stamped = false → (s.cur < 96 → s.myCore.slog = []) →
      (96 ≤ s.cur → s.cur < 100 → placeOf (s.rs a).toNat ≠ .sram) →
      let w := t.width
      let n := w / 8
      GoodAddr n (s.rs a) → s.reach s.issuer .both (s.rs a).toNat n = .ok u (pa, attr) →
      let old : BitVec w := BitVec.ofNat w (u.physWord pa n)
      let y : BitVec w := (s.rs b).setWidth w
      let z : BitVec w := (s.rs x).setWidth w
      let gives (i : Instr) (new : BitVec w) : Prop :=
        let v := (u.physWrite pa (toBytes new.toNat n)).storeSink
        exec i s = .next (if d = 0 then v.issues else (v.produceLoad (.s d.toNat) (.w (old.signExtend 64)) none).issues)
      gives (.aadd c t d a b) (old + y) ∧ gives (.amin c t d a b) (if old.toInt ≤ y.toInt then old else y) ∧
      gives (.amax c t d a b) (if y.toInt ≤ old.toInt then old else y) ∧ gives (.aand c t d a b) (old &&& y) ∧
      gives (.aor c t d a b) (old ||| y) ∧ gives (.axor c t d a b) (old ^^^ y) ∧ gives (.axchg c t d a b) y ∧
      gives (.acas c t d a b x) (if old = z then y else old)) ∧
   (∀ (s u : State) (c : Ctl) (d a b : BitVec 6) (pa attr : Nat), d.toNat % 2 = 0 → b.toNat % 2 = 0 →
      s.Ready c [.s a.toNat, .s b.toNat, .s (b.toNat + 1), .s d.toNat, .s (d.toNat + 1)] → s.stamped = false →
      (s.cur < 96 → s.myCore.slog = []) → (96 ≤ s.cur → s.cur < 100 → placeOf (s.rs a).toNat ≠ .sram) → GoodAddr 16 (s.rs a) →
      s.reach s.issuer .both (s.rs a).toNat 16 = .ok u (pa, attr) →
      let old := u.physWord pa 16
      let v := (u.physWrite pa
        (toBytes ((old + ((s.rs b).toNat + 2 ^ 64 * (s.src.rs (b.toNat + 1)).toNat)) % 2 ^ 128) 16)).storeSink
      exec (.aaddw c d a b) s = .next (if d = 0 then v.issues
        else ((v.produceLoad (.s d.toNat) (.w (BitVec.ofNat 64 old)) none).produceLoad (.s (d.toNat + 1))
          (.w (BitVec.ofNat 64 (old / 2 ^ 64))) none).issues))) ∧
  ((∀ (s u : State) (c : Ctl) (t : Ty) (a b op : BitVec 6) (olds : List Nat),
      t = .i32 ∨ t = .i64 ∨ (t = .f32 ∧ (op = 1 ∨ op = 2)) → op.toNat < 8 → s.ReadyLanes c [.v b.toNat, .s a.toNat] →
      s.myCore.slog = [] → s.stamped = false →
      let n := t.width / 8
      let lanes := s.activeElems c t
      let addr (k : Nat) : Word := s.rs a + BitVec.ofNat 64 (k * n)
      let opn : Nat := aRed + if t = .f32 then (if op = 1 then aFmin else aFmax) else op.toNat
      (lanes = [] → exec (.ared c t a b op) s = .next s.issues) ∧
      (lanes ≠ [] → (∀ k ∈ lanes, GoodAddr n (addr k)) →
        s.performOp s.issuer 0
          (.atomic opn n (lanes.map fun k => ((addr k).toNat, BitVec.ofNat 64 (elemOf (s.rv b) t.width k), 0))) = .ok u olds →
        exec (.ared c t a b op) s = .next u.storeSink.issues)) ∧
   (∀ (s u : State) (i : Issuer) (opn n a pa attr : Nat) (b : Word), opn < aRed → n < 16 → s.reach i .red a n = .ok u (pa, attr) →
      let old := u.physWord pa n
      s.atomicAt i (aRed + opn) n a b 0 = .ok (u.physWrite pa (toBytes (atomicNew opn (8 * n) old b.toNat 0) n)) old) ∧
   (∀ (w x y : Nat), 0 < w → x < 2 ^ w → y < 2 ^ w →
      let sgn (z : Nat) : Int := (BitVec.ofNat w z).toInt
      atomicNew 0 w x y 0 = (x + y) % 2 ^ w ∧ atomicNew 1 w x y 0 = (if sgn x ≤ sgn y then x else y) ∧
      atomicNew 2 w x y 0 = (if sgn y ≤ sgn x then x else y) ∧ atomicNew 3 w x y 0 = x &&& y ∧
      atomicNew 4 w x y 0 = x ||| y ∧ atomicNew 5 w x y 0 = x ^^^ y ∧ atomicNew 6 w x y 0 = min x y ∧
      atomicNew 7 w x y 0 = max x y) ∧
   (∀ (x y : Nat), x < 2 ^ 32 → y < 2 ^ 32 →
      let p := f32.decode x
      let q := f32.decode y
      let lo := atomicNew aFmin 32 x y 0
      let hi := atomicNew aFmax 32 x y 0
      (p.isNan = true → q.isNan = true → lo = 0x7FC00000 ∧ hi = 0x7FC00000) ∧
      (p.isNan = true → q.isNan = false → lo = y ∧ hi = y) ∧ (p.isNan = false → q.isNan = true → lo = x ∧ hi = x) ∧
      (p.isNan = false → q.isNan = false →
        let below (a b : Machine.Num) : Prop := a.lt b = true ∨ (a.eqv b = true ∧ a.sign = true ∧ b.sign = false)
        (below p q → lo = x ∧ hi = y) ∧ (below q p → lo = y ∧ hi = x) ∧ (¬ below p q → ¬ below q p → lo = x ∧ hi = x))))

/-- 07 R193 R194: BARINIT puts word 0 at 0 and word 1 at {0, s[B][62:0]} as one store of 16 bytes; BARARR arrives with s[B][62:0], or with
1 where B is 0, and where D is not 0 leaves the old word 0 in s[D]. An arrival of x adds x to the count modulo 2^63; where the target is not
0 and is reached, the phase flips and the target is taken off the count; it answers the old word, and writes word 0 alone. That BARINIT and BARARR are
performed in the step that issues them, and s[D] is filled at any later time, is the model's choice (log 3). -/
def Obligations.BarrierInstructions : Prop :=
  (∀ (s u : State) (c : Ctl) (d a b : BitVec 6), s.Ready c [.s a.toNat, .s b.toNat, .s d.toNat] → s.stamped = false →
     (s.cur < 96 → s.myCore.slog = []) → GoodAddr 16 (s.rs a) →
     let words := toBytes 0 8 ++ toBytes ((s.rs b).toNat % 2 ^ 63) 8
     (∀ pa attr, s.cur < 96 → s.reach s.issuer .write (s.rs a).toNat 16 = .ok u (pa, attr) →
       exec (.barinit c a b) s = .next ((u.physWrite pa words).storeSink).issues) ∧
     (96 ≤ s.cur → s.physStore 0 (s.rs a).toNat words = .ok u () → exec (.barinit c a b) s = .next u.issues) ∧
     (∀ old : Word, (96 ≤ s.cur → s.cur < 100 → placeOf (s.rs a).toNat ≠ .sram) →
       s.arriveInTurn s.issuer (s.rs a).toNat (if b = 0 then 1 else (s.rs b).toNat % 2 ^ 63) = .ok u old →
       exec (.bararr c d a b) s =
         .next (if d = 0 then u.storeSink.issues else (u.storeSink.produceLoad (.s d.toNat) (.w old) none).issues))) ∧
  (∀ (s u : State) (i : Issuer) (a x pa attr : Nat), s.reach i .both a 16 = .ok u (pa, attr) →
     let w0 := u.physWord pa 8
     let count := (w0 % 2 ^ 63 + x) % 2 ^ 63
     let target := u.physWord (pa + 8) 8 % 2 ^ 63
     let phase := w0 / 2 ^ 63 % 2
     s.arrive i a x = .ok (u.physWrite pa (toBytes
       (if target ≠ 0 ∧ target ≤ count then (1 - phase) * 2 ^ 63 + (count - target) else phase * 2 ^ 63 + count) 8))
       (BitVec.ofNat 64 w0))

/-- 03 R85 with 07 R195 R196 R202: WAITMEM issues with s[D] the word it observed, once that meets the condition under its mask, in stamped mode at
the latency of a load there (12 R328); FENCE once the kinds it selects
hold, all three where it selects none, and on a control core or the management controller the lines of code fetched so far go with the next transfer
that issues, or the one after an outstanding one; FREL once no fabric request of the agent is outstanding. How a held bundle's instruction answers is the model's
form (log 2); that a FENCE of any kinds counts for fetch, and the two lists that mark the lines, are its choice (log 9). -/
def Obligations.HeldInstructions : Prop :=
  ∀ (s : State) (c : Ctl) (k : Cond) (d a b x : BitVec 6) (n : BitVec 3), s.Ready c [] →
    (∀ u bs, s.Full [.s a.toNat, .s b.toNat, .s x.toNat, .s d.toNat] → GoodAddr 8 (s.rs a) →
      s.watchLate (s.rs a).toNat = false → s.loadMine (s.rs a).toNat 8 = .ok u bs →
      let m : Word := BitVec.ofNat 64 (ofBytes bs)
      icond k (m &&& if x = 0 then BitVec.allOnes 64 else s.rs x) (s.rs b) = true →
      (s.watchLatency (s.rs a).toNat = none → exec (.waitmem c k d a b x) s = .next (u.wrote (.s d.toNat) (.w m) 0 1)) ∧
      (∀ lat, s.watchLatency (s.rs a).toNat = some lat →
        exec (.waitmem c k d a b x) s = .next (u.produceLoad (.s d.toNat) (.w m) (some (u.me.issued + lat))).issues)) ∧
    (let mem : Prop := n = 0 ∨ n.getLsbD 0 = true
     let reg : Prop := n = 0 ∨ n.getLsbD 1 = true
     let eng : Prop := n = 0 ∨ n.getLsbD 2 = true
     let ok : Prop := (mem → s.memQuiet = true) ∧ (reg → s.regQuiet = true) ∧ (eng → s.engQuiet = true)
     (ok →
       (s.cur < 96 → exec (.fence c n) s = .next s.issues) ∧
       (96 ≤ s.cur →
         (s.me.delay = none → exec (.fence c n) s = .next (s.setMe { s.me with stale := s.me.lines.map (·.1) }).issues) ∧
         (s.me.delay ≠ none → exec (.fence c n) s = .next (s.setMe { s.me with staleNext := s.me.lines.map (·.1) }).issues))) ∧ (¬ ok → exec (.fence c n) s = .next { s with res := .held 0 })) ∧
    (s.cur < 100 →
      (s.myOutstanding = 0 → exec (.frel c) s = .next s.issues) ∧
      (s.myOutstanding ≠ 0 → exec (.frel c) s = .next { s with res := .held 0 }))

/-- 07 R197 R198: a push that its queue takes leaves p[D] all zeros, one that finds it full sends nothing, the state is as before but for p[D], which is all ones, tagged either way;
the record is that of eight registers from s[A], word 0 first, and of sixteen for PUSHC. 07 R200: FATOM becomes a request of the chip's fabric logic
to chip s[C], with its operation, address and operands, in the order of the chip's sequence, and waits to be sent while 4,096 to that chip stand in the
window of 15 R404; s[D] is empty until the reply. A chip outside the pod is a deferred FABRIC_PEER; in debug halt the bundle is held (15 R399), in
the model's form (log 2). That s[D] of a refused FATOM stays full is its reading (log 43). -/
def Obligations.PushesAndRemoteAtomics : Prop :=
  (∀ (s u : State) (c : Ctl) (d a q : BitVec 6) (taken : Bool), s.Ready c [.p d.toNat] →
     let answer : Pred := { bits := if taken then 0 else BitVec.allOnes 256, tag := true }
     (s.Full ((List.range 8).map fun k => .s (a.toNat + k)) → s.cur < 96 ∨ (s.cur < 100 ∧ 4 ≤ q.toNat) →
       s.pushTo q.toNat (s.recAt a.toNat) c.ch = some (u, taken) →
       (taken = false → u = s) ∧ exec (.push c d a q) s = .next (u.wrote (.p d.toNat) (.q answer) 0 1)) ∧
     (s.Full ((List.range 16).map fun k => .s (a.toNat + k)) → s.cur < 96 →
       (mcmdOp (s.recAt (a.toNat + 8))).any s.myCore.borrowed = false →
       s.offerPair s.cur (s.recAt a.toNat) (s.recAt (a.toNat + 8)) (s.originOf s.pusher s.cur).1 (s.originOf s.pusher s.cur).2 c.ch
         s.me.issued = (u, taken) →
       (taken = false → u = s) ∧ exec (.pushc c d a) s = .next (u.wrote (.p d.toNat) (.q answer) 0 1)) ∧
     ∀ k, k < 8 → Rec_word (s.recAt a.toNat) k = s.src.rs (a.toNat + k)) ∧
  (∀ (s : State) (c : Ctl) (op : BitVec 3) (t : Ty) (d a b x y : BitVec 6), t = .i32 ∨ t = .i64 →
     s.Ready c [.s a.toNat, .s b.toNat, .s x.toNat, .s y.toNat, .s d.toNat] → s.cur < 100 → GoodAddr (t.width / 8) (s.rs a) →
     (64 * (s.fab.herdm1.toNat + 1) ≤ (s.rs x).toNat →
       exec (.fatom c op t d a b x y) s = .next (s.setMe { s.me with
         deferred := s.me.deferred ++ [{ code := cPeer, src := s.me.bundle, addr := s.rs a }] }).issues) ∧
     ((s.rs x).toNat < 64 * (s.fab.herdm1.toNat + 1) → s.dbgHalt = true → exec (.fatom c op t d a b x y) s = .next { s with res := .held 0 }) ∧
     ((s.rs x).toNat < 64 * (s.fab.herdm1.toNat + 1) → s.dbgHalt = false →
       ∃ v r f, exec (.fatom c op t d a b x y) s = .next v ∧ v.res = .issued ∧ v.fab.reqs = s.fab.reqs ++ [r] ∧
         r.seq = s.fab.seq ∧ r.waits = decide (4096 ≤ s.fab.window (s.rs x).toNat s.fab.seq) ∧ r.dst = (s.rs x).toNat ∧ r.fatom = some f ∧ f.addr = s.rs a ∧ f.b = s.rs b ∧ f.op = op.toNat ∧
         f.cmp = (if y = 0 then 0 else s.rs y) ∧ f.wide = decide (t = .i64) ∧ f.d = d.toNat ∧ v.mem = s.mem ∧
         (d ≠ 0 → v.me.regs.isEmpty (.s d.toNat) = true)))

/-- 07 R181 R183: LDBLK of a block already pinned in the task's context gives its handle at once, and does nothing else (that it posts no record and the
block keeps its place among the pinned is the model's reading, log 79); of a new one it evicts
the blocks of its context that overlap it, unpins the oldest pinned blocks until it fits, and pins a block whose fill is started, with s[D]
empty. BLKREL unpins the pinned blocks of its handle: each stays cached, and one that is still being filled keeps its register's wait; nothing is
left of one that a shootdown has emptied (11 R304), and every other block is as before. -/
def Obligations.BlockInstructions : Prop :=
  (∀ (s : State) (c : Ctl) (d a n : BitVec 6) (ev : Bool), s.ReadyTile c [.s a.toNat, .s d.toNat] →
     (s.rs a).toNat % 128 = 0 → (s.rs a).toNat + 128 * n.toNat < 2 ^ 56 →
     let base := (s.rs a).toNat
     let ctx := s.myTask.ctx
     let mine (k : Block) : Prop := k.pinned = true ∧ k.here = true ∧ k.ctx = ctx ∧ k.addr + (k.lines - 1) = base + n.toNat
     let fits : Core := (s.myCore.evictAll fun b => b.ctx == ctx && overlap b.addr (128 * b.lines) base (128 * (n.toNat + 1))).makeRoom
       (n.toNat + 1) 2000
     ((∃ k ∈ s.myCore.blocks, mine k) → exec (.ldblk c d a n ev) s = .next (s.wrote (.s d.toNat) (.w (s.rs a + n.zeroExtend 64)) 0 1)) ∧
     ((∀ k ∈ s.myCore.blocks, ¬ mine k) → s.stamped = false →
       exec (.ldblk c d a n ev) s =
         .next (((s.setCore s.cur (fits.allot
           { ctx := ctx, addr := base, lines := n.toNat + 1, bundle := s.me.bundle, fill := some (d.toNat, ev), used := 1 })).modMe fun x =>
             { x with regs := x.regs.mark (.s d.toNat) })).issues) ∧
     (∀ b : Block, b.used ≠ 0 → ∃ l, (fits.allot b).blocks = l ++ [{ b with used := (fits.allot b).uses }]) ∧
     (d ≠ 0 → (s.me.regs.mark (.s d.toNat)).isEmpty (.s d.toNat) = true)) ∧
  (∀ (s : State) (c : Ctl) (a : BitVec 6), s.ReadyTile c [.s a.toNat] →
     ∃ l : List Block, exec (.blkrel c a) s = .next (s.setCore s.cur { s.myCore with blocks := l }).issues ∧
       (∀ b ∈ s.myCore.blocks, (b.pinned = false ∨ b.addr + (b.lines - 1) ≠ (s.rs a).toNat) → b ∈ l) ∧
       (∀ b ∈ s.myCore.blocks, b.pinned = true → b.addr + (b.lines - 1) = (s.rs a).toNat → (b.here = true ∨ b.fill.isSome = true) →
         { b with pinned := false } ∈ l) ∧
       ∀ x ∈ l, ∃ b ∈ s.myCore.blocks,
         (x = b ∧ (b.pinned = false ∨ b.addr + (b.lines - 1) ≠ (s.rs a).toNat)) ∨
           (x = { b with pinned := false } ∧ b.pinned = true ∧ b.addr + (b.lines - 1) = (s.rs a).toNat))

/-- 07 R184 R187: REGMAP binds an unmapped region, all its lines unfilled and clean; REGFLUSH starts the write-back of its dirty lines and
marks them clean, where no word of the core is uncorrectable; REGDROP does the same and unmaps it; the arrival at the barrier follows the lines. That the lines go in
the order in which they became dirty, and that s0 as B names no barrier, are the model's readings (log 33). -/
def Obligations.RegionInstructions : Prop :=
  ∀ (s : State) (c : Ctl) (n a b x : BitVec 6), s.ReadyTile c [.s a.toNat, .s b.toNat, .s x.toNat] →
    s.regionHeld n.toNat = false →
    let k := s.myCore
    let map (k : Core) (r : Option Region) : Core := { k with regions := k.regions.set none n.toNat r }
    (k.mapBad n.toNat (s.rs a) (s.rs b) (s.rs x) = none → k.regions.get none n.toNat = none →
      exec (.regmap c n a b x) s = .next (s.setCore s.cur
        (map k (some { base := (s.rs a).toNat, gbase := (s.rs b).toNat, size := (s.rs x).toNat }))).issues) ∧
    (∀ r, k.regions.get none n.toNat = some r → (b = 0 ∨ GoodAddr 16 (s.rs b)) → (b ≠ 0 ∨ r.dirty ≠ []) → k.spoilt = [] →
      let lines := r.dirty.reverse.map fun l => (r.gbase + 128 * l, bytesAt k.scratch (r.base + 128 * l) 128)
      let flushed : Core := { map k (some { r with dirty := [] }) with
        wb := k.wb ++ [{ lines := lines, bar := if b = 0 then none else some (s.rs b), ctx := s.myTask.ctx, bundle := s.me.bundle
                         task := s.myTask.uid, launch := s.myTask.launch, stops := s.myTask.stops }] }
      exec (.regflush c n b) s = .next (s.setCore s.cur flushed).issues ∧
      exec (.regdrop c n b) s = .next (s.setCore s.cur { flushed with regions := flushed.regions.drop n.toNat }).issues)

/-! ### The MX slot and the matrix queue (08) -/

/-- 08 R211 R212 R221: OSCLAIM takes the named slot, or the lowest that is FREE, and gives its number, all ones where none is; MWAIT
issues once no entry of the queue names its accumulator, MFENCE once the queue is empty. How a held bundle's instruction answers is the model's form (log 2). -/
def Obligations.MatrixSlots : Prop :=
  ∀ (s : State) (c : Ctl) (d n acc : BitVec 6), s.ReadyTile c [.s d.toNat] → s.myCore.tq = [] →
    let k := s.myCore
    let claims (m : Nat) (i : Instr) : Prop :=
      exec i s = .next ((s.setCore s.cur { k with claims := k.claims.set .free m .claimed }).wrote (.s d.toNat)
        (.w (BitVec.ofNat 64 m)) 0 1)
    (k.claim n.toNat = .free → claims n.toNat (.osclaim c d n false)) ∧
    (k.claim n.toNat ≠ .free → exec (.osclaim c d n false) s = .next (s.faults cSlot 0)) ∧
    (∀ m, m < 16 → k.claim m = .free → (∀ j, j < m → k.claim j ≠ .free) → claims m (.osclaim c d n true)) ∧
    ((∀ m, m < 16 → k.claim m ≠ .free) → GivesS s d 1 (.osclaim c d n true) (BitVec.allOnes 64)) ∧
    (k.claim n.toNat = .free → k.mq.length < 32 → exec (.osrel c n) s = .next (s.faults cSlot 0)) ∧
    ((∀ e ∈ k.mq, e.op.acc ≠ some acc.toNat) → exec (.mwait c acc) s = .next s.issues) ∧
    ((∃ e ∈ k.mq, e.op.acc = some acc.toNat) → exec (.mwait c acc) s = .next { s with res := .held 0 }) ∧
    (k.mq = [] → exec (.mfence c) s = .next s.issues) ∧
    (k.mq ≠ [] → exec (.mfence c) s = .next { s with res := .held 0 })

/-- 08 R207 R209 R212 to R220: what each operation of the matrix queue checks at issue, and what it leaves of slots, latch and accumulator
formats as program order sees them; it enters the queue last, with its operands as they stand at issue, has not started, and starts
no earlier than the last row injection of a started operation that it has to follow (08 R208 R217). One that fails a check enters nothing: SLOT_STATE
where a slot is FREE, or CLAIMED as an operand, ALIGN and LOCAL_RANGE for the scratchpad bytes of OSLD, MACCST and MACCLD, in the order of the rules.
R220 gives no address of its LOCAL_RANGE: that it names s[B], as R214's names s[A], is the model's reading (log 80). -/
def Obligations.MatrixEnters : Prop :=
  ∀ (s u : State) (c : Ctl) (t : Ty) (d n a b x acc : BitVec 6) (h : Bool),
    s.ReadyTile c [.s a.toNat, .s b.toNat, .s x.toNat, .v a.toNat, .v d.toNat] → s.myCore.tq = [] → s.myCore.mq.length < 32 →
    s.myCore.slog = [] →
    let k := s.myCore
    let enters (v : State) (i : Instr) (o : MatrixOp) (order : Core → Core) : Prop :=
      exec i s = .next (v.entersQueue o order).issues
    let param := s.rs b
    let slotFull (m : Nat) : Prop := k.claim m = .filling ∨ k.claim m = .loaded
    (k.claim n.toNat ≠ .free → enters s (.osrel c n) (.osrel n.toNat) fun k => k.release n.toNat) ∧
    ((∀ m ∈ windowOf t n.toNat, slotFull m) →
      enters s (.mwld c t n b) (.mwld t n.toNat (param.setWidth 8)) fun k => { k with latchOrder := some t }) ∧
    ((∃ m ∈ windowOf t n.toNat, ¬ slotFull m) → exec (.mwld c t n b) s = .next (s.faults cSlot 0)) ∧
    (k.latchOrder = some t → slotFull n.toNat →
      (k.fmt acc.toNat = (t == .i8) → enters s (.mma c t acc n b h) (.mma false t acc.toNat n.toNat param h) id) ∧
      (k.fmt acc.toNat ≠ (t == .i8) → exec (.mma c t acc n b h) s = .next (s.faults cAcc 0)) ∧
      enters s (.mmaz c t acc n b h) (.mma true t acc.toNat n.toNat param h) fun k =>
        { k with accInt := k.accInt.set false acc.toNat (t == .i8) }) ∧
    (k.latchOrder ≠ some t ∨ ¬ slotFull n.toNat → exec (.mma c t acc n b h) s = .next (s.faults cSlot 0) ∧
      exec (.mmaz c t acc n b h) s = .next (s.faults cSlot 0)) ∧
    (let off := (s.rs a).toNat
     let count := param.toNat
     let sized : Prop := count % 128 = 0 ∧ count ≠ 0 ∧ count ≤ 32768
     (off % 128 ≠ 0 → exec (.osld c n a b) s = .next (s.faults cAlign (s.rs a))) ∧
     (off % 128 = 0 → ¬ sized → exec (.osld c n a b) s = .next (s.faults cAlign param)) ∧
     (off % 128 = 0 → sized → 0x180000 < off + count → exec (.osld c n a b) s = .next (s.faults cLocal (s.rs a))) ∧
     (off % 128 = 0 → sized → off + count ≤ 0x180000 → k.claim n.toNat = .free → exec (.osld c n a b) s = .next (s.faults cSlot 0))) ∧
    (let size := 1024 * rowCount (s.rs x)
     (param.toNat % 128 ≠ 0 → exec (.maccst c acc b x) s = .next (s.faults cAlign param) ∧
       exec (.maccld c t acc b x) s = .next (s.faults cAlign param)) ∧
     (param.toNat % 128 = 0 → 0x180000 < param.toNat + size → exec (.maccst c acc b x) s = .next (s.faults cLocal param) ∧
       exec (.maccld c t acc b x) s = .next (s.faults cLocal param))) ∧
    enters s (.maccz c t acc) (.maccz (t == .i32) acc.toNat) (fun k => { k with accInt := k.accInt.set false acc.toNat (t == .i32) }) ∧
    enters (s.modMe fun g => { g with regs := g.regs.mark (.v d.toNat) }) (.maccrd c d acc b)
      (.maccrd d.toNat acc.toNat (param.toNat % 512)) id ∧
    enters s (.maccwr c acc a b) (.maccwr acc.toNat (param.toNat % 512) (s.rv a)) id ∧
    (let off := (s.rs a).toNat
     let count := param.toNat
     off % 128 = 0 → count % 128 = 0 → count ≠ 0 → count ≤ 32768 → off + count ≤ 0x180000 → k.claim n.toNat ≠ .free →
       k.mqBlocks off count false = false → s.fillLines s.cur (lineOffs off count) = .ok u () →
       enters u (.osld c n a b) (.osld n.toNat off count) fun k =>
         if k.claim n.toNat = .claimed then k.setClaim n.toNat .filling else k) ∧
    (let off := param.toNat
     let size := 1024 * rowCount (s.rs x)
     off % 128 = 0 → off + size ≤ 0x180000 → s.fillLines s.cur (lineOffs off size) = .ok u () →
       (k.mqBlocks off size true = false →
         enters (u.modCoreAt s.cur fun k => (lineOffs off size).foldl Core.dirtyLine k) (.maccst c acc b x)
           (.maccst acc.toNat off (s.rs x)) id) ∧
       (k.mqBlocks off size false = false →
         enters u (.maccld c t acc b x) (.maccld (t == .i32) acc.toNat off (s.rs x)) fun k =>
           { k with accInt := k.accInt.set false acc.toNat (t == .i32) }))

/-- 08 R203 R206 R208 R214 to R220 with 02 R55 R56: what the one entry of a matrix queue does when it starts: OSLD fills its slot and zeroes the
rest of it, MWLD copies its window into the latch, MMA adds each row's sum of products to its accumulator row, MMAZ to one it has zeroed,
MACCZ zeroes, MACCWR and MACCLD write accumulator elements, MACCST stores them; rows outside those of an MMA keep their values, and those outside
an MMAZ's are zero. It notes whether it has read an uncorrectable word: the values that it computes from one are the model's choice (log 83). 08 R207 R213: a started entry that names no barrier and posts no
record leaves the queue when it completes, if it has read no uncorrectable word (11 R307); the core runs no stamped
task, which the array follows cycle by cycle (log 46). The flags it raised join the task's, and the slot that an OSLD has filled is LOADED. -/
def Obligations.MatrixQueue : Prop :=
  (∀ (s : State) (n : Nat) (e : MatrixEntry), (s.core n).mq = [e] → e.started = false → e.unfilled = false → e.after = [] → e.couch = none →
     s.paused = false → s.stampedRun n = false →
     let k := s.core n
     let acc (k : Core) (a r j : Nat) : BitVec 32 := k.acc.get 0 (32768 * a + 256 * r + j)
     ∃ t, exec (.matrixEntryStart n 0) s = .next t ∧ t.res = .issued ∧ t.mem = s.mem ∧
       (∃ x, (t.core n).mq = [x] ∧ x.op = e.op ∧ x.started = true ∧ x.ecc = k.readsBad e.op) ∧
       (∀ m off count, e.op = .osld m off count → count ≤ 32768 → ∀ j, j < 32768 →
         (t.core n).slotMem.get 0 (32768 * m + j) = if j < count then k.scratch.get 0 (off + j) else 0) ∧
       (∀ ty m bias, e.op = .mwld ty m bias → (t.core n).latch.valid = true ∧ (t.core n).latch.fmt = ty ∧ (t.core n).latch.bias = bias ∧
         ∀ j, j < 32768 * (windowOf ty m).length → (t.core n).latch.weights.get 0 j = k.slotMem.get 0 (32768 * m + j)) ∧
       (∀ zero ty a m row half, e.op = .mma zero ty a m row half → ∀ r j, r < rowCount row → j < 256 →
         acc (t.core n) a (rowAt row r) j = BitVec.ofNat 32
           (accAdd (ty == .i8) (if zero then 0 else acc k a (rowAt row r) j)
             (chunkSum ((List.range (chunkLen ty)).map fun i =>
               (decodeElem ty (rowBias row) (k.activation ty m half r i),
                 decodeElem ty k.latch.bias.toInt (k.weight ty i j))))).bits) ∧
       (∀ zero ty a m row half, e.op = .mma zero ty a m row half → ∀ r j, r < 128 → (∀ i, i < rowCount row → rowAt row i ≠ r) → j < 256 →
         acc (t.core n) a r j = if zero then 0 else acc k a r j) ∧
       (∀ int a, e.op = .maccz int a → ∀ r j, r < 128 → j < 256 → acc (t.core n) a r j = 0) ∧
       (∀ a q v, e.op = .maccwr a q v → ∀ i, i < 64 →
         acc (t.core n) a (q / 4 % 128) (64 * (q % 4) + i) = BitVec.ofNat 32 (elemOf v 32 i)) ∧
       (∀ a off row, e.op = .maccst a off row → ∀ r j, r < rowCount row → j < 256 →
         bytesAt (t.core n).scratch (off + 1024 * r + 4 * j) 4 = toBytes (acc k a (rowAt row r) j).toNat 4) ∧
       (∀ int a off row, e.op = .maccld int a off row → ∀ r j, r < rowCount row → j < 256 →
         acc (t.core n) a (rowAt row r) j = BitVec.ofNat 32 (ofBytes (bytesAt k.scratch (off + 1024 * r + 4 * j) 4))) ∧
       (∀ d a q, e.op = .maccrd d a q → n < 96 →
         ∃ p v, (t.agent n).flight = (s.agent n).flight ++ [p] ∧ p.reg = .v d ∧ p.val = .r v ∧
           ∀ i, i < 64 → elemOf v 32 i = (acc k a (q / 4 % 128) (64 * (q % 4) + i)).toNat)) ∧
  (∀ (s : State) (n : Nat) (e : MatrixEntry) (r : List MatrixEntry), n < 96 → (s.core n).mq = e :: r → e.started = true → e.bar = 0 →
     e.ev = false → e.command = false → e.ecc = none → s.paused = false → s.stampedRun n = false → s.unanswered (dieOf n) e.page = false →
     ∃ t, exec (.matrixEntryComplete n 0) s = .next t ∧ t.res = .issued ∧ t.mem = s.mem ∧
       (t.core n).mq.map (·.op) = r.map (·.op) ∧ (t.core n).status = (s.core n).status ||| e.flags ∧
       (∀ m off count, e.op = .osld m off count → e.released = false → (s.core n).claim m = .filling → (t.core n).claim m = .loaded) ∧
       (t.core n).acc = (s.core n).acc ∧ (t.core n).scratch = (s.core n).scratch ∧ (t.core n).slotMem = (s.core n).slotMem)

/-! ### Engines and matrix commands (08) -/

/-- 08 R213 R225 to R228 with 07 R198, 13 R350: CQ and GQ take a command that has room and passes its check, as their youngest; refuse one that does not
pass; and take none while 16 are queued. The oldest starts by zeroing the slots it fills; one whose bounds are known to fail ends before any
element moves, its slots zero too. In the pause of a clock change none starts and none moves (13 R350). A copy within the scratchpad moves its elements one at a time in nest order, where no word of the core is uncorrectable; a command that has moved every element and names no
barrier leaves its queue, its slots LOADED. What is not enabled leaves the state as it is: the model's choice (log 15). So is the split of a command's elements over its steps: START
with 0 moves none here, COMPLETE all that are left (log 13). Gathers, operands in global memory and arrivals at barriers are not stated here. -/
def Obligations.EngineCommands : Prop :=
  ∀ (s : State) (p : Pusher) (n : Nat) (g : Bool) (c : Rec),
    let k := s.core n
    let o := s.originOf p n
    let take : Instr := if g then .gatherCommand p n c else .copyCommand p n c
    ((k.engine g).length < 16 → k.commandOk g o.2.isNone c = true →
      ∃ t x, exec take s = .next t ∧ t.res = .issued ∧ (t.core n).engine g = k.engine g ++ [x] ∧ x.cmd = c ∧ x.origin = o.1 ∧
        x.ctx = o.2 ∧ x.started = false ∧ x.moved = 0 ∧ t.mem = s.mem ∧ (t.core n).scratch = k.scratch) ∧
    ((k.engine g).length < 16 → k.commandOk g o.2.isNone c = false →
      exec take s = .next (s.commandFault o.1 4 cQueue 0 0 0).issues) ∧
    (16 ≤ (k.engine g).length → exec take s = .next s.issues) ∧
    ∀ e r, k.engine g = e :: r →
      s.unanswered (dieOf n) e.page = false →
      (e.started = false → s.pusherSettled e.origin e.id = true → e.after = [] → cmdExt e.cmd = false → e.failed = none → s.paused = false →
        (boundsFail e.cmd e.extRec = none →
          ∃ t, exec (.engineCommandStart n g 0) s = .next t ∧ t.res = .issued ∧ t.mem = s.mem ∧
            (t.core n).engine g = (e :: r).map (fun x => if x.id = e.id then { e with started := true, page := none } else x) ∧
            ∀ i ∈ cmdSlots e.cmd, ∀ j, j < 32768 → (t.core n).slotMem.get 0 (32768 * i + j) = 0) ∧
        (∀ a, boundsFail e.cmd e.extRec = some a → s.mustPost e.origin = false ∨ s.canPost (s.recordDie e.origin) = true →
          ∃ t, exec (.engineCommandStart n g 0) s = .next t ∧ t.res = .issued ∧ t.mem = s.mem ∧ (t.core n).scratch = k.scratch ∧
            (t.core n).engine g = (e :: r).filter (fun x => decide (x.id ≠ e.id)) ∧
            ∀ i ∈ cmdSlots e.cmd, ∀ j, j < 32768 → (t.core n).slotMem.get 0 (32768 * i + j) = 0)) ∧
      (s.paused = true → exec (.engineCommandStart n g 0) s = .next s.issues ∧ exec (.engineCommandComplete n g) s = .next s.issues) ∧
      (e.started = true → cmdEv e.cmd = false → Rec_word e.cmd 3 = 0 → e.failed = none → s.paused = false →
        (e.moved = cmdCount e.cmd e.extRec →
          ∃ t, exec (.engineCommandComplete n g) s = .next t ∧ t.res = .issued ∧ t.mem = s.mem ∧
            (t.core n).engine g = (e :: r).filter (fun x => decide (x.id ≠ e.id)) ∧
            ∀ i ∈ cmdSlots e.cmd, i ∉ e.released → k.claim i = .filling → (t.core n).claim i = .loaded) ∧
        (g = false → cmdGather e.cmd = false → cmdSrcSp e.cmd = 1 → cmdDstSp e.cmd = 1 → e.moved = 0 → k.spoilt = [] →
          (∀ j, j < cmdCount e.cmd e.extRec → srcAddr e.cmd e.extRec j 0 < 0x180000) →
          ∃ t, exec (.engineCommandComplete n g) s = .next t ∧ t.res = .issued ∧ t.mem = s.mem ∧
            (t.core n).scratch = (List.range (cmdCount e.cmd e.extRec)).foldl
              (fun m j => Machine.putBytes m (dstAddr e.cmd e.extRec j) (bytesAt m (srcAddr e.cmd e.extRec j 0) (cmdSize e.cmd)))
              k.scratch))

/-- 08 R229: a matrix command read by its layout enters the matrix queue as the operation of the MX instruction of its code, in the cycle it is
taken in, with its barrier and its event; one whose region line waits for its fill enters unfilled, and starts no earlier than that is filled
(07 R185); one that is refused leaves the queue as it was. No record on TQ has borrowed what it needs (09 R272 R273). -/
def Obligations.MatrixCommands : Prop :=
  ∀ (s u : State) (n : Nat) (c : Rec) (op : MatrixOp), (s.core n).mq.length < 32 → (s.core n).tq = [] → mcmdOp c = some op →
    let w0 := Rec_word c 0
    let code := w0.toNat % 256
    let slot := w0.toNat / 2 ^ 12 % 16
    let acc := w0.toNat / 2 ^ 16 % 4
    let param := Rec_word c 1
    let loc := Rec_word c 2
    let half := w0.getLsbD 18
    let o := (s.originOf (.task n) n).1
    let reads : Prop :=
      (code = 2 → op = .osrel slot) ∧ (code = 3 → op = .osld slot loc.toNat param.toNat) ∧
      (code = 4 → ∃ t, Ty.ofBits (w0.extractLsb' 8 4) = some t ∧ op = .mwld t slot (param.setWidth 8)) ∧
      (code = 5 → ∃ t, Ty.ofBits (w0.extractLsb' 8 4) = some t ∧ op = .mma false t acc slot param half) ∧
      (code = 6 → ∃ t, Ty.ofBits (w0.extractLsb' 8 4) = some t ∧ op = .mma true t acc slot param half) ∧
      (code = 7 → ∃ t, Ty.ofBits (w0.extractLsb' 8 4) = some t ∧ op = .maccz (t == .i32) acc) ∧
      (code = 0x0A → op = .maccst acc loc.toNat param) ∧
      (code = 0x0B → ∃ t, Ty.ofBits (w0.extractLsb' 8 4) = some t ∧ op = .maccld (t == .i32) acc loc.toNat param)
    let does (x : Nat) (i : Instr) : Prop := code = x →
      ((s.core n).check op = none → s.touchRegions n op = .ok u () →
        exec i s = .next (u.enter n
          { id := 0, op := op, ready := max s.cycle (s.agent n).issued, bar := Rec_word c 3, ev := w0.getLsbD 19, command := true
            bundle := o.bundle }).issues) ∧
      (∀ pg, (s.core n).check op = none → s.touchRegions n op = .wait u pg →
        exec i s = .next (u.enter n
          { id := 0, op := op, ready := max s.cycle (s.agent n).issued, bar := Rec_word c 3, ev := w0.getLsbD 19, command := true
            bundle := o.bundle, unfilled := true, page := pg }).issues) ∧
      (∀ f a, (s.core n).check op = some (f, a) → exec i s = .next (s.commandFault o 4 f a.toNat 0 0).issues)
    reads ∧ does 2 (.mcmdOsrel (.task n) n c) ∧ does 3 (.mcmdOsld (.task n) n c) ∧ does 4 (.mcmdMwld (.task n) n c) ∧
      does 5 (.mcmdMma (.task n) n c) ∧ does 6 (.mcmdMmaz (.task n) n c) ∧ does 7 (.mcmdMaccz (.task n) n c) ∧
      does 0x0A (.mcmdMaccst (.task n) n c) ∧ does 0x0B (.mcmdMaccld (.task n) n c)

/-! ### The fabric and pod time (08 R232, 14, 15) -/

/-- 08 R232, 14 R370 R375 R376 R377, 15 R404 R405, 07 R201: a fabric command that passes its checks becomes a request with the chip's next sequence
number, one that does not is a QUEUE_PROTOCOL, and none is taken while its FQ holds 16. An acknowledgement ends the request it names; a request
past its time starts its next attempt, or after RETRY of them ends with FABRIC_PEER; the first FATOM that waits is sent once fewer than
4,096 stand in the window; a reply fills its register and ends the request; an atomic request below LOW is discarded, one in the reply cache is
answered from it, and a new one is performed as one access, remembered and answered with the old value; in debug halt no acknowledgement or reply is
taken (15 R399). A completion record is dropped after
(RETRY + 3) × RTO µs. Bounds count pod time but for the pause of a clock change (13 R351). What is not enabled leaves the state as it is: the model's choice (log 15). -/
def Obligations.FabricRequests : Prop :=
  ∀ (s : State) (p : Pusher) (c : Rec),
    let path := s.fabricPath p
    let room : Prop := (s.fab.reqs.filter fun r => r.queue == some path.1).length < 16 ∧ s.dbgHalt = false
    let takes (i : Instr) : Prop :=
      (room → s.fabricOk c = true →
        ∃ t r, exec i s = .next t ∧ t.res = .issued ∧ t.fab.reqs = s.fab.reqs ++ [r] ∧ t.fab.seq = (s.fab.seq + 1) % 2 ^ 48 ∧
          r.seq = s.fab.seq ∧ r.cmd = c ∧ r.origin = path.2.1 ∧ r.dst = fcChip c ∧ r.len = fcLen c ∧ r.ord = fcOrd c ∧
          (fcOrd c = true → r.stamp = s.now) ∧ r.acked = false ∧ t.mem = s.mem) ∧
      (room → s.fabricOk c = false →
        exec i s = .next (s.commandFault path.2.1 6 cQueue 0 (BitVec.ofNat 64 (fcChip c)) (BitVec.ofNat 64 (fcLen c))).issues) ∧
      (¬ room → exec i s = .next s.issues)
    (fcKind c = 1 → takes (.fabricPut p c)) ∧ (fcKind c = 2 → takes (.fabricSend p c)) ∧
    (∀ r, s.fab.reqs = [r] → r.pod = none → r.page = none → s.dbgHalt = false →
      (∀ n, r.fatom = none → r.acked = false → r.seq < 2 ^ 48 → fcEv r.cmd = false → Rec_word r.cmd 3 = 0 → n = BitVec.ofNat 64 r.seq →
        ∃ t, exec (.ackReceive r.dst [n]) s = .next t ∧ t.res = .issued ∧ t.fab.reqs = [] ∧ t.mem = s.mem) ∧
      (∀ x, r.last = some x → r.acked = false → r.sent.length = r.chunks → x + s.fab.rto * 1000 ≤ s.counted →
        (r.attempt < s.fab.retry →
          exec (.resendTimeout r.seq) s =
            .next ({ s with fab := { s.fab with
              reqs := [{ r with attempt := r.attempt + 1, prev := r.sent, sent := [], last := none, at_ := s.now }] } } : State).issues) ∧
        (s.fab.retry ≤ r.attempt → exec (.resendTimeout r.seq) s = .next (s.failReq r cPeer r.peerAddr).issues)) ∧
      (∀ f, r.fatom = some f → r.waits = true →
        (s.fab.window r.dst r.seq < 4096 →
          exec (.fatomSendRelease 0) s =
            .next ({ s with fab := { s.fab with reqs := [{ r with waits := false, at_ := s.now }] } } : State).issues) ∧
        (4096 ≤ s.fab.window r.dst r.seq → exec (.fatomSendRelease 0) s = .next s.issues)) ∧
      (∀ f n old, r.fatom = some f → r.waits = false → r.origin.by_ = .control n →
        ∃ t, exec (.fatomReplyArrive r.dst r.seq 0 old) s = .next t ∧ t.res = .issued ∧ t.fab.reqs = [] ∧
          t.agent (96 + n) = { s.agent (96 + n) with regs := (s.agent (96 + n)).regs.write (.s f.d) (.w old) })) ∧
    (∀ src seq low, s.fab.rx = [] → s.dbgHalt = false → src < 2048 → seq < 2 ^ 48 → low < 2 ^ 48 → seq < (s.fab.cache.get {} src).low →
      ∃ t, exec (.fatomRequestArrive src seq low c) s = .next t ∧ t.res = .issued ∧ t.mem = s.mem ∧ t.fab.rx = [] ∧
        t.fab.answers = s.fab.answers) ∧
    (∀ src seq low, src < 2048 → seq < 2 ^ 48 → low < 2 ^ 48 → s.fab.rx = [] → s.dbgHalt = false →
      let w := (Rec_word c 3).toNat
      let n := if w / 2 ^ 8 % 2 = 1 then 8 else 4
      let h := hdMake 3 false 0 src s.self 0 seq 32 0 32 (Rec_word c 0).toNat 0 0
      let bs := toBytes (Rec_word c 1).toNat 8 ++ toBytes (Rec_word c 2).toNat 8 ++ toBytes w 8 ++ toBytes low 8
      let here := s.arriveChunk h bs 8 0 none
      let had := s.fab.cache.get {} src
      let op := fatomOp (w / 2 ^ 10 % 8)
      had.low ≤ seq →
      (∀ e, had.entries.find? (·.1 == seq) = some e →
        ∃ t, exec (.fatomRequestArrive src seq low c) s = .next t ∧ t.res = .issued ∧ t.mem = s.mem ∧ t.fab.rx = [] ∧
          t.fab.answers = s.fab.answers ++ [{ dst := src, seq := seq, result := e.2.2, reply := some e.2.1, at_ := s.now }]) ∧
      (had.entries.find? (·.1 == seq) = none →
        ∀ u old, here.atomicAt { agent := 96, ctx := some (w % 64), unit := true } op n (Rec_word c 0).toNat (Rec_word c 1) (Rec_word c 2) = .ok u old →
        ∃ t, exec (.fatomRequestArrive src seq low c) s = .next t ∧ t.res = .issued ∧ t.mem = u.mem ∧
          (∀ m, here.fab.rx = [m] → t.fab.rx = u.fab.rx.erase m) ∧
          t.fab.answers = u.fab.answers ++ [{ dst := src, seq := seq, result := 0, reply := some (sext64 (8 * n) old), at_ := u.now }] ∧
          (low ≤ seq → (seq, sext64 (8 * n) old, 0) ∈ (t.fab.cache.get {} src).entries))) ∧
    (s.dbgHalt = true → ∀ src seq acks st old,
      exec (.ackReceive src acks) s = .next s.issues ∧ exec (.fatomReplyArrive src seq st old) s = .next s.issues) ∧
    ∀ d r, s.fab.done = d :: r → d.2.2.2 + (s.fab.retry + 3) * s.fab.rto * 1000 ≤ s.counted →
      exec (.completionRecordExpiry 0) s = .next ({ s with fab := { s.fab with done := r } } : State).issues

/-- 14 R368 R373 R374 R378 R382 R383: PLACT arms a switch, which takes place at the start of its slot; PLCTL lights a dark plane, whose receivers then
lock, and darkens a lit one; a line that fails is out until it is restored, a lane that retunes until it ends, counted in RETCNT; a good header
of a beacon notes what its sender says; a chunk held too long is discarded, and its buffer freed; at the deadline of a slot every lane that
transmits gets a header, a beacon where no chunk waits. Bounds count pod time but for the pause of a clock change (13 R351). What is not enabled leaves the state as it is: the model's choice (log 15). -/
def Obligations.FabricPlanes : Prop :=
  ∀ (s : State) (who p : Nat) (val : Word), (96 ≤ who ∧ who ≤ 100) → p < 8 →
    let x := s.plane p
    let result (i : Instr) (f : State → Prop) : Prop := ∃ t, exec i s = .next t ∧ t.res = .issued ∧ t.mem = s.mem ∧ f t
    (s.now < val.toNat → result (.plact who p val) fun t => t.plane p = { x with armed := some (val.toNat, (val.toNat + 63) / 64) }) ∧
    (val.toNat ≤ s.now → result (.plact who p val) fun t => t.plane p = { x with armed := some (val.toNat, s.now / 64 + 1) }) ∧
    (∀ a n, x.armed = some (a, n) → 64 * n ≤ s.now →
      (x.bankOk (!x.bank) = true → result (.bankSwitch p) fun t => t.plane p = { x with armed := none, bad := false, bank := !x.bank, since := n }) ∧
      (x.bankOk (!x.bank) = false → result (.bankSwitch p) fun t => t.plane p = { x with armed := none, bad := true })) ∧
    (val.getLsbD 1 = true → x.light = false →
      result (.plctlLightOn who p val) fun t => (t.plane p).light = true ∧ (t.plane p).lock = false ∧ (t.plane p).litAt = s.now ∧
        (t.plane p).fsc = [] ∧ (t.plane p).en = val.getLsbD 0) ∧
    (val.getLsbD 1 = false → x.light = true → s.fab.handed = [] →
      result (.plctlLightOff who p val) fun t => (t.plane p).light = false ∧ (t.plane p).en = val.getLsbD 0) ∧
    (x.light = true → x.lock = false → x.litAt + 20000 ≤ s.counted → result (.laneLock p) fun t => t.plane p = { x with lock := true }) ∧
    (∀ n, n < 128 → n ∉ x.failed → s.fab.handed = [] →
      result (.lineFailure p n) fun t => t.plane p = { x with failed := n :: x.failed }) ∧
    (∀ n, result (.lineRestore p n) fun t => t.plane p = { x with failed := x.failed.filter (· != n) }) ∧
    (∀ l, l < 16 → l ∉ x.out →
      result (.retuneStart p l) fun t => t.plane p = { x with out := l :: x.out, retcnt := BitVec.ofNat 32 (min (x.retcnt.toNat + 1) 0xFFFFFFFF) }) ∧
    (∀ l, l ∈ x.out → result (.retuneEnd p l) fun t => t.plane p = { x with out := x.out.filter (· != l) }) ∧
    (∀ l slot (h : BitVec 512), l < 16 → x.light = true → x.offset slot l ≠ 0 → l ∉ x.out → s.fab.rx = [] → s.fab.reqs = [] →
      hdKind h = 0 → hdBits h 6 32 32 = hdCheck h [] → hdHop h = chipOn (rowPlane p) s.self (offsetTo (x.offset slot l) (portOn (rowPlane p) s.self)) →
      result (.slotHeaderReceive p l slot h []) fun t =>
        let q := offsetTo (x.offset slot l) (portOn (rowPlane p) s.self)
        ((t.plane p).port q).freed = BitVec.ofNat 16 (hdBits h 6 0 16) ∧ ((t.plane p).ins.get {} q).chip = hdHop h ∧
          ((t.plane p).ins.get {} q).heard = true ∧ l ∈ (t.plane p).locked) ∧
    (∀ y r, s.fab.fwd = y :: r → y.at_ + s.fab.rto * 1000 ≤ s.counted → y.plane = p → y.copy = false →
      result (.forwardHoldExpiry 0) fun t => t.fab.fwd = r ∧
        (t.plane p).port y.port = { x.port y.port with rxfreed := (x.port y.port).rxfreed + 1 }) ∧
    (∀ n, s.fab.slot < n → 64 * n ≤ s.now + 48 → s.fab.reqs = [] → s.fab.rx = [] → s.fab.fwd = [] → s.fab.answers = [] →
      result (.slotHandover n) fun t => t.fab.slot = n ∧ ∀ l, l < 16 → x.sends n l = true →
        ∃ c, t.fab.lanes.get none (16 * p + l) = some c ∧ c.data = [] ∧ hdKind c.hdr = 0 ∧ hdHop c.hdr = s.self)

/-- 15 R388 R389 R393 to R397 R401 R402: of whole ordered messages the one of least key below the watermark is delivered, an incomplete one is dropped
after (RETRY + 2) × RTO µs, which count pod time but for the pause of a clock change (13 R351), also one of which a part is written; an input whose path floor stands still for STALL µs is recorded; a store to PBAR arrives, and the channel's
generation completes when every peer has; the root takes its grandmaster's time, a follower that loses its parent clears SYNC, and PTSET sets
the time of a root without a grandmaster. What is not enabled leaves the state as it is: the model's choice (log 15). -/
def Obligations.FabricOrder : Prop :=
  ∀ (s : State) (who k p q idx : Nat) (val : Word), (96 ≤ who ∧ who ≤ 100) →
    let result (i : Instr) (f : State → Prop) : Prop := ∃ t, exec i s = .next t ∧ t.res = .issued ∧ f t
    (∀ m, s.fabricWork.nextOrdered = some m → s.fabricWork.dbgHalt = false → hdKind m.hdr = 1 → s.fabricWork.isLate m = false → m.page = none →
      ∀ u, s.fabricWork.performPut m = .done u →
        exec .orderedDelivery s = .next ({ u with fab := { u.fab with key := some (hdKey m.hdr) } } : State).issues) ∧
    (∀ m, s.orderedRx[idx]? = some m → m.whole = false → s.dbgHalt = false → m.at_ + (s.fab.retry + 2) * s.fab.rto * 1000 ≤ s.counted →
      result (.orderedIncompleteDiscard idx) fun t => t.fab.rx = s.fab.rx.erase m ∧ t.mem = s.mem) ∧
    (s.paused = true → exec (.watermarkStall p q) s = .next s.issues) ∧
    (s.paused = false → (p, q) ∈ s.inputs → max (s.input (p, q)).since (s.plane p).stallAt + s.fab.stall * 1000 ≤ s.counted →
      result (.watermarkStall p q) fun t => (t.input (p, q)).since = s.now ∧ (t.input (p, q)).pf = (s.input (p, q)).pf ∧
        ∃ r, (t.die (p / 2)).evWait = (s.die (p / 2)).evWait ++ [r] ∧ r.kind = 0x10 ∧ r.code = cStall ∧
          r.w2.toNat = 0x20 + 2 ^ 8 * p) ∧
    (k < 4 →
      (val.getLsbD 32 = true → (s.bar k).arrived = false →
        result (.pbarArrive who k val) fun t => t.bar k = { s.bar k with arrived := true }) ∧
      ((val.getLsbD 32 = false ∨ (s.bar k).arrived = true) → exec (.pbarArrive who k val) s = .next s.issues) ∧
      ((s.bar k).herd = true → (s.bar k).members = [] → (s.bar k).waiting = [] → (∀ j, j < 64 → s.peerCounts false k j = true) →
        result (.podBarrierComplete k) fun t => t.bar k = { gen := (s.bar k).gen + 1 })) ∧
    (s.pt.root = true →
      (∀ t1 t2 t3 t4, result (.ptpMessage ⟨s.pt.dom.toNat, t1⟩ t2 t3 t4) fun t => t.pt.ext = true ∧ t.pt.hold = false ∧ t.pt.sync = true ∧ t.pt.acq = true ∧
        (s.pt.acq = false → t.now = ((s.now : Int) - (((t2 : Int) - t1) - ((t4 : Int) - t3)) / 2).toNat)) ∧
      (s.pt.ext = false → result (.ptset who val) fun t => t.now = val.toNat ∧ t.pt.sync = true ∧ t.pt.acq = true) ∧
      result .timeParentLost fun t => t.pt.hold = true ∧ t.pt.ext = false ∧ t.pt.sync = s.pt.sync) ∧
    (∀ sync t2 t3 t4, sync.dom ≠ s.pt.dom.toNat → exec (.ptpMessage sync t2 t3 t4) s = .next s.issues) ∧
    (s.pt.root = false →
      (∀ sync t2 t3 t4, exec (.ptpMessage sync t2 t3 t4) s = .next s.issues) ∧ exec (.ptset who val) s = .next s.issues ∧
      result .timeParentLost fun t => t.pt.hold = true ∧ t.pt.sync = false)

/-! ### Power and thermal control (13), L2 windows (12 R329) -/

/-- 13 R342 to R361, 12 R329: a cadence from 1 to 16 is what an operation reads from the cycle after the write, or waits in PEND while a stamped launch holds the core; a window of
the governor that ends with no work loses RAMP of its load; a clock change waits for stamped launches, then for the rails, then pauses, and
pod time stands where it stood when it is done; a stack's reading is kept, and a read that fails puts the stack at its hottest step; a
refresh holds a pseudo-channel for 200 ns; a sample is kept and a trip sets cadence 16; a core drains, gates, wakes and is online; an L2
window is written and then filled. A wake by an access to a gated core's port changes no state, the model's choice, which keeps no time of it
(log 61). What is not enabled leaves the state as it is: the model's choice (log 15). -/
def Obligations.PowerControl : Prop :=
  ∀ (s : State) (who c : Nat) (val : Word), 96 ≤ who → who ≤ 100 → c < 96 →
    let k := s.core c
    let result (i : Instr) (f : State → Prop) : Prop := ∃ t, exec i s = .next t ∧ t.res = .issued ∧ t.mem = s.mem ∧ f t
    (let v := val.toNat % 32
     1 ≤ v → v ≤ 16 → k.trip = false → k.mq = [] →
      (val.getLsbD 8 = true ∨ k.stampHeld = false →
        result (.mxcadWrite who c val) fun t => (t.core c).cad.toNat = v ∧ (t.core c).pv = false ∧ (t.core c).cadAt s.cycle = k.cadAt s.cycle ∧
          ∀ x, s.cycle < x → ((t.core c).cadAt x).toNat = v) ∧
      (val.getLsbD 8 = false → k.stampHeld = true →
        result (.mxcadWrite who c val) fun t => t.core c = { k with pendCad := BitVec.ofNat 5 v, pv := true })) ∧
    (k.inj = [] → k.mq = [] → k.gatheredFor = none → s.ranTo c / 64 = k.win + 1 →
      result (.governorWindow c) fun t => t.core c = { k with win := k.win + 1, load := k.load - s.ramp }) ∧
    (let x := val.toNat % 4
     s.clk = none → x ≠ s.step_ → val.getLsbD 8 = false →
      exec (.clkctlWrite 100 val) s =
        .next ({ s with clk := some ⟨x, if s.stampedActive then 0 else 1, s.stampedActive, 0, 0⟩ } : State).issues) ∧
    (∀ x, s.clk = some x →
      (x.phase = 0 → s.stampedActive = false →
        exec .clockChangeProceed s = .next ({ s with clk := some { x with phase := 1 } } : State).issues) ∧
      (x.phase = 1 → s.step_ ≤ x.target → (∀ n, (s.core n).mq = []) →
        exec .clockRailsTrimmed s = .next ({ s with clk := some { x with phase := 2, since := s.now, from_ := s.cycle } } : State).issues) ∧
      (x.phase = 2 →
        result .clockSwitchDone fun t => t.step_ = x.target ∧ t.clk = none ∧ t.now = s.now ∧ t.alertStatus.getLsbD 7 = true)) ∧
    (∀ h, h < 8 →
      let st := s.hbm.get {} h
      (result (.hbmTempRead h none) fun t =>
        t.hbm.get {} h = { st with valid := false, s := 2, afresh := true } ∧ t.alertStatus.getLsbD 6 = true) ∧
      (∀ b : BitVec 8, result (.hbmTempRead h (some b)) fun t =>
        (t.hbm.get {} h).valid = true ∧ (t.hbm.get {} h).degc = b ∧
          (t.hbm.get {} h).s = if st.afresh then (if 96 ≤ b.toNat then 2 else if 86 ≤ b.toNat then 1 else 0) else stepAfter st.s b.toNat) ∧
      (∀ pc, pc < 64 → result (.hbmRefresh h pc) fun t => (t.hbm.get {} h).hold.get 0 pc = s.now + 200)) ∧
    (∀ lo hi : BitVec 16, result (.coreSensorSample c lo hi) fun t => (t.core c).thermLo = lo ∧ (t.core c).thermHi = hi ∧
      (k.trip = false → 840 < max lo.toInt hi.toInt → (t.core c).tripDue = true)) ∧
    (k.tripDue = true → k.trip = false → k.mq = [] →
      result (.thermalTrip c) fun t => (t.core c).cad.toNat = 16 ∧ (t.core c).trip = true ∧ (t.core c).tripDue = false) ∧
    (result (.stateGateSet 100 c) fun t => t.core c = { k with gate := true, power := if k.power = 0 ∨ k.power = 3 then 1 else k.power }) ∧
    (result (.stateGateClear 100 c) fun t =>
      t.core c = { k with gate := false, power := if k.power = 1 then 0 else if k.power = 2 then 3 else k.power }) ∧
    (k.power = 1 → k.task = none → k.cq = [] → k.gq = [] → k.tq = [] → k.mq = [] → k.wb = [] → (∀ r ∈ s.fab.reqs, r.queue ≠ some c) →
      (∀ e ∈ s.tiles, e.core ≠ some c) → (∀ b ∈ k.blocks, b.fill = none) → (k.governTo s.ramp none s.arrayCycle 200).load = 0 → result (.coreGated c) fun t => t.core c = { k with power := 2 }) ∧
    (k.power = 3 → result (.coreOnline c) fun t => t.core c = { k with power := 0 }) ∧
    exec (.gatedPortWake c) s = .next s.issues ∧
    ∀ d w, d < 4 → w < 4 →
      (val.getLsbD 0 = false →
        result (.l2winWrite who d w val) fun t => (t.die d).l2win.get 0 w = val &&& 0xFFFFFFFC01) ∧
      (((s.die d).l2win.get 0 w).getLsbD 0 = true →
        result (.l2winFilled d w) fun t => (t.die d).l2win.get 0 w = (s.die d).l2win.get 0 w ||| 2)


/-! ### Translation and migration (11) -/

/-- 11 R302 R303 R304 R307 R308: TLBLOCK 1 walks a page and holds it in the die's TLB, while fewer than 256 are held, and 2 frees it; SDGO drops
every cached translation of the range and sets BUSY, or BAD where SDCTL is malformed, and BUSY falls once no access uses one; a page reply answers
its request, and a refused one makes what waits for it fail when it is next tried; the patrol counts what it corrects, and poisons, counts and records a word it
cannot; that errors in the memories of cores come with it is the model's choice (log 83). What is not enabled leaves the state as it is: the model's choice (log 15). -/
def Obligations.TranslationCommands : Prop :=
  ∀ (s : State) (who d : Nat) (val : Word), (96 ≤ who ∧ who ≤ 100) → d < 4 →
    let result (i : Instr) (f : State → Prop) : Prop := ∃ t, exec i s = .next t ∧ t.res = .issued ∧ t.mem = s.mem ∧ f t
    let ctx := bitsOf val 8 6
    let va := bitsOf val 16 40 * 65536
    let set := who - 96
    let x := s.shoot.get {} set
    let size := sdSize (bitsOf x.ctl 0 2)
    let base := bitsOf x.ctl 16 40 * 65536
    let wellFormed : Prop := bitsOf x.ctl 56 8 = 0 ∧ bitsOf x.ctl 10 6 = 0 ∧ bitsOf x.ctl 2 2 = 0 ∧
      (bitsOf x.ctl 0 2 ≠ 3 → base % size = 0)
    (bitsOf val 0 2 = 1 →
      (∀ e l a, s.walk ctx va = .leaf e l a → (s.die d).locked < 256 →
        result (.tlblockLock who d val) fun t =>
          { TlbEntry.ofLeaf ctx va e l with locked := true } ∈ (t.die d).tlb ∧
            ∀ u ∈ (s.die d).tlb, u.locked = true → ∃ w ∈ (t.die d).tlb, w.ctx = u.ctx ∧ w.va = u.va ∧ w.size = u.size ∧ w.locked = true) ∧
      (s.walk ctx va = .absent → exec (.tlblockLock who d val) s = .next s.issues)) ∧
    (bitsOf val 0 2 = 2 →
      result (.tlblockUnlock who d val) fun t => (t.die d).tlb.length = (s.die d).tlb.length ∧
        ∀ u ∈ (t.die d).tlb, u.covers ctx va = true → u.locked = false) ∧
    (x.busy = true → exec (.sdgo who set) s = .next s.issues) ∧
    (x.busy = false → wellFormed →
      result (.sdgo who set) fun t => (t.shoot.get {} set).busy = true ∧ (t.shoot.get {} set).bad = false ∧
        ∀ u : TlbEntry, u.ctx = bitsOf x.ctl 4 6 → overlap u.va u.size (if bitsOf x.ctl 0 2 = 3 then 0 else base) size = true →
          (∀ k, k < 4 → u ∉ (t.die k).tlb) ∧ ∀ n, u ∉ (t.core n).utlb) ∧
    (x.busy = false → ¬ wellFormed →
      result (.sdgo who set) fun t => (t.shoot.get {} set).busy = false ∧ (t.shoot.get {} set).bad = true ∧ t.dies = s.dies) ∧
    result (.shootdownComplete set) (fun t => (t.shoot.get {} set).busy = false ∧ (t.shoot.get {} set).bad = x.bad) ∧
    (∀ r, (s.die d).preqs.find? (·.num == bitsOf val 0 16) = some r →
      (val.getLsbD 16 = false →
        result (.pgreplyRetry who d val) fun t => (t.die d).preqs = (s.die d).preqs.filter fun q => decide (q.num ≠ r.num)) ∧
      (∀ n a p, val.getLsbD 16 = true → n < 96 → dieOf n = d → s.agents = [(n, a)] → s.cores = [] → s.tiles = [] → s.launches = [] →
        s.fab.rx = [] → s.fab.reqs = [] → a.pend = some p → p.page = some (r.ctx, r.va) → r.va % 65536 = 0 → a.pageHold = none →
        result (.pgreplyRefuse who d val) fun t => (t.agent n).pend = some { p with refused := some (r.ctx, r.va) } ∧
          (t.agent n).deferred = a.deferred ∧ (t.die d).preqs = (s.die d).preqs.filter fun q => decide (q.num ≠ r.num))) ∧
    (∀ (i : Issuer) (kind : AccKind) (c a n : Nat), i.ctx = some c → s.refuse = some (c, a / 65536 * 65536) →
      s.reach i kind a n = .fail s kind.code a) ∧
    (∀ h fixed, h < 8 →
      result (.hbmPatrol h fixed []) (fun t => (t.die (h / 2)).eccCor = satInc (s.die (h / 2)).eccCor fixed ∧ t.poison = s.poison) ∧
      (∀ n b w, n < 96 → w < bankWords b →
        result (.hbmPatrol h fixed [.core n b w]) fun t => (b, w) ∈ (t.core n).spoilt ∧ t.poison = s.poison ∧ (t.core n).scratch = (s.core n).scratch) ∧
      ∀ pa, pa < 0x8000000000 → (channelOf pa).1 = h →
        result (.hbmPatrol h fixed [.home pa]) fun t => (t.die (h / 2)).eccCor = satInc (s.die (h / 2)).eccCor fixed ∧ pa / 128 ∈ t.poison ∧
          (t.die (h / 2)).eccUnc = satInc (s.die (h / 2)).eccUnc 1 ∧
          (t.die (h / 2)).evWait = (s.die (h / 2)).evWait ++ [{ kind := 10, w2 := BitVec.ofNat 64 pa, w3 := 1 }])

/-- 11 R305 R306: MIGGO copies the page to its new frame and starts the first round, and notes the new frame, the context and the address, by which
the migration goes from then on; a request that is malformed ends as refused, one whose VA is no multiple of the page's size among them, which is the
model's choice (log 81). Each round copies
the lines that were dirty when it began; if it leaves fewer than 16 dirty the page freezes, the eighth that does not gives up, and another round has
those to copy. That MIGRATION_ROUND ends a round, and that it is the lines left dirty which are counted and decide, is the model's reading (log 60);
which lines dirtied since the start were dirty before the first round began is its free value (log 81). A copy that has no room for the records of
uncorrectable words waits (12 R335) and is not stated here. The switch puts the new frame into the page's
entry and drops its translations, or gives up where the entry has changed. What is not enabled leaves the state as it is: the model's choice (log 15). -/
def Obligations.Migrations : Prop :=
  ∀ (s : State) (who d : Nat) (val : Word), d < 4 → (who = 96 + d ∨ who = 100) →
    let m := (s.die d).mig
    let dst := bitsOf m.dst 16 24 * 65536
    let va := bitsOf m.ctl 16 40 * 65536
    let size := if bitsOf m.ctl 0 2 = 0 then 2 ^ 16 else 2 ^ 21
    let apart (a b n : Nat) : Prop := a + n ≤ b ∨ b + n ≤ a
    let result (i : Instr) (f : State → Prop) : Prop := ∃ t, exec i s = .next t ∧ t.res = .issued ∧ f t
    let formed : Prop := bitsOf m.ctl 56 8 = 0 ∧ bitsOf m.ctl 8 8 = 0 ∧ bitsOf m.ctl 0 2 < 2 ∧ bitsOf m.dst 40 24 = 0 ∧
      bitsOf m.dst 0 16 = 0 ∧ dst % size = 0 ∧ dst + size ≤ 0x8000000000 ∧ va % size = 0
    (m.state = 1 ∨ m.state = 2 → exec (.miggo who d val) s = .next s.issues) ∧
    (m.state ≠ 1 → m.state ≠ 2 →
      (¬ formed → result (.miggo who d val) fun t => (t.die d).mig = { m with state := 4 } ∧ t.mem = s.mem) ∧
      (∀ e a, formed → s.walk (bitsOf m.ctl 2 6) va = .leaf e (if bitsOf m.ctl 0 2 = 0 then 0 else 1) a → pteAddr e % size = 0 →
        pteAddr e + size ≤ 0x8000000000 → apart (pteAddr e) dst size →
        (∀ k, k < 4 → k ≠ d → (s.die k).mig.state ≠ 1 ∧ (s.die k).mig.state ≠ 2) → s.copyFull d (frameLines (pteAddr e) size) = false →
        result (.miggo who d val) fun t =>
          (t.die d).mig = { m with state := 1, leafAt := a, leaf := e, frame := pteAddr e, size := size, dirty := [], todo := [], to_ := dst, ctx := bitsOf m.ctl 2 6, va := va
                                   rounds := 0, dirtyCount := 0 } ∧
            ∀ j, t.byteAt j = if dst ≤ j ∧ j < dst + size then s.byteAt (pteAddr e + (j - dst)) else s.byteAt j)) ∧
    (m.state ≠ 1 → exec (.migrationRound d) s = .next s.issues) ∧
    (m.state = 1 → s.copyFull d (s.roundSplit m).1 = false →
      let ls := (s.roundSplit m).1
      let left := (s.roundSplit m).2
      let ended : Migration := { m with rounds := m.rounds + 1, dirtyCount := left.length, todo := [], dirty := [] }
      (∃ j, j ≤ m.dirty.length ∧ ls = m.todo ++ m.dirty.drop j ∧ left = m.dirty.take j ∧ (m.rounds ≠ 0 → j = m.dirty.length)) ∧
      (left.length < 16 → result (.migrationRound d) fun t => (t.die d).mig = { ended with state := 2, dirty := left }) ∧
      (16 ≤ left.length → 7 ≤ m.rounds → result (.migrationRound d) fun t => (t.die d).mig = { ended with state := 5 }) ∧
      (16 ≤ left.length → m.rounds < 7 → result (.migrationRound d) fun t => (t.die d).mig = { ended with todo := left }) ∧
      (m.frame % 65536 = 0 → m.size = size → m.frame + size ≤ 0x8000000000 →
        m.to_ + size ≤ 0x8000000000 → apart m.frame m.to_ size → (∀ l ∈ ls, m.frame ≤ 128 * l ∧ 128 * l < m.frame + size) →
        result (.migrationRound d) fun t =>
          (∀ l ∈ ls, ∀ j, j < 128 → t.byteAt (m.to_ + (128 * l - m.frame) + j) = s.byteAt (128 * l + j)) ∧
            ∀ j, (j < m.to_ ∨ m.to_ + size ≤ j) → t.byteAt j = s.byteAt j)) ∧
    (m.state = 2 → m.dirty = [] → m.leafAt + 8 ≤ 0x8000000000 → m.to_ % 65536 = 0 → m.to_ < 2 ^ 40 →
      (s.physWord m.leafAt 8 ≠ m.leaf.toNat →
        result (.migrationSwitch d) fun t => (t.die d).mig = { m with state := 6 } ∧ t.mem = s.mem) ∧
      (s.physWord m.leafAt 8 = m.leaf.toNat →
        result (.migrationSwitch d) fun t => (t.die d).mig = { m with state := 3 } ∧
          pteAddr (BitVec.ofNat 64 (t.physWord m.leafAt 8)) = m.to_ ∧
          (BitVec.ofNat 64 (t.physWord m.leafAt 8) : Word) &&& 0xFFFFFF00000000FF = m.leaf &&& 0xFFFFFF00000000FF ∧
          (∀ j, (j < m.leafAt ∨ m.leafAt + 8 ≤ j) → t.byteAt j = s.byteAt j) ∧
          ∀ u : TlbEntry, u.ctx = m.ctx → overlap u.va u.size m.va m.size = true →
            (∀ k, k < 4 → u ∉ (t.die k).tlb) ∧ ∀ n, u ∉ (t.core n).utlb))

/-! ### Launches, tasks, event records (12) -/

/-- 12 R312 R315 to R318 R326 R327, 01 R11, 05 R128: a launch whose conditions hold takes an active slot; a stamped one whose cores are gathered
begins its strands in frame 0, which is at the first cycle after the last gather and the last task before it on its cores at which pod time has reached its start. The die's next work is placed on the core that R316 chooses: a task begins there with its argument in s1, its
descriptor in s2 and everything else zero. The next task of a strand begins at a frame boundary, or its core is released, or the reorder window or the core's TALLOW (R316 R318) holds it back. A task that has ended with
nothing in flight completes and enters the reorder window, a faulted one lowers the launch's bound, and tasks are reported in order. What is not
enabled leaves the state as it is: the model's choice (log 15). -/
def Obligations.LaunchEvents : Prop :=
  ∀ (s : State) (num d n : Nat) (l : Launch), s.launch num = some l → d < 4 → n / 24 = d →
    let result (i : Instr) (f : State → Prop) : Prop := ∃ t, exec i s = .next t ∧ t.res = .issued ∧ t.mem = s.mem ∧ f t
    let tb := l.table
    let k := s.core n
    let a := s.agent n
    let beginsAs (t : State) (x : Nat) (c : Nat) (origin : Nat) : Prop :=
      (∃ y, (t.core n).task = some y ∧ y.launch = num ∧ y.tidx = x ∧ y.ctx = l.ctx ∧ y.die = d ∧ y.origin = origin ∧
        y.coords = (if l.isBind then [] else coordsOf tb x) ∧
        (t.agent n).regs.rs 2 = y.desc) ∧
      (t.core n).scratch = [] ∧ (t.core n).claims = [] ∧ (t.core n).acc = [] ∧ (t.core n).status = 0 ∧ (t.core n).qscale = 0 ∧
      (t.agent n).run = .running ∧ (t.agent n).pc = Rec_word l.rec_ 4 ∧ (t.agent n).earliest = c ∧ (t.agent n).loops = [] ∧
      (t.agent n).links = [] ∧ (t.agent n).regs.rs 1 = Rec_word l.rec_ 1 ∧ (∀ j, j ≠ 1 → j ≠ 2 → (t.agent n).regs.rs j = 0) ∧
      (∀ j, j ≠ 0 → (t.agent n).regs.rp j = { bits := 0, tag := true }) ∧ (∀ j, (t.agent n).regs.rv j = 0)
    (l.active = false → l.isBind = false → l.abort = none → ltStamped tb = false → l.undispatched = true →
      (Rec_word l.rec_ 7).toNat ≤ s.now → (s.gate.getLsbD l.prio = false ∨ l.released = true) →
      (∀ x ∈ s.launches, x.active = true ∨ x.before l = false) → s.takingWaits num = false →
      ∀ p, s.slotPlace l.depth = some p →
        result (.launchActivate num) fun t => t.launch num = some { l with active := true, place := p, sinkTime := s.now }) ∧
    (l.active = true → exec (.launchActivate num) s = .next s.issues) ∧
    (ltStamped tb = true → ltLevels tb = 0 → l.isBind = false → l.onDie = none → s.canActivate l = true → s.gathered l = true →
      s.isFirst l = true → s.gatheredFree num = true → d = 0 → (s.gatheredOn num 0).head? = some n → l.sent = [] → l.head = [] →
      result (.stampedGatherDone num) fun t => beginsAs t 0 (s.frameZero l) (s.frameZero l) ∧
        ∃ y, t.launch num = some y ∧ y.active = true ∧ y.begun = true ∧ y.frame0 = s.frameZero l) ∧
    (∀ c, (∀ e m, e < 4 → m ∈ s.gatheredOn num e → ((s.core m).governTo s.ramp none s.arrayCycle 200).fullAt ≤ c ∧ (s.agent m).earliest ≤ c) →
      c ≤ s.cycle →
      l.start ≤ s.timeAt c → s.frameZero l ≤ c) ∧
    (s.readLogs d = s → ltRec tb = false → ltRpl tb = false → ∀ x r, firstWork (s.works d) = some (.fresh num x, r) → s.coreFor d (some l) x = some n →
      s.keptFor d (r.headD 0) = false →
      result (.taskDispatch d n) fun t => beginsAs t x (max s.cycle a.earliest) (max s.cycle a.earliest)) ∧
    (s.readLogs d = s → ∀ id e r, firstWork (s.works d) = some (.child id, r) → s.tile id = some e → s.coreFor d none 0 = some n →
      s.keptFor d (r.headD 0) = false → result (.taskDispatch d n) fun t => t.tile id = some { e with core := some n } ∧ t.core n = k) ∧
    (k.gatheredFor = some num → k.task = none → l.begun = true → k.mq = [] → s.tileFree n = true →
      ∀ key, l.strands.find? (fun p => p.2 == n + 1) = some (key, n + 1) →
        let released : Prop := result (.stampedStrandNext n) fun t => (t.core n).gatheredFor = none ∧ (t.core n).pv = false ∧
          (t.core n).cad = if k.pv then k.pendCad else k.cad
        ((∀ x, l.next.get 0 key ≤ x → x < ltTotal tb → ¬ (inShare tb l.onDie d x = true ∧ strandOf tb x = key)) → released) ∧
        (∀ x, l.next.get 0 key ≤ x → x < ltTotal tb → inShare tb l.onDie d x = true → strandOf tb x = key →
          (∀ y, l.next.get 0 key ≤ y → y < x → ¬ (inShare tb l.onDie d y = true ∧ strandOf tb y = key)) →
          (l.mayDispatch x = false → released) ∧
          (l.mayDispatch x = true → l.head.get 0 d + 256 ≤ ordinalOf l d x ∨ s.eligible n (some num) = false →
            result (.stampedStrandNext n) fun t => t.core n = k ∧ t.agent n = { a with earliest := max a.earliest s.cycle }) ∧
          (l.mayDispatch x = true → ordinalOf l d x < l.head.get 0 d + 256 → s.eligible n (some num) = true →
            result (.stampedStrandNext n) fun t => ∃ c, beginsAs t x c l.frame0 ∧ max l.frame0 a.earliest ≤ c ∧
              (c - l.frame0) % max 1 (ltFrame tb) = 0 ∧ c < max l.frame0 a.earliest + max 1 (ltFrame tb)))) ∧
    (∀ y, k.task = some y → y.launch = num → k.mq = [] → k.slog = [] →
      let d0 : Done := { die := y.die, ord := y.ord, tidx := y.tidx, code := 0, addr := a.faultaddr, pc := a.faultpc, src := a.faultsrc, later := 0 }
      (a.run = .ended → a.flight = [] → a.pend = none → a.deferred = [] → k.blocks = [] → k.regions = [] →
        result (.taskComplete n) fun t => (t.core n).task = none ∧ (t.core n).scratch = k.scratch ∧ ∃ z, t.launch num = some z ∧ z.done = l.done ++ [d0] ∧ z.bound = l.bound ∧
          z.nfault = l.nfault) ∧
      (a.run = .faulted → a.pend = none → y.doom = none →
        result (.taskComplete n) fun t => (t.core n).task = none ∧ ∃ z, t.launch num = some z ∧ z.nfault = l.nfault + 1 ∧
          z.done = l.done ++ [{ d0 with code := a.faultcode, later := a.later + a.deferred.length }] ∧ z.bound = some (min y.tidx (l.bound.getD y.tidx)))) ∧
    (∀ x, s.nextReport l d = some x → x ∈ l.done ∧ x.die = d ∧
      (x.ord = l.head.get 0 d ∨ ∀ y, y < x.tidx → inShare tb l.onDie d y = true → l.head.get 0 d ≤ ordinalOf l d y → s.neverRuns l y = true)) ∧
    (∀ x, l.done.filter (fun x => x.die == d) = [x] → x.ord = l.head.get 0 d → s.nextReport l d = some x) ∧
    (∀ x, l.isBind = false → l.undispatched = true → s.nextReport l d = some x →
      result (.taskReport num d) fun t => ∃ z, t.launch num = some z ∧ z.head.get 0 d = x.ord + 1 ∧
        z.done = l.done.filter fun z => !(z.die == d && z.ord == x.ord))

/-- 05 R129, 12 R314 R319 to R322 R334 R335: a task asked to stop is saved with its registers and core state once nothing of it is in flight and a
save slot is free whose lines nothing holds, a stop for YIELD or a wait never in the last 72 of them, and a record says so where none is; a stamped one ends with STAMP_OVERRUN instead. It resumes as it was saved, on the core that
R316 chooses, a wait at the latest after 10 µs. That its context stands in Die.saved, and it resumes from there whatever the bytes of its slot have become, is the
model's choice (log 10); that its registers are saved full, and one that a waiting BARARR fills is empty again when it resumes, is its reading (log 32),
as is the agent number of its record (log 26). The watchdog reports a hang. LCMD releases, aborts and continues launches; EVICT stops a task. The
oldest waiting event record goes to the die's ring, waits while that is full or its line is held, and is lost while the ring is off or its place lies outside HBM. What is not enabled leaves the state
as it is: the model's choice (log 15). -/
def Obligations.TaskStops : Prop :=
  ∀ (s : State) (who d n num : Nat) (l : Launch), (96 ≤ who ∧ who ≤ 100) → s.launch num = some l → d < 4 → n / 24 = d →
    let result (i : Instr) (f : State → Prop) : Prop := ∃ t, exec i s = .next t ∧ t.res = .issued ∧ f t
    let k := s.core n
    let a := s.agent n
    let x := s.die d
    (∀ y c, k.task = some y → y.die = d → y.stopAsked = some c → y.doom = none → k.mq = [] → (softStop c = true → s.victim d ≠ some n) →
      (y.mode.getLsbD 0 = true →
        result (.taskStop n) fun t => ∃ z, (t.core n).task = some z ∧ z.doom = some cStamp ∧ t.agents = s.agents) ∧
      (y.mode.getLsbD 0 = false → s.drained n = true → k.regions = [] →
        (∀ i, x.slotFor c = some i → s.spanHeld (s.slotSpan d i) 0x300000 = false →
          result (.taskStop n) fun t =>
            (∀ j, (j < x.saveAddr.toNat * 2 ^ 20 + i * 0x300000 ∨ x.saveAddr.toNat * 2 ^ 20 + (i + 1) * 0x300000 ≤ j) → t.byteAt j = s.byteAt j) ∧
            (t.core n).task = none ∧ (t.core n).scratch = k.scratch ∧ ∃ z, (t.die d).saved = x.saved ++ [z] ∧ z.slot = i ∧ z.cause = c ∧
            z.task = { y with stopAsked := none, saveNoted := false, stops := y.stops + 1 } ∧ z.agent.regs = { a.regs with empty := [] } ∧ z.agent.pc = a.pc ∧ z.agent.loops = a.loops ∧
            z.agent.links = a.links ∧ z.core.scratch = k.scratch ∧ z.core.claims = k.claims ∧ z.core.slotMem = k.slotMem ∧ z.core.acc = k.acc ∧
            z.core.status = k.status ∧ z.core.latch = k.latch ∧ z.core.slog = k.slog) ∧
        (x.slotFor c = none → c = 3 ∨ c = 5 →
          result (.taskStop n) fun t => t.mem = s.mem ∧ t.agents = s.agents ∧ (t.core n).task = some { y with stopAsked := none }) ∧
        (x.slotFor c = none → c ≠ 3 → c ≠ 5 → y.saveNoted = false →
          result (.taskStop n) fun t => t.agents = s.agents ∧ (t.core n).task = some { y with saveNoted := true } ∧
            ∃ r, (t.die d).evWait = x.evWait ++ [r] ∧ r.kind = 15 ∧ r.agent = n ∧ r.w2 = BitVec.ofNat 64 n))) ∧
    (∀ slot tx r y, firstWork (s.works d) = some (.resume slot num tx, r) → x.saved.find? (·.slot == slot) = some y → ltRec l.table = false →
      ltRpl l.table = false → y.slot = slot → s.readLogs d = s → s.keptFor d (r.headD 0) = false →
      s.spanHeld (s.slotSpan d slot) 0x300000 = false → s.coreFor d (some l) tx = some n →
      result (.taskResume d n) fun t => t.mem = s.mem ∧ (y.agent.pend = none → (t.agent n).regs = y.agent.regs) ∧
        (∀ p q rd ra rb, y.agent.pend = some p → p.instr = .bararr q rd ra rb → rd ≠ 0 → (t.agent n).regs = y.agent.regs.mark (.s rd.toNat)) ∧ (t.agent n).pc = y.agent.pc ∧
        (t.agent n).loops = y.agent.loops ∧ (t.agent n).links = y.agent.links ∧ (t.core n).task = some y.task ∧
        (t.core n).scratch = y.core.scratch ∧ (t.core n).acc = y.core.acc ∧ (t.core n).slotMem = y.core.slotMem ∧
        (t.core n).claims = y.core.claims ∧ (t.core n).status = y.core.status ∧ (t.die d).saved = x.saved.filter fun z => decide (z.slot ≠ slot)) ∧
    (∀ y, x.saved = [y] → y.why = 2 → y.task.launch = num → y.since + 10000 ≤ s.counted →
      result (.waitResumable num y.task.ord) fun t => (t.die d).saved = [{ y with why := 0, watch := none }] ∧ t.mem = s.mem) ∧
    (∀ c, (x.slotFor c = none ↔ (x.freeSlot = none ∨ (c ≠ 1 ∧ c ≠ 4 ∧ x.freeSlots ≤ 72)))) ∧
    (∀ c, l.active = true → s.paused = false → s.ticking num = true → l.clockFrom = some c → s.wdog * 1000 ≤ l.clockAcc + (s.now - c) →
      result (.watchdogExpiry num) fun t => t.mem = s.mem ∧
        (∃ z, t.launch num = some z ∧ z.clockAcc = 0 ∧ z.clockFrom = some s.now) ∧
        ∃ r, (t.die s.evdie).evWait = (s.die s.evdie).evWait ++ [r] ∧ r.kind = 11 ∧ r.code = cWatchdog ∧ r.launch = some num) ∧
    (∀ val y, s.lcmdOf val = some y →
      (bitsOf val 8 2 = 1 →
        result (.lcmdRelease who val) fun t => (∀ z ∈ t.launches, z.num = y.num → z.released = true) ∧ t.cores = s.cores ∧ t.mem = s.mem) ∧
      (bitsOf val 8 2 = 2 → y.abort = none → y.num = num → s.allReported l = false →
        BitVec.ofNat 8 (bitsOf val 24 8) ∈ [cTrap, cWatchdog, cReplay] →
        result (.lcmdAbort who val) fun t => t.mem = s.mem ∧
          (∀ z ∈ t.launches, z.num = num → z.abort = some (BitVec.ofNat 8 (bitsOf val 24 8))) ∧
          ∀ m, ((s.agent m).run = .running ∨ (s.agent m).run = .broken → ∀ z, (t.core m).task = some z → z.launch = num → z.doom = some (BitVec.ofNat 8 (bitsOf val 24 8))) ∧
            ((s.agent m).run ≠ .running → (s.agent m).run ≠ .broken → t.core m = s.core m)) ∧
      (bitsOf val 8 2 = 2 → BitVec.ofNat 8 (bitsOf val 24 8) ∉ [cTrap, cWatchdog, cReplay] →
        exec (.lcmdAbort who val) s = .next s.issues) ∧
      (bitsOf val 8 2 = 3 → y.halted = true →
        result (.lcmdContinue who val) fun t => t.mem = s.mem ∧ ∀ z ∈ t.launches, z.num = y.num → z.halted = false ∧ z.replayOff = true) ∧
      (bitsOf val 8 2 = 3 → y.halted = false → exec (.lcmdContinue who val) s = .next s.issues)) ∧
    (∀ val y, bitsOf val 0 7 = n → k.task = some y →
      (y.mode.getLsbD 0 = false → (∀ c, y.stopAsked = some c → softStop c = true) →
        result (.evict who val) fun t => (t.core n).task = some { y with stopAsked := some 2 } ∧ t.mem = s.mem) ∧
      (y.mode.getLsbD 0 = true → result (.evict who val) fun t => (t.core n).task = some { y with doom := some cStamp } ∧ t.mem = s.mem)) ∧
    (x.evWait = [] → exec (.eventRecordPost d) s = .next s.issues) ∧
    (∀ r rest, x.evWait = r :: rest → r.kind ≠ 9 →
      let at_ := x.evAddr.toNat * 2 ^ 12 + 64 * (x.evqtail.toNat % 2 ^ x.evLog2)
      let used := (x.evqtail - x.evqhead).toNat
      (x.evEn = true → at_ + 64 ≤ 0x8000000000 → used < 2 ^ x.evLog2 →
        s.homeHeld { agent := 96 + d, ctx := none, other := true } at_ 64 = false →
        result (.eventRecordPost d) fun t => (t.die d).evWait = rest ∧ (t.die d).evqtail = x.evqtail + 1 ∧
          t.physBytes at_ 64 = r.bytesOf s.now x.evqtail.toNat ∧ ∀ j, (j < at_ ∨ at_ + 64 ≤ j) → t.byteAt j = s.byteAt j) ∧
      (x.evEn = true → at_ + 64 ≤ 0x8000000000 → 2 ^ x.evLog2 ≤ used → r.waited = false →
        result (.eventRecordPost d) fun t => t.mem = s.mem ∧ (t.die d).evWait = { r with waited := true } :: rest ∧
          (t.die d).evHolds = satInc x.evHolds 1) ∧
      (x.evEn = false ∨ 0x8000000000 < at_ + 64 →
        result (.eventRecordPost d) fun t => t.mem = s.mem ∧ (t.die d).evWait = rest ∧ (t.die d).evLost = satInc x.evLost 1))

/-! ### Tile instructions (09) -/

/-- 08 R231, 09 R240 R248 R265 R266 R270 R272, 12 R310: a record of a data operation that its queue has room for is taken as the queue's youngest, and
one whose level is not the queue's is taken as a refusal that its report will carry; none is taken by a full queue. A TBARRIER opens or joins
the instance of its tag; a TLAUNCH or a TBIND that passes its checks takes an LQ entry; a record of level 4 goes to the lead chip as an ordered
message. What is not enabled leaves the state as it is: the model's choice (log 15). -/
def Obligations.TileRecords : Prop :=
  ∀ (s : State) (p : Pusher) (q : TileQueue) (r : Rec),
    let result (i : Instr) (f : State → Prop) : Prop := ∃ t, exec i s = .next t ∧ t.res = .issued ∧ t.mem = s.mem ∧ f t
    let o := (s.tileOrigin p q).1
    let ctx := (s.tileOrigin p q).2.1
    let phys := (s.tileOrigin p q).2.2
    let room : Prop := (s.tiles.filter fun e => e.queue == q && e.parent.isNone).length < tileDepth q
    let isRec (e : TileEntry) : Prop := e.rec_ = r ∧ e.queue = q ∧ e.level = queueLevel q ∧ e.origin = o ∧ e.ctx = ctx ∧ e.phys = phys ∧
      e.id = s.nextId ∧ e.parent = none
    let full (opc : Nat) (i : Instr) : Prop := tiOpc r = opc → ¬ room → exec i s = .next s.issues
    let refused (opc : Nat) (i : Instr) : Prop := tiOpc r = opc → room → tiLevel r ≠ queueLevel q →
      result i fun t => ∃ e, t.tiles = s.tiles ++ [e] ∧ isRec e ∧ e.failed = true ∧ e.rep.code = cQueue
    let data (opc : Nat) (i : Instr) : Prop :=
      (q ≠ .pq → full opc i ∧ refused opc i) ∧
      (tiOpc r = opc → q ≠ .pq → room → s.tileRefused q r p = none →
        result i fun t => (∃ e ∈ t.tiles, isRec e) ∧ ∀ n, q = .tq n → (t.core n).tq = (s.core n).tq ++ [s.nextId]) ∧
      (tiOpc r = opc → q = .pq → room → tiLevel r = 4 → s.mg.podlead.getLsbD 63 = true → s.dbgHalt = false → s.pt.sync = true →
        result i fun t => ∃ e x, t.tiles = s.tiles ++ [e] ∧ isRec e ∧ t.fab.reqs = s.fab.reqs ++ [x] ∧ x.pod = some s.nextId ∧ x.ord = true ∧
          x.stamp = s.now ∧ x.dst = bitsOf s.mg.podlead 48 11)
    let launches (opc : Nat) (i : Instr) : Prop := tiOpc r = opc → (q = .xq ∨ ∃ d, q = .dq d) → tiLevel r = queueLevel q →
      s.tileReady (s.launchEntry q r o ctx (s.sourceOf r o).1 (if opc = 11 then 0 else (s.sourceOf r o).2) phys) = true →
      ∀ u tb hint place, s.checkLaunch (queueAgent q) r o ctx (if opc = 11 then 0 else (s.sourceOf r o).2) (tiLevel r) = .ok u tb hint → tiOpc r = 10 ∨ bindN r ≠ 0 →
        u.lqPlace (if opc = 11 then 0 else (s.sourceOf r o).2) = some place →
        result i fun t => ∃ l, t.launches = s.launches ++ [l] ∧ l.rec_ = r ∧ l.table = tb ∧ l.num = s.launchNext ∧ l.ctx = ctx ∧ l.origin = o ∧
          l.place = place ∧ l.active = false ∧ l.prio = max (s.sourceOf r o).1 (ltPrio tb) ∧ t.launchNext = s.launchNext + 1
    data 1 (.tmatmul p q r) ∧ data 2 (.tewise p q r) ∧ data 3 (.treduce p q r) ∧ data 4 (.ttopk p q r) ∧ data 5 (.tcopy p q r) ∧
      data 6 (.tgather p q r) ∧ data 7 (.tcast p q r) ∧ data 8 (.ttrans p q r) ∧ data 9 (.tfill p q r) ∧ data 13 (.tallred p q r) ∧
      launches 10 (.tlaunch p q r) ∧ launches 11 (.tbind p q r) ∧
      (q ≠ .pq → full 12 (.tbarrier p q r) ∧ refused 12 (.tbarrier p q r)) ∧
      (tiOpc r = 12 → q ≠ .pq → room → s.tileRefused q r p = none → s.barriers = [] →
        result (.tbarrier p q r) fun t => (∃ e ∈ t.tiles, isRec e ∧ e.failed = false) ∧
          t.barriers = [{ scope := q, tag := tiTag r, count := bitsOf (Rec_word r 7) 0 32, members := [s.nextId] }])

/-- 09 R257 to R263: a record on a core's TQ with one unit of shapes in its scratchpad computes every element of that unit from elements read before any
is written, each by its operation, and writes them, where no word of the core is uncorrectable: its report counts the bytes written and holds the flags
raised. Without a completion block or an event it then leaves, and what it borrowed of the scratchpad is zero (09 R272). TMATMUL adds its chunks of K in
ascending order; TGATHER copies the slice that its index names, or zeroes, with CREP.OOR set, where there is none; TTRANS copies by its permutation;
TTOPK writes the first k elements of its slice in the key order of R261 with their global indices, and zero bits and -1 after them. That a unit is computed whole
in the step TILE_COMPLETE is the model's choice (log 14), as is that a TREDUCE of one present NaN keeps its payload (log 91). -/
def Obligations.TileElements : Prop :=
  ∀ (s : State) (e : TileEntry) (n u : Nat) (a b c : Rec),
    s.tiles = [e] → e.level = 1 → e.parent = none → e.queue = .tq n → e.core = some n → e.checked = true → e.failed = false →
    e.launch = none → s.paused = false → e.done = 0 → e.writes = [] → e.first = u → e.units = 1 → e.rep = {} → e.shapes = [a, b, c] → shLocal c = true → n < 96 →
    let op := bitsOf (tiP0 e.rec_) 0 8
    let k := s.core n
    k.spoilt = [] → k.tq = [e.id] → s.pusherSettled e.origin e.id = true → s.unanswered (dieOf n) e.page = false →
    let read (sh : Rec) (is : List Nat) : Nat := ofBytes (bytesAt k.scratch (shAddr sh is) (shSize sh))
    let rounding (m : Nat) : RMode := (RMode.ofBits (BitVec.ofNat 3 m)).getD .rne
    let leaves (after : List (Nat × Byte)) : Prop := tiCblk e.rec_ = 0 → tiEv e.rec_ = false →
      ∃ t, exec (.tileComplete e.id) s = .next t ∧ t.res = .issued ∧ t.mem = s.mem ∧ t.tiles = [] ∧ (t.core n).tq = [] ∧
        (t.core n).scratch = after.filter fun p => decide (p.1 < 0x140000)
    let gives (srcs : List Rec) (oor : Bool) (xs : List (List Nat × Val)) : Prop := (∀ x ∈ srcs, shLocal x = true) →
      let bytes := xs.map fun p => (shAddr c p.1, toBytes (t6Clean (shTy c) p.2.bits) (shSize c))
      let after := bytes.foldl (fun m w => Machine.putBytes m w.1 w.2) k.scratch
      (∃ v x, s.runLeaf e = .done v x ∧ (v.core n).scratch = after ∧ x.rep.code = 0 ∧ x.rep.flags = xs.foldl (fun f p => f ||| p.2.flags) 0 ∧
        x.rep.oor = oor ∧ x.rep.bytes = (bytes.map fun w => w.2.length).sum) ∧ leaves after
    let row (srcs : List Rec) (f : List Nat → Val) : Prop := gives srcs false ((rowIndices c u).map fun is => (is, f is))
    let p0 := tiP0 e.rec_
    let rank := shRank a
    (tiOpc e.rec_ = 1 →
      let ta := shTy a
      let tb := shTy b
      let kk := shExt a 0
      let len := chunkLen ta
      let tn := (shExt c 0 + 255) / 256
      let rows := ((List.range 128).map (· + 128 * (u / tn))).filter fun m => decide (m < shExt c 1)
      let cols := ((List.range 256).map (· + 256 * (u % tn))).filter fun j => decide (j < shExt c 0)
      let chunk (m j q : Nat) : Machine.Num × Flags := chunkSum ((List.range (min len (kk - q * len))).map fun i =>
        (decodeElem ta (shBias a) (read a [q * len + i, m]), decodeElem tb (shBias b) (read b [j, q * len + i])))
      let elem (m j : Nat) : Val := (List.range ((kk + len - 1) / len)).foldl
        (fun (v : Val) q =>
          let y := accAdd (ta == .i8) (BitVec.ofNat 32 v.bits) (chunk m j q)
          { bits := y.bits, flags := v.flags ||| y.flags })
        { bits := if tiZc e.rec_ then 0 else read c [j, m] }
      gives [a, b] false (rows.flatMap fun m => cols.map fun j => ([j, m], elem m j))) ∧
    (tiOpc e.rec_ = 2 → op < 20 →
      row (a :: if ewiseOne op then [] else [b]) fun is =>
        ewise (shTy c) op (rounding (bitsOf p0 8 3)) (read a is) (if ewiseOne op then 0 else read b is)) ∧
    (tiOpc e.rec_ = 3 → row [a] fun is =>
      reduceOf (shTy c) op ((List.range (shExt a (bitsOf p0 8 3))).map fun i => read a (is.set (bitsOf p0 8 3) i))) ∧
    (tiOpc e.rec_ = 4 → shLocal a = true → shLocal b = true → e.keys = [] → e.ranked = false →
      let top := bitsOf p0 0 32
      let inner := (shDims a).dropLast
      let keys : List (Nat × Nat) := (List.range (shCount a inner)).map fun x =>
        (read a (unlinear a inner x ++ [u]), globalIndex a (unlinear a inner x ++ [u]))
      let num (x : Nat × Nat) : Machine.Num := decodeElem (shTy a) (shBias a) x.1
      let before (x y : Nat × Nat) : Prop :=
        (if (num x).isNan then (num y).isNan = false else (num y).isNan = false ∧ (num y).lt (num x) = true) ∨
        ((num x).isNan = (num y).isNan ∧ (num x).lt (num y) = false ∧ (num y).lt (num x) = false ∧ x.2 < y.2)
      ∃ ks rest : List (Nat × Nat), (ks ++ rest).Perm keys ∧ ks.length = min top keys.length ∧ ks.Pairwise (fun x y => ¬ before y x) ∧
        (∀ x ∈ ks, ∀ y ∈ rest, ¬ before y x) ∧
        let put (m : List (Nat × Byte)) (i : Nat) : List (Nat × Byte) :=
          Machine.putBytes (Machine.putBytes m (shAddr b [i]) (toBytes (t6Clean (shTy b) ((ks[i]?.map (·.1)).getD 0)) (shSize b)))
            (shAddr c [i]) (toBytes ((ks[i]?.map (·.2)).getD (2 ^ 64 - 1)) 8)
        leaves ((List.range top).foldl put k.scratch)) ∧
    (tiOpc e.rec_ = 5 → row [a] fun is => plain (read a is)) ∧
    (tiOpc e.rec_ = 6 →
      let dims := (shDims c).take (rank - 1)
      let at_ : Int := (BitVec.ofNat (shTy b).width (read b [u])).toInt - (shOrigin a : Int)
      let here : Bool := decide (0 ≤ at_) && decide (at_ < (shExt a (rank - 1) : Int))
      gives [a, b] (!here) (((List.range (shCount c dims)).map (unlinear c dims)).map fun is =>
        (is ++ [u], plain (if here then read a (is ++ [at_.toNat]) else 0)))) ∧
    (tiOpc e.rec_ = 7 → row [a] fun is => castElem a c (rounding (bitsOf p0 0 3)) (read a is)) ∧
    (tiOpc e.rec_ = 8 →
      let perm (d : Nat) : Nat := bitsOf p0 (3 * d) 3
      (∀ d, d < rank → perm d < rank) → (∀ d f, d < rank → f < rank → perm d = perm f → d = f) →
      ∀ src : List Nat → List Nat, (∀ is, (src is).length = rank ∧ ∀ d, d < rank → (src is).getD (perm d) 0 = is.getD d 0) →
        row [a] fun is => plain (read a (src is))) ∧
    (tiOpc e.rec_ = 9 → row [] fun _ => plain (p0.toNat % 2 ^ (shTy c).width))

/-- 09 R248 R252 R253 R255 R270 R440: a refused record without a completion block leaves with the record that says so, in its die's ring; a barrier
instance whose records have all been taken, with nothing earlier of their pushers left, completes; the lead chip puts a level-4 record in the next
entry of its pod ring. The form of a level-4 record is the model's (logs 28, 39), and that the record of what control core d has pushed carries the agent number
96 + d its reading (log 26). What is not enabled leaves the state as it is: the model's choice
(log 15). -/
def Obligations.TileCompletions : Prop :=
  (∀ (s : State) (e : TileEntry), s.tiles = [e] → e.parent = none → e.core = none → e.page = none →
    let result (i : Instr) (f : State → Prop) : Prop := ∃ t, exec i s = .next t ∧ t.res = .issued ∧ t.mem = s.mem ∧ f t
    let o := e.origin
    (s.paused = true → exec (.tileComplete e.id) s = .next s.issues) ∧
    (∀ d, e.failed = true → tiCblk e.rec_ = 0 → o.by_ = .control d → o.roams = false → e.rep.code ≠ 0 → s.canPost o.die = true →
      s.paused = false →
      result (.tileComplete e.id) fun t => t.tiles = [] ∧ ∃ r, (t.die o.die).evWait = (s.die o.die).evWait ++ [r] ∧ r.kind = 3 ∧
        r.code = e.rep.code ∧ r.tag = tiTag e.rec_ ∧ r.agent = 96 + d) ∧
    (∀ bar, s.barriers = [bar] → bar.members = [e.id] → bar.arrived = false → bar.scope ≠ .pq → s.launches = [] → e.failed = false →
      e.rep = {} → tiOpc e.rec_ = 12 → tiCblk e.rec_ = 0 → tiEv e.rec_ = false → e.queue = bar.scope →
      (bar.count = 1 → result (.tbarrierComplete e.id) fun t => t.tiles = [] ∧ t.barriers = []) ∧
      (1 < bar.count → exec (.tbarrierComplete e.id) s = .next s.issues))) ∧
  ∀ (s : State) (origin ctx : Nat) (stamp : Word) (r : Rec),
    let w := s.mg.podlead
    let n := 2 ^ bitsOf w 40 4
    let i := s.mg.podtail
    let a := bitsOf w 7 33 * 128 + 128 * (i.toNat % n)
    (s.dbgHalt = false → w.getLsbD 63 = true → bitsOf w 48 11 = s.self → (i - s.mg.podhead).toNat < n → a + 128 ≤ 0x8000000000 →
      s.homeHeld (unitIssuer 0) a 128 = false →
      ∃ t, exec (.podRecordDelivery origin ctx stamp r) s = .next t ∧ t.res = .issued ∧ t.mg.podtail = i + 1 ∧
        t.physBytes a 64 = recBytes r ∧ t.physWord (a + 64) 8 = origin % 2 ^ 64 ∧ t.physWord (a + 72) 8 = ctx % 2 ^ 64 ∧
        t.physWord (a + 80) 8 = stamp.toNat ∧ (∀ j, (j < a ∨ a + 128 ≤ j) → t.byteAt j = s.byteAt j) ∧
        ∃ x, (t.die 0).evWait = (s.die 0).evWait ++ [x] ∧ x.kind = 0x11 ∧ x.w2 = i.setWidth 64) ∧
    (s.dbgHalt = true ∨ w.getLsbD 63 = false ∨ bitsOf w 48 11 ≠ s.self ∨ n ≤ (i - s.mg.podhead).toNat →
      exec (.podRecordDelivery origin ctx stamp r) s = .next s.issues)

/-! ### What becomes of waiting work (03, 05, 07) -/

/-- 01 R15 R31, 03 R61 R63 R83, 05 R116 R120 R135, 07 R173 R174 R176 R181 R187: an empty position advances time alone, or counts a delay down, after which
no line fetched before the last FENCE is left; a result
lands in its register, of a stamped task not before the cycle it has reached (log 46); a deferred fault, before which folded empty positions
that are left do not issue (log 85), ends a task, or enters the trap of another agent; a break goes on; the oldest access of a side log is
performed, or lost with the younger ones where it fails, and waits while a request for its page is unanswered; a dirty line or the arrival of a
write-back is performed, after the task's earlier ones on whatever core (12 R320); a block that has been read
gives its handle. A result without a fixed latency may land at any time (log 3). What is not enabled leaves the state as it is: the model's choice (log 15). -/
def Obligations.WaitingWork : Prop :=
  ∀ (s : State) (n : Nat),
    let result (i : Instr) (f : State → Prop) : Prop := ∃ t, exec i s = .next t ∧ t.res = .issued ∧ f t
    let a := s.agent n
    let k := s.core n
    let b := s.me
    (b.brk = none → b.loops = [] → b.empties ≠ 0 →
      (b.delay = none →
        result .emptyPosition fun t => t.mem = s.mem ∧ t.me.empties = b.empties - 1 ∧ t.me.pc = b.pc ∧ t.me.regs = b.regs ∧
          t.me.earliest = b.issued + 1 ∧ t.me.delay = none) ∧
      (∀ d, b.delay = some d →
        result .emptyPosition fun t => t.mem = s.mem ∧ t.me.regs = b.regs ∧ t.me.earliest = b.issued + 1 ∧
          (d.left ≤ 1 → t.me.delay = none ∧ t.me.pc = d.target ∧ t.me.empties = 0 ∧ ∀ l ∈ t.me.lines, l ∈ b.lines ∧ l.1 ∉ b.stale) ∧
          (1 < d.left → t.me.delay = some { d with left := d.left - 1 } ∧ t.me.pc = b.pc))) ∧
    (∀ i p, a.flight[i]? = some p →
      (p.due.all (fun c => decide (c ≤ s.reached n)) = true →
        result (.producerWriteback n i) fun t => t.mem = s.mem ∧ (t.agent n).regs = a.regs.write p.reg p.val ∧
          (t.agent n).flight = a.flight.eraseIdx i ∧ (t.agent n).pc = a.pc) ∧
      (∀ c, p.due = some c → s.reached n < c → exec (.producerWriteback n i) s = .next s.issues)) ∧
    (∀ f r, a.deferred = f :: r → a.run = .running → a.delay = none → a.flight = [] → (a.empties = 0 ∨ a.loops = []) →
      (n < 96 → result (.deferredFault n) fun t => t.mem = s.mem ∧ (t.agent n).run = .faulted ∧ (t.agent n).faultcode = f.code ∧
        (t.agent n).faultpc = a.pc ∧ (t.agent n).faultsrc = f.src ∧ (t.agent n).faultaddr = f.addr ∧ (t.agent n).deferred = r ∧
        (t.agent n).regs = a.regs) ∧
      (96 ≤ n → a.inh = false → result (.deferredFault n) fun t => t.mem = s.mem ∧ (t.agent n).run = .running ∧
        (t.agent n).faultcode = f.code ∧ (t.agent n).faultpc = a.pc ∧ (t.agent n).faultsrc = f.src ∧ (t.agent n).faultaddr = f.addr ∧
        (t.agent n).epc = a.pc ∧ (t.agent n).pc = a.trapvec ∧ (t.agent n).inh = true ∧ (t.agent n).code = f.code ∧ (t.agent n).ext = false ∧
        (t.agent n).deferred = r)) ∧
    (a.run = .broken → exec (.breakResumption n) s = .next (s.setAgent n { a with run := .running }).issues) ∧
    (s.paused = true → exec (.sideLogReplay n) s = .next s.issues ∧ exec (.regionWriteback n) s = .next s.issues) ∧
    (∀ e r es, k.slog = e :: r → e.what = .store es → s.paused = false →
      let free := s.modCoreAt n fun x => { x with slog := [] }
      (∀ y, e.refused = some y → result (.sideLogReplay n) fun t => t.mem = s.mem ∧ (t.core n).slog = [] ∧
        (t.agent n).deferred = a.deferred ++ [{ code := cStore, src := e.bundle, addr := BitVec.ofNat 64 y }]) ∧
      (e.refused = none → s.entryWaits (dieOf n) e = true → exec (.sideLogReplay n) s = .next s.issues) ∧
      (e.refused = none → s.entryWaits (dieOf n) e = false →
        (∀ u xs, free.performOp (e.issuer n) e.hint e.what = .ok u xs →
          result (.sideLogReplay n) fun t => t.mem = u.mem ∧ (t.core n).slog = r) ∧
        (∀ u code y, free.performOp (e.issuer n) e.hint e.what = .fail u code y →
          result (.sideLogReplay n) fun t => t.mem = s.mem ∧ (t.core n).slog = [] ∧
            (t.agent n).deferred = a.deferred ++ [{ code := code, src := e.bundle, addr := BitVec.ofNat 64 y }]) ∧
        (∀ u y, free.performOp (e.issuer n) e.hint e.what = .wait u y →
          result (.sideLogReplay n) fun t => t.mem = s.mem ∧ (t.core n).slog = e :: r))) ∧
    (∀ w r, k.wb = w :: r → w.ecc = none → s.paused = false →
      (s.slogOf w.task ≠ [] ∨ s.olderBack w = true ∨ s.unanswered (dieOf n) w.page = true → exec (.regionWriteback n) s = .next s.issues) ∧
      (s.slogOf w.task = [] → s.olderBack w = false → s.unanswered (dieOf n) w.page = false →
        (∀ y bs rest u, w.lines = (y, bs) :: rest → s.writeMem (w.issuer n) y bs = .ok u () →
          result (.regionWriteback n) fun t => t.mem = u.mem ∧
            (t.core n).wb = { w with lines := rest, done := w.done + 128, page := none } :: r) ∧
        (∀ y u old, w.lines = [] → w.bar = some y → s.arrive (w.issuer n) y.toNat w.done = .ok u old →
          result (.regionWriteback n) fun t => t.mem = u.mem ∧ (t.core n).wb = r) ∧
        (w.lines = [] → w.bar = none → result (.regionWriteback n) fun t => t.mem = s.mem ∧ (t.core n).wb = r))) ∧
    ∀ i y z d ev u attrs, k.blocks[i]? = some y → k.task = some z → y.fill = some (d, ev) → y.pinned = true → y.age = 0 → s.paused = false → s.unanswered (dieOf n) y.page = false →
      ev = false ∨ s.canPost (dieOf n) = true →
      readEach s ((List.range y.lines).map fun l => y.addr + 128 * l)
        (fun v x => (v.readAttr { agent := n, ctx := some z.ctx } .read x 128).map (·.2)) = .ok u attrs →
      result (.blockFilled n i) fun t => t.mem = s.mem ∧ (t.agent n).regs = a.regs.write (.s d) (.w (BitVec.ofNat 64 y.handle)) ∧
        (t.core n).blocks[i]? = some { y with away := awayOf attrs, fill := none, waited := false, page := none }

/-! ### Management and control space (08 R233 R234, 16) -/

/-- 16 R407 to R410: a host request that is ready, well formed and in range is performed whole and answered with its tag and status 0, a read with its
bytes; one that is not ready is answered with status 4, a malformed one with 3, one out of range with 1, and performs nothing. Notifications queue up
to 64 while the link is up, and leave in order, when the link takes them (log 63); a link that is down answers nothing and
discards those that it has not sent. What is not enabled leaves the state as it is: the model's choice
(log 15). -/
def Obligations.MailboxAndLink : Prop :=
  ∀ (s : State) (who : Nat) (val : Word) (h : BitVec 128) (data : List Byte), (96 ≤ who ∧ who ≤ 100) →
    let w0 : Word := h.extractLsb' 0 64
    let w1 : Word := h.extractLsb' 64 64
    let op := bitsOf w0 0 8
    let n := bitsOf w0 32 32
    let a := bitsOf w1 0 40
    let answer (status : Nat) : List Byte := toBytes (2 ^ 16 * bitsOf w0 16 16 + status) 16
    let ready : Prop := s.mg.linkUp = true ∧ s.mg.done = true ∧ s.mg.mben = true
    let formed (k : Nat) : Prop := bitsOf w0 8 8 = 0 ∧ bitsOf w1 40 24 = 0 ∧ op = k ∧ 0 < n ∧ n ≤ 4096
    let free : Prop := s.poison = [] ∧ ∀ x m, s.homeHeld mailIssuer x m = false
    let result (i : Instr) (f : State → Prop) : Prop := ∃ t, exec i s = .next t ∧ t.res = .issued ∧ f t
    (ready → formed 1 → free → a + n ≤ 0x8000000000 →
      result (.mailboxRead h) fun t => t.mem = s.mem ∧ t.mg.mbReply = answer 0 ++ s.physBytes a n ∧
        t.mg.noted ++ t.mg.hostq = s.mg.noted ++ s.mg.hostq) ∧
    (ready → formed 2 → free → a + n ≤ 0x8000000000 → data.length = n →
      result (.mailboxWrite h data) fun t => t.mg.mbReply = answer 0 ∧ t.physBytes a n = data ∧
        ∀ j, (j < a ∨ a + n ≤ j) → t.byteAt j = s.byteAt j) ∧
    (ready → formed 2 → n = 8 → data.length = 8 → ∀ k, k < 4 → a = 0xF000400500 + 8 * k →
      result (.mailboxWrite h data) fun t => t.mem = s.mem ∧ t.mg.mbReply = answer 0 ∧
        t.regset 5 = (s.regset 5).putQw k (BitVec.ofNat 64 (ofBytes data))) ∧
    (s.mg.linkUp = true → (s.mg.done = false ∨ s.mg.mben = false) →
      result (.mailboxRead h) (fun t => t.mem = s.mem ∧ t.mg.mbReply = answer 4) ∧
      result (.mailboxWrite h data) fun t => t.mem = s.mem ∧ t.mg.mbReply = answer 4) ∧
    (ready →
      (¬ formed 1 → result (.mailboxRead h) fun t => t.mem = s.mem ∧ t.mg.mbReply = answer 3) ∧
      (¬ formed 2 → result (.mailboxWrite h data) fun t => t.mem = s.mem ∧ t.mg.mbReply = answer 3) ∧
      (formed 1 → 0x8030000000 ≤ a → a < 0xF000000000 →
        result (.mailboxRead h) fun t => t.mem = s.mem ∧ t.mg.mbReply = answer 1)) ∧
    (s.mg.linkUp = false → exec (.mailboxRead h) s = .next s.issues ∧ exec (.mailboxWrite h data) s = .next s.issues ∧
      exec (.hostnote who val) s = .next s.issues) ∧
    (s.mg.linkUp = true →
      let sent := s.linkSends
      (∃ k, sent.mg.hostq = s.mg.hostq.drop k ∧ sent.mg.noted = s.mg.noted ++ s.mg.hostq.take k) ∧
      (sent.mg.hostq.length < 64 →
        exec (.hostnote who val) s =
          .next ({ sent with mg := { sent.mg with hostq := sent.mg.hostq ++ [val] } } : State).linkSends.issues) ∧
      (64 ≤ sent.mg.hostq.length → exec (.hostnote who val) s = .next sent.issues)) ∧
    (let last := if s.mg.linkUp then s.linkSends else s
     exec .linkDown s = .next ({ last with mg := { last.mg with linkUp := false, hostq := [] } } : State).issues) ∧
    exec .linkUp s = .next ({ s with mg := { s.mg with linkUp := true } } : State).issues

/-- 16 R411 R412 R416 R420 R421, 01 R31 R38: the endpoint answers while the management controller is not halted: its address, sensors, the debug and
reset effecters, a firmware image, measurements, a challenge, the certificate; another message leaves no trace. The boot ROM measures and loads each
image that passes its checks and stops at the first that does not. A reset leaves the reset state, and the boot flash its update. Boot images come as
events, and their fields, the checks of signatures, the device key and the certificate are constants with no body (logs 4, 5). That a sensor answers
the bytes of its register as they stand, and every service at once, is the model's choice (log 17); that a module reset is the power-on reset is its
reading (log 50); what a reset keeps of
the model's own fields is its choice (log 1). What is not enabled leaves the state as it is: the model's choice (log 15). -/
def Obligations.SideBandAndBoot : Prop :=
  ∀ (s : State) (v : Nat) (bs : List Byte),
    let result (i : Instr) (f : State → Prop) : Prop := ∃ t, exec i s = .next t ∧ t.res = .issued ∧ f t
    let again (u : State) : State :=
      { State.reset with
        agenda := u.agenda, fresh := u.fresh, nextId := u.nextId, chipid := u.chipid, mg := { update := u.mg.update } }
    ((s.agent 100).run ≠ .halted →
      result (.setEndpointId v) (fun t => t.mg.eid = BitVec.ofNat 8 v ∧ t.mem = s.mem) ∧
      (1 ≤ v → v ≤ 96 → result (.pldmSensorRead v) fun t => t.mg.sbReply = toBytes (s.core (v - 1)).thermLo.toNat 2 ∧ t.mem = s.mem) ∧
      (101 ≤ v → v ≤ 196 → result (.pldmSensorRead v) fun t => t.mg.sbReply = toBytes (s.core (v - 101)).thermHi.toNat 2 ∧ t.mem = s.mem) ∧
      (200 ≤ v → v ≤ 207 → result (.pldmSensorRead v) fun t => t.mg.sbReply = [(s.hbm.get {} (v - 200)).degc] ∧ t.mem = s.mem) ∧
      result (.pldmSensorRead 220) (fun t => t.mg.sbReply = toBytes s.mg.bootstat.toNat 8) ∧
      exec (.pldmEffecterReset v) s = .next (again (s.logHard 3 0 0 0)).issues ∧
      result (.pldmEffecterDebug v) (fun t => t.dbgEn = BitVec.ofNat 4 v ∧ t.elTail = s.elTail + 1 ∧ t.mem = s.mem ∧
        (BitVec.ofNat 4 v &&& ~~~s.dbgEn = 0 → t.mg.mr = s.mg.mr)) ∧
      result (.pldmFirmwareUpdate bs) (fun t => t.mg.update = bs ∧ t.mem = s.mem) ∧
      result (.getMeasurements bs) (fun t => t.mem = s.mem ∧ t.mg.mr = s.mg.mr ∧
        t.mg.sbReply = s.measured ++ Config.deviceSign (bs ++ s.measured) ∧
        ∀ k, k < 8 → (s.measured.drop (48 * k)).take 48 = toBytes (s.mg.mr.get 0 k).toNat 48) ∧
      result (.spdmChallenge bs) (fun t => t.mem = s.mem ∧ t.mg.sbReply = Config.deviceSign bs) ∧
      result .spdmGetCertificate fun t => t.mem = s.mem ∧ t.mg.sbReply = Config.certChain) ∧
    ((s.agent 100).run = .halted →
      exec (.setEndpointId v) s = .next s.issues ∧ exec (.pldmEffecterReset v) s = .next s.issues ∧
      exec (.pldmFirmwareUpdate bs) s = .next s.issues ∧ exec (.getMeasurements bs) s = .next s.issues) ∧
    exec (.sidebandMessageDrop v) s = .next s.issues ∧
    exec .targetReset s = .next (again s).issues ∧ exec .powerOnReset s = .next (again s).issues ∧
    ((s.mg.fail = true ∨ s.mg.done = true) → exec (.bootImage bs) s = .next s.issues) ∧
    (s.mg.fail = false → s.mg.done = false → s.mg.taken < 15 → s.mg.begun = true →
      result (.bootImage bs) fun t =>
        (∀ stage, imageFails bs = some stage → t.mg.fail = true ∧ t.mg.stage = BitVec.ofNat 8 stage ∧
          t.mg.image = BitVec.ofNat 6 s.mg.taken ∧ t.mem = s.mem ∧ t.elTail = s.elTail + 1) ∧
        (imageFails bs = none → Config.copyError s.fresh = true → t.mg.fail = true ∧ t.mg.stage = 7 ∧ t.mem = s.mem) ∧
        (imageFails bs = none → Config.copyError s.fresh = false →
          let kind := Config.imageKind bs
          t.mg.taken = s.mg.taken + 1 ∧ t.mg.done = Config.imageLast s.mg.taken ∧
          t.mg.mr.get 0 kind = sha384 (toBytes (s.mg.mr.get 0 kind).toNat 48 ++ toBytes (sha384 (Config.imagePart bs 0)).toNat 48) ∧
          t.physBytes (Config.imageLoad bs) (Config.imagePart bs 1).length = Config.imagePart bs 1 ∧
          (Config.imageLast s.mg.taken = true → kind = 1 → (t.agent 100).pc = Config.imageEntry bs)))

/-- 00 R6, 08 R233 R234, 12 R313, 16 R413 R414 R417 R418 R420: a store to a control-space register by an agent that may make it leaves what the
register's layout says, one by another agent or to no register nothing; GO takes the record its registers name and says how that went; CCREL starts
and resets control cores; DBGCTL, the event log and the measurement registers do as their stores say. That CCREL, ELPUSH and MRXGO do so for every agent
from 96 to 100, of which R6 says nothing for a WO register, is the model's choice (log 42). A store to no register has no effect as an event
(log 42). What is not enabled leaves the state as it is: the model's choice (log 15). -/
def Obligations.ControlSpace : Prop :=
  ∀ (s : State) (who : Nat) (val : Word), (96 ≤ who ∧ who ≤ 100) →
    let result (i : Instr) (f : State → Prop) : Prop := ∃ t, exec i s = .next t ∧ t.res = .issued ∧ t.mem = s.mem ∧ f t
    let store (pa : Nat) (f : State → Prop) : Prop := result (.registerWrite who (0xF000000000 + pa) val) f
    let ignored (pa : Nat) : Prop := exec (.registerWrite who (0xF000000000 + pa) val) s = .next s.issues
    (∀ n, n < 64 → store (0x500000 + 0x10 * n) fun t => t.ctxroot.get 0 n = val &&& 0xFFFFFFF801 ∧
      t.ctlRead (0xF000000000 + (0x500000 + 0x10 * n)) = some (val &&& 0xFFFFFFF801)) ∧
    store 0x700000 (fun t => t.gate = val.setWidth 4 ∧ t.evdie = bitsOf val 6 2) ∧
    (let us := bitsOf val 0 30
     store 0x700018 fun t => t.wdog = if us = 0 ∨ 1000000 < us then s.wdog else us) ∧
    (∀ c, c < 96 → store (0x1000 * c + 0x28) fun t => t.core c = { s.core c with hintcnt := val.setWidth 32 }) ∧
    (∀ c, c < 96 → store (0x1000 * c + 0x08) fun t => t.core c = { s.core c with tallow := val.setWidth 8 }) ∧
    (∀ d, d < 4 → store (0x710000 + 0x100 * d) fun t =>
      t.die d = { s.die d with evAddr := BitVec.ofNat 28 (bitsOf val 12 28), evEn := val.getLsbD 0 }) ∧
    (∀ d, d < 4 → 6 ≤ bitsOf val 0 5 → bitsOf val 0 5 ≤ 20 → store (0x710008 + 0x100 * d) fun t =>
      t.die d = { s.die d with evLog2 := bitsOf val 0 5 }) ∧
    (∀ d, d < 4 → (s.die d).saved = [] → store (0x710020 + 0x100 * d) fun t => t.die d = { s.die d with saveCnt := val.setWidth 8 }) ∧
    (∀ n k, n < 5 → k < 4 →
      (who = 96 + n → store (0x400000 + 0x100 * n + 8 * k) fun t => (t.regset n).qw.get 0 k = val ∧
        (t.regset n).pres = (s.regset n).pres ||| BitVec.ofNat 4 (2 ^ k)) ∧
      (who ≠ 96 + n → ignored (0x400000 + 0x100 * n + 8 * k))) ∧
    (∀ d, d < 4 → (who = 100 → store (0xB00040 + 8 * d) fun t => t.mg.ccpc.get 0 d = val &&& 0xFFFFFFFFF8) ∧
      (who ≠ 100 → ignored (0xB00040 + 8 * d))) ∧
    (∀ i, i < 6 → (who = 100 → store (0xC00200 + 8 * i) fun t => t.mg.mrx.get 0 i = val) ∧ (who ≠ 100 → ignored (0xC00200 + 8 * i))) ∧
    ignored 0xE00000 ∧ ignored 0x300008 ∧ ignored 0xC00000 ∧
    (∀ n, n ≤ 5 →
      let x := s.regset n
      let counted := if x.refused = 0xFFFF then x.refused else x.refused + 1
      x.qw.get 0 3 = 0 →
      (x.pres ≠ 0xF → result (.go (96 + n) n val) fun t =>
        t.regset n = { x with pres := 0, seq := val.setWidth 16, result := 2, refused := counted }) ∧
      (x.pres = 0xF → x.wellFormed = false → result (.go (96 + n) n val) fun t =>
        t.regset n = { x with pres := 0, seq := val.setWidth 16, result := 3, refused := counted }) ∧
      (∀ u v bs taken, x.pres = 0xF → x.wellFormed = true → bitsOf (x.qw.get 0 0) 0 4 ≠ 4 →
        s.readMem { agent := setCaller n, ctx := none, unit := decide (5 ≤ n) } .read (x.qw.get 0 1).toNat 64 = .ok u bs → u.goOffer n (recOf bs) = (v, taken) →
        v.regsets = s.regsets → ∃ t, exec (.go (96 + n) n val) s = .next t ∧ t.res = .issued ∧ t.mem = v.mem ∧
          t.regset n = { x with pres := 0, seq := val.setWidth 16, result := if taken then 0 else 1 })) ∧
    (∀ d, d < 4 →
      (val.getLsbD d = true → val.getLsbD (4 + d) = false → (s.agent (96 + d)).run = .off →
        result (.ccrelGo who val) fun t =>
          t.agent (96 + d) = { s.agent (96 + d) with run := .running, pc := s.mg.ccpc.get 0 d &&& 0xFFFFFFFFF8 }) ∧
      (val.getLsbD (4 + d) = true → result (.ccrelRst who val) fun t =>
        t.agent (96 + d) = {} ∧ (t.die d).evqhead = 0 ∧ (t.die d).evqtail = 0)) ∧
    (who = 100 →
      result (.dbgctlEnWrite who val) (fun t => t.dbgEn = val.setWidth 4 ∧
        (val.setWidth 4 &&& ~~~s.dbgEn = 0 → t.mg.mr = s.mg.mr) ∧
        (val.setWidth 4 &&& ~~~s.dbgEn ≠ 0 →
          t.mg.mr.get 0 7 = sha384 (toBytes (s.mg.mr.get 0 7).toNat 48 ++ toBytes (sha384 (toBytes (val &&& 0x10F).toNat 8)).toNat 48))) ∧
      result (.dbgctlHaltWrite who val) fun t => t.dbgHalt = val.getLsbD 8 ∧
        (s.dbgHalt = false → val.getLsbD 8 = true → ∀ n y, (t.core n).task = some y → y.mode.getLsbD 0 = true → y.doom = some cStamp)) ∧
    (who ≠ 100 → exec (.dbgctlEnWrite who val) s = .next s.issues ∧ exec (.dbgctlHaltWrite who val) s = .next s.issues) ∧
    result (.elpush who) (fun t => t.elTail = s.elTail + 1 ∧
      bytesAt t.elRing (32 * (s.elTail.toNat % 256)) 8 = toBytes (s.elW.get 0 0).toNat 8 ∧
      bytesAt t.elRing (32 * (s.elTail.toNat % 256) + 16) 8 = toBytes (s.elW.get 0 2).toNat 8 ∧
      ((s.elTail - s.elHead).toNat < 256 → t.elHead = s.elHead ∧ t.elLost = s.elLost) ∧
      (256 ≤ (s.elTail - s.elHead).toNat → t.elHead = s.elHead + 1)) ∧
    (val = 5 ∨ val = 6 → result (.mrxgo who val) fun t =>
      t.mg.mr.get 0 val.toNat = sha384 (toBytes (s.mg.mr.get 0 val.toNat).toNat 48 ++ toBytes s.mg.staged.toNat 48)) ∧
    (val ≠ 5 → val ≠ 6 → exec (.mrxgo who val) s = .next s.issues)

/-! ### The machine as a whole -/

/-- 03 R59 R60 R64 R81 R83: when nothing comes before its next position, an agent's step reads the bundle at its pc, and what the bundle does is what
exec does with the instruction that its word decodes to, from the state in which it issues; around it stand the landing of what is due, the pc past
the bundle's words, and the end of the position. An event of the agenda is exec of it. The agenda is the model's own (log 1), as is the order of what
stands around exec (log 2). -/
def Obligations.StepRunsDecoded : Prop :=
  (∀ (s : State) (n : Nat) (r : List Act), s.agenda = .agent n :: r → n ≤ 100 →
     let u0 : State := { s with agenda := r, cur := n }
     let a := u0.me
     let u := u0.modMe fun x => { x with inUse := [] }
     u0.canDefer n = false → a.run = .running → (n = 100 → u0.canInterrupt = false) → a.pend = none → u0.doomed = none → u0.stopped = false →
     a.empties = 0 → u0.heldOnPage = none →
     (∀ v w hw word h sl i, u.fetchWord a.pc = .ok v hw → decodeHeader hw = some h → h.slots = [sl] →
       v.fetchWord (a.pc + 8) = .ok w word → decodeFor (kindOf n) sl word = .ok i → distinct (instrDests i) = true → w.stamped = false →
       let c := max w.me.earliest w.cycle
       let before := w.settleAt c
       let x := before.begin h c
       x.me.pc = before.me.pc + 16 ∧ x.me.bundle = before.me.pc ∧ x.me.issued = c ∧
         step s = afterSlots before w.me.delay.isSome
           ((i.fields.map fun f => f.ctl.sch.toNat).getD 0) c (exec i x)) ∧
     (∀ t h is, u0.readBundle = .ok t h is → t.stamped = false → 2 ≤ is.length →
       step s = afterSlots (t.settleAt t.issueCycle) t.me.delay.isSome (stallOf is) t.issueCycle
         (runBundle ((t.settleAt t.issueCycle).begin h t.issueCycle) is))) ∧
  (∀ (s : State) (i : Instr) (r : List Act), s.agenda = .event i :: r → i.fields = none → step s = exec i { s with agenda := r })

/-- 03 R60 R65 R73 to R79: words written out from the encodings decode to the instructions they stand for, one of each slot, and a
bundle of one. -/
def Obligations.DecodeWords : Prop :=
  decodeWord .br 0x0000000000008006 = .ok (.loopset {} 2 0) ∧
  decodeWord .sa 0xFE0000FFFFD10502 = .ok (.addi { g1 := 3 } 5 4 (-3)) ∧
  decodeWord .vx 0x0C00000000100201 = .ok (.vadd {} .f32 .rne 2 0 1) ∧
  decodeWord .vx 0x080000060400422D = .ok (.vcvt {} .f16 .rne 2 1 .f32 1) ∧
  decodeWord .mx 0x0E0000000070C005 = .ok (.mma {} .t8 0 3 7 false) ∧
  decodeWord .ms 0x2000000054050921 = .ok (.waitmem {} .ne 9 20 0 21) ∧
  decodeTableWord 0 0x00000040000040030000000000000001 = some (.br { g1 := 1 } 1) ∧
  decodeTableWord 0 0 = some .emptyPosition

/-- 03 R65 R73 to R79 R81: every word of the encoding is read back: what a well-formed instruction encodes to decodes, in its slot (one of SA in
SB too), to that instruction, whatever its operands; it has such a word; and a word decodes only to an instruction whose encoding it is. -/
def Obligations.DecodeEncode : Prop :=
  (∀ (i : Instr) (sl : Slot), i.slot = some sl → i.wf = true →
     ∃ w, encode i = some w ∧ decodeWord sl w = .ok i ∧ (sl = .sa → decodeWord .sb w = .ok i)) ∧
  (∀ (sl : Slot) (w : BitVec 64) (i : Instr), decodeWord sl w = .ok i →
     (i.slot = some sl ∨ (sl = .sb ∧ i.slot = some .sa)) ∧ i.wf = true ∧ encode i = some w) ∧
  ∀ (h : Header), decodeHeader h.pack = some h

/-- 01 R11 R19 R26 R38, 07 R180, 11 R298, 13 R342 R349 R360, 14 R370, 16 R416 R420: power-on reset leaves memory zero, the tile cores idle and the
control cores held, the management controller at the boot ROM, and every register named at the value the manual gives it. The registers with a value
of the model's own (logs 6, 7, 21 to 23) are not in it. -/
def Obligations.ResetState : Prop :=
  let r := State.reset
  (∀ a, r.byteAt a = 0) ∧ Memory.wf r.mem = true ∧
  (∀ n, n < 96 → (r.agent n).run = .off ∧ (r.core n).task = none ∧ (r.core n).cad = 1 ∧ (r.core n).tallow = 0 ∧
    (r.core n).hintcnt = 0 ∧ (r.core n).latch.valid = false ∧ (∀ i, (r.core n).claim i = .free) ∧
    ∀ a, a < 4 → (r.core n).accInt.get false a = false ∧ ∀ j, (r.core n).acc.get 0 (32768 * a + j) = 0) ∧
  (∀ n, 96 ≤ n → n < 100 → (r.agent n).run = .off) ∧
  (r.agent 100).run = .running ∧ (r.agent 100).pc = 0xF000F00000 ∧
  (∀ n, n ≤ 100 → (r.agent n).trapvec = 0 ∧ (r.agent n).inh = false ∧ (r.agent n).lsbase = 0 ∧ (r.agent n).spill = 0 ∧ (r.agent n).loops = []) ∧
  r.cycle = 0 ∧ r.launchNext = 0 ∧ r.launches = [] ∧ r.step_ = 3 ∧ r.fab.seq = 0 ∧ r.thCore = 760 ∧ r.thVert = 80 ∧ r.thHbm = 85 ∧
  r.alertMask = 0 ∧ r.dbgEn = 0 ∧ r.dbgHalt = false ∧ (∀ i, r.mg.mr.get 0 i = 0) ∧ r.mg.done = false

/-- 00 R3, 10 R276: memory stays in its one form: whatever a step does, addresses still rise strictly and no byte is listed that reads as it
would unlisted. -/
def Obligations.MemoryStaysCanonical : Prop :=
  ∀ s t : State, Memory.wf s.mem = true → step s = .next t → Memory.wf t.mem = true

/-- 01 R11 R15 R22, 05 R101 R143: an instruction of an SA, SB or VX slot that issues changes nothing but the registers its word names as destinations,
the results in flight, the status flags and the scale latch: every other register, every other agent, core and die, all memory and every other
register of the chip are as before. -/
def Obligations.RegisterFrames : Prop :=
  ∀ (s t : State) (i : Instr) (sl : Slot), i.slot = some sl → sl = .sa ∨ sl = .sb ∨ sl = .vx → exec i s = .next t → t.res = .issued →
    s.OnlyMine t ∧ s.OnlyRegs t (instrDests i) ∧ t.mem = s.mem ∧
      t.myCore = { s.myCore with status := t.myCore.status, flagAt := t.myCore.flagAt, qpend := t.myCore.qpend
                                 qscale := t.myCore.qscale }

/-- 07 R166 to R172: a load leaves all memory as it was and, of the registers, everything but its destination; a store leaves every register as
it was and every byte outside those it stores to, whose addresses are those that its elements reach in turn; a store to the scratchpad leaves
all other memory. -/
def Obligations.AccessFrames : Prop :=
  ∀ (s t : State) (c : Ctl) (ty : Ty) (d a b : BitVec 6) (disp : BitVec 18),
    let line (k : Nat) : Word := s.rs a + disp.signExtend 64 + BitVec.ofNat 64 (k * (ty.width / 8))
    let stride (k : Nat) : Word := s.rs a + BitVec.ofNat 64 k * s.rs b
    let index (k : Nat) : Word := s.rs a + BitVec.ofNat 64 (elemOf (s.rv b) ty.width k * (ty.width / 8))
    let elems (addr : Nat → Word) : List (Nat × List Byte) :=
      (s.activeElems c ty).map fun k => ((addr k).toNat, elemBytesOf s ty d k)
    let keeps (l : List RegId) : Prop :=
      (∀ r, r ∉ l → t.me.regs.read r = s.me.regs.read r ∧ t.me.regs.isEmpty r = s.me.regs.isEmpty r) ∧ t.me.regs.b = s.me.regs.b ∧
        t.me.links = s.me.links ∧ t.me.loops = s.me.loops ∧ ∀ n, n ≠ s.cur → t.agent n = s.agent n
    let loads (i : Instr) (r : RegId) : Prop := exec i s = .next t → t.res = .issued → t.mem = s.mem ∧ keeps [r]
    let stores (i : Instr) (es : List (Nat × List Byte)) : Prop := exec i s = .next t → t.res = .issued →
      keeps [] ∧ ∀ x, (∀ p ∈ s.placesOf s.issuer c.ch s.myCore.hintcnt es, x < p.1 ∨ p.1 + p.2 ≤ x) → t.byteAt x = s.byteAt x
    let locals (i : Instr) : Prop := exec i s = .next t → t.res = .issued → t.mem = s.mem ∧ keeps []
    loads (.ld c ty d a disp) (.s d.toNat) ∧ loads (.ldl c ty d a disp) (.s d.toNat) ∧ loads (.vld c ty d a disp) (.v d.toNat) ∧
    loads (.vldl c ty d a disp) (.v d.toNat) ∧ (∀ l, loads (.vlds c ty l d a b) (.v d.toNat) ∧ loads (.vldx c ty l d a b) (.v d.toNat)) ∧
    (placeOf (s.rs a + disp.signExtend 64).toNat ≠ .control ∨ s.cur < 96 →
      stores (.st c ty d a disp) [((s.rs a + disp.signExtend 64).toNat, toBytes (s.rs d).toNat (ty.width / 8))]) ∧
    stores (.vst c ty d a disp) (elems line) ∧ stores (.vsts c ty false d a b) (elems stride) ∧ stores (.vstx c ty false d a b) (elems index) ∧
    locals (.stl c ty d a disp) ∧ locals (.vstl c ty d a disp) ∧ locals (.vsts c ty true d a b) ∧ locals (.vstx c ty true d a b)

/-- 01 R15 R17, 03 R68: an instruction whose guard is uniform and false changes nothing, whatever its operands; one whose guard register is empty
holds its bundle. Of ADD: an empty source holds it too, or raises EMPTY_TRAP where the operand's FE bit is set, and an empty destination holds it.
That a suppressed instruction waits for no operand is the model's reading (log 11), as is that a register waited for comes before EMPTY_TRAP (log 12). How a held
bundle's instruction answers is the model's form (log 2). -/
def Obligations.Guards : Prop :=
  (∀ (s : State) (i : Instr) (sl : Slot) (f : Fields), i.slot = some sl → i.fields = some f → sl ≠ .br → s.cur < 96 →
     (s.GuardFull f.ctl → s.GuardWhole f.ctl → ¬ s.GuardOn f.ctl → exec i s = .next s.issues) ∧
     (s.src.isEmpty (.p f.ctl.g1.toNat) = true → exec i s = .next { s with res := .held 0 })) ∧
  (∀ (s : State) (c : Ctl) (d a b : BitVec 6), s.GuardFull c → s.GuardOn c →
     (s.src.isEmpty (.s a.toNat) = true → c.fe.getLsbD 0 = false → exec (.add c d a b) s = .next { s with res := .held 0 }) ∧
     (s.src.isEmpty (.s a.toNat) = true → c.fe.getLsbD 0 = true → s.src.isEmpty (.s b.toNat) = false → s.src.isEmpty (.s d.toNat) = false →
       exec (.add c d a b) s = .next (s.faults cEmpty 0)) ∧
     (s.src.isEmpty (.s d.toNat) = true → exec (.add c d a b) s = .next { s with res := .held 0 }))
end

