-- ==== Sys2Proof/Laws/Map.lean ====
section
/-! SUPPORT. The laws of sparse data: a read after a write, and that every operation keeps the canonical form. -/

namespace Sys2Proof

variable {α : Type}

theorem SMap.get_drop_same (d : α) (m : SMap α) (k : Nat) : SMap.get d (SMap.drop m k) k = d := by
  induction m with
  | nil => rfl
  | cons e r ih =>
    obtain ⟨a, x⟩ := e
    by_cases h : a = k <;> simp [SMap.drop, SMap.get, h, ih]

theorem SMap.get_drop_ne (d : α) (m : SMap α) (k j : Nat) (h : j ≠ k) : SMap.get d (SMap.drop m k) j = SMap.get d m j := by
  induction m with
  | nil => rfl
  | cons e r ih =>
    obtain ⟨a, x⟩ := e
    by_cases hk : a = k
    · have : ¬ a = j := fun e => h (e.symm.trans hk)
      simp [SMap.drop, SMap.get, hk, ih, show ¬ k = j from fun e => h e.symm]
    · simp [SMap.drop, SMap.get, hk, ih]

theorem SMap.get_insert_ne (d : α) (m : SMap α) (k : Nat) (v : α) (j : Nat) (h : j ≠ k) :
    SMap.get d (SMap.insert m k v) j = SMap.get d m j := by
  have hk : ¬ k = j := fun e => h e.symm
  induction m with
  | nil => simp [SMap.insert, SMap.get, hk]
  | cons e r ih =>
    obtain ⟨a, x⟩ := e
    by_cases h1 : k < a
    · simp [SMap.insert, h1, SMap.get, hk]
    · simp [SMap.insert, h1, SMap.get, ih]

theorem SMap.get_insert_drop (d : α) (m : SMap α) (k : Nat) (v : α) :
    SMap.get d (SMap.insert (SMap.drop m k) k v) k = v := by
  induction m with
  | nil => simp [SMap.drop, SMap.insert, SMap.get]
  | cons e r ih =>
    obtain ⟨a, x⟩ := e
    by_cases h : a = k
    · simp [SMap.drop, h, ih]
    · by_cases h1 : k < a <;> simp [SMap.drop, h, SMap.insert, h1, SMap.get, ih]

/-- A read after a write of the same key. -/
@[simp] theorem SMap.get_set_same [DecidableEq α] (d : α) (m : SMap α) (k : Nat) (v : α) :
    SMap.get d (SMap.set d m k v) k = v := by
  unfold SMap.set
  split
  · rw [SMap.get_drop_same]; exact (‹v = d›).symm
  · exact SMap.get_insert_drop d m k v

/-- A write leaves every other key alone. -/
@[simp] theorem SMap.get_set_ne [DecidableEq α] (d : α) (m : SMap α) (k : Nat) (v : α) (j : Nat) (h : j ≠ k) :
    SMap.get d (SMap.set d m k v) j = SMap.get d m j := by
  unfold SMap.set
  split
  · exact SMap.get_drop_ne d m k j h
  · rw [SMap.get_insert_ne d _ k v j h, SMap.get_drop_ne d m k j h]

/-- Both at once. -/
theorem SMap.get_set [DecidableEq α] (d : α) (m : SMap α) (k : Nat) (v : α) (j : Nat) :
    SMap.get d (SMap.set d m k v) j = if j = k then v else SMap.get d m j := by
  by_cases h : j = k
  · subst h; simp
  · simp [h]

/-! ### The canonical form -/

variable [DecidableEq α]

theorem SMap.wfAbove_mono (d : α) (m : SMap α) (a b : Nat) (hab : a ≤ b) (h : SMap.wfAbove d (some b) m = true) :
    SMap.wfAbove d (some a) m = true := by
  cases m with
  | nil => rfl
  | cons e r =>
    obtain ⟨c, x⟩ := e
    simp only [SMap.wfAbove, Bool.and_eq_true, decide_eq_true_eq] at h ⊢
    exact ⟨⟨by omega, h.1.2⟩, h.2⟩

theorem SMap.wfAbove_none (d : α) (m : SMap α) (a : Nat) (h : SMap.wfAbove d (some a) m = true) :
    SMap.wfAbove d none m = true := by
  cases m with
  | nil => rfl
  | cons e r =>
    obtain ⟨c, x⟩ := e
    simp only [SMap.wfAbove, Bool.and_eq_true, decide_eq_true_eq] at h ⊢
    exact ⟨⟨trivial, h.1.2⟩, h.2⟩

theorem SMap.wfAbove_drop (d : α) (m : SMap α) (k : Nat) (lo : Option Nat) (h : SMap.wfAbove d lo m = true) :
    SMap.wfAbove d lo (SMap.drop m k) = true := by
  induction m generalizing lo with
  | nil => rfl
  | cons e r ih =>
    obtain ⟨a, x⟩ := e
    have hr : SMap.wfAbove d (some a) r = true := by
      simp only [SMap.wfAbove, Bool.and_eq_true] at h
      exact h.2
    by_cases hk : a = k
    · simp only [SMap.drop, hk, if_true]
      cases lo with
      | none => exact SMap.wfAbove_none d _ a (ih _ hr)
      | some l =>
        refine ih _ (SMap.wfAbove_mono d r l a ?_ hr)
        simp only [SMap.wfAbove, Bool.and_eq_true, decide_eq_true_eq] at h
        omega
    · simp only [SMap.wfAbove, Bool.and_eq_true] at h
      simp only [SMap.drop, hk, if_false, SMap.wfAbove, Bool.and_eq_true]
      exact ⟨h.1, ih _ hr⟩

theorem SMap.wfAbove_insert (d : α) (m : SMap α) (k : Nat) (v : α) (hv : v ≠ d) (lo : Option Nat)
    (hlo : ∀ l, lo = some l → l < k) (hk : ∀ e ∈ m, e.1 ≠ k) (h : SMap.wfAbove d lo m = true) :
    SMap.wfAbove d lo (SMap.insert m k v) = true := by
  induction m generalizing lo with
  | nil =>
    cases lo with
    | none => simp [SMap.insert, SMap.wfAbove, hv]
    | some l => simp [SMap.insert, SMap.wfAbove, hv, hlo l rfl]
  | cons e r ih =>
    obtain ⟨a, x⟩ := e
    simp only [SMap.wfAbove, Bool.and_eq_true, decide_eq_true_eq] at h
    by_cases h1 : k < a
    · simp only [SMap.insert, h1, if_true, SMap.wfAbove, Bool.and_eq_true, decide_eq_true_eq]
      refine ⟨⟨?_, hv⟩, ⟨trivial, h.1.2⟩, h.2⟩
      cases lo with
      | none => trivial
      | some l => simpa using hlo l rfl
    · simp only [SMap.insert, h1, if_false, SMap.wfAbove, Bool.and_eq_true, decide_eq_true_eq]
      refine ⟨h.1, ih (some a) ?_ (fun e he => hk e (List.mem_cons_of_mem _ he)) h.2⟩
      intro l hl
      have := hk (a, x) (List.mem_cons_self ..)
      simp only [Option.some.injEq] at hl
      simp only at this
      omega

omit [DecidableEq α] in
theorem SMap.drop_ne (m : SMap α) (k : Nat) : ∀ e ∈ SMap.drop m k, e.1 ≠ k := by
  induction m with
  | nil => simp [SMap.drop]
  | cons e r ih =>
    obtain ⟨a, x⟩ := e
    by_cases h : a = k
    · simpa [SMap.drop, h] using ih
    · simp only [SMap.drop, h, if_false, List.mem_cons]
      rintro y (rfl | hy)
      · exact h
      · exact ih y hy

/-- A write keeps the canonical form. -/
theorem SMap.wf_set (d : α) (m : SMap α) (k : Nat) (v : α) (h : SMap.wf d m = true) : SMap.wf d (SMap.set d m k v) = true := by
  unfold SMap.set
  split
  · exact SMap.wfAbove_drop d m k none h
  · exact SMap.wfAbove_insert d _ k v ‹_› none (by simp) (SMap.drop_ne m k) (SMap.wfAbove_drop d m k none h)

/-- Two maps in canonical form that read the same are the same. -/
theorem SMap.wfAbove_get (d : α) (m : SMap α) (lo k : Nat) (h : SMap.wfAbove d (some lo) m = true) (hk : k ≤ lo) :
    SMap.get d m k = d := by
  induction m generalizing lo with
  | nil => rfl
  | cons e r ih =>
    obtain ⟨a, x⟩ := e
    simp only [SMap.wfAbove, Bool.and_eq_true, decide_eq_true_eq] at h
    have : ¬ a = k := by omega
    simp only [SMap.get, this, if_false]
    exact ih a h.2 (by omega)

end Sys2Proof
end

