-- ==== Sys2Proof/Laws/State.lean ====
section
/-! SUPPORT. What each update of the state leaves of each field: one lemma for each. -/

namespace Sys2Proof.Machine

/-! ### setAgent -/

@[simp] theorem setAgent_agenda (s : State) (n : Nat) (a : Agent) : (s.setAgent n a).agenda = s.agenda := rfl
@[simp] theorem setAgent_cur (s : State) (n : Nat) (a : Agent) : (s.setAgent n a).cur = s.cur := rfl
@[simp] theorem setAgent_res (s : State) (n : Nat) (a : Agent) : (s.setAgent n a).res = s.res := rfl
@[simp] theorem setAgent_latched (s : State) (n : Nat) (a : Agent) : (s.setAgent n a).latched = s.latched := rfl
@[simp] theorem setAgent_refuse (s : State) (n : Nat) (a : Agent) : (s.setAgent n a).refuse = s.refuse := rfl
@[simp] theorem setAgent_fresh (s : State) (n : Nat) (a : Agent) : (s.setAgent n a).fresh = s.fresh := rfl
@[simp] theorem setAgent_cycle (s : State) (n : Nat) (a : Agent) : (s.setAgent n a).cycle = s.cycle := rfl
@[simp] theorem setAgent_chipid (s : State) (n : Nat) (a : Agent) : (s.setAgent n a).chipid = s.chipid := rfl
@[simp] theorem setAgent_cores (s : State) (n : Nat) (a : Agent) : (s.setAgent n a).cores = s.cores := rfl
@[simp] theorem setAgent_dies (s : State) (n : Nat) (a : Agent) : (s.setAgent n a).dies = s.dies := rfl
@[simp] theorem setAgent_mem (s : State) (n : Nat) (a : Agent) : (s.setAgent n a).mem = s.mem := rfl
@[simp] theorem setAgent_poison (s : State) (n : Nat) (a : Agent) : (s.setAgent n a).poison = s.poison := rfl
@[simp] theorem setAgent_ctxroot (s : State) (n : Nat) (a : Agent) : (s.setAgent n a).ctxroot = s.ctxroot := rfl
@[simp] theorem setAgent_regsets (s : State) (n : Nat) (a : Agent) : (s.setAgent n a).regsets = s.regsets := rfl
@[simp] theorem setAgent_shoot (s : State) (n : Nat) (a : Agent) : (s.setAgent n a).shoot = s.shoot := rfl
@[simp] theorem setAgent_nextId (s : State) (n : Nat) (a : Agent) : (s.setAgent n a).nextId = s.nextId := rfl
@[simp] theorem setAgent_alertStatus (s : State) (n : Nat) (a : Agent) : (s.setAgent n a).alertStatus = s.alertStatus := rfl
@[simp] theorem setAgent_alertMask (s : State) (n : Nat) (a : Agent) : (s.setAgent n a).alertMask = s.alertMask := rfl
@[simp] theorem setAgent_alertFresh (s : State) (n : Nat) (a : Agent) : (s.setAgent n a).alertFresh = s.alertFresh := rfl
@[simp] theorem setAgent_alertAt (s : State) (n : Nat) (a : Agent) : (s.setAgent n a).alertAt = s.alertAt := rfl
@[simp] theorem setAgent_sideMsg (s : State) (n : Nat) (a : Agent) : (s.setAgent n a).sideMsg = s.sideMsg := rfl
@[simp] theorem setAgent_elRing (s : State) (n : Nat) (a : Agent) : (s.setAgent n a).elRing = s.elRing := rfl
@[simp] theorem setAgent_elHead (s : State) (n : Nat) (a : Agent) : (s.setAgent n a).elHead = s.elHead := rfl
@[simp] theorem setAgent_elTail (s : State) (n : Nat) (a : Agent) : (s.setAgent n a).elTail = s.elTail := rfl
@[simp] theorem setAgent_elPushAt (s : State) (n : Nat) (a : Agent) : (s.setAgent n a).elPushAt = s.elPushAt := rfl
@[simp] theorem setAgent_elPushes (s : State) (n : Nat) (a : Agent) : (s.setAgent n a).elPushes = s.elPushes := rfl
@[simp] theorem setAgent_elHwm (s : State) (n : Nat) (a : Agent) : (s.setAgent n a).elHwm = s.elHwm := rfl
@[simp] theorem setAgent_elLost (s : State) (n : Nat) (a : Agent) : (s.setAgent n a).elLost = s.elLost := rfl
@[simp] theorem setAgent_elW (s : State) (n : Nat) (a : Agent) : (s.setAgent n a).elW = s.elW := rfl
@[simp] theorem setAgent_cfHalt (s : State) (n : Nat) (a : Agent) : (s.setAgent n a).cfHalt = s.cfHalt := rfl
@[simp] theorem setAgent_dbgEn (s : State) (n : Nat) (a : Agent) : (s.setAgent n a).dbgEn = s.dbgEn := rfl
@[simp] theorem setAgent_dbgHalt (s : State) (n : Nat) (a : Agent) : (s.setAgent n a).dbgHalt = s.dbgHalt := rfl
@[simp] theorem setAgent_evdie (s : State) (n : Nat) (a : Agent) : (s.setAgent n a).evdie = s.evdie := rfl
@[simp] theorem setAgent_gate (s : State) (n : Nat) (a : Agent) : (s.setAgent n a).gate = s.gate := rfl
@[simp] theorem setAgent_wdog (s : State) (n : Nat) (a : Agent) : (s.setAgent n a).wdog = s.wdog := rfl
@[simp] theorem setAgent_launchNext (s : State) (n : Nat) (a : Agent) : (s.setAgent n a).launchNext = s.launchNext := rfl
@[simp] theorem setAgent_launches (s : State) (n : Nat) (a : Agent) : (s.setAgent n a).launches = s.launches := rfl
@[simp] theorem setAgent_tiles (s : State) (n : Nat) (a : Agent) : (s.setAgent n a).tiles = s.tiles := rfl
@[simp] theorem setAgent_barriers (s : State) (n : Nat) (a : Agent) : (s.setAgent n a).barriers = s.barriers := rfl
@[simp] theorem setAgent_step_ (s : State) (n : Nat) (a : Agent) : (s.setAgent n a).step_ = s.step_ := rfl
@[simp] theorem setAgent_ramp (s : State) (n : Nat) (a : Agent) : (s.setAgent n a).ramp = s.ramp := rfl
@[simp] theorem setAgent_clk (s : State) (n : Nat) (a : Agent) : (s.setAgent n a).clk = s.clk := rfl
@[simp] theorem setAgent_hbm (s : State) (n : Nat) (a : Agent) : (s.setAgent n a).hbm = s.hbm := rfl
@[simp] theorem setAgent_planes (s : State) (n : Nat) (a : Agent) : (s.setAgent n a).planes = s.planes := rfl
@[simp] theorem setAgent_fab (s : State) (n : Nat) (a : Agent) : (s.setAgent n a).fab = s.fab := rfl
@[simp] theorem setAgent_pt (s : State) (n : Nat) (a : Agent) : (s.setAgent n a).pt = s.pt := rfl
@[simp] theorem setAgent_mg (s : State) (n : Nat) (a : Agent) : (s.setAgent n a).mg = s.mg := rfl
@[simp] theorem setAgent_thHbm (s : State) (n : Nat) (a : Agent) : (s.setAgent n a).thHbm = s.thHbm := rfl
@[simp] theorem setAgent_thVert (s : State) (n : Nat) (a : Agent) : (s.setAgent n a).thVert = s.thVert := rfl
@[simp] theorem setAgent_thCore (s : State) (n : Nat) (a : Agent) : (s.setAgent n a).thCore = s.thCore := rfl
@[simp] theorem setAgent_srcStack (s : State) (n : Nat) (a : Agent) : (s.setAgent n a).srcStack = s.srcStack := rfl
@[simp] theorem setAgent_srcCore (s : State) (n : Nat) (a : Agent) : (s.setAgent n a).srcCore = s.srcCore := rfl
@[simp] theorem setAgent_srcStackAt (s : State) (n : Nat) (a : Agent) : (s.setAgent n a).srcStackAt = s.srcStackAt := rfl
@[simp] theorem setAgent_srcCoreAt (s : State) (n : Nat) (a : Agent) : (s.setAgent n a).srcCoreAt = s.srcCoreAt := rfl
@[simp] theorem setAgent_timeBase (s : State) (n : Nat) (a : Agent) : (s.setAgent n a).timeBase = s.timeBase := rfl
@[simp] theorem setAgent_cycleBase (s : State) (n : Nat) (a : Agent) : (s.setAgent n a).cycleBase = s.cycleBase := rfl
@[simp] theorem setAgent_timeRem (s : State) (n : Nat) (a : Agent) : (s.setAgent n a).timeRem = s.timeRem := rfl

/-! ### setMe -/

@[simp] theorem setMe_agenda (s : State) (a : Agent) : (s.setMe a).agenda = s.agenda := rfl
@[simp] theorem setMe_cur (s : State) (a : Agent) : (s.setMe a).cur = s.cur := rfl
@[simp] theorem setMe_res (s : State) (a : Agent) : (s.setMe a).res = s.res := rfl
@[simp] theorem setMe_latched (s : State) (a : Agent) : (s.setMe a).latched = s.latched := rfl
@[simp] theorem setMe_refuse (s : State) (a : Agent) : (s.setMe a).refuse = s.refuse := rfl
@[simp] theorem setMe_fresh (s : State) (a : Agent) : (s.setMe a).fresh = s.fresh := rfl
@[simp] theorem setMe_cycle (s : State) (a : Agent) : (s.setMe a).cycle = s.cycle := rfl
@[simp] theorem setMe_chipid (s : State) (a : Agent) : (s.setMe a).chipid = s.chipid := rfl
@[simp] theorem setMe_cores (s : State) (a : Agent) : (s.setMe a).cores = s.cores := rfl
@[simp] theorem setMe_dies (s : State) (a : Agent) : (s.setMe a).dies = s.dies := rfl
@[simp] theorem setMe_mem (s : State) (a : Agent) : (s.setMe a).mem = s.mem := rfl
@[simp] theorem setMe_poison (s : State) (a : Agent) : (s.setMe a).poison = s.poison := rfl
@[simp] theorem setMe_ctxroot (s : State) (a : Agent) : (s.setMe a).ctxroot = s.ctxroot := rfl
@[simp] theorem setMe_regsets (s : State) (a : Agent) : (s.setMe a).regsets = s.regsets := rfl
@[simp] theorem setMe_shoot (s : State) (a : Agent) : (s.setMe a).shoot = s.shoot := rfl
@[simp] theorem setMe_nextId (s : State) (a : Agent) : (s.setMe a).nextId = s.nextId := rfl
@[simp] theorem setMe_alertStatus (s : State) (a : Agent) : (s.setMe a).alertStatus = s.alertStatus := rfl
@[simp] theorem setMe_alertMask (s : State) (a : Agent) : (s.setMe a).alertMask = s.alertMask := rfl
@[simp] theorem setMe_alertFresh (s : State) (a : Agent) : (s.setMe a).alertFresh = s.alertFresh := rfl
@[simp] theorem setMe_alertAt (s : State) (a : Agent) : (s.setMe a).alertAt = s.alertAt := rfl
@[simp] theorem setMe_sideMsg (s : State) (a : Agent) : (s.setMe a).sideMsg = s.sideMsg := rfl
@[simp] theorem setMe_elRing (s : State) (a : Agent) : (s.setMe a).elRing = s.elRing := rfl
@[simp] theorem setMe_elHead (s : State) (a : Agent) : (s.setMe a).elHead = s.elHead := rfl
@[simp] theorem setMe_elTail (s : State) (a : Agent) : (s.setMe a).elTail = s.elTail := rfl
@[simp] theorem setMe_elPushAt (s : State) (a : Agent) : (s.setMe a).elPushAt = s.elPushAt := rfl
@[simp] theorem setMe_elPushes (s : State) (a : Agent) : (s.setMe a).elPushes = s.elPushes := rfl
@[simp] theorem setMe_elHwm (s : State) (a : Agent) : (s.setMe a).elHwm = s.elHwm := rfl
@[simp] theorem setMe_elLost (s : State) (a : Agent) : (s.setMe a).elLost = s.elLost := rfl
@[simp] theorem setMe_elW (s : State) (a : Agent) : (s.setMe a).elW = s.elW := rfl
@[simp] theorem setMe_cfHalt (s : State) (a : Agent) : (s.setMe a).cfHalt = s.cfHalt := rfl
@[simp] theorem setMe_dbgEn (s : State) (a : Agent) : (s.setMe a).dbgEn = s.dbgEn := rfl
@[simp] theorem setMe_dbgHalt (s : State) (a : Agent) : (s.setMe a).dbgHalt = s.dbgHalt := rfl
@[simp] theorem setMe_evdie (s : State) (a : Agent) : (s.setMe a).evdie = s.evdie := rfl
@[simp] theorem setMe_gate (s : State) (a : Agent) : (s.setMe a).gate = s.gate := rfl
@[simp] theorem setMe_wdog (s : State) (a : Agent) : (s.setMe a).wdog = s.wdog := rfl
@[simp] theorem setMe_launchNext (s : State) (a : Agent) : (s.setMe a).launchNext = s.launchNext := rfl
@[simp] theorem setMe_launches (s : State) (a : Agent) : (s.setMe a).launches = s.launches := rfl
@[simp] theorem setMe_tiles (s : State) (a : Agent) : (s.setMe a).tiles = s.tiles := rfl
@[simp] theorem setMe_barriers (s : State) (a : Agent) : (s.setMe a).barriers = s.barriers := rfl
@[simp] theorem setMe_step_ (s : State) (a : Agent) : (s.setMe a).step_ = s.step_ := rfl
@[simp] theorem setMe_ramp (s : State) (a : Agent) : (s.setMe a).ramp = s.ramp := rfl
@[simp] theorem setMe_clk (s : State) (a : Agent) : (s.setMe a).clk = s.clk := rfl
@[simp] theorem setMe_hbm (s : State) (a : Agent) : (s.setMe a).hbm = s.hbm := rfl
@[simp] theorem setMe_planes (s : State) (a : Agent) : (s.setMe a).planes = s.planes := rfl
@[simp] theorem setMe_fab (s : State) (a : Agent) : (s.setMe a).fab = s.fab := rfl
@[simp] theorem setMe_pt (s : State) (a : Agent) : (s.setMe a).pt = s.pt := rfl
@[simp] theorem setMe_mg (s : State) (a : Agent) : (s.setMe a).mg = s.mg := rfl
@[simp] theorem setMe_thHbm (s : State) (a : Agent) : (s.setMe a).thHbm = s.thHbm := rfl
@[simp] theorem setMe_thVert (s : State) (a : Agent) : (s.setMe a).thVert = s.thVert := rfl
@[simp] theorem setMe_thCore (s : State) (a : Agent) : (s.setMe a).thCore = s.thCore := rfl
@[simp] theorem setMe_srcStack (s : State) (a : Agent) : (s.setMe a).srcStack = s.srcStack := rfl
@[simp] theorem setMe_srcCore (s : State) (a : Agent) : (s.setMe a).srcCore = s.srcCore := rfl
@[simp] theorem setMe_srcStackAt (s : State) (a : Agent) : (s.setMe a).srcStackAt = s.srcStackAt := rfl
@[simp] theorem setMe_srcCoreAt (s : State) (a : Agent) : (s.setMe a).srcCoreAt = s.srcCoreAt := rfl
@[simp] theorem setMe_timeBase (s : State) (a : Agent) : (s.setMe a).timeBase = s.timeBase := rfl
@[simp] theorem setMe_cycleBase (s : State) (a : Agent) : (s.setMe a).cycleBase = s.cycleBase := rfl
@[simp] theorem setMe_timeRem (s : State) (a : Agent) : (s.setMe a).timeRem = s.timeRem := rfl

/-! ### modMe -/

@[simp] theorem modMe_agenda (s : State) (f : Agent → Agent) : (s.modMe f).agenda = s.agenda := rfl
@[simp] theorem modMe_cur (s : State) (f : Agent → Agent) : (s.modMe f).cur = s.cur := rfl
@[simp] theorem modMe_res (s : State) (f : Agent → Agent) : (s.modMe f).res = s.res := rfl
@[simp] theorem modMe_latched (s : State) (f : Agent → Agent) : (s.modMe f).latched = s.latched := rfl
@[simp] theorem modMe_refuse (s : State) (f : Agent → Agent) : (s.modMe f).refuse = s.refuse := rfl
@[simp] theorem modMe_fresh (s : State) (f : Agent → Agent) : (s.modMe f).fresh = s.fresh := rfl
@[simp] theorem modMe_cycle (s : State) (f : Agent → Agent) : (s.modMe f).cycle = s.cycle := rfl
@[simp] theorem modMe_chipid (s : State) (f : Agent → Agent) : (s.modMe f).chipid = s.chipid := rfl
@[simp] theorem modMe_cores (s : State) (f : Agent → Agent) : (s.modMe f).cores = s.cores := rfl
@[simp] theorem modMe_dies (s : State) (f : Agent → Agent) : (s.modMe f).dies = s.dies := rfl
@[simp] theorem modMe_mem (s : State) (f : Agent → Agent) : (s.modMe f).mem = s.mem := rfl
@[simp] theorem modMe_poison (s : State) (f : Agent → Agent) : (s.modMe f).poison = s.poison := rfl
@[simp] theorem modMe_ctxroot (s : State) (f : Agent → Agent) : (s.modMe f).ctxroot = s.ctxroot := rfl
@[simp] theorem modMe_regsets (s : State) (f : Agent → Agent) : (s.modMe f).regsets = s.regsets := rfl
@[simp] theorem modMe_shoot (s : State) (f : Agent → Agent) : (s.modMe f).shoot = s.shoot := rfl
@[simp] theorem modMe_nextId (s : State) (f : Agent → Agent) : (s.modMe f).nextId = s.nextId := rfl
@[simp] theorem modMe_alertStatus (s : State) (f : Agent → Agent) : (s.modMe f).alertStatus = s.alertStatus := rfl
@[simp] theorem modMe_alertMask (s : State) (f : Agent → Agent) : (s.modMe f).alertMask = s.alertMask := rfl
@[simp] theorem modMe_alertFresh (s : State) (f : Agent → Agent) : (s.modMe f).alertFresh = s.alertFresh := rfl
@[simp] theorem modMe_alertAt (s : State) (f : Agent → Agent) : (s.modMe f).alertAt = s.alertAt := rfl
@[simp] theorem modMe_sideMsg (s : State) (f : Agent → Agent) : (s.modMe f).sideMsg = s.sideMsg := rfl
@[simp] theorem modMe_elRing (s : State) (f : Agent → Agent) : (s.modMe f).elRing = s.elRing := rfl
@[simp] theorem modMe_elHead (s : State) (f : Agent → Agent) : (s.modMe f).elHead = s.elHead := rfl
@[simp] theorem modMe_elTail (s : State) (f : Agent → Agent) : (s.modMe f).elTail = s.elTail := rfl
@[simp] theorem modMe_elPushAt (s : State) (f : Agent → Agent) : (s.modMe f).elPushAt = s.elPushAt := rfl
@[simp] theorem modMe_elPushes (s : State) (f : Agent → Agent) : (s.modMe f).elPushes = s.elPushes := rfl
@[simp] theorem modMe_elHwm (s : State) (f : Agent → Agent) : (s.modMe f).elHwm = s.elHwm := rfl
@[simp] theorem modMe_elLost (s : State) (f : Agent → Agent) : (s.modMe f).elLost = s.elLost := rfl
@[simp] theorem modMe_elW (s : State) (f : Agent → Agent) : (s.modMe f).elW = s.elW := rfl
@[simp] theorem modMe_cfHalt (s : State) (f : Agent → Agent) : (s.modMe f).cfHalt = s.cfHalt := rfl
@[simp] theorem modMe_dbgEn (s : State) (f : Agent → Agent) : (s.modMe f).dbgEn = s.dbgEn := rfl
@[simp] theorem modMe_dbgHalt (s : State) (f : Agent → Agent) : (s.modMe f).dbgHalt = s.dbgHalt := rfl
@[simp] theorem modMe_evdie (s : State) (f : Agent → Agent) : (s.modMe f).evdie = s.evdie := rfl
@[simp] theorem modMe_gate (s : State) (f : Agent → Agent) : (s.modMe f).gate = s.gate := rfl
@[simp] theorem modMe_wdog (s : State) (f : Agent → Agent) : (s.modMe f).wdog = s.wdog := rfl
@[simp] theorem modMe_launchNext (s : State) (f : Agent → Agent) : (s.modMe f).launchNext = s.launchNext := rfl
@[simp] theorem modMe_launches (s : State) (f : Agent → Agent) : (s.modMe f).launches = s.launches := rfl
@[simp] theorem modMe_tiles (s : State) (f : Agent → Agent) : (s.modMe f).tiles = s.tiles := rfl
@[simp] theorem modMe_barriers (s : State) (f : Agent → Agent) : (s.modMe f).barriers = s.barriers := rfl
@[simp] theorem modMe_step_ (s : State) (f : Agent → Agent) : (s.modMe f).step_ = s.step_ := rfl
@[simp] theorem modMe_ramp (s : State) (f : Agent → Agent) : (s.modMe f).ramp = s.ramp := rfl
@[simp] theorem modMe_clk (s : State) (f : Agent → Agent) : (s.modMe f).clk = s.clk := rfl
@[simp] theorem modMe_hbm (s : State) (f : Agent → Agent) : (s.modMe f).hbm = s.hbm := rfl
@[simp] theorem modMe_planes (s : State) (f : Agent → Agent) : (s.modMe f).planes = s.planes := rfl
@[simp] theorem modMe_fab (s : State) (f : Agent → Agent) : (s.modMe f).fab = s.fab := rfl
@[simp] theorem modMe_pt (s : State) (f : Agent → Agent) : (s.modMe f).pt = s.pt := rfl
@[simp] theorem modMe_mg (s : State) (f : Agent → Agent) : (s.modMe f).mg = s.mg := rfl
@[simp] theorem modMe_thHbm (s : State) (f : Agent → Agent) : (s.modMe f).thHbm = s.thHbm := rfl
@[simp] theorem modMe_thVert (s : State) (f : Agent → Agent) : (s.modMe f).thVert = s.thVert := rfl
@[simp] theorem modMe_thCore (s : State) (f : Agent → Agent) : (s.modMe f).thCore = s.thCore := rfl
@[simp] theorem modMe_srcStack (s : State) (f : Agent → Agent) : (s.modMe f).srcStack = s.srcStack := rfl
@[simp] theorem modMe_srcCore (s : State) (f : Agent → Agent) : (s.modMe f).srcCore = s.srcCore := rfl
@[simp] theorem modMe_srcStackAt (s : State) (f : Agent → Agent) : (s.modMe f).srcStackAt = s.srcStackAt := rfl
@[simp] theorem modMe_srcCoreAt (s : State) (f : Agent → Agent) : (s.modMe f).srcCoreAt = s.srcCoreAt := rfl
@[simp] theorem modMe_timeBase (s : State) (f : Agent → Agent) : (s.modMe f).timeBase = s.timeBase := rfl
@[simp] theorem modMe_cycleBase (s : State) (f : Agent → Agent) : (s.modMe f).cycleBase = s.cycleBase := rfl
@[simp] theorem modMe_timeRem (s : State) (f : Agent → Agent) : (s.modMe f).timeRem = s.timeRem := rfl

/-! ### modAgent -/

@[simp] theorem modAgent_agenda (s : State) (n : Nat) (f : Agent → Agent) : (s.modAgent n f).agenda = s.agenda := rfl
@[simp] theorem modAgent_cur (s : State) (n : Nat) (f : Agent → Agent) : (s.modAgent n f).cur = s.cur := rfl
@[simp] theorem modAgent_res (s : State) (n : Nat) (f : Agent → Agent) : (s.modAgent n f).res = s.res := rfl
@[simp] theorem modAgent_latched (s : State) (n : Nat) (f : Agent → Agent) : (s.modAgent n f).latched = s.latched := rfl
@[simp] theorem modAgent_refuse (s : State) (n : Nat) (f : Agent → Agent) : (s.modAgent n f).refuse = s.refuse := rfl
@[simp] theorem modAgent_fresh (s : State) (n : Nat) (f : Agent → Agent) : (s.modAgent n f).fresh = s.fresh := rfl
@[simp] theorem modAgent_cycle (s : State) (n : Nat) (f : Agent → Agent) : (s.modAgent n f).cycle = s.cycle := rfl
@[simp] theorem modAgent_chipid (s : State) (n : Nat) (f : Agent → Agent) : (s.modAgent n f).chipid = s.chipid := rfl
@[simp] theorem modAgent_cores (s : State) (n : Nat) (f : Agent → Agent) : (s.modAgent n f).cores = s.cores := rfl
@[simp] theorem modAgent_dies (s : State) (n : Nat) (f : Agent → Agent) : (s.modAgent n f).dies = s.dies := rfl
@[simp] theorem modAgent_mem (s : State) (n : Nat) (f : Agent → Agent) : (s.modAgent n f).mem = s.mem := rfl
@[simp] theorem modAgent_poison (s : State) (n : Nat) (f : Agent → Agent) : (s.modAgent n f).poison = s.poison := rfl
@[simp] theorem modAgent_ctxroot (s : State) (n : Nat) (f : Agent → Agent) : (s.modAgent n f).ctxroot = s.ctxroot := rfl
@[simp] theorem modAgent_regsets (s : State) (n : Nat) (f : Agent → Agent) : (s.modAgent n f).regsets = s.regsets := rfl
@[simp] theorem modAgent_shoot (s : State) (n : Nat) (f : Agent → Agent) : (s.modAgent n f).shoot = s.shoot := rfl
@[simp] theorem modAgent_nextId (s : State) (n : Nat) (f : Agent → Agent) : (s.modAgent n f).nextId = s.nextId := rfl
@[simp] theorem modAgent_alertStatus (s : State) (n : Nat) (f : Agent → Agent) : (s.modAgent n f).alertStatus = s.alertStatus := rfl
@[simp] theorem modAgent_alertMask (s : State) (n : Nat) (f : Agent → Agent) : (s.modAgent n f).alertMask = s.alertMask := rfl
@[simp] theorem modAgent_alertFresh (s : State) (n : Nat) (f : Agent → Agent) : (s.modAgent n f).alertFresh = s.alertFresh := rfl
@[simp] theorem modAgent_alertAt (s : State) (n : Nat) (f : Agent → Agent) : (s.modAgent n f).alertAt = s.alertAt := rfl
@[simp] theorem modAgent_sideMsg (s : State) (n : Nat) (f : Agent → Agent) : (s.modAgent n f).sideMsg = s.sideMsg := rfl
@[simp] theorem modAgent_elRing (s : State) (n : Nat) (f : Agent → Agent) : (s.modAgent n f).elRing = s.elRing := rfl
@[simp] theorem modAgent_elHead (s : State) (n : Nat) (f : Agent → Agent) : (s.modAgent n f).elHead = s.elHead := rfl
@[simp] theorem modAgent_elTail (s : State) (n : Nat) (f : Agent → Agent) : (s.modAgent n f).elTail = s.elTail := rfl
@[simp] theorem modAgent_elPushAt (s : State) (n : Nat) (f : Agent → Agent) : (s.modAgent n f).elPushAt = s.elPushAt := rfl
@[simp] theorem modAgent_elPushes (s : State) (n : Nat) (f : Agent → Agent) : (s.modAgent n f).elPushes = s.elPushes := rfl
@[simp] theorem modAgent_elHwm (s : State) (n : Nat) (f : Agent → Agent) : (s.modAgent n f).elHwm = s.elHwm := rfl
@[simp] theorem modAgent_elLost (s : State) (n : Nat) (f : Agent → Agent) : (s.modAgent n f).elLost = s.elLost := rfl
@[simp] theorem modAgent_elW (s : State) (n : Nat) (f : Agent → Agent) : (s.modAgent n f).elW = s.elW := rfl
@[simp] theorem modAgent_cfHalt (s : State) (n : Nat) (f : Agent → Agent) : (s.modAgent n f).cfHalt = s.cfHalt := rfl
@[simp] theorem modAgent_dbgEn (s : State) (n : Nat) (f : Agent → Agent) : (s.modAgent n f).dbgEn = s.dbgEn := rfl
@[simp] theorem modAgent_dbgHalt (s : State) (n : Nat) (f : Agent → Agent) : (s.modAgent n f).dbgHalt = s.dbgHalt := rfl
@[simp] theorem modAgent_evdie (s : State) (n : Nat) (f : Agent → Agent) : (s.modAgent n f).evdie = s.evdie := rfl
@[simp] theorem modAgent_gate (s : State) (n : Nat) (f : Agent → Agent) : (s.modAgent n f).gate = s.gate := rfl
@[simp] theorem modAgent_wdog (s : State) (n : Nat) (f : Agent → Agent) : (s.modAgent n f).wdog = s.wdog := rfl
@[simp] theorem modAgent_launchNext (s : State) (n : Nat) (f : Agent → Agent) : (s.modAgent n f).launchNext = s.launchNext := rfl
@[simp] theorem modAgent_launches (s : State) (n : Nat) (f : Agent → Agent) : (s.modAgent n f).launches = s.launches := rfl
@[simp] theorem modAgent_tiles (s : State) (n : Nat) (f : Agent → Agent) : (s.modAgent n f).tiles = s.tiles := rfl
@[simp] theorem modAgent_barriers (s : State) (n : Nat) (f : Agent → Agent) : (s.modAgent n f).barriers = s.barriers := rfl
@[simp] theorem modAgent_step_ (s : State) (n : Nat) (f : Agent → Agent) : (s.modAgent n f).step_ = s.step_ := rfl
@[simp] theorem modAgent_ramp (s : State) (n : Nat) (f : Agent → Agent) : (s.modAgent n f).ramp = s.ramp := rfl
@[simp] theorem modAgent_clk (s : State) (n : Nat) (f : Agent → Agent) : (s.modAgent n f).clk = s.clk := rfl
@[simp] theorem modAgent_hbm (s : State) (n : Nat) (f : Agent → Agent) : (s.modAgent n f).hbm = s.hbm := rfl
@[simp] theorem modAgent_planes (s : State) (n : Nat) (f : Agent → Agent) : (s.modAgent n f).planes = s.planes := rfl
@[simp] theorem modAgent_fab (s : State) (n : Nat) (f : Agent → Agent) : (s.modAgent n f).fab = s.fab := rfl
@[simp] theorem modAgent_pt (s : State) (n : Nat) (f : Agent → Agent) : (s.modAgent n f).pt = s.pt := rfl
@[simp] theorem modAgent_mg (s : State) (n : Nat) (f : Agent → Agent) : (s.modAgent n f).mg = s.mg := rfl
@[simp] theorem modAgent_thHbm (s : State) (n : Nat) (f : Agent → Agent) : (s.modAgent n f).thHbm = s.thHbm := rfl
@[simp] theorem modAgent_thVert (s : State) (n : Nat) (f : Agent → Agent) : (s.modAgent n f).thVert = s.thVert := rfl
@[simp] theorem modAgent_thCore (s : State) (n : Nat) (f : Agent → Agent) : (s.modAgent n f).thCore = s.thCore := rfl
@[simp] theorem modAgent_srcStack (s : State) (n : Nat) (f : Agent → Agent) : (s.modAgent n f).srcStack = s.srcStack := rfl
@[simp] theorem modAgent_srcCore (s : State) (n : Nat) (f : Agent → Agent) : (s.modAgent n f).srcCore = s.srcCore := rfl
@[simp] theorem modAgent_srcStackAt (s : State) (n : Nat) (f : Agent → Agent) : (s.modAgent n f).srcStackAt = s.srcStackAt := rfl
@[simp] theorem modAgent_srcCoreAt (s : State) (n : Nat) (f : Agent → Agent) : (s.modAgent n f).srcCoreAt = s.srcCoreAt := rfl
@[simp] theorem modAgent_timeBase (s : State) (n : Nat) (f : Agent → Agent) : (s.modAgent n f).timeBase = s.timeBase := rfl
@[simp] theorem modAgent_cycleBase (s : State) (n : Nat) (f : Agent → Agent) : (s.modAgent n f).cycleBase = s.cycleBase := rfl
@[simp] theorem modAgent_timeRem (s : State) (n : Nat) (f : Agent → Agent) : (s.modAgent n f).timeRem = s.timeRem := rfl

/-! ### modRegs -/

@[simp] theorem modRegs_agenda (s : State) (n : Nat) (f : Regs → Regs) : (s.modRegs n f).agenda = s.agenda := rfl
@[simp] theorem modRegs_cur (s : State) (n : Nat) (f : Regs → Regs) : (s.modRegs n f).cur = s.cur := rfl
@[simp] theorem modRegs_res (s : State) (n : Nat) (f : Regs → Regs) : (s.modRegs n f).res = s.res := rfl
@[simp] theorem modRegs_latched (s : State) (n : Nat) (f : Regs → Regs) : (s.modRegs n f).latched = s.latched := rfl
@[simp] theorem modRegs_refuse (s : State) (n : Nat) (f : Regs → Regs) : (s.modRegs n f).refuse = s.refuse := rfl
@[simp] theorem modRegs_fresh (s : State) (n : Nat) (f : Regs → Regs) : (s.modRegs n f).fresh = s.fresh := rfl
@[simp] theorem modRegs_cycle (s : State) (n : Nat) (f : Regs → Regs) : (s.modRegs n f).cycle = s.cycle := rfl
@[simp] theorem modRegs_chipid (s : State) (n : Nat) (f : Regs → Regs) : (s.modRegs n f).chipid = s.chipid := rfl
@[simp] theorem modRegs_cores (s : State) (n : Nat) (f : Regs → Regs) : (s.modRegs n f).cores = s.cores := rfl
@[simp] theorem modRegs_dies (s : State) (n : Nat) (f : Regs → Regs) : (s.modRegs n f).dies = s.dies := rfl
@[simp] theorem modRegs_mem (s : State) (n : Nat) (f : Regs → Regs) : (s.modRegs n f).mem = s.mem := rfl
@[simp] theorem modRegs_poison (s : State) (n : Nat) (f : Regs → Regs) : (s.modRegs n f).poison = s.poison := rfl
@[simp] theorem modRegs_ctxroot (s : State) (n : Nat) (f : Regs → Regs) : (s.modRegs n f).ctxroot = s.ctxroot := rfl
@[simp] theorem modRegs_regsets (s : State) (n : Nat) (f : Regs → Regs) : (s.modRegs n f).regsets = s.regsets := rfl
@[simp] theorem modRegs_shoot (s : State) (n : Nat) (f : Regs → Regs) : (s.modRegs n f).shoot = s.shoot := rfl
@[simp] theorem modRegs_nextId (s : State) (n : Nat) (f : Regs → Regs) : (s.modRegs n f).nextId = s.nextId := rfl
@[simp] theorem modRegs_alertStatus (s : State) (n : Nat) (f : Regs → Regs) : (s.modRegs n f).alertStatus = s.alertStatus := rfl
@[simp] theorem modRegs_alertMask (s : State) (n : Nat) (f : Regs → Regs) : (s.modRegs n f).alertMask = s.alertMask := rfl
@[simp] theorem modRegs_alertFresh (s : State) (n : Nat) (f : Regs → Regs) : (s.modRegs n f).alertFresh = s.alertFresh := rfl
@[simp] theorem modRegs_alertAt (s : State) (n : Nat) (f : Regs → Regs) : (s.modRegs n f).alertAt = s.alertAt := rfl
@[simp] theorem modRegs_sideMsg (s : State) (n : Nat) (f : Regs → Regs) : (s.modRegs n f).sideMsg = s.sideMsg := rfl
@[simp] theorem modRegs_elRing (s : State) (n : Nat) (f : Regs → Regs) : (s.modRegs n f).elRing = s.elRing := rfl
@[simp] theorem modRegs_elHead (s : State) (n : Nat) (f : Regs → Regs) : (s.modRegs n f).elHead = s.elHead := rfl
@[simp] theorem modRegs_elTail (s : State) (n : Nat) (f : Regs → Regs) : (s.modRegs n f).elTail = s.elTail := rfl
@[simp] theorem modRegs_elPushAt (s : State) (n : Nat) (f : Regs → Regs) : (s.modRegs n f).elPushAt = s.elPushAt := rfl
@[simp] theorem modRegs_elPushes (s : State) (n : Nat) (f : Regs → Regs) : (s.modRegs n f).elPushes = s.elPushes := rfl
@[simp] theorem modRegs_elHwm (s : State) (n : Nat) (f : Regs → Regs) : (s.modRegs n f).elHwm = s.elHwm := rfl
@[simp] theorem modRegs_elLost (s : State) (n : Nat) (f : Regs → Regs) : (s.modRegs n f).elLost = s.elLost := rfl
@[simp] theorem modRegs_elW (s : State) (n : Nat) (f : Regs → Regs) : (s.modRegs n f).elW = s.elW := rfl
@[simp] theorem modRegs_cfHalt (s : State) (n : Nat) (f : Regs → Regs) : (s.modRegs n f).cfHalt = s.cfHalt := rfl
@[simp] theorem modRegs_dbgEn (s : State) (n : Nat) (f : Regs → Regs) : (s.modRegs n f).dbgEn = s.dbgEn := rfl
@[simp] theorem modRegs_dbgHalt (s : State) (n : Nat) (f : Regs → Regs) : (s.modRegs n f).dbgHalt = s.dbgHalt := rfl
@[simp] theorem modRegs_evdie (s : State) (n : Nat) (f : Regs → Regs) : (s.modRegs n f).evdie = s.evdie := rfl
@[simp] theorem modRegs_gate (s : State) (n : Nat) (f : Regs → Regs) : (s.modRegs n f).gate = s.gate := rfl
@[simp] theorem modRegs_wdog (s : State) (n : Nat) (f : Regs → Regs) : (s.modRegs n f).wdog = s.wdog := rfl
@[simp] theorem modRegs_launchNext (s : State) (n : Nat) (f : Regs → Regs) : (s.modRegs n f).launchNext = s.launchNext := rfl
@[simp] theorem modRegs_launches (s : State) (n : Nat) (f : Regs → Regs) : (s.modRegs n f).launches = s.launches := rfl
@[simp] theorem modRegs_tiles (s : State) (n : Nat) (f : Regs → Regs) : (s.modRegs n f).tiles = s.tiles := rfl
@[simp] theorem modRegs_barriers (s : State) (n : Nat) (f : Regs → Regs) : (s.modRegs n f).barriers = s.barriers := rfl
@[simp] theorem modRegs_step_ (s : State) (n : Nat) (f : Regs → Regs) : (s.modRegs n f).step_ = s.step_ := rfl
@[simp] theorem modRegs_ramp (s : State) (n : Nat) (f : Regs → Regs) : (s.modRegs n f).ramp = s.ramp := rfl
@[simp] theorem modRegs_clk (s : State) (n : Nat) (f : Regs → Regs) : (s.modRegs n f).clk = s.clk := rfl
@[simp] theorem modRegs_hbm (s : State) (n : Nat) (f : Regs → Regs) : (s.modRegs n f).hbm = s.hbm := rfl
@[simp] theorem modRegs_planes (s : State) (n : Nat) (f : Regs → Regs) : (s.modRegs n f).planes = s.planes := rfl
@[simp] theorem modRegs_fab (s : State) (n : Nat) (f : Regs → Regs) : (s.modRegs n f).fab = s.fab := rfl
@[simp] theorem modRegs_pt (s : State) (n : Nat) (f : Regs → Regs) : (s.modRegs n f).pt = s.pt := rfl
@[simp] theorem modRegs_mg (s : State) (n : Nat) (f : Regs → Regs) : (s.modRegs n f).mg = s.mg := rfl
@[simp] theorem modRegs_thHbm (s : State) (n : Nat) (f : Regs → Regs) : (s.modRegs n f).thHbm = s.thHbm := rfl
@[simp] theorem modRegs_thVert (s : State) (n : Nat) (f : Regs → Regs) : (s.modRegs n f).thVert = s.thVert := rfl
@[simp] theorem modRegs_thCore (s : State) (n : Nat) (f : Regs → Regs) : (s.modRegs n f).thCore = s.thCore := rfl
@[simp] theorem modRegs_srcStack (s : State) (n : Nat) (f : Regs → Regs) : (s.modRegs n f).srcStack = s.srcStack := rfl
@[simp] theorem modRegs_srcCore (s : State) (n : Nat) (f : Regs → Regs) : (s.modRegs n f).srcCore = s.srcCore := rfl
@[simp] theorem modRegs_srcStackAt (s : State) (n : Nat) (f : Regs → Regs) : (s.modRegs n f).srcStackAt = s.srcStackAt := rfl
@[simp] theorem modRegs_srcCoreAt (s : State) (n : Nat) (f : Regs → Regs) : (s.modRegs n f).srcCoreAt = s.srcCoreAt := rfl
@[simp] theorem modRegs_timeBase (s : State) (n : Nat) (f : Regs → Regs) : (s.modRegs n f).timeBase = s.timeBase := rfl
@[simp] theorem modRegs_cycleBase (s : State) (n : Nat) (f : Regs → Regs) : (s.modRegs n f).cycleBase = s.cycleBase := rfl
@[simp] theorem modRegs_timeRem (s : State) (n : Nat) (f : Regs → Regs) : (s.modRegs n f).timeRem = s.timeRem := rfl

/-! ### setCore -/

@[simp] theorem setCore_agenda (s : State) (n : Nat) (k : Core) : (s.setCore n k).agenda = s.agenda := rfl
@[simp] theorem setCore_cur (s : State) (n : Nat) (k : Core) : (s.setCore n k).cur = s.cur := rfl
@[simp] theorem setCore_res (s : State) (n : Nat) (k : Core) : (s.setCore n k).res = s.res := rfl
@[simp] theorem setCore_latched (s : State) (n : Nat) (k : Core) : (s.setCore n k).latched = s.latched := rfl
@[simp] theorem setCore_refuse (s : State) (n : Nat) (k : Core) : (s.setCore n k).refuse = s.refuse := rfl
@[simp] theorem setCore_fresh (s : State) (n : Nat) (k : Core) : (s.setCore n k).fresh = s.fresh := rfl
@[simp] theorem setCore_cycle (s : State) (n : Nat) (k : Core) : (s.setCore n k).cycle = s.cycle := rfl
@[simp] theorem setCore_chipid (s : State) (n : Nat) (k : Core) : (s.setCore n k).chipid = s.chipid := rfl
@[simp] theorem setCore_agents (s : State) (n : Nat) (k : Core) : (s.setCore n k).agents = s.agents := rfl
@[simp] theorem setCore_dies (s : State) (n : Nat) (k : Core) : (s.setCore n k).dies = s.dies := rfl
@[simp] theorem setCore_mem (s : State) (n : Nat) (k : Core) : (s.setCore n k).mem = s.mem := rfl
@[simp] theorem setCore_poison (s : State) (n : Nat) (k : Core) : (s.setCore n k).poison = s.poison := rfl
@[simp] theorem setCore_ctxroot (s : State) (n : Nat) (k : Core) : (s.setCore n k).ctxroot = s.ctxroot := rfl
@[simp] theorem setCore_regsets (s : State) (n : Nat) (k : Core) : (s.setCore n k).regsets = s.regsets := rfl
@[simp] theorem setCore_shoot (s : State) (n : Nat) (k : Core) : (s.setCore n k).shoot = s.shoot := rfl
@[simp] theorem setCore_nextId (s : State) (n : Nat) (k : Core) : (s.setCore n k).nextId = s.nextId := rfl
@[simp] theorem setCore_alertStatus (s : State) (n : Nat) (k : Core) : (s.setCore n k).alertStatus = s.alertStatus := rfl
@[simp] theorem setCore_alertMask (s : State) (n : Nat) (k : Core) : (s.setCore n k).alertMask = s.alertMask := rfl
@[simp] theorem setCore_alertFresh (s : State) (n : Nat) (k : Core) : (s.setCore n k).alertFresh = s.alertFresh := rfl
@[simp] theorem setCore_alertAt (s : State) (n : Nat) (k : Core) : (s.setCore n k).alertAt = s.alertAt := rfl
@[simp] theorem setCore_sideMsg (s : State) (n : Nat) (k : Core) : (s.setCore n k).sideMsg = s.sideMsg := rfl
@[simp] theorem setCore_elRing (s : State) (n : Nat) (k : Core) : (s.setCore n k).elRing = s.elRing := rfl
@[simp] theorem setCore_elHead (s : State) (n : Nat) (k : Core) : (s.setCore n k).elHead = s.elHead := rfl
@[simp] theorem setCore_elTail (s : State) (n : Nat) (k : Core) : (s.setCore n k).elTail = s.elTail := rfl
@[simp] theorem setCore_elPushAt (s : State) (n : Nat) (k : Core) : (s.setCore n k).elPushAt = s.elPushAt := rfl
@[simp] theorem setCore_elPushes (s : State) (n : Nat) (k : Core) : (s.setCore n k).elPushes = s.elPushes := rfl
@[simp] theorem setCore_elHwm (s : State) (n : Nat) (k : Core) : (s.setCore n k).elHwm = s.elHwm := rfl
@[simp] theorem setCore_elLost (s : State) (n : Nat) (k : Core) : (s.setCore n k).elLost = s.elLost := rfl
@[simp] theorem setCore_elW (s : State) (n : Nat) (k : Core) : (s.setCore n k).elW = s.elW := rfl
@[simp] theorem setCore_cfHalt (s : State) (n : Nat) (k : Core) : (s.setCore n k).cfHalt = s.cfHalt := rfl
@[simp] theorem setCore_dbgEn (s : State) (n : Nat) (k : Core) : (s.setCore n k).dbgEn = s.dbgEn := rfl
@[simp] theorem setCore_dbgHalt (s : State) (n : Nat) (k : Core) : (s.setCore n k).dbgHalt = s.dbgHalt := rfl
@[simp] theorem setCore_evdie (s : State) (n : Nat) (k : Core) : (s.setCore n k).evdie = s.evdie := rfl
@[simp] theorem setCore_gate (s : State) (n : Nat) (k : Core) : (s.setCore n k).gate = s.gate := rfl
@[simp] theorem setCore_wdog (s : State) (n : Nat) (k : Core) : (s.setCore n k).wdog = s.wdog := rfl
@[simp] theorem setCore_launchNext (s : State) (n : Nat) (k : Core) : (s.setCore n k).launchNext = s.launchNext := rfl
@[simp] theorem setCore_launches (s : State) (n : Nat) (k : Core) : (s.setCore n k).launches = s.launches := rfl
@[simp] theorem setCore_tiles (s : State) (n : Nat) (k : Core) : (s.setCore n k).tiles = s.tiles := rfl
@[simp] theorem setCore_barriers (s : State) (n : Nat) (k : Core) : (s.setCore n k).barriers = s.barriers := rfl
@[simp] theorem setCore_step_ (s : State) (n : Nat) (k : Core) : (s.setCore n k).step_ = s.step_ := rfl
@[simp] theorem setCore_ramp (s : State) (n : Nat) (k : Core) : (s.setCore n k).ramp = s.ramp := rfl
@[simp] theorem setCore_clk (s : State) (n : Nat) (k : Core) : (s.setCore n k).clk = s.clk := rfl
@[simp] theorem setCore_hbm (s : State) (n : Nat) (k : Core) : (s.setCore n k).hbm = s.hbm := rfl
@[simp] theorem setCore_planes (s : State) (n : Nat) (k : Core) : (s.setCore n k).planes = s.planes := rfl
@[simp] theorem setCore_fab (s : State) (n : Nat) (k : Core) : (s.setCore n k).fab = s.fab := rfl
@[simp] theorem setCore_pt (s : State) (n : Nat) (k : Core) : (s.setCore n k).pt = s.pt := rfl
@[simp] theorem setCore_mg (s : State) (n : Nat) (k : Core) : (s.setCore n k).mg = s.mg := rfl
@[simp] theorem setCore_thHbm (s : State) (n : Nat) (k : Core) : (s.setCore n k).thHbm = s.thHbm := rfl
@[simp] theorem setCore_thVert (s : State) (n : Nat) (k : Core) : (s.setCore n k).thVert = s.thVert := rfl
@[simp] theorem setCore_thCore (s : State) (n : Nat) (k : Core) : (s.setCore n k).thCore = s.thCore := rfl
@[simp] theorem setCore_srcStack (s : State) (n : Nat) (k : Core) : (s.setCore n k).srcStack = s.srcStack := rfl
@[simp] theorem setCore_srcCore (s : State) (n : Nat) (k : Core) : (s.setCore n k).srcCore = s.srcCore := rfl
@[simp] theorem setCore_srcStackAt (s : State) (n : Nat) (k : Core) : (s.setCore n k).srcStackAt = s.srcStackAt := rfl
@[simp] theorem setCore_srcCoreAt (s : State) (n : Nat) (k : Core) : (s.setCore n k).srcCoreAt = s.srcCoreAt := rfl
@[simp] theorem setCore_timeBase (s : State) (n : Nat) (k : Core) : (s.setCore n k).timeBase = s.timeBase := rfl
@[simp] theorem setCore_cycleBase (s : State) (n : Nat) (k : Core) : (s.setCore n k).cycleBase = s.cycleBase := rfl
@[simp] theorem setCore_timeRem (s : State) (n : Nat) (k : Core) : (s.setCore n k).timeRem = s.timeRem := rfl

/-! ### modCore -/

@[simp] theorem modCore_agenda (s : State) (f : Core → Core) : (s.modCore f).agenda = s.agenda := rfl
@[simp] theorem modCore_cur (s : State) (f : Core → Core) : (s.modCore f).cur = s.cur := rfl
@[simp] theorem modCore_res (s : State) (f : Core → Core) : (s.modCore f).res = s.res := rfl
@[simp] theorem modCore_latched (s : State) (f : Core → Core) : (s.modCore f).latched = s.latched := rfl
@[simp] theorem modCore_refuse (s : State) (f : Core → Core) : (s.modCore f).refuse = s.refuse := rfl
@[simp] theorem modCore_fresh (s : State) (f : Core → Core) : (s.modCore f).fresh = s.fresh := rfl
@[simp] theorem modCore_cycle (s : State) (f : Core → Core) : (s.modCore f).cycle = s.cycle := rfl
@[simp] theorem modCore_chipid (s : State) (f : Core → Core) : (s.modCore f).chipid = s.chipid := rfl
@[simp] theorem modCore_agents (s : State) (f : Core → Core) : (s.modCore f).agents = s.agents := rfl
@[simp] theorem modCore_dies (s : State) (f : Core → Core) : (s.modCore f).dies = s.dies := rfl
@[simp] theorem modCore_mem (s : State) (f : Core → Core) : (s.modCore f).mem = s.mem := rfl
@[simp] theorem modCore_poison (s : State) (f : Core → Core) : (s.modCore f).poison = s.poison := rfl
@[simp] theorem modCore_ctxroot (s : State) (f : Core → Core) : (s.modCore f).ctxroot = s.ctxroot := rfl
@[simp] theorem modCore_regsets (s : State) (f : Core → Core) : (s.modCore f).regsets = s.regsets := rfl
@[simp] theorem modCore_shoot (s : State) (f : Core → Core) : (s.modCore f).shoot = s.shoot := rfl
@[simp] theorem modCore_nextId (s : State) (f : Core → Core) : (s.modCore f).nextId = s.nextId := rfl
@[simp] theorem modCore_alertStatus (s : State) (f : Core → Core) : (s.modCore f).alertStatus = s.alertStatus := rfl
@[simp] theorem modCore_alertMask (s : State) (f : Core → Core) : (s.modCore f).alertMask = s.alertMask := rfl
@[simp] theorem modCore_alertFresh (s : State) (f : Core → Core) : (s.modCore f).alertFresh = s.alertFresh := rfl
@[simp] theorem modCore_alertAt (s : State) (f : Core → Core) : (s.modCore f).alertAt = s.alertAt := rfl
@[simp] theorem modCore_sideMsg (s : State) (f : Core → Core) : (s.modCore f).sideMsg = s.sideMsg := rfl
@[simp] theorem modCore_elRing (s : State) (f : Core → Core) : (s.modCore f).elRing = s.elRing := rfl
@[simp] theorem modCore_elHead (s : State) (f : Core → Core) : (s.modCore f).elHead = s.elHead := rfl
@[simp] theorem modCore_elTail (s : State) (f : Core → Core) : (s.modCore f).elTail = s.elTail := rfl
@[simp] theorem modCore_elPushAt (s : State) (f : Core → Core) : (s.modCore f).elPushAt = s.elPushAt := rfl
@[simp] theorem modCore_elPushes (s : State) (f : Core → Core) : (s.modCore f).elPushes = s.elPushes := rfl
@[simp] theorem modCore_elHwm (s : State) (f : Core → Core) : (s.modCore f).elHwm = s.elHwm := rfl
@[simp] theorem modCore_elLost (s : State) (f : Core → Core) : (s.modCore f).elLost = s.elLost := rfl
@[simp] theorem modCore_elW (s : State) (f : Core → Core) : (s.modCore f).elW = s.elW := rfl
@[simp] theorem modCore_cfHalt (s : State) (f : Core → Core) : (s.modCore f).cfHalt = s.cfHalt := rfl
@[simp] theorem modCore_dbgEn (s : State) (f : Core → Core) : (s.modCore f).dbgEn = s.dbgEn := rfl
@[simp] theorem modCore_dbgHalt (s : State) (f : Core → Core) : (s.modCore f).dbgHalt = s.dbgHalt := rfl
@[simp] theorem modCore_evdie (s : State) (f : Core → Core) : (s.modCore f).evdie = s.evdie := rfl
@[simp] theorem modCore_gate (s : State) (f : Core → Core) : (s.modCore f).gate = s.gate := rfl
@[simp] theorem modCore_wdog (s : State) (f : Core → Core) : (s.modCore f).wdog = s.wdog := rfl
@[simp] theorem modCore_launchNext (s : State) (f : Core → Core) : (s.modCore f).launchNext = s.launchNext := rfl
@[simp] theorem modCore_launches (s : State) (f : Core → Core) : (s.modCore f).launches = s.launches := rfl
@[simp] theorem modCore_tiles (s : State) (f : Core → Core) : (s.modCore f).tiles = s.tiles := rfl
@[simp] theorem modCore_barriers (s : State) (f : Core → Core) : (s.modCore f).barriers = s.barriers := rfl
@[simp] theorem modCore_step_ (s : State) (f : Core → Core) : (s.modCore f).step_ = s.step_ := rfl
@[simp] theorem modCore_ramp (s : State) (f : Core → Core) : (s.modCore f).ramp = s.ramp := rfl
@[simp] theorem modCore_clk (s : State) (f : Core → Core) : (s.modCore f).clk = s.clk := rfl
@[simp] theorem modCore_hbm (s : State) (f : Core → Core) : (s.modCore f).hbm = s.hbm := rfl
@[simp] theorem modCore_planes (s : State) (f : Core → Core) : (s.modCore f).planes = s.planes := rfl
@[simp] theorem modCore_fab (s : State) (f : Core → Core) : (s.modCore f).fab = s.fab := rfl
@[simp] theorem modCore_pt (s : State) (f : Core → Core) : (s.modCore f).pt = s.pt := rfl
@[simp] theorem modCore_mg (s : State) (f : Core → Core) : (s.modCore f).mg = s.mg := rfl
@[simp] theorem modCore_thHbm (s : State) (f : Core → Core) : (s.modCore f).thHbm = s.thHbm := rfl
@[simp] theorem modCore_thVert (s : State) (f : Core → Core) : (s.modCore f).thVert = s.thVert := rfl
@[simp] theorem modCore_thCore (s : State) (f : Core → Core) : (s.modCore f).thCore = s.thCore := rfl
@[simp] theorem modCore_srcStack (s : State) (f : Core → Core) : (s.modCore f).srcStack = s.srcStack := rfl
@[simp] theorem modCore_srcCore (s : State) (f : Core → Core) : (s.modCore f).srcCore = s.srcCore := rfl
@[simp] theorem modCore_srcStackAt (s : State) (f : Core → Core) : (s.modCore f).srcStackAt = s.srcStackAt := rfl
@[simp] theorem modCore_srcCoreAt (s : State) (f : Core → Core) : (s.modCore f).srcCoreAt = s.srcCoreAt := rfl
@[simp] theorem modCore_timeBase (s : State) (f : Core → Core) : (s.modCore f).timeBase = s.timeBase := rfl
@[simp] theorem modCore_cycleBase (s : State) (f : Core → Core) : (s.modCore f).cycleBase = s.cycleBase := rfl
@[simp] theorem modCore_timeRem (s : State) (f : Core → Core) : (s.modCore f).timeRem = s.timeRem := rfl

/-! ### modCoreAt -/

@[simp] theorem modCoreAt_agenda (s : State) (n : Nat) (f : Core → Core) : (s.modCoreAt n f).agenda = s.agenda := rfl
@[simp] theorem modCoreAt_cur (s : State) (n : Nat) (f : Core → Core) : (s.modCoreAt n f).cur = s.cur := rfl
@[simp] theorem modCoreAt_res (s : State) (n : Nat) (f : Core → Core) : (s.modCoreAt n f).res = s.res := rfl
@[simp] theorem modCoreAt_latched (s : State) (n : Nat) (f : Core → Core) : (s.modCoreAt n f).latched = s.latched := rfl
@[simp] theorem modCoreAt_refuse (s : State) (n : Nat) (f : Core → Core) : (s.modCoreAt n f).refuse = s.refuse := rfl
@[simp] theorem modCoreAt_fresh (s : State) (n : Nat) (f : Core → Core) : (s.modCoreAt n f).fresh = s.fresh := rfl
@[simp] theorem modCoreAt_cycle (s : State) (n : Nat) (f : Core → Core) : (s.modCoreAt n f).cycle = s.cycle := rfl
@[simp] theorem modCoreAt_chipid (s : State) (n : Nat) (f : Core → Core) : (s.modCoreAt n f).chipid = s.chipid := rfl
@[simp] theorem modCoreAt_agents (s : State) (n : Nat) (f : Core → Core) : (s.modCoreAt n f).agents = s.agents := rfl
@[simp] theorem modCoreAt_dies (s : State) (n : Nat) (f : Core → Core) : (s.modCoreAt n f).dies = s.dies := rfl
@[simp] theorem modCoreAt_mem (s : State) (n : Nat) (f : Core → Core) : (s.modCoreAt n f).mem = s.mem := rfl
@[simp] theorem modCoreAt_poison (s : State) (n : Nat) (f : Core → Core) : (s.modCoreAt n f).poison = s.poison := rfl
@[simp] theorem modCoreAt_ctxroot (s : State) (n : Nat) (f : Core → Core) : (s.modCoreAt n f).ctxroot = s.ctxroot := rfl
@[simp] theorem modCoreAt_regsets (s : State) (n : Nat) (f : Core → Core) : (s.modCoreAt n f).regsets = s.regsets := rfl
@[simp] theorem modCoreAt_shoot (s : State) (n : Nat) (f : Core → Core) : (s.modCoreAt n f).shoot = s.shoot := rfl
@[simp] theorem modCoreAt_nextId (s : State) (n : Nat) (f : Core → Core) : (s.modCoreAt n f).nextId = s.nextId := rfl
@[simp] theorem modCoreAt_alertStatus (s : State) (n : Nat) (f : Core → Core) : (s.modCoreAt n f).alertStatus = s.alertStatus := rfl
@[simp] theorem modCoreAt_alertMask (s : State) (n : Nat) (f : Core → Core) : (s.modCoreAt n f).alertMask = s.alertMask := rfl
@[simp] theorem modCoreAt_alertFresh (s : State) (n : Nat) (f : Core → Core) : (s.modCoreAt n f).alertFresh = s.alertFresh := rfl
@[simp] theorem modCoreAt_alertAt (s : State) (n : Nat) (f : Core → Core) : (s.modCoreAt n f).alertAt = s.alertAt := rfl
@[simp] theorem modCoreAt_sideMsg (s : State) (n : Nat) (f : Core → Core) : (s.modCoreAt n f).sideMsg = s.sideMsg := rfl
@[simp] theorem modCoreAt_elRing (s : State) (n : Nat) (f : Core → Core) : (s.modCoreAt n f).elRing = s.elRing := rfl
@[simp] theorem modCoreAt_elHead (s : State) (n : Nat) (f : Core → Core) : (s.modCoreAt n f).elHead = s.elHead := rfl
@[simp] theorem modCoreAt_elTail (s : State) (n : Nat) (f : Core → Core) : (s.modCoreAt n f).elTail = s.elTail := rfl
@[simp] theorem modCoreAt_elPushAt (s : State) (n : Nat) (f : Core → Core) : (s.modCoreAt n f).elPushAt = s.elPushAt := rfl
@[simp] theorem modCoreAt_elPushes (s : State) (n : Nat) (f : Core → Core) : (s.modCoreAt n f).elPushes = s.elPushes := rfl
@[simp] theorem modCoreAt_elHwm (s : State) (n : Nat) (f : Core → Core) : (s.modCoreAt n f).elHwm = s.elHwm := rfl
@[simp] theorem modCoreAt_elLost (s : State) (n : Nat) (f : Core → Core) : (s.modCoreAt n f).elLost = s.elLost := rfl
@[simp] theorem modCoreAt_elW (s : State) (n : Nat) (f : Core → Core) : (s.modCoreAt n f).elW = s.elW := rfl
@[simp] theorem modCoreAt_cfHalt (s : State) (n : Nat) (f : Core → Core) : (s.modCoreAt n f).cfHalt = s.cfHalt := rfl
@[simp] theorem modCoreAt_dbgEn (s : State) (n : Nat) (f : Core → Core) : (s.modCoreAt n f).dbgEn = s.dbgEn := rfl
@[simp] theorem modCoreAt_dbgHalt (s : State) (n : Nat) (f : Core → Core) : (s.modCoreAt n f).dbgHalt = s.dbgHalt := rfl
@[simp] theorem modCoreAt_evdie (s : State) (n : Nat) (f : Core → Core) : (s.modCoreAt n f).evdie = s.evdie := rfl
@[simp] theorem modCoreAt_gate (s : State) (n : Nat) (f : Core → Core) : (s.modCoreAt n f).gate = s.gate := rfl
@[simp] theorem modCoreAt_wdog (s : State) (n : Nat) (f : Core → Core) : (s.modCoreAt n f).wdog = s.wdog := rfl
@[simp] theorem modCoreAt_launchNext (s : State) (n : Nat) (f : Core → Core) : (s.modCoreAt n f).launchNext = s.launchNext := rfl
@[simp] theorem modCoreAt_launches (s : State) (n : Nat) (f : Core → Core) : (s.modCoreAt n f).launches = s.launches := rfl
@[simp] theorem modCoreAt_tiles (s : State) (n : Nat) (f : Core → Core) : (s.modCoreAt n f).tiles = s.tiles := rfl
@[simp] theorem modCoreAt_barriers (s : State) (n : Nat) (f : Core → Core) : (s.modCoreAt n f).barriers = s.barriers := rfl
@[simp] theorem modCoreAt_step_ (s : State) (n : Nat) (f : Core → Core) : (s.modCoreAt n f).step_ = s.step_ := rfl
@[simp] theorem modCoreAt_ramp (s : State) (n : Nat) (f : Core → Core) : (s.modCoreAt n f).ramp = s.ramp := rfl
@[simp] theorem modCoreAt_clk (s : State) (n : Nat) (f : Core → Core) : (s.modCoreAt n f).clk = s.clk := rfl
@[simp] theorem modCoreAt_hbm (s : State) (n : Nat) (f : Core → Core) : (s.modCoreAt n f).hbm = s.hbm := rfl
@[simp] theorem modCoreAt_planes (s : State) (n : Nat) (f : Core → Core) : (s.modCoreAt n f).planes = s.planes := rfl
@[simp] theorem modCoreAt_fab (s : State) (n : Nat) (f : Core → Core) : (s.modCoreAt n f).fab = s.fab := rfl
@[simp] theorem modCoreAt_pt (s : State) (n : Nat) (f : Core → Core) : (s.modCoreAt n f).pt = s.pt := rfl
@[simp] theorem modCoreAt_mg (s : State) (n : Nat) (f : Core → Core) : (s.modCoreAt n f).mg = s.mg := rfl
@[simp] theorem modCoreAt_thHbm (s : State) (n : Nat) (f : Core → Core) : (s.modCoreAt n f).thHbm = s.thHbm := rfl
@[simp] theorem modCoreAt_thVert (s : State) (n : Nat) (f : Core → Core) : (s.modCoreAt n f).thVert = s.thVert := rfl
@[simp] theorem modCoreAt_thCore (s : State) (n : Nat) (f : Core → Core) : (s.modCoreAt n f).thCore = s.thCore := rfl
@[simp] theorem modCoreAt_srcStack (s : State) (n : Nat) (f : Core → Core) : (s.modCoreAt n f).srcStack = s.srcStack := rfl
@[simp] theorem modCoreAt_srcCore (s : State) (n : Nat) (f : Core → Core) : (s.modCoreAt n f).srcCore = s.srcCore := rfl
@[simp] theorem modCoreAt_srcStackAt (s : State) (n : Nat) (f : Core → Core) : (s.modCoreAt n f).srcStackAt = s.srcStackAt := rfl
@[simp] theorem modCoreAt_srcCoreAt (s : State) (n : Nat) (f : Core → Core) : (s.modCoreAt n f).srcCoreAt = s.srcCoreAt := rfl
@[simp] theorem modCoreAt_timeBase (s : State) (n : Nat) (f : Core → Core) : (s.modCoreAt n f).timeBase = s.timeBase := rfl
@[simp] theorem modCoreAt_cycleBase (s : State) (n : Nat) (f : Core → Core) : (s.modCoreAt n f).cycleBase = s.cycleBase := rfl
@[simp] theorem modCoreAt_timeRem (s : State) (n : Nat) (f : Core → Core) : (s.modCoreAt n f).timeRem = s.timeRem := rfl

/-! ### setDie -/

@[simp] theorem setDie_agenda (s : State) (d : Nat) (x : Die) : (s.setDie d x).agenda = s.agenda := rfl
@[simp] theorem setDie_cur (s : State) (d : Nat) (x : Die) : (s.setDie d x).cur = s.cur := rfl
@[simp] theorem setDie_res (s : State) (d : Nat) (x : Die) : (s.setDie d x).res = s.res := rfl
@[simp] theorem setDie_latched (s : State) (d : Nat) (x : Die) : (s.setDie d x).latched = s.latched := rfl
@[simp] theorem setDie_refuse (s : State) (d : Nat) (x : Die) : (s.setDie d x).refuse = s.refuse := rfl
@[simp] theorem setDie_fresh (s : State) (d : Nat) (x : Die) : (s.setDie d x).fresh = s.fresh := rfl
@[simp] theorem setDie_cycle (s : State) (d : Nat) (x : Die) : (s.setDie d x).cycle = s.cycle := rfl
@[simp] theorem setDie_chipid (s : State) (d : Nat) (x : Die) : (s.setDie d x).chipid = s.chipid := rfl
@[simp] theorem setDie_agents (s : State) (d : Nat) (x : Die) : (s.setDie d x).agents = s.agents := rfl
@[simp] theorem setDie_cores (s : State) (d : Nat) (x : Die) : (s.setDie d x).cores = s.cores := rfl
@[simp] theorem setDie_mem (s : State) (d : Nat) (x : Die) : (s.setDie d x).mem = s.mem := rfl
@[simp] theorem setDie_poison (s : State) (d : Nat) (x : Die) : (s.setDie d x).poison = s.poison := rfl
@[simp] theorem setDie_ctxroot (s : State) (d : Nat) (x : Die) : (s.setDie d x).ctxroot = s.ctxroot := rfl
@[simp] theorem setDie_regsets (s : State) (d : Nat) (x : Die) : (s.setDie d x).regsets = s.regsets := rfl
@[simp] theorem setDie_shoot (s : State) (d : Nat) (x : Die) : (s.setDie d x).shoot = s.shoot := rfl
@[simp] theorem setDie_nextId (s : State) (d : Nat) (x : Die) : (s.setDie d x).nextId = s.nextId := rfl
@[simp] theorem setDie_alertStatus (s : State) (d : Nat) (x : Die) : (s.setDie d x).alertStatus = s.alertStatus := rfl
@[simp] theorem setDie_alertMask (s : State) (d : Nat) (x : Die) : (s.setDie d x).alertMask = s.alertMask := rfl
@[simp] theorem setDie_alertFresh (s : State) (d : Nat) (x : Die) : (s.setDie d x).alertFresh = s.alertFresh := rfl
@[simp] theorem setDie_alertAt (s : State) (d : Nat) (x : Die) : (s.setDie d x).alertAt = s.alertAt := rfl
@[simp] theorem setDie_sideMsg (s : State) (d : Nat) (x : Die) : (s.setDie d x).sideMsg = s.sideMsg := rfl
@[simp] theorem setDie_elRing (s : State) (d : Nat) (x : Die) : (s.setDie d x).elRing = s.elRing := rfl
@[simp] theorem setDie_elHead (s : State) (d : Nat) (x : Die) : (s.setDie d x).elHead = s.elHead := rfl
@[simp] theorem setDie_elTail (s : State) (d : Nat) (x : Die) : (s.setDie d x).elTail = s.elTail := rfl
@[simp] theorem setDie_elPushAt (s : State) (d : Nat) (x : Die) : (s.setDie d x).elPushAt = s.elPushAt := rfl
@[simp] theorem setDie_elPushes (s : State) (d : Nat) (x : Die) : (s.setDie d x).elPushes = s.elPushes := rfl
@[simp] theorem setDie_elHwm (s : State) (d : Nat) (x : Die) : (s.setDie d x).elHwm = s.elHwm := rfl
@[simp] theorem setDie_elLost (s : State) (d : Nat) (x : Die) : (s.setDie d x).elLost = s.elLost := rfl
@[simp] theorem setDie_elW (s : State) (d : Nat) (x : Die) : (s.setDie d x).elW = s.elW := rfl
@[simp] theorem setDie_cfHalt (s : State) (d : Nat) (x : Die) : (s.setDie d x).cfHalt = s.cfHalt := rfl
@[simp] theorem setDie_dbgEn (s : State) (d : Nat) (x : Die) : (s.setDie d x).dbgEn = s.dbgEn := rfl
@[simp] theorem setDie_dbgHalt (s : State) (d : Nat) (x : Die) : (s.setDie d x).dbgHalt = s.dbgHalt := rfl
@[simp] theorem setDie_evdie (s : State) (d : Nat) (x : Die) : (s.setDie d x).evdie = s.evdie := rfl
@[simp] theorem setDie_gate (s : State) (d : Nat) (x : Die) : (s.setDie d x).gate = s.gate := rfl
@[simp] theorem setDie_wdog (s : State) (d : Nat) (x : Die) : (s.setDie d x).wdog = s.wdog := rfl
@[simp] theorem setDie_launchNext (s : State) (d : Nat) (x : Die) : (s.setDie d x).launchNext = s.launchNext := rfl
@[simp] theorem setDie_launches (s : State) (d : Nat) (x : Die) : (s.setDie d x).launches = s.launches := rfl
@[simp] theorem setDie_tiles (s : State) (d : Nat) (x : Die) : (s.setDie d x).tiles = s.tiles := rfl
@[simp] theorem setDie_barriers (s : State) (d : Nat) (x : Die) : (s.setDie d x).barriers = s.barriers := rfl
@[simp] theorem setDie_step_ (s : State) (d : Nat) (x : Die) : (s.setDie d x).step_ = s.step_ := rfl
@[simp] theorem setDie_ramp (s : State) (d : Nat) (x : Die) : (s.setDie d x).ramp = s.ramp := rfl
@[simp] theorem setDie_clk (s : State) (d : Nat) (x : Die) : (s.setDie d x).clk = s.clk := rfl
@[simp] theorem setDie_hbm (s : State) (d : Nat) (x : Die) : (s.setDie d x).hbm = s.hbm := rfl
@[simp] theorem setDie_planes (s : State) (d : Nat) (x : Die) : (s.setDie d x).planes = s.planes := rfl
@[simp] theorem setDie_fab (s : State) (d : Nat) (x : Die) : (s.setDie d x).fab = s.fab := rfl
@[simp] theorem setDie_pt (s : State) (d : Nat) (x : Die) : (s.setDie d x).pt = s.pt := rfl
@[simp] theorem setDie_mg (s : State) (d : Nat) (x : Die) : (s.setDie d x).mg = s.mg := rfl
@[simp] theorem setDie_thHbm (s : State) (d : Nat) (x : Die) : (s.setDie d x).thHbm = s.thHbm := rfl
@[simp] theorem setDie_thVert (s : State) (d : Nat) (x : Die) : (s.setDie d x).thVert = s.thVert := rfl
@[simp] theorem setDie_thCore (s : State) (d : Nat) (x : Die) : (s.setDie d x).thCore = s.thCore := rfl
@[simp] theorem setDie_srcStack (s : State) (d : Nat) (x : Die) : (s.setDie d x).srcStack = s.srcStack := rfl
@[simp] theorem setDie_srcCore (s : State) (d : Nat) (x : Die) : (s.setDie d x).srcCore = s.srcCore := rfl
@[simp] theorem setDie_srcStackAt (s : State) (d : Nat) (x : Die) : (s.setDie d x).srcStackAt = s.srcStackAt := rfl
@[simp] theorem setDie_srcCoreAt (s : State) (d : Nat) (x : Die) : (s.setDie d x).srcCoreAt = s.srcCoreAt := rfl
@[simp] theorem setDie_timeBase (s : State) (d : Nat) (x : Die) : (s.setDie d x).timeBase = s.timeBase := rfl
@[simp] theorem setDie_cycleBase (s : State) (d : Nat) (x : Die) : (s.setDie d x).cycleBase = s.cycleBase := rfl
@[simp] theorem setDie_timeRem (s : State) (d : Nat) (x : Die) : (s.setDie d x).timeRem = s.timeRem := rfl

/-! ### modDie -/

@[simp] theorem modDie_agenda (s : State) (d : Nat) (f : Die → Die) : (s.modDie d f).agenda = s.agenda := rfl
@[simp] theorem modDie_cur (s : State) (d : Nat) (f : Die → Die) : (s.modDie d f).cur = s.cur := rfl
@[simp] theorem modDie_res (s : State) (d : Nat) (f : Die → Die) : (s.modDie d f).res = s.res := rfl
@[simp] theorem modDie_latched (s : State) (d : Nat) (f : Die → Die) : (s.modDie d f).latched = s.latched := rfl
@[simp] theorem modDie_refuse (s : State) (d : Nat) (f : Die → Die) : (s.modDie d f).refuse = s.refuse := rfl
@[simp] theorem modDie_fresh (s : State) (d : Nat) (f : Die → Die) : (s.modDie d f).fresh = s.fresh := rfl
@[simp] theorem modDie_cycle (s : State) (d : Nat) (f : Die → Die) : (s.modDie d f).cycle = s.cycle := rfl
@[simp] theorem modDie_chipid (s : State) (d : Nat) (f : Die → Die) : (s.modDie d f).chipid = s.chipid := rfl
@[simp] theorem modDie_agents (s : State) (d : Nat) (f : Die → Die) : (s.modDie d f).agents = s.agents := rfl
@[simp] theorem modDie_cores (s : State) (d : Nat) (f : Die → Die) : (s.modDie d f).cores = s.cores := rfl
@[simp] theorem modDie_mem (s : State) (d : Nat) (f : Die → Die) : (s.modDie d f).mem = s.mem := rfl
@[simp] theorem modDie_poison (s : State) (d : Nat) (f : Die → Die) : (s.modDie d f).poison = s.poison := rfl
@[simp] theorem modDie_ctxroot (s : State) (d : Nat) (f : Die → Die) : (s.modDie d f).ctxroot = s.ctxroot := rfl
@[simp] theorem modDie_regsets (s : State) (d : Nat) (f : Die → Die) : (s.modDie d f).regsets = s.regsets := rfl
@[simp] theorem modDie_shoot (s : State) (d : Nat) (f : Die → Die) : (s.modDie d f).shoot = s.shoot := rfl
@[simp] theorem modDie_nextId (s : State) (d : Nat) (f : Die → Die) : (s.modDie d f).nextId = s.nextId := rfl
@[simp] theorem modDie_alertStatus (s : State) (d : Nat) (f : Die → Die) : (s.modDie d f).alertStatus = s.alertStatus := rfl
@[simp] theorem modDie_alertMask (s : State) (d : Nat) (f : Die → Die) : (s.modDie d f).alertMask = s.alertMask := rfl
@[simp] theorem modDie_alertFresh (s : State) (d : Nat) (f : Die → Die) : (s.modDie d f).alertFresh = s.alertFresh := rfl
@[simp] theorem modDie_alertAt (s : State) (d : Nat) (f : Die → Die) : (s.modDie d f).alertAt = s.alertAt := rfl
@[simp] theorem modDie_sideMsg (s : State) (d : Nat) (f : Die → Die) : (s.modDie d f).sideMsg = s.sideMsg := rfl
@[simp] theorem modDie_elRing (s : State) (d : Nat) (f : Die → Die) : (s.modDie d f).elRing = s.elRing := rfl
@[simp] theorem modDie_elHead (s : State) (d : Nat) (f : Die → Die) : (s.modDie d f).elHead = s.elHead := rfl
@[simp] theorem modDie_elTail (s : State) (d : Nat) (f : Die → Die) : (s.modDie d f).elTail = s.elTail := rfl
@[simp] theorem modDie_elPushAt (s : State) (d : Nat) (f : Die → Die) : (s.modDie d f).elPushAt = s.elPushAt := rfl
@[simp] theorem modDie_elPushes (s : State) (d : Nat) (f : Die → Die) : (s.modDie d f).elPushes = s.elPushes := rfl
@[simp] theorem modDie_elHwm (s : State) (d : Nat) (f : Die → Die) : (s.modDie d f).elHwm = s.elHwm := rfl
@[simp] theorem modDie_elLost (s : State) (d : Nat) (f : Die → Die) : (s.modDie d f).elLost = s.elLost := rfl
@[simp] theorem modDie_elW (s : State) (d : Nat) (f : Die → Die) : (s.modDie d f).elW = s.elW := rfl
@[simp] theorem modDie_cfHalt (s : State) (d : Nat) (f : Die → Die) : (s.modDie d f).cfHalt = s.cfHalt := rfl
@[simp] theorem modDie_dbgEn (s : State) (d : Nat) (f : Die → Die) : (s.modDie d f).dbgEn = s.dbgEn := rfl
@[simp] theorem modDie_dbgHalt (s : State) (d : Nat) (f : Die → Die) : (s.modDie d f).dbgHalt = s.dbgHalt := rfl
@[simp] theorem modDie_evdie (s : State) (d : Nat) (f : Die → Die) : (s.modDie d f).evdie = s.evdie := rfl
@[simp] theorem modDie_gate (s : State) (d : Nat) (f : Die → Die) : (s.modDie d f).gate = s.gate := rfl
@[simp] theorem modDie_wdog (s : State) (d : Nat) (f : Die → Die) : (s.modDie d f).wdog = s.wdog := rfl
@[simp] theorem modDie_launchNext (s : State) (d : Nat) (f : Die → Die) : (s.modDie d f).launchNext = s.launchNext := rfl
@[simp] theorem modDie_launches (s : State) (d : Nat) (f : Die → Die) : (s.modDie d f).launches = s.launches := rfl
@[simp] theorem modDie_tiles (s : State) (d : Nat) (f : Die → Die) : (s.modDie d f).tiles = s.tiles := rfl
@[simp] theorem modDie_barriers (s : State) (d : Nat) (f : Die → Die) : (s.modDie d f).barriers = s.barriers := rfl
@[simp] theorem modDie_step_ (s : State) (d : Nat) (f : Die → Die) : (s.modDie d f).step_ = s.step_ := rfl
@[simp] theorem modDie_ramp (s : State) (d : Nat) (f : Die → Die) : (s.modDie d f).ramp = s.ramp := rfl
@[simp] theorem modDie_clk (s : State) (d : Nat) (f : Die → Die) : (s.modDie d f).clk = s.clk := rfl
@[simp] theorem modDie_hbm (s : State) (d : Nat) (f : Die → Die) : (s.modDie d f).hbm = s.hbm := rfl
@[simp] theorem modDie_planes (s : State) (d : Nat) (f : Die → Die) : (s.modDie d f).planes = s.planes := rfl
@[simp] theorem modDie_fab (s : State) (d : Nat) (f : Die → Die) : (s.modDie d f).fab = s.fab := rfl
@[simp] theorem modDie_pt (s : State) (d : Nat) (f : Die → Die) : (s.modDie d f).pt = s.pt := rfl
@[simp] theorem modDie_mg (s : State) (d : Nat) (f : Die → Die) : (s.modDie d f).mg = s.mg := rfl
@[simp] theorem modDie_thHbm (s : State) (d : Nat) (f : Die → Die) : (s.modDie d f).thHbm = s.thHbm := rfl
@[simp] theorem modDie_thVert (s : State) (d : Nat) (f : Die → Die) : (s.modDie d f).thVert = s.thVert := rfl
@[simp] theorem modDie_thCore (s : State) (d : Nat) (f : Die → Die) : (s.modDie d f).thCore = s.thCore := rfl
@[simp] theorem modDie_srcStack (s : State) (d : Nat) (f : Die → Die) : (s.modDie d f).srcStack = s.srcStack := rfl
@[simp] theorem modDie_srcCore (s : State) (d : Nat) (f : Die → Die) : (s.modDie d f).srcCore = s.srcCore := rfl
@[simp] theorem modDie_srcStackAt (s : State) (d : Nat) (f : Die → Die) : (s.modDie d f).srcStackAt = s.srcStackAt := rfl
@[simp] theorem modDie_srcCoreAt (s : State) (d : Nat) (f : Die → Die) : (s.modDie d f).srcCoreAt = s.srcCoreAt := rfl
@[simp] theorem modDie_timeBase (s : State) (d : Nat) (f : Die → Die) : (s.modDie d f).timeBase = s.timeBase := rfl
@[simp] theorem modDie_cycleBase (s : State) (d : Nat) (f : Die → Die) : (s.modDie d f).cycleBase = s.cycleBase := rfl
@[simp] theorem modDie_timeRem (s : State) (d : Nat) (f : Die → Die) : (s.modDie d f).timeRem = s.timeRem := rfl

/-! ### post -/

@[simp] theorem post_agenda (s : State) (d : Nat) (r : EvRec) : (s.post d r).agenda = s.agenda := rfl
@[simp] theorem post_cur (s : State) (d : Nat) (r : EvRec) : (s.post d r).cur = s.cur := rfl
@[simp] theorem post_res (s : State) (d : Nat) (r : EvRec) : (s.post d r).res = s.res := rfl
@[simp] theorem post_latched (s : State) (d : Nat) (r : EvRec) : (s.post d r).latched = s.latched := rfl
@[simp] theorem post_refuse (s : State) (d : Nat) (r : EvRec) : (s.post d r).refuse = s.refuse := rfl
@[simp] theorem post_fresh (s : State) (d : Nat) (r : EvRec) : (s.post d r).fresh = s.fresh := rfl
@[simp] theorem post_cycle (s : State) (d : Nat) (r : EvRec) : (s.post d r).cycle = s.cycle := rfl
@[simp] theorem post_chipid (s : State) (d : Nat) (r : EvRec) : (s.post d r).chipid = s.chipid := rfl
@[simp] theorem post_agents (s : State) (d : Nat) (r : EvRec) : (s.post d r).agents = s.agents := rfl
@[simp] theorem post_cores (s : State) (d : Nat) (r : EvRec) : (s.post d r).cores = s.cores := rfl
@[simp] theorem post_mem (s : State) (d : Nat) (r : EvRec) : (s.post d r).mem = s.mem := rfl
@[simp] theorem post_poison (s : State) (d : Nat) (r : EvRec) : (s.post d r).poison = s.poison := rfl
@[simp] theorem post_ctxroot (s : State) (d : Nat) (r : EvRec) : (s.post d r).ctxroot = s.ctxroot := rfl
@[simp] theorem post_regsets (s : State) (d : Nat) (r : EvRec) : (s.post d r).regsets = s.regsets := rfl
@[simp] theorem post_shoot (s : State) (d : Nat) (r : EvRec) : (s.post d r).shoot = s.shoot := rfl
@[simp] theorem post_nextId (s : State) (d : Nat) (r : EvRec) : (s.post d r).nextId = s.nextId := rfl
@[simp] theorem post_alertStatus (s : State) (d : Nat) (r : EvRec) : (s.post d r).alertStatus = s.alertStatus := rfl
@[simp] theorem post_alertMask (s : State) (d : Nat) (r : EvRec) : (s.post d r).alertMask = s.alertMask := rfl
@[simp] theorem post_alertFresh (s : State) (d : Nat) (r : EvRec) : (s.post d r).alertFresh = s.alertFresh := rfl
@[simp] theorem post_alertAt (s : State) (d : Nat) (r : EvRec) : (s.post d r).alertAt = s.alertAt := rfl
@[simp] theorem post_sideMsg (s : State) (d : Nat) (r : EvRec) : (s.post d r).sideMsg = s.sideMsg := rfl
@[simp] theorem post_elRing (s : State) (d : Nat) (r : EvRec) : (s.post d r).elRing = s.elRing := rfl
@[simp] theorem post_elHead (s : State) (d : Nat) (r : EvRec) : (s.post d r).elHead = s.elHead := rfl
@[simp] theorem post_elTail (s : State) (d : Nat) (r : EvRec) : (s.post d r).elTail = s.elTail := rfl
@[simp] theorem post_elPushAt (s : State) (d : Nat) (r : EvRec) : (s.post d r).elPushAt = s.elPushAt := rfl
@[simp] theorem post_elPushes (s : State) (d : Nat) (r : EvRec) : (s.post d r).elPushes = s.elPushes := rfl
@[simp] theorem post_elHwm (s : State) (d : Nat) (r : EvRec) : (s.post d r).elHwm = s.elHwm := rfl
@[simp] theorem post_elLost (s : State) (d : Nat) (r : EvRec) : (s.post d r).elLost = s.elLost := rfl
@[simp] theorem post_elW (s : State) (d : Nat) (r : EvRec) : (s.post d r).elW = s.elW := rfl
@[simp] theorem post_cfHalt (s : State) (d : Nat) (r : EvRec) : (s.post d r).cfHalt = s.cfHalt := rfl
@[simp] theorem post_dbgEn (s : State) (d : Nat) (r : EvRec) : (s.post d r).dbgEn = s.dbgEn := rfl
@[simp] theorem post_dbgHalt (s : State) (d : Nat) (r : EvRec) : (s.post d r).dbgHalt = s.dbgHalt := rfl
@[simp] theorem post_evdie (s : State) (d : Nat) (r : EvRec) : (s.post d r).evdie = s.evdie := rfl
@[simp] theorem post_gate (s : State) (d : Nat) (r : EvRec) : (s.post d r).gate = s.gate := rfl
@[simp] theorem post_wdog (s : State) (d : Nat) (r : EvRec) : (s.post d r).wdog = s.wdog := rfl
@[simp] theorem post_launchNext (s : State) (d : Nat) (r : EvRec) : (s.post d r).launchNext = s.launchNext := rfl
@[simp] theorem post_launches (s : State) (d : Nat) (r : EvRec) : (s.post d r).launches = s.launches := rfl
@[simp] theorem post_tiles (s : State) (d : Nat) (r : EvRec) : (s.post d r).tiles = s.tiles := rfl
@[simp] theorem post_barriers (s : State) (d : Nat) (r : EvRec) : (s.post d r).barriers = s.barriers := rfl
@[simp] theorem post_step_ (s : State) (d : Nat) (r : EvRec) : (s.post d r).step_ = s.step_ := rfl
@[simp] theorem post_ramp (s : State) (d : Nat) (r : EvRec) : (s.post d r).ramp = s.ramp := rfl
@[simp] theorem post_clk (s : State) (d : Nat) (r : EvRec) : (s.post d r).clk = s.clk := rfl
@[simp] theorem post_hbm (s : State) (d : Nat) (r : EvRec) : (s.post d r).hbm = s.hbm := rfl
@[simp] theorem post_planes (s : State) (d : Nat) (r : EvRec) : (s.post d r).planes = s.planes := rfl
@[simp] theorem post_fab (s : State) (d : Nat) (r : EvRec) : (s.post d r).fab = s.fab := rfl
@[simp] theorem post_pt (s : State) (d : Nat) (r : EvRec) : (s.post d r).pt = s.pt := rfl
@[simp] theorem post_mg (s : State) (d : Nat) (r : EvRec) : (s.post d r).mg = s.mg := rfl
@[simp] theorem post_thHbm (s : State) (d : Nat) (r : EvRec) : (s.post d r).thHbm = s.thHbm := rfl
@[simp] theorem post_thVert (s : State) (d : Nat) (r : EvRec) : (s.post d r).thVert = s.thVert := rfl
@[simp] theorem post_thCore (s : State) (d : Nat) (r : EvRec) : (s.post d r).thCore = s.thCore := rfl
@[simp] theorem post_srcStack (s : State) (d : Nat) (r : EvRec) : (s.post d r).srcStack = s.srcStack := rfl
@[simp] theorem post_srcCore (s : State) (d : Nat) (r : EvRec) : (s.post d r).srcCore = s.srcCore := rfl
@[simp] theorem post_srcStackAt (s : State) (d : Nat) (r : EvRec) : (s.post d r).srcStackAt = s.srcStackAt := rfl
@[simp] theorem post_srcCoreAt (s : State) (d : Nat) (r : EvRec) : (s.post d r).srcCoreAt = s.srcCoreAt := rfl
@[simp] theorem post_timeBase (s : State) (d : Nat) (r : EvRec) : (s.post d r).timeBase = s.timeBase := rfl
@[simp] theorem post_cycleBase (s : State) (d : Nat) (r : EvRec) : (s.post d r).cycleBase = s.cycleBase := rfl
@[simp] theorem post_timeRem (s : State) (d : Nat) (r : EvRec) : (s.post d r).timeRem = s.timeRem := rfl

/-! ### modLaunch -/

@[simp] theorem modLaunch_agenda (s : State) (n : Nat) (f : Launch → Launch) : (s.modLaunch n f).agenda = s.agenda := rfl
@[simp] theorem modLaunch_cur (s : State) (n : Nat) (f : Launch → Launch) : (s.modLaunch n f).cur = s.cur := rfl
@[simp] theorem modLaunch_res (s : State) (n : Nat) (f : Launch → Launch) : (s.modLaunch n f).res = s.res := rfl
@[simp] theorem modLaunch_latched (s : State) (n : Nat) (f : Launch → Launch) : (s.modLaunch n f).latched = s.latched := rfl
@[simp] theorem modLaunch_refuse (s : State) (n : Nat) (f : Launch → Launch) : (s.modLaunch n f).refuse = s.refuse := rfl
@[simp] theorem modLaunch_fresh (s : State) (n : Nat) (f : Launch → Launch) : (s.modLaunch n f).fresh = s.fresh := rfl
@[simp] theorem modLaunch_cycle (s : State) (n : Nat) (f : Launch → Launch) : (s.modLaunch n f).cycle = s.cycle := rfl
@[simp] theorem modLaunch_chipid (s : State) (n : Nat) (f : Launch → Launch) : (s.modLaunch n f).chipid = s.chipid := rfl
@[simp] theorem modLaunch_agents (s : State) (n : Nat) (f : Launch → Launch) : (s.modLaunch n f).agents = s.agents := rfl
@[simp] theorem modLaunch_cores (s : State) (n : Nat) (f : Launch → Launch) : (s.modLaunch n f).cores = s.cores := rfl
@[simp] theorem modLaunch_dies (s : State) (n : Nat) (f : Launch → Launch) : (s.modLaunch n f).dies = s.dies := rfl
@[simp] theorem modLaunch_mem (s : State) (n : Nat) (f : Launch → Launch) : (s.modLaunch n f).mem = s.mem := rfl
@[simp] theorem modLaunch_poison (s : State) (n : Nat) (f : Launch → Launch) : (s.modLaunch n f).poison = s.poison := rfl
@[simp] theorem modLaunch_ctxroot (s : State) (n : Nat) (f : Launch → Launch) : (s.modLaunch n f).ctxroot = s.ctxroot := rfl
@[simp] theorem modLaunch_regsets (s : State) (n : Nat) (f : Launch → Launch) : (s.modLaunch n f).regsets = s.regsets := rfl
@[simp] theorem modLaunch_shoot (s : State) (n : Nat) (f : Launch → Launch) : (s.modLaunch n f).shoot = s.shoot := rfl
@[simp] theorem modLaunch_nextId (s : State) (n : Nat) (f : Launch → Launch) : (s.modLaunch n f).nextId = s.nextId := rfl
@[simp] theorem modLaunch_alertStatus (s : State) (n : Nat) (f : Launch → Launch) : (s.modLaunch n f).alertStatus = s.alertStatus := rfl
@[simp] theorem modLaunch_alertMask (s : State) (n : Nat) (f : Launch → Launch) : (s.modLaunch n f).alertMask = s.alertMask := rfl
@[simp] theorem modLaunch_alertFresh (s : State) (n : Nat) (f : Launch → Launch) : (s.modLaunch n f).alertFresh = s.alertFresh := rfl
@[simp] theorem modLaunch_alertAt (s : State) (n : Nat) (f : Launch → Launch) : (s.modLaunch n f).alertAt = s.alertAt := rfl
@[simp] theorem modLaunch_sideMsg (s : State) (n : Nat) (f : Launch → Launch) : (s.modLaunch n f).sideMsg = s.sideMsg := rfl
@[simp] theorem modLaunch_elRing (s : State) (n : Nat) (f : Launch → Launch) : (s.modLaunch n f).elRing = s.elRing := rfl
@[simp] theorem modLaunch_elHead (s : State) (n : Nat) (f : Launch → Launch) : (s.modLaunch n f).elHead = s.elHead := rfl
@[simp] theorem modLaunch_elTail (s : State) (n : Nat) (f : Launch → Launch) : (s.modLaunch n f).elTail = s.elTail := rfl
@[simp] theorem modLaunch_elPushAt (s : State) (n : Nat) (f : Launch → Launch) : (s.modLaunch n f).elPushAt = s.elPushAt := rfl
@[simp] theorem modLaunch_elPushes (s : State) (n : Nat) (f : Launch → Launch) : (s.modLaunch n f).elPushes = s.elPushes := rfl
@[simp] theorem modLaunch_elHwm (s : State) (n : Nat) (f : Launch → Launch) : (s.modLaunch n f).elHwm = s.elHwm := rfl
@[simp] theorem modLaunch_elLost (s : State) (n : Nat) (f : Launch → Launch) : (s.modLaunch n f).elLost = s.elLost := rfl
@[simp] theorem modLaunch_elW (s : State) (n : Nat) (f : Launch → Launch) : (s.modLaunch n f).elW = s.elW := rfl
@[simp] theorem modLaunch_cfHalt (s : State) (n : Nat) (f : Launch → Launch) : (s.modLaunch n f).cfHalt = s.cfHalt := rfl
@[simp] theorem modLaunch_dbgEn (s : State) (n : Nat) (f : Launch → Launch) : (s.modLaunch n f).dbgEn = s.dbgEn := rfl
@[simp] theorem modLaunch_dbgHalt (s : State) (n : Nat) (f : Launch → Launch) : (s.modLaunch n f).dbgHalt = s.dbgHalt := rfl
@[simp] theorem modLaunch_evdie (s : State) (n : Nat) (f : Launch → Launch) : (s.modLaunch n f).evdie = s.evdie := rfl
@[simp] theorem modLaunch_gate (s : State) (n : Nat) (f : Launch → Launch) : (s.modLaunch n f).gate = s.gate := rfl
@[simp] theorem modLaunch_wdog (s : State) (n : Nat) (f : Launch → Launch) : (s.modLaunch n f).wdog = s.wdog := rfl
@[simp] theorem modLaunch_launchNext (s : State) (n : Nat) (f : Launch → Launch) : (s.modLaunch n f).launchNext = s.launchNext := rfl
@[simp] theorem modLaunch_tiles (s : State) (n : Nat) (f : Launch → Launch) : (s.modLaunch n f).tiles = s.tiles := rfl
@[simp] theorem modLaunch_barriers (s : State) (n : Nat) (f : Launch → Launch) : (s.modLaunch n f).barriers = s.barriers := rfl
@[simp] theorem modLaunch_step_ (s : State) (n : Nat) (f : Launch → Launch) : (s.modLaunch n f).step_ = s.step_ := rfl
@[simp] theorem modLaunch_ramp (s : State) (n : Nat) (f : Launch → Launch) : (s.modLaunch n f).ramp = s.ramp := rfl
@[simp] theorem modLaunch_clk (s : State) (n : Nat) (f : Launch → Launch) : (s.modLaunch n f).clk = s.clk := rfl
@[simp] theorem modLaunch_hbm (s : State) (n : Nat) (f : Launch → Launch) : (s.modLaunch n f).hbm = s.hbm := rfl
@[simp] theorem modLaunch_planes (s : State) (n : Nat) (f : Launch → Launch) : (s.modLaunch n f).planes = s.planes := rfl
@[simp] theorem modLaunch_fab (s : State) (n : Nat) (f : Launch → Launch) : (s.modLaunch n f).fab = s.fab := rfl
@[simp] theorem modLaunch_pt (s : State) (n : Nat) (f : Launch → Launch) : (s.modLaunch n f).pt = s.pt := rfl
@[simp] theorem modLaunch_mg (s : State) (n : Nat) (f : Launch → Launch) : (s.modLaunch n f).mg = s.mg := rfl
@[simp] theorem modLaunch_thHbm (s : State) (n : Nat) (f : Launch → Launch) : (s.modLaunch n f).thHbm = s.thHbm := rfl
@[simp] theorem modLaunch_thVert (s : State) (n : Nat) (f : Launch → Launch) : (s.modLaunch n f).thVert = s.thVert := rfl
@[simp] theorem modLaunch_thCore (s : State) (n : Nat) (f : Launch → Launch) : (s.modLaunch n f).thCore = s.thCore := rfl
@[simp] theorem modLaunch_srcStack (s : State) (n : Nat) (f : Launch → Launch) : (s.modLaunch n f).srcStack = s.srcStack := rfl
@[simp] theorem modLaunch_srcCore (s : State) (n : Nat) (f : Launch → Launch) : (s.modLaunch n f).srcCore = s.srcCore := rfl
@[simp] theorem modLaunch_srcStackAt (s : State) (n : Nat) (f : Launch → Launch) : (s.modLaunch n f).srcStackAt = s.srcStackAt := rfl
@[simp] theorem modLaunch_srcCoreAt (s : State) (n : Nat) (f : Launch → Launch) : (s.modLaunch n f).srcCoreAt = s.srcCoreAt := rfl
@[simp] theorem modLaunch_timeBase (s : State) (n : Nat) (f : Launch → Launch) : (s.modLaunch n f).timeBase = s.timeBase := rfl
@[simp] theorem modLaunch_cycleBase (s : State) (n : Nat) (f : Launch → Launch) : (s.modLaunch n f).cycleBase = s.cycleBase := rfl
@[simp] theorem modLaunch_timeRem (s : State) (n : Nat) (f : Launch → Launch) : (s.modLaunch n f).timeRem = s.timeRem := rfl

/-! ### Through the accessors -/

@[simp] theorem core_of_setAgent (s : State) (n : Nat) (a : Agent) (m : Nat) : (s.setAgent n a).core m = s.core m := rfl
@[simp] theorem die_of_setAgent (s : State) (n : Nat) (a : Agent) (m : Nat) : (s.setAgent n a).die m = s.die m := rfl
@[simp] theorem myCore_of_setAgent (s : State) (n : Nat) (a : Agent) : (s.setAgent n a).myCore = s.myCore := rfl
@[simp] theorem core_of_setMe (s : State) (a : Agent) (m : Nat) : (s.setMe a).core m = s.core m := rfl
@[simp] theorem die_of_setMe (s : State) (a : Agent) (m : Nat) : (s.setMe a).die m = s.die m := rfl
@[simp] theorem myCore_of_setMe (s : State) (a : Agent) : (s.setMe a).myCore = s.myCore := rfl
@[simp] theorem core_of_modMe (s : State) (f : Agent → Agent) (m : Nat) : (s.modMe f).core m = s.core m := rfl
@[simp] theorem die_of_modMe (s : State) (f : Agent → Agent) (m : Nat) : (s.modMe f).die m = s.die m := rfl
@[simp] theorem myCore_of_modMe (s : State) (f : Agent → Agent) : (s.modMe f).myCore = s.myCore := rfl
@[simp] theorem core_of_modAgent (s : State) (n : Nat) (f : Agent → Agent) (m : Nat) : (s.modAgent n f).core m = s.core m := rfl
@[simp] theorem die_of_modAgent (s : State) (n : Nat) (f : Agent → Agent) (m : Nat) : (s.modAgent n f).die m = s.die m := rfl
@[simp] theorem myCore_of_modAgent (s : State) (n : Nat) (f : Agent → Agent) : (s.modAgent n f).myCore = s.myCore := rfl
@[simp] theorem core_of_modRegs (s : State) (n : Nat) (f : Regs → Regs) (m : Nat) : (s.modRegs n f).core m = s.core m := rfl
@[simp] theorem die_of_modRegs (s : State) (n : Nat) (f : Regs → Regs) (m : Nat) : (s.modRegs n f).die m = s.die m := rfl
@[simp] theorem myCore_of_modRegs (s : State) (n : Nat) (f : Regs → Regs) : (s.modRegs n f).myCore = s.myCore := rfl
@[simp] theorem agent_of_setCore (s : State) (n : Nat) (k : Core) (m : Nat) : (s.setCore n k).agent m = s.agent m := rfl
@[simp] theorem die_of_setCore (s : State) (n : Nat) (k : Core) (m : Nat) : (s.setCore n k).die m = s.die m := rfl
@[simp] theorem me_of_setCore (s : State) (n : Nat) (k : Core) : (s.setCore n k).me = s.me := rfl
@[simp] theorem agent_of_modCore (s : State) (f : Core → Core) (m : Nat) : (s.modCore f).agent m = s.agent m := rfl
@[simp] theorem die_of_modCore (s : State) (f : Core → Core) (m : Nat) : (s.modCore f).die m = s.die m := rfl
@[simp] theorem me_of_modCore (s : State) (f : Core → Core) : (s.modCore f).me = s.me := rfl
@[simp] theorem agent_of_modCoreAt (s : State) (n : Nat) (f : Core → Core) (m : Nat) : (s.modCoreAt n f).agent m = s.agent m := rfl
@[simp] theorem die_of_modCoreAt (s : State) (n : Nat) (f : Core → Core) (m : Nat) : (s.modCoreAt n f).die m = s.die m := rfl
@[simp] theorem me_of_modCoreAt (s : State) (n : Nat) (f : Core → Core) : (s.modCoreAt n f).me = s.me := rfl
@[simp] theorem agent_of_setDie (s : State) (d : Nat) (x : Die) (m : Nat) : (s.setDie d x).agent m = s.agent m := rfl
@[simp] theorem core_of_setDie (s : State) (d : Nat) (x : Die) (m : Nat) : (s.setDie d x).core m = s.core m := rfl
@[simp] theorem me_of_setDie (s : State) (d : Nat) (x : Die) : (s.setDie d x).me = s.me := rfl
@[simp] theorem myCore_of_setDie (s : State) (d : Nat) (x : Die) : (s.setDie d x).myCore = s.myCore := rfl
@[simp] theorem agent_of_modDie (s : State) (d : Nat) (f : Die → Die) (m : Nat) : (s.modDie d f).agent m = s.agent m := rfl
@[simp] theorem core_of_modDie (s : State) (d : Nat) (f : Die → Die) (m : Nat) : (s.modDie d f).core m = s.core m := rfl
@[simp] theorem me_of_modDie (s : State) (d : Nat) (f : Die → Die) : (s.modDie d f).me = s.me := rfl
@[simp] theorem myCore_of_modDie (s : State) (d : Nat) (f : Die → Die) : (s.modDie d f).myCore = s.myCore := rfl
@[simp] theorem agent_of_post (s : State) (d : Nat) (r : EvRec) (m : Nat) : (s.post d r).agent m = s.agent m := rfl
@[simp] theorem core_of_post (s : State) (d : Nat) (r : EvRec) (m : Nat) : (s.post d r).core m = s.core m := rfl
@[simp] theorem me_of_post (s : State) (d : Nat) (r : EvRec) : (s.post d r).me = s.me := rfl
@[simp] theorem myCore_of_post (s : State) (d : Nat) (r : EvRec) : (s.post d r).myCore = s.myCore := rfl
@[simp] theorem agent_of_modLaunch (s : State) (n : Nat) (f : Launch → Launch) (m : Nat) : (s.modLaunch n f).agent m = s.agent m := rfl
@[simp] theorem core_of_modLaunch (s : State) (n : Nat) (f : Launch → Launch) (m : Nat) : (s.modLaunch n f).core m = s.core m := rfl
@[simp] theorem die_of_modLaunch (s : State) (n : Nat) (f : Launch → Launch) (m : Nat) : (s.modLaunch n f).die m = s.die m := rfl
@[simp] theorem me_of_modLaunch (s : State) (n : Nat) (f : Launch → Launch) : (s.modLaunch n f).me = s.me := rfl
@[simp] theorem myCore_of_modLaunch (s : State) (n : Nat) (f : Launch → Launch) : (s.modLaunch n f).myCore = s.myCore := rfl

end Sys2Proof.Machine
end

