-- ==== Sys2Proof/Laws/Memory.lean ====
section
/-! SUPPORT. Bytes and memory: little-endian words, what a store leaves of each byte, and that every store keeps memory in its canonical
form. -/

namespace Sys2Proof.Machine

/-! ### Little-endian bytes -/

@[simp] theorem toBytes_length (x n : Nat) : (toBytes x n).length = n := by
  induction n generalizing x with
  | zero => rfl
  | succ n ih => simp [toBytes, ih]

theorem ofBytes_toBytes (x n : Nat) : ofBytes (toBytes x n) = x % 256 ^ n := by
  induction n generalizing x with
  | zero => simp [toBytes, ofBytes, Nat.mod_one]
  | succ n ih =>
    simp only [toBytes, ofBytes, ih, BitVec.toNat_ofNat]
    have h : x % 2 ^ 8 + 256 * (x / 256 % 256 ^ n) = x % (256 * 256 ^ n) := (Nat.mod_mul).symm
    rw [h, Nat.pow_succ, Nat.mul_comm]

theorem ofBytes_lt (bs : List Byte) : ofBytes bs < 256 ^ bs.length := by
  induction bs with
  | nil => simp [ofBytes]
  | cons b r ih =>
    simp only [ofBytes, List.length_cons, Nat.pow_succ]
    have := b.isLt
    omega

theorem toBytes_ofBytes (bs : List Byte) : toBytes (ofBytes bs) bs.length = bs := by
  induction bs with
  | nil => rfl
  | cons b r ih =>
    have h1 : BitVec.ofNat 8 (b.toNat + 256 * ofBytes r) = b := by
      apply BitVec.eq_of_toNat_eq; have := b.isLt; simp [BitVec.toNat_ofNat]; omega
    have h2 : (b.toNat + 256 * ofBytes r) / 256 = ofBytes r := by have := b.isLt; omega
    simp [ofBytes, toBytes, h1, h2, ih]

@[simp] theorem bytesAt_length (m : SMap Byte) (a n : Nat) : (bytesAt m a n).length = n := by
  induction n generalizing a with
  | zero => rfl
  | succ n ih => simp [bytesAt, ih]

@[simp] theorem physBytes_length (s : State) (a n : Nat) : (s.physBytes a n).length = n := by
  induction n generalizing a with
  | zero => rfl
  | succ n ih => simp [State.physBytes, ih]

/-! ### Sparse bytes -/

theorem putBytes_get (m : SMap Byte) (a : Nat) (bs : List Byte) (x : Nat) :
    SMap.get 0 (putBytes m a bs) x = if a ≤ x ∧ x < a + bs.length then bs.getD (x - a) 0 else SMap.get 0 m x := by
  induction bs generalizing m a with
  | nil => simp [putBytes, show ¬ (a ≤ x ∧ x < a) by omega]
  | cons b r ih =>
    rw [putBytes, ih, SMap.get_set]
    by_cases h : x = a
    · subst h; simp
    · by_cases h2 : a ≤ x ∧ x < a + (b :: r).length
      · obtain ⟨h3, h4⟩ := h2
        simp only [List.length_cons] at h4
        have h5 : x - a = (x - (a + 1)) + 1 := by omega
        rw [if_pos (by omega), if_pos (by simp only [List.length_cons]; omega), h5]; rfl
      · rw [if_neg (by simp only [List.length_cons] at h2; omega), if_neg h, if_neg h2]

theorem bytesAt_congr (m k : SMap Byte) (a n : Nat) (h : ∀ x, a ≤ x → x < a + n → SMap.get 0 m x = SMap.get 0 k x) :
    bytesAt m a n = bytesAt k a n := by
  induction n generalizing a with
  | zero => rfl
  | succ n ih => rw [bytesAt, bytesAt, h a (by omega) (by omega), ih (a + 1) fun x h1 h2 => h x (by omega) (by omega)]

theorem bytesAt_getD (m : SMap Byte) (a n k : Nat) (hk : k < n) : (bytesAt m a n).getD k 0 = SMap.get 0 m (a + k) := by
  induction n generalizing a k with
  | zero => omega
  | succ n ih =>
    cases k with
    | zero => rfl
    | succ k => rw [bytesAt, List.getD_cons_succ, ih (a + 1) k (by omega)]; congr 1; omega

/-- What has been put is read back. -/
theorem bytesAt_putBytes (m : SMap Byte) (a : Nat) (bs : List Byte) : bytesAt (putBytes m a bs) a bs.length = bs := by
  apply List.ext_getElem (by simp)
  intro k h1 h2
  have := bytesAt_getD (putBytes m a bs) a bs.length k h2
  rw [putBytes_get, if_pos (by omega), Nat.add_sub_cancel_left] at this
  simpa [List.getD_eq_getElem?_getD, h2] using this

theorem putBytes_wf (m : SMap Byte) (a : Nat) (bs : List Byte) (h : SMap.wf 0 m = true) : SMap.wf 0 (putBytes m a bs) = true := by
  induction bs generalizing m a with
  | nil => exact h
  | cons b r ih => exact ih _ _ (SMap.wf_set _ _ _ _ h)

/-! ### Places -/

theorem placeOf_hbm {pa : Nat} (h : pa < 0x8000000000) : placeOf pa = .hbm := by simp [placeOf, hbmEnd, h]

/-- A place whose bytes stand in the state's memory lies outside the windows. -/
theorem placeOf_window {pa c o : Nat} (h : placeOf pa = .window c o) : hbmEnd ≤ pa ∧ pa < hbmEnd + 96 * 0x200000 := by
  unfold placeOf at h
  split at h
  · cases h
  · split at h
    · constructor <;> omega
    · split at h
      · cases h
      · split at h
        · cases h
        · split at h <;> cases h

/-! ### One byte -/

theorem putByte_byteAt (s : State) (pa : Nat) (b : Byte) (x : Nat) (h : x ≠ pa) : (s.putByte pa b).byteAt x = s.byteAt x := by
  unfold State.putByte
  split
  · exact SMap.get_set_ne _ _ _ _ _ h
  · exact SMap.get_set_ne _ _ _ _ _ h
  all_goals rfl

theorem putByte_wf (s : State) (pa : Nat) (b : Byte) (h : Memory.wf s.mem = true) : Memory.wf (s.putByte pa b).mem = true := by
  unfold State.putByte
  split
  · exact SMap.wf_set _ _ _ _ h
  · exact SMap.wf_set _ _ _ _ h
  all_goals exact h

/-- A byte put by physical address changes memory or one scratchpad and nothing else. -/
theorem putByte_only (s : State) (pa : Nat) (b : Byte) :
    s.putByte pa b = { s with mem := (s.putByte pa b).mem, cores := (s.putByte pa b).cores } := by
  unfold State.putByte
  split <;> rfl

/-! ### Several bytes -/

/-- Two changes of memory and scratchpads in turn are one. -/
theorem only_trans {s u t : State} (h1 : u = { s with mem := u.mem, cores := u.cores })
    (h2 : t = { u with mem := t.mem, cores := t.cores }) : t = { s with mem := t.mem, cores := t.cores } :=
  h2.trans (by rw [h1])

theorem putBytes_only (s : State) (pa : Nat) (bs : List Byte) :
    s.putBytes pa bs = { s with mem := (s.putBytes pa bs).mem, cores := (s.putBytes pa bs).cores } := by
  induction bs generalizing s pa with
  | nil => rfl
  | cons b r ih =>
    have h1 := putByte_only s pa b
    have h2 := ih (s.putByte pa b) (pa + 1)
    exact only_trans h1 h2

theorem putBytes_mem_wf (s : State) (pa : Nat) (bs : List Byte) (h : Memory.wf s.mem = true) :
    Memory.wf (s.putBytes pa bs).mem = true := by
  induction bs generalizing s pa with
  | nil => exact h
  | cons b r ih => exact ih _ _ (putByte_wf _ _ _ h)

theorem putBytes_byteAt_out (s : State) (pa : Nat) (bs : List Byte) (x : Nat) (h : x < pa ∨ pa + bs.length ≤ x) :
    (s.putBytes pa bs).byteAt x = s.byteAt x := by
  induction bs generalizing s pa with
  | nil => rfl
  | cons b r ih =>
    simp only [List.length_cons] at h
    exact (ih (s.putByte pa b) (pa + 1) (by omega)).trans (putByte_byteAt s pa b x (by omega))

/-- A store that lies in HBM puts its bytes into memory. -/
theorem putBytes_hbm (s : State) (pa : Nat) (bs : List Byte) (h : pa + bs.length ≤ 0x8000000000) :
    s.putBytes pa bs = { s with mem := putBytes s.mem pa bs } := by
  induction bs generalizing s pa with
  | nil => rfl
  | cons b r ih =>
    simp only [List.length_cons] at h
    show (s.putByte pa b).putBytes (pa + 1) r = _
    rw [ih _ _ (by omega), State.putByte, placeOf_hbm (by omega)]; rfl

/-! ### A store at its home -/

/-- What a store does beside its bytes touches the dies' migration tracking and suspended waits alone. -/
theorem noteStore_only (s : State) (pa n : Nat) : s.noteStore pa n = { s with dies := (s.noteStore pa n).dies } := by
  unfold State.noteStore
  generalize List.range 4 = l
  induction l generalizing s with
  | nil => rfl
  | cons d r ih =>
    simp only [List.foldl_cons]
    rw [ih]
    split <;> rfl

@[simp] theorem noteStore_mem (s : State) (pa n : Nat) : (s.noteStore pa n).mem = s.mem := by rw [noteStore_only]

/-- What a store mends touches the cores alone. -/
theorem mendAt_only (s : State) (pa n : Nat) : s.mendAt pa n = { s with cores := (s.mendAt pa n).cores } := by
  unfold State.mendAt
  split
  · split <;> rfl
  all_goals rfl

theorem physWrite_only (s : State) (pa : Nat) (bs : List Byte) :
    s.physWrite pa bs =
      { s with mem := (s.putBytes pa bs).mem, cores := (s.physWrite pa bs).cores, dies := (s.physWrite pa bs).dies
               poison := (s.physWrite pa bs).poison } := by
  have h : ∃ c d p, s.physWrite pa bs = { s with mem := (s.putBytes pa bs).mem, cores := c, dies := d, poison := p } := by
    unfold State.physWrite
    generalize hb : s.putBytes pa bs = b
    have e := putBytes_only s pa bs
    rw [hb] at e
    rw [noteStore_only, mendAt_only]
    generalize (b.mendAt pa bs.length).cores = c
    generalize (({ b with cores := c } : State).noteStore pa bs.length).dies = d
    cases (bs.length = 128 && pa % 128 = 0 : Bool) with
    | false => exact ⟨c, d, b.poison, by rw [e]; rfl⟩
    | true => exact ⟨c, d, b.poison.filter (· ≠ pa / 128), by rw [e]; rfl⟩
  obtain ⟨c, d, p, h⟩ := h
  rw [h]

theorem physWrite_mem (s : State) (pa : Nat) (bs : List Byte) : (s.physWrite pa bs).mem = (s.putBytes pa bs).mem := by
  rw [physWrite_only]

/-- A store keeps memory in its canonical form. -/
theorem physWrite_wf (s : State) (pa : Nat) (bs : List Byte) (h : Memory.wf s.mem = true) : Memory.wf (s.physWrite pa bs).mem = true := by
  rw [physWrite_mem]; exact putBytes_mem_wf s pa bs h

/-- A store leaves every byte of memory outside its own. -/
theorem physWrite_byteAt_out (s : State) (pa : Nat) (bs : List Byte) (x : Nat) (h : x < pa ∨ pa + bs.length ≤ x) :
    (s.physWrite pa bs).byteAt x = s.byteAt x := by
  show SMap.get 0 (s.physWrite pa bs).mem x = _
  rw [physWrite_mem]; exact putBytes_byteAt_out s pa bs x h

theorem physWrite_hbm_mem (s : State) (pa : Nat) (bs : List Byte) (h : pa + bs.length ≤ 0x8000000000) :
    (s.physWrite pa bs).mem = putBytes s.mem pa bs := by
  rw [physWrite_mem, putBytes_hbm s pa bs h]

/-- Bytes of HBM are those of memory. -/
theorem physBytes_hbm (s : State) (a n : Nat) (h : a + n ≤ 0x8000000000) : s.physBytes a n = bytesAt s.mem a n := by
  induction n generalizing a with
  | zero => rfl
  | succ n ih => rw [State.physBytes, bytesAt, ih (a + 1) (by omega), State.physByte, placeOf_hbm (by omega)]

/-- What has been stored in HBM is read back. -/
theorem physBytes_physWrite (s : State) (pa : Nat) (bs : List Byte) (h : pa + bs.length ≤ 0x8000000000) :
    (s.physWrite pa bs).physBytes pa bs.length = bs := by
  rw [physBytes_hbm _ _ _ h, physWrite_hbm_mem s pa bs h, bytesAt_putBytes]

theorem reset_mem_wf : Memory.wf State.reset.mem = true := rfl

end Sys2Proof.Machine
end

