-- ==== Sys2Proof/Laws/Ops.lean ====
section
/-! SUPPORT. What the shared operations come to: issuing an instruction, and reading and writing agents, cores and registers. -/

namespace Sys2Proof.Machine

open Host (Outcome)

/-! ### Agents and cores -/

@[simp] theorem setAgent_agent (s : State) (n m : Nat) (a : Agent) : (s.setAgent n a).agent m = if m = n then a else s.agent m :=
  SMap.get_set ..
@[simp] theorem setCore_core (s : State) (n m : Nat) (k : Core) : (s.setCore n k).core m = if m = n then k else s.core m :=
  SMap.get_set ..
@[simp] theorem setDie_die (s : State) (n m : Nat) (x : Die) : (s.setDie n x).die m = if m = n then x else s.die m :=
  SMap.get_set ..
theorem me_eq (s : State) : s.me = s.agent s.cur := rfl
theorem myCore_eq (s : State) : s.myCore = s.core s.cur := rfl
@[simp] theorem setMe_me (s : State) (a : Agent) : (s.setMe a).me = a := by
  show (s.setAgent s.cur a).agent s.cur = a
  simp
@[simp] theorem modMe_me (s : State) (f : Agent → Agent) : (s.modMe f).me = f s.me := setMe_me ..

/-! ### Registers -/

@[simp] theorem rs_zero (g : Regs) : g.rs 0 = 0 := rfl
@[simp] theorem rp_zero (g : Regs) : g.rp 0 = Pred.ones := rfl

/-- A write leaves the register full, and no other register's empty bit changes. -/
theorem write_isEmpty (g : Regs) (r q : RegId) (x : RegVal) :
    (g.write r x).isEmpty q = (g.isEmpty q && !(decide (q = r))) := by
  unfold Regs.write
  by_cases hw : r.wired
  · simp only [hw, if_true, Regs.isEmpty]
    by_cases hq : q = r
    · subst hq; simp [hw]
    · simp [hq]
  · have key : (g.empty.filter (· ≠ r)).contains q = (g.empty.contains q && !(decide (q = r))) := by
      simp [List.contains_eq_mem, Bool.decide_and]
    simp only [hw, Bool.false_eq_true, if_false]
    cases r <;> cases x <;> simp_all [Regs.isEmpty, Bool.and_assoc]

/-- Marking a register empty. -/
theorem mark_isEmpty (g : Regs) (r q : RegId) :
    (g.mark r).isEmpty q = (g.isEmpty q || (!r.wired && decide (q = r))) := by
  unfold Regs.mark
  by_cases hw : r.wired
  · simp [hw]
  · by_cases he : g.empty.contains r
    · simp only [he, Bool.or_true, if_true, Regs.isEmpty]
      by_cases hq : q = r
      · subst hq; simp_all
      · simp [hq]
    · simp only [hw, he, Bool.or_self, Bool.false_eq_true, if_false, Regs.isEmpty]
      by_cases hq : q = r
      · subst hq; simp [hw]
      · simp [hq]

/-! ### Issuing -/

theorem guardTerm_bit (g : Regs) (r : BitVec 4) (neg : Bool) (k : Nat) (hk : k < 256) :
    (guardTerm g r neg).getLsbD k = ((g.rp r.toNat).bits.getLsbD k != neg) := by
  cases neg <;> simp [guardTerm, hk]

theorem guardBits_bit (g : Regs) (c : Ctl) (k : Nat) (hk : k < 256) :
    (guardBits g c).getLsbD k =
      (((g.rp c.g1.toNat).bits.getLsbD k != c.g1n) && ((g.rp c.g2.toNat).bits.getLsbD k != c.g2n)) := by
  simp only [guardBits, BitVec.getLsbD_and, guardTerm_bit _ _ _ _ hk]

theorem guardOn_iff (s : State) (c : Ctl) : s.GuardOn c ↔ (guardBits s.src c).getLsbD 0 = true := by
  rw [guardBits_bit _ _ _ (by decide)]
  simp only [State.GuardOn, Bool.and_eq_true, bne_iff_ne]

theorem guardTagged_iff (s : State) (c : Ctl) : s.GuardTagged c ↔ guardUniform s.src c = true := by
  simp [State.GuardTagged, guardUniform]

theorem guardWhole_iff (s : State) (c : Ctl) : s.GuardWhole c ↔ (guardUniform s.src c || guardNever c) = true := by
  rw [Bool.or_eq_true, ← guardTagged_iff]
  simp [State.GuardWhole, guardNever]

theorem guardFull_iff (s : State) (c : Ctl) : s.GuardFull c ↔ guardEmpty s.src c = false := by
  simp [State.GuardFull, guardEmpty]

theorem full_cons (s : State) (r : RegId) (l : List RegId) : s.Full (r :: l) ↔ s.src.isEmpty r = false ∧ s.Full l := by
  simp [State.Full]

/-- With every register it names full, an instruction neither waits nor traps. -/
theorem wait_full (s : State) (c : Ctl) (f : Form) (h : s.Full (f.srcs.map (·.reg) ++ f.dsts)) :
    mustWait s.src c f = false ∧ mustTrap s.src c f = false := by
  have h1 : ∀ x ∈ f.srcs, s.src.isEmpty x.reg = false := fun x hx =>
    h x.reg (List.mem_append_left _ (List.mem_map_of_mem hx))
  have h2 : ∀ r ∈ f.dsts, s.src.isEmpty r = false := fun r hr => h r (List.mem_append_right _ hr)
  constructor
  · simp only [mustWait, Bool.or_eq_false_iff, List.any_eq_false, Bool.not_eq_true]
    exact ⟨fun x hx => by simp [h1 x hx], h2⟩
  · simp only [mustTrap, List.any_eq_false, Bool.not_eq_true]
    exact fun x hx => by simp [h1 x hx]

/-- An instruction that takes its guard from bit 0 and finds everything ready comes to its body. -/
theorem issue_ready (s : State) (c : Ctl) (f : Form) (e : Eff) (l : List RegId) (h : s.Ready c l) (hg : f.guard = .bit0)
    (ht : f.tileOnly = true → s.cur < 96) (hb : f.br = true → s.me.delay = none) (hl : ∀ r ∈ f.srcs.map (·.reg) ++ f.dsts, r ∈ l) :
    issue s c f e = e.out := by
  obtain ⟨h1, h2, h3⟩ := h
  have hw := wait_full s c f fun r hr => h3 r (hl r hr)
  have hk : (f.tileOnly && s.kind != .tile) = false := by
    cases hf : f.tileOnly
    · rfl
    · simp [State.kind, kindOf, ht hf]
  have hd : (f.br && s.me.delay.isSome) = false := by
    cases hf : f.br
    · rfl
    · simp [hb hf]
  have hs : suppressed s.src c .bit0 = false := by simp only [suppressed, (guardOn_iff s c).1 h2, Bool.not_true]
  simp [issue, issueEff, hk, hd, (guardFull_iff s c).1 h1, hg, hs, hw.1, hw.2]

/-- A transfer that finds everything ready comes to its body. -/
theorem issue_xfer (s : State) (c : Ctl) (f : Form) (e : Eff) (l : List RegId) (h : s.ReadyXfer c l) (hg : f.guard = .transfer)
    (ht : f.tileOnly = true → s.cur < 96) (hl : ∀ r ∈ f.srcs.map (·.reg) ++ f.dsts, r ∈ l) :
    issue s c f e = e.out := by
  obtain ⟨⟨⟨h1, h2, h3⟩, h4⟩, h5⟩ := h
  have hw := wait_full s c f fun r hr => h3 r (hl r hr)
  have hk : (f.tileOnly && s.kind != .tile) = false := by
    cases hf : f.tileOnly
    · rfl
    · simp [State.kind, kindOf, ht hf]
  have hs : suppressed s.src c .transfer = false := by simp only [suppressed, (guardOn_iff s c).1 h2, Bool.not_true]
  simp [issue, issueEff, hk, h4, (guardFull_iff s c).1 h1, hg, (guardTagged_iff s c).1 h5, hs, hw.1, hw.2]

/-- A per-lane instruction that is not wholly suppressed and finds everything ready comes to its body. -/
theorem issue_lanes (s : State) (c : Ctl) (f : Form) (e : Eff) (l : List RegId) (h : s.ReadyLanes c l) (hg : f.guard = .lanes)
    (hb : f.br = false) (hl : ∀ r ∈ f.srcs.map (·.reg) ++ f.dsts, r ∈ l) :
    issue s c f e = e.out := by
  obtain ⟨h0, h1, h2, h3⟩ := h
  have hw := wait_full s c f fun r hr => h3 r (hl r hr)
  have hs : suppressed s.src c .lanes = false := by
    rw [guardWhole_iff, guardOn_iff] at h2
    simp only [suppressed]
    revert h2
    cases (guardUniform s.src c || guardNever c) <;> cases (guardBits s.src c).getLsbD 0 <;> simp
  simp [issue, issueEff, State.kind, kindOf, h0, hb, (guardFull_iff s c).1 h1, hg, hs, hw.1, hw.2]

end Sys2Proof.Machine
end

