-- ==== Sys2Proof/Laws/Access.lean ====
section
/-! SUPPORT. What an access comes to: the states that translation and the checks of an access reach, and what a load, a store and an
arrival that are performed give. -/

namespace Sys2Proof.Machine

/-! ### Looking an address up -/

/-- The state in which an access ends, however it ends. -/
def Acc.state {α : Type} (r : Acc α) : State :=
  match r with
  | .ok t _ | .wait t _ | .fail t _ _ => t

/-- What translation and the checks of an access may change: the dies (their TLBs, page requests and waiting records), the micro-TLBs
and the counter of free values. -/
structure Looked (s t : State) : Prop where
  only : t = { s with dies := t.dies, cores := t.cores, fresh := t.fresh }
  core : ∀ n, t.core n = { s.core n with utlb := (t.core n).utlb }

theorem Looked.refl (s : State) : Looked s s := ⟨rfl, fun _ => rfl⟩

theorem Looked.trans {s t u : State} (h : Looked s t) (k : Looked t u) : Looked s u :=
  ⟨k.only.trans (by rw [h.only]), fun n => (k.core n).trans (by rw [h.core n])⟩

theorem Looked.mem {s t : State} (h : Looked s t) : t.mem = s.mem := by rw [h.only]
theorem Looked.agents {s t : State} (h : Looked s t) : t.agents = s.agents := by rw [h.only]
theorem Looked.agent {s t : State} (h : Looked s t) (n : Nat) : t.agent n = s.agent n := by rw [h.only]; rfl
theorem Looked.scratch {s t : State} (h : Looked s t) (n : Nat) : (t.core n).scratch = (s.core n).scratch := by rw [h.core n]

theorem looked_setDie (s : State) (d : Nat) (x : Die) : Looked s (s.setDie d x) := ⟨rfl, fun _ => rfl⟩
theorem looked_modDie (s : State) (d : Nat) (f : Die → Die) : Looked s (s.modDie d f) := looked_setDie ..
theorem looked_post (s : State) (d : Nat) (r : EvRec) : Looked s (s.post d r) := looked_modDie ..

theorem looked_postFor (s : State) (i : Issuer) (r : EvRec) : Looked s (s.postFor i r) := (looked_post ..).trans (looked_modDie ..)
theorem looked_noteLoss (s : State) (i : Issuer) (pa : Nat) : Looked s (s.noteLoss i pa) := (looked_postFor ..).trans (looked_modDie ..)

theorem looked_awaitRoom (s : State) (i : Issuer) (kind : Nat) : Looked s (s.awaitRoom i kind) := by
  unfold State.awaitRoom
  split
  · exact .refl s
  · exact looked_modDie ..

theorem looked_recordLoss (s : State) (i : Issuer) (pa : Nat) : Looked s (s.recordLoss i pa).state := by
  unfold State.recordLoss
  split
  · exact looked_noteLoss ..
  · exact looked_awaitRoom ..

/-- One access after another changes what both change. -/
theorem looked_bind {α β : Type} {s : State} {r : Acc α} {f : State → α → Acc β} (h : Looked s r.state)
    (k : ∀ t x, Looked t (f t x).state) : Looked s (r.bind f).state := by
  cases r with
  | ok t x => exact h.trans (k t x)
  | wait t p => exact h
  | fail t c x => exact h

theorem looked_cacheLeaf (s : State) (i : Issuer) (e : TlbEntry) : Looked s (s.cacheLeaf i e) := by
  unfold State.cacheLeaf
  split
  · refine ⟨rfl, fun n => ?_⟩
    simp only [State.modCoreAt, setCore_core]
    split
    · subst_vars; rfl
    · rfl
  · exact looked_modDie ..

theorem looked_pageRequest (s : State) (i : Issuer) (ctx va : Nat) (k : AccKind) : Looked s (s.pageRequest i ctx va k) := by
  unfold State.pageRequest
  simp only
  split
  · exact .refl s
  · exact (looked_setDie ..).trans (looked_post ..)

theorem looked_fresh (s : State) (n : Nat) : Looked s { s with fresh := n } := ⟨rfl, fun _ => rfl⟩

theorem looked_noteWalk (s : State) (i : Issuer) (ctx : Nat) (r : WalkRes) : Looked s (s.noteWalk i ctx r) := by
  unfold State.noteWalk
  split
  · exact .refl s
  · exact .refl s
  · exact .refl s
  · exact looked_postFor ..
  · exact looked_noteLoss ..

theorem looked_walked (s : State) (i : Issuer) (ctx va : Nat) : Looked s (s.walked i ctx va).1 := looked_noteWalk ..

/-- A translation changes nothing but what it looks up with. -/
theorem looked_translate (s : State) (i : Issuer) (ctx va : Nat) : Looked s (s.translate i ctx va).1 := by
  have hw := looked_walked s i ctx va
  unfold State.translate
  simp only
  split
  · split
    · exact hw
    · split
      · exact looked_fresh ..
      · exact hw.trans (looked_fresh ..)
  · exact hw

/-! ### An access -/

/-- The checks of an access at its frame record an uncorrectable error, and change nothing else. -/
theorem looked_atHome (s : State) (i : Issuer) (k : AccKind) (a n pa attr : Nat) : Looked s (s.atHome i k a n pa attr).state := by
  unfold State.atHome
  repeat' split
  all_goals first | exact .refl s | exact looked_bind (looked_recordLoss ..) fun t _ => .refl t

/-- The checks of an access change nothing but what they look up with. -/
theorem looked_reach (s : State) (i : Issuer) (k : AccKind) (a n : Nat) : Looked s (s.reach i k a n).state := by
  unfold State.reach
  split
  · exact looked_atHome ..
  · rename_i ctx _
    have ht := looked_translate s i ctx a
    split
    · exact .refl s
    · split
      · exact .refl s
      · split
        · exact looked_awaitRoom ..
        · split
          · rename_i he
            rw [he] at ht
            split
            · refine ht.trans (.trans ?_ (looked_atHome ..))
              split
              · exact looked_cacheLeaf ..
              · exact .refl _
            · exact ht
          · rename_i he; rw [he] at ht; exact ht
          · rename_i he; rw [he] at ht; exact ht
          · rename_i he
            rw [he] at ht
            exact ht.trans (looked_pageRequest ..)

theorem looked_readAttr (s : State) (i : Issuer) (k : AccKind) (a n : Nat) : Looked s (s.readAttr i k a n).state :=
  looked_bind (looked_reach ..) fun t _ => .refl t

theorem looked_readMem (s : State) (i : Issuer) (k : AccKind) (a n : Nat) : Looked s (s.readMem i k a n).state := by
  have h := looked_readAttr s i k a n
  unfold State.readMem
  cases hr : s.readAttr i k a n <;> rw [hr] at h <;> exact h

/-- A load that is performed gives the bytes at its frame. -/
theorem readMem_ok {s t : State} {i : Issuer} {k : AccKind} {a n : Nat} {bs : List Byte} (h : s.readMem i k a n = .ok t bs) :
    ∃ p, s.reach i k a n = .ok t p ∧ bs = t.physBytes p.1 n := by
  unfold State.readMem State.readAttr at h
  cases hr : s.reach i k a n with
  | ok u p => rw [hr] at h; cases h; exact ⟨p, rfl, rfl⟩
  | wait u p => rw [hr] at h; cases h
  | fail u c x => rw [hr] at h; cases h

/-- A store that is performed puts its bytes at its frame; one that waits or fails stores nothing. -/
theorem writeAttr_cases (s : State) (i : Issuer) (a : Nat) (bs : List Byte) :
    (∃ t p, s.reach i .write a bs.length = .ok t p ∧ s.writeAttr i a bs = .ok (t.physWrite p.1 bs) p.2) ∨
    (∃ t p, s.writeAttr i a bs = .wait t p ∧ Looked s t) ∨ ∃ t c x, s.writeAttr i a bs = .fail t c x ∧ Looked s t := by
  have h := looked_reach s i .write a bs.length
  unfold State.writeAttr
  cases hr : s.reach i .write a bs.length with
  | ok t p => exact .inl ⟨t, p, rfl, rfl⟩
  | wait t p => rw [hr] at h; exact .inr (.inl ⟨t, p, rfl, h⟩)
  | fail t c x => rw [hr] at h; exact .inr (.inr ⟨t, c, x, rfl, h⟩)

/-- A store keeps memory in its canonical form, however it ends. -/
theorem writeAttr_wf (s : State) (i : Issuer) (a : Nat) (bs : List Byte) (h : Memory.wf s.mem = true) :
    Memory.wf (s.writeAttr i a bs).state.mem = true := by
  have hr := looked_reach s i .write a bs.length
  rcases writeAttr_cases s i a bs with ⟨t, p, h1, h2⟩ | ⟨t, p, h1, h2⟩ | ⟨t, c, x, h1, h2⟩
  · rw [h1] at hr
    rw [h2]
    exact physWrite_wf t p.1 bs (by rw [show t.mem = s.mem from hr.mem]; exact h)
  · rw [h1]; simpa only [Acc.state, h2.mem] using h
  · rw [h1]; simpa only [Acc.state, h2.mem] using h

/-- An arrival keeps memory in its canonical form, however it ends. -/
theorem arrive_wf (s : State) (i : Issuer) (a x : Nat) (h : Memory.wf s.mem = true) :
    Memory.wf (s.arrive i a x).state.mem = true := by
  have hr := looked_reach s i .both a 16
  unfold State.arrive
  cases hk : s.reach i .both a 16 with
  | ok t p =>
    rw [hk] at hr
    obtain ⟨pa, at_⟩ := p
    have hm : t.mem = s.mem := hr.mem
    dsimp only [Acc.state]
    exact physWrite_wf t pa _ (by rw [hm]; exact h)
  | wait t p =>
    rw [hk] at hr
    have hm : t.mem = s.mem := hr.mem
    dsimp only [Acc.state]
    rw [hm]; exact h
  | fail t c y =>
    rw [hk] at hr
    have hm : t.mem = s.mem := hr.mem
    dsimp only [Acc.state]
    rw [hm]; exact h

/-- Several accesses in turn keep what each of them keeps. -/
theorem readEach_keeps {α β : Type} (P : State → Prop) (l : List α) (f : State → α → Acc β)
    (hf : ∀ t x, P t → P (f t x).state) (s : State) (h : P s) : P (readEach s l f).state := by
  induction l generalizing s with
  | nil => exact h
  | cons x r ih =>
    have h1 := hf s x h
    unfold readEach
    cases hx : f s x with
    | ok t y =>
      rw [hx] at h1
      have h2 := ih t h1
      simp only [Acc.bind]
      cases hr : readEach t r f <;> rw [hr] at h2 <;> exact h2
    | wait t p => rw [hx] at h1; exact h1
    | fail t c y => rw [hx] at h1; exact h1

end Sys2Proof.Machine
end

