-- ==== Sys2Proof/Laws/Operands.lean ====
section
/-! SUPPORT. Elements of vectors: what the packed vector of a list reads as, and what the shared vector forms come to. -/

namespace Sys2Proof.Machine

theorem pack_lt (w : Nat) (xs : List Nat) : packElems w xs < 2 ^ (w * xs.length) := by
  induction xs with
  | nil => simp [packElems]
  | cons x r ih =>
    simp only [packElems, List.length_cons, Nat.mul_succ]
    have h1 : x % 2 ^ w < 2 ^ w := Nat.mod_lt _ (by positivity)
    have h2 : 2 ^ w * (packElems w r + 1) ≤ 2 ^ w * 2 ^ (w * r.length) := Nat.mul_le_mul_left _ ih
    rw [pow_add, Nat.mul_comm (2 ^ (w * r.length))]
    calc x % 2 ^ w + 2 ^ w * packElems w r < 2 ^ w + 2 ^ w * packElems w r := by omega
      _ = 2 ^ w * (packElems w r + 1) := by ring
      _ ≤ _ := h2

theorem pack_elem (w : Nat) (xs : List Nat) (k : Nat) (hk : k < xs.length) :
    packElems w xs / 2 ^ (k * w) % 2 ^ w = xs[k] % 2 ^ w := by
  induction xs generalizing k with
  | nil => simp at hk
  | cons x r ih =>
    have hp : 0 < 2 ^ w := by positivity
    cases k with
    | zero => simp [packElems, Nat.add_mul_mod_self_left]
    | succ k =>
      simp only [packElems, List.getElem_cons_succ]
      rw [Nat.succ_mul, Nat.add_comm (k * w) w, pow_add, ← Nat.div_div_eq_div_mul, Nat.add_mul_div_left _ _ hp,
        Nat.div_eq_of_lt (Nat.mod_lt _ hp), Nat.zero_add]
      exact ih k (by simpa using hk)

theorem lanes_width (t : Ty) : t.width * lanesOf t.width = 2048 := by cases t <;> rfl

/-- What element `k` of a vector that is put together element by element reads as. -/
theorem elem_pack (w : Nat) (hw : w * lanesOf w = 2048) (f : Nat → Nat) (k : Nat) (hk : k < lanesOf w) :
    elemOf (BitVec.ofNat 2048 (packElems w ((List.range (lanesOf w)).map f))) w k = f k % 2 ^ w := by
  have h1 : packElems w ((List.range (lanesOf w)).map f) < 2 ^ 2048 := by
    have := pack_lt w ((List.range (lanesOf w)).map f)
    rwa [List.length_map, List.length_range, hw] at this
  unfold elemOf
  rw [BitVec.toNat_ofNat, Nat.mod_eq_of_lt h1, pack_elem w _ k (by simpa using hk)]
  simp

theorem elem_lt (v : VWord) (w k : Nat) : elemOf v w k < 2 ^ w := Nat.mod_lt _ (by positivity)

/-- Element `k` of a blend. -/
theorem elem_blend (t : Ty) (m : BitVec 256) (old : VWord) (f : Nat → Nat) (k : Nat) (hk : k < lanesOf t.width) :
    elemOf (blend t m old f) t.width k = if laneBit m t.width k then t6Clean t (f k) % 2 ^ t.width else elemOf old t.width k := by
  unfold blend
  rw [elem_pack t.width (lanes_width t) _ k hk]
  split
  · rfl
  · exact Nat.mod_eq_of_lt (elem_lt ..)

theorem lane_bound (t : Ty) (k : Nat) (hk : k < 2048 / t.width) : k * t.width / 8 < 256 := by
  cases t <;> simp only [Ty.width] at hk ⊢ <;> omega

theorem laneOn_iff (s : State) (c : Ctl) (t : Ty) (k : Nat) (hk : k < 2048 / t.width) :
    s.laneOn c t.width k ↔ laneBit (guardBits s.src c) t.width k = true := by
  unfold laneBit
  rw [guardBits_bit _ _ _ (lane_bound t k hk)]
  simp only [State.laneOn, Bool.and_eq_true, bne_iff_ne]

end Sys2Proof.Machine
end

