-- ==== Sys2Proof/Laws/PerInstr.lean ====
section
/-! SUPPORT. Per instruction: the map of its slot reads an instruction back from its own fields (family Reads). -/

namespace Sys2Proof.Laws

@[simp] theorem ty_ofBits_bits (t : Ty) : Ty.ofBits t.bits = some t := by cases t <;> rfl
@[simp] theorem rmode_ofBits_bits (m : RMode) : RMode.ofBits m.bits = some m := by cases m <;> rfl
@[simp] theorem cond_ofBits_bits (k : Cond) : Cond.ofBits k.bits = k := by cases k <;> rfl

/-- A field of seven bits made of three and four. -/
theorem hi3_append (x : BitVec 3) (y : BitVec 4) : (x ++ y).extractLsb' 4 3 = x := by
  revert x y; decide
theorem lo4_append (x : BitVec 3) (y : BitVec 4) : (x ++ y).extractLsb' 0 4 = y := by
  revert x y; decide
theorem imm25_parts (x : BitVec 25) :
    x.extractLsb' 18 7 ++ x.extractLsb' 12 6 ++ x.extractLsb' 6 6 ++ x.extractLsb' 0 6 = x := by
  apply BitVec.eq_of_getElem_eq; intro k hk
  simp only [BitVec.getElem_append, BitVec.getElem_extractLsb']
  simp only [← BitVec.getLsbD_eq_getElem]
  split_ifs <;> (congr 1; omega)
theorem imm22_parts (x : BitVec 22) :
    x.extractLsb' 18 4 ++ x.extractLsb' 12 6 ++ x.extractLsb' 6 6 ++ x.extractLsb' 0 6 = x := by
  apply BitVec.eq_of_getElem_eq; intro k hk
  simp only [BitVec.getElem_append, BitVec.getElem_extractLsb']
  simp only [← BitVec.getLsbD_eq_getElem]
  split_ifs <;> (congr 1; omega)
theorem imm18_parts (x : BitVec 18) : x.extractLsb' 12 6 ++ x.extractLsb' 6 6 ++ x.extractLsb' 0 6 = x := by
  apply BitVec.eq_of_getElem_eq; intro k hk
  simp only [BitVec.getElem_append, BitVec.getElem_extractLsb']
  simp only [← BitVec.getLsbD_eq_getElem]
  split_ifs <;> (congr 1; omega)
theorem low6 (x : BitVec 6) : (0#1 ++ x).extractLsb' 0 6 = x := by revert x; decide
theorem low3 (x : BitVec 3) : (0#4 ++ x).extractLsb' 0 3 = x := by revert x; decide
theorem code4 (x : BitVec 4) : (0#2 ++ x).extractLsb' 0 4 = x := by revert x; decide

theorem flag_ms (l : Bool) (x : BitVec 4) : ((0#2 ++ bit1 l) ++ x).extractLsb' 4 1 = bit1 l := by revert l x; decide
theorem flag_blk (l : Bool) (x : BitVec 6) : (bit1 l ++ x).extractLsb' 6 1 = bit1 l := by revert l x; decide
theorem low_blk (l : Bool) (x : BitVec 6) : (bit1 l ++ x).extractLsb' 0 6 = x := by revert l x; decide
theorem bit1_eq (l : Bool) : (bit1 l == 1) = l := by cases l <;> rfl
theorem bit6_eq (l : Bool) : (bit6 l == 1) = l := by cases l <;> rfl
theorem bit7_eq (l : Bool) : (bit7 l == 1) = l := by cases l <;> rfl

theorem ms_ty (l : Bool) (x : BitVec 4) : ((0#2 ++ bit1 l) ++ x).extractLsb' 0 4 = x := by revert l x; decide

namespace Reads

/-- The slot's map reads the instruction from the fields of its encoding. -/
def Statement (i : Instr) : Prop := ∀ s f, i.slot = some s → i.fields = some f → readSlot s f = some (some i)

/-- What is no instruction word. -/
theorem none_slot {i : Instr} (h : i.slot = none) : Statement i := by
  intro s f a
  rw [h] at a; cases a

/-- An instruction whose slot's map gives it back from its fields. -/
theorem mk {i : Instr} {s : Slot} {f : Fields} (h1 : i.slot = some s) (h2 : i.fields = some f)
    (h3 : readSlot s f = some (some i)) : Statement i := by
  intro s' f' a b
  rw [h1] at a; rw [h2] at b; cases a; cases b; exact h3

theorem bprep (x0 : Ctl) (x1 : BitVec 6) (x2 : BitVec 25) : Statement (.bprep x0 x1 x2) := mk (s := .br) rfl rfl (by
  show some (some (Instr.bprep x0 x1 ((x2.extractLsb' 18 7) ++ (x2.extractLsb' 12 6) ++ (x2.extractLsb' 6 6) ++ (x2.extractLsb' 0 6)))) = _
  simp only [imm25_parts])
theorem bpreps (x0 : Ctl) (x1 : BitVec 6) (x2 : BitVec 6) : Statement (.bpreps x0 x1 x2) := mk (s := .br) rfl rfl rfl
theorem br (x0 : Ctl) (x1 : BitVec 6) : Statement (.br x0 x1) := mk (s := .br) rfl rfl rfl
theorem call (x0 : Ctl) (x1 : BitVec 6) : Statement (.call x0 x1) := mk (s := .br) rfl rfl rfl
theorem ret (x0 : Ctl) : Statement (.ret x0) := mk (s := .br) rfl rfl rfl
theorem loopset (x0 : Ctl) (x1 : BitVec 6) (x2 : BitVec 6) : Statement (.loopset x0 x1 x2) := mk (s := .br) rfl rfl (by
  show some (some (Instr.loopset x0 x1 (((0#1) ++ x2).extractLsb' 0 6))) = _
  simp only [low6])
theorem loopbrk (x0 : Ctl) (x1 : BitVec 3) : Statement (.loopbrk x0 x1) := mk (s := .br) rfl rfl (by
  show some (some (Instr.loopbrk x0 (((0#4) ++ x1).extractLsb' 0 3))) = _
  simp only [low3])
theorem endTask (x0 : Ctl) : Statement (.endTask x0) := mk (s := .br) rfl rfl rfl
theorem yield (x0 : Ctl) : Statement (.yield x0) := mk (s := .br) rfl rfl rfl
theorem wait (x0 : Ctl) (x1 : BitVec 6) (x2 : BitVec 6) : Statement (.wait x0 x1 x2) := mk (s := .br) rfl rfl rfl
theorem waitt (x0 : Ctl) (x1 : BitVec 6) : Statement (.waitt x0 x1) := mk (s := .br) rfl rfl rfl
theorem trap (x0 : Ctl) (x1 : BitVec 7) : Statement (.trap x0 x1) := mk (s := .br) rfl rfl rfl
theorem eret (x0 : Ctl) : Statement (.eret x0) := mk (s := .br) rfl rfl rfl
theorem brk (x0 : Ctl) (x1 : BitVec 7) : Statement (.brk x0 x1) := mk (s := .br) rfl rfl rfl
theorem mfsr (x0 : Ctl) (x1 : BitVec 6) (x2 : BitVec 6) : Statement (.mfsr x0 x1 x2) := mk (s := .br) rfl rfl rfl
theorem mtsr (x0 : Ctl) (x1 : BitVec 6) (x2 : BitVec 6) : Statement (.mtsr x0 x1 x2) := mk (s := .br) rfl rfl rfl
theorem sleep (x0 : Ctl) : Statement (.sleep x0) := mk (s := .br) rfl rfl rfl
theorem evpop (x0 : Ctl) (x1 : BitVec 6) : Statement (.evpop x0 x1) := mk (s := .br) rfl rfl rfl
theorem add (x0 : Ctl) (x1 : BitVec 6) (x2 : BitVec 6) (x3 : BitVec 6) : Statement (.add x0 x1 x2 x3) := mk (s := .sa) rfl rfl rfl
theorem addi (x0 : Ctl) (x1 : BitVec 6) (x2 : BitVec 6) (x3 : BitVec 25) : Statement (.addi x0 x1 x2 x3) := mk (s := .sa) rfl rfl (by
  show some (some (Instr.addi x0 x1 x2 ((x3.extractLsb' 18 7) ++ (x3.extractLsb' 12 6) ++ (x3.extractLsb' 6 6) ++ (x3.extractLsb' 0 6)))) = _
  simp only [imm25_parts])
theorem sub (x0 : Ctl) (x1 : BitVec 6) (x2 : BitVec 6) (x3 : BitVec 6) : Statement (.sub x0 x1 x2 x3) := mk (s := .sa) rfl rfl rfl
theorem and (x0 : Ctl) (x1 : BitVec 6) (x2 : BitVec 6) (x3 : BitVec 6) : Statement (.and x0 x1 x2 x3) := mk (s := .sa) rfl rfl rfl
theorem andi (x0 : Ctl) (x1 : BitVec 6) (x2 : BitVec 6) (x3 : BitVec 25) : Statement (.andi x0 x1 x2 x3) := mk (s := .sa) rfl rfl (by
  show some (some (Instr.andi x0 x1 x2 ((x3.extractLsb' 18 7) ++ (x3.extractLsb' 12 6) ++ (x3.extractLsb' 6 6) ++ (x3.extractLsb' 0 6)))) = _
  simp only [imm25_parts])
theorem or (x0 : Ctl) (x1 : BitVec 6) (x2 : BitVec 6) (x3 : BitVec 6) : Statement (.or x0 x1 x2 x3) := mk (s := .sa) rfl rfl rfl
theorem ori (x0 : Ctl) (x1 : BitVec 6) (x2 : BitVec 6) (x3 : BitVec 25) : Statement (.ori x0 x1 x2 x3) := mk (s := .sa) rfl rfl (by
  show some (some (Instr.ori x0 x1 x2 ((x3.extractLsb' 18 7) ++ (x3.extractLsb' 12 6) ++ (x3.extractLsb' 6 6) ++ (x3.extractLsb' 0 6)))) = _
  simp only [imm25_parts])
theorem xor (x0 : Ctl) (x1 : BitVec 6) (x2 : BitVec 6) (x3 : BitVec 6) : Statement (.xor x0 x1 x2 x3) := mk (s := .sa) rfl rfl rfl
theorem xori (x0 : Ctl) (x1 : BitVec 6) (x2 : BitVec 6) (x3 : BitVec 25) : Statement (.xori x0 x1 x2 x3) := mk (s := .sa) rfl rfl (by
  show some (some (Instr.xori x0 x1 x2 ((x3.extractLsb' 18 7) ++ (x3.extractLsb' 12 6) ++ (x3.extractLsb' 6 6) ++ (x3.extractLsb' 0 6)))) = _
  simp only [imm25_parts])
theorem shl (x0 : Ctl) (x1 : BitVec 6) (x2 : BitVec 6) (x3 : BitVec 6) : Statement (.shl x0 x1 x2 x3) := mk (s := .sa) rfl rfl rfl
theorem shli (x0 : Ctl) (x1 : BitVec 6) (x2 : BitVec 6) (x3 : BitVec 25) : Statement (.shli x0 x1 x2 x3) := mk (s := .sa) rfl rfl (by
  show some (some (Instr.shli x0 x1 x2 ((x3.extractLsb' 18 7) ++ (x3.extractLsb' 12 6) ++ (x3.extractLsb' 6 6) ++ (x3.extractLsb' 0 6)))) = _
  simp only [imm25_parts])
theorem shr (x0 : Ctl) (x1 : BitVec 6) (x2 : BitVec 6) (x3 : BitVec 6) : Statement (.shr x0 x1 x2 x3) := mk (s := .sa) rfl rfl rfl
theorem shri (x0 : Ctl) (x1 : BitVec 6) (x2 : BitVec 6) (x3 : BitVec 25) : Statement (.shri x0 x1 x2 x3) := mk (s := .sa) rfl rfl (by
  show some (some (Instr.shri x0 x1 x2 ((x3.extractLsb' 18 7) ++ (x3.extractLsb' 12 6) ++ (x3.extractLsb' 6 6) ++ (x3.extractLsb' 0 6)))) = _
  simp only [imm25_parts])
theorem sar (x0 : Ctl) (x1 : BitVec 6) (x2 : BitVec 6) (x3 : BitVec 6) : Statement (.sar x0 x1 x2 x3) := mk (s := .sa) rfl rfl rfl
theorem sari (x0 : Ctl) (x1 : BitVec 6) (x2 : BitVec 6) (x3 : BitVec 25) : Statement (.sari x0 x1 x2 x3) := mk (s := .sa) rfl rfl (by
  show some (some (Instr.sari x0 x1 x2 ((x3.extractLsb' 18 7) ++ (x3.extractLsb' 12 6) ++ (x3.extractLsb' 6 6) ++ (x3.extractLsb' 0 6)))) = _
  simp only [imm25_parts])
theorem rotl (x0 : Ctl) (x1 : BitVec 6) (x2 : BitVec 6) (x3 : BitVec 6) : Statement (.rotl x0 x1 x2 x3) := mk (s := .sa) rfl rfl rfl
theorem min (x0 : Ctl) (x1 : BitVec 6) (x2 : BitVec 6) (x3 : BitVec 6) : Statement (.min x0 x1 x2 x3) := mk (s := .sa) rfl rfl rfl
theorem max (x0 : Ctl) (x1 : BitVec 6) (x2 : BitVec 6) (x3 : BitVec 6) : Statement (.max x0 x1 x2 x3) := mk (s := .sa) rfl rfl rfl
theorem minu (x0 : Ctl) (x1 : BitVec 6) (x2 : BitVec 6) (x3 : BitVec 6) : Statement (.minu x0 x1 x2 x3) := mk (s := .sa) rfl rfl rfl
theorem maxu (x0 : Ctl) (x1 : BitVec 6) (x2 : BitVec 6) (x3 : BitVec 6) : Statement (.maxu x0 x1 x2 x3) := mk (s := .sa) rfl rfl rfl
theorem adds (x0 : Ctl) (x1 : BitVec 6) (x2 : BitVec 6) (x3 : BitVec 6) : Statement (.adds x0 x1 x2 x3) := mk (s := .sa) rfl rfl rfl
theorem subs (x0 : Ctl) (x1 : BitVec 6) (x2 : BitVec 6) (x3 : BitVec 6) : Statement (.subs x0 x1 x2 x3) := mk (s := .sa) rfl rfl rfl
theorem abs (x0 : Ctl) (x1 : BitVec 6) (x2 : BitVec 6) : Statement (.abs x0 x1 x2) := mk (s := .sa) rfl rfl rfl
theorem clz (x0 : Ctl) (x1 : BitVec 6) (x2 : BitVec 6) : Statement (.clz x0 x1 x2) := mk (s := .sa) rfl rfl rfl
theorem ctz (x0 : Ctl) (x1 : BitVec 6) (x2 : BitVec 6) : Statement (.ctz x0 x1 x2) := mk (s := .sa) rfl rfl rfl
theorem popc (x0 : Ctl) (x1 : BitVec 6) (x2 : BitVec 6) : Statement (.popc x0 x1 x2) := mk (s := .sa) rfl rfl rfl
theorem brev (x0 : Ctl) (x1 : BitVec 6) (x2 : BitVec 6) : Statement (.brev x0 x1 x2) := mk (s := .sa) rfl rfl rfl
theorem mov (x0 : Ctl) (x1 : BitVec 6) (x2 : BitVec 6) : Statement (.mov x0 x1 x2) := mk (s := .sa) rfl rfl rfl
theorem movi (x0 : Ctl) (x1 : BitVec 6) (x2 : BitVec 25) : Statement (.movi x0 x1 x2) := mk (s := .sa) rfl rfl (by
  show some (some (Instr.movi x0 x1 ((x2.extractLsb' 18 7) ++ (x2.extractLsb' 12 6) ++ (x2.extractLsb' 6 6) ++ (x2.extractLsb' 0 6)))) = _
  simp only [imm25_parts])
theorem movhi (x0 : Ctl) (x1 : BitVec 6) (x2 : BitVec 25) : Statement (.movhi x0 x1 x2) := mk (s := .sa) rfl rfl (by
  show some (some (Instr.movhi x0 x1 ((x2.extractLsb' 18 7) ++ (x2.extractLsb' 12 6) ++ (x2.extractLsb' 6 6) ++ (x2.extractLsb' 0 6)))) = _
  simp only [imm25_parts])
theorem sext (x0 : Ctl) (x1 : BitVec 6) (x2 : BitVec 6) (x3 : BitVec 6) : Statement (.sext x0 x1 x2 x3) := mk (s := .sa) rfl rfl (by
  show some (some (Instr.sext x0 x1 x2 (((0#1) ++ x3).extractLsb' 0 6))) = _
  simp only [low6])
theorem zext (x0 : Ctl) (x1 : BitVec 6) (x2 : BitVec 6) (x3 : BitVec 6) : Statement (.zext x0 x1 x2 x3) := mk (s := .sa) rfl rfl (by
  show some (some (Instr.zext x0 x1 x2 (((0#1) ++ x3).extractLsb' 0 6))) = _
  simp only [low6])
theorem bfx (x0 : Ctl) (x1 : BitVec 6) (x2 : BitVec 6) (x3 : BitVec 6) (x4 : BitVec 6) : Statement (.bfx x0 x1 x2 x3 x4) := mk (s := .sa) rfl rfl (by
  show some (some (Instr.bfx x0 x1 x2 x3 (((0#1) ++ x4).extractLsb' 0 6))) = _
  simp only [low6])
theorem bfi (x0 : Ctl) (x1 : BitVec 6) (x2 : BitVec 6) (x3 : BitVec 6) (x4 : BitVec 6) : Statement (.bfi x0 x1 x2 x3 x4) := mk (s := .sa) rfl rfl (by
  show some (some (Instr.bfi x0 x1 x2 x3 (((0#1) ++ x4).extractLsb' 0 6))) = _
  simp only [low6])
theorem lea (x0 : Ctl) (x1 : BitVec 6) (x2 : BitVec 6) (x3 : BitVec 6) (x4 : BitVec 3) : Statement (.lea x0 x1 x2 x3 x4) := mk (s := .sa) rfl rfl (by
  show some (some (Instr.lea x0 x1 x2 x3 (((0#4) ++ x4).extractLsb' 0 3))) = _
  simp only [low3])
theorem sel (x0 : Ctl) (x1 : BitVec 6) (x2 : BitVec 6) (x3 : BitVec 6) (x4 : BitVec 6) : Statement (.sel x0 x1 x2 x3 x4) := mk (s := .sa) rfl rfl rfl
theorem cmp (x0 : Ctl) (x1 : Cond) (x2 : BitVec 6) (x3 : BitVec 6) (x4 : BitVec 6) : Statement (.cmp x0 x1 x2 x3 x4) := mk (s := .sa) rfl rfl (by
  show some (some (Instr.cmp x0 (Cond.ofBits ((x1.bits ++ (0#4)).extractLsb' 4 3)) x2 x3 x4)) = _
  simp only [hi3_append, cond_ofBits_bits])
theorem cmpi (x0 : Ctl) (x1 : Cond) (x2 : BitVec 6) (x3 : BitVec 6) (x4 : BitVec 22) : Statement (.cmpi x0 x1 x2 x3 x4) := mk (s := .sa) rfl rfl (by
  show some (some (Instr.cmpi x0 (Cond.ofBits ((x1.bits ++ x4.extractLsb' 18 4).extractLsb' 4 3)) x2 x3 (((x1.bits ++ x4.extractLsb' 18 4).extractLsb' 0 4) ++ (x4.extractLsb' 12 6) ++ (x4.extractLsb' 6 6) ++ (x4.extractLsb' 0 6)))) = _
  simp only [hi3_append, lo4_append, imm22_parts, cond_ofBits_bits])
theorem pand (x0 : Ctl) (x1 : BitVec 6) (x2 : BitVec 6) (x3 : BitVec 6) : Statement (.pand x0 x1 x2 x3) := mk (s := .sa) rfl rfl rfl
theorem por (x0 : Ctl) (x1 : BitVec 6) (x2 : BitVec 6) (x3 : BitVec 6) : Statement (.por x0 x1 x2 x3) := mk (s := .sa) rfl rfl rfl
theorem pxor (x0 : Ctl) (x1 : BitVec 6) (x2 : BitVec 6) (x3 : BitVec 6) : Statement (.pxor x0 x1 x2 x3) := mk (s := .sa) rfl rfl rfl
theorem pnot (x0 : Ctl) (x1 : BitVec 6) (x2 : BitVec 6) : Statement (.pnot x0 x1 x2) := mk (s := .sa) rfl rfl rfl
theorem pmov (x0 : Ctl) (x1 : BitVec 6) (x2 : BitVec 6) : Statement (.pmov x0 x1 x2) := mk (s := .sa) rfl rfl rfl
theorem fadd (x0 : Ctl) (x1 : RMode) (x2 : BitVec 6) (x3 : BitVec 6) (x4 : BitVec 6) : Statement (.fadd x0 x1 x2 x3 x4) := mk (s := .sa) rfl rfl (by
  show some (((RMode.ofBits ((x1.bits ++ (0#4)).extractLsb' 4 3))).map fun m => Instr.fadd x0 m x2 x3 x4) = _
  simp only [hi3_append, rmode_ofBits_bits, Option.map_some])
theorem fsub (x0 : Ctl) (x1 : RMode) (x2 : BitVec 6) (x3 : BitVec 6) (x4 : BitVec 6) : Statement (.fsub x0 x1 x2 x3 x4) := mk (s := .sa) rfl rfl (by
  show some (((RMode.ofBits ((x1.bits ++ (0#4)).extractLsb' 4 3))).map fun m => Instr.fsub x0 m x2 x3 x4) = _
  simp only [hi3_append, rmode_ofBits_bits, Option.map_some])
theorem fmul (x0 : Ctl) (x1 : RMode) (x2 : BitVec 6) (x3 : BitVec 6) (x4 : BitVec 6) : Statement (.fmul x0 x1 x2 x3 x4) := mk (s := .sa) rfl rfl (by
  show some (((RMode.ofBits ((x1.bits ++ (0#4)).extractLsb' 4 3))).map fun m => Instr.fmul x0 m x2 x3 x4) = _
  simp only [hi3_append, rmode_ofBits_bits, Option.map_some])
theorem ffma (x0 : Ctl) (x1 : RMode) (x2 : BitVec 6) (x3 : BitVec 6) (x4 : BitVec 6) (x5 : BitVec 6) : Statement (.ffma x0 x1 x2 x3 x4 x5) := mk (s := .sa) rfl rfl (by
  show some (((RMode.ofBits ((x1.bits ++ (0#4)).extractLsb' 4 3))).map
      fun m => Instr.ffma x0 m x2 x3 x4 x5) = _
  simp only [hi3_append, rmode_ofBits_bits, Option.map_some])
theorem fmin (x0 : Ctl) (x1 : BitVec 6) (x2 : BitVec 6) (x3 : BitVec 6) : Statement (.fmin x0 x1 x2 x3) := mk (s := .sa) rfl rfl rfl
theorem fmax (x0 : Ctl) (x1 : BitVec 6) (x2 : BitVec 6) (x3 : BitVec 6) : Statement (.fmax x0 x1 x2 x3) := mk (s := .sa) rfl rfl rfl
theorem fcmp (x0 : Ctl) (x1 : Cond) (x2 : BitVec 6) (x3 : BitVec 6) (x4 : BitVec 6) : Statement (.fcmp x0 x1 x2 x3 x4) := mk (s := .sa) rfl rfl (by
  show some (some (Instr.fcmp x0 (Cond.ofBits ((x1.bits ++ (0#4)).extractLsb' 4 3)) x2 x3 x4)) = _
  simp only [hi3_append, cond_ofBits_bits])
theorem fcvti (x0 : Ctl) (x1 : Ty) (x2 : RMode) (x3 : BitVec 6) (x4 : BitVec 6) : Statement (.fcvti x0 x1 x2 x3 x4) := mk (s := .sa) rfl rfl (by
  show some (((Ty.ofBits (((x2.bits ++ x1.bits)).extractLsb' 0 4))).bind
      fun t => ((RMode.ofBits (((x2.bits ++ x1.bits)).extractLsb' 4 3))).map fun m => Instr.fcvti x0 t m x3 x4) = _
  simp only [hi3_append, lo4_append, ty_ofBits_bits, rmode_ofBits_bits, Option.bind_some, Option.map_some])
theorem icvtf (x0 : Ctl) (x1 : Ty) (x2 : RMode) (x3 : BitVec 6) (x4 : BitVec 6) : Statement (.icvtf x0 x1 x2 x3 x4) := mk (s := .sa) rfl rfl (by
  show some (((Ty.ofBits (((x2.bits ++ x1.bits)).extractLsb' 0 4))).bind
      fun t => ((RMode.ofBits (((x2.bits ++ x1.bits)).extractLsb' 4 3))).map fun m => Instr.icvtf x0 t m x3 x4) = _
  simp only [hi3_append, lo4_append, ty_ofBits_bits, rmode_ofBits_bits, Option.bind_some, Option.map_some])
theorem mul (x0 : Ctl) (x1 : BitVec 6) (x2 : BitVec 6) (x3 : BitVec 6) : Statement (.mul x0 x1 x2 x3) := mk (s := .sb) rfl rfl rfl
theorem muli (x0 : Ctl) (x1 : BitVec 6) (x2 : BitVec 6) (x3 : BitVec 25) : Statement (.muli x0 x1 x2 x3) := mk (s := .sb) rfl rfl (by
  show some (some (Instr.muli x0 x1 x2 ((x3.extractLsb' 18 7) ++ (x3.extractLsb' 12 6) ++ (x3.extractLsb' 6 6) ++ (x3.extractLsb' 0 6)))) = _
  simp only [imm25_parts])
theorem mulh (x0 : Ctl) (x1 : BitVec 6) (x2 : BitVec 6) (x3 : BitVec 6) : Statement (.mulh x0 x1 x2 x3) := mk (s := .sb) rfl rfl rfl
theorem mulhu (x0 : Ctl) (x1 : BitVec 6) (x2 : BitVec 6) (x3 : BitVec 6) : Statement (.mulhu x0 x1 x2 x3) := mk (s := .sb) rfl rfl rfl
theorem div (x0 : Ctl) (x1 : BitVec 6) (x2 : BitVec 6) (x3 : BitVec 6) : Statement (.div x0 x1 x2 x3) := mk (s := .sb) rfl rfl rfl
theorem divu (x0 : Ctl) (x1 : BitVec 6) (x2 : BitVec 6) (x3 : BitVec 6) : Statement (.divu x0 x1 x2 x3) := mk (s := .sb) rfl rfl rfl
theorem rem (x0 : Ctl) (x1 : BitVec 6) (x2 : BitVec 6) (x3 : BitVec 6) : Statement (.rem x0 x1 x2 x3) := mk (s := .sb) rfl rfl rfl
theorem remu (x0 : Ctl) (x1 : BitVec 6) (x2 : BitVec 6) (x3 : BitVec 6) : Statement (.remu x0 x1 x2 x3) := mk (s := .sb) rfl rfl rfl
theorem vadd (x0 : Ctl) (x1 : Ty) (x2 : RMode) (x3 : BitVec 6) (x4 : BitVec 6) (x5 : BitVec 6) : Statement (.vadd x0 x1 x2 x3 x4 x5) := mk (s := .vx) rfl rfl (by
  show some (((Ty.ofBits (((x2.bits ++ x1.bits)).extractLsb' 0 4))).bind
      fun t => ((RMode.ofBits (((x2.bits ++ x1.bits)).extractLsb' 4 3))).map fun m => Instr.vadd x0 t m x3 x4 x5) = _
  simp only [hi3_append, lo4_append, ty_ofBits_bits, rmode_ofBits_bits, Option.bind_some, Option.map_some])
theorem vsub (x0 : Ctl) (x1 : Ty) (x2 : RMode) (x3 : BitVec 6) (x4 : BitVec 6) (x5 : BitVec 6) : Statement (.vsub x0 x1 x2 x3 x4 x5) := mk (s := .vx) rfl rfl (by
  show some (((Ty.ofBits (((x2.bits ++ x1.bits)).extractLsb' 0 4))).bind
      fun t => ((RMode.ofBits (((x2.bits ++ x1.bits)).extractLsb' 4 3))).map fun m => Instr.vsub x0 t m x3 x4 x5) = _
  simp only [hi3_append, lo4_append, ty_ofBits_bits, rmode_ofBits_bits, Option.bind_some, Option.map_some])
theorem vmul (x0 : Ctl) (x1 : Ty) (x2 : RMode) (x3 : BitVec 6) (x4 : BitVec 6) (x5 : BitVec 6) : Statement (.vmul x0 x1 x2 x3 x4 x5) := mk (s := .vx) rfl rfl (by
  show some (((Ty.ofBits (((x2.bits ++ x1.bits)).extractLsb' 0 4))).bind
      fun t => ((RMode.ofBits (((x2.bits ++ x1.bits)).extractLsb' 4 3))).map fun m => Instr.vmul x0 t m x3 x4 x5) = _
  simp only [hi3_append, lo4_append, ty_ofBits_bits, rmode_ofBits_bits, Option.bind_some, Option.map_some])
theorem vfma (x0 : Ctl) (x1 : Ty) (x2 : RMode) (x3 : BitVec 6) (x4 : BitVec 6) (x5 : BitVec 6) (x6 : BitVec 6) : Statement (.vfma x0 x1 x2 x3 x4 x5 x6) := mk (s := .vx) rfl rfl (by
  show some (((Ty.ofBits (((x2.bits ++ x1.bits)).extractLsb' 0 4))).bind
      fun t => ((RMode.ofBits (((x2.bits ++ x1.bits)).extractLsb' 4 3))).map fun m => Instr.vfma x0 t m x3 x4 x5 x6) = _
  simp only [hi3_append, lo4_append, ty_ofBits_bits, rmode_ofBits_bits, Option.bind_some, Option.map_some])
theorem vmin (x0 : Ctl) (x1 : Ty) (x2 : BitVec 6) (x3 : BitVec 6) (x4 : BitVec 6) : Statement (.vmin x0 x1 x2 x3 x4) := mk (s := .vx) rfl rfl (by
  show some (((Ty.ofBits ((((0#3) ++ x1.bits)).extractLsb' 0 4))).map fun t => Instr.vmin x0 t x2 x3 x4) = _
  simp only [lo4_append, ty_ofBits_bits, Option.map_some])
theorem vmax (x0 : Ctl) (x1 : Ty) (x2 : BitVec 6) (x3 : BitVec 6) (x4 : BitVec 6) : Statement (.vmax x0 x1 x2 x3 x4) := mk (s := .vx) rfl rfl (by
  show some (((Ty.ofBits ((((0#3) ++ x1.bits)).extractLsb' 0 4))).map fun t => Instr.vmax x0 t x2 x3 x4) = _
  simp only [lo4_append, ty_ofBits_bits, Option.map_some])
theorem vabs (x0 : Ctl) (x1 : Ty) (x2 : BitVec 6) (x3 : BitVec 6) : Statement (.vabs x0 x1 x2 x3) := mk (s := .vx) rfl rfl (by
  show some (((Ty.ofBits ((((0#3) ++ x1.bits)).extractLsb' 0 4))).map fun t => Instr.vabs x0 t x2 x3) = _
  simp only [lo4_append, ty_ofBits_bits, Option.map_some])
theorem vneg (x0 : Ctl) (x1 : Ty) (x2 : BitVec 6) (x3 : BitVec 6) : Statement (.vneg x0 x1 x2 x3) := mk (s := .vx) rfl rfl (by
  show some (((Ty.ofBits ((((0#3) ++ x1.bits)).extractLsb' 0 4))).map fun t => Instr.vneg x0 t x2 x3) = _
  simp only [lo4_append, ty_ofBits_bits, Option.map_some])
theorem vand (x0 : Ctl) (x1 : Ty) (x2 : BitVec 6) (x3 : BitVec 6) (x4 : BitVec 6) : Statement (.vand x0 x1 x2 x3 x4) := mk (s := .vx) rfl rfl (by
  show some (((Ty.ofBits ((((0#3) ++ x1.bits)).extractLsb' 0 4))).map fun t => Instr.vand x0 t x2 x3 x4) = _
  simp only [lo4_append, ty_ofBits_bits, Option.map_some])
theorem vor (x0 : Ctl) (x1 : Ty) (x2 : BitVec 6) (x3 : BitVec 6) (x4 : BitVec 6) : Statement (.vor x0 x1 x2 x3 x4) := mk (s := .vx) rfl rfl (by
  show some (((Ty.ofBits ((((0#3) ++ x1.bits)).extractLsb' 0 4))).map fun t => Instr.vor x0 t x2 x3 x4) = _
  simp only [lo4_append, ty_ofBits_bits, Option.map_some])
theorem vxor (x0 : Ctl) (x1 : Ty) (x2 : BitVec 6) (x3 : BitVec 6) (x4 : BitVec 6) : Statement (.vxor x0 x1 x2 x3 x4) := mk (s := .vx) rfl rfl (by
  show some (((Ty.ofBits ((((0#3) ++ x1.bits)).extractLsb' 0 4))).map fun t => Instr.vxor x0 t x2 x3 x4) = _
  simp only [lo4_append, ty_ofBits_bits, Option.map_some])
theorem vnot (x0 : Ctl) (x1 : Ty) (x2 : BitVec 6) (x3 : BitVec 6) : Statement (.vnot x0 x1 x2 x3) := mk (s := .vx) rfl rfl (by
  show some (((Ty.ofBits ((((0#3) ++ x1.bits)).extractLsb' 0 4))).map fun t => Instr.vnot x0 t x2 x3) = _
  simp only [lo4_append, ty_ofBits_bits, Option.map_some])
theorem vshl (x0 : Ctl) (x1 : Ty) (x2 : BitVec 6) (x3 : BitVec 6) (x4 : BitVec 6) : Statement (.vshl x0 x1 x2 x3 x4) := mk (s := .vx) rfl rfl (by
  show some (((Ty.ofBits ((((0#3) ++ x1.bits)).extractLsb' 0 4))).map fun t => Instr.vshl x0 t x2 x3 x4) = _
  simp only [lo4_append, ty_ofBits_bits, Option.map_some])
theorem vshr (x0 : Ctl) (x1 : Ty) (x2 : BitVec 6) (x3 : BitVec 6) (x4 : BitVec 6) : Statement (.vshr x0 x1 x2 x3 x4) := mk (s := .vx) rfl rfl (by
  show some (((Ty.ofBits ((((0#3) ++ x1.bits)).extractLsb' 0 4))).map fun t => Instr.vshr x0 t x2 x3 x4) = _
  simp only [lo4_append, ty_ofBits_bits, Option.map_some])
theorem vsar (x0 : Ctl) (x1 : Ty) (x2 : BitVec 6) (x3 : BitVec 6) (x4 : BitVec 6) : Statement (.vsar x0 x1 x2 x3 x4) := mk (s := .vx) rfl rfl (by
  show some (((Ty.ofBits ((((0#3) ++ x1.bits)).extractLsb' 0 4))).map fun t => Instr.vsar x0 t x2 x3 x4) = _
  simp only [lo4_append, ty_ofBits_bits, Option.map_some])
theorem vadds (x0 : Ctl) (x1 : Ty) (x2 : BitVec 6) (x3 : BitVec 6) (x4 : BitVec 6) : Statement (.vadds x0 x1 x2 x3 x4) := mk (s := .vx) rfl rfl (by
  show some (((Ty.ofBits ((((0#3) ++ x1.bits)).extractLsb' 0 4))).map fun t => Instr.vadds x0 t x2 x3 x4) = _
  simp only [lo4_append, ty_ofBits_bits, Option.map_some])
theorem vsubs (x0 : Ctl) (x1 : Ty) (x2 : BitVec 6) (x3 : BitVec 6) (x4 : BitVec 6) : Statement (.vsubs x0 x1 x2 x3 x4) := mk (s := .vx) rfl rfl (by
  show some (((Ty.ofBits ((((0#3) ++ x1.bits)).extractLsb' 0 4))).map fun t => Instr.vsubs x0 t x2 x3 x4) = _
  simp only [lo4_append, ty_ofBits_bits, Option.map_some])
theorem vmulh (x0 : Ctl) (x1 : Ty) (x2 : BitVec 6) (x3 : BitVec 6) (x4 : BitVec 6) : Statement (.vmulh x0 x1 x2 x3 x4) := mk (s := .vx) rfl rfl (by
  show some (((Ty.ofBits ((((0#3) ++ x1.bits)).extractLsb' 0 4))).map fun t => Instr.vmulh x0 t x2 x3 x4) = _
  simp only [lo4_append, ty_ofBits_bits, Option.map_some])
theorem vcmp (x0 : Ctl) (x1 : Ty) (x2 : Cond) (x3 : BitVec 6) (x4 : BitVec 6) (x5 : BitVec 6) : Statement (.vcmp x0 x1 x2 x3 x4 x5) := mk (s := .vx) rfl rfl (by
  show some (((Ty.ofBits (((x2.bits ++ x1.bits)).extractLsb' 0 4))).map
      fun t => Instr.vcmp x0 t (Cond.ofBits (((x2.bits ++ x1.bits)).extractLsb' 4 3)) x3 x4 x5) = _
  simp only [hi3_append, lo4_append, ty_ofBits_bits, cond_ofBits_bits, Option.map_some])
theorem vsel (x0 : Ctl) (x1 : Ty) (x2 : BitVec 6) (x3 : BitVec 6) (x4 : BitVec 6) (x5 : BitVec 6) : Statement (.vsel x0 x1 x2 x3 x4 x5) := mk (s := .vx) rfl rfl (by
  show some (((Ty.ofBits ((((0#3) ++ x1.bits)).extractLsb' 0 4))).map fun t => Instr.vsel x0 t x2 x3 x4 x5) = _
  simp only [lo4_append, ty_ofBits_bits, Option.map_some])
theorem vmov (x0 : Ctl) (x1 : Ty) (x2 : BitVec 6) (x3 : BitVec 6) : Statement (.vmov x0 x1 x2 x3) := mk (s := .vx) rfl rfl (by
  show some (((Ty.ofBits ((((0#3) ++ x1.bits)).extractLsb' 0 4))).map fun t => Instr.vmov x0 t x2 x3) = _
  simp only [lo4_append, ty_ofBits_bits, Option.map_some])
theorem vbcast (x0 : Ctl) (x1 : Ty) (x2 : BitVec 6) (x3 : BitVec 6) : Statement (.vbcast x0 x1 x2 x3) := mk (s := .vx) rfl rfl (by
  show some (((Ty.ofBits ((((0#3) ++ x1.bits)).extractLsb' 0 4))).map fun t => Instr.vbcast x0 t x2 x3) = _
  simp only [lo4_append, ty_ofBits_bits, Option.map_some])
theorem vext (x0 : Ctl) (x1 : Ty) (x2 : BitVec 6) (x3 : BitVec 6) (x4 : BitVec 6) : Statement (.vext x0 x1 x2 x3 x4) := mk (s := .vx) rfl rfl (by
  show some (((Ty.ofBits ((((0#3) ++ x1.bits)).extractLsb' 0 4))).map fun t => Instr.vext x0 t x2 x3 x4) = _
  simp only [lo4_append, ty_ofBits_bits, Option.map_some])
theorem vins (x0 : Ctl) (x1 : Ty) (x2 : BitVec 6) (x3 : BitVec 6) (x4 : BitVec 6) : Statement (.vins x0 x1 x2 x3 x4) := mk (s := .vx) rfl rfl (by
  show some (((Ty.ofBits ((((0#3) ++ x1.bits)).extractLsb' 0 4))).map fun t => Instr.vins x0 t x2 x3 x4) = _
  simp only [lo4_append, ty_ofBits_bits, Option.map_some])
theorem vperm (x0 : Ctl) (x1 : Ty) (x2 : BitVec 6) (x3 : BitVec 6) (x4 : BitVec 6) : Statement (.vperm x0 x1 x2 x3 x4) := mk (s := .vx) rfl rfl (by
  show some (((Ty.ofBits ((((0#3) ++ x1.bits)).extractLsb' 0 4))).map fun t => Instr.vperm x0 t x2 x3 x4) = _
  simp only [lo4_append, ty_ofBits_bits, Option.map_some])
theorem vrot (x0 : Ctl) (x1 : Ty) (x2 : BitVec 6) (x3 : BitVec 6) (x4 : BitVec 6) : Statement (.vrot x0 x1 x2 x3 x4) := mk (s := .vx) rfl rfl (by
  show some (((Ty.ofBits ((((0#3) ++ x1.bits)).extractLsb' 0 4))).map fun t => Instr.vrot x0 t x2 x3 x4) = _
  simp only [lo4_append, ty_ofBits_bits, Option.map_some])
theorem vslide (x0 : Ctl) (x1 : Ty) (x2 : BitVec 6) (x3 : BitVec 6) (x4 : BitVec 6) (x5 : BitVec 6) : Statement (.vslide x0 x1 x2 x3 x4 x5) := mk (s := .vx) rfl rfl (by
  show some (((Ty.ofBits ((((0#3) ++ x1.bits)).extractLsb' 0 4))).map
      fun t => Instr.vslide x0 t x2 x3 x4 x5) = _
  simp only [lo4_append, ty_ofBits_bits, Option.map_some])
theorem vzip (x0 : Ctl) (x1 : Ty) (x2 : BitVec 6) (x3 : BitVec 6) (x4 : BitVec 6) (x5 : Bool) : Statement (.vzip x0 x1 x2 x3 x4 x5) := mk (s := .vx) rfl rfl (by
  show some (((Ty.ofBits ((((0#3) ++ x1.bits)).extractLsb' 0 4))).map
      fun t => Instr.vzip x0 t x2 x3 x4 ((bit6 x5) == 1)) = _
  simp only [lo4_append, bit6_eq, ty_ofBits_bits, Option.map_some])
theorem vunzip (x0 : Ctl) (x1 : Ty) (x2 : BitVec 6) (x3 : BitVec 6) (x4 : BitVec 6) (x5 : Bool) : Statement (.vunzip x0 x1 x2 x3 x4 x5) := mk (s := .vx) rfl rfl (by
  show some (((Ty.ofBits ((((0#3) ++ x1.bits)).extractLsb' 0 4))).map
      fun t => Instr.vunzip x0 t x2 x3 x4 ((bit6 x5) == 1)) = _
  simp only [lo4_append, bit6_eq, ty_ofBits_bits, Option.map_some])
theorem vredadd (x0 : Ctl) (x1 : Ty) (x2 : BitVec 6) (x3 : BitVec 6) : Statement (.vredadd x0 x1 x2 x3) := mk (s := .vx) rfl rfl (by
  show some (((Ty.ofBits ((((0#3) ++ x1.bits)).extractLsb' 0 4))).map fun t => Instr.vredadd x0 t x2 x3) = _
  simp only [lo4_append, ty_ofBits_bits, Option.map_some])
theorem vredmin (x0 : Ctl) (x1 : Ty) (x2 : BitVec 6) (x3 : BitVec 6) : Statement (.vredmin x0 x1 x2 x3) := mk (s := .vx) rfl rfl (by
  show some (((Ty.ofBits ((((0#3) ++ x1.bits)).extractLsb' 0 4))).map fun t => Instr.vredmin x0 t x2 x3) = _
  simp only [lo4_append, ty_ofBits_bits, Option.map_some])
theorem vredmax (x0 : Ctl) (x1 : Ty) (x2 : BitVec 6) (x3 : BitVec 6) : Statement (.vredmax x0 x1 x2 x3) := mk (s := .vx) rfl rfl (by
  show some (((Ty.ofBits ((((0#3) ++ x1.bits)).extractLsb' 0 4))).map fun t => Instr.vredmax x0 t x2 x3) = _
  simp only [lo4_append, ty_ofBits_bits, Option.map_some])
theorem vscan (x0 : Ctl) (x1 : Ty) (x2 : BitVec 6) (x3 : BitVec 6) : Statement (.vscan x0 x1 x2 x3) := mk (s := .vx) rfl rfl (by
  show some (((Ty.ofBits ((((0#3) ++ x1.bits)).extractLsb' 0 4))).map fun t => Instr.vscan x0 t x2 x3) = _
  simp only [lo4_append, ty_ofBits_bits, Option.map_some])
theorem vany (x0 : Ctl) (x1 : Ty) (x2 : BitVec 6) (x3 : BitVec 6) : Statement (.vany x0 x1 x2 x3) := mk (s := .vx) rfl rfl (by
  show some (((Ty.ofBits ((((0#3) ++ x1.bits)).extractLsb' 0 4))).map fun t => Instr.vany x0 t x2 x3) = _
  simp only [lo4_append, ty_ofBits_bits, Option.map_some])
theorem vall (x0 : Ctl) (x1 : Ty) (x2 : BitVec 6) (x3 : BitVec 6) : Statement (.vall x0 x1 x2 x3) := mk (s := .vx) rfl rfl (by
  show some (((Ty.ofBits ((((0#3) ++ x1.bits)).extractLsb' 0 4))).map fun t => Instr.vall x0 t x2 x3) = _
  simp only [lo4_append, ty_ofBits_bits, Option.map_some])
theorem vpopc (x0 : Ctl) (x1 : Ty) (x2 : BitVec 6) (x3 : BitVec 6) : Statement (.vpopc x0 x1 x2 x3) := mk (s := .vx) rfl rfl (by
  show some (((Ty.ofBits ((((0#3) ++ x1.bits)).extractLsb' 0 4))).map fun t => Instr.vpopc x0 t x2 x3) = _
  simp only [lo4_append, ty_ofBits_bits, Option.map_some])
theorem vrcp (x0 : Ctl) (x1 : Ty) (x2 : RMode) (x3 : BitVec 6) (x4 : BitVec 6) : Statement (.vrcp x0 x1 x2 x3 x4) := mk (s := .vx) rfl rfl (by
  show some (((Ty.ofBits (((x2.bits ++ x1.bits)).extractLsb' 0 4))).bind
      fun t => ((RMode.ofBits (((x2.bits ++ x1.bits)).extractLsb' 4 3))).map fun m => Instr.vrcp x0 t m x3 x4) = _
  simp only [hi3_append, lo4_append, ty_ofBits_bits, rmode_ofBits_bits, Option.bind_some, Option.map_some])
theorem vrsq (x0 : Ctl) (x1 : Ty) (x2 : RMode) (x3 : BitVec 6) (x4 : BitVec 6) : Statement (.vrsq x0 x1 x2 x3 x4) := mk (s := .vx) rfl rfl (by
  show some (((Ty.ofBits (((x2.bits ++ x1.bits)).extractLsb' 0 4))).bind
      fun t => ((RMode.ofBits (((x2.bits ++ x1.bits)).extractLsb' 4 3))).map fun m => Instr.vrsq x0 t m x3 x4) = _
  simp only [hi3_append, lo4_append, ty_ofBits_bits, rmode_ofBits_bits, Option.bind_some, Option.map_some])
theorem vsqrt (x0 : Ctl) (x1 : Ty) (x2 : RMode) (x3 : BitVec 6) (x4 : BitVec 6) : Statement (.vsqrt x0 x1 x2 x3 x4) := mk (s := .vx) rfl rfl (by
  show some (((Ty.ofBits (((x2.bits ++ x1.bits)).extractLsb' 0 4))).bind
      fun t => ((RMode.ofBits (((x2.bits ++ x1.bits)).extractLsb' 4 3))).map fun m => Instr.vsqrt x0 t m x3 x4) = _
  simp only [hi3_append, lo4_append, ty_ofBits_bits, rmode_ofBits_bits, Option.bind_some, Option.map_some])
theorem vexp2 (x0 : Ctl) (x1 : Ty) (x2 : RMode) (x3 : BitVec 6) (x4 : BitVec 6) : Statement (.vexp2 x0 x1 x2 x3 x4) := mk (s := .vx) rfl rfl (by
  show some (((Ty.ofBits (((x2.bits ++ x1.bits)).extractLsb' 0 4))).bind
      fun t => ((RMode.ofBits (((x2.bits ++ x1.bits)).extractLsb' 4 3))).map fun m => Instr.vexp2 x0 t m x3 x4) = _
  simp only [hi3_append, lo4_append, ty_ofBits_bits, rmode_ofBits_bits, Option.bind_some, Option.map_some])
theorem vlog2 (x0 : Ctl) (x1 : Ty) (x2 : RMode) (x3 : BitVec 6) (x4 : BitVec 6) : Statement (.vlog2 x0 x1 x2 x3 x4) := mk (s := .vx) rfl rfl (by
  show some (((Ty.ofBits (((x2.bits ++ x1.bits)).extractLsb' 0 4))).bind
      fun t => ((RMode.ofBits (((x2.bits ++ x1.bits)).extractLsb' 4 3))).map fun m => Instr.vlog2 x0 t m x3 x4) = _
  simp only [hi3_append, lo4_append, ty_ofBits_bits, rmode_ofBits_bits, Option.bind_some, Option.map_some])
theorem vtanh (x0 : Ctl) (x1 : Ty) (x2 : RMode) (x3 : BitVec 6) (x4 : BitVec 6) : Statement (.vtanh x0 x1 x2 x3 x4) := mk (s := .vx) rfl rfl (by
  show some (((Ty.ofBits (((x2.bits ++ x1.bits)).extractLsb' 0 4))).bind
      fun t => ((RMode.ofBits (((x2.bits ++ x1.bits)).extractLsb' 4 3))).map fun m => Instr.vtanh x0 t m x3 x4) = _
  simp only [hi3_append, lo4_append, ty_ofBits_bits, rmode_ofBits_bits, Option.bind_some, Option.map_some])
theorem vsigm (x0 : Ctl) (x1 : Ty) (x2 : RMode) (x3 : BitVec 6) (x4 : BitVec 6) : Statement (.vsigm x0 x1 x2 x3 x4) := mk (s := .vx) rfl rfl (by
  show some (((Ty.ofBits (((x2.bits ++ x1.bits)).extractLsb' 0 4))).bind
      fun t => ((RMode.ofBits (((x2.bits ++ x1.bits)).extractLsb' 4 3))).map fun m => Instr.vsigm x0 t m x3 x4) = _
  simp only [hi3_append, lo4_append, ty_ofBits_bits, rmode_ofBits_bits, Option.bind_some, Option.map_some])
theorem vdiv (x0 : Ctl) (x1 : Ty) (x2 : RMode) (x3 : BitVec 6) (x4 : BitVec 6) (x5 : BitVec 6) : Statement (.vdiv x0 x1 x2 x3 x4 x5) := mk (s := .vx) rfl rfl (by
  show some (((Ty.ofBits (((x2.bits ++ x1.bits)).extractLsb' 0 4))).bind
      fun t => ((RMode.ofBits (((x2.bits ++ x1.bits)).extractLsb' 4 3))).map fun m => Instr.vdiv x0 t m x3 x4 x5) = _
  simp only [hi3_append, lo4_append, ty_ofBits_bits, rmode_ofBits_bits, Option.bind_some, Option.map_some])
theorem vcvt (x0 : Ctl) (x1 : Ty) (x2 : RMode) (x3 : BitVec 6) (x4 : BitVec 6) (x5 : Ty) (x6 : BitVec 6) : Statement (.vcvt x0 x1 x2 x3 x4 x5 x6) := mk (s := .vx) rfl rfl (by
  show some (((Ty.ofBits (((x2.bits ++ x1.bits)).extractLsb' 0 4))).bind
      fun t => ((RMode.ofBits (((x2.bits ++ x1.bits)).extractLsb' 4 3))).bind fun m => ((Ty.ofBits (((0#2) ++ x5.bits).extractLsb' 0 4))).map fun fs => Instr.vcvt x0 t m x3 x4 fs x6) = _
  simp only [hi3_append, lo4_append, code4, ty_ofBits_bits, rmode_ofBits_bits, Option.bind_some, Option.map_some])
theorem vmaxexp (x0 : Ctl) (x1 : Ty) (x2 : BitVec 6) : Statement (.vmaxexp x0 x1 x2) := mk (s := .vx) rfl rfl (by
  show some (((Ty.ofBits ((((0#3) ++ x1.bits)).extractLsb' 0 4))).map fun t => Instr.vmaxexp x0 t x2) = _
  simp only [lo4_append, ty_ofBits_bits, Option.map_some])
theorem vqcvt (x0 : Ctl) (x1 : Ty) (x2 : BitVec 6) (x3 : BitVec 6) (x4 : Ty) (x5 : BitVec 6) : Statement (.vqcvt x0 x1 x2 x3 x4 x5) := mk (s := .vx) rfl rfl (by
  show some (((Ty.ofBits ((((0#3) ++ x1.bits)).extractLsb' 0 4))).bind
      fun t => ((Ty.ofBits (((0#2) ++ x4.bits).extractLsb' 0 4))).map fun fq => Instr.vqcvt x0 t x2 x3 fq x5) = _
  simp only [lo4_append, code4, ty_ofBits_bits, Option.bind_some, Option.map_some])
theorem vdq (x0 : Ctl) (x1 : Ty) (x2 : RMode) (x3 : BitVec 6) (x4 : BitVec 6) (x5 : Ty) (x6 : BitVec 6) : Statement (.vdq x0 x1 x2 x3 x4 x5 x6) := mk (s := .vx) rfl rfl (by
  show some (((Ty.ofBits (((x2.bits ++ x1.bits)).extractLsb' 0 4))).bind
      fun t => ((RMode.ofBits (((x2.bits ++ x1.bits)).extractLsb' 4 3))).bind fun m => ((Ty.ofBits (((0#2) ++ x5.bits).extractLsb' 0 4))).map fun fq => Instr.vdq x0 t m x3 x4 fq x6) = _
  simp only [hi3_append, lo4_append, code4, ty_ofBits_bits, rmode_ofBits_bits, Option.bind_some, Option.map_some])
theorem vfxcvt (x0 : Ctl) (x1 : Ty) (x2 : RMode) (x3 : BitVec 6) (x4 : BitVec 6) (x5 : BitVec 6) (x6 : BitVec 6) : Statement (.vfxcvt x0 x1 x2 x3 x4 x5 x6) := mk (s := .vx) rfl rfl (by
  show some (((Ty.ofBits (((x2.bits ++ x1.bits)).extractLsb' 0 4))).bind
      fun t => ((RMode.ofBits (((x2.bits ++ x1.bits)).extractLsb' 4 3))).map fun m => Instr.vfxcvt x0 t m x3 x4 x5 x6) = _
  simp only [hi3_append, lo4_append, ty_ofBits_bits, rmode_ofBits_bits, Option.bind_some, Option.map_some])
theorem vflcvt (x0 : Ctl) (x1 : Ty) (x2 : RMode) (x3 : BitVec 6) (x4 : BitVec 6) (x5 : BitVec 6) (x6 : BitVec 6) : Statement (.vflcvt x0 x1 x2 x3 x4 x5 x6) := mk (s := .vx) rfl rfl (by
  show some (((Ty.ofBits (((x2.bits ++ x1.bits)).extractLsb' 0 4))).bind
      fun t => ((RMode.ofBits (((x2.bits ++ x1.bits)).extractLsb' 4 3))).map fun m => Instr.vflcvt x0 t m x3 x4 x5 x6) = _
  simp only [hi3_append, lo4_append, ty_ofBits_bits, rmode_ofBits_bits, Option.bind_some, Option.map_some])
theorem viota (x0 : Ctl) (x1 : Ty) (x2 : BitVec 6) : Statement (.viota x0 x1 x2) := mk (s := .vx) rfl rfl (by
  show some (((Ty.ofBits ((((0#3) ++ x1.bits)).extractLsb' 0 4))).map fun t => Instr.viota x0 t x2) = _
  simp only [lo4_append, ty_ofBits_bits, Option.map_some])
theorem vclz (x0 : Ctl) (x1 : Ty) (x2 : BitVec 6) (x3 : BitVec 6) : Statement (.vclz x0 x1 x2 x3) := mk (s := .vx) rfl rfl (by
  show some (((Ty.ofBits ((((0#3) ++ x1.bits)).extractLsb' 0 4))).map fun t => Instr.vclz x0 t x2 x3) = _
  simp only [lo4_append, ty_ofBits_bits, Option.map_some])
theorem osclaim (x0 : Ctl) (x1 : BitVec 6) (x2 : BitVec 6) (x3 : Bool) : Statement (.osclaim x0 x1 x2 x3) := mk (s := .mx) rfl rfl (by
  show some (some (Instr.osclaim x0 x1 x2 ((bit7 x3) == 1))) = _
  simp only [bit7_eq])
theorem osrel (x0 : Ctl) (x1 : BitVec 6) : Statement (.osrel x0 x1) := mk (s := .mx) rfl rfl rfl
theorem osld (x0 : Ctl) (x1 : BitVec 6) (x2 : BitVec 6) (x3 : BitVec 6) : Statement (.osld x0 x1 x2 x3) := mk (s := .mx) rfl rfl rfl
theorem mwld (x0 : Ctl) (x1 : Ty) (x2 : BitVec 6) (x3 : BitVec 6) : Statement (.mwld x0 x1 x2 x3) := mk (s := .mx) rfl rfl (by
  show some (((Ty.ofBits ((((0#3) ++ x1.bits)).extractLsb' 0 4))).map fun t => Instr.mwld x0 t x2 x3) = _
  simp only [lo4_append, ty_ofBits_bits, Option.map_some])
theorem mma (x0 : Ctl) (x1 : Ty) (x2 : BitVec 6) (x3 : BitVec 6) (x4 : BitVec 6) (x5 : Bool) : Statement (.mma x0 x1 x2 x3 x4 x5) := mk (s := .mx) rfl rfl (by
  show some (((Ty.ofBits ((((0#3) ++ x1.bits)).extractLsb' 0 4))).map
      fun t => Instr.mma x0 t x2 x3 x4 ((bit6 x5) == 1)) = _
  simp only [lo4_append, bit6_eq, ty_ofBits_bits, Option.map_some])
theorem mmaz (x0 : Ctl) (x1 : Ty) (x2 : BitVec 6) (x3 : BitVec 6) (x4 : BitVec 6) (x5 : Bool) : Statement (.mmaz x0 x1 x2 x3 x4 x5) := mk (s := .mx) rfl rfl (by
  show some (((Ty.ofBits ((((0#3) ++ x1.bits)).extractLsb' 0 4))).map
      fun t => Instr.mmaz x0 t x2 x3 x4 ((bit6 x5) == 1)) = _
  simp only [lo4_append, bit6_eq, ty_ofBits_bits, Option.map_some])
theorem maccz (x0 : Ctl) (x1 : Ty) (x2 : BitVec 6) : Statement (.maccz x0 x1 x2) := mk (s := .mx) rfl rfl (by
  show some (((Ty.ofBits ((((0#3) ++ x1.bits)).extractLsb' 0 4))).map fun t => Instr.maccz x0 t x2) = _
  simp only [lo4_append, ty_ofBits_bits, Option.map_some])
theorem maccrd (x0 : Ctl) (x1 : BitVec 6) (x2 : BitVec 6) (x3 : BitVec 6) : Statement (.maccrd x0 x1 x2 x3) := mk (s := .mx) rfl rfl rfl
theorem maccwr (x0 : Ctl) (x1 : BitVec 6) (x2 : BitVec 6) (x3 : BitVec 6) : Statement (.maccwr x0 x1 x2 x3) := mk (s := .mx) rfl rfl rfl
theorem maccst (x0 : Ctl) (x1 : BitVec 6) (x2 : BitVec 6) (x3 : BitVec 6) : Statement (.maccst x0 x1 x2 x3) := mk (s := .mx) rfl rfl rfl
theorem maccld (x0 : Ctl) (x1 : Ty) (x2 : BitVec 6) (x3 : BitVec 6) (x4 : BitVec 6) : Statement (.maccld x0 x1 x2 x3 x4) := mk (s := .mx) rfl rfl (by
  show some (((Ty.ofBits ((((0#3) ++ x1.bits)).extractLsb' 0 4))).map fun t => Instr.maccld x0 t x2 x3 x4) = _
  simp only [lo4_append, ty_ofBits_bits, Option.map_some])
theorem mwait (x0 : Ctl) (x1 : BitVec 6) : Statement (.mwait x0 x1) := mk (s := .mx) rfl rfl rfl
theorem mfence (x0 : Ctl) : Statement (.mfence x0) := mk (s := .mx) rfl rfl rfl
theorem ld (x0 : Ctl) (x1 : Ty) (x2 : BitVec 6) (x3 : BitVec 6) (x4 : BitVec 18) : Statement (.ld x0 x1 x2 x3 x4) := mk (s := .ms) rfl rfl (by
  show some (((Ty.ofBits ((((0#3) ++ x1.bits)).extractLsb' 0 4))).map
      fun t => Instr.ld x0 t x2 x3 ((x4.extractLsb' 12 6) ++ (x4.extractLsb' 6 6) ++ (x4.extractLsb' 0 6))) = _
  simp only [lo4_append, imm18_parts, ty_ofBits_bits, Option.map_some])
theorem st (x0 : Ctl) (x1 : Ty) (x2 : BitVec 6) (x3 : BitVec 6) (x4 : BitVec 18) : Statement (.st x0 x1 x2 x3 x4) := mk (s := .ms) rfl rfl (by
  show some (((Ty.ofBits ((((0#3) ++ x1.bits)).extractLsb' 0 4))).map
      fun t => Instr.st x0 t x2 x3 ((x4.extractLsb' 12 6) ++ (x4.extractLsb' 6 6) ++ (x4.extractLsb' 0 6))) = _
  simp only [lo4_append, imm18_parts, ty_ofBits_bits, Option.map_some])
theorem ldl (x0 : Ctl) (x1 : Ty) (x2 : BitVec 6) (x3 : BitVec 6) (x4 : BitVec 18) : Statement (.ldl x0 x1 x2 x3 x4) := mk (s := .ms) rfl rfl (by
  show some (((Ty.ofBits ((((0#3) ++ x1.bits)).extractLsb' 0 4))).map
      fun t => Instr.ldl x0 t x2 x3 ((x4.extractLsb' 12 6) ++ (x4.extractLsb' 6 6) ++ (x4.extractLsb' 0 6))) = _
  simp only [lo4_append, imm18_parts, ty_ofBits_bits, Option.map_some])
theorem stl (x0 : Ctl) (x1 : Ty) (x2 : BitVec 6) (x3 : BitVec 6) (x4 : BitVec 18) : Statement (.stl x0 x1 x2 x3 x4) := mk (s := .ms) rfl rfl (by
  show some (((Ty.ofBits ((((0#3) ++ x1.bits)).extractLsb' 0 4))).map
      fun t => Instr.stl x0 t x2 x3 ((x4.extractLsb' 12 6) ++ (x4.extractLsb' 6 6) ++ (x4.extractLsb' 0 6))) = _
  simp only [lo4_append, imm18_parts, ty_ofBits_bits, Option.map_some])
theorem vld (x0 : Ctl) (x1 : Ty) (x2 : BitVec 6) (x3 : BitVec 6) (x4 : BitVec 18) : Statement (.vld x0 x1 x2 x3 x4) := mk (s := .ms) rfl rfl (by
  show some (((Ty.ofBits ((((0#3) ++ x1.bits)).extractLsb' 0 4))).map
      fun t => Instr.vld x0 t x2 x3 ((x4.extractLsb' 12 6) ++ (x4.extractLsb' 6 6) ++ (x4.extractLsb' 0 6))) = _
  simp only [lo4_append, imm18_parts, ty_ofBits_bits, Option.map_some])
theorem vst (x0 : Ctl) (x1 : Ty) (x2 : BitVec 6) (x3 : BitVec 6) (x4 : BitVec 18) : Statement (.vst x0 x1 x2 x3 x4) := mk (s := .ms) rfl rfl (by
  show some (((Ty.ofBits ((((0#3) ++ x1.bits)).extractLsb' 0 4))).map
      fun t => Instr.vst x0 t x2 x3 ((x4.extractLsb' 12 6) ++ (x4.extractLsb' 6 6) ++ (x4.extractLsb' 0 6))) = _
  simp only [lo4_append, imm18_parts, ty_ofBits_bits, Option.map_some])
theorem vldl (x0 : Ctl) (x1 : Ty) (x2 : BitVec 6) (x3 : BitVec 6) (x4 : BitVec 18) : Statement (.vldl x0 x1 x2 x3 x4) := mk (s := .ms) rfl rfl (by
  show some (((Ty.ofBits ((((0#3) ++ x1.bits)).extractLsb' 0 4))).map
      fun t => Instr.vldl x0 t x2 x3 ((x4.extractLsb' 12 6) ++ (x4.extractLsb' 6 6) ++ (x4.extractLsb' 0 6))) = _
  simp only [lo4_append, imm18_parts, ty_ofBits_bits, Option.map_some])
theorem vstl (x0 : Ctl) (x1 : Ty) (x2 : BitVec 6) (x3 : BitVec 6) (x4 : BitVec 18) : Statement (.vstl x0 x1 x2 x3 x4) := mk (s := .ms) rfl rfl (by
  show some (((Ty.ofBits ((((0#3) ++ x1.bits)).extractLsb' 0 4))).map
      fun t => Instr.vstl x0 t x2 x3 ((x4.extractLsb' 12 6) ++ (x4.extractLsb' 6 6) ++ (x4.extractLsb' 0 6))) = _
  simp only [lo4_append, imm18_parts, ty_ofBits_bits, Option.map_some])
theorem vlds (x0 : Ctl) (x1 : Ty) (x2 : Bool) (x3 : BitVec 6) (x4 : BitVec 6) (x5 : BitVec 6) : Statement (.vlds x0 x1 x2 x3 x4 x5) := mk (s := .ms) rfl rfl (by
  show some (((Ty.ofBits (((0#2) ++ bit1 x2 ++ x1.bits).extractLsb' 0 4))).map
      fun t => Instr.vlds x0 t (((0#2) ++ bit1 x2 ++ x1.bits).extractLsb' 4 1 == 1) x3 x4 x5) = _
  simp only [ms_ty, flag_ms, bit1_eq, ty_ofBits_bits, Option.map_some])
theorem vsts (x0 : Ctl) (x1 : Ty) (x2 : Bool) (x3 : BitVec 6) (x4 : BitVec 6) (x5 : BitVec 6) : Statement (.vsts x0 x1 x2 x3 x4 x5) := mk (s := .ms) rfl rfl (by
  show some (((Ty.ofBits (((0#2) ++ bit1 x2 ++ x1.bits).extractLsb' 0 4))).map
      fun t => Instr.vsts x0 t (((0#2) ++ bit1 x2 ++ x1.bits).extractLsb' 4 1 == 1) x3 x4 x5) = _
  simp only [ms_ty, flag_ms, bit1_eq, ty_ofBits_bits, Option.map_some])
theorem vldx (x0 : Ctl) (x1 : Ty) (x2 : Bool) (x3 : BitVec 6) (x4 : BitVec 6) (x5 : BitVec 6) : Statement (.vldx x0 x1 x2 x3 x4 x5) := mk (s := .ms) rfl rfl (by
  show some (((Ty.ofBits (((0#2) ++ bit1 x2 ++ x1.bits).extractLsb' 0 4))).map
      fun t => Instr.vldx x0 t (((0#2) ++ bit1 x2 ++ x1.bits).extractLsb' 4 1 == 1) x3 x4 x5) = _
  simp only [ms_ty, flag_ms, bit1_eq, ty_ofBits_bits, Option.map_some])
theorem vstx (x0 : Ctl) (x1 : Ty) (x2 : Bool) (x3 : BitVec 6) (x4 : BitVec 6) (x5 : BitVec 6) : Statement (.vstx x0 x1 x2 x3 x4 x5) := mk (s := .ms) rfl rfl (by
  show some (((Ty.ofBits (((0#2) ++ bit1 x2 ++ x1.bits).extractLsb' 0 4))).map
      fun t => Instr.vstx x0 t (((0#2) ++ bit1 x2 ++ x1.bits).extractLsb' 4 1 == 1) x3 x4 x5) = _
  simp only [ms_ty, flag_ms, bit1_eq, ty_ofBits_bits, Option.map_some])
theorem ldblk (x0 : Ctl) (x1 : BitVec 6) (x2 : BitVec 6) (x3 : BitVec 6) (x4 : Bool) : Statement (.ldblk x0 x1 x2 x3 x4) := mk (s := .ms) rfl rfl (by
  show some (some (Instr.ldblk x0 x1 x2 ((bit1 x4 ++ x3).extractLsb' 0 6) ((bit1 x4 ++ x3).extractLsb' 6 1 == 1))) = _
  simp only [flag_blk, low_blk, bit1_eq])
theorem blkrel (x0 : Ctl) (x1 : BitVec 6) : Statement (.blkrel x0 x1) := mk (s := .ms) rfl rfl rfl
theorem regmap (x0 : Ctl) (x1 : BitVec 6) (x2 : BitVec 6) (x3 : BitVec 6) (x4 : BitVec 6) : Statement (.regmap x0 x1 x2 x3 x4) := mk (s := .ms) rfl rfl rfl
theorem regflush (x0 : Ctl) (x1 : BitVec 6) (x2 : BitVec 6) : Statement (.regflush x0 x1 x2) := mk (s := .ms) rfl rfl rfl
theorem regdrop (x0 : Ctl) (x1 : BitVec 6) (x2 : BitVec 6) : Statement (.regdrop x0 x1 x2) := mk (s := .ms) rfl rfl rfl
theorem aadd (x0 : Ctl) (x1 : Ty) (x2 : BitVec 6) (x3 : BitVec 6) (x4 : BitVec 6) : Statement (.aadd x0 x1 x2 x3 x4) := mk (s := .ms) rfl rfl (by
  show some (((Ty.ofBits ((((0#3) ++ x1.bits)).extractLsb' 0 4))).map fun t => Instr.aadd x0 t x2 x3 x4) = _
  simp only [lo4_append, ty_ofBits_bits, Option.map_some])
theorem amin (x0 : Ctl) (x1 : Ty) (x2 : BitVec 6) (x3 : BitVec 6) (x4 : BitVec 6) : Statement (.amin x0 x1 x2 x3 x4) := mk (s := .ms) rfl rfl (by
  show some (((Ty.ofBits ((((0#3) ++ x1.bits)).extractLsb' 0 4))).map fun t => Instr.amin x0 t x2 x3 x4) = _
  simp only [lo4_append, ty_ofBits_bits, Option.map_some])
theorem amax (x0 : Ctl) (x1 : Ty) (x2 : BitVec 6) (x3 : BitVec 6) (x4 : BitVec 6) : Statement (.amax x0 x1 x2 x3 x4) := mk (s := .ms) rfl rfl (by
  show some (((Ty.ofBits ((((0#3) ++ x1.bits)).extractLsb' 0 4))).map fun t => Instr.amax x0 t x2 x3 x4) = _
  simp only [lo4_append, ty_ofBits_bits, Option.map_some])
theorem aand (x0 : Ctl) (x1 : Ty) (x2 : BitVec 6) (x3 : BitVec 6) (x4 : BitVec 6) : Statement (.aand x0 x1 x2 x3 x4) := mk (s := .ms) rfl rfl (by
  show some (((Ty.ofBits ((((0#3) ++ x1.bits)).extractLsb' 0 4))).map fun t => Instr.aand x0 t x2 x3 x4) = _
  simp only [lo4_append, ty_ofBits_bits, Option.map_some])
theorem aor (x0 : Ctl) (x1 : Ty) (x2 : BitVec 6) (x3 : BitVec 6) (x4 : BitVec 6) : Statement (.aor x0 x1 x2 x3 x4) := mk (s := .ms) rfl rfl (by
  show some (((Ty.ofBits ((((0#3) ++ x1.bits)).extractLsb' 0 4))).map fun t => Instr.aor x0 t x2 x3 x4) = _
  simp only [lo4_append, ty_ofBits_bits, Option.map_some])
theorem axor (x0 : Ctl) (x1 : Ty) (x2 : BitVec 6) (x3 : BitVec 6) (x4 : BitVec 6) : Statement (.axor x0 x1 x2 x3 x4) := mk (s := .ms) rfl rfl (by
  show some (((Ty.ofBits ((((0#3) ++ x1.bits)).extractLsb' 0 4))).map fun t => Instr.axor x0 t x2 x3 x4) = _
  simp only [lo4_append, ty_ofBits_bits, Option.map_some])
theorem axchg (x0 : Ctl) (x1 : Ty) (x2 : BitVec 6) (x3 : BitVec 6) (x4 : BitVec 6) : Statement (.axchg x0 x1 x2 x3 x4) := mk (s := .ms) rfl rfl (by
  show some (((Ty.ofBits ((((0#3) ++ x1.bits)).extractLsb' 0 4))).map fun t => Instr.axchg x0 t x2 x3 x4) = _
  simp only [lo4_append, ty_ofBits_bits, Option.map_some])
theorem acas (x0 : Ctl) (x1 : Ty) (x2 : BitVec 6) (x3 : BitVec 6) (x4 : BitVec 6) (x5 : BitVec 6) : Statement (.acas x0 x1 x2 x3 x4 x5) := mk (s := .ms) rfl rfl (by
  show some (((Ty.ofBits ((((0#3) ++ x1.bits)).extractLsb' 0 4))).map fun t => Instr.acas x0 t x2 x3 x4 x5) = _
  simp only [lo4_append, ty_ofBits_bits, Option.map_some])
theorem aaddw (x0 : Ctl) (x1 : BitVec 6) (x2 : BitVec 6) (x3 : BitVec 6) : Statement (.aaddw x0 x1 x2 x3) := mk (s := .ms) rfl rfl rfl
theorem ared (x0 : Ctl) (x1 : Ty) (x2 : BitVec 6) (x3 : BitVec 6) (x4 : BitVec 6) : Statement (.ared x0 x1 x2 x3 x4) := mk (s := .ms) rfl rfl (by
  show some (((Ty.ofBits ((((0#3) ++ x1.bits)).extractLsb' 0 4))).map fun t => Instr.ared x0 t x2 x3 x4) = _
  simp only [lo4_append, ty_ofBits_bits, Option.map_some])
theorem fence (x0 : Ctl) (x1 : BitVec 3) : Statement (.fence x0 x1) := mk (s := .ms) rfl rfl (by
  show some (some (Instr.fence x0 (((0#4) ++ x1).extractLsb' 0 3))) = _
  simp only [low3])
theorem push (x0 : Ctl) (x1 : BitVec 6) (x2 : BitVec 6) (x3 : BitVec 6) : Statement (.push x0 x1 x2 x3) := mk (s := .ms) rfl rfl rfl
theorem pushc (x0 : Ctl) (x1 : BitVec 6) (x2 : BitVec 6) : Statement (.pushc x0 x1 x2) := mk (s := .ms) rfl rfl rfl
theorem barinit (x0 : Ctl) (x1 : BitVec 6) (x2 : BitVec 6) : Statement (.barinit x0 x1 x2) := mk (s := .ms) rfl rfl rfl
theorem bararr (x0 : Ctl) (x1 : BitVec 6) (x2 : BitVec 6) (x3 : BitVec 6) : Statement (.bararr x0 x1 x2 x3) := mk (s := .ms) rfl rfl rfl
theorem waitmem (x0 : Ctl) (x1 : Cond) (x2 : BitVec 6) (x3 : BitVec 6) (x4 : BitVec 6) (x5 : BitVec 6) : Statement (.waitmem x0 x1 x2 x3 x4 x5) := mk (s := .ms) rfl rfl (by
  show some (some (Instr.waitmem x0 (Cond.ofBits ((x1.bits ++ (0#4)).extractLsb' 4 3)) x2 x3 x4 x5)) = _
  simp only [hi3_append, cond_ofBits_bits])
theorem fatom (x0 : Ctl) (x1 : BitVec 3) (x2 : Ty) (x3 : BitVec 6) (x4 : BitVec 6) (x5 : BitVec 6) (x6 : BitVec 6) (x7 : BitVec 6) : Statement (.fatom x0 x1 x2 x3 x4 x5 x6 x7) := mk (s := .ms) rfl rfl (by
  show some (((Ty.ofBits (((x1 ++ x2.bits)).extractLsb' 0 4))).map
      fun t => Instr.fatom x0 (((x1 ++ x2.bits)).extractLsb' 4 3) t x3 x4 x5 x6 x7) = _
  simp only [hi3_append, lo4_append, ty_ofBits_bits, Option.map_some])
theorem frel (x0 : Ctl) : Statement (.frel x0) := mk (s := .ms) rfl rfl rfl
theorem emptyPosition : Statement .emptyPosition := none_slot rfl
theorem producerWriteback (x0 : Nat) (x1 : Nat) : Statement (.producerWriteback x0 x1) := none_slot rfl
theorem deferredFault (x0 : Nat) : Statement (.deferredFault x0) := none_slot rfl
theorem interruptEntry : Statement .interruptEntry := none_slot rfl
theorem sideLogReplay (x0 : Nat) : Statement (.sideLogReplay x0) := none_slot rfl
theorem regionWriteback (x0 : Nat) : Statement (.regionWriteback x0) := none_slot rfl
theorem blockFilled (x0 : Nat) (x1 : Nat) : Statement (.blockFilled x0 x1) := none_slot rfl
theorem matrixEntryStart (x0 : Nat) (x1 : Nat) : Statement (.matrixEntryStart x0 x1) := none_slot rfl
theorem matrixEntryComplete (x0 : Nat) (x1 : Nat) : Statement (.matrixEntryComplete x0 x1) := none_slot rfl
theorem copyCommand (x0 : Pusher) (x1 : Nat) (x2 : Rec) : Statement (.copyCommand x0 x1 x2) := none_slot rfl
theorem gatherCommand (x0 : Pusher) (x1 : Nat) (x2 : Rec) : Statement (.gatherCommand x0 x1 x2) := none_slot rfl
theorem engineCommandStart (x0 : Nat) (x1 : Bool) (x2 : Nat) : Statement (.engineCommandStart x0 x1 x2) := none_slot rfl
theorem engineCommandComplete (x0 : Nat) (x1 : Bool) : Statement (.engineCommandComplete x0 x1) := none_slot rfl
theorem mcmdOsrel (x0 : Pusher) (x1 : Nat) (x2 : Rec) : Statement (.mcmdOsrel x0 x1 x2) := none_slot rfl
theorem mcmdOsld (x0 : Pusher) (x1 : Nat) (x2 : Rec) : Statement (.mcmdOsld x0 x1 x2) := none_slot rfl
theorem mcmdMwld (x0 : Pusher) (x1 : Nat) (x2 : Rec) : Statement (.mcmdMwld x0 x1 x2) := none_slot rfl
theorem mcmdMma (x0 : Pusher) (x1 : Nat) (x2 : Rec) : Statement (.mcmdMma x0 x1 x2) := none_slot rfl
theorem mcmdMmaz (x0 : Pusher) (x1 : Nat) (x2 : Rec) : Statement (.mcmdMmaz x0 x1 x2) := none_slot rfl
theorem mcmdMaccz (x0 : Pusher) (x1 : Nat) (x2 : Rec) : Statement (.mcmdMaccz x0 x1 x2) := none_slot rfl
theorem mcmdMaccst (x0 : Pusher) (x1 : Nat) (x2 : Rec) : Statement (.mcmdMaccst x0 x1 x2) := none_slot rfl
theorem mcmdMaccld (x0 : Pusher) (x1 : Nat) (x2 : Rec) : Statement (.mcmdMaccld x0 x1 x2) := none_slot rfl
theorem fabricPut (x0 : Pusher) (x1 : Rec) : Statement (.fabricPut x0 x1) := none_slot rfl
theorem fabricSend (x0 : Pusher) (x1 : Rec) : Statement (.fabricSend x0 x1) := none_slot rfl
theorem tmatmul (x0 : Pusher) (x1 : TileQueue) (x2 : Rec) : Statement (.tmatmul x0 x1 x2) := none_slot rfl
theorem tewise (x0 : Pusher) (x1 : TileQueue) (x2 : Rec) : Statement (.tewise x0 x1 x2) := none_slot rfl
theorem treduce (x0 : Pusher) (x1 : TileQueue) (x2 : Rec) : Statement (.treduce x0 x1 x2) := none_slot rfl
theorem ttopk (x0 : Pusher) (x1 : TileQueue) (x2 : Rec) : Statement (.ttopk x0 x1 x2) := none_slot rfl
theorem tcopy (x0 : Pusher) (x1 : TileQueue) (x2 : Rec) : Statement (.tcopy x0 x1 x2) := none_slot rfl
theorem tgather (x0 : Pusher) (x1 : TileQueue) (x2 : Rec) : Statement (.tgather x0 x1 x2) := none_slot rfl
theorem tcast (x0 : Pusher) (x1 : TileQueue) (x2 : Rec) : Statement (.tcast x0 x1 x2) := none_slot rfl
theorem ttrans (x0 : Pusher) (x1 : TileQueue) (x2 : Rec) : Statement (.ttrans x0 x1 x2) := none_slot rfl
theorem tfill (x0 : Pusher) (x1 : TileQueue) (x2 : Rec) : Statement (.tfill x0 x1 x2) := none_slot rfl
theorem tlaunch (x0 : Pusher) (x1 : TileQueue) (x2 : Rec) : Statement (.tlaunch x0 x1 x2) := none_slot rfl
theorem tbind (x0 : Pusher) (x1 : TileQueue) (x2 : Rec) : Statement (.tbind x0 x1 x2) := none_slot rfl
theorem tbarrier (x0 : Pusher) (x1 : TileQueue) (x2 : Rec) : Statement (.tbarrier x0 x1 x2) := none_slot rfl
theorem tallred (x0 : Pusher) (x1 : TileQueue) (x2 : Rec) : Statement (.tallred x0 x1 x2) := none_slot rfl
theorem tileComplete (x0 : Nat) : Statement (.tileComplete x0) := none_slot rfl
theorem tbarrierComplete (x0 : Nat) : Statement (.tbarrierComplete x0) := none_slot rfl
theorem podRecordDelivery (x0 : Nat) (x1 : Nat) (x2 : Word) (x3 : Rec) : Statement (.podRecordDelivery x0 x1 x2 x3) := none_slot rfl
theorem launchActivate (x0 : Nat) : Statement (.launchActivate x0) := none_slot rfl
theorem stampedGatherDone (x0 : Nat) : Statement (.stampedGatherDone x0) := none_slot rfl
theorem stampedStrandNext (x0 : Nat) : Statement (.stampedStrandNext x0) := none_slot rfl
theorem taskDispatch (x0 : Nat) (x1 : Nat) : Statement (.taskDispatch x0 x1) := none_slot rfl
theorem taskComplete (x0 : Nat) : Statement (.taskComplete x0) := none_slot rfl
theorem taskReport (x0 : Nat) (x1 : Nat) : Statement (.taskReport x0 x1) := none_slot rfl
theorem taskStop (x0 : Nat) : Statement (.taskStop x0) := none_slot rfl
theorem taskResume (x0 : Nat) (x1 : Nat) : Statement (.taskResume x0 x1) := none_slot rfl
theorem waitResumable (x0 : Nat) (x1 : Nat) : Statement (.waitResumable x0 x1) := none_slot rfl
theorem watchdogExpiry (x0 : Nat) : Statement (.watchdogExpiry x0) := none_slot rfl
theorem eventRecordPost (x0 : Nat) : Statement (.eventRecordPost x0) := none_slot rfl
theorem governorWindow (x0 : Nat) : Statement (.governorWindow x0) := none_slot rfl
theorem hbmTempRead (x0 : Nat) (x1 : Option (BitVec 8)) : Statement (.hbmTempRead x0 x1) := none_slot rfl
theorem hbmRefresh (x0 : Nat) (x1 : Nat) : Statement (.hbmRefresh x0 x1) := none_slot rfl
theorem coreSensorSample (x0 : Nat) (x1 : BitVec 16) (x2 : BitVec 16) : Statement (.coreSensorSample x0 x1 x2) := none_slot rfl
theorem thermalTrip (x0 : Nat) : Statement (.thermalTrip x0) := none_slot rfl
theorem clockChangeProceed : Statement .clockChangeProceed := none_slot rfl
theorem clockRailsTrimmed : Statement .clockRailsTrimmed := none_slot rfl
theorem clockSwitchDone : Statement .clockSwitchDone := none_slot rfl
theorem coreGated (x0 : Nat) : Statement (.coreGated x0) := none_slot rfl
theorem coreOnline (x0 : Nat) : Statement (.coreOnline x0) := none_slot rfl
theorem gatedPortWake (x0 : Nat) : Statement (.gatedPortWake x0) := none_slot rfl
theorem l2winFilled (x0 : Nat) (x1 : Nat) : Statement (.l2winFilled x0 x1) := none_slot rfl
theorem shootdownComplete (x0 : Nat) : Statement (.shootdownComplete x0) := none_slot rfl
theorem migrationRound (x0 : Nat) : Statement (.migrationRound x0) := none_slot rfl
theorem migrationSwitch (x0 : Nat) : Statement (.migrationSwitch x0) := none_slot rfl
theorem slotHandover (x0 : Nat) : Statement (.slotHandover x0) := none_slot rfl
theorem slotHeaderReceive (x0 : Nat) (x1 : Nat) (x2 : Nat) (x3 : BitVec 512) (x4 : List Byte) : Statement (.slotHeaderReceive x0 x1 x2 x3 x4) := none_slot rfl
theorem ackReceive (x0 : Nat) (x1 : List Word) : Statement (.ackReceive x0 x1) := none_slot rfl
theorem forwardHoldExpiry (x0 : Nat) : Statement (.forwardHoldExpiry x0) := none_slot rfl
theorem resendTimeout (x0 : Nat) : Statement (.resendTimeout x0) := none_slot rfl
theorem completionRecordExpiry (x0 : Nat) : Statement (.completionRecordExpiry x0) := none_slot rfl
theorem bankSwitch (x0 : Nat) : Statement (.bankSwitch x0) := none_slot rfl
theorem laneLock (x0 : Nat) : Statement (.laneLock x0) := none_slot rfl
theorem lineFailure (x0 : Nat) (x1 : Nat) : Statement (.lineFailure x0 x1) := none_slot rfl
theorem lineRestore (x0 : Nat) (x1 : Nat) : Statement (.lineRestore x0 x1) := none_slot rfl
theorem retuneStart (x0 : Nat) (x1 : Nat) : Statement (.retuneStart x0 x1) := none_slot rfl
theorem retuneEnd (x0 : Nat) (x1 : Nat) : Statement (.retuneEnd x0 x1) := none_slot rfl
theorem orderedDelivery : Statement .orderedDelivery := none_slot rfl
theorem orderedIncompleteDiscard (x0 : Nat) : Statement (.orderedIncompleteDiscard x0) := none_slot rfl
theorem watermarkStall (x0 : Nat) (x1 : Nat) : Statement (.watermarkStall x0 x1) := none_slot rfl
theorem fatomSendRelease (x0 : Nat) : Statement (.fatomSendRelease x0) := none_slot rfl
theorem fatomRequestArrive (x0 : Nat) (x1 : Nat) (x2 : Nat) (x3 : Rec) : Statement (.fatomRequestArrive x0 x1 x2 x3) := none_slot rfl
theorem fatomReplyArrive (x0 : Nat) (x1 : Nat) (x2 : Nat) (x3 : Word) : Statement (.fatomReplyArrive x0 x1 x2 x3) := none_slot rfl
theorem podBarrierComplete (x0 : Nat) : Statement (.podBarrierComplete x0) := none_slot rfl
theorem ptpMessage (x0 : PtpSync) (x1 : Nat) (x2 : Nat) (x3 : Nat) : Statement (.ptpMessage x0 x1 x2 x3) := none_slot rfl
theorem timeParentLost : Statement .timeParentLost := none_slot rfl
theorem mailboxRead (x0 : BitVec 128) : Statement (.mailboxRead x0) := none_slot rfl
theorem mailboxWrite (x0 : BitVec 128) (x1 : List Byte) : Statement (.mailboxWrite x0 x1) := none_slot rfl
theorem linkDown : Statement .linkDown := none_slot rfl
theorem hostnote (x0 : Nat) (x1 : Word) : Statement (.hostnote x0 x1) := none_slot rfl
theorem setEndpointId (x0 : Nat) : Statement (.setEndpointId x0) := none_slot rfl
theorem pldmSensorRead (x0 : Nat) : Statement (.pldmSensorRead x0) := none_slot rfl
theorem pldmEffecterReset (x0 : Nat) : Statement (.pldmEffecterReset x0) := none_slot rfl
theorem pldmEffecterDebug (x0 : Nat) : Statement (.pldmEffecterDebug x0) := none_slot rfl
theorem pldmFirmwareUpdate (x0 : List Byte) : Statement (.pldmFirmwareUpdate x0) := none_slot rfl
theorem getMeasurements (x0 : List Byte) : Statement (.getMeasurements x0) := none_slot rfl
theorem spdmChallenge (x0 : List Byte) : Statement (.spdmChallenge x0) := none_slot rfl
theorem spdmGetCertificate : Statement .spdmGetCertificate := none_slot rfl
theorem sidebandMessageDrop (x0 : Nat) : Statement (.sidebandMessageDrop x0) := none_slot rfl
theorem targetReset : Statement .targetReset := none_slot rfl
theorem powerOnReset : Statement .powerOnReset := none_slot rfl
theorem bootImage (x0 : List Byte) : Statement (.bootImage x0) := none_slot rfl
theorem go (x0 : Nat) (x1 : Nat) (x2 : Word) : Statement (.go x0 x1 x2) := none_slot rfl
theorem pgreplyRetry (x0 : Nat) (x1 : Nat) (x2 : Word) : Statement (.pgreplyRetry x0 x1 x2) := none_slot rfl
theorem pgreplyRefuse (x0 : Nat) (x1 : Nat) (x2 : Word) : Statement (.pgreplyRefuse x0 x1 x2) := none_slot rfl
theorem tlblockLock (x0 : Nat) (x1 : Nat) (x2 : Word) : Statement (.tlblockLock x0 x1 x2) := none_slot rfl
theorem tlblockUnlock (x0 : Nat) (x1 : Nat) (x2 : Word) : Statement (.tlblockUnlock x0 x1 x2) := none_slot rfl
theorem sdgo (x0 : Nat) (x1 : Nat) : Statement (.sdgo x0 x1) := none_slot rfl
theorem miggo (x0 : Nat) (x1 : Nat) (x2 : Word) : Statement (.miggo x0 x1 x2) := none_slot rfl
theorem lcmdRelease (x0 : Nat) (x1 : Word) : Statement (.lcmdRelease x0 x1) := none_slot rfl
theorem lcmdAbort (x0 : Nat) (x1 : Word) : Statement (.lcmdAbort x0 x1) := none_slot rfl
theorem lcmdContinue (x0 : Nat) (x1 : Word) : Statement (.lcmdContinue x0 x1) := none_slot rfl
theorem evict (x0 : Nat) (x1 : Word) : Statement (.evict x0 x1) := none_slot rfl
theorem mxcadWrite (x0 : Nat) (x1 : Nat) (x2 : Word) : Statement (.mxcadWrite x0 x1 x2) := none_slot rfl
theorem clkctlWrite (x0 : Nat) (x1 : Word) : Statement (.clkctlWrite x0 x1) := none_slot rfl
theorem stateGateSet (x0 : Nat) (x1 : Nat) : Statement (.stateGateSet x0 x1) := none_slot rfl
theorem stateGateClear (x0 : Nat) (x1 : Nat) : Statement (.stateGateClear x0 x1) := none_slot rfl
theorem l2winWrite (x0 : Nat) (x1 : Nat) (x2 : Nat) (x3 : Word) : Statement (.l2winWrite x0 x1 x2 x3) := none_slot rfl
theorem plact (x0 : Nat) (x1 : Nat) (x2 : Word) : Statement (.plact x0 x1 x2) := none_slot rfl
theorem plctlLightOn (x0 : Nat) (x1 : Nat) (x2 : Word) : Statement (.plctlLightOn x0 x1 x2) := none_slot rfl
theorem plctlLightOff (x0 : Nat) (x1 : Nat) (x2 : Word) : Statement (.plctlLightOff x0 x1 x2) := none_slot rfl
theorem ptset (x0 : Nat) (x1 : Word) : Statement (.ptset x0 x1) := none_slot rfl
theorem pbarArrive (x0 : Nat) (x1 : Nat) (x2 : Word) : Statement (.pbarArrive x0 x1 x2) := none_slot rfl
theorem ccrelGo (x0 : Nat) (x1 : Word) : Statement (.ccrelGo x0 x1) := none_slot rfl
theorem ccrelRst (x0 : Nat) (x1 : Word) : Statement (.ccrelRst x0 x1) := none_slot rfl
theorem dbgctlEnWrite (x0 : Nat) (x1 : Word) : Statement (.dbgctlEnWrite x0 x1) := none_slot rfl
theorem dbgctlHaltWrite (x0 : Nat) (x1 : Word) : Statement (.dbgctlHaltWrite x0 x1) := none_slot rfl
theorem elpush (x0 : Nat) : Statement (.elpush x0) := none_slot rfl
theorem mrxgo (x0 : Nat) (x1 : Word) : Statement (.mrxgo x0 x1) := none_slot rfl
theorem registerWrite (x0 : Nat) (x1 : Nat) (x2 : Word) : Statement (.registerWrite x0 x1 x2) := none_slot rfl
theorem linkUp : Statement .linkUp := none_slot rfl
theorem hbmPatrol (x0 : Nat) (x1 : Nat) (x2 : List Spot) : Statement (.hbmPatrol x0 x1 x2) := none_slot rfl
theorem breakResumption (x0 : Nat) : Statement (.breakResumption x0) := none_slot rfl

end Reads

end Sys2Proof.Laws
end

