-- ==== Sys2Proof/Tests/Slice0.lean ====
section
/-! SUPPORT. Tests: terms that the field rules refuse, words written out from the encodings, small states, and for each statement
states and operands that meet its hypotheses. -/

namespace Sys2Proof.Tests

open Sys2Proof Sys2Proof.Machine

-- Elaborated one after another, so that the theorems do not hold a thread each while they wait for the kernel.
set_option Elab.async false

/-! ### Ill-formed terms (03 R65 to R71, 05 R100, 06 R141, 07 R164, 08 R204 R205) -/

/-- An FE bit where the form has no such register source. -/
theorem refuses_fe : (Instr.addi { fe := 2 } 1 2 3).wf = false ∧ (Instr.mov { fe := 8 } 1 2).wf = false := by decide
/-- A cache hint where the instruction has no use for one. -/
theorem refuses_hint : (Instr.add { ch := 1 } 1 2 3).wf = false := by decide
/-- A register outside its file. -/
theorem refuses_register : (Instr.br {} 8).wf = false ∧ (Instr.cmp {} .eq 16 1 2).wf = false ∧ (Instr.vmov {} .i8 32 0).wf = false ∧
    (Instr.osrel {} 16).wf = false ∧ (Instr.mwait {} 4).wf = false := by decide
/-- A pair that starts at an odd register. -/
theorem refuses_pair : (Instr.aaddw {} 3 1 2).wf = false ∧ (Instr.aaddw {} 2 1 3).wf = false := by decide
/-- A shift by 64 and a bit field past bit 63. -/
theorem refuses_range : (Instr.shli {} 1 2 64).wf = false ∧ (Instr.bfx {} 1 2 60 4).wf = false ∧ (Instr.bfi {} 1 2 63 1).wf = false := by decide
/-- A loop depth of 0 or 7, and a special register that no agent has. -/
theorem refuses_number : (Instr.loopbrk {} 0).wf = false ∧ (Instr.loopbrk {} 7).wf = false ∧ (Instr.mfsr {} 1 31).wf = false ∧
    (Instr.mtsr {} 37 1).wf = false := by decide
/-- An element type that the instruction does not have. -/
theorem refuses_type : (Instr.vadd {} .t8 .rne 1 2 3).wf = false ∧ (Instr.vand {} .f32 1 2 3).wf = false ∧ (Instr.ld {} .f32 1 2 0).wf = false ∧
    (Instr.aadd {} .i8 1 2 3).wf = false ∧ (Instr.mma {} .i32 0 1 2 false).wf = false ∧ (Instr.maccz {} .i8 0).wf = false ∧
    (Instr.fcvti {} .i16 .rne 1 2).wf = false ∧ (Instr.vmaxexp {} .i32 1).wf = false ∧ (Instr.ared {} .i16 1 2 0).wf = false ∧
    (Instr.fatom {} 0 .i8 1 2 3 4 0).wf = false := by decide
/-- A rounding mode with an integer type, or with a taper destination. -/
theorem refuses_mode : (Instr.vadd {} .i32 .rtz 1 2 3).wf = false ∧ (Instr.vcvt {} .t8 .rup 1 2 .f32 0).wf = false := by decide
/-- A part that the two widths do not have. -/
theorem refuses_part : (Instr.vcvt {} .f16 .rne 1 2 .f32 2).wf = false ∧ (Instr.vqcvt {} .f32 1 2 .t8 4).wf = false := by decide
/-- A window of two slots from slot 15, a half of such a format, a named slot with ANY. -/
theorem refuses_slot : (Instr.mwld {} .t6 15 1).wf = false ∧ (Instr.mma {} .f16 0 1 2 true).wf = false ∧ (Instr.osclaim {} 1 2 true).wf = false := by
  decide
/-- A record past s63, a queue above 8, an operation above 7, one that f32 lacks, a comparand without compare-and-exchange. -/
theorem refuses_operand : (Instr.push {} 1 57 0).wf = false ∧ (Instr.push {} 1 8 9).wf = false ∧ (Instr.pushc {} 1 49).wf = false ∧
    (Instr.ared {} .i32 1 2 8).wf = false ∧ (Instr.ared {} .f32 1 2 0).wf = false ∧ (Instr.fatom {} 0 .i32 1 2 3 4 5).wf = false := by decide
/-- An FE bit for a field that holds 0, and a hint on a scratchpad access. -/
theorem refuses_none : (Instr.waitmem { fe := 4 } .eq 1 2 3 0).wf = false ∧ (Instr.acas { fe := 4 } .i32 1 2 3 0).wf = false ∧
    (Instr.vlds { ch := 1 } .i32 true 1 2 3).wf = false := by decide

/-! ### Words written out from the encodings (03 R65, R74 to R79) -/

/-- BR: LOOPSET s2 over one bundle, opcode 0x06, A at bit 14. -/
theorem word_loopset : decodeWord .br 0x0000000000008006 = .ok (.loopset {} 2 0) := by decide
/-- SA: ADDI s5, s4, -3 under p3, opcode 0x02: the immediate fills FN, E, C and B. -/
theorem word_addi : decodeWord .sa 0xFE0000FFFFD10502 = .ok (.addi { g1 := 3 } 5 4 (-3)) := by decide
/-- The same word in SB. -/
theorem word_addi_sb : decodeWord .sb 0xFE0000FFFFD10502 = .ok (.addi { g1 := 3 } 5 4 (-3)) := by decide
/-- SB alone: MUL s1, s2, s3, opcode 0x40. -/
theorem word_mul : decodeWord .sb 0x0000000000308140 = .ok (.mul {} 1 2 3) ∧ decodeWord .sa 0x0000000000308140 = .error .opcode := by decide
/-- VX: VADD.f32 v2, v0, v1, type code 6 at bit 57. -/
theorem word_vadd : decodeWord .vx 0x0C00000000100201 = .ok (.vadd {} .f32 .rne 2 0 1) := by decide
/-- VX: VCVT.f16 v2, v1 from f32, part 1, the source type in E. -/
theorem word_vcvt : decodeWord .vx 0x080000060400422D = .ok (.vcvt {} .f16 .rne 2 1 .f32 1) := by decide
/-- MX: MMA.t8 a0, slot 3, s7. -/
theorem word_mma : decodeWord .mx 0x0E0000000070C005 = .ok (.mma {} .t8 0 3 7 false) := by decide
/-- MS: WAITMEM.NE s9, [s20], s0, s21, the condition at bit 61. -/
theorem word_waitmem : decodeWord .ms 0x2000000054050921 = .ok (.waitmem {} .ne 9 20 0 21) := by decide
/-- A field that the instruction does not use is not zero; a type code and an opcode that are not assigned. -/
theorem word_refused : decodeWord .br 0x0000000000008106 = .error .field ∧ decodeWord .vx 0x1200000000100201 = .error .field ∧
    decodeWord .br 0x0000000000000013 = .error .opcode := by decide
/-- A header with a slot BR, and the bundle of one with BR p1, b1; a header with bit 29 set is refused. -/
theorem word_header : decodeTableWord 0 0x00000040000040030000000000000001 = some (.br { g1 := 1 } 1) ∧
    decodeTableWord 0 0 = some .emptyPosition ∧ decodeHeader 0x20000000 = none := by decide
/-- What an instruction's word is. -/
theorem word_encode : encode (.addi { g1 := 3 } 5 4 (-3)) = some 0xFE0000FFFFD10502 ∧
    encode (.vcvt {} .f16 .rne 2 1 .f32 1) = some 0x080000060400422D := by decide

/-! ### Small states -/

/-- Tables for an identity map of the first GiB: one entry at each of three levels (11 R294 R295), and the two words of a barrier object
at 0x4000 with count 0 and target 1. -/
def mem0 : List Host.Cell := [(0x1000, 0x03), (0x1001, 0x20), (0x2000, 0x03), (0x2001, 0x30), (0x3000, 0x3F), (0x4008, 0x01)]

/-- Registers: s1 the address 0x4000, s2 5, s3 128, s4 all ones, s5 1; p1 all ones, p2 bit 0 alone and untagged, p3 zeros, p4 zeros and untagged. -/
def regs0 : Regs :=
  { s := [(1, 0x4000), (2, 5), (3, 128), (4, 0xFFFFFFFFFFFFFFFF), (5, 1)], p := [(1, { bits := BitVec.allOnes 256, tag := true }), (2, { bits := 1, tag := false }), (4, { bits := 0, tag := false })]
    v := [(1, 0x0706050403020100)], b := [(1, 0x12340)] }

/-- A task on tile core 0, in free-issue mode. -/
def task0 : Task := { launch := 0, die := 0, ord := 0, tidx := 0, coords := [], ctx := 0, entry := 0x10000, arg := 0, mode := 0 }

/-- Core 0 runs a task in context 0. -/
def tile : State :=
  { cur := 0, cycle := 10, ctxroot := [(0, 0x1001)], mem := mem0
    agents := [(0, { run := .running, pc := 0x10010, bundle := 0x10000, issued := 10, regs := regs0 })]
    cores := [(0, { task := some task0 })] }

/-- A control core runs with the registers of `tile`. -/
def ctlr : State :=
  { cur := 96, cycle := 10, mem := mem0
    agents := [(96, { run := .running, pc := 0x10010, bundle := 0x10000, issued := 10, regs := regs0, trapvec := 0x8000 })] }

/-- The management controller runs with the registers of `tile`. -/
def mgmt : State :=
  { cur := 100, cycle := 10, mem := mem0
    agents := [(100, { run := .running, pc := 0x10010, bundle := 0x10000, issued := 10, regs := regs0, trapvec := 0x8000 })] }

/-- The guard lets the instruction run and its registers are not empty, as a computation. -/
def readyB (s : State) (c : Ctl) (l : List RegId) : Bool :=
  !s.src.isEmpty (.p c.g1.toNat) && !s.src.isEmpty (.p c.g2.toNat) && decide ((s.src.rp c.g1.toNat).bits.getLsbD 0 ≠ c.g1n) &&
    decide ((s.src.rp c.g2.toNat).bits.getLsbD 0 ≠ c.g2n) && l.all fun r => !s.src.isEmpty r

theorem ready_of {s : State} {c : Ctl} {l : List RegId} (h : readyB s c l = true) : s.Ready c l := by
  simp only [readyB, Bool.and_eq_true, Bool.not_eq_true', decide_eq_true_eq, List.all_eq_true] at h
  exact ⟨⟨h.1.1.1.1, h.1.1.1.2⟩, ⟨h.1.1.2, h.1.2⟩, h.2⟩

/-- A transfer's guard is uniform too, and no delay position stands open. -/
theorem xfer_of {s : State} {c : Ctl} {l : List RegId} (h : readyB s c l = true) (hd : s.me.delay = none)
    (ht : (s.src.rp c.g1.toNat).tag = true ∧ (s.src.rp c.g2.toNat).tag = true) : s.ReadyXfer c l := ⟨⟨ready_of h, hd⟩, ht⟩

theorem full_of {s : State} {l : List RegId} (h : (l.all fun r => !s.src.isEmpty r) = true) : s.Full l :=
  fun r hr => by simpa using List.all_eq_true.mp h r hr

theorem lanes_of {s : State} {c : Ctl} {l : List RegId} (hc : s.cur < 96) (h : readyB s c l = true) : s.ReadyLanes c l := by
  obtain ⟨h1, h2, h3⟩ := ready_of h
  exact ⟨hc, h1, fun h => h.2 h2, h3⟩

/-- No record's children hold the vector lanes either (09 R273). -/
theorem vx_of {s : State} {c : Ctl} {l : List RegId} (hc : s.cur < 96) (h : readyB s c l = true) (hl : s.lanesHeld = false) : s.ReadyVx c l :=
  ⟨lanes_of hc h, hl⟩

/-- An access that is performed, with what its answer meets. -/
def okB {α : Type} (r : Acc α) (f : State → α → Bool) : Bool :=
  match r with
  | .ok t x => f t x
  | .wait _ _ | .fail _ _ _ => false

theorem ok_of {α : Type} {r : Acc α} {f : State → α → Bool} (h : okB r f = true) : ∃ t x, r = .ok t x ∧ f t x = true := by
  cases r with
  | ok t x => exact ⟨t, x, rfl, h⟩
  | wait _ _ => cases h
  | fail _ _ _ => cases h

/-! ### Hypotheses that are met: scalar instructions (05) -/

theorem meets_AluResults : tile.Ready {} [.s 1, .s 2, .s 3] ∧ tile.Ready { g1 := 2 } [.s 63, .s 0] ∧ (63 : BitVec 25).toNat < 64 :=
  ⟨ready_of (by decide), ready_of (by decide), by decide⟩

theorem meets_OneSourceResults : tile.Ready {} [.s 1, .s 3] := ready_of (by decide)

/-- The widest field that is in range, and the highest. -/
theorem meets_FieldResults : tile.Ready {} [.s 1, .s 3] ∧ (63 : BitVec 6).toNat + (0 : BitVec 6).toNat < 64 ∧
    (0 : BitVec 6).toNat + (63 : BitVec 6).toNat < 64 ∧ tile.Full [.s 2] ∧ tile.Full [.s 2, .p 2] :=
  ⟨ready_of (by decide), by decide, by decide, full_of (by decide), full_of (by decide)⟩

theorem meets_MultiplyDivideResults : tile.Ready {} [.s 1, .s 9, .s 3] ∧ tile.rs 9 = 0 ∧ tile.Ready {} [.s 1, .s 4, .s 3] ∧ tile.rs 4 ≠ 0 :=
  ⟨ready_of (by decide), by decide, ready_of (by decide), by decide⟩

theorem meets_PredicateResults : tile.GuardFull {} ∧ tile.GuardOn {} ∧ tile.Full [.p 1] ∧ tile.Full [.s 1] ∧ tile.Full [.s 2] ∧ tile.Full [.p 2] :=
  ⟨(ready_of (l := []) (by decide)).1, (ready_of (l := []) (by decide)).2.1, full_of (by decide), full_of (by decide), full_of (by decide),
    full_of (by decide)⟩

theorem meets_ScalarFloatResults : tile.Ready {} [.s 1, .s 2] ∧ tile.Full [.s 3] ∧ tile.Full [.s 5] ∧ tile.Full [.p 1] :=
  ⟨ready_of (by decide), full_of (by decide), full_of (by decide), full_of (by decide)⟩

/-! ### Vector instructions (06) -/

/-- Under no guard, under one that is not uniform, and with each kind of type. -/
theorem meets_VectorArithmetic : Ty.isTaper .f32 = false ∧ Ty.isTaper .i8 = false ∧ tile.ReadyVx {} [.v 1, .v 2, .v 3, .v 4] ∧
    tile.ReadyVx { g1 := 2 } [.v 1, .v 2, .v 3, .v 4] :=
  ⟨rfl, rfl, vx_of (by decide) (by decide) rfl, vx_of (by decide) (by decide) rfl⟩

theorem meets_VectorIntegerOps : Ty.isInt .i64 = true ∧ tile.ReadyVx {} [.v 1, .v 2, .v 3] := ⟨rfl, vx_of (by decide) (by decide) rfl⟩

theorem meets_VectorCompareSelect : tile.ReadyVx {} [.v 1, .v 2, .p 3] ∧ tile.ReadyVx {} [.v 1, .v 2, .p 3, .v 4] :=
  ⟨vx_of (by decide) (by decide) rfl, vx_of (by decide) (by decide) rfl⟩

theorem meets_VectorMoves : tile.ReadyVx {} [.v 1, .v 3] ∧ tile.ReadyVx {} [.s 1, .v 3] ∧ tile.ReadyVx {} [.v 1, .s 2, .v 3] ∧
    tile.ReadyVx {} [.v 1, .v 2, .v 3] ∧ tile.ReadyVx {} [.v 1, .v 2, .s 5, .v 3] ∧
    tile.ReadyTile {} [.v 1, .s 2, .s 3] ∧ tile.ReadyTile {} [.s 1, .s 2, .v 3] ∧ tile.lanesHeld = false :=
  ⟨vx_of (by decide) (by decide) rfl, vx_of (by decide) (by decide) rfl, vx_of (by decide) (by decide) rfl, vx_of (by decide) (by decide) rfl,
    vx_of (by decide) (by decide) rfl, ⟨ready_of (by decide), by decide⟩, ⟨ready_of (by decide), by decide⟩, rfl⟩

theorem meets_ReductionsAndScan : Ty.isTaper .f16 = false ∧ Ty.isInt .i8 = true ∧ tile.ReadyVx {} [.v 1, .v 3] ∧
    tile.ReadyVx { g1 := 2 } [.v 1, .v 3] := ⟨rfl, rfl, vx_of (by decide) (by decide) rfl, vx_of (by decide) (by decide) rfl⟩

theorem meets_VectorVotes : Ty.isInt .i32 = true ∧ tile.ReadyVx {} [.p 2, .p 3] ∧ tile.ReadyVx {} [.p 2, .s 3] ∧
    tile.cur < 96 ∧ tile.GuardFull { g1 := 3 } ∧ tile.GuardWhole { g1 := 3 } ∧ ¬ tile.GuardOn { g1 := 3 } :=
  ⟨rfl, vx_of (by decide) (by decide) rfl, vx_of (by decide) (by decide) rfl, by decide, ⟨by decide, by decide⟩, .inl ⟨by decide, by decide⟩,
    fun h => absurd h.1 (by decide)⟩

theorem meets_VectorSpecialFunctions : Ty.isInt .f32 = false ∧ Ty.isTaper .f32 = false ∧ tile.ReadyVx {} [.v 1, .v 2, .v 3] :=
  ⟨rfl, rfl, vx_of (by decide) (by decide) rfl⟩

theorem meets_VectorConversions : tile.ReadyVx {} [.v 1, .v 3] ∧ tile.ReadyVx {} [.v 1] ∧ Ty.isTaper .t6 = true :=
  ⟨vx_of (by decide) (by decide) rfl, vx_of (by decide) (by decide) rfl, rfl⟩

/-! ### Hypotheses that are met: the BR slot, special registers, traps (05, 01) -/

/-- The agent that acts, changed. -/
def withMe (s : State) (f : Agent → Agent) : State := s.setMe (f s.me)

theorem meets_PrepareResults : tile.Ready {} [.s 1] := ready_of (by decide)

/-- The link stack empty, with 15 entries, full; SPILL 0 and not; the guard not uniform; a delay position. -/
theorem meets_Transfers :
    tile.ReadyXfer {} [] ∧ tile.me.loops = [] ∧ tile.me.links = [] ∧ tile.me.spill = 0 ∧
    (withMe tile fun a => { a with links := List.replicate 15 8 }).ReadyXfer {} [] ∧
    (withMe tile fun a => { a with links := List.replicate 15 8 }).me.links.length < 16 ∧
    (withMe tile fun a => { a with links := List.replicate 16 8 }).ReadyXfer {} [] ∧
    16 ≤ (withMe tile fun a => { a with links := List.replicate 16 8 }).me.links.length ∧
    (withMe tile fun a => { a with links := List.replicate 16 8 }).me.lsbase = 0 :=
  ⟨xfer_of (by decide) (by decide) (by decide), by decide, by decide, by decide, xfer_of (by decide) (by decide) (by decide), by decide,
    xfer_of (by decide) (by decide) (by decide), by decide, by decide⟩

/-- A RET that reads what was spilled. -/
theorem meets_Transfers_ret : ∃ u bs,
    (withMe tile fun a => { a with spill := 1, lsbase := 0x4000 }).ReadyXfer {} [] ∧
    (withMe tile fun a => { a with spill := 1, lsbase := 0x4000 }).stamped = false ∧
    (withMe tile fun a => { a with spill := 1, lsbase := 0x4000 }).loadMine (0x4000 + 8 * ((1 : BitVec 32).zeroExtend 64 - 1)).toNat 8 = .ok u bs :=
  have ⟨u, bs, h, _⟩ := ok_of
    (r := (withMe tile fun a => { a with spill := 1, lsbase := 0x4000 }).loadMine (0x4000 + 8 * ((1 : BitVec 32).zeroExtend 64 - 1)).toNat 8)
    (f := fun _ _ => true) (by decide)
  ⟨u, bs, xfer_of (by decide) (by decide) (by decide), by decide, h⟩

/-- A CALL of a control core that spills. -/
theorem meets_Transfers_spill :
    let s := withMe ctlr fun a => { a with links := List.replicate 16 8, lsbase := 0x4000 }
    s.ReadyXfer {} [] ∧ 96 ≤ s.cur ∧ s.me.loops = [] ∧ s.me.links.length = 16 ∧ s.me.lsbase ≠ 0 ∧
      ∃ u x, s.physStore 0 (s.me.lsbase + 8 * s.me.spill.zeroExtend 64).toNat (toBytes (s.me.links.getLastD 0).toNat 8) = .ok u x ∧ true = true :=
  ⟨xfer_of (by decide) (by decide) (by decide), by decide, by decide, by decide, by decide, ok_of (f := fun _ _ => true) (by decide)⟩

theorem meets_Transfers_checks : tile.GuardFull { g1 := 2 } ∧ ¬ tile.GuardTagged { g1 := 2 } ∧ tile.me.delay = none ∧
    (withMe tile fun a => { a with delay := some { left := 2, target := 0, src := 0 } }).me.delay ≠ none ∧
    (({ delay := some { left := 1, target := 8, src := 0, call := true } } : Agent).delay).any (fun d => decide (d.left ≤ 1) && d.call) = true ∧
    (withMe tile fun a => { a with loops := [{ lc := 1, first := 0, last := 0 }] }).me.loops ≠ [] :=
  ⟨⟨by decide, by decide⟩, fun h => absurd h.1 (by decide), by decide, by decide, by decide, by decide⟩

/-- LOOPSET over one empty bundle with a count of 5, of 0 and above 32 bits, at the outermost level. -/
theorem meets_Loops :
    tile.ReadyXfer {} [.s 2] ∧ tile.ReadyXfer {} [.s 9] ∧ tile.ReadyXfer {} [.s 4] ∧
    (∃ u y, tile.readBody (0 + 1) tile.me.pc tile.me.pc = .ok u y ∧ decide (y = (0x10010, 0x10018)) = true) ∧
    (tile.rs 2).toNat < 2 ^ 32 ∧ tile.rs 2 ≠ 0 ∧ tile.rs 9 = 0 ∧ 2 ^ 32 ≤ (tile.rs 4).toNat ∧ tile.me.loops.length < 6 ∧
    ¬ ∃ l ∈ tile.me.loops, l.last.toNat < (0x10010 : Word).toNat :=
  ⟨xfer_of (by decide) (by decide) (by decide), xfer_of (by decide) (by decide) (by decide), xfer_of (by decide) (by decide) (by decide),
    ok_of (by decide), by decide, by decide, by decide, by decide, by decide, by decide⟩

/-- Six levels, and a level whose body ends before this one's: LOOPBRK 6 with six levels, 1 with none. -/
theorem meets_Loops_bounds :
    let six := List.replicate 6 ({ lc := 2, first := 0, last := 0x10010 } : Loop)
    6 ≤ (withMe tile fun a => { a with loops := six }).me.loops.length ∧
    (∃ l ∈ (withMe tile fun a => { a with loops := [{ lc := 1, first := 0, last := 8 }] }).me.loops, l.last.toNat < (0x10010 : Word).toNat) ∧
    (6 : BitVec 3).toNat ≤ six.length ∧ (withMe tile fun a => { a with loops := six }).ReadyXfer {} [] ∧ tile.ReadyXfer {} [] ∧
    tile.me.loops.length < (1 : BitVec 3).toNat ∧ loopEnd [{ lc := 1, first := 0, last := 8 }] 8 = ([], none) ∧
    loopEnd [{ lc := 2, first := 4, last := 8 }] 8 = ([{ lc := 1, first := 4, last := 8 }], some 4) :=
  ⟨by decide, by decide, by decide, xfer_of (by decide) (by decide) (by decide), xfer_of (by decide) (by decide) (by decide), by decide, by decide,
    by decide⟩

/-- Each condition of the task instructions: a phase bit that is 0 with s9[0] 0; a time that has come; debug on die 0; work that
displaces nothing. -/
theorem meets_TaskInstructions :
    tile.ReadyBr {} [] ∧ tile.cur < 96 ∧ tile.GuardTagged {} ∧ tile.me.missed = false ∧ tile.Full [.s 9] ∧
    (tile.rs 9).toNat ≤ tile.timeAt tile.me.issued ∧ tile.Full [.s 1, .s 9] ∧ (tile.rs 1).toNat % 16 = 0 ∧ (tile.rs 1).toNat < 2 ^ 56 ∧
    tile.watchLate (tile.rs 1).toNat = false ∧ tile.Full [.s 4, .s 9] ∧ 2 ^ 56 ≤ (tile.rs 4).toNat ∧
    (∃ u bs, tile.loadMine (tile.rs 1).toNat 8 = .ok u bs ∧
      decide ((BitVec.ofNat 64 (ofBytes bs)).getLsbD 63 = (tile.rs 9).getLsbD 0) = true) ∧
    tile.Full [.s 2, .s 9] ∧ (tile.rs 2).toNat % 16 ≠ 0 ∧ ({ tile with dbgEn := 1 } : State).dbgEn.getLsbD 0 = true ∧
    tile.dbgEn.getLsbD 0 = false ∧ tile.myCore.task = some task0 ∧ tile.stamped = false ∧ tile.yields task0 = false :=
  ⟨⟨ready_of (by decide), by decide⟩, by decide, ⟨by decide, by decide⟩, by decide, full_of (by decide), by decide, full_of (by decide), by decide,
    by decide, by decide, full_of (by decide), by decide, ok_of (by decide), full_of (by decide), by decide, by decide, by decide, by decide,
    by decide, by decide⟩

/-- A task that work of its die displaces: a waiting launch of greater priority. -/
def tileBusy : State :=
  { tile with
    launches := [{ num := 0, depth := 0, prio := 3, ctx := 0, rec_ := 0, table := 0, id := 0, origin := { by_ := .control 0, die := 0 }, level := 2
                   place := 0, active := true },
                 { num := 1, depth := 0, prio := 0, ctx := 0, rec_ := 0, table := 1, id := 1, origin := { by_ := .control 0, die := 0 }, level := 2
                   place := 1, active := true }]
    launchNext := 2, dies := [(0, { saveCnt := 100 })] }

set_option maxRecDepth 20000 in
theorem meets_TaskInstructions_yield : tileBusy.myCore.task = some task0 ∧ tileBusy.stamped = false ∧ tileBusy.yields task0 = true ∧
    72 < (tileBusy.die task0.die).freeSlots ∧ task0.stopAsked = none := by decide

/-- A control core with a record in its die's ring and with none; the management controller with a source pending. -/
theorem meets_SystemInstructions :
    ctlr.ReadyBr {} [] ∧ 96 ≤ ctlr.cur ∧ ctlr.cur < 100 ∧ tile.cur < 96 ∧ (ctlr.die 0).evqhead = (ctlr.die 0).evqtail ∧ ctlr.Full [.s 3] ∧
    ({ ctlr with dies := [(0, { evqtail := 1 })] } : State).ReadyBr {} [] ∧
    (({ ctlr with dies := [(0, { evqtail := 1 })] } : State).die 0).evqhead ≠ (({ ctlr with dies := [(0, { evqtail := 1 })] } : State).die 0).evqtail ∧
    ({ mgmt with sideMsg := true } : State).ReadyBr {} [] ∧ 100 ≤ mgmt.cur ∧ ({ mgmt with sideMsg := true } : State).irqs ≠ [] :=
  ⟨⟨ready_of (by decide), by decide⟩, by decide, by decide, by decide, by decide, full_of (by decide), ⟨ready_of (by decide), by decide⟩, by decide,
    ⟨ready_of (by decide), by decide⟩, by decide, by decide⟩

theorem meets_SpecialRegisters :
    tile.Ready {} [.s 3] ∧ tile.myCore.task = some task0 ∧ task0.mode.getLsbD 0 = false ∧
    ({ task0 with mode := 1, frameLen := 100 } : Task).mode.getLsbD 0 = true ∧ ctlr.Ready {} [.s 3] ∧ 96 ≤ ctlr.cur ∧
    ((ctlr.die 0).evqtail - (0 : Word).setWidth 32).toNat ≤ ((ctlr.die 0).evqtail - (ctlr.die 0).evqhead).toNat ∧
    ((ctlr.die 0).evqtail - (ctlr.die 0).evqhead).toNat < ((ctlr.die 0).evqtail - (ctlr.rs 2).setWidth 32).toNat :=
  ⟨ready_of (by decide), by decide, by decide, by decide, ready_of (by decide), by decide, by decide, by decide⟩

/-- Nothing in flight; a trap with CAUSE.INH 0 and 1; an interrupt that is taken, and one that is not. -/
theorem meets_ExceptionEntry :
    ctlr.me.flight = [] ∧ 96 ≤ ctlr.cur ∧ ctlr.me.inh = false ∧ (withMe ctlr fun a => { a with inh := true }).me.inh = true ∧
    tile.me.flight = [] ∧ tile.cur < 96 ∧ mgmt.cur = 100 ∧ ctlr.ReadyBr {} [] ∧ ({ mgmt with sideMsg := true } : State).irqs = [2] ∧
    (({ mgmt with sideMsg := true } : State).agent 100).run = .running ∧ (mgmt.agent 100).inh = false ∧ (mgmt.agent 100).delay = none ∧
    (mgmt.agent 100).empties = 0 ∧ (mgmt.agent 100).pend = none ∧ (mgmt.agent 100).asleep = false ∧ ({ mgmt with sideMsg := true } : State).paused = false ∧
    ({ mgmt with sideMsg := true, clk := some { target := 1, phase := 2 } } : State).paused = true ∧
    ({ mgmt with sideMsg := true, clk := some { target := 1, phase := 2 } } : State).irqs = [2] :=
  ⟨by decide, by decide, by decide, by decide, by decide, by decide, by decide, ⟨ready_of (by decide), by decide⟩, by decide, by decide, by decide,
    by decide, by decide, by decide, by decide, by decide, by decide, by decide⟩

/-! ### Hypotheses that are met: the MS slot (07) -/

/-- A load and a store of a task at 0x4000, where neither waits, through its translation; the same by a control core. -/
theorem meets_ScalarAccesses :
    Ty.isInt .i64 = true ∧ tile.Ready {} [.s 1, .s 3] ∧ GoodAddr 8 (tile.rs 1 + (0 : BitVec 18).signExtend 64) ∧ tile.cur < 96 ∧
    tile.myCore.slog = [] ∧ (∃ u p, tile.reach tile.issuer .read 0x4000 8 = .ok u p ∧ decide (p = (0x4000, 0) ∧ u.blockHit 0x4000 = false) = true) ∧
    tile.stamped = false ∧ (∃ u p, tile.reach tile.issuer .write 0x4000 8 = .ok u p ∧ decide (p = (0x4000, 0)) = true) ∧
    ctlr.Ready {} [.s 1, .s 3] ∧ 96 ≤ ctlr.cur ∧ (∃ u bs, ctlr.physLoad 0 0x4000 8 = .ok u bs ∧ true = true) ∧
    ∃ u x, ctlr.physStore 0 0x4000 (toBytes 7 8) = .ok u x ∧ true = true :=
  ⟨rfl, ready_of (by decide), by unfold GoodAddr; decide, by decide, by decide, ok_of (by decide), by decide, ok_of (by decide), ready_of (by decide), by decide,
    ok_of (f := fun _ _ => true) (by decide), ok_of (f := fun _ _ => true) (by decide)⟩

/-- The last 8 bytes of the scratchpad. -/
theorem meets_ScalarAccesses_local :
    let s := withMe tile fun a => { a with regs := a.regs.write (.s 1) (.w 0x17FFF8) }
    s.ReadyTile {} [.s 1, .s 3] ∧ GoodLocal 8 (s.rs 1 + (0 : BitVec 18).signExtend 64) ∧
      (∃ u x, s.fillLines s.cur [0x17FFF8] = .ok u x ∧ (u.myCore.badWord .pad 0x17FFF8 8).isNone = true) ∧
      (let w := s.modCore fun k => { k with spoilt := [(.pad, 0x2FFFF)] }
       ∃ u x, w.fillLines w.cur [0x17FFF8] = .ok u x ∧ (u.myCore.badWord .pad 0x17FFF8 8 == some 0x17FFF8 && u.canPost (dieOf u.issuer.agent)) = true) ∧
      s.localWaits false 8 [0x17FFF8] = false ∧ s.localWaits true 8 [0x17FFF8] = false ∧ s.stamped = false ∧ s.localLogged 8 [0x17FFF8] = false :=
  ⟨⟨ready_of (by decide), by decide⟩, by unfold GoodLocal; decide, ok_of (f := fun u _ => (u.myCore.badWord .pad 0x17FFF8 8).isNone) (by decide),
    ok_of (f := fun u _ => u.myCore.badWord .pad 0x17FFF8 8 == some 0x17FFF8 && u.canPost (dieOf u.issuer.agent)) (by decide), by decide, by decide,
    by decide, by decide⟩

/-- 11 R307: a word of the scratchpad struck by an error, which a store of its 8 bytes mends and one of 4 does not. -/
theorem test_spoiltWord :
    let k : Core := { spoilt := [(.pad, 3)] }
    k.badWord .pad 20 8 = some 24 ∧ k.badWord .pad 16 8 = none ∧ k.badWord .acc 24 8 = none ∧ (k.putPad 24 (List.replicate 8 1)).spoilt = [] ∧
      (k.putPad 24 [1, 2, 3, 4]).spoilt = [(.pad, 3)] := by decide

/-- 11 R307: MWLD of a slot with a spoilt word ends with fault address 0, OSLD with the local offset. -/
theorem test_spoiltMatrix :
    let k : Core := { spoilt := [(.slot, 4096), (.pad, 17)] }
    k.readsBad (.mwld .t8 1 0) = some 0 ∧ k.readsBad (.mwld .t8 0 0) = none ∧ k.readsBad (.osld 0 0 256) = some 136 := by decide

/-- No element, and one, through each form of address. -/
theorem meets_VectorLoads :
    tile.ReadyLanes { g1 := 4, g2 := 2 } [.v 3, .s 1] ∧ tile.activeElems { g1 := 4, g2 := 2 } .i64 = [] ∧
    tile.ReadyLanes { g1 := 2 } [.v 3, .s 1] ∧ tile.myCore.slog = [] ∧ tile.activeElems { g1 := 2 } .i64 = [0] ∧
    GoodAddr 8 (tile.rs 1 + (0 : BitVec 18).signExtend 64 + BitVec.ofNat 64 (0 * 8)) ∧ GoodAddr 8 (tile.rs 1 + BitVec.ofNat 64 0 * tile.rs 3) ∧
    GoodAddr 8 (tile.rs 1 + BitVec.ofNat 64 (elemOf (tile.rv 2) 64 0 * 8)) ∧ tile.Full [.s 3] ∧ tile.Full [.v 2] ∧
    (∃ u es, tile.loadElems 0 8 [0x4000] = .ok u es ∧ (es.all fun e => !e.missed) = true) ∧
    tile.stamped = false ∧ (∃ u p, tile.reach tile.issuer .read 0x4000 8 = .ok u p ∧ (!hintOver 0 p.2 && (let w := u.cacheLoad u.issuer 0x4000 p.1 p.2 0
      !w.stamped && decide (w.myCore.hintcnt = tile.myCore.hintcnt) && okB (w.loadElems 0 8 []) fun _ _ => true)) = true) :=
  ⟨⟨by decide, ⟨by decide, by decide⟩, fun h => absurd h.1 (by unfold State.GuardWhole State.GuardTagged; decide), full_of (by decide)⟩, by decide,
    lanes_of (by decide) (by decide), by decide, by decide, by unfold GoodAddr; decide, by unfold GoodAddr; decide, by unfold GoodAddr; decide +kernel,
    full_of (by decide), full_of (by decide), ok_of (by decide), by decide, ok_of (by decide)⟩

theorem meets_VectorStores :
    tile.ReadyLanes { g1 := 2 } [.v 1, .s 1] ∧ tile.myCore.slog = [] ∧ tile.stamped = false ∧ tile.activeElems { g1 := 2 } .i64 = [0] ∧
    tile.activeElems { g1 := 4, g2 := 2 } .i64 = [] ∧ GoodAddr 8 (tile.rs 1) ∧ tile.Full [.s 3] ∧ tile.Full [.v 2] ∧
    (∃ u x, tile.performOp tile.issuer 0 (.store [(0x4000, elemBytesOf tile .i64 1 0)]) = .ok u x ∧ true = true) ∧
    (∃ u p, tile.reach tile.issuer .write 0x4000 1 = .ok u p ∧ (!hintOver 3 p.2 &&
      (let w := (u.physWrite p.1 [7]).cacheStore tile.issuer 0x4000 p.1 p.2 3
       decide ((w.core 0).hintcnt = (tile.core 0).hintcnt) && okB (w.performOp tile.issuer 3 (.store [(0x4001, [8])])) fun _ _ => true)) = true) ∧
    (match tile.reach tile.issuer .write 0x40000000 1 with
      | .fail _ _ _ => true
      | .ok _ _ | .wait _ _ => false) = true :=
  ⟨lanes_of (by decide) (by decide), by decide, by decide, by decide, by decide, by unfold GoodAddr; decide, full_of (by decide),
    full_of (by decide), ok_of (f := fun _ _ => true) (by decide), ok_of (by decide +kernel), by decide +kernel⟩

theorem meets_VectorLocal :
    tile.ReadyLanes { g1 := 2 } [.v 1, .s 1] ∧ tile.stamped = false ∧ tile.activeElems { g1 := 2 } .i64 = [0] ∧
    tile.activeElems { g1 := 4, g2 := 2 } .i64 = [] ∧ GoodLocal 8 (tile.rs 1) ∧ tile.Full [.s 3] ∧ tile.Full [.v 2] ∧
    (∃ u x, tile.fillLines tile.cur [0x4000] = .ok u x ∧ (u.myCore.badWord .pad 0x4000 8).isNone = true) ∧ tile.localWaits false 8 [0x4000] = false ∧
    tile.localWaits true 8 [0x4000] = false ∧ tile.localLogged 8 [0x4000] = false :=
  ⟨lanes_of (by decide) (by decide), by decide, by decide, by decide, by unfold GoodLocal; decide, full_of (by decide), full_of (by decide),
    ok_of (f := fun u _ => (u.myCore.badWord .pad 0x4000 8).isNone) (by decide), by decide, by decide, by decide⟩

/-- The least address out of range, one out of alignment, the least scratchpad offset too high, one out of alignment. -/
theorem meets_AddressChecks :
    let at_ (x : Word) : State := withMe tile fun a => { a with regs := a.regs.write (.s 1) (.w x) }
    (at_ 0x100000000000000).Ready {} [.s 1, .s 3] ∧ 2 ^ 56 ≤ ((at_ 0x100000000000000).rs 1).toNat ∧
    ((at_ 0xFFFFFFFFFFFFFC).rs 1).toNat < 2 ^ 56 ∧ ((at_ 0xFFFFFFFFFFFFFC).rs 1).toNat % 8 ≠ 0 ∧
    0x180000 < ((at_ 0x17FFFC).rs 1).toNat + 8 ∧ ((at_ 0x17FFF4).rs 1).toNat + 8 ≤ 0x180000 ∧ ((at_ 0x17FFF4).rs 1).toNat % 8 ≠ 0 :=
  ⟨ready_of (by decide), by decide, by decide, by decide, by decide, by decide, by decide⟩

/-- The same of atomics, WAITMEM and barrier objects; a vector whose element 0 is in range and element 1 is not, in memory and in the scratchpad. -/
theorem meets_AddressChecks_more :
    let at_ (x : Word) : State := withMe tile fun a => { a with regs := a.regs.write (.s 1) (.w x) }
    (at_ 0x100000000000000).Ready {} [.s 1, .s 2, .s 5, .s 3] ∧ (at_ 0x100000000000000).Full [.s 3, .s 3] ∧
    ((at_ 0xFFFFFFFFFFFFF8).rs 1).toNat < 2 ^ 56 ∧ ((at_ 0xFFFFFFFFFFFFF8).rs 1).toNat % 16 ≠ 0 ∧ ((at_ 0xFFFFFFFFFFFFFC).rs 1).toNat % 8 ≠ 0 ∧
    (at_ 0xFFFFFFFFFFFFF8).ReadyLanes { g1 := 1 } [.v 3, .s 1] ∧ 1 ∈ (at_ 0xFFFFFFFFFFFFF8).activeElems { g1 := 1 } .i64 ∧
    ¬ GoodAddr 8 ((at_ 0xFFFFFFFFFFFFF8).rs 1 + (0 : BitVec 18).signExtend 64 + BitVec.ofNat 64 (1 * 8)) ∧
    GoodAddr 8 ((at_ 0xFFFFFFFFFFFFF8).rs 1 + (0 : BitVec 18).signExtend 64 + BitVec.ofNat 64 (0 * 8)) ∧
    ¬ GoodAddr 8 ((at_ 0xFFFFFFFFFFFFF8).rs 1 + BitVec.ofNat 64 1 * (at_ 0xFFFFFFFFFFFFF8).rs 3) ∧
    GoodAddr 8 ((at_ 0xFFFFFFFFFFFFF8).rs 1 + BitVec.ofNat 64 0 * (at_ 0xFFFFFFFFFFFFF8).rs 3) ∧
    ¬ GoodLocal 8 ((at_ 0x17FFF8).rs 1 + (0 : BitVec 18).signExtend 64 + BitVec.ofNat 64 (1 * 8)) ∧
    GoodLocal 8 ((at_ 0x17FFF8).rs 1 + (0 : BitVec 18).signExtend 64 + BitVec.ofNat 64 (0 * 8)) ∧
    ¬ GoodLocal 8 ((at_ 0x17FFFC).rs 1 + BitVec.ofNat 64 (elemOf ((at_ 0x17FFFC).rv 2) 64 0 * 8)) ∧
    ¬ GoodAddr 8 ((at_ 0xFFFFFFFFFFFFFC).rs 1 + BitVec.ofNat 64 (elemOf ((at_ 0xFFFFFFFFFFFFFC).rv 2) 64 0 * 8)) ∧
    (at_ 0x17FFF8).Full [.s 3] ∧ (at_ 0x17FFF8).Full [.v 2] :=
  ⟨ready_of (by decide), full_of (by decide), by decide, by decide, by decide, lanes_of (by decide) (by decide), by decide +kernel,
    by unfold GoodAddr; decide, by unfold GoodAddr; decide, by unfold GoodAddr; decide, by unfold GoodAddr; decide, by unfold GoodLocal; decide,
    by unfold GoodLocal; decide, by unfold GoodLocal; decide +kernel, by unfold GoodAddr; decide +kernel, full_of (by decide), full_of (by decide)⟩

theorem meets_Atomics :
    tile.Ready {} [.s 1, .s 2, .s 5, .s 3] ∧ tile.stamped = false ∧ tile.myCore.slog = [] ∧ GoodAddr 8 (tile.rs 1) ∧
    (∃ u p, tile.reach tile.issuer .both 0x4000 8 = .ok u p ∧ decide (p = (0x4000, 0)) = true) ∧
    ctlr.Ready {} [.s 1, .s 2, .s 5, .s 3] ∧ placeOf (ctlr.rs 1).toNat ≠ .sram ∧
    (∃ u p, ctlr.reach ctlr.issuer .both 0x4000 8 = .ok u p ∧ decide (p = (0x4000, 0)) = true) ∧
    tile.Ready {} [.s 1, .s 2, .s 3, .s 4, .s 5] ∧ GoodAddr 16 (tile.rs 1) ∧
    (∃ u p, tile.reach tile.issuer .both 0x4000 16 = .ok u p ∧ decide (p = (0x4000, 0)) = true) ∧
    tile.ReadyLanes { g1 := 2 } [.v 1, .s 1] ∧ tile.activeElems { g1 := 2 } .i64 = [0] ∧ tile.activeElems { g1 := 4, g2 := 2 } .i64 = [] ∧
    (∃ u x, tile.performOp tile.issuer 0 (.atomic aRed 8 [(0x4000, 1, 0)]) = .ok u x ∧ true = true) ∧ 0 < aRed ∧ (8 : Nat) < 16 ∧
    (∃ u p, tile.reach tile.issuer .red 0x4000 8 = .ok u p ∧ decide (p = (0x4000, 0)) = true) ∧
    (0 : Nat) < 2 ^ 1 ∧ (1 : Nat) < 2 ^ 1 ∧
    (∃ u x, tile.performOp tile.issuer 0 (.atomic (aRed + aFmin) 4 [(0x4000, 0x3F800000, 0)]) = .ok u x ∧ true = true) :=
  ⟨ready_of (by decide), by decide, by decide, by unfold GoodAddr; decide, ok_of (by decide), ready_of (by decide), by decide, ok_of (by decide),
    ready_of (by decide), by unfold GoodAddr; decide, ok_of (by decide), lanes_of (by decide) (by decide), by decide, by decide,
    ok_of (f := fun _ _ => true) (by decide), by decide, by decide, ok_of (by decide), by decide, by decide,
    ok_of (f := fun _ _ => true) (by decide +kernel)⟩

/-- Two NaNs, one of each side alone; -0 below +0, 1 below 2, and neither of 1 and 1. -/
theorem meets_Atomics_f32 :
    let nan (x : Nat) : Bool := (f32.decode x).isNan
    let below (x y : Nat) : Prop :=
      (f32.decode x).lt (f32.decode y) = true ∨
        ((f32.decode x).eqv (f32.decode y) = true ∧ (f32.decode x).sign = true ∧ (f32.decode y).sign = false)
    nan 0xFFFFFFFF = true ∧ nan 0x7F800001 = true ∧ nan 0 = false ∧ nan 0xFF800000 = false ∧ below 0x80000000 0 ∧ ¬ below 0 0x80000000 ∧
      below 0x3F800000 0x40000000 ∧ ¬ below 0x3F800000 0x3F800000 ∧ (0xFFFFFFFF : Nat) < 2 ^ 32 := by decide +kernel

/-- An arrival that completes a barrier object whose target is 1, and one at an object with target 0. -/
theorem meets_BarrierInstructions :
    tile.Ready {} [.s 1, .s 2, .s 3] ∧ tile.stamped = false ∧ tile.myCore.slog = [] ∧ GoodAddr 16 (tile.rs 1) ∧
    (∃ u p, tile.reach tile.issuer .write 0x4000 16 = .ok u p ∧ decide (p = (0x4000, 0)) = true) ∧
    (∃ u x, ctlr.physStore 0 0x4000 (toBytes 0 8 ++ toBytes 5 8) = .ok u x ∧ true = true) ∧ placeOf (ctlr.rs 1).toNat ≠ .sram ∧
    (∃ u old, tile.arriveInTurn tile.issuer 0x4000 1 = .ok u old ∧ decide (old = 0) = true) ∧
    (∃ u p, tile.reach tile.issuer .both 0x4000 16 = .ok u p ∧ decide (p.1 = 0x4000 ∧ u.physWord 0x4008 8 = 1) = true) ∧
    ∃ u p, tile.reach tile.issuer .both 0x5000 16 = .ok u p ∧ decide (p.1 = 0x5000 ∧ u.physWord 0x5008 8 = 0) = true :=
  ⟨ready_of (by decide), by decide, by decide, by unfold GoodAddr; decide, ok_of (by decide), ok_of (f := fun _ _ => true) (by decide), by decide,
    ok_of (by decide), ok_of (by decide), ok_of (by decide)⟩

/-- A stamped task whose page is in the TLB and whose addresses are in a ready L2 window. -/
def stampedL2 : State :=
  { tile with cores := [(0, { task := some { task0 with mode := 1 } })]
              dies := [(0, { l2win := [(0, 0x403)], tlb := [TlbEntry.ofLeaf 0 0x4000 0x3F 2] })] }

/-- A WAITMEM that is met; nothing outstanding, and an access that FENCE waits for; a fabric request that FREL waits for. -/
theorem meets_HeldInstructions :
    tile.Ready {} [] ∧ tile.Full [.s 1, .s 2, .s 5, .s 3] ∧ GoodAddr 8 (tile.rs 1) ∧
    (∃ u bs, tile.loadMine 0x4000 8 = .ok u bs ∧ icond .ne (BitVec.ofNat 64 (ofBytes bs) &&& tile.rs 5) (tile.rs 2) = true) ∧
    tile.watchLate (tile.rs 1).toNat = false ∧ tile.watchLatency (tile.rs 1).toNat = none ∧
    stampedL2.watchLatency 0x4000 = some 180 ∧ stampedL2.watchLate 0x4000 = false ∧ tile.me.delay = none ∧
    (withMe ctlr fun a => { a with delay := some { left := 2, target := 0, src := 0 } }).me.delay ≠ none ∧ tile.memQuiet = true ∧ tile.regQuiet = true ∧ tile.engQuiet = true ∧
    (withMe tile fun a => { a with flight := [{ reg := .s 3, val := .w 0, load := true }] }).memQuiet = false ∧ tile.myOutstanding = 0 ∧
    ({ tile with cores := [(0, { task := some { task0 with outstanding := 1 } })] } : State).myOutstanding ≠ 0 :=
  ⟨ready_of (by decide), full_of (by decide), by unfold GoodAddr; decide, ok_of (by decide), by decide, by decide, by decide, by decide, by decide,
    by decide, by decide, by decide, by decide, by decide, by decide, by decide⟩

/-- A copy command of one element within the scratchpad, and a matrix command that zeroes accumulator 0. -/
def copy0 : Rec := 0x100016101 + 0x100 * 2 ^ 64 + 0x200 * 2 ^ 128
def mcmd0 : Rec := 0x07 + 6 * 2 ^ 8

/-- CQ with room and full; a pair; a chip of the pod and one above it. -/
theorem meets_PushesAndRemoteAtomics :
    tile.Ready {} [.p 3] ∧ tile.Full ((List.range 8).map fun k => .s (56 + k)) ∧ tile.cur < 96 ∧
    ((tile.pushTo 1 copy0 0).map (·.2)) = some true ∧
    (((tile.modCore fun k => { k with cq := List.replicate 16 { id := 0, cmd := copy0, origin := { by_ := .task 0, die := 0 } } }).pushTo 1 copy0 0).map
      (·.2)) = some false ∧
    tile.Full ((List.range 16).map fun k => .s (48 + k)) ∧ (mcmdOp mcmd0).any tile.myCore.borrowed = false ∧
    ctlr.cur < 100 ∧ 4 ≤ (8 : BitVec 6).toNat ∧
    tile.Ready {} [.s 1, .s 2, .s 3, .s 9, .s 5] ∧ GoodAddr 8 (tile.rs 1) ∧ 64 * (tile.fab.herdm1.toNat + 1) ≤ (tile.rs 3).toNat ∧
    (tile.rs 2).toNat < 64 * (tile.fab.herdm1.toNat + 1) ∧ tile.dbgHalt = false ∧ ({ tile with dbgHalt := true } : State).dbgHalt = true :=
  ⟨ready_of (by decide), full_of (by decide), by decide, by decide +kernel, by decide +kernel, full_of (by decide), by decide +kernel, by decide, by decide,
    ready_of (by decide), by unfold GoodAddr; decide, by decide, by decide, by decide, by decide⟩

/-- A block of two lines at 0x4000 that is pinned in the context of the task that runs, beside one that is cached and not pinned; none. -/
def pinned0 : State :=
  tile.modCore fun k => { k with blocks := [{ addr := 0x8000, lines := 1, pinned := false, used := 1 }, { addr := 0x4000, lines := 2, used := 2 }] }

theorem meets_BlockInstructions :
    tile.ReadyTile {} [.s 1, .s 3] ∧ (tile.rs 1).toNat % 128 = 0 ∧ (tile.rs 1).toNat + 128 * (63 : BitVec 6).toNat < 2 ^ 56 ∧
    tile.myCore.blocks = [] ∧ tile.stamped = false ∧ pinned0.ReadyTile {} [.s 1, .s 3] ∧
    (∃ k ∈ pinned0.myCore.blocks, k.pinned = true ∧ k.here = true ∧ k.ctx = pinned0.myTask.ctx ∧
      k.addr + (k.lines - 1) = (pinned0.rs 1).toNat + (1 : BitVec 6).toNat) ∧
    (∃ k ∈ pinned0.myCore.blocks, k.pinned = false) ∧
    (let s := withMe pinned0 fun a => { a with regs := a.regs.write (.s 1) (.w 0x4001) }
     s.ReadyTile {} [.s 1] ∧ ∃ k ∈ s.myCore.blocks, k.pinned = true ∧ k.addr + (k.lines - 1) = (s.rs 1).toNat ∧ k.here = true) ∧
    ({ addr := 0x4000, lines := 2, used := 1 } : Block).used ≠ 0 ∧ (3 : BitVec 6) ≠ 0 :=
  ⟨⟨ready_of (by decide), by decide⟩, by decide, by decide, by decide, by decide, ⟨ready_of (by decide), by decide⟩, by decide, by decide,
    ⟨⟨ready_of (by decide), by decide⟩, by decide⟩, by decide, by decide⟩

/-- A region that may be mapped, and one that is mapped with a dirty line. -/
theorem meets_RegionInstructions :
    tile.ReadyTile {} [.s 1, .s 1, .s 1] ∧ tile.regionHeld 0 = false ∧ tile.myCore.mapBad 0 0x4000 0x4000 0x1000 = none ∧
    tile.myCore.regions.get none 0 = none ∧
    (let s := tile.modCore fun k => { k with regions := [(0, some { base := 0x4000, gbase := 0x8000, size := 0x1000, filled := [0], dirty := [0] })] }
     s.myCore.regions.get none 0 = some { base := 0x4000, gbase := 0x8000, size := 0x1000, filled := [0], dirty := [0] } ∧
       s.regionHeld 0 = false ∧ s.myCore.spoilt = [] ∧ s.ReadyTile {} [.s 0, .s 0, .s 0] ∧ GoodAddr 16 (s.rs 1)) :=
  ⟨⟨ready_of (by decide), by decide⟩, by decide, by decide, by decide, by decide, by decide, by decide, ⟨ready_of (by decide), by decide⟩,
    by unfold GoodAddr; decide⟩

/-! ### Hypotheses that are met: the matrix queue, engines (08) -/

/-- The core of `tile`, changed. -/
def withCore (s : State) (f : Core → Core) : State := s.modCore f

/-- Slot 0 free and claimed; the highest slot the lowest that is free; none free; a queue that names accumulator 3. -/
theorem meets_MatrixSlots :
    let all (n : Nat) : State := withCore tile fun k => { k with claims := (List.range n).map fun i => (i, .claimed) }
    let busy : State := withCore tile fun k => { k with mq := [{ id := 0, op := .maccz false 3, ready := 0 }] }
    tile.ReadyTile {} [.s 3] ∧ tile.myCore.tq = [] ∧ tile.myCore.claim 0 = .free ∧ (all 1).myCore.claim 0 ≠ .free ∧
    (all 15).myCore.claim 15 = .free ∧ (∀ j, j < 15 → (all 15).myCore.claim j ≠ .free) ∧ (∀ m, m < 16 → (all 16).myCore.claim m ≠ .free) ∧
    tile.myCore.mq.length < 32 ∧ (∀ e ∈ tile.myCore.mq, e.op.acc ≠ some 3) ∧ (∃ e ∈ busy.myCore.mq, e.op.acc = some 3) ∧
    tile.myCore.mq = [] ∧ busy.myCore.mq ≠ [] :=
  ⟨⟨ready_of (by decide), by decide⟩, by decide, by decide, by decide, by decide, by decide, by decide, by decide, by decide, by decide, by decide,
    by decide⟩

/-- Two slots loaded, the latch ordered for t8, 31 entries queued; the last bytes of the scratchpad. -/
def tileMx : State :=
  withCore tile fun k =>
    { k with claims := [(0, .loaded), (1, .filling)], latchOrder := some .t8
             mq := List.replicate 31 { id := 0, op := .maccz false 3, ready := 0, command := true } }

theorem meets_MatrixEnters :
    tileMx.ReadyTile {} [.s 1, .s 3, .s 9, .v 1, .v 3] ∧ tileMx.myCore.tq = [] ∧ tileMx.myCore.mq.length < 32 ∧ tileMx.myCore.claim 0 ≠ .free ∧
    (∀ m ∈ windowOf .t6 0, tileMx.myCore.claim m = .filling ∨ tileMx.myCore.claim m = .loaded) ∧
    (∃ m ∈ windowOf .t6 1, ¬ (tileMx.myCore.claim m = .filling ∨ tileMx.myCore.claim m = .loaded)) ∧
    tileMx.myCore.latchOrder = some .t8 ∧ tileMx.myCore.latchOrder ≠ some .i8 ∧ tileMx.myCore.fmt 0 = (Ty.t8 == .i8) ∧
    (withCore tileMx fun k => { k with accInt := [(0, true)] }).myCore.fmt 0 ≠ (Ty.t8 == .i8) ∧ tileMx.myCore.slog = [] :=
  ⟨⟨ready_of (by decide), by decide⟩, by decide, by decide, by decide, by decide, by decide, by decide, by decide, by decide, by decide, by decide⟩

/-- The ranges of OSLD, MACCST and MACCLD: 128 bytes at 0x4000, and the last row of 1 KiB of the scratchpad. -/
theorem meets_MatrixEnters_ranges :
    (tileMx.rs 1).toNat % 128 = 0 ∧ (tileMx.rs 3).toNat % 128 = 0 ∧ (tileMx.rs 3).toNat ≠ 0 ∧ (tileMx.rs 3).toNat ≤ 32768 ∧
    (tileMx.rs 1).toNat + (tileMx.rs 3).toNat ≤ 0x180000 ∧ tileMx.myCore.mqBlocks 0x4000 128 false = false ∧
    (∃ u x, tileMx.fillLines tileMx.cur (lineOffs 0x4000 128) = .ok u x ∧ true = true) ∧ 0x17FC00 % 128 = 0 ∧
    0x17FC00 + 1024 * rowCount (tileMx.rs 9) ≤ 0x180000 ∧ tileMx.myCore.mqBlocks 0x17FC00 1024 true = false ∧
    ∃ u x, tileMx.fillLines tileMx.cur (lineOffs 0x17FC00 1024) = .ok u x ∧ true = true :=
  ⟨by decide, by decide, by decide, by decide, by decide, by decide, ok_of (f := fun _ _ => true) (by decide), by decide, by decide, by decide,
    ok_of (f := fun _ _ => true) (by decide)⟩

/-- What is refused: an operand slot that is free and one that is claimed, bytes of OSLD out of alignment, of a length that is none, past the end
of the scratchpad, and for a free slot; rows out of alignment and past the end. -/
theorem meets_MatrixEnters_refusals :
    let r (x y : Word) : State := withMe tileMx fun a => { a with regs := (a.regs.write (.s 1) (.w x)).write (.s 3) (.w y) }
    let full (m : Nat) : Prop := tileMx.myCore.claim m = .filling ∨ tileMx.myCore.claim m = .loaded
    let sized (n : Nat) : Prop := n % 128 = 0 ∧ n ≠ 0 ∧ n ≤ 32768
    ¬ full 2 ∧ ¬ ((withCore tileMx fun k => { k with claims := [(2, .claimed)] }).myCore.claim 2 = .filling ∨
      (withCore tileMx fun k => { k with claims := [(2, .claimed)] }).myCore.claim 2 = .loaded) ∧
    (r 0x4001 128).ReadyTile {} [.s 1, .s 3, .s 9, .v 1, .v 3] ∧ ((r 0x4001 128).rs 1).toNat % 128 ≠ 0 ∧ ((r 0x4000 128).rs 1).toNat % 128 = 0 ∧
    ¬ sized ((r 0x4000 0).rs 3).toNat ∧ ¬ sized ((r 0x4000 32896).rs 3).toNat ∧ sized ((r 0x17FF80 256).rs 3).toNat ∧
    0x180000 < ((r 0x17FF80 256).rs 1).toNat + ((r 0x17FF80 256).rs 3).toNat ∧ ((r 0x17FF80 128).rs 1).toNat + ((r 0x17FF80 128).rs 3).toNat ≤ 0x180000 ∧
    (r 0x4000 128).myCore.claim 2 = .free ∧ ((r 0 1).rs 3).toNat % 128 ≠ 0 ∧ ((r 0 0x17FC80).rs 3).toNat % 128 = 0 ∧
    0x180000 < ((r 0 0x17FC80).rs 3).toNat + 1024 * rowCount ((r 0 0x17FC80).rs 9) ∧ tileMx.myCore.tq = [] ∧ tileMx.myCore.mq.length < 32 :=
  ⟨by decide, by decide, ⟨ready_of (by decide), by decide⟩, by decide, by decide, by decide, by decide, by decide, by decide, by decide, by decide,
    by decide, by decide, by decide, by decide, by decide⟩

/-- An entry of each operation, not started; one that is; a row that no row of an operand of one row is. -/
theorem meets_MatrixQueue :
    let entry (o : MatrixOp) : MatrixEntry := { id := 0, op := o, ready := 0 }
    let with_ (o : MatrixOp) : State := withCore tile fun k => { k with mq := [entry o], claims := [(0, .filling)] }
    ((with_ (.maccz false 0)).core 0).mq = [entry (.maccz false 0)] ∧ (entry (.osld 0 0 32768)).started = false ∧ (32768 : Nat) ≤ 32768 ∧
    (entry (.osld 0 0 0)).after = [] ∧ (entry (.osld 0 0 0)).couch = none ∧ 31 < rowCount (0x1F00 : Word) ∧
    ((with_ (.osld 0 0 128)).core 0).claim 0 = .filling ∧ ({ entry (.osld 0 0 128) with started := true } : MatrixEntry).started = true ∧
    (entry (.osld 0 0 128)).bar = 0 ∧ (entry (.osld 0 0 128)).ev = false ∧ (entry (.osld 0 0 128)).command = false ∧ (entry (.osld 0 0 128)).ecc = none ∧
    (entry (.osld 0 0 128)).released = false ∧ (entry (.osld 0 0 0)).unfilled = false ∧ (with_ (.maccz false 0)).paused = false ∧
    (with_ (.maccz false 0)).stampedRun 0 = false ∧ (∀ i, i < rowCount (0 : Word) → rowAt (0 : Word) i ≠ 127) ∧
    (with_ (.maccz false 0)).unanswered (dieOf 0) (entry (.osld 0 0 0)).page = false := by decide

/-- Queues with room and full; a command that passes its check and one that does not; the oldest not started, and started with every
element moved and with none. -/
theorem meets_EngineCommands :
    let cmd (st : Bool) (n : Nat) : EngineCmd := { id := 0, cmd := copy0, origin := { by_ := .task 0, die := 0 }, started := st, moved := n }
    (tile.core 0).commandOk false false copy0 = true ∧ (tile.core 0).commandOk true false copy0 = false ∧
    ((tile.core 0).engine false).length < 16 ∧
    16 ≤ ((withCore tile fun k => { k with cq := List.replicate 16 (cmd false 0) }).core 0 |>.engine false).length ∧
    ((withCore tile fun k => { k with cq := [cmd false 0] }).core 0).engine false = [cmd false 0] ∧
    tile.pusherSettled (cmd false 0).origin (cmd false 0).id = true ∧ tile.unanswered (dieOf 0) (cmd false 0).page = false ∧
    cmdExt copy0 = false ∧ boundsFail copy0 0 = none ∧ boundsFail (copy0 + 0x180000 * 2 ^ 64) 0 = some 0x180100 ∧ cmdEv copy0 = false ∧
    Rec_word copy0 3 = 0 ∧ (cmd true 1).moved = cmdCount copy0 0 ∧ cmdGather copy0 = false ∧ cmdSrcSp copy0 = 1 ∧ cmdDstSp copy0 = 1 ∧
    (∀ j, j < cmdCount copy0 0 → srcAddr copy0 0 j 0 < 0x180000) ∧
    (cmd false 0).failed = none ∧ (cmd false 0).after = [] ∧ (tile.core 0).spoilt = [] ∧ tile.paused = false ∧
    ({ tile with clk := some { target := 1, phase := 2 } } : State).paused = true ∧ tile.mustPost (cmd false 0).origin = false ∧
    tile.canPost (tile.recordDie (cmd false 0).origin) = true := by decide +kernel

/-- MACCZ.f32 of accumulator 0 as a matrix command, which passes its check; OSREL of a slot that is free, which does not. -/
theorem meets_MatrixCommands :
    (tile.core 0).mq.length < 32 ∧ mcmdOp mcmd0 = some (.maccz false 0) ∧ (Rec_word mcmd0 0).toNat % 256 = 7 ∧
    (tile.core 0).check (.maccz false 0) = none ∧ okB (tile.touchRegions 0 (.maccz false 0)) (fun _ _ => true) = true ∧
    mcmdOp 0x02 = some (.osrel 0) ∧ (tile.core 0).check (.osrel 0) = some (cSlot, 0) ∧
    (tile.core 0).tq = [] := by decide +kernel

/-- MACCST to a region line whose page is not present. -/
theorem meets_MatrixCommands_wait :
    let s := { withCore tile fun k => { k with regions := [(0, some { base := 0, gbase := 0x40000000, size := 0x1000 })] } with
      mem := [(0x1000, 0x03), (0x1001, 0x20), (0x2000, 0x03), (0x2001, 0x30), (0x3000, 0x3F), (0x3008, 0x01)] }
    (s.core 0).mq.length < 32 ∧ (s.core 0).tq = [] ∧ mcmdOp 0x0A = some (.maccst 0 0 0) ∧ (s.core 0).check (.maccst 0 0 0) = none ∧
    (match s.touchRegions 0 (.maccst 0 0 0) with
      | .wait _ _ => true
      | .ok _ _ | .fail _ _ _ => false) = true := by decide +kernel

/-! ### Hypotheses that are met: the fabric and pod time (14, 15) -/

/-- A put of 128 bytes from 0x4000 to 0x5000 of chip 1, and a send of them to its receive queue 0. -/
def put1 : Rec := 0x8000000401 + 0x4000 * 2 ^ 64 + 0x5000 * 2 ^ 128
def send1 : Rec := 0x8000000402 + 0x4000 * 2 ^ 64

/-- A request for chip 1 that has been handed over once, at time 0. -/
def req1 : FabReq := { seq := 5, origin := { by_ := .control 0, die := 0 }, cmd := put1, dst := 1, len := 128, queue := some 96, last := some 0, sent := [(0, 0)] }

/-- An atomic request of control core 0. -/
def fat1 : FabReq :=
  { seq := 5, origin := { by_ := .control 0, die := 0 }, dst := 1, len := 24, fatom := some { addr := 0x4000, b := 1, cmp := 0, ctx := 0, wide := true
                                                                                              op := 0, core := 96, d := 3 } }

/-- Plane 0 is lit; lane 0 goes to the chip at offset 1 in its one slot. -/
def plane1 : Plane := { light := true, table := [(0, 1)] }

/-- 100 µs after reset, `f` the fabric logic. -/
def fabric (f : Fabric) : State := { ctlr with cycle := 150000, fab := f, planes := [(0, plane1)] }

/-- A taken command, a refused one, no room; a request as each clause needs it. -/
theorem meets_FabricRequests :
    let s := fabric {}
    (s.fab.reqs.filter fun r => r.queue == some (s.fabricPath (.control 0)).1).length < 16 ∧ s.dbgHalt = false ∧ s.fabricOk put1 = true ∧
    s.fabricOk send1 = true ∧ fcKind put1 = 1 ∧ fcKind send1 = 2 ∧ s.fabricOk (put1 + 64 * 2 ^ 10) = false ∧
    ¬ ((fabric { reqs := List.replicate 16 req1 }).fab.reqs.filter fun r => r.queue == some (s.fabricPath (.control 0)).1).length < 16 ∧
    req1.pod = none ∧ req1.page = none ∧ fat1.page = none ∧ req1.fatom = none ∧ req1.acked = false ∧ req1.seq < 2 ^ 48 ∧ fcEv req1.cmd = false ∧ Rec_word req1.cmd 3 = 0 ∧
    req1.last = some 0 ∧ req1.sent.length = req1.chunks ∧ 0 + s.fab.rto * 1000 ≤ s.counted ∧ req1.attempt < s.fab.retry ∧
    s.fab.retry ≤ ({ req1 with attempt := 8 } : FabReq).attempt ∧ ({ fat1 with waits := true } : FabReq).waits = true ∧ fat1.waits = false ∧
    fat1.fatom.isSome = true ∧ fat1.origin.by_ = .control 0 ∧ s.fab.rx = [] ∧
    3 < ((fabric { cache := [(1, { low := 4 })] }).fab.cache.get {} 1).low ∧
    (fabric { retry := 2, done := [(1, 5, 0, 0)] }).fab.done = [(1, 5, 0, 0)] ∧ 0 + (2 + 3) * s.fab.rto * 1000 ≤ s.counted ∧
    (fabric { reqs := [{ fat1 with waits := true }] }).fab.window 1 5 < 4096 ∧
    4096 ≤ (fabric { reqs := [{ fat1 with seq := 5000, waits := true }], gone := List.replicate 4096 (1, 900) }).fab.window 1 5000 ∧
    ({ s with dbgHalt := true } : State).dbgHalt = true := by decide +kernel

/-- An atomic addition of 1 to the word at 0x4000 in physical addresses of context 0, which the tables of `tile` map; in the reply cache and
new. -/
def atom1 : Rec := 0x4000 + 1 * 2 ^ 64 + 0x100 * 2 ^ 192

theorem meets_FabricRequests_arrive :
    let s := { fabric { cache := [(1, { low := 4, entries := [(6, 7, 0)] })] } with ctxroot := [(0, 0x1001)] }
    let w := (Rec_word atom1 3).toNat
    let n := if w / 2 ^ 8 % 2 = 1 then 8 else 4
    let here (seq : Nat) := s.arriveChunk (hdMake 3 false 0 1 s.self 0 seq 32 0 32 (Rec_word atom1 0).toNat 0 0)
      (toBytes (Rec_word atom1 1).toNat 8 ++ toBytes (Rec_word atom1 2).toNat 8 ++ toBytes w 8 ++ toBytes 4 8) 8 0 none
    s.fab.rx = [] ∧ s.dbgHalt = false ∧ (s.fab.cache.get ({} : ReplyCache) 1).low ≤ 6 ∧ (s.fab.cache.get ({} : ReplyCache) 1).entries.find? (·.1 == 6) = some (6, 7, 0) ∧
    (s.fab.cache.get ({} : ReplyCache) 1).entries.find? (·.1 == 9) = none ∧ (4 : Nat) ≤ 9 ∧ (here 9).fab.rx.length = 1 ∧
    okB ((here 9).atomicAt { agent := 96, ctx := some (w % 64), unit := true } (fatomOp (w / 2 ^ 10 % 8)) n (Rec_word atom1 0).toNat (Rec_word atom1 1)
      (Rec_word atom1 2)) (fun _ old => decide (old = 0)) = true := by decide +kernel

/-- A beacon of chip 63, heard on lane 0 of plane 0, where chip 0 looks at it. -/
def beacon1 : BitVec 512 := 0x2f754351000000000000000000000005000000000000000000000000000000000000000000000000000000000000000000000fc000000000

/-- Each clause of the planes: lit and dark, armed for a slot that has come, with a good bank and one that is not closed under reversal. -/
theorem meets_FabricPlanes :
    let s := fabric {}
    let arm (x : Plane) : State := { s with planes := [(0, { x with armed := some (0, 1) })] }
    s.now < (300000 : Word).toNat ∧ (5 : Word).toNat ≤ s.now ∧ 64 * 1 ≤ s.now ∧
    ((arm plane1).plane 0).bankOk true = true ∧ ((arm { plane1 with table := [(1024, 1)] }).plane 0).bankOk true = false ∧
    (2 : Word).getLsbD 1 = true ∧ (s.plane 1).light = false ∧ (0 : Word).getLsbD 1 = false ∧ (s.plane 0).light = true ∧ s.fab.handed = [] ∧
    (s.plane 0).lock = false ∧ (s.plane 0).litAt + 20000 ≤ s.counted ∧ 127 ∉ (s.plane 0).failed ∧ 15 ∉ (s.plane 0).out ∧
    15 ∈ ({ plane1 with out := [15] } : Plane).out ∧ (s.plane 0).offset 0 0 ≠ 0 ∧ s.fab.rx = [] ∧ s.fab.reqs = [] ∧
    hdKind beacon1 = 0 ∧ hdBits beacon1 6 32 32 = hdCheck beacon1 [] ∧
    hdHop beacon1 = chipOn (rowPlane 0) s.self (offsetTo ((s.plane 0).offset 0 0) (portOn (rowPlane 0) s.self)) ∧
    (let y : Held := { chunk := { hdr := 0, data := [] }, plane := 0, port := 3, slot := 0, at_ := 0 }
     (fabric { fwd := [y] }).fab.fwd = [y] ∧ y.at_ + s.fab.rto * 1000 ≤ s.counted ∧ y.plane = 0 ∧ y.copy = false) ∧
    s.fab.slot < 3 ∧ 64 * 3 ≤ s.now + 48 ∧ s.fab.fwd = [] ∧ s.fab.answers = [] ∧ (s.plane 0).sends 3 0 = true := by decide +kernel

/-- A whole ordered put of 1 byte for 0x4000 of this chip, stamped 10, with a physical context. -/
def msg1 : RxMsg :=
  { src := 1, seq := 0, hdr := hdMake 1 true 0 1 0 0 0 1 0 1 0x4000 10 0, at_ := 0, last := 0, ctx := none
    chunks := [{ off := 0, data := [7], plane := 8, port := 0 }] }

theorem meets_FabricOrder :
    let s := fabric { rx := [msg1], wmark := 20 }
    let t := fabric { rx := [{ msg1 with chunks := [] }], retry := 2, bars := [(3, { herd := true })] }
    let u : State := { t with planes := [(4, { inmask := 2 }), (5, { inmask := 2 }), (6, { inmask := 2 }), (7, { inmask := 2 })] }
    t.orderedRx[0]? = some { msg1 with chunks := [] } ∧ ({ msg1 with chunks := [] } : RxMsg).whole = false ∧
    t.dbgHalt = false ∧ s.paused = false ∧
    ({ s with clk := some { target := 1, phase := 2 } } : State).paused = true ∧ (1 : Nat) ≠ s.pt.dom.toNat ∧
    0 + (t.fab.retry + 2) * t.fab.rto * 1000 ≤ t.counted ∧ (0, 63) ∈ s.inputs ∧
    max (s.input (0, 63)).since (s.plane 0).stallAt + s.fab.stall * 1000 ≤ s.counted ∧
    (2 ^ 32 : Word).getLsbD 32 = true ∧ (s.bar 3).arrived = false ∧ (1 : Word).getLsbD 32 = false ∧
    (fabric { bars := [(3, { arrived := true })] }).bar 3 = { arrived := true } ∧
    (u.bar 3).herd = true ∧ (u.bar 3).members = [] ∧ (u.bar 3).waiting = [] ∧ (∀ j, j < 64 → u.peerCounts false 3 j = true) ∧
    ({ s with pt := { root := true } } : State).pt.root = true ∧ ({ s with pt := { root := true } } : State).pt.ext = false ∧
    ({ s with pt := { root := true } } : State).pt.acq = false ∧ s.pt.root = false := by decide +kernel

/-- An ordered put that is delivered. -/
theorem meets_FabricOrder_delivery :
    let s := (fabric { rx := [msg1], wmark := 20 }).fabricWork
    s.nextOrdered = some msg1 ∧ s.dbgHalt = false ∧ hdKind msg1.hdr = 1 ∧ s.isLate msg1 = false ∧ msg1.page = none ∧
    (match s.performPut msg1 with
      | .done _ => true
      | _ => false) = true := by decide +kernel

/-! ### Hypotheses that are met: power, translation, migration (13, 11) -/

/-- Cadences 1 and 16 with and without a stamped launch; a window without work; each phase of a clock change; readings at a stack; a trip
that is due; a core that drains, one that wakes; a window that is on. -/
theorem meets_PowerControl :
    let k : Core := {}
    let s : State := { ctlr with cycle := 64 }
    let x : ClockChange := { target := 3, phase := 0 }
    (1 : Word).toNat % 32 = 1 ∧ (16 : Word).toNat % 32 = 16 ∧ k.trip = false ∧ k.mq = [] ∧ k.stampHeld = false ∧ (256 + 16 : Word).getLsbD 8 = true ∧
    ({ k with gatheredFor := some 0 } : Core).stampHeld = true ∧ (16 : Word).getLsbD 8 = false ∧ k.inj = [] ∧ k.gatheredFor = none ∧
    s.ranTo 95 / 64 = (s.core 95).win + 1 ∧ (s.core 95).mq = [] ∧ s.clk = none ∧ (0 : Word).toNat % 4 ≠ s.step_ ∧ (0 : Word).getLsbD 8 = false ∧
    ({ s with clk := some x } : State).clk = some x ∧ x.phase = 0 ∧ s.stampedActive = false ∧ ({ x with phase := 1 } : ClockChange).phase = 1 ∧
    s.step_ ≤ x.target ∧ ({ x with phase := 2 } : ClockChange).phase = 2 ∧ 840 < max (841 : BitVec 16).toInt (0 : BitVec 16).toInt ∧
    ({ k with tripDue := true } : Core).tripDue = true ∧ ({ k with power := 1 } : Core).power = 1 ∧ k.task = none ∧ k.cq = [] ∧ k.gq = [] ∧
    k.tq = [] ∧ k.wb = [] ∧ (∀ e ∈ s.tiles, e.core ≠ some 0) ∧ (∀ b ∈ k.blocks, b.fill = none) ∧ (∀ r ∈ s.fab.reqs, r.queue ≠ some 0) ∧ (({ k with power := 1 } : Core).governTo s.ramp none s.arrayCycle 200).load = 0 ∧
    ({ k with power := 3 } : Core).power = 3 ∧ (0 : Word).getLsbD 0 = false ∧ ((({ l2win := [(3, 1)] } : Die).l2win.get 0 3)).getLsbD 0 = true := by
  decide +kernel

/-- No core has anything in its matrix queue. -/
theorem meets_PowerControl_trimmed (n : Nat) : (({ ctlr with clk := some { target := 3, phase := 1 } } : State).core n).mq = [] := rfl

/-- The registers of a shootdown of page 0 in context 0. -/
def shoot0 : Shootdown := { ctl := 0 }

/-- TLBLOCK of page 0 of context 0, where the walk ends at a leaf and where it finds nothing; SDGO busy, well formed and not; a page
reply, one that refuses what a core waits for; a patrol of stack 7. -/
theorem meets_TranslationCommands :
    let s : State := { tile with cur := 96 }
    let r : PageReq := { num := 3, ctx := 0, va := 0x10000, kind := 0 }
    let p : PendAccess := { instr := .ld {} .i64 3 1 0, regs := {}, bundle := 0, page := some (0, 0x10000) }
    let u : State := { mem := mem0, dies := [(0, { preqs := [r] })], agents := [(23, { run := .running, pend := some p })] }
    bitsOf (1 : Word) 0 2 = 1 ∧ (∃ e l a, s.walk 0 0 = .leaf e l a) ∧ (s.die 3).locked < 256 ∧ bitsOf (2 : Word) 0 2 = 2 ∧
    ({ s with mem := [(0x1000, 0x01)] } : State).walk 0 0 = .absent ∧ shoot0.busy = false ∧ ({ shoot0 with busy := true } : Shootdown).busy = true ∧
    bitsOf shoot0.ctl 56 8 = 0 ∧ bitsOf shoot0.ctl 10 6 = 0 ∧ bitsOf shoot0.ctl 2 2 = 0 ∧ bitsOf shoot0.ctl 16 40 * 65536 % sdSize (bitsOf shoot0.ctl 0 2) = 0 ∧
    bitsOf (4 : Word) 2 2 ≠ 0 ∧ (u.die 0).preqs.find? (·.num == bitsOf (3 : Word) 0 16) = some r ∧ (3 : Word).getLsbD 16 = false ∧
    (0x10003 : Word).getLsbD 16 = true ∧ dieOf 23 = 0 ∧ u.cores = [] ∧ u.tiles = [] ∧ u.launches = [] ∧ u.fab.rx = [] ∧ u.fab.reqs = [] ∧
    (u.agent 23).behind = [] ∧ (u.agent 23).pageHold = none ∧ p.page = some (r.ctx, r.va) ∧ r.va % 65536 = 0 ∧
    ({ tile with refuse := some (0, 0x30000) } : State).refuse = some (0, 0x31234 / 65536 * 65536) ∧ (channelOf 0x7FFFFFFC00).1 = 7 ∧ 0x2FFFF < bankWords .pad := by
  refine ⟨by decide, ⟨0x3F, 2, 0x3000, by decide⟩, ?_⟩
  decide +kernel

/-- A request that is well formed and one that is not; each end of a round; a switch of an entry that stands and of one that has changed. -/
theorem meets_Migrations :
    let m : Migration := { ctl := 1, dst := 0x40000000 }
    let s : State := { tile with cur := 96, mem := [(0x1000, 0x03), (0x1001, 0x20), (0x2000, 0x03), (0x2001, 0x30), (0x3000, 0x03), (0x3001, 0x40), (0x4000, 0x3F)]
                                 dies := [(0, { mig := m })] }
    let run (n r : Nat) : Migration :=
      { m with state := 1, rounds := r, frame := 0, size := 2 ^ 21, to_ := 0x40000000, leafAt := 0x4000, leaf := 0x3F, todo := [0, 16383], dirty := List.range n }
    m.state ≠ 1 ∧ m.state ≠ 2 ∧ (run 0 0).state = 1 ∧ bitsOf m.ctl 56 8 = 0 ∧ bitsOf m.ctl 8 8 = 0 ∧ bitsOf m.ctl 0 2 < 2 ∧ bitsOf m.dst 40 24 = 0 ∧
    bitsOf m.dst 0 16 = 0 ∧ bitsOf m.dst 16 24 * 65536 % 2 ^ 21 = 0 ∧ bitsOf m.dst 16 24 * 65536 + 2 ^ 21 ≤ 0x8000000000 ∧
    ¬ bitsOf (2 : Word) 0 2 < 2 ∧ s.walk 0 0 = .leaf 0x3F 1 0x4000 ∧ pteAddr 0x3F % 2 ^ 21 = 0 ∧ pteAddr 0x3F + 2 ^ 21 ≤ 0x40000000 ∧
    (s.roundSplit (run 15 1)).2.length < 16 ∧ 16 ≤ (s.roundSplit (run 16 7)).2.length ∧ 7 ≤ (run 16 7).rounds ∧
    16 ≤ (s.roundSplit (run 16 6)).2.length ∧ (run 16 6).rounds < 7 ∧ (run 16 6).frame % 65536 = 0 ∧ (run 16 6).size = 2 ^ 21 ∧
    (∀ l ∈ (s.roundSplit (run 16 6)).1, (run 16 6).frame ≤ 128 * l ∧ 128 * l < (run 16 6).frame + 2 ^ 21) ∧ (run 0 0).rounds = 0 ∧
    (run 16 6).to_ + 2 ^ 21 ≤ 0x8000000000 ∧ (run 16 6).frame + 2 ^ 21 ≤ (run 16 6).to_ ∧ (run 0 0).to_ % 65536 = 0 ∧ (run 0 0).to_ < 2 ^ 40 ∧
    bitsOf m.ctl 16 40 * 65536 % 2 ^ 21 = 0 ∧ pteAddr 0x3F + 2 ^ 21 ≤ bitsOf m.dst 16 24 * 65536 ∧
    (∀ k, k < 4 → k ≠ 0 → (s.die k).mig.state ≠ 1 ∧ (s.die k).mig.state ≠ 2) ∧ s.copyFull 0 (frameLines (pteAddr 0x3F) (2 ^ 21)) = false ∧
    s.copyFull 0 (s.roundSplit (run 16 6)).1 = false ∧ s.physWord (run 0 0).leafAt 8 = (run 0 0).leaf.toNat ∧ s.physWord 0x3000 8 ≠ (run 0 0).leaf.toNat := by decide +kernel

/-- Fewer than 16 lines are left of fewer than 16, wherever the first round began. -/
theorem meets_Migrations_first (s : State) :
    (s.roundSplit { ctl := 1, dst := 0x40000000, state := 1, size := 2 ^ 21, dirty := List.range 15 }).2.length < 16 := by
  simp only [State.roundSplit, List.length_take, List.length_range]
  omega
/-! ### Hypotheses that are met: launches and tasks (12) -/

/-- A launch of number 7 whose table has no level (one task), at entry 0x10000 with argument 9. -/
def launch7 : Launch :=
  { num := 7, depth := 0, prio := 0, ctx := 0, rec_ := 0x0A + 2 * 2 ^ 8 + 9 * 2 ^ 64 + 0x10000 * 2 ^ 256, table := 0, id := 7
    origin := { by_ := .control 0, die := 0 }, level := 2, place := 0 }

/-- The same, with two tasks. -/
def launch2 : Launch := { launch7 with table := 2 + 2 ^ 192 }

/-- Stamped, with one strand. -/
def stamped7 : Launch := { launch7 with table := (2 ^ 16 + 100 * 2 ^ 32) * 2 ^ 192 }

/-- 100 µs after reset with these launches, core 23 with `k` and `a`. -/
def sched (l : List Launch) (k : Core := {}) (a : Agent := {}) : State :=
  { cur := 96, cycle := 150000, launches := l, launchNext := 8, mem := mem0, ctxroot := [(0, 0x1001)], cores := [(23, { k with tallow := 1 })], agents := [(23, a)] }

theorem meets_LaunchEvents :
    let s := sched [launch7]
    let l := { launch7 with active := true }
    let gathered : Core := { gatheredFor := some 7, load := 64, win := 2343 }
    let run : Task := { task0 with launch := 7 }
    (∃ r, firstWork ((sched [l]).works 0) = some (.fresh 7 0, r)) ∧
    s.launch 7 = some launch7 ∧ 23 / 24 = 0 ∧ launch7.active = false ∧ launch7.isBind = false ∧ launch7.abort = none ∧
    ltStamped launch7.table = false ∧ launch7.undispatched = true ∧ (Rec_word launch7.rec_ 7).toNat ≤ s.now ∧
    s.gate.getLsbD launch7.prio = false ∧ (∀ x ∈ s.launches, x.active = true ∨ x.before launch7 = false) ∧ s.slotPlace 0 = some 0 ∧
    s.takingWaits 7 = false ∧ (sched [stamped7] gathered).isFirst stamped7 = true ∧ stamped7.sent = [] ∧ stamped7.head = [] ∧
    (∀ m ∈ (sched [stamped7] gathered).gatheredOn 7 0,
      (((sched [stamped7] gathered).core m).governTo (sched [stamped7] gathered).ramp none (sched [stamped7] gathered).arrayCycle 200).fullAt ≤ 150000) ∧
    stamped7.start ≤ (sched [stamped7] gathered).timeAt 150000 ∧ (sched [l]).keptFor 0 0 = false ∧ (sched [l]).readLogs 0 = sched [l] ∧ (sched [stamped7] gathered).gatheredFree 7 = true ∧
    (∀ m ∈ (sched [stamped7] gathered).gatheredOn 7 0, ((sched [stamped7] gathered).agent m).earliest ≤ 150000) ∧
    l.active = true ∧ ltRec l.table = false ∧ ltRpl l.table = false ∧
    ((sched [l]).coreFor 0 (some l) 0).isSome = true ∧
    (sched [{ l with done := [{ die := 0, ord := 0, tidx := 0, code := 0, addr := 0 }], next := [(0, 1)], table := 2 + 2 ^ 192 }]).launches.all
      (fun l => l.undispatched && (l.done.find? fun x => x.die == 0 && x.ord == l.head.get 0 0).isSome) = true ∧
    (let m := { l with done := [{ die := 0, ord := 0, tidx := 0, code := 0, addr := 0 }], next := [(0, 1)], table := 2 + 2 ^ 192 }
     (sched [m]).nextReport m 0 = some { die := 0, ord := 0, tidx := 0, code := 0, addr := 0 } ∧
       m.done.filter (fun x => x.die == 0) = [{ die := 0, ord := 0, tidx := 0, code := 0, addr := 0 }]) ∧
    ltStamped stamped7.table = true ∧ ltLevels stamped7.table = 0 ∧ (sched [stamped7] gathered).canActivate stamped7 = true ∧
    (sched [stamped7] gathered).gathered stamped7 = true ∧ ((sched [stamped7] gathered).gatheredOn 7 0).head? = some 23 ∧
    (sched [l] { task := some run }).core 23 = { task := some run, tallow := 1 } ∧ run.launch = 7 ∧ run.doom = none ∧
    ((sched [l] { task := some run } { run := .ended }).agent 23).run = .ended ∧
    ((sched [l] { task := some run } { run := .faulted }).agent 23).run = .faulted ∧
    ((sched [l] { task := some run } { run := .ended }).agent 23).pend = none ∧ ((sched [l] { task := some run }).core 23).mq = [] ∧
    ((sched [l] { task := some run }).core 23).slog = [] ∧ ((sched [l] { task := some run }).core 23).blocks = [] := by
  exact ⟨⟨[0, 9, 1, 7, 0], by decide +kernel⟩, by decide +kernel⟩

/-- A strand with a next task, at a frame boundary and not, and one with none. -/
theorem meets_LaunchEvents_strand :
    let l := { stamped7 with active := true, begun := true, frame0 := 100, strands := [(0, 24)], table := 2 + (2 ^ 16 + 100 * 2 ^ 32 + 1) * 2 ^ 192 }
    (sched [l] { gatheredFor := some 7 }).core 23 = { gatheredFor := some 7, tallow := 1 } ∧ l.strands.find? (fun p => p.2 == 24) = some (0, 24) ∧
    ltTotal l.table = 2 ∧ l.next.get 0 0 ≤ 0 ∧ inShare l.table l.onDie 0 0 = true ∧ strandOf l.table 0 = 0 ∧ l.mayDispatch 0 = true ∧
    ordinalOf l 0 0 < l.head.get 0 0 + 256 ∧ ({ l with halted := true } : Launch).mayDispatch 0 = false ∧ l.begun = true ∧ ((sched [l] { gatheredFor := some 7 }).core 23).mq = [] ∧ (sched [l] { gatheredFor := some 7 }).tileFree 23 = true ∧
    (sched [l] { gatheredFor := some 7 }).eligible 23 (some 7) = true ∧
    ({ sched [l] with cores := [(23, { gatheredFor := some 7 })] } : State).eligible 23 (some 7) = false ∧
    (∀ x, ({ l with next := [(0, 2)] } : Launch).next.get 0 0 ≤ x → x < ltTotal l.table → False) := by
  suffices h : ∀ x, ({ stamped7 with next := [(0, 2)], table := 2 + (2 ^ 16 + 100 * 2 ^ 32 + 1) * 2 ^ 192 } : Launch).next.get 0 0 ≤ x →
      x < ltTotal (2 + (2 ^ 16 + 100 * 2 ^ 32 + 1) * 2 ^ 192) → False by
    refine ⟨?_, ?_, ?_, ?_, ?_, ?_, ?_, ?_, ?_, ?_, ?_, ?_, ?_, ?_, h⟩ <;> decide +kernel
  intro x h1 h2
  have e1 : (SMap.get 0 [((0 : Nat), (2 : Nat))] 0) = 2 := by decide
  have e2 : ltTotal (2 + (2 ^ 16 + 100 * 2 ^ 32 + 1) * 2 ^ 192) = 2 := by decide +kernel
  simp only [e1, e2] at h1 h2; omega

/-- A child of a tile instruction that its die deals to core 23 alone. -/
theorem meets_LaunchEvents_child :
    let e : TileEntry := { id := 3, rec_ := 5, queue := .dq 0, level := 1, origin := { by_ := .control 0, die := 0 }, ctx := 0, phys := false, parent := some (2, 0) }
    let s : State := { sched [launch7] with tiles := [e] }
    (∃ r, firstWork (s.works 0) = some (.child 3, r)) ∧ (s.tile 3).isSome = true ∧ (s.coreFor 0 none 0).isSome = true ∧
      s.keptFor 0 0 = false ∧ s.readLogs 0 = s := by
  refine ⟨⟨[0, 9, 0, 2, 0], by decide +kernel⟩, ?_⟩
  decide +kernel

/-- A task asked to stop, free-issue and stamped, with a save slot and without; one saved that waits; a launch past its watchdog; each
LCMD; a record for a ring with room, a full one and one that is off. -/
theorem meets_TaskStops :
    let y : Task := { task0 with launch := 7, stopAsked := some 1 }
    let l := { launch7 with active := true, clockFrom := some 0 }
    let s := { sched [l] { task := some y } { run := .running } with wdog := 200, dies := [(0, { saveCnt := 1 })] }
    let z : Saved := { slot := 0, agent := {}, core := {}, task := { y with stopAsked := none }, why := 2 }
    let r : EvRec := { kind := 3 }
    s.launch 7 = some l ∧ (s.core 23).task = some y ∧ y.die = 0 ∧ y.doom = none ∧ y.mode.getLsbD 0 = false ∧
    ({ y with mode := 1 } : Task).mode.getLsbD 0 = true ∧ s.drained 23 = true ∧ (s.core 23).regions = [] ∧ (s.core 23).mq = [] ∧ (s.die 0).slotFor 1 = some 0 ∧ (s.die 0).slotFor 3 = none ∧
    (s.die 0).slotFor 5 = none ∧ (s.die 0).slotFor 2 = none ∧ ({ saveCnt := 74 } : Die).slotFor 3 = some 0 ∧ softStop 1 = false ∧ s.victim 0 ≠ some 23 ∧ softStop 5 = true ∧
    0x8000000000 < (0xFFFFFFF : BitVec 28).toNat * 2 ^ 12 + 64 * (0 % 2 ^ 6) + 64 ∧ s.paused = false ∧
    (sched [l]).die 0 = {} ∧ ({} : Die).freeSlot = none ∧ y.saveNoted = false ∧ z.why = 2 ∧ z.since + 10000 ≤ s.counted ∧ s.spanHeld (s.slotSpan 0 0) 0x300000 = false ∧ ({ run := .broken } : Agent).run = .broken ∧
    s.homeHeld { agent := 96, ctx := none, other := true } 0 64 = false ∧ l.active = true ∧
    l.clockFrom = some 0 ∧ s.ticking 7 = true ∧ s.wdog * 1000 ≤ l.clockAcc + (s.now - 0) ∧
    (s.lcmdOf 0x700000100).isSome = true ∧ bitsOf (0x700000100 : Word) 8 2 = 1 ∧ bitsOf (0x711000200 : Word) 8 2 = 2 ∧ BitVec.ofNat 8 (bitsOf (0x711000200 : Word) 24 8) = cTrap ∧ l.abort = none ∧ s.allReported l = false ∧ (s.agent 23).run = .running ∧ (s.agent 22).run ≠ .running ∧
    bitsOf (0x700000300 : Word) 8 2 = 3 ∧ ({ l with halted := true } : Launch).halted = true ∧ l.halted = false ∧ bitsOf (23 : Word) 0 7 = 23 ∧
    (s.die 0).evWait = [] ∧ r.kind ≠ 9 ∧ ({ evEn := true, evLog2 := 6, evqtail := 63 } : Die).evEn = true ∧
    (63 : BitVec 32).toNat < 2 ^ 6 ∧ 2 ^ 6 ≤ (64 : BitVec 32).toNat ∧ r.waited = false := by decide +kernel

/-- A task that resumes: its launch's next work. -/
theorem meets_TaskStops_resume :
    let l := { launch7 with active := true, next := [(0, 1)], sent := [(0, 1)] }
    let z : Saved := { slot := 0, agent := { run := .running }, core := {}, task := { task0 with launch := 7 }, why := 0 }
    let s := { sched [l] with dies := [(0, { saveCnt := 1, saved := [z] })] }
    (match firstWork (s.works 0) with
      | some (.resume 0 7 0, _) => true
      | _ => false) = true ∧ (s.die 0).saved.find? (·.slot == 0) = some z ∧ ltRec l.table = false ∧ (s.coreFor 0 (some l) 0).isSome = true ∧
    s.readLogs 0 = s ∧ (match firstWork (s.works 0) with
      | some (_, r) => !s.keptFor 0 (r.headD 0)
      | none => false) = true ∧ s.spanHeld (s.slotSpan 0 0) 0x300000 = false ∧ ltRpl l.table = false ∧
    z.agent.pend = none ∧ ({ instr := .bararr {} 3 1 2, regs := {}, bundle := 0 } : PendAccess).instr = .bararr {} 3 1 2 := by
  decide +kernel

/-! ### Hypotheses that are met: tile instructions (09) -/

/-- A record of an opcode and a level, with the operands A, B, C at 0x400, 0x440, 0x480 that the opcode has, and P0. -/
def dataRec (opc lvl p0 : Nat) : Rec :=
  BitVec.ofNat 512 (opc + 256 * lvl + 2 ^ 64 * (if hasOperand opc (p0 % 256) 0 then 0x400 else 0) +
    2 ^ 128 * (if hasOperand opc (p0 % 256) 1 then 0x440 else 0) + 2 ^ 192 * 0x480 + 2 ^ 256 * p0)

/-- The data operations with a parameter each. -/
def dataOps : List (Nat × Nat) := [(1, 0), (2, 0), (3, 2), (4, 5), (5, 0), (6, 0), (7, 1), (8, 0), (9, 77)]

/-- Each data record is taken by the queues of levels 1 to 3, and refused at another level; 32 entries fill DQ; the lead chip takes level 4. -/
theorem meets_TileRecords :
    let e : TileEntry := { id := 1, rec_ := 0, queue := .dq 0, level := 2, origin := { by_ := .control 0, die := 0 }, ctx := 0, phys := true }
    let full := { State.reset with tiles := List.replicate 32 e }
    let lead := { State.reset with pt := { State.reset.pt with sync := true }, mg := { State.reset.mg with podlead := 2 ^ 63 } }
    let room (s : State) (q : TileQueue) : Bool := decide ((s.tiles.filter fun e => e.queue == q && e.parent.isNone).length < tileDepth q)
    (dataOps.all fun (o, p) => tiOpc (dataRec o 2 p) == o && State.reset.tileRefused (.tq 3) (dataRec o 1 p) (.task 3) == none &&
      State.reset.tileRefused (.dq 0) (dataRec o 2 p) (.control 0) == none && State.reset.tileRefused .xq (dataRec o 3 p) (.regset 5) == none &&
      tiLevel (dataRec o 1 p) != queueLevel (.dq 0)) = true ∧ tiOpc (dataRec 13 4 1) = 13 ∧ tiLevel (dataRec 13 4 1) = 4 ∧
    room State.reset (.tq 3) = true ∧ room State.reset (.dq 0) = true ∧ room State.reset .xq = true ∧ room State.reset .pq = true ∧ room full (.dq 0) = false ∧
    lead.mg.podlead.getLsbD 63 = true ∧ lead.dbgHalt = false ∧ lead.pt.sync = true ∧
    tiOpc (0x20C + 2 ^ 448 * 1) = 12 ∧ State.reset.tileRefused (.dq 0) (0x20C + 2 ^ 448 * 1) (.control 0) = none ∧ State.reset.barriers = [] := by
  decide +kernel

/-- A TLAUNCH on XQ and one on DQ with the table of one task at 0x4000 + 0x400, and an unbind of a receive queue that is bound. -/
theorem meets_TileRecords_launch :
    let s : State := { tile with launches := [{ launch7 with rec_ := 0x30B + 2 ^ 448 * 0x10001 }] }
    let o : Origin := { by_ := .control 0, die := 0 }
    let b (r : Rec) (lvl depth : Nat) : Bool :=
      let q : TileQueue := if lvl = 3 then .xq else .dq 0
      s.tileReady (s.launchEntry q r o 0 (s.sourceOf r o).1 depth true) && match s.checkLaunch (queueAgent q) r o 0 depth lvl with
        | .ok u _ _ => u.lqPlace depth == some 1
        | .refuse _ _ _ | .wait _ _ => false
    let l3 : Rec := 0x30A + 2 ^ 256 * 0x10000 + 2 ^ 320 * 0x4400
    let l2 : Rec := 0x20A + 2 ^ 256 * 0x10000 + 2 ^ 320 * 0x4400
    tiOpc l3 = 10 ∧ tiLevel l3 = queueLevel .xq ∧ tiOpc l2 = 10 ∧ tiLevel l2 = queueLevel (.dq 0) ∧ (s.sourceOf l3 o).2 = 0 ∧
    b l3 3 0 = true ∧ b l2 2 0 = true ∧
    (let t : Rec := 0x30B + 2 ^ 256 * 0x10000 + 2 ^ 320 * 0x4400 + 2 ^ 448 * 0x4000010002
     tiOpc t = 11 ∧ bindN t ≠ 0 ∧ b t 3 0 = true) := by decide +kernel

/-- A shape of rank 2 in a scratchpad: base, format code, extents 2 and 2, strides 1 and 2. -/
def shape2 (base fmt : Nat) : Rec :=
  BitVec.ofNat 512 (base + 2 ^ 64 * fmt + 2 ^ 72 * 2 + 2 ^ 80 * 2 + 2 ^ 128 * 2 + 2 ^ 160 * 2 + 2 ^ 320 * 1 + 2 ^ 352 * 2)

/-- A record on the TQ of core 0 over row 1 of shapes A, B, C. -/
def tileRun (r : Rec) (a b c : Rec) : State :=
  let e : TileEntry :=
    { id := 2, rec_ := r, queue := .tq 0, level := 1, origin := { by_ := .control 0, die := 0 }, ctx := 0, phys := true, checked := true, core := some 0
      first := 1, units := 1, shapes := [a, b, c] }
  { State.reset with tiles := [e], cores := [(0, { tq := [2], scratch := [(0x408, 7), (0x40C, 0x80), (0x40F, 0x7F), (0x448, 3), (0x44C, 0x90)] })] }

/-- The hypotheses of an entry's row, for each operation. -/
theorem meets_TileElements :
    let met (r : Rec) : Bool := match (tileRun r (shape2 0x400 6) (shape2 0x440 6) (shape2 0x480 6)).tiles with
      | [e] => e.level == 1 && e.parent.isNone && e.queue == .tq 0 && e.id == 2 && tiCblk e.rec_ == 0 && !tiEv e.rec_ && e.core == some 0 && e.checked && !e.failed && e.done == 0 &&
          e.writes == [] && e.launch.isNone && e.first == 1 && e.units == 1 && e.rep == {} && e.shapes.length == 3 && e.shapes.all shLocal &&
          e.keys == [] && !e.ranked && (tileRun r 0 0 0).pusherSettled e.origin e.id && !(tileRun r 0 0 0).unanswered (dieOf 0) e.page
      | _ => false
    (met (dataRec 1 1 0) && met (dataRec 4 1 5) && met (dataRec 6 1 0) && met (dataRec 8 1 1) && met (dataRec 2 1 0) && met (dataRec 3 1 256) && met (dataRec 5 1 0) && met (dataRec 7 1 1) && met (dataRec 9 1 77)) = true ∧
    tiOpc (dataRec 2 1 0) = 2 ∧ tiOpc (dataRec 3 1 256) = 3 ∧ tiOpc (dataRec 5 1 0) = 5 ∧ tiOpc (dataRec 7 1 1) = 7 ∧ tiOpc (dataRec 9 1 77) = 9 ∧
    tiOpc (dataRec 1 1 0) = 1 ∧ tiOpc (dataRec 4 1 5) = 4 ∧ tiOpc (dataRec 6 1 0) = 6 ∧ tiOpc (dataRec 8 1 1) = 8 ∧
    shRank (shape2 0x400 6) = 2 ∧ (∀ d, d < 2 → bitsOf (1 : Word) (3 * d) 3 < 2) ∧
    (∀ d, d < 2 → ∀ f, f < 2 → bitsOf (1 : Word) (3 * d) 3 = bitsOf (1 : Word) (3 * f) 3 → d = f) ∧ shLocal 0 = false ∧
    bitsOf (tiP0 (dataRec 2 1 0)) 0 8 < 20 ∧ (tileRun 0 0 0 0).paused = false ∧ ((tileRun 0 0 0 0).core 0).spoilt = [] ∧
    ((tileRun 0 0 0 0).core 0).tq = [2] := by decide +kernel

/-- The source index of a transposition of two dimensions, as TileElements asks for it. -/
theorem meets_TileElements_transposed (is : List Nat) :
    ([is.getD 1 0, is.getD 0 0] : List Nat).length = 2 ∧
      ∀ d, d < 2 → ([is.getD 1 0, is.getD 0 0] : List Nat).getD (bitsOf (1 : Word) (3 * d) 3) 0 = is.getD d 0 := by
  refine ⟨rfl, fun d hd => ?_⟩
  rcases d with _ | _ | d
  · rfl
  · rfl
  · omega

/-- 09 R263 by hand, row 1 of the transposed 2 x 2 array: elements [1, 0] and [1, 1] of A. -/
theorem test_tileTrans :
    (match execTileComplete 2 (tileRun (dataRec 8 1 1) (shape2 0x400 2) 0 (shape2 0x480 2)) with
      | .next t => bytesAt (t.core 0).scratch 0x488 8
      | .fault _ | .refused _ => []) = [0, 0, 0, 0, 0x80, 0, 0, 0x7F] := by decide +kernel

/-- 09 R259 by hand, I32: 7 + 3 and 0x7F000080 + 0x90. -/
theorem test_tileAdd :
    (match execTileComplete 2 (tileRun (dataRec 2 1 0) (shape2 0x400 2) (shape2 0x440 2) (shape2 0x480 2)) with
      | .next t => bytesAt (t.core 0).scratch 0x488 8
      | .fault _ | .refused _ => []) = [0x0A, 0, 0, 0, 0x10, 1, 0, 0x7F] := by decide +kernel

/-- A refused record that leaves, and a barrier instance of one record, complete and not. -/
def refused5 : TileEntry :=
  { id := 4, rec_ := 0x20C, queue := .dq 0, level := 2, origin := { by_ := .control 1, die := 1 }, ctx := 0, phys := true, failed := true, rep := { code := cQueue } }

theorem meets_TileCompletions :
    let s : State := { State.reset with tiles := [refused5] }
    let g : TileEntry := { refused5 with failed := false, rep := {} }
    let bar : BarrierInst := { scope := .dq 0, tag := 0, count := 1, members := [4] }
    let m : Mgmt := { State.reset.mg with podlead := 2 ^ 63 + 2 ^ 7 * 0x100 + 2 ^ 40 * 2 }
    let pod : State := { State.reset with mg := m }
    refused5.parent = none ∧ refused5.page = none ∧ refused5.core = none ∧ refused5.failed = true ∧ tiCblk refused5.rec_ = 0 ∧ refused5.rep.code ≠ 0 ∧ s.canPost 1 = true ∧
    g.failed = false ∧ g.rep = {} ∧ bar.members = [g.id] ∧ bar.arrived = false ∧ bar.scope ≠ .pq ∧ tiOpc g.rec_ = 12 ∧ tiEv g.rec_ = false ∧ g.queue = bar.scope ∧
    1 < ({ bar with count := 2 } : BarrierInst).count ∧
    m.podlead.getLsbD 63 = true ∧ bitsOf m.podlead 48 11 = pod.self ∧ (m.podtail - m.podhead).toNat < 2 ^ bitsOf m.podlead 40 4 ∧
    bitsOf m.podlead 7 33 * 128 + 128 * (m.podtail.toNat % 4) + 128 ≤ 0x8000000000 ∧ (0 : Word).getLsbD 63 = false ∧
    pod.homeHeld (unitIssuer 0) (bitsOf m.podlead 7 33 * 128 + 128 * (m.podtail.toNat % 4)) 128 = false ∧ bar.scope ≠ .pq ∧ s.launches = [] ∧
    refused5.origin.roams = false ∧ s.paused = false ∧ ({ s with clk := some { target := 1, phase := 2 } } : State).paused = true ∧
    pod.dbgHalt = false ∧ ({ pod with dbgHalt := true } : State).dbgHalt = true := by decide +kernel

/-- A state whose agent 0 has something waiting. -/
def waiting (a : Agent) (k : Core) : State := { tile with agents := [(0, a)], cores := [(0, { k with task := some task0 })] }

/-- A store of one byte in a side log, and one that has been refused. -/
def logged : LogEntry := { ctx := 0, bundle := 0x10000, what := .store [(0x4100, [5])] }

theorem meets_WaitingWork :
    let e := waiting { run := .running, empties := 2 } {}
    let f : Producer := { reg := .s 3, val := .w 7, due := some 10 }
    let d : Deferred := { code := cStore, src := 0x10000, addr := 9 }
    e.me.brk = none ∧ e.me.loops = [] ∧ e.me.empties ≠ 0 ∧ e.me.delay = none ∧
    (waiting { empties := 1, delay := some { left := 2, target := 8, src := 0 } } {}).me.delay = some { left := 2, target := 8, src := 0 } ∧
    (waiting { flight := [f] } {}).agent 0 = { flight := [f] } ∧ f.due.all (fun c => decide (c ≤ (waiting { flight := [f] } {}).reached 0)) = true ∧
    (waiting { flight := [f] } {}).reached 0 < 11 ∧
    (waiting { run := .running, deferred := [d] } {}).agent 0 = { run := .running, deferred := [d] } ∧
    (ctlr.agent 96).inh = false ∧ (96 : Nat) ≤ 96 ∧ (waiting { run := .broken } {}).me.run = .broken ∧
    ((waiting {} { slog := [logged] }).core 0).slog = [logged] ∧ (waiting {} { slog := [logged] }).entryWaits 0 logged = false ∧
    ({ waiting {} { slog := [logged] } with dies := [(0, { preqs := [⟨0, 0, 0, 1⟩] })] } : State).entryWaits 0 logged = true ∧ logged.refused = none ∧ ({ logged with refused := some 9 } : LogEntry).refused = some 9 ∧
    ({ run := .running, deferred := [d] } : Agent).empties = 0 ∧ ({ run := .running, deferred := [d], empties := 2 } : Agent).loops = [] ∧ e.paused = false ∧ ({ e with clk := some { target := 1, phase := 2 } } : State).paused = true ∧
    okB (((waiting {} { slog := [logged] }).modCoreAt 0 fun x => { x with slog := [] }).performOp (logged.issuer 0) logged.hint logged.what)
      (fun _ _ => true) = true := by decide +kernel

/-- A side-log entry whose page is not mapped, or not present; write-backs; a block that has been read. -/
theorem meets_WaitingWork_access :
    let s := waiting {} {}
    let off (b : Byte) : State := { s with mem := [(0x1000, 0x03), (0x1001, 0x20), (0x2000, 0x03), (0x2001, 0x30), (0x3000, b)] }
    let i : Issuer := logged.issuer 0
    let w : WriteBack := { lines := [(0x4080, List.replicate 128 6)], ctx := 0, bundle := 0x10000, task := 0, launch := 0 }
    let y : Block := { addr := 0x4080, lines := 1, fill := some (7, false) }
    (match (off 0x3C).performOp i logged.hint logged.what with
      | .fail _ c _ => c == cStore
      | .ok _ _ | .wait _ _ => false) = true ∧
    (match (off 0x3D).performOp i logged.hint logged.what with
      | .wait _ _ => true
      | .ok _ _ | .fail _ _ _ => false) = true ∧
    s.slogOf 0 = [] ∧ (waiting {} { slog := [logged] }).slogOf 0 ≠ [] ∧ s.olderBack w = false ∧ s.unanswered 0 w.page = false ∧
    s.unanswered 0 y.page = false ∧ (waiting {} { wb := [w] }).olderBack { w with stops := 1 } = true ∧
    ({ s with dies := [(0, { preqs := [⟨0, 0, 0, 1⟩] })] } : State).unanswered 0 (some (0, 0x4080)) = true ∧ okB (s.writeMem (w.issuer 0) 0x4080 (List.replicate 128 6)) (fun _ _ => true) = true ∧
    okB (s.arrive (w.issuer 0) 0x4000 256) (fun _ _ => true) = true ∧ ({ w with lines := [], bar := some 0x4000 } : WriteBack).lines = [] ∧ w.bar = none ∧ w.ecc = none ∧
    y.pinned = true ∧ y.age = 0 ∧ s.paused = false ∧ s.canPost (dieOf 0) = true ∧ okB (readEach s ((List.range y.lines).map fun l => y.addr + 128 * l) fun v x => (v.readAttr { agent := 0, ctx := some 0 } .read x 128).map (·.2))
      (fun _ _ => true) = true := by
  decide +kernel
/-! ### Hypotheses that are met: management, control space, the machine (16, 03) -/

/-- The link is up, the boot is done and the mailbox is enabled. -/
def host : State := { State.reset with mg := { State.reset.mg with linkUp := true, done := true, mben := true } }

/-- A request: operation, bytes, address, tag 0x77. -/
def request (op n a : Nat) : BitVec 128 := BitVec.ofNat 128 (op + 2 ^ 16 * 0x77 + 2 ^ 32 * n + 2 ^ 64 * a)

theorem host_free (x m : Nat) : host.homeHeld mailIssuer x m = false := by
  simp [State.homeHeld, State.refreshing, State.otherLogs, State.ownLogMeets, State.core, host, State.reset, SMap.get]

theorem meets_MailboxAndLink :
    let w (h : BitVec 128) : Word := h.extractLsb' 0 64
    let a (h : BitVec 128) : Nat := bitsOf (h.extractLsb' 64 64 : Word) 0 40
    let formed (h : BitVec 128) (k : Nat) : Bool := bitsOf (w h) 8 8 == 0 && bitsOf (h.extractLsb' 64 64 : Word) 40 24 == 0 && bitsOf (w h) 0 8 == k &&
      decide (0 < bitsOf (w h) 32 32) && decide (bitsOf (w h) 32 32 ≤ 4096)
    host.mg.linkUp = true ∧ host.mg.done = true ∧ host.mg.mben = true ∧ host.poison = [] ∧
    formed (request 1 4096 0x7FFFFFF000) 1 = true ∧ a (request 1 4096 0x7FFFFFF000) + 4096 ≤ 0x8000000000 ∧
    formed (request 2 4 0x4000) 2 = true ∧ bitsOf (w (request 2 4 0x4000)) 32 32 = [1, 2, 3, (4 : Byte)].length ∧
    formed (request 2 8 0xF000400518) 2 = true ∧ a (request 2 8 0xF000400518) = 0xF000400500 + 8 * 3 ∧
    formed (request 1 0 0) 1 = false ∧ formed (request 2 4097 0) 2 = false ∧
    0x8030000000 ≤ a (request 1 1 0x8030000000) ∧ a (request 1 1 0x8030000000) < 0xF000000000 ∧
    ({ host.mg with linkUp := false } : Mgmt).linkUp = false ∧ ({ host.mg with done := false } : Mgmt).done = false ∧ host.mg.hostq.length < 64 ∧ 64 ≤ (List.replicate 64 (0 : Word)).length := by
  decide +kernel

/-- A queue in which 64 notifications stand, whatever the link takes. -/
theorem meets_MailboxAndLink_full :
    let s : State := { host with mg := { host.mg with hostq := List.replicate (64 + Config.linkTakes host.fresh) 0 } }
    s.mg.linkUp = true ∧ 64 ≤ s.linkSends.mg.hostq.length ∧ host.linkSends.mg.hostq.length < 64 := by
  refine ⟨rfl, ?_, ?_⟩
  · simp [State.linkSends, State.modMg]
  · simp [State.linkSends, State.modMg, host, State.reset]

/-- A copy goes well or does not: one of the two cases is that of any state. -/
theorem meets_SideBandAndBoot_copy (s : State) : Config.copyError s.fresh = true ∨ Config.copyError s.fresh = false := by
  cases Config.copyError s.fresh <;> simp

/-- The management controller runs, is halted; the boot goes on with image 1; images whose magic number is not 0x424E stop it. -/
theorem meets_SideBandAndBoot :
    let h : State := { State.reset with agents := [(100, { run := .halted })] }
    let b : State := { State.reset with mg := { State.reset.mg with begun := true, taken := 1 } }
    (State.reset.agent 100).run ≠ .halted ∧ (h.agent 100).run = .halted ∧ b.mg.fail = false ∧ b.mg.done = false ∧ b.mg.taken < 15 ∧ b.mg.begun = true ∧
    host.mg.done = true ∧ imageFails [1, 2] = some 1 ∧ (0xF &&& ~~~(0 : BitVec 4)) ≠ 0 ∧ BitVec.ofNat 4 0 &&& ~~~State.reset.dbgEn = 0 := by decide +kernel

/-- A register set of control core 1 with its four words: a tile instruction at 0x4000 for DQ 0. -/
def set1 : RegSet := { pres := 0xF, qw := [(0, 4 + 16), (1, 0x4000)] }

theorem meets_ControlSpace :
    let s : State := { ctlr with mem := (0x4000, 0x09) :: mem0.drop 5 }
    let u : State := { s with regsets := [(1, { set1 with qw := [(0, 5), (1, 0x4000)] })] }
    (s.die 3).saved = [] ∧ 6 ≤ bitsOf (20 : Word) 0 5 ∧ bitsOf (20 : Word) 0 5 ≤ 20 ∧
    set1.qw.get 0 3 = 0 ∧ set1.pres = 0xF ∧ ({ set1 with pres := 7 } : RegSet).pres ≠ 0xF ∧ ({ set1 with qw := [(1, 0x4001)] } : RegSet).wellFormed = false ∧
    (u.regset 1).wellFormed = true ∧ bitsOf ((u.regset 1).qw.get 0 0) 0 4 ≠ 4 ∧
    okB (u.readMem { agent := setCaller 1, ctx := none, unit := decide (5 ≤ 1) } .read ((u.regset 1).qw.get 0 1).toNat 64)
      (fun v bs => decide ((v.goOffer 1 (recOf bs)).1.regsets = u.regsets)) = true ∧
    (0x12 : Word).getLsbD 1 = true ∧ (0x02 : Word).getLsbD 5 = false ∧ (State.reset.agent 97).run = .off ∧ (0x20 : Word).getLsbD 5 = true ∧
    (0xF : Word).setWidth 4 &&& ~~~State.reset.dbgEn ≠ 0 ∧ State.reset.dbgHalt = false ∧ (0x100 : Word).getLsbD 8 = true ∧
    tile.dbgHalt = false ∧ (tile.core 0).task = some task0 ∧
    (State.reset.elTail - State.reset.elHead).toNat < 256 ∧ 256 ≤ ((256 : BitVec 32) - 0).toNat := by decide +kernel

/-- The management controller about to issue a bundle whose words stand at address 0. -/
def issueNext (ws : List Nat) : State :=
  { State.reset.withFetchWord 128 0 with mem := (State.reset.putBytes 0 (ws.flatMap fun w => toBytes w 8)).mem, agenda := [.agent 100] }

/-- A bundle of ADDI s5, s4, −3, and one with ADDI s6, s4, −3 beside it. -/
theorem meets_StepRunsDecoded :
    let s := issueNext [0x02, 0xFE0000FFFFD10502]
    let two := issueNext [0x06, 0xFE0000FFFFD10502, 0xFE0000FFFFD10602]
    let u (s : State) : State := ({ s with agenda := [] } : State).modMe fun x => { x with inUse := [] }
    let calm (u : State) : Bool := !u.canDefer 100 && u.me.run == .running && !u.canInterrupt && u.me.pend.isNone && u.doomed.isNone && !u.stopped && u.me.empties == 0 &&
      u.heldOnPage.isNone
    s.agenda = [.agent 100] ∧ calm (u s) = true ∧
    okB ((u s).fetchWord (u s).me.pc) (fun v hw => (decodeHeader hw).any fun h => decide (h.slots = [.sa]) &&
      okB (v.fetchWord ((u s).me.pc + 8)) fun w word => decide (decodeFor (kindOf 100) .sa word = .ok (.addi { g1 := 3 } 5 4 (-3))) &&
        distinct (instrDests (.addi { g1 := 3 } 5 4 (-3))) && !w.stamped) = true ∧
    two.agenda = [.agent 100] ∧ calm (u two) = true ∧
    (match (u two).readBundle with
      | .ok t _ is => is.length == 2 && !t.stamped
      | .wait _ _ | .bad _ _ _ _ => false) = true ∧
    ({ s with agenda := [.event .linkDown] } : State).agenda = [.event .linkDown] ∧ Instr.fields .linkDown = none := by decide +kernel

/-- A word of each slot is one of an instruction that is well formed; an instruction of a slot. -/
theorem meets_DecodeEncode :
    (Instr.addi { g1 := 3 } 5 4 (-3)).slot = some .sa ∧ (Instr.addi { g1 := 3 } 5 4 (-3)).wf = true ∧
    decodeWord .sb 0xFE0000FFFFD10502 = .ok (.addi { g1 := 3 } 5 4 (-3)) ∧ (Instr.mma {} .t8 0 3 7 false).slot = some .mx ∧
    (Instr.mma {} .t8 0 3 7 false).wf = true := by decide +kernel

/-- An instruction issues. -/
def issuesB (i : Instr) (s : State) : Bool :=
  match exec i s with
  | .next t => t.res == .issued
  | .fault _ | .refused _ => false

/-- Memory in its form, and a step. -/
theorem meets_MemoryStaysCanonical :
    Memory.wf (issueNext [0x02, 0xFE0000FFFFD10502]).mem = true ∧
    (match step (issueNext [0x02, 0xFE0000FFFFD10502]) with
      | .next t => (t.agent 100).pc == 16
      | .fault _ | .refused _ => false) = true := by decide +kernel

theorem meets_RegisterFrames :
    (Instr.add {} 6 1 2).slot = some .sa ∧ (Instr.vadd {} .f32 .rne 2 0 1).slot = some .vx ∧ issuesB (.add {} 6 1 2) ctlr = true ∧
    issuesB (.vadd {} .f32 .rne 2 0 1) tile = true := by decide +kernel

theorem meets_AccessFrames :
    issuesB (.ld {} .i32 6 1 4) tile = true ∧ issuesB (.st {} .i64 6 1 8) tile = true ∧ issuesB (.stl {} .i8 6 2 3) tile = true ∧
    issuesB (.vld { g1 := 2 } .i8 3 1 256) tile = true ∧ issuesB (.vst { g1 := 2 } .f32 1 1 128) tile = true ∧ issuesB (.vlds { g1 := 2 } .i16 false 3 1 3) tile = true ∧
    issuesB (.vsts {} .i16 true 3 1 3) tile = true ∧ issuesB (.vstx { g1 := 2 } .i32 false 3 1 1) tile = true ∧
    placeOf (tile.rs 1 + (8 : BitVec 18).signExtend 64).toNat ≠ .control := by decide +kernel

/-- An instruction whose guard is false, and one whose guard, source or destination is empty. -/
theorem meets_Guards :
    let i : Instr := .add { g1 := 3 } 6 1 2
    let off (r : RegId) : State := { tile with agents := [(0, { run := .running, regs := { regs0 with empty := [r] } })] }
    (i.fields.map (·.ctl)) = some { g1 := 3 } ∧ i.slot = some .sa ∧ tile.cur < 96 ∧ (tile.src.isEmpty (.p 3) || tile.src.isEmpty (.p 0)) = false ∧
    (tile.src.rp 3).tag = true ∧ (tile.src.rp 0).tag = true ∧ (tile.src.rp 3).bits.getLsbD 0 = false ∧
    (off (.p 3)).src.isEmpty (.p 3) = true ∧ (off (.s 1)).src.isEmpty (.s 1) = true ∧ (off (.s 1)).src.isEmpty (.s 2) = false ∧
    (off (.s 1)).src.isEmpty (.s 6) = false ∧ (off (.s 6)).src.isEmpty (.s 6) = true := by decide +kernel

/-! ### The manual's worked examples, and cases worked by hand from its rules -/

/-- The result of a conversion of an FP32 word to t8 (or t6) at a bias. -/
def taperOf (t : Ty) (bias : Int) (x : Nat) : Nat × Bool :=
  let v := convert .f32 0 t bias .rne x
  (v.bits, v.flags &&& 0x80 != 0)

/-- 02, "Worked conversions to taper", row by row; the flag is STATUS.TSAT. -/
theorem test_taper :
    taperOf .t8 0 0x3E99999A = (0x23, false) ∧ taperOf .t8 (-4) 0x3E99999A = (0x62, false) ∧ taperOf .t6 0 0x3E99999A = (0x05, false) ∧
    taperOf .t8 0 0xC1A00000 = (0xF1, false) ∧ taperOf .t8 0 0x45200000 = (0x7E, false) ∧ taperOf .t8 0 0x459C4000 = (0x7F, true) ∧
    taperOf .t8 0 0x39200000 = (0x01, false) ∧ taperOf .t8 0 0xB9000000 = (0x00, false) ∧ taperOf .t6 0 0x7F800000 = (0x1F, true) := by decide +kernel

/-- 02, the decoding of 0xB6 that follows the table: −0.6875, as FP32. -/
theorem test_taper_decode : (convert .t8 0 .f32 0 .rne 0xB6).bits = 0xBF300000 := by decide +kernel

/-- The lane values of a vector after an instruction on `tile` with one source vector. -/
def vecOf (o : Host.Outcome State Fault Refusal) (d w k : Nat) : Nat :=
  match o with
  | .next t => (t.me.flight.findSome? fun p => match p.val with
      | .r x => if p.reg = .v d then some (elemOf x w k) else none
      | .w _ | .q _ => none).getD 0
  | .fault _ | .refused _ => 0

/-- The word on its way to s[d]. -/
def wordOf (o : Host.Outcome State Fault Refusal) (d : Nat) : Nat :=
  match o with
  | .next t => (t.me.flight.findSome? fun p => match p.val with
      | .w x => if p.reg = .s d then some x.toNat else none
      | .r _ | .q _ => none).getD 0
  | .fault _ | .refused _ => 0

/-- A tile core with elements in v1 and words in s1 to s3. -/
def lanes (v1 : VWord) (s1 s2 : Word) : State :=
  { tile with agents := [(0, { run := .running, pc := 0x10010, bundle := 0x10000, issued := 10, regs := { regs0 with s := [(1, s1), (2, s2)], v := [(1, v1)] } })] }

/-- 02, "the tree against a running sum": 2^24, 1.0, 1.0, −2^24 reduce to 1.0. -/
theorem test_tree :
    vecOf (execVredadd {} .f32 2 1 (lanes (0x4B800000 + 0x3F800000 * 2 ^ 32 + 0x3F800000 * 2 ^ 64 + 0xCB800000 * 2 ^ 96) 0 0)) 2 32 0 = 0x3F800000 := by decide +kernel

/-- 02, "one chunk, one rounding": 1.0 and two products of 2^−24. -/
theorem test_chunk :
    (accAdd false 0x3F800000 (chunkSum (List.replicate 2 (decodeElem .t8 0 1, decodeElem .t8 0 1) ++ List.replicate 126 (decodeElem .t8 0 0, decodeElem .t8 0 0)))) =
      { bits := 0x3F800001, flags := 0 } := by decide +kernel

/-- 02, "feedback within a block": four elements of 1.03125 give 0x40, 0x41, 0x40, 0x41. -/
theorem test_feedback :
    ((quantAll false 0 4 (fun _ => true) fun _ => decodeElem .f32 0 0x3F840000).1.map fun x => x.getD 0) = [0x40, 0x41, 0x40, 0x41] := by decide +kernel

/-- 06, "Borderline uses": VSHL.i16 with a count of 16 gives 0; VEXT.i8 with 300 reads element 44. -/
theorem test_borderline :
    vecOf (execVshl {} .i16 2 1 1 (lanes 16 0 0)) 2 16 0 = 0 ∧ wordOf (execVext {} .i8 2 1 1 (lanes (0x80 * 2 ^ 352) 300 0)) 2 = 0xFFFFFFFFFFFFFF80 := by decide +kernel

/-- 11, "a walk to a 2 MiB page". -/
theorem test_walk :
    ({ State.reset with
        ctxroot := [(5, 0x4001)]
        mem := [(0x4000, 0x03), (0x4001, 0x50), (0x5120, 0x03), (0x5121, 0x60), (0x6688, 0x03), (0x6689, 0x70), (0x7598, 0x1F), (0x759A, 0x60), (0x759C, 0x21)] } : State).walk
      5 0x123456789ABC = .leaf 0x210060001F 1 0x7598 ∧
    (TlbEntry.ofLeaf 5 0x123456789ABC 0x210060001F 1).pa + 0x123456789ABC % (TlbEntry.ofLeaf 5 0x123456789ABC 0x210060001F 1).size = 0x2100789ABC := by decide +kernel

/-- 00, "reading a bundle header": BR and VX, one empty bundle after it, stamp 100. -/
theorem test_header : decodeHeader 0x00000000000C9049 = some { stamp := 100, stv := true, run := 1, pres := 9 } := by decide

/-- 05 R106 by hand: −1 × −1, its unsigned high half, −1 ÷ 2 and −5 mod 2 truncated towards zero, 7 ÷ 0. -/
theorem test_scalar :
    wordOf (execMul {} 6 1 2 (lanes 0 0xFFFFFFFFFFFFFFFF 0xFFFFFFFFFFFFFFFF)) 6 = 1 ∧
    wordOf (execMulhu {} 6 1 2 (lanes 0 0xFFFFFFFFFFFFFFFF 0xFFFFFFFFFFFFFFFF)) 6 = 0xFFFFFFFFFFFFFFFE ∧
    wordOf (execDiv {} 6 1 2 (lanes 0 0xFFFFFFFFFFFFFFFF 2)) 6 = 0 ∧ wordOf (execRem {} 6 1 2 (lanes 0 0xFFFFFFFFFFFFFFFB 2)) 6 = 0xFFFFFFFFFFFFFFFF ∧
    wordOf (execDivu {} 6 1 2 (lanes 0 7 0)) 6 = 0xFFFFFFFFFFFFFFFF ∧ wordOf (execRemu {} 6 1 2 (lanes 0 7 0)) 6 = 7 := by decide +kernel
end Sys2Proof.Tests
end

/-! What a vector instruction of the VX slot writes (06 R143), what each element operation of R144 to R146 comes to, and the statements
of R144 and of R145 with R146. -/

namespace Sys2Proof.Machine

/-! ### The shared vector forms -/

theorem t6Clean_of_not_taper {t : Ty} (ht : t.isTaper = false) (x : Nat) : t6Clean t x = x :=
  if_neg fun h => by
    obtain rfl := eq_of_beq h
    cases ht

theorem isTaper_of_isInt {t : Ty} (ht : t.isInt = true) : t.isTaper = false := by
  revert ht
  cases t <;> decide

theorem width_pos (t : Ty) : 0 < t.width := by cases t <;> decide

section
variable {s : State} {c : Ctl} {t : Ty} {d a b : BitVec 6} {lat : Nat} {l : List RegId} {i : Instr} {g : Nat → Val}

/-- A per-lane instruction that finds everything ready writes its results to the active elements (06 R143). -/
theorem vxLanes_writes (srcs : List Src) {f : Nat → Val} (ht : t.isTaper = false) (h : s.ReadyVx c l)
    (hl : ∀ r ∈ srcs.map (·.reg) ++ [.v d.toNat], r ∈ l) (hi : exec i s = vxLanes s c srcs t d lat f) (hg : ∀ k, g k = f k) :
    WritesLanes s c t d lat g i := by
  obtain rfl : g = f := funext hg
  obtain ⟨hready, hheld⟩ := h
  refine ⟨blend t (guardBits s.src c) (s.rv d) fun k => (g k).bits, ?_, fun k hk => ?_⟩
  · rw [hi, vxLanes, issueVx, hheld]
    exact issue_lanes s c _ _ l hready rfl rfl hl
  · rw [laneOn_iff s c t k hk, elem_blend t _ _ _ k hk, t6Clean_of_not_taper ht]
    exact ⟨fun hon => if_pos hon, fun hoff => if_neg hoff⟩

/-- Form V3 (06 R141): element k is made of elements k of v[a] and v[b]. -/
theorem vx2_writes (f : Nat → Nat → Val) (ht : t.isTaper = false) (h : s.ReadyVx c l)
    (hl : ∀ r ∈ [RegId.v a.toNat, .v b.toNat, .v d.toNat], r ∈ l) (hi : exec i s = vx2 s c t d a b lat f)
    (hg : ∀ k, g k = f (elemOf (s.rv a) t.width k) (elemOf (s.rv b) t.width k)) : WritesLanes s c t d lat g i :=
  vxLanes_writes [srcV a 0, srcV b 1] ht h hl hi hg

/-- Form V2 (06 R141): element k is made of element k of v[a]. -/
theorem vx1_writes (f : Nat → Val) (ht : t.isTaper = false) (h : s.ReadyVx c l) (hl : ∀ r ∈ [RegId.v a.toNat, .v d.toNat], r ∈ l)
    (hi : exec i s = vx1 s c t d a lat f) (hg : ∀ k, g k = f (elemOf (s.rv a) t.width k)) : WritesLanes s c t d lat g i :=
  vxLanes_writes [srcV a 0] ht h hl hi hg

end

/-! ### Arithmetic on one element (06 R144) -/

theorem toNat_ofNat_of_lt {w x : Nat} (hx : x < 2 ^ w) : (BitVec.ofNat w x).toNat = x := by
  rw [BitVec.toNat_ofNat, Nat.mod_eq_of_lt hx]

theorem msb_ofNat_of_lt {w x : Nat} (hx : x < 2 ^ w) : (BitVec.ofNat w x).msb = x.testBit (w - 1) := by
  rw [BitVec.msb_eq_getLsbD_last, ← BitVec.testBit_toNat, toNat_ofNat_of_lt hx]

theorem subElem_eq (t : Ty) (m : RMode) (x : Nat) {y : Nat} (hy : y < 2 ^ t.width) :
    subElem t m x y = if t.isInt then plain ((2 ^ t.width + x - y) % 2 ^ t.width) else fsub (ffmtOf t) m x y := by
  rw [subElem, ← Nat.add_sub_assoc hy.le, Nat.add_comm x]

theorem minmaxElem_min (t : Ty) (x y : Nat) :
    minmaxElem t false x y =
      if t.isInt then plain (if signedOf t.width y < signedOf t.width x then y else x) else fminmax (ffmtOf t) false x y := by
  simp [minmaxElem]

theorem minmaxElem_max (t : Ty) (x y : Nat) :
    minmaxElem t true x y =
      if t.isInt then plain (if signedOf t.width x < signedOf t.width y then y else x) else fminmax (ffmtOf t) true x y := by
  simp [minmaxElem]

/-- The magnitude of an element modulo 2^w: the most negative value maps to itself. -/
theorem natAbs_signedOf {w x : Nat} (hx : x < 2 ^ w) :
    (signedOf w x).natAbs % 2 ^ w = if x.testBit (w - 1) then (2 ^ w - x) % 2 ^ w else x := by
  rw [signedOf, ← msb_ofNat_of_lt hx]
  cases hm : (BitVec.ofNat w x).msb with
  | true =>
    rw [BitVec.toInt_eq_neg_toNat_neg_of_msb_true hm, Int.natAbs_neg, Int.natAbs_natCast, BitVec.toNat_neg, toNat_ofNat_of_lt hx,
      Nat.mod_mod, if_pos rfl]
  | false =>
    rw [BitVec.toInt_eq_toNat_of_msb hm, Int.natAbs_natCast, toNat_ofNat_of_lt hx, Nat.mod_eq_of_lt hx, if_neg Bool.false_ne_true]

theorem absElem_eq (t : Ty) {x : Nat} (hx : x < 2 ^ t.width) :
    absElem t x =
      if t.isInt then plain ((signedOf t.width x).natAbs % 2 ^ t.width)
      else if ((ffmtOf t).decode x).isNan then plain (ffmtOf t).nanBits else plain (x % 2 ^ (t.width - 1)) := by
  rw [natAbs_signedOf hx]
  rfl

/-! ### Integer operations on one element (06 R145 R146) -/

theorem toNat_ofInt_max (w : Nat) : (BitVec.ofInt w (2 ^ (w - 1) - 1)).toNat = 2 ^ (w - 1) - 1 := by
  have hcast : (2 ^ (w - 1) - 1 : Int) = ((2 ^ (w - 1) - 1 : Nat) : Int) := by
    rw [Nat.cast_sub Nat.one_le_two_pow]
    norm_cast
  have hlt : 2 ^ (w - 1) - 1 < 2 ^ w := (Nat.pred_lt_of_lt (Nat.two_pow_pos _)).trans_le (Nat.pow_le_pow_right two_pos w.pred_le)
  rw [hcast, BitVec.ofInt_natCast, toNat_ofNat_of_lt hlt]

theorem toNat_ofInt_min {w : Nat} (hw : 0 < w) : (BitVec.ofInt w (-2 ^ (w - 1))).toNat = 2 ^ (w - 1) := by
  have hcast : (2 ^ (w - 1) : Int) = ((2 ^ (w - 1) : Nat) : Int) := by norm_cast
  have hlt : 2 ^ (w - 1) < 2 ^ w := Nat.pow_lt_pow_right one_lt_two (Nat.pred_lt hw.ne')
  have htwice : 2 ^ w - 2 ^ (w - 1) = 2 ^ (w - 1) := by rw [← Nat.two_pow_pred_mul_two hw]; omega
  rw [BitVec.ofInt_neg, hcast, BitVec.ofInt_natCast, BitVec.toNat_neg, toNat_ofNat_of_lt hlt, htwice, Nat.mod_eq_of_lt hlt]

/-- Sat(z, i_w) and the flag SAT, for either bound (00 R8). -/
theorem satInt_eq {w : Nat} (hw : 0 < w) (z : Int) :
    satInt w z =
      if z < -2 ^ (w - 1) then { bits := 2 ^ (w - 1), flags := 0x02 }
      else if 2 ^ (w - 1) - 1 < z then { bits := 2 ^ (w - 1) - 1, flags := 0x02 }
      else plain (BitVec.ofInt w z).toNat := by
  have hpos : (0 : Int) < 2 ^ (w - 1) := by positivity
  rw [satInt, toNat_ofInt_max, toNat_ofInt_min hw]
  by_cases hlo : z < -2 ^ (w - 1)
  · rw [if_neg (by omega), if_pos hlo, if_pos hlo]
    rfl
  · rw [if_neg hlo, if_neg hlo]
    rfl

theorem toNat_not_ofNat {w x : Nat} (hx : x < 2 ^ w) : (~~~ BitVec.ofNat w x).toNat = 2 ^ w - 1 - x := by
  rw [BitVec.toNat_not, toNat_ofNat_of_lt hx]

theorem shlElem_eq (t : Ty) {x : Nat} (n : Nat) (hx : x < 2 ^ t.width) :
    shlElem t x n = plain (BitVec.ofNat t.width x <<< n).toNat := by
  rw [BitVec.toNat_shiftLeft, toNat_ofNat_of_lt hx, Nat.shiftLeft_eq, shlElem]
  split
  · next hn => rw [Nat.mod_eq_zero_of_dvd (Dvd.dvd.mul_left (pow_dvd_pow 2 hn) x)]
  · rfl

theorem shrElem_eq (t : Ty) {x : Nat} (n : Nat) (hx : x < 2 ^ t.width) :
    shrElem t x n = plain (BitVec.ofNat t.width x >>> n).toNat := by
  rw [BitVec.toNat_ushiftRight, toNat_ofNat_of_lt hx, Nat.shiftRight_eq_div_pow, shrElem]
  split
  · next hn => rw [Nat.div_eq_of_lt (hx.trans_le (Nat.pow_le_pow_right two_pos hn))]
  · rfl

/-- A count of more than w bits fills with the sign as a count of w does. -/
theorem sshiftRight_min {w : Nat} (x : BitVec w) (n : Nat) : x.sshiftRight (min n w) = x.sshiftRight n := by
  ext i hi
  rw [BitVec.getElem_sshiftRight, BitVec.getElem_sshiftRight]
  rcases le_total n w with hn | hn
  · simp only [Nat.min_eq_left hn]
  · rw [dif_neg (by omega), dif_neg (by omega)]

theorem sarElem_eq (t : Ty) (x n : Nat) : sarElem t x n = plain ((BitVec.ofNat t.width x).sshiftRight n).toNat := by
  rw [sarElem, sshiftRight_min]

/-! ### Leading zeros (06 R146) -/

theorem lt_two_pow_bitLen (x : Nat) : x < 2 ^ bitLen x := by
  unfold bitLen
  split
  · next h => simp [h]
  · exact Nat.lt_log2_self

theorem two_pow_le_of_bitLen_pos {x : Nat} (h : 0 < bitLen x) : 2 ^ (bitLen x - 1) ≤ x := by
  unfold bitLen at h ⊢
  split at h
  · omega
  · next hx => simpa [hx] using Nat.log2_self_le hx

theorem bitLen_le {w x : Nat} (hx : x < 2 ^ w) : bitLen x ≤ w := by
  unfold bitLen
  split
  · exact Nat.zero_le w
  · next h => exact (Nat.log2_lt h).2 hx

/-- w less the number of bits of an element is the number of its leading zero bits. -/
theorem leadingZeros_spec {w x : Nat} (hx : x < 2 ^ w) :
    w - bitLen x ≤ w ∧ x < 2 ^ (w - (w - bitLen x)) ∧ (w - bitLen x < w → 2 ^ (w - (w - bitLen x) - 1) ≤ x) := by
  rw [Nat.sub_sub_self (bitLen_le hx)]
  exact ⟨Nat.sub_le .., lt_two_pow_bitLen x, fun h => two_pow_le_of_bitLen_pos (by omega)⟩

/-! ### The statements -/

/-- Settles O7: each instruction is a shared vector form of an element operation, which on elements below 2^w is what R144 says. -/
theorem vectorArithmetic : Obligations.VectorArithmetic := by
  unfold Obligations.VectorArithmetic
  intro s c t m d a b x ht h w p q r short sgn num
  have hp (k : Nat) : p k < 2 ^ w := elem_lt ..
  have hq (k : Nat) : q k < 2 ^ w := elem_lt ..
  have hV2 : ∀ r ∈ [RegId.v a.toNat, .v d.toNat], r ∈ [RegId.v a.toNat, .v b.toNat, .v x.toNat, .v d.toNat] := by simp
  have hV3 : ∀ r ∈ [RegId.v a.toNat, .v b.toNat, .v d.toNat], r ∈ [RegId.v a.toNat, .v b.toNat, .v x.toNat, .v d.toNat] := by simp
  exact ⟨vx2_writes (addElem t m) ht h hV3 rfl fun k => rfl,
    vx2_writes (subElem t m) ht h hV3 rfl fun k => (subElem_eq t m (p k) (hq k)).symm,
    vx2_writes (mulElem t m) ht h hV3 rfl fun k => rfl,
    vxLanes_writes [srcV a 0, srcV b 1, srcV x 2] ht h (fun _ hr => hr) rfl fun k => rfl,
    vx2_writes (minmaxElem t false) ht h hV3 rfl fun k => (minmaxElem_min t (p k) (q k)).symm,
    vx2_writes (minmaxElem t true) ht h hV3 rfl fun k => (minmaxElem_max t (p k) (q k)).symm,
    vx1_writes (absElem t) ht h hV2 rfl fun k => (absElem_eq t (hp k)).symm,
    vx1_writes (negElem t) ht h hV2 rfl fun k => rfl⟩

/-- Settles O8: each instruction is a shared vector form of an element operation, which on elements below 2^w is what R145 and R146 say. -/
theorem vectorIntegerOps : Obligations.VectorIntegerOps := by
  unfold Obligations.VectorIntegerOps
  intro s c t d a b hint h w p q sgn clamp
  have ht := isTaper_of_isInt hint
  have hp (k : Nat) : p k < 2 ^ w := elem_lt ..
  have hsat (z : Int) : clamp z = satInt w z := (satInt_eq (width_pos t) z).symm
  have hV2 : ∀ r ∈ [RegId.v a.toNat, .v d.toNat], r ∈ [RegId.v a.toNat, .v b.toNat, .v d.toNat] := by simp
  have hV3 : ∀ r ∈ [RegId.v a.toNat, .v b.toNat, .v d.toNat], r ∈ [RegId.v a.toNat, .v b.toNat, .v d.toNat] := by simp
  exact ⟨vx2_writes (satElem t fun x y => x + y) ht h hV3 rfl fun k => hsat _,
    vx2_writes (satElem t fun x y => x - y) ht h hV3 rfl fun k => hsat _,
    vx2_writes (mulhElem t) ht h hV3 rfl fun k => rfl,
    vx2_writes (fun x y => plain (x &&& y)) ht h hV3 rfl fun k => rfl,
    vx2_writes (fun x y => plain (x ||| y)) ht h hV3 rfl fun k => rfl,
    vx2_writes (fun x y => plain (x ^^^ y)) ht h hV3 rfl fun k => rfl,
    vx1_writes (fun x => plain (2 ^ t.width - 1 - x)) ht h hV2 rfl fun k => congrArg plain (toNat_not_ofNat (hp k)),
    vx2_writes (shlElem t) ht h hV3 rfl fun k => (shlElem_eq t (q k) (hp k)).symm,
    vx2_writes (shrElem t) ht h hV3 rfl fun k => (shrElem_eq t (q k) (hp k)).symm,
    vx2_writes (sarElem t) ht h hV3 rfl fun k => (sarElem_eq t (p k) (q k)).symm,
    vxLanes_writes [] ht h (by simp) rfl fun k => rfl,
    fun k => w - bitLen (p k), vx1_writes (fun x => plain (t.width - bitLen x)) ht h hV2 rfl fun k => rfl,
    fun k _ => leadingZeros_spec (hp k)⟩

end Sys2Proof.Machine

/-! The encoding read back (03 R65 R73 to R79): a word and its fields name each other, and what a slot's map reads is an instruction of that slot. -/

namespace Sys2Proof.Laws

/-! ### Words and their fields (03 R59 R65) -/

/-- Two neighbouring fields of a word are one field. -/
theorem extract_append_extract (w : BitVec 64) {hi lo m n : Nat} (h : hi = lo + n) :
    w.extractLsb' hi m ++ w.extractLsb' lo n = w.extractLsb' lo (m + n) := by
  subst h
  apply BitVec.eq_of_getLsbD_eq
  intro k hk
  simp only [BitVec.getLsbD_append, BitVec.getLsbD_extractLsb']
  split
  · simp [*]
  · rw [show lo + n + (k - n) = lo + k by omega, decide_eq_true (show k - n < m by omega), decide_eq_true hk]

theorem ofBool_getLsbD (w : BitVec 64) (k : Nat) : BitVec.ofBool (w.getLsbD k) = w.extractLsb' k 1 := by
  apply BitVec.eq_of_getLsbD_eq
  simp [BitVec.getLsbD_ofBool]

/-- A word is the packing of its fields. -/
theorem pack_unpack (w : BitVec 64) : (Fields.unpack w).pack = w := by
  simp only [Fields.pack, Fields.unpack, bit1, ofBool_getLsbD]
  repeat rw [extract_append_extract w (by decide)]
  exact BitVec.extractLsb'_eq_self

/-- The fields of a packing are those that were packed: each lies above the ones appended after it. -/
theorem unpack_pack (f : Fields) : Fields.unpack f.pack = f := by
  obtain ⟨fn, ⟨sch, ch, fe, g2n, g2, g1n, g1⟩, e, c, b, a, d, opc⟩ := f
  simp only [Fields.unpack, Fields.pack, Fields.mk.injEq, Ctl.mk.injEq, bit1]
  refine ⟨?_, ⟨?_, ?_, ?_, ?_, ?_, ?_, ?_⟩, ?_, ?_, ?_, ?_, ?_, ?_⟩
  case refine_5 | refine_7 => simp only [BitVec.getLsbD_append]; simp
  all_goals repeat rw [BitVec.extractLsb'_append_eq_of_le (by decide)]
  case refine_1 => exact BitVec.extractLsb'_eq_self
  all_goals exact BitVec.extractLsb'_append_eq_right

/-- A header is read back from its packing (03 R59). -/
theorem decodeHeader_pack (h : Header) : decodeHeader h.pack = some h := by
  obtain ⟨stamp, stv, run, pres⟩ := h
  have hzero : (Header.pack ⟨stamp, stv, run, pres⟩).extractLsb' 29 35 = 0 := by
    unfold Header.pack
    repeat rw [BitVec.extractLsb'_append_eq_of_le (by decide)]
    exact BitVec.extractLsb'_eq_self
  simp only [decodeHeader, hzero, if_true, Option.some.injEq, Header.mk.injEq]
  simp only [Header.pack, bit1]
  refine ⟨?_, ?_, ?_, ?_⟩
  case refine_2 => simp only [BitVec.getLsbD_append]; simp
  all_goals repeat rw [BitVec.extractLsb'_append_eq_of_le (by decide)]
  all_goals exact BitVec.extractLsb'_append_eq_right

/-! ### What a slot's map reads (03 R74 to R79) -/

theorem readBr_slot {f : Fields} {i : Instr} (h : readBr f = some (some i)) : i.slot = some .br := by
  unfold readBr at h
  split at h
  all_goals grind [Instr.slot, Option.map_eq_some_iff, Option.bind_eq_some_iff]

theorem readSa_slot {f : Fields} {i : Instr} (h : readSa f = some (some i)) : i.slot = some .sa := by
  unfold readSa at h
  split at h
  all_goals grind [Instr.slot, Option.map_eq_some_iff, Option.bind_eq_some_iff]

theorem readVx_slot {f : Fields} {i : Instr} (h : readVx f = some (some i)) : i.slot = some .vx := by
  unfold readVx at h
  split at h
  all_goals grind [Instr.slot, Option.map_eq_some_iff, Option.bind_eq_some_iff]

theorem readMx_slot {f : Fields} {i : Instr} (h : readMx f = some (some i)) : i.slot = some .mx := by
  unfold readMx at h
  split at h
  all_goals grind [Instr.slot, Option.map_eq_some_iff, Option.bind_eq_some_iff]

theorem readMs_slot {f : Fields} {i : Instr} (h : readMs f = some (some i)) : i.slot = some .ms := by
  unfold readMs at h
  split at h
  all_goals grind [Instr.slot, Option.map_eq_some_iff, Option.bind_eq_some_iff]

/-- What is read in a slot is an instruction of the slot; SB reads those of SA as well. -/
theorem readSlot_slot {sl : Slot} {f : Fields} {i : Instr} (h : readSlot sl f = some (some i)) :
    i.slot = some sl ∨ (sl = .sb ∧ i.slot = some .sa) := by
  cases sl with
  | br => exact .inl (readBr_slot h)
  | sa => exact .inl (readSa_slot h)
  | sb =>
    simp only [readSlot] at h
    unfold readSb at h
    split at h
    case h_9 => exact .inr ⟨rfl, readSa_slot h⟩
    all_goals
      cases h
      exact .inl rfl
  | vx => exact .inl (readVx_slot h)
  | mx => exact .inl (readMx_slot h)
  | ms => exact .inl (readMs_slot h)

/-- SB has no opcode of SA for another instruction. -/
theorem readSb_of_readSa {f : Fields} {r : Option Instr} (h : readSa f = some r) : readSb f = some r := by
  rw [← h]
  unfold readSb
  split <;> simp_all [readSa]

/-- Each instruction is read from the fields of its encoding. -/
theorem reads (i : Instr) : Reads.Statement i := by
  cases i
  any_goals exact Reads.none_slot rfl
  exacts [Reads.bprep _ _ _, Reads.bpreps _ _ _, Reads.br _ _, Reads.call _ _, Reads.ret _, Reads.loopset _ _ _, Reads.loopbrk _ _,
    Reads.endTask _, Reads.yield _, Reads.wait _ _ _, Reads.waitt _ _, Reads.trap _ _, Reads.eret _, Reads.brk _ _, Reads.mfsr _ _ _,
    Reads.mtsr _ _ _, Reads.sleep _, Reads.evpop _ _, Reads.add _ _ _ _, Reads.addi _ _ _ _, Reads.sub _ _ _ _, Reads.and _ _ _ _,
    Reads.andi _ _ _ _, Reads.or _ _ _ _, Reads.ori _ _ _ _, Reads.xor _ _ _ _, Reads.xori _ _ _ _, Reads.shl _ _ _ _, Reads.shli _ _ _ _,
    Reads.shr _ _ _ _, Reads.shri _ _ _ _, Reads.sar _ _ _ _, Reads.sari _ _ _ _, Reads.rotl _ _ _ _, Reads.min _ _ _ _,
    Reads.max _ _ _ _, Reads.minu _ _ _ _, Reads.maxu _ _ _ _, Reads.adds _ _ _ _, Reads.subs _ _ _ _, Reads.abs _ _ _, Reads.clz _ _ _,
    Reads.ctz _ _ _, Reads.popc _ _ _, Reads.brev _ _ _, Reads.mov _ _ _, Reads.movi _ _ _, Reads.movhi _ _ _, Reads.sext _ _ _ _,
    Reads.zext _ _ _ _, Reads.bfx _ _ _ _ _, Reads.bfi _ _ _ _ _, Reads.lea _ _ _ _ _, Reads.sel _ _ _ _ _, Reads.cmp _ _ _ _ _,
    Reads.cmpi _ _ _ _ _, Reads.pand _ _ _ _, Reads.por _ _ _ _, Reads.pxor _ _ _ _, Reads.pnot _ _ _, Reads.pmov _ _ _,
    Reads.fadd _ _ _ _ _, Reads.fsub _ _ _ _ _, Reads.fmul _ _ _ _ _, Reads.ffma _ _ _ _ _ _, Reads.fmin _ _ _ _, Reads.fmax _ _ _ _,
    Reads.fcmp _ _ _ _ _, Reads.fcvti _ _ _ _ _, Reads.icvtf _ _ _ _ _, Reads.mul _ _ _ _, Reads.muli _ _ _ _, Reads.mulh _ _ _ _,
    Reads.mulhu _ _ _ _, Reads.div _ _ _ _, Reads.divu _ _ _ _, Reads.rem _ _ _ _, Reads.remu _ _ _ _, Reads.vadd _ _ _ _ _ _,
    Reads.vsub _ _ _ _ _ _, Reads.vmul _ _ _ _ _ _, Reads.vfma _ _ _ _ _ _ _, Reads.vmin _ _ _ _ _, Reads.vmax _ _ _ _ _,
    Reads.vabs _ _ _ _, Reads.vneg _ _ _ _, Reads.vand _ _ _ _ _, Reads.vor _ _ _ _ _, Reads.vxor _ _ _ _ _, Reads.vnot _ _ _ _,
    Reads.vshl _ _ _ _ _, Reads.vshr _ _ _ _ _, Reads.vsar _ _ _ _ _, Reads.vadds _ _ _ _ _, Reads.vsubs _ _ _ _ _, Reads.vmulh _ _ _ _ _,
    Reads.vcmp _ _ _ _ _ _, Reads.vsel _ _ _ _ _ _, Reads.vmov _ _ _ _, Reads.vbcast _ _ _ _, Reads.vext _ _ _ _ _, Reads.vins _ _ _ _ _,
    Reads.vperm _ _ _ _ _, Reads.vrot _ _ _ _ _, Reads.vslide _ _ _ _ _ _, Reads.vzip _ _ _ _ _ _, Reads.vunzip _ _ _ _ _ _,
    Reads.vredadd _ _ _ _, Reads.vredmin _ _ _ _, Reads.vredmax _ _ _ _, Reads.vscan _ _ _ _, Reads.vany _ _ _ _, Reads.vall _ _ _ _,
    Reads.vpopc _ _ _ _, Reads.vrcp _ _ _ _ _, Reads.vrsq _ _ _ _ _, Reads.vsqrt _ _ _ _ _, Reads.vexp2 _ _ _ _ _, Reads.vlog2 _ _ _ _ _,
    Reads.vtanh _ _ _ _ _, Reads.vsigm _ _ _ _ _, Reads.vdiv _ _ _ _ _ _, Reads.vcvt _ _ _ _ _ _ _, Reads.vmaxexp _ _ _,
    Reads.vqcvt _ _ _ _ _ _, Reads.vdq _ _ _ _ _ _ _, Reads.vfxcvt _ _ _ _ _ _ _, Reads.vflcvt _ _ _ _ _ _ _, Reads.viota _ _ _,
    Reads.vclz _ _ _ _, Reads.osclaim _ _ _ _, Reads.osrel _ _, Reads.osld _ _ _ _, Reads.mwld _ _ _ _, Reads.mma _ _ _ _ _ _,
    Reads.mmaz _ _ _ _ _ _, Reads.maccz _ _ _, Reads.maccrd _ _ _ _, Reads.maccwr _ _ _ _, Reads.maccst _ _ _ _, Reads.maccld _ _ _ _ _,
    Reads.mwait _ _, Reads.mfence _, Reads.ld _ _ _ _ _, Reads.st _ _ _ _ _, Reads.ldl _ _ _ _ _, Reads.stl _ _ _ _ _,
    Reads.vld _ _ _ _ _, Reads.vst _ _ _ _ _, Reads.vldl _ _ _ _ _, Reads.vstl _ _ _ _ _, Reads.vlds _ _ _ _ _ _, Reads.vsts _ _ _ _ _ _,
    Reads.vldx _ _ _ _ _ _, Reads.vstx _ _ _ _ _ _, Reads.ldblk _ _ _ _ _, Reads.blkrel _ _, Reads.regmap _ _ _ _ _, Reads.regflush _ _ _,
    Reads.regdrop _ _ _, Reads.aadd _ _ _ _ _, Reads.amin _ _ _ _ _, Reads.amax _ _ _ _ _, Reads.aand _ _ _ _ _, Reads.aor _ _ _ _ _,
    Reads.axor _ _ _ _ _, Reads.axchg _ _ _ _ _, Reads.acas _ _ _ _ _ _, Reads.aaddw _ _ _ _, Reads.ared _ _ _ _ _, Reads.fence _ _,
    Reads.push _ _ _ _, Reads.pushc _ _ _, Reads.barinit _ _ _, Reads.bararr _ _ _ _, Reads.waitmem _ _ _ _ _ _,
    Reads.fatom _ _ _ _ _ _ _ _, Reads.frel _]

/-- An instruction of a slot has an encoding. -/
theorem fields_of_slot {i : Instr} {sl : Slot} (h : i.slot = some sl) : ∃ f, i.fields = some f := by
  cases i
  any_goals exact ⟨_, rfl⟩
  all_goals cases h

/-- A word decodes to the well-formed instruction that its slot's map reads and whose encoding it is. -/
theorem decodeWord_ok_iff {sl : Slot} {w : BitVec 64} {i : Instr} :
    decodeWord sl w = .ok i ↔
      readSlot sl (Fields.unpack w) = some (some i) ∧ i.wf = true ∧ i.fields = some (Fields.unpack w) := by
  unfold decodeWord
  split
  · simp [*]
  · simp [*]
  · split <;> grind

theorem encode_iff {i : Instr} {w : BitVec 64} : encode i = some w ↔ i.fields = some (Fields.unpack w) := by
  simp only [encode, Option.map_eq_some_iff]
  constructor
  · rintro ⟨f, hf, rfl⟩
    rw [hf, unpack_pack]
  · intro h
    exact ⟨_, h, pack_unpack w⟩

/-- Settles O55: fields and words name each other, and each slot's map reads an instruction back from its fields. -/
theorem decodeEncode : Obligations.DecodeEncode := by
  refine ⟨fun i sl hsl hwf => ?_, fun sl w i h => ?_, decodeHeader_pack⟩
  · obtain ⟨f, hf⟩ := fields_of_slot hsl
    have hread := reads i sl f hsl hf
    refine ⟨f.pack, by rw [encode, hf]; rfl, ?_, ?_⟩
    · rw [decodeWord_ok_iff, unpack_pack]
      exact ⟨hread, hwf, hf⟩
    · rintro rfl
      rw [decodeWord_ok_iff, unpack_pack]
      exact ⟨readSb_of_readSa hread, hwf, hf⟩
  · obtain ⟨hread, hwf, hf⟩ := decodeWord_ok_iff.1 h
    exact ⟨readSlot_slot hread, hwf, encode_iff.2 hf⟩

end Sys2Proof.Laws

/-! What a scalar instruction writes (05 R101), what each operation of 05 R103 to R107 comes to on words, and the statements of the SA and SB
slots. -/

namespace Sys2Proof.Machine

/-! ### The shared scalar forms -/

@[simp] theorem srcS_reg (r : BitVec 6) (i : Nat) : (srcS r i).reg = .s r.toNat := rfl
@[simp] theorem srcV_reg (r : BitVec 6) (i : Nat) : (srcV r i).reg = .v r.toNat := rfl
@[simp] theorem srcP_reg (r : BitVec 6) (i : Nat) : (srcP r i).reg = .p r.toNat := rfl
@[simp] theorem datS_reg (r : BitVec 6) : (datS r).reg = .s r.toNat := rfl
@[simp] theorem datV_reg (r : BitVec 6) : (datV r).reg = .v r.toNat := rfl

section
variable {s : State} {c : Ctl} {d a b : BitVec 6} {srcs : List Src} {lat : Nat} {l : List RegId} {i : Instr} {x y : Word} {f g : Flags}
  {p q : Pred}

/-- A scalar instruction that finds everything ready writes its result (05 R101). -/
theorem toS_gives (h : s.Ready c l) (hi : exec i s = toS s c srcs d lat x f) (hl : ∀ r ∈ srcs.map (·.reg) ++ [.s d.toNat], r ∈ l)
    (hx : y = x) (hf : g = f) : GivesS s d lat i y g := by
  subst hx hf
  exact hi.trans (issue_ready s c _ _ l h rfl (fun hn => nomatch hn) (fun hn => nomatch hn) hl)

/-- An instruction with a predicate for its result that finds everything ready writes it (05 R101). -/
theorem toP_gives (h : s.Ready c l) (hi : exec i s = toP s c srcs d p) (hl : ∀ r ∈ srcs.map (·.reg) ++ [.p d.toNat], r ∈ l)
    (hp : q = p) : GivesP s d 1 i q := by
  subst hp
  exact hi.trans (issue_ready s c _ _ l h rfl (fun hn => nomatch hn) (fun hn => nomatch hn) hl)

end

theorem full_append {s : State} {l m : List RegId} (h : s.Full l) (k : s.Full m) : s.Full (l ++ m) := fun r hr =>
  (List.mem_append.1 hr).elim (h r) (k r)

theorem ready_append {s : State} {c : Ctl} {l m : List RegId} (h : s.Ready c l) (k : s.Full m) : s.Ready c (l ++ m) :=
  ⟨h.1, h.2.1, full_append h.2.2 k⟩

/-! ### Shifts, minima and saturation (05 R103) -/

theorem rotl_eq (x y : Word) : x.rotateLeft (y.toNat % 64) = rotl x (shamt y) := by
  rw [BitVec.rotateLeft, BitVec.rotateLeftAux, Nat.mod_mod]
  rfl

theorem min_toInt_eq (x y : Word) : BitVec.ofInt 64 (min x.toInt y.toInt) = if y.slt x then y else x := by
  simp only [BitVec.slt_iff_toInt_lt]
  split
  · rw [min_eq_right (by omega), BitVec.ofInt_toInt]
  · rw [min_eq_left (by omega), BitVec.ofInt_toInt]

theorem max_toInt_eq (x y : Word) : BitVec.ofInt 64 (max x.toInt y.toInt) = if x.slt y then y else x := by
  simp only [BitVec.slt_iff_toInt_lt]
  split
  · rw [max_eq_right (by omega), BitVec.ofInt_toInt]
  · rw [max_eq_left (by omega), BitVec.ofInt_toInt]

theorem min_toNat_eq (x y : Word) : BitVec.ofNat 64 (min x.toNat y.toNat) = if y.ult x then y else x := by
  simp only [BitVec.ult_iff_lt, BitVec.lt_def]
  split
  · rw [min_eq_right (by omega), BitVec.ofNat_toNat, BitVec.setWidth_eq]
  · rw [min_eq_left (by omega), BitVec.ofNat_toNat, BitVec.setWidth_eq]

theorem max_toNat_eq (x y : Word) : BitVec.ofNat 64 (max x.toNat y.toNat) = if x.ult y then y else x := by
  simp only [BitVec.ult_iff_lt, BitVec.lt_def]
  split
  · rw [max_eq_right (by omega), BitVec.ofNat_toNat, BitVec.setWidth_eq]
  · rw [max_eq_left (by omega), BitVec.ofNat_toNat, BitVec.setWidth_eq]

/-- Sat(z, i64) is z clamped, with SAT exactly when it has been clamped (00 R8). -/
theorem satInt_clamp (z : Int) :
    BitVec.ofInt 64 (max (-2 ^ 63) (min (2 ^ 63 - 1) z)) = BitVec.ofNat 64 (satInt 64 z).bits ∧
      (if -2 ^ 63 ≤ z ∧ z ≤ 2 ^ 63 - 1 then 0 else 0x02) = (satInt 64 z).flags := by
  rw [satInt]
  simp only [Nat.add_one_sub_one]
  split
  · next h => rw [min_eq_left (by omega), if_neg (by omega)]; exact ⟨by decide, rfl⟩
  · split
    · next h => rw [min_eq_right (by omega), max_eq_left (by omega), if_neg (by omega)]; exact ⟨by decide, rfl⟩
    · rw [min_eq_right (by omega), max_eq_right (by omega), if_pos (by omega), BitVec.ofNat_toNat, BitVec.setWidth_eq]
      exact ⟨rfl, rfl⟩

/-- An immediate count from 0 to 63 is its own low six bits (05 R103). -/
theorem shamt_imm {imm : BitVec 25} (h : imm.toNat < 64) : shamt (imm.signExtend 64) = imm.toNat := by
  have hm : imm.msb = false := by rw [BitVec.msb_eq_decide]; simp; omega
  rw [shamt, BitVec.toNat_signExtend, hm]
  simp
  omega

/-- Settles O1: each instruction is a shared scalar form, whose operation on words is what 05 R103 says. -/
theorem aluResults : Obligations.AluResults := by
  refine ⟨?_, ?_⟩
  · intro s c d a b h x y n clamp sat
    have hl : ∀ r ∈ [RegId.s a.toNat, .s b.toNat, .s d.toNat], r ∈ [RegId.s a.toNat, .s b.toNat, .s d.toNat] := fun _ hr => hr
    exact ⟨toS_gives h rfl hl rfl rfl, toS_gives h rfl hl rfl rfl, toS_gives h rfl hl rfl rfl, toS_gives h rfl hl rfl rfl,
      toS_gives h rfl hl rfl rfl, toS_gives h rfl hl rfl rfl, toS_gives h rfl hl rfl rfl, toS_gives h rfl hl rfl rfl,
      toS_gives h rfl hl (rotl_eq x y) rfl, toS_gives h rfl hl (min_toInt_eq x y) rfl, toS_gives h rfl hl (max_toInt_eq x y) rfl,
      toS_gives h rfl hl (min_toNat_eq x y) rfl, toS_gives h rfl hl (max_toNat_eq x y) rfl,
      toS_gives h rfl hl (satInt_clamp _).1 (satInt_clamp _).2, toS_gives h rfl hl (satInt_clamp _).1 (satInt_clamp _).2⟩
  · intro s c d a imm h x y
    have hl : ∀ r ∈ [RegId.s a.toNat, .s d.toNat], r ∈ [RegId.s a.toNat, .s d.toNat] := fun _ hr => hr
    refine ⟨toS_gives h rfl hl rfl rfl, toS_gives h rfl hl rfl rfl, toS_gives h rfl hl rfl rfl, toS_gives h rfl hl rfl rfl,
      fun himm => ?_⟩
    have hn : imm.toNat = shamt (imm.signExtend 64) := (shamt_imm himm).symm
    exact ⟨toS_gives h rfl hl (congrArg (x <<< ·) hn) rfl, toS_gives h rfl hl (congrArg (x >>> ·) hn) rfl,
      toS_gives h rfl hl (congrArg x.sshiftRight hn) rfl⟩

/-! ### Counting and reversing bits (05 R104) -/

theorem abs_eq (x : Word) : BitVec.ofNat 64 x.toInt.natAbs = if x.msb then -x else x := by
  split
  · next h =>
    rw [BitVec.toInt_eq_neg_toNat_neg_of_msb_true h, Int.natAbs_neg, Int.natAbs_natCast, BitVec.ofNat_toNat, BitVec.setWidth_eq]
  · next h => rw [BitVec.toInt_eq_toNat_of_msb (by simpa using h), Int.natAbs_natCast, BitVec.ofNat_toNat, BitVec.setWidth_eq]

/-- 64 less the number of bits of a word is the number of zeros above its highest 1. -/
theorem clz_spec (x : Word) :
    (∀ k, 64 - (64 - bitLen x.toNat) ≤ k → x.getLsbD k = false) ∧
      (64 - bitLen x.toNat < 64 → x.getLsbD (63 - (64 - bitLen x.toNat)) = true) := by
  obtain ⟨-, hlt, hle⟩ := leadingZeros_spec x.isLt
  constructor
  · intro k hk
    rw [← BitVec.testBit_toNat]
    exact Nat.testBit_lt_two_pow (hlt.trans_le (Nat.pow_le_pow_right two_pos hk))
  · intro hn
    have hpos := hle hn
    rw [← BitVec.testBit_toNat]
    refine Nat.testBit_of_two_pow_le_and_two_pow_add_one_gt ?_ ?_
    · rwa [show 63 - (64 - bitLen x.toNat) = 64 - (64 - bitLen x.toNat) - 1 by omega]
    · rwa [show 63 - (64 - bitLen x.toNat) + 1 = 64 - (64 - bitLen x.toNat) by omega]

/-- Counting from bit i over n bits stops at the first 1, or past them all. -/
theorem ctzFrom_spec (x i n : Nat) :
    i ≤ ctzFrom x i n ∧ ctzFrom x i n ≤ i + n ∧ (∀ k, i ≤ k → k < ctzFrom x i n → x.testBit k = false) ∧
      (ctzFrom x i n < i + n → x.testBit (ctzFrom x i n) = true) := by
  induction n generalizing i with
  | zero => exact ⟨le_rfl, le_rfl, fun k h1 h2 => absurd h1 (by simpa [ctzFrom] using h2), fun h => absurd h (by simp [ctzFrom])⟩
  | succ n ih =>
    rw [ctzFrom]
    split
    · next h => exact ⟨le_rfl, by omega, fun k h1 h2 => absurd h1 (by omega), fun _ => h⟩
    · next h =>
      obtain ⟨h1, h2, h3, h4⟩ := ih (i + 1)
      refine ⟨by omega, by omega, fun k hk hlt => ?_, fun hlt => h4 (by omega)⟩
      rcases hk.eq_or_lt with rfl | hk
      · simpa using h
      · exact h3 k hk hlt

theorem popCount_eq (x n : Nat) : popCount x n = ((List.range n).filter x.testBit).length := by
  induction n with
  | zero => rfl
  | succ n ih =>
    rw [popCount, List.range_succ, List.filter_append, List.length_append, ih, Nat.add_comm]
    split <;> simp [*]

theorem bitRev_lt (x n : Nat) : bitRev x n < 2 ^ n := by
  induction n generalizing x with
  | zero => simp [bitRev]
  | succ n ih =>
    have h := ih (x / 2)
    rcases Nat.mod_two_eq_zero_or_one x with hx | hx <;> rw [bitRev, hx, Nat.pow_succ] <;> omega

/-- Bit k of the reversal of n bits is bit n − 1 − k. -/
theorem testBit_bitRev (x n k : Nat) (hk : k < n) : (bitRev x n).testBit k = x.testBit (n - 1 - k) := by
  induction n generalizing x k with
  | zero => omega
  | succ n ih =>
    rw [bitRev, Nat.mul_comm, Nat.testBit_two_pow_mul_add _ (bitRev_lt (x / 2) n)]
    split
    · next h => rw [ih (x / 2) k h, Nat.testBit_div_two]; congr 1; omega
    · next h =>
      obtain rfl : k = n := by omega
      rw [Nat.sub_self, show k + 1 - 1 - k = 0 by omega, Nat.testBit_zero, Nat.testBit_zero, Nat.mod_mod]

/-- Settles O2: the counts and the reversal are those of the bits of the word. -/
theorem oneSourceResults : Obligations.OneSourceResults := by
  intro s c d a h x
  have hl : ∀ r ∈ [RegId.s a.toNat, .s d.toNat], r ∈ [RegId.s a.toNat, .s d.toNat] := fun _ hr => hr
  have hpop : BitVec.ofNat 64 ((List.range 64).filter x.getLsbD).length = BitVec.ofNat 64 (popCount x.toNat 64) := by
    rw [popCount_eq]
    rfl
  refine ⟨toS_gives h rfl hl rfl rfl, toS_gives h rfl hl (abs_eq x) rfl,
    ⟨64 - bitLen x.toNat, Nat.sub_le .., toS_gives h rfl hl rfl rfl, clz_spec x⟩,
    ⟨ctzFrom x.toNat 0 64, ?_, toS_gives h rfl hl rfl rfl, ?_, ?_⟩, toS_gives h rfl hl hpop rfl,
    ⟨BitVec.ofNat 64 (bitRev x.toNat 64), toS_gives h rfl hl rfl rfl, fun k hk => ?_⟩⟩
  · exact (ctzFrom_spec x.toNat 0 64).2.1
  · exact fun k hk => (ctzFrom_spec x.toNat 0 64).2.2.1 k (Nat.zero_le k) hk
  · exact (ctzFrom_spec x.toNat 0 64).2.2.2
  · rw [BitVec.getLsbD_ofNat, decide_eq_true hk, Bool.true_and, testBit_bitRev _ _ _ hk]
    rfl

/-! ### Bit fields (05 R105 R107) -/

theorem sext64_eq (w : Nat) (x : Word) : (x.setWidth w).signExtend 64 = sext64 w x.toNat := by
  rw [sext64, BitVec.ofNat_toNat]
  rfl

theorem bfx_eq (x : Word) (pos w : Nat) : (x.extractLsb' pos w).zeroExtend 64 = bfx x pos w := by
  apply BitVec.eq_of_toNat_eq
  rw [bfx, BitVec.toNat_setWidth, BitVec.extractLsb'_toNat, Nat.shiftRight_eq_div_pow, BitVec.toNat_ofNat]

theorem zext_eq (x : Word) (w : Nat) : (x.setWidth w).zeroExtend 64 = bfx x 0 w := by
  apply BitVec.eq_of_toNat_eq
  rw [bfx, BitVec.toNat_setWidth, BitVec.toNat_setWidth, BitVec.toNat_ofNat, Nat.pow_zero, Nat.div_one]

/-- The bits from pos up to pos + w − 1 are those of the source's low bits, the others those of the old value. -/
theorem getLsbD_bfi (old x : Word) {pos w k : Nat} (hk : k < 64) :
    (bfi old x pos w).getLsbD k = if pos ≤ k ∧ k < pos + w then x.getLsbD (k - pos) else old.getLsbD k := by
  have hmask : (BitVec.ofNat 64 ((2 ^ w - 1) * 2 ^ pos)).getLsbD k = decide (pos ≤ k ∧ k < pos + w) := by
    rw [BitVec.getLsbD_ofNat, decide_eq_true hk, Bool.true_and, Nat.testBit_mul_two_pow, Nat.testBit_two_pow_sub_one]
    grind
  simp only [bfi, BitVec.getLsbD_or, BitVec.getLsbD_and, BitVec.getLsbD_not, BitVec.getLsbD_shiftLeft, hmask]
  split <;> grind

/-- Settles O3: each instruction is a shared scalar form, whose operation on words is what 05 R105 to R109 say. -/
theorem fieldResults : Obligations.FieldResults := by
  intro s c d a h x
  have hl : ∀ r ∈ [RegId.s a.toNat, .s d.toNat], r ∈ [RegId.s a.toNat, .s d.toNat] := fun _ hr => hr
  have hd : ∀ r ∈ [RegId.s d.toNat], r ∈ [RegId.s a.toNat, .s d.toNat] := by simp
  refine ⟨fun imm => ⟨toS_gives h rfl hd rfl rfl, toS_gives h rfl (by simp) rfl rfl⟩,
    fun w => ⟨toS_gives h rfl hl (sext64_eq _ x) rfl, toS_gives h rfl hl (zext_eq x _) rfl⟩,
    fun pos w hw => ⟨toS_gives h rfl hl (bfx_eq x _ _) rfl, _, toS_gives h rfl (by simp) rfl rfl, fun k hk => ?_⟩,
    fun b sh hb => toS_gives (ready_append h hb) rfl (by simp) rfl rfl,
    fun b p hb => toS_gives (ready_append h hb) rfl (by simp) rfl rfl⟩
  rw [getLsbD_bfi _ _ hk]
  simp only [← Nat.add_assoc, Nat.lt_succ_iff]
  rfl

/-! ### Products, quotients and remainders (05 R106) -/

/-- The high half of the 128 low bits of an integer. -/
theorem high_ofInt (z : Int) : (BitVec.ofInt 128 z).extractLsb' 64 64 = BitVec.ofInt 64 (z / 2 ^ 64) := by
  apply BitVec.eq_of_toNat_eq
  rw [BitVec.extractLsb'_toNat, BitVec.toNat_ofInt, BitVec.toNat_ofInt, Nat.shiftRight_eq_div_pow]
  omega

theorem mulh_eq (x y : Word) :
    (x.signExtend 128 * y.signExtend 128).extractLsb' 64 64 = BitVec.ofInt 64 (x.toInt * y.toInt / 2 ^ 64) := by
  rw [← high_ofInt, BitVec.ofInt_mul]
  rfl

theorem mulhu_eq (x y : Word) :
    (x.zeroExtend 128 * y.zeroExtend 128).extractLsb' 64 64 = BitVec.ofNat 64 (x.toNat * y.toNat / 2 ^ 64) := by
  have hx : x.zeroExtend 128 = BitVec.ofInt 128 x.toNat := by rw [BitVec.ofInt_natCast, BitVec.ofNat_toNat]
  have hy : y.zeroExtend 128 = BitVec.ofInt 128 y.toNat := by rw [BitVec.ofInt_natCast, BitVec.ofNat_toNat]
  rw [hx, hy, ← BitVec.ofInt_mul, high_ofInt, ← BitVec.ofInt_natCast]
  norm_cast

theorem remS_eq {x y : Word} (hy : y ≠ 0) : x - y * BitVec.ofInt 64 (x.toInt.tdiv y.toInt) = remS x y := by
  have hx : x = BitVec.ofInt 64 (x.toInt.tmod y.toInt + y.toInt * x.toInt.tdiv y.toInt) := by
    rw [Int.tmod_add_mul_tdiv, BitVec.ofInt_toInt]
  rw [remS, if_neg hy, sub_eq_iff_eq_add]
  conv_lhs => rw [hx, BitVec.ofInt_add, BitVec.ofInt_mul, BitVec.ofInt_toInt]

theorem remU_eq {x y : Word} (hy : y ≠ 0) : x - y * BitVec.ofNat 64 (x.toNat / y.toNat) = remU x y := by
  have hx : x = BitVec.ofNat 64 (x.toNat % y.toNat + y.toNat * (x.toNat / y.toNat)) := by
    rw [Nat.mod_add_div, BitVec.ofNat_toNat, BitVec.setWidth_eq]
  rw [remU, if_neg hy, sub_eq_iff_eq_add]
  conv_lhs => rw [hx, BitVec.ofNat_add, BitVec.ofNat_mul, BitVec.ofNat_toNat, BitVec.setWidth_eq]

/-- Settles O4: the high halves of the 128-bit products, and remainders as what the quotient leaves. -/
theorem multiplyDivideResults : Obligations.MultiplyDivideResults := by
  intro s c d a b h x y
  have hl : ∀ r ∈ [RegId.s a.toNat, .s b.toNat, .s d.toNat], r ∈ [RegId.s a.toNat, .s b.toNat, .s d.toNat] := fun _ hr => hr
  refine ⟨toS_gives h rfl hl rfl rfl, fun imm => toS_gives h rfl (by simp) rfl rfl, toS_gives h rfl hl (mulh_eq x y) rfl,
    toS_gives h rfl hl (mulhu_eq x y) rfl, fun hy => ?_, fun hy => ?_⟩
  · exact ⟨toS_gives h rfl hl (if_pos hy).symm rfl, toS_gives h rfl hl (if_pos hy).symm rfl,
      toS_gives h rfl hl (if_pos hy).symm rfl, toS_gives h rfl hl (if_pos hy).symm rfl⟩
  · exact ⟨toS_gives h rfl hl (if_neg hy).symm rfl, toS_gives h rfl hl (if_neg hy).symm rfl,
      toS_gives h rfl hl (remS_eq hy) rfl, toS_gives h rfl hl (remU_eq hy) rfl⟩

/-! ### Compares and predicates (05 R110 R111 R113) -/

/-- The eight conditions of 03 R72 on words. -/
theorem icond_eq (k : Cond) (x y : Word) :
    icond k x y =
      match k with
      | .eq => decide (x = y)
      | .ne => decide (x ≠ y)
      | .lt => decide (x.toInt < y.toInt)
      | .le => decide (x.toInt ≤ y.toInt)
      | .gt => decide (y.toInt < x.toInt)
      | .ge => decide (y.toInt ≤ x.toInt)
      | .ltu => decide (x.toNat < y.toNat)
      | .geu => decide (y.toNat ≤ x.toNat) := by
  cases k
  case eq => exact Bool.beq_eq_decide_eq x y
  case ne => simp [icond, bne, Bool.beq_eq_decide_eq]
  all_goals rfl

theorem predAll_eq (r : Bool) : ({ bits := if r then BitVec.allOnes 256 else 0, tag := true } : Pred) = Pred.all r := by
  cases r <;> rfl

/-- Settles O5: each instruction is a shared form with a predicate result, whose operation is what 05 R110 and R111 say. -/
theorem predicateResults : Obligations.PredicateResults := by
  intro s c d a b h all holds
  have hcond (k : Cond) (x y : Word) : all (holds k x y) = Pred.all (icond k x y) := by
    rw [icond_eq]
    exact predAll_eq _
  refine ⟨fun ha => ⟨fun k imm => ?_, fun hb k => ?_⟩, fun ha => ?_⟩
  · exact toP_gives (ready_append h ha) rfl (by simp) (hcond ..)
  · exact toP_gives (ready_append (ready_append h ha) hb) rfl (by simp) (hcond ..)
  · have ha := ready_append h ha
    refine ⟨toP_gives ha rfl (by simp) rfl, toP_gives ha rfl (by simp) rfl, fun hb => ?_⟩
    have hb := ready_append ha hb
    exact ⟨toP_gives hb rfl (by simp) rfl, toP_gives hb rfl (by simp) rfl, toP_gives hb rfl (by simp) rfl⟩

/-- Settles O6: each instruction is a shared form with the operation of 02 that 05 R112 to R114 name. -/
theorem scalarFloatResults : Obligations.ScalarFloatResults := by
  intro s c m d a b h lo gives
  refine ⟨fun hd => ?_, fun hd k => ?_⟩
  · have h := ready_append h hd
    have hl : ∀ r ∈ [RegId.s a.toNat, .s b.toNat, .s d.toNat], r ∈ [RegId.s a.toNat, .s b.toNat] ++ [.s d.toNat] := by simp
    have hcvt (v : Nat) : BitVec.ofNat 64 v = sext64 64 v := (BitVec.ofInt_toInt ..).symm
    have hint (w : Nat) : ((s.rs a).setWidth w).toInt = signedOf w (s.rs a).toNat := by rw [signedOf, BitVec.ofNat_toNat]
    have hword : (s.rs a).toInt = signedOf 64 (s.rs a).toNat := by rw [← hint, BitVec.setWidth_eq]
    have henc {z y : Int} (hz : z = y) := congrArg (fun z => f32.encode m (.ofInt z)) hz
    refine ⟨toS_gives h rfl hl rfl rfl, toS_gives h rfl hl rfl rfl, toS_gives h rfl hl rfl rfl,
      fun x hx => toS_gives (ready_append h hx) rfl (by simp) rfl rfl, toS_gives h rfl hl rfl rfl, toS_gives h rfl hl rfl rfl,
      toS_gives h rfl (by simp) (hcvt _) rfl, toS_gives h rfl (by simp) rfl rfl,
      toS_gives h rfl (by simp) (congrArg (BitVec.ofNat 64 ·.bits) (henc (hint 32))) (congrArg Val.flags (henc (hint 32))),
      toS_gives h rfl (by simp) (congrArg (BitVec.ofNat 64 ·.bits) (henc hword)) (congrArg Val.flags (henc hword))⟩
  · exact toP_gives (ready_append h hd) rfl (by simp) rfl

end Sys2Proof.Machine

/-! What the permutes, compares, reductions, votes and conversions of the VX slot write (06 R147 to R161), and their statements. -/

namespace Sys2Proof.Machine

open Host (Outcome)

/-! ### The shared vector forms -/

theorem t6Clean_eq (t : Ty) (x : Nat) : t6Clean t x = if t = .t6 then x % 64 else x := by simp [t6Clean]

theorem t6Clean_of_isInt {t : Ty} (ht : t.isInt = true) (x : Nat) : t6Clean t x = x := t6Clean_of_not_taper (isTaper_of_isInt ht) x

/-- An instruction of the VX slot that finds everything ready, the lanes among it, comes to its body. -/
theorem issueVx_lanes {s : State} {c : Ctl} {f : Form} {e : Eff} {l : List RegId} (h : s.ReadyVx c l) (hg : f.guard = .lanes)
    (hb : f.br = false) (hl : ∀ r ∈ f.srcs.map (·.reg) ++ f.dsts, r ∈ l) : issueVx s c f e = e.out := by
  rw [issueVx, h.2]
  exact issue_lanes s c f e l h.1 hg hb hl

/-- One that takes its guard from bit 0 does as well. -/
theorem issueVx_bit0 {s : State} {c : Ctl} {f : Form} {e : Eff} {l : List RegId} (h : s.ReadyTile c l ∧ s.lanesHeld = false)
    (hg : f.guard = .bit0) (hb : f.br = false) (hl : ∀ r ∈ f.srcs.map (·.reg) ++ f.dsts, r ∈ l) : issueVx s c f e = e.out := by
  rw [issueVx, h.2]
  exact issue_ready s c f e l h.1.1 hg (fun _ => h.1.2) (fun hn => absurd hn (by simp [hb])) hl

section
variable {s : State} {c : Ctl} {t : Ty} {d : BitVec 6} {lat : Nat} {l : List RegId} {i : Instr} {srcs : List Src} {f : Nat → Nat}
  {g : Nat → Val}

/-- A per-lane instruction that copies: the bits it writes are clean (06 R149 R151). -/
theorem vxLanes_copies (h : s.ReadyVx c l) (hi : exec i s = vxLanes s c srcs t d lat fun k => plain (f k))
    (hl : ∀ r ∈ srcs.map (·.reg) ++ [.v d.toNat], r ∈ l) (hg : ∀ k, g k = plain (t6Clean t (f k))) : WritesLanes s c t d lat g i := by
  obtain rfl : g = fun k => plain (t6Clean t (f k)) := funext hg
  refine ⟨blend t (guardBits s.src c) (s.rv d) f, hi.trans (issueVx_lanes h rfl rfl hl), fun k hk => ?_⟩
  rw [laneOn_iff s c t k hk, elem_blend t _ _ _ k hk]
  exact ⟨fun hon => if_pos hon, fun hoff => if_neg hoff⟩

end

/-- What VINS puts at its place is clean, and an element of the old value stands as it is. -/
theorem inserted_mod (t : Ty) (p : Prop) [Decidable p] {x e : Nat} (he : e < 2 ^ t.width) :
    (if p then t6Clean t (x % 2 ^ t.width) else e) % 2 ^ t.width =
      if p then (if t = .t6 then x % 64 else x % 2 ^ t.width) else e := by
  rw [t6Clean_eq]
  split
  · split
    · next ht => subst ht; simp only [Ty.width]; omega
    · exact Nat.mod_mod ..
  · exact Nat.mod_eq_of_lt he

/-- Settles O10: each instruction is a shared form that copies elements of its sources. -/
theorem vectorMoves : Obligations.VectorMoves := by
  intro s c t d a b x h w n p pair copy half
  have hcopy (z : Nat) : copy z = plain (t6Clean t z) := congrArg plain (t6Clean_eq t z).symm
  have hzip : half * (n / 2) = if h then n / 2 else 0 := by cases h <;> simp [half]
  refine ⟨fun h1 => vxLanes_copies h1 rfl (by simp) fun k => hcopy _, fun h1 => vxLanes_copies h1 rfl (by simp) fun k => hcopy _,
    fun h1 => vxLanes_copies h1 rfl (by simp) fun k => hcopy _,
    fun h1 => ⟨vxLanes_copies h1 rfl (by simp) fun k => hcopy _, vxLanes_copies h1 rfl (by simp) fun k => ?_,
      vxLanes_copies h1 rfl (by simp) fun k => hcopy _⟩,
    fun h1 => vxLanes_copies h1 rfl (by simp) fun k => hcopy _, fun h1 => ?_, fun h1 => ?_⟩
  · rw [hzip]
    exact hcopy _
  · have hy (z : Nat) : (if t.isInt then (BitVec.ofNat w z).signExtend 64 else BitVec.ofNat 64 (if t = .t6 then z % 64 else z)) =
        if t.isInt then sext64 t.width (t6Clean t z) else BitVec.ofNat 64 (t6Clean t z) := by
      split
      · next ht => rw [t6Clean_of_isInt ht]; rfl
      · rw [t6Clean_eq]
    show GivesS s d 3 (.vext c t d a b) _
    rw [hy]
    exact issueVx_bit0 h1 rfl rfl (by simp)
  · refine ⟨_, issueVx_bit0 h1 rfl rfl (by simp), fun k hk => ?_⟩
    rw [elem_pack t.width (lanes_width t) _ k hk, inserted_mod t _ (elem_lt ..)]
    rfl

/-! ### Compares (06 R147) -/

theorem packBits_testBit (xs : List Bool) (k : Nat) : (packBits xs).testBit k = xs.getD k false := by
  induction xs generalizing k with
  | nil => simp [packBits]
  | cons x r ih =>
    cases k with
    | zero => cases x <;> simp [packBits, Nat.testBit_zero]
    | succ k =>
      rw [List.getD_cons_succ, ← ih, packBits, Nat.testBit_succ]
      congr 1
      split <;> omega

/-- Place i·m + j of n rows of length m is place j of row i. -/
theorem getD_flatMap_rows {f : Nat → List Bool} {m : Nat} (hf : ∀ i, (f i).length = m) {n i j : Nat} (hi : i < n) (hj : j < m) :
    ((List.range n).flatMap f).getD (i * m + j) false = (f i).getD j false := by
  induction n with
  | zero => omega
  | succ n ih =>
    have hlen : ((List.range n).flatMap f).length = n * m := by simp [List.length_flatMap, hf]
    rw [List.range_succ, List.flatMap_append, List.flatMap_singleton]
    rcases (Nat.lt_succ_iff.1 hi).lt_or_eq with hlt | rfl
    · have hle : (i + 1) * m ≤ n * m := Nat.mul_le_mul_right m hlt
      rw [List.getD_append _ _ _ _ (by rw [hlen]; rw [Nat.add_mul] at hle; omega), ih hlt]
    · rw [List.getD_append_right _ _ _ _ (by omega), hlen, Nat.add_sub_cancel_left]

theorem lane_start (t : Ty) (i : Nat) : i * t.width / 8 = i * (t.width / 8) := by
  cases t <;> simp only [Ty.width] <;> omega

theorem lane_bits (t : Ty) : lanesOf t.width * (t.width / 8) = 256 := by cases t <;> rfl

/-- Each of the w/8 bits of an active element is its condition; the others are as before (06 R147). -/
theorem getLsbD_cmpBits (t : Ty) (m old : BitVec 256) (f : Nat → Bool) {i j : Nat} (hi : i < lanesOf t.width) (hj : j < t.width / 8) :
    (cmpBits t m old f).getLsbD (i * t.width / 8 + j) =
      if laneBit m t.width i then f i else old.getLsbD (i * t.width / 8 + j) := by
  have hrow : (i + 1) * (t.width / 8) ≤ lanesOf t.width * (t.width / 8) := Nat.mul_le_mul_right _ hi
  rw [lane_bits, Nat.add_mul] at hrow
  rw [lane_start, cmpBits, BitVec.getLsbD_ofNat, decide_eq_true (by omega), Bool.true_and, packBits_testBit,
    getD_flatMap_rows (fun k => by split <;> simp) hi hj]
  split <;> simp [List.getD_eq_getElem?_getD, hj]

/-- Settles O9: VCMP's bits are those of its conditions, and VSEL is a shared form that copies. -/
theorem vectorCompareSelect : Obligations.VectorCompareSelect := by
  intro s c t k d a b p w cond
  refine ⟨fun h => ⟨_, issueVx_lanes h rfl rfl (by simp [vxForm]), fun i j hi hj => ?_⟩,
    fun h => vxLanes_copies h rfl (by simp) fun i => ?_⟩
  · rw [getLsbD_cmpBits t _ _ _ hi hj, laneOn_iff s c t i hi]
    exact ⟨fun hon => if_pos hon, fun hoff => if_neg hoff⟩
  · rw [apply_ite (elemOf · t.width i)]
    rfl

/-! ### Special functions and conversions (06 R155 to R161) -/

theorem partSrc_eq (ws wd j k : Nat) : partSrc ws wd j k = convertedFrom ws wd j k := by
  simp only [partSrc, Bool.and_eq_true, decide_eq_true_eq]
  rfl

/-- A conversion that finds everything ready converts the elements that its part reaches (06 R156). -/
theorem vxConvert_converts {s : State} {c : Ctl} {ws : Nat} {t : Ty} {d a j : BitVec 6} {lat : Nat} {l : List RegId} {i : Instr}
    {f g : Nat → Val} (h : s.ReadyVx c l) (hi : exec i s = vxConvert s c ws t d a j lat f)
    (hl : ∀ r ∈ [RegId.v a.toNat, .v d.toNat], r ∈ l) (hg : ∀ x, g x = f x) : ConvertsLanes s c ws t d a j.toNat lat g i := by
  obtain rfl : g = f := funext hg
  refine ⟨_, (hi.trans (issueVx_lanes (f := vxForm [srcV a 0] (.v d.toNat)) h rfl rfl hl)).trans (congrArg (fun fl =>
    Outcome.next (s.wrote (.v d.toNat) (.r _) fl lat)) (congrArg (orFlags t.width (guardBits s.src c)) (funext fun k => ?_))),
    fun k hk => ?_⟩
  · beta_reduce
    rw [← partSrc_eq]
    cases partSrc ws t.width j.toNat k <;> rfl
  · rw [laneOn_iff s c t k hk, elem_pack t.width (lanes_width t) _ k hk, ← partSrc_eq]
    beta_reduce
    have hlt := elem_lt (s.rv d) t.width k
    constructor
    · intro hon q hq
      rw [if_pos hon, hq]
      rfl
    · intro hoff
      rw [← ite_and, if_neg hoff]
      exact Nat.mod_eq_of_lt hlt

/-- Settles O13: each special function is a shared form of its operation on one element. -/
theorem vectorSpecialFunctions : Obligations.VectorSpecialFunctions := by
  intro s c t m d a b hint ht h f p q
  have hV2 : ∀ r ∈ [RegId.v a.toNat, .v d.toNat], r ∈ [RegId.v a.toNat, .v b.toNat, .v d.toNat] := by simp
  have hV3 : ∀ r ∈ [RegId.v a.toNat, .v b.toNat, .v d.toNat], r ∈ [RegId.v a.toNat, .v b.toNat, .v d.toNat] := fun _ hr => hr
  exact ⟨vx1_writes (unary t m frcpN) ht h hV2 rfl fun k => rfl, vx1_writes (unary t m frsqN) ht h hV2 rfl fun k => rfl,
    vx1_writes (unary t m fsqrtN) ht h hV2 rfl fun k => rfl, vx1_writes (unary t m fexp2N) ht h hV2 rfl fun k => rfl,
    vx1_writes (unary t m flog2N) ht h hV2 rfl fun k => rfl, vx1_writes (unary t m ftanhN) ht h hV2 rfl fun k => rfl,
    vx1_writes (unary t m fsigmN) ht h hV2 rfl fun k => rfl, vx2_writes (divElem t m) ht h hV3 rfl fun k => rfl⟩

/-! ### Reductions (06 R152) -/

theorem emptyMax_eq {t : Ty} (ht : t.isTaper = false) :
    (if t.isInt then 2 ^ (t.width - 1) else (ffmtOf t).infBits + 2 ^ (t.width - 1)) = emptyMax t := by
  revert ht
  cases t <;> simp [Ty.isTaper, Ty.isInt, emptyMax, Ty.width, ffmtOf, FFmt.withSign, FFmt.infBits, FFmt.signAt, f16, bf16, f32]

/-- The elements of a part of a vector that are present, added up; an absent one counts as zero. -/
def presentSum (e : Nat → Option Nat) (a n : Nat) : Nat := ((List.range' a n).map fun k => (e k).getD 0).sum

theorem presentSum_double (e : Nat → Option Nat) (a n : Nat) : presentSum e a (n + n) = presentSum e a n + presentSum e (a + n) n := by
  simp only [presentSum, ← List.range'_append_1, List.map_append, List.sum_append]

/-- Absent elements may as well be left out of the sum. -/
theorem presentSum_filter (p : Nat → Bool) (f : Nat → Nat) (n : Nat) :
    presentSum (fun k => if p k then some (f k) else none) 0 n = (((List.range n).filter p).map f).sum := by
  rw [presentSum, ← List.range_eq_range']
  induction n with
  | zero => rfl
  | succ n ih =>
    simp only [List.range_succ, List.filter_append, List.map_append, List.sum_append, ih]
    cases h : p n <;> simp [h]

/-- A tree of sums modulo 2^w raises no flag, and its root, where an absent one reads zero, is the sum modulo 2^w. -/
theorem treeNode_sum {op : Nat → Nat → Val} {w : Nat} (hop : ∀ x y, op x y = plain ((x + y) % 2 ^ w)) {e : Nat → Option Nat}
    (he : ∀ k x, e k = some x → x < 2 ^ w) (a n : Nat) :
    (treeNode op e a n).2 = 0 ∧ (treeNode op e a n).1.getD 0 = presentSum e a (2 ^ n) % 2 ^ w := by
  induction n generalizing a with
  | zero =>
    refine ⟨rfl, ?_⟩
    cases hk : e a with
    | none => simp [treeNode, presentSum, hk]
    | some x => simp [treeNode, presentSum, hk, Nat.mod_eq_of_lt (he a x hk)]
  | succ n ih =>
    obtain ⟨hl, hls⟩ := ih a
    obtain ⟨hr, hrs⟩ := ih (a + 2 ^ n)
    have hpos : 0 < 2 ^ w := by positivity
    have hlt : (treeNode op e a n).1.getD 0 < 2 ^ w := hls ▸ Nat.mod_lt _ hpos
    have hrt : (treeNode op e (a + 2 ^ n) n).1.getD 0 < 2 ^ w := hrs ▸ Nat.mod_lt _ hpos
    rw [Nat.pow_succ, Nat.mul_two, presentSum_double, Nat.add_mod, ← hls, ← hrs, treeNode, joinNodes]
    revert hlt hrt
    cases (treeNode op e a n).1 <;> cases (treeNode op e (a + 2 ^ n) n).1 <;> intro hlt hrt <;>
      simp_all [plain, Nat.mod_eq_of_lt]

theorem lanes_log2 (t : Ty) : 2 ^ (lanesOf t.width).log2 = lanesOf t.width := by cases t <;> decide

/-- A number below 2^w as a vector: element 0 is it, every other element zero. -/
theorem elemOf_small {w x : Nat} (hw : w ≤ 2048) (hx : x < 2 ^ w) :
    elemOf (BitVec.ofNat 2048 x) w 0 = x ∧ ∀ k, 0 < k → elemOf (BitVec.ofNat 2048 x) w k = 0 := by
  have hx2 : x < 2 ^ 2048 := hx.trans_le (Nat.pow_le_pow_right two_pos hw)
  unfold elemOf
  rw [toNat_ofNat_of_lt hx2]
  refine ⟨by rw [Nat.zero_mul, Nat.pow_zero, Nat.div_one, Nat.mod_eq_of_lt hx], fun k hk => ?_⟩
  rw [Nat.div_eq_of_lt (hx.trans_le (Nat.pow_le_pow_right two_pos (Nat.le_mul_of_pos_left w hk))), Nat.zero_mod]

/-- Settles O11: reductions and VSCAN are their trees over the present elements; on integers a tree of sums is the sum. -/
theorem reductionsAndScan : Obligations.ReductionsAndScan := by
  refine ⟨fun s c t d a ht h => ?_, fun s c t d a ht h => ?_⟩
  · intro w n present add gives
    refine ⟨issueVx_lanes h rfl rfl (by simp [vxForm]), issueVx_lanes h rfl rfl (by simp [vxForm]), ?_, ?_⟩
    · rw [emptyMax_eq ht]
      exact issueVx_lanes h rfl rfl (by simp [vxForm])
    · refine ⟨_, issueVx_lanes h rfl rfl (by simp [vxForm]), fun k hk => ?_⟩
      rw [laneOn_iff s c t k hk, elem_blend t _ _ _ k hk, t6Clean_of_not_taper ht]
      exact ⟨fun hon => if_pos hon, fun hoff => if_neg hoff⟩
  · have hop (x y : Nat) : addElem t .rne x y = plain ((x + y) % 2 ^ t.width) := if_pos ht
    have he (k x : Nat) (hx : presentElems t (guardBits s.src c) (s.rv a) k = some x) : x < 2 ^ t.width := by
      unfold presentElems at hx
      split at hx
      · cases hx; exact elem_lt ..
      · cases hx
    obtain ⟨hflags, hsum⟩ := treeNode_sum hop he 0 (lanesOf t.width).log2
    rw [lanes_log2] at hsum
    have hroot := hsum ▸ Nat.mod_lt _ (show 0 < 2 ^ t.width by positivity)
    obtain ⟨h0, hk⟩ := elemOf_small (by cases t <;> decide) hroot
    refine ⟨_, (issueVx_lanes (f := vxForm [srcV a 0] (.v d.toNat)) h rfl rfl (by simp [vxForm])).trans (congrArg (fun fl =>
      Outcome.next (s.wrote (.v d.toNat) (.r _) fl 10)) hflags), ?_, fun k hpos _ => hk k hpos⟩
    exact h0.trans (hsum.trans (congrArg (· % 2 ^ t.width) (presentSum_filter ..)))

/-! ### Votes (06 R154) -/

/-- The votes are the bits of the elements that take part. -/
theorem mem_votes (s : State) (c : Ctl) (t : Ty) (p : BitVec 256) (x : Bool) :
    x ∈ votes t (guardBits s.src c) p ↔ ∃ k, k < 2048 / t.width ∧ s.laneOn c t.width k ∧ p.getLsbD (k * t.width / 8) = x := by
  simp only [votes, List.mem_map, List.mem_filter, List.mem_range, and_assoc]
  refine exists_congr fun k => and_congr_right fun hk => ?_
  rw [laneOn_iff s c t k hk]
  rfl

/-- A per-lane instruction whose guard is false as a whole is suppressed, whatever its operands (06 R143; log 11). -/
theorem issueVx_suppressed {s : State} {c : Ctl} {f : Form} {e : Eff} (hg : f.guard = .lanes) (hb : f.br = false) (hc : s.cur < 96)
    (hf : s.GuardFull c) (hw : s.GuardWhole c) (hon : ¬ s.GuardOn c) : issueVx s c f e = .next s.issues := by
  have hs : suppressed s.src c .lanes = true := by
    rw [guardWhole_iff] at hw
    rw [guardOn_iff, Bool.not_eq_true] at hon
    rw [suppressed, hw, hon]
    rfl
  simp [issueVx, issue, issueEff, hb, hg, hs, (guardFull_iff s c).1 hf, State.kind, kindOf, hc, Eff.out, State.issues]

/-- Settles O12: the two votes are whether some or every bit of an element that takes part is 1, and VPOPC counts them. -/
theorem vectorVotes : Obligations.VectorVotes := by
  intro s c t d a ht w n bit all
  have hall (r : Bool) : all r = Pred.all r := predAll_eq r
  refine ⟨fun h => ⟨⟨(votes t (guardBits s.src c) (s.rp a).bits).any id, ?_, ?_⟩,
    ⟨(votes t (guardBits s.src c) (s.rp a).bits).all id, ?_, ?_⟩⟩, fun h => ?_, fun hc hf hw hon => ?_⟩
  · rw [hall]
    exact issueVx_lanes h rfl rfl (by simp [vxForm])
  · simp only [List.any_eq_true, id, exists_eq_right, mem_votes]
    rfl
  · rw [hall]
    exact issueVx_lanes h rfl rfl (by simp [vxForm])
  · simp only [List.all_eq_true, mem_votes, id]
    exact ⟨fun hv k hk hon => hv _ ⟨k, hk, hon, rfl⟩, fun hv x ⟨k, hk, hon, hx⟩ => hx ▸ hv k hk hon⟩
  · have hcount : ((List.range n).filter fun k => laneBit (guardBits s.src c) w k && bit k).length =
        ((votes t (guardBits s.src c) (s.rp a).bits).filter id).length := by
      rw [votes, List.filter_map, List.length_map, List.filter_filter]
      refine congrArg List.length (List.filter_congr fun k _ => Bool.and_comm ..)
    rw [hcount]
    exact issueVx_lanes h rfl rfl (by simp [vxForm])
  · exact ⟨issueVx_suppressed rfl rfl hc hf hw hon, issueVx_suppressed rfl rfl hc hf hw hon, issueVx_suppressed rfl rfl hc hf hw hon⟩

/-- Settles O14: each conversion is the shared form of its operation, and VQCVT writes the codes of its block. -/
theorem vectorConversions : Obligations.VectorConversions := by
  refine ⟨fun s c t fs m d a j n h => ⟨?_, fun hfs => ?_, ?_, ?_⟩, ?_⟩
  · refine vxConvert_converts h rfl (by simp) fun x => ?_
    split <;> rfl
  · exact vxConvert_converts h (.trans (b := execVdq c t m d a fs j s) rfl rfl) (by simp) fun x => rfl
  · exact vxConvert_converts h (.trans (b := execVfxcvt c t m d a n j s) rfl rfl) (by simp) fun x => rfl
  · exact vxConvert_converts h (.trans (b := execVflcvt c t m d a n j s) rfl rfl) (by simp) fun x => rfl
  · intro s c t fq d a j w n src
    refine ⟨fun h => issueVx_lanes h rfl rfl (by simp), fun h => ?_⟩
    intro codes
    refine ⟨_, issueVx_lanes h rfl rfl (by simp [vxForm]), fun k hk => ?_⟩
    refine (elem_pack 8 rfl _ k hk).trans ?_
    simp only [Bool.and_eq_true, decide_eq_true_eq]
    rfl

end Sys2Proof.Machine

/-! What the instructions of the BR slot do (05 R115 to R137), how a fault and an interrupt are taken (01 R31 R32), and their statements. -/

namespace Sys2Proof

/-! ### A second write of a key (sparse data) -/

theorem SMap.drop_insert {α : Type} (m : SMap α) (k : Nat) (v : α) : SMap.drop (SMap.insert m k v) k = SMap.drop m k := by
  induction m with
  | nil => simp [SMap.drop, SMap.insert]
  | cons e r ih =>
    obtain ⟨a, x⟩ := e
    by_cases h : k < a
    · simp [SMap.insert, SMap.drop, h]
    · simp [SMap.insert, SMap.drop, h, ih]

theorem SMap.drop_drop {α : Type} (m : SMap α) (k : Nat) : SMap.drop (SMap.drop m k) k = SMap.drop m k := by
  induction m with
  | nil => rfl
  | cons e r ih =>
    obtain ⟨a, x⟩ := e
    by_cases h : a = k <;> simp [SMap.drop, h, ih]

/-- The later of two writes of one key stands. -/
theorem SMap.set_set {α : Type} [DecidableEq α] (d : α) (m : SMap α) (k : Nat) (v w : α) :
    SMap.set d (SMap.set d m k v) k w = SMap.set d m k w := by
  have hdrop : SMap.drop (SMap.set d m k v) k = SMap.drop m k := by
    unfold SMap.set
    split
    · exact SMap.drop_drop m k
    · rw [SMap.drop_insert, SMap.drop_drop]
  rw [SMap.set, hdrop]
  rfl

end Sys2Proof

namespace Sys2Proof.Machine

open Host (Outcome)

/-! ### The acting agent -/

@[simp] theorem setMe_setMe (s : State) (a b : Agent) : (s.setMe a).setMe b = s.setMe b := by
  show { s with agents := SMap.set {} (SMap.set {} s.agents s.cur a) s.cur b } = { s with agents := _ }
  rw [SMap.set_set]

@[simp] theorem modMe_modMe (s : State) (f g : Agent → Agent) : (s.modMe f).modMe g = s.modMe fun a => g (f a) := by
  rw [State.modMe, modMe_me]
  exact setMe_setMe ..

@[simp] theorem modRegs_me (s : State) (f : Regs → Regs) : (s.modRegs s.cur f).me = { s.me with regs := f s.me.regs } := setMe_me ..

/-- A write of the acting agent's registers is its own business. -/
theorem onlyMine_modRegs (s : State) (f : Regs → Regs) : s.OnlyMine (s.modRegs s.cur f).issues :=
  ⟨rfl, fun _ hn => ⟨(setAgent_agent ..).trans (if_neg hn), rfl⟩⟩

@[simp] theorem issues_me (s : State) : s.issues.me = s.me := rfl
@[simp] theorem issues_mem (s : State) : s.issues.mem = s.mem := rfl
@[simp] theorem issues_res (s : State) : s.issues.res = .issued := rfl

theorem kind_of_tile {s : State} (h : s.cur < 96) : s.kind = .tile := if_pos h

theorem kind_of_not_tile {s : State} (h : 96 ≤ s.cur) : s.kind = .control ∨ s.kind = .machine := by
  unfold State.kind kindOf
  rw [if_neg h.not_gt]
  split
  · exact .inl rfl
  · exact .inr rfl

theorem kind_of_control {s : State} (h : 96 ≤ s.cur) (h' : s.cur < 100) : s.kind = .control := by
  rw [State.kind, kindOf, if_neg h.not_gt, if_pos h']

theorem kind_of_machine {s : State} (h : 100 ≤ s.cur) : s.kind = .machine := by
  rw [State.kind, kindOf, if_neg (by omega), if_neg (by omega)]

/-! ### Issuing in the BR slot -/

/-- A transfer whose guard registers are not both tagged raises GUARD_NONUNIFORM (01 R17). -/
theorem issue_untagged {s : State} {c : Ctl} {f : Form} {e : Eff} (hg : f.guard = .transfer) (ht : f.tileOnly = true → s.cur < 96)
    (hf : s.GuardFull c) (hn : ¬ s.GuardTagged c) (hd : s.me.delay = none) : issue s c f e = .next (s.faults cGuard 0) := by
  have hk : (f.tileOnly && s.kind != .tile) = false := by
    cases hf : f.tileOnly
    · rfl
    · simp [State.kind, kindOf, ht hf]
  rw [guardTagged_iff, Bool.not_eq_true] at hn
  simp [issue, issueEff, hk, hd, (guardFull_iff s c).1 hf, hg, hn, Eff.out, State.faults]

/-- Of the BR slot only what may stand in a delay position issues there (05 R117). -/
theorem issue_inDelay {s : State} {c : Ctl} {f : Form} {e : Eff} (hb : f.br = true) (ht : f.tileOnly = true → s.cur < 96)
    (hd : s.me.delay ≠ none) : issue s c f e = .next (s.faults cBundle 0) := by
  have hk : (f.tileOnly && s.kind != .tile) = false := by
    cases hf : f.tileOnly
    · rfl
    · simp [State.kind, kindOf, ht hf]
  simp [issue, issueEff, hk, hb, Option.isSome_iff_ne_none.2 hd, Eff.out, State.faults]

/-! ### Preparing and transferring control (05 R115 to R118) -/

theorem eight_mul (x : Word) : (8 : Word) * x = x <<< 3 := by
  rw [BitVec.shiftLeft_eq_mul_twoPow, BitVec.mul_comm]
  rfl

/-- Settles O15: each of the two writes one branch register. -/
theorem prepareResults : Obligations.PrepareResults := by
  intro s c d a imm h gives
  have hwrite (x : Word) (i : Instr) 
        (hi : exec i s = .next (s.modRegs s.cur fun g => { g with b := g.b.set 0 d.toNat x }).issues) : gives i x := by
    have hme := modRegs_me s fun g => { g with b := g.b.set 0 d.toNat x }
    refine ⟨_, hi, rfl, onlyMine_modRegs .., rfl, ?_, fun k => ?_⟩
    · rw [issues_me, hme]
    · rw [issues_me, hme]
      exact SMap.get_set ..
  refine ⟨hwrite _ _ ?_, hwrite _ _ ?_⟩
  · rw [eight_mul]
    exact issue_ready s c _ _ _ h rfl (fun hn => nomatch hn) (fun hn => nomatch hn) (by simp)
  · exact issue_ready s c _ _ _ h rfl (fun hn => nomatch hn) (fun hn => nomatch hn) (by simp)

theorem pushLink_eq (s : State) (target : Word) :
    s.pushLink target =
      { s.setMe { s.me with links := s.returnAddr :: s.me.links
                            delay := some { left := 2, target := target, src := s.me.bundle, call := true } } with
        fresh := s.fresh + 1 } := by
  unfold State.pushLink
  dsimp only
  rw [modMe_modMe]
  rfl

/-- The oldest entry has gone to the spill area and the new one is in place (05 R118). -/
theorem pushSpilled_me (s : State) (target : Word) :
    (s.pushSpilled target).me =
      { s.me with links := s.dropOldest.returnAddr :: s.me.links.dropLast, spill := s.me.spill + 1
                  delay := some { left := 2, target := target, src := s.me.bundle, call := true } } := by
  have hme : s.dropOldest.me = { s.me with links := s.me.links.dropLast, spill := s.me.spill + 1 } := modMe_me ..
  rw [State.pushSpilled, pushLink_eq, hme]
  exact setMe_me ..

/-- Settles O16: what each transfer's body comes to in each of its cases, and where the form refuses it. -/
theorem transfers : Obligations.Transfers := by
  have hissue {s : State} {c : Ctl} (h : s.ReadyXfer c []) (e : Eff) : issue s c xferForm e = e.out :=
    issue_xfer s c xferForm e [] h rfl (fun hn => nomatch hn) (by simp [xferForm])
  refine ⟨⟨?_, ?_⟩, fun a d stall hd hleft => ?_, fun s c a b n k m => ⟨fun hf ht hd => ?_, fun hd => ?_⟩⟩
  · intro s c a h target go called
    refine ⟨fun hl => ?_, fun hl => ?_⟩
    · have hl : (!s.me.loops.isEmpty) = false := by simp [hl]
      refine ⟨?_, fun hk => ?_, fun hk hb => ?_, fun l r hlr => ?_, fun hk hz => ?_, fun u bs hk hz hst hload => ?_⟩
      · refine (hissue h _).trans ?_
        rw [hl]
        rfl
      · refine (hissue h _).trans ?_
        rw [hl, if_pos hk, pushLink_eq]
        rfl
      · refine (hissue h _).trans ?_
        rw [hl, if_neg hk.not_gt, if_pos hb]
        rfl
      · refine (hissue h _).trans ?_
        rw [hl, hlr]
        exact congrArg (fun t => Outcome.next (State.issues t)) (modMe_modMe ..)
      · refine (hissue h _).trans ?_
        rw [hl, hk, if_pos hz]
        rfl
      · refine (hissue h _).trans ?_
        rw [eight_mul] at hload
        rw [hl, hk, if_neg hz, hst]
        simp only [Bool.false_eq_true, if_false, hload]
        exact congrArg (fun t => Outcome.next (State.issues t)) (modMe_modMe ..)
    · have hl : (!s.me.loops.isEmpty) = true := by simpa using hl
      refine ⟨(hissue h _).trans ?_, (hissue h _).trans ?_, (hissue h _).trans ?_⟩ <;> rw [hl] <;> rfl
  · intro s u c a h hc hl hk hb hst
    rw [eight_mul] at hst
    have hspill : s.spillCall (s.src.rb a.toNat) (s.me.lsbase + (s.me.spill.setWidth 64 <<< 3)) (s.me.links.getLastD 0) =
        .done (u.pushSpilled (s.src.rb a.toNat)) := by
      rcases kind_of_not_tile hc with hkind | hkind <;> simp only [State.spillCall, hkind, hst]
    refine ⟨(u.pushSpilled (s.src.rb a.toNat)).issues, (hissue h _).trans ?_, rfl, ?_, (issues_me _).trans (pushSpilled_me ..)⟩
    · rw [hl, if_neg (by simp), if_neg (by omega), if_neg hb, hspill]
      rfl
    · rw [issues_mem, State.pushSpilled, pushLink_eq]
      rfl
  · unfold Agent.endPosition
    simp only [hd, hleft, if_true]
    exact ⟨trivial, trivial, trivial⟩
  · exact ⟨issue_untagged rfl (fun hn => nomatch hn) hf ht hd, issue_untagged rfl (fun hn => nomatch hn) hf ht hd,
      issue_untagged rfl (fun hn => nomatch hn) hf ht hd, issue_untagged rfl (fun hn => nomatch hn) hf ht hd,
      issue_untagged rfl (fun hn => nomatch hn) hf ht hd, fun hc => issue_untagged rfl (fun _ => hc) hf ht hd⟩
  · exact ⟨issue_inDelay rfl (fun hn => nomatch hn) hd, issue_inDelay rfl (fun hn => nomatch hn) hd,
      issue_inDelay rfl (fun hn => nomatch hn) hd, issue_inDelay rfl (fun hn => nomatch hn) hd,
      issue_inDelay rfl (fun hn => nomatch hn) hd, issue_inDelay rfl (fun hn => nomatch hn) hd,
      issue_inDelay rfl (fun hn => nomatch hn) hd, issue_inDelay rfl (fun hn => nomatch hn) hd,
      issue_inDelay rfl (fun hn => nomatch hn) hd, issue_inDelay rfl (fun hn => nomatch hn) hd,
      issue_inDelay rfl (fun hn => nomatch hn) hd, issue_inDelay rfl (fun hn => nomatch hn) hd,
      fun hc => ⟨issue_inDelay rfl (fun _ => hc) hd, issue_inDelay rfl (fun _ => hc) hd⟩⟩

end Sys2Proof.Machine

/-! The loop buffer, the task and system instructions and the taking of faults and interrupts (05 R122 to R137, 01 R31 R32). -/

namespace Sys2Proof.Machine

open Host (Outcome)

/-! ### The loop buffer (05 R122 to R124) -/

section
variable {s : State} {c : Ctl} {f : Form} {l : List RegId}

/-- A BR-slot instruction that may not stand in a delay position comes to its body once it finds everything ready. -/
theorem issue_br (h : s.ReadyBr c []) (hl : s.Full l) (hg : f.guard = .bit0) (ht : f.tileOnly = false)
    (hr : f.srcs.map (·.reg) ++ f.dsts = l) (e : Eff) : issue s c f e = e.out :=
  issue_ready s c f e l ⟨h.1.1, h.1.2.1, hl⟩ hg (fun hn => nomatch ht.symm.trans hn) (fun _ => h.2) fun _ hm => hr ▸ hm

/-- A transfer without registers of its own comes to its body once it finds everything ready. -/
theorem issue_transfer (h : s.ReadyXfer c []) (hg : f.guard = .transfer) (ht : f.tileOnly = false) (hr : f.srcs.map (·.reg) ++ f.dsts = [])
    (e : Eff) : issue s c f e = e.out :=
  issue_xfer s c f e [] h hg (fun hn => nomatch ht.symm.trans hn) fun _ hm => hr ▸ hm

end

theorem bitsOf_high_eq_zero (x : Word) : bitsOf x 32 32 = 0 ↔ x.toNat < 2 ^ 32 := by
  rw [bitsOf]
  have := x.isLt
  omega

/-- LOOPBRK's effect on the agent's levels (05 R124). -/
def Agent.endsLoops (a : Agent) (k : Nat) : Agent :=
  { a with loops := a.loops.mapIdx fun i l => if i < k then { l with lc := 1 } else l }

theorem execLoopbrk_eq (s : State) (c : Ctl) (k : BitVec 3) :
    execLoopbrk c k s = issue s c { guard := .transfer, br := true }
      (if s.me.loops.length < k.toNat then .raise s cField 0 else .done (s.setMe (s.me.endsLoops k.toNat))) := rfl

/-- Settles O17: the checks of LOOPSET one by one, the level it opens, and the end of a body by the recursion of `loopEnd`. -/
theorem loops : Obligations.Loops := by
  refine ⟨fun s u c a n last after h hbody => ?_, fun s c k h => ⟨fun hk => ?_, fun hk => ?_⟩, fun l r last => ⟨rfl, fun hl => ?_, fun hl hc => ?_, fun hl hc => ?_⟩⟩
  · intro x outside
    have hout : (s.me.loops.any fun l => decide (l.last.toNat < last.toNat)) = true ↔ outside := by
      simp [outside]
    have hissue (e : Eff) : issue s c { srcs := [srcS a 0], guard := .transfer, br := true } e = e.out :=
      issue_xfer s c _ e _ h rfl (fun hn => nomatch hn) fun _ hr => hr
    refine ⟨fun hx => ?_, fun hx ho => ?_, fun hx hl ho => ⟨fun h0 => ?_, fun h0 => ?_⟩⟩ <;> refine (hissue _).trans ?_ <;> rw [hbody] <;> dsimp only
    · rw [if_pos ((bitsOf_high_eq_zero x).not.2 hx.not_gt)]
      rfl
    all_goals rw [if_neg (not_not.2 ((bitsOf_high_eq_zero x).2 hx))]
    · by_cases hl : 6 ≤ s.me.loops.length
      · rw [if_pos hl]
        rfl
      · rw [if_neg hl, if_pos (hout.2 (ho.resolve_left hl))]
        rfl
    all_goals rw [if_neg hl.not_ge, if_neg (hout.not.2 ho)]
    · rw [if_pos h0]
      rfl
    · rw [if_neg h0, show BitVec.ofNat 32 x.toNat = x.setWidth 32 from rfl]
      rfl
  · refine (issue_transfer h rfl rfl rfl _).trans ?_
    rw [if_pos hk]
    rfl
  · refine ⟨(s.setMe (s.me.endsLoops k.toNat)).issues, (execLoopbrk_eq ..).trans ((issue_transfer h rfl rfl rfl _).trans ?_), rfl, ?_, ?_,
      fun j l hj => ?_⟩
    · rw [if_neg hk.not_gt]
      rfl
    · rw [issues_me, setMe_me]
      rfl
    · rw [issues_me, setMe_me, Agent.endsLoops, List.length_mapIdx]
    · rw [issues_me, setMe_me, Agent.endsLoops, List.getElem?_mapIdx, hj]
      rfl
  · rw [loopEnd, if_pos hl]
  · rw [loopEnd, if_neg (not_not.2 hl), if_neg hc.not_ge]
  · rw [loopEnd, if_neg (not_not.2 hl), if_pos hc]

/-! ### Task and system instructions (05 R128 to R137) -/

/-- Settles O18: the body of each task instruction in each of its cases. -/
theorem taskInstructions : Obligations.TaskInstructions := by
  intro s c a b n h
  have hnone : s.Full [] := fun _ hr => nomatch hr
  refine ⟨fun ht hg hm => ?_, fun hf ha => ?_, fun u bs hf ha hr hw hload hp => ?_, fun hf => ⟨fun hr => ?_, fun hr ha => ?_⟩, ?_,
    fun hd => ?_, fun hd => ?_, fun hc => ⟨fun t htask hst hy hslots hstop => ?_, fun hn => ?_⟩⟩
  · refine (issue_xfer s c _ _ _ ⟨h, hg⟩ rfl (fun _ => ht) (by simp)).trans ?_
    rw [hm]
    rfl
  · refine (issue_br h hf rfl rfl rfl _).trans ?_
    rw [if_pos ha]
    rfl
  · refine (issue_br h hf rfl rfl rfl _).trans ?_
    rw [if_neg hr.not_ge, if_neg (not_not.2 ha), State.observe, hload]
    have hmsb : (BitVec.ofNat 64 (ofBytes bs)).msb = (s.rs b).getLsbD 0 := hp
    simp only [hw, hmsb, BEq.rfl, Bool.false_eq_true, if_false, if_true]
    rfl
  · refine (issue_br h hf rfl rfl rfl _).trans ?_
    rw [if_pos hr]
    rfl
  · refine (issue_br h hf rfl rfl rfl _).trans ?_
    rw [if_neg hr.not_ge, if_pos ha]
    rfl
  · exact issue_br h hnone rfl rfl rfl _
  · refine (issue_br h hnone rfl rfl rfl _).trans ?_
    rw [State.debugged, hd]
    rfl
  · refine (issue_br h hnone rfl rfl rfl _).trans ?_
    rw [State.debugged, hd]
    rfl
  · refine (issue_ready s c _ _ _ h.1 rfl (fun _ => hc) (fun _ => h.2) (by simp)).trans ?_
    simp only [htask, hst, hy, hslots, hstop, Bool.not_false, Bool.true_and, decide_true, Option.isNone_none, if_true]
    rfl
  · refine (issue_ready s c _ _ _ h.1 rfl (fun _ => hc) (fun _ => h.2) (by simp)).trans ?_
    have hno (t : Task) (ht : s.myCore.task = some t) : (!s.stamped && s.yields t) = false := by
      rcases hn t ht with hs | hy
      · simp [hs]
      · simp [hy]
    cases htask : s.myCore.task with
    | none => rfl
    | some t =>
      simp only [hno t htask, Bool.false_and, Bool.false_eq_true, if_false]
      rfl

/-- Settles O19: the body of each system instruction on the agents that have it. -/
theorem systemInstructions : Obligations.SystemInstructions := by
  intro s c d h
  have hnone : s.Full [] := fun _ hr => nomatch hr
  refine ⟨fun hc => ?_, fun hc => ?_, fun hc hi => ?_, fun x hx hc hc' => ⟨fun hq => ?_, fun hf => ⟨fun hq => ?_, fun hq => ?_⟩⟩⟩
  · refine (issue_br h hnone rfl rfl rfl _).trans ?_
    rcases kind_of_not_tile hc with hk | hk <;> rw [hk] <;> rfl
  · refine (issue_br h hnone rfl rfl rfl _).trans ?_
    rw [kind_of_tile hc]
    rfl
  · refine (issue_br h hnone rfl rfl rfl _).trans ?_
    rw [kind_of_machine hc]
    simp only [if_pos hi]
    rfl
  all_goals subst hx
  · refine (issue_br h hnone rfl rfl rfl _).trans ?_
    rw [kind_of_control hc hc']
    simp only [if_pos hq]
    rfl
  · refine (issue_br h hf rfl rfl rfl _).trans ?_
    rw [kind_of_control hc hc']
    simp only [if_pos hq]
    rfl
  · have hres : (State.issues (((s.produce (.s d.toNat) (.w ((s.die (dieOf s.cur)).evqhead.setWidth 64)) 0 1).modDie (dieOf s.cur)
        fun y => { y with evqhead := y.evqhead + 1 }))).res = .issued := rfl
    refine ⟨_, (issue_br h hf rfl rfl rfl _).trans ?_, hres, rfl, ?_, ?_⟩
    · rw [kind_of_control hc hc']
      simp only [if_neg hq]
      rfl
    · exact (setDie_die ..).trans (if_pos rfl)
    · rfl

/-! ### Special registers (01 R26, 05 R136) -/

theorem rs_write_same (g : Regs) {n : Nat} (hn : n ≠ 0) (y : Word) : (g.write (.s n) (.w y)).rs n = y := by
  simp [Regs.write, RegId.wired, Regs.rs, hn]

/-- An instruction of latency 1 without flags writes its register at once. -/
theorem wrote_me (s : State) (r : RegId) (x : RegVal) : (s.wrote r x 0 1).me = { s.me with regs := s.me.regs.write r x } := setMe_me ..

/-- MFSR reads the register with its number (05 R136). -/
theorem mfsr_gives {s : State} {c : Ctl} {d : BitVec 6} (h : s.Ready c [.s d.toNat]) (n : BitVec 6) :
    GivesS s d 1 (.mfsr c d n) (s.special n.toNat) :=
  issue_ready s c { dsts := [.s d.toNat] } _ _ h rfl (fun hn => nomatch hn) (fun hn => nomatch hn) fun _ hr => hr

/-- An agent that holds 256 link-stack entries and has one spilled: more entries than 01 R18 lets it hold, and the state type
does not bound them. -/
def overfullLinks : State := ({} : State).setMe { links := List.replicate 256 0, spill := 1 }

/-- Refutes O20: `spill * 256 + links.length` is register 13 only while fewer than 256 entries are held; with 256 held and one spilled the
two fields overlap, and register 13 reads 256, not 512. -/
theorem not_specialRegisters : ¬ Obligations.SpecialRegisters := by
  intro h
  have hready : overfullLinks.Ready {} [.s (BitVec.toNat (1 : BitVec 6))] :=
    ⟨(guardFull_iff ..).2 (by decide), (guardOn_iff ..).2 (by decide), fun r hr => List.mem_singleton.1 hr ▸ by decide⟩
  obtain ⟨-, -, -, hclaim, -⟩ := h.1 overfullLinks {} 1 hready
  have hsame := Outcome.next.inj ((mfsr_gives hready _).symm.trans hclaim)
  have hread := congrArg (fun t : State => t.me.regs.rs (BitVec.toNat (1 : BitVec 6))) hsame
  simp only [wrote_me] at hread
  rw [rs_write_same _ (by decide), rs_write_same _ (by decide)] at hread
  have hspecial : overfullLinks.special ((13#6).toNat) =
      (overfullLinks.me.spill.setWidth 64 <<< 8) ||| BitVec.ofNat 64 overfullLinks.me.links.length := rfl
  have hme : overfullLinks.me = { links := List.replicate 256 0, spill := 1 } := setMe_me ..
  have hdiffer : ((1 : BitVec 32).setWidth 64 <<< 8) ||| BitVec.ofNat 64 256 ≠ (1 : BitVec 32).zeroExtend 64 * 256 + BitVec.ofNat 64 256 := by
    decide
  refine hdiffer ?_
  rw [hspecial, hme, List.length_replicate] at hread
  exact hread

/-! ### Faults and interrupts (01 R31 R32) -/

theorem settled_agent {a : Agent} (h : a.flight = []) : { a with flight := [] } = a := by
  cases a
  cases h
  rfl

section
variable {s : State} (h : s.me.flight = []) (code : BitVec 8) (addr : Word)
include h

/-- With nothing in flight, nothing lands before a fault. -/
theorem landAll_setAgent (b : Agent) : (s.landAll s.cur).setAgent s.cur b = s.setMe b := by
  have h : (s.agent s.cur).flight = [] := h
  rw [State.landAll, h]
  exact setMe_setMe ..

theorem landAll_me : (s.landAll s.cur).agent s.cur = s.me := by
  have h' : (s.agent s.cur).flight = [] := h
  rw [State.landAll, h', List.foldl_nil, setAgent_agent, if_pos rfl]
  exact settled_agent h

/-- A fault with nothing in flight, on each kind of agent (01 R28 R31). -/
theorem takeFault_tile (hc : s.cur < 96) : s.takeFault code addr =
    s.setMe { s.me.record code s.me.bundle s.me.bundle addr with
      run := .faulted, empties := 0, delay := none, xfer := none, tried := none, waitFrom := none } := by
  rw [State.takeFault, State.faultAt, show kindOf s.cur = .tile from kind_of_tile hc, landAll_me h, landAll_setAgent h]

theorem takeFault_enters (hc : 96 ≤ s.cur) (hi : s.me.inh = false) : s.takeFault code addr =
    s.setMe ((s.me.record code s.me.bundle s.me.bundle addr).enter s.me.bundle false code) := by
  have hi' : (s.me.record code s.me.bundle s.me.bundle addr).inh = false := hi
  rw [State.takeFault, State.faultAt, landAll_me h]
  rcases kind_of_not_tile hc with hk | hk <;> rw [show kindOf s.cur = _ from hk] <;> simp only [hi', Bool.false_eq_true, if_false, landAll_setAgent h]

theorem takeFault_halts (hc : 96 ≤ s.cur) (hi : s.me.inh = true) : s.takeFault code addr =
    (s.setMe { s.me.record code s.me.bundle s.me.bundle addr with
      run := .halted, empties := 0, delay := none, xfer := none, tried := none }).reportHalt s.cur code s.me.bundle := by
  have hi' : (s.me.record code s.me.bundle s.me.bundle addr).inh = true := hi
  rw [State.takeFault, State.faultAt, landAll_me h]
  rcases kind_of_not_tile hc with hk | hk <;> rw [show kindOf s.cur = _ from hk] <;> simp only [hi', if_true, landAll_setAgent h]

end

/-- A hardware post to the event log changes the ring alone. -/
theorem logHard_frame (s : State) (src k : Nat) (w2 w3 : Word) :
    (s.logHard src k w2 w3).agents = s.agents ∧ (s.logHard src k w2 w3).mem = s.mem ∧ (s.logHard src k w2 w3).cur = s.cur ∧
      (s.logHard src k w2 w3).cfHalt = s.cfHalt := by
  unfold State.logHard
  by_cases hk : (if s.elPushAt = s.cycle + 1 then s.elPushes else 0) = 0
  · simp only [if_pos hk]
    exact ⟨rfl, rfl, rfl, rfl⟩
  · simp only [if_neg hk]
    exact ⟨rfl, rfl, rfl, rfl⟩

/-- The report of a halt changes neither agents nor memory (01 R31). -/
theorem reportHalt_frame (s : State) (n : Nat) (code : BitVec 8) (pc : Word) :
    (s.reportHalt n code pc).agents = s.agents ∧ (s.reportHalt n code pc).mem = s.mem ∧
      (s.reportHalt n code pc).cur = s.cur := by
  unfold State.reportHalt
  split
  · obtain ⟨hagents, hmem, hcur, -⟩ := logHard_frame { s with cfHalt := s.cfHalt ||| BitVec.ofNat 4 (2 ^ (n - 96)) } 2 code.toNat
      (BitVec.ofNat 64 (n - 96)) pc
    exact ⟨hagents, hmem, hcur⟩
  · exact ⟨rfl, rfl, rfl⟩
  · exact ⟨rfl, rfl, rfl⟩

/-- A control core's halt sets its die's bit (16 R414). -/
theorem reportHalt_cfHalt (s : State) {n : Nat} (h : 96 ≤ n) (h' : n < 100) (code : BitVec 8) (pc : Word) :
    (s.reportHalt n code pc).cfHalt = s.cfHalt ||| BitVec.ofNat 4 (2 ^ (n - 96)) := by
  have hk : kindOf n = .control := by rw [kindOf, if_neg h.not_gt, if_pos h']
  rw [State.reportHalt, hk]
  exact (logHard_frame ..).2.2.2

theorem agent_of_agents {s t : State} (h : t.agents = s.agents) (n : Nat) : t.agent n = s.agent n := by rw [State.agent, h, State.agent]

theorem irq_of_halt {s : State} (h : s.cfHalt ≠ 0) : 4 ∈ s.irqs := by
  rw [State.irqs, if_pos h]
  simp

theorem halt_bit_ne_zero (x : BitVec 4) {k : Nat} (hk : k < 4) : x ||| BitVec.ofNat 4 (2 ^ k) ≠ 0 :=
  (by decide : ∀ (y : BitVec 4) (j : Fin 4), y ||| BitVec.ofNat 4 (2 ^ j.val) ≠ 0) x ⟨k, hk⟩

/-- The management controller takes its lowest source (01 R32). -/
theorem interrupt_taken {s : State} {n : Nat} {r : List Nat} (hirq : s.irqs = n :: r) (h : s.canInterrupt = true) :
    execInterruptEntry s = .next (State.issues
      ((if n = 2 then { s with sideMsg := false } else s).modAgent 100 fun a => a.enter a.pc true (BitVec.ofNat 8 n))) := by
  rw [execInterruptEntry, h, hirq]
  rfl

theorem interrupt_refused {s : State} (h : s.canInterrupt = false) : execInterruptEntry s = .next s.issues := by
  rw [execInterruptEntry, h]
  rfl

/-- Between bundles an entry has no delay, no empty positions and no sleep to end. -/
theorem enter_between {a : Agent} (hd : a.delay = none) (he : a.empties = 0) (hs : a.asleep = false) (epc : Word) (ext : Bool)
    (code : BitVec 8) :
    a.enter epc ext code = { a with epc := epc, ext := ext, inh := true, code := code, pc := a.trapvec, setAside := a.loops, loops := []
                                    xfer := none, tried := none, lbuf := [], lines := [], stale := [], staleNext := [] } := by
  cases a
  cases hd
  cases he
  cases hs
  rfl

/-- Settles O21: a fault with nothing in flight by the kind of its agent, ERET, and an interrupt by `canInterrupt`. -/
theorem exceptionEntry : Obligations.ExceptionEntry := by
  refine ⟨fun s code addr hf => ?_, fun s c hc h => (systemInstructions s c 0 h).1 hc, fun s n r hirq => ?_⟩
  · intro t noted
    let halted : Agent := { noted with run := .halted, empties := 0, delay := none, xfer := none, tried := none }
    refine ⟨rfl, fun hc hi => ?_, fun hc hi => ?_, fun hc => ?_, ?_⟩
    · exact (congrArg State.me (takeFault_enters hf code addr hc hi)).trans (setMe_me ..)
    · have ht : s.takeFault code addr = (s.setMe halted).reportHalt s.cur code s.me.bundle := takeFault_halts hf code addr hc hi
      have hagent (k : Nat) : t.agent k = if k = s.cur then halted else s.agent k :=
        (agent_of_agents ((congrArg State.agents ht).trans (reportHalt_frame ..).1) k).trans (setAgent_agent ..)
      have hcur : t.cur = s.cur := (congrArg State.cur ht).trans (reportHalt_frame ..).2.2
      have hme : t.me = halted := (hagent t.cur).trans (if_pos hcur)
      refine ⟨hme, fun hc' => ?_, fun hc' => ?_, fun k hk => (hagent k).trans (if_neg hk)⟩
      · have hbit : t.cfHalt = s.cfHalt ||| BitVec.ofNat 4 (2 ^ (s.cur - 96)) :=
          (congrArg State.cfHalt ht).trans (reportHalt_cfHalt _ hc hc' ..)
        exact ⟨hbit, irq_of_halt (hbit ▸ halt_bit_ne_zero _ (by omega))⟩
      · have h100 : t.agent 100 = halted := (hagent 100).trans (if_pos hc'.symm)
        rw [State.endpointUp, h100]
        rfl
    · exact (congrArg State.me (takeFault_tile hf code addr hc)).trans (setMe_me ..)
    · show (s.takeFault code addr).mem = s.mem
      rcases Nat.lt_or_ge s.cur 96 with hc | hc
      · rw [takeFault_tile hf code addr hc]
        rfl
      · cases hi : s.me.inh
        · rw [takeFault_enters hf code addr hc hi]
          rfl
        · rw [takeFault_halts hf code addr hc hi]
          exact (reportHalt_frame ..).2.1
  · intro a
    refine ⟨fun ⟨hrun, hinh, hdelay, hempty, hpend, hasleep, hpaused⟩ => ?_, fun h => interrupt_refused ?_⟩
    · have hcan : s.canInterrupt = true := by
        simp [State.canInterrupt, a, hrun, hinh, hdelay, hempty, hpend, hasleep, hpaused, hirq]
      have hagent (k : Nat) : (if n = 2 then { s with sideMsg := false } else s : State).agent k = s.agent k := by split <;> rfl
      refine ⟨_, interrupt_taken hirq hcan, rfl, ?_, fun k hk => ?_, ?_⟩
      · refine (setAgent_agent ..).trans ((if_pos rfl).trans ?_)
        rw [hagent]
        exact enter_between hdelay hempty hasleep ..
      · exact (setAgent_agent ..).trans ((if_neg hk).trans (hagent k))
      · show (if n = 2 then { s with sideMsg := false } else s : State).mem = s.mem
        split <;> rfl
    · rcases h with h | h <;> simp [State.canInterrupt, a, h]

end Sys2Proof.Machine

/-! What comes before an instruction's body: its guard and its empty operands (01 R15 R17, 03 R68). -/

namespace Sys2Proof.Machine

open Host (Outcome)

/-- Every instruction of a slot but BR issues through the one wrapper, by a form that may stand in a delay position and whose guard is no
transfer's. -/
theorem exec_issues {i : Instr} {f : Fields} (hbr : i.slot ≠ some .br) (hf : i.fields = some f) (s : State) :
    ∃ form e, exec i s = issue s f.ctl form e ∧ (form.guard == .transfer) = false ∧ form.br = false := by
  cases i
  any_goals exact (Option.some_ne_none _ hf.symm).elim
  any_goals exact (hbr rfl).elim
  all_goals
    cases hf
    exact ⟨_, _, rfl, rfl, rfl⟩

section
variable {s : State} {c : Ctl} {f : Form} {e : Eff}

/-- A guard that is uniform and false suppresses an instruction whatever else it would wait for. -/
theorem issue_suppressed (hc : s.cur < 96) (hb : f.br = false) (hg : (f.guard == .transfer) = false) (h1 : s.GuardFull c)
    (h2 : s.GuardWhole c) (h3 : ¬ s.GuardOn c) : issue s c f e = .next s.issues := by
  rw [guardWhole_iff] at h2
  rw [guardOn_iff, Bool.not_eq_true] at h3
  have hs : suppressed s.src c f.guard = true := by
    cases f.guard
    case lanes =>
      rw [suppressed, h3, h2]
      rfl
    all_goals rw [suppressed, h3, Bool.not_false]
  simp [issue, issueEff, kind_of_tile hc, hb, (guardFull_iff s c).1 h1, hg, hs, Eff.out, State.issues]

/-- An empty guard register holds the bundle. -/
theorem issue_guardEmpty (hc : s.cur < 96) (hb : f.br = false) (h1 : s.src.isEmpty (.p c.g1.toNat) = true) :
    issue s c f e = .next { s with res := .held 0 } := by
  have hg : guardEmpty s.src c = true := by rw [guardEmpty, h1, Bool.true_or]
  simp [issue, issueEff, kind_of_tile hc, hb, hg, Eff.out]

/-- What an instruction that every agent has, with its guard on, finds of its operands. -/
theorem issue_operands (ht : f.tileOnly = false) (hb : f.br = false) (hg : f.guard = .bit0) (h1 : s.GuardFull c) (h2 : s.GuardOn c) :
    issueEff s c f e = if mustWait s.src c f then .hold s 0 else if mustTrap s.src c f then .raise s cEmpty 0 else e := by
  have hs : suppressed s.src c .bit0 = false := by rw [suppressed, (guardOn_iff s c).1 h2, Bool.not_true]
  simp [issueEff, ht, hb, hg, (guardFull_iff s c).1 h1, hs]

end

/-- Settles O60: what comes before the body, for the one wrapper that every instruction issues through. -/
theorem guards : Obligations.Guards := by
  refine ⟨fun s i sl f hs hf hbr hc => ?_, fun s c d a b h1 h2 => ?_⟩
  · have hbr' : i.slot ≠ some .br := fun h => hbr (Option.some.inj (hs.symm.trans h))
    obtain ⟨form, e, hi, hg, hb⟩ := exec_issues hbr' hf s
    exact ⟨fun hfull hwhole hoff => hi.trans (issue_suppressed hc hb hg hfull hwhole hoff), fun he => hi.trans (issue_guardEmpty hc hb he)⟩
  · let add : Form := { srcs := [srcS a 0, srcS b 1], dsts := [.s d.toNat] }
    have hadd (x : Eff) (h : ∀ e, issueEff s c add e = x) : exec (.add c d a b) s = x.out := congrArg Eff.out (h _)
    have hops (e : Eff) := issue_operands (f := add) (e := e) rfl rfl rfl h1 h2
    refine ⟨fun ha hfe => hadd (.hold s 0) fun e => ?_, fun ha hfe hb hd => hadd (.raise s cEmpty 0) fun e => ?_,
      fun hd => hadd (.hold s 0) fun e => ?_⟩ <;> rw [hops]
    · have htrap : (srcS a 0).traps c = false := hfe
      rw [if_pos (by simp [mustWait, add, htrap, ha])]
    · have htrap : (srcS a 0).traps c = true := hfe
      rw [if_neg (by simp [mustWait, add, htrap, hb, hd]), if_pos (by simp [mustTrap, add, htrap, ha])]
    · rw [if_pos (by simp [mustWait, add, hd])]

end Sys2Proof.Machine

/-! The frame of the slots that compute: SA, SB and VX write their destinations, flags and the scale latch alone (01 R11 R15 R22). -/

namespace Sys2Proof.Machine

open Host (Outcome)

/-! ### Registers (01 R11 R12) -/

section
variable (g : Regs) (r q : RegId) (x : RegVal)

theorem write_wired (h : r.wired = true) : g.write r x = g := if_pos h

theorem write_read_ne (h : q ≠ r) : (g.write r x).read q = g.read q := by
  unfold Regs.write
  split
  · rfl
  · cases r <;> cases q <;> cases x <;> simp_all [Regs.read, Regs.rs, Regs.rp, Regs.rv]

theorem write_b : (g.write r x).b = g.b := by
  unfold Regs.write
  split
  · rfl
  · cases r <;> cases x <;> rfl

theorem mark_read : (g.mark r).read q = g.read q := by
  unfold Regs.mark
  split
  · rfl
  · cases q <;> rfl

theorem mark_b : (g.mark r).b = g.b := by
  unfold Regs.mark
  split <;> rfl

/-- A write leaves every register that is not its destination, s0 and p0 among them. -/
theorem write_frame {q : RegId} (h : q ∉ [r].filter (!·.wired)) :
    (g.write r x).read q = g.read q ∧ (g.write r x).isEmpty q = g.isEmpty q := by
  by_cases hw : r.wired = true
  · rw [write_wired g r x hw]
    exact ⟨rfl, rfl⟩
  · have hq : q ≠ r := fun he => h (by simp [he, hw])
    exact ⟨write_read_ne g r q x hq, by simp [write_isEmpty, hq]⟩

theorem mark_frame {q : RegId} (h : q ∉ [r].filter (!·.wired)) :
    (g.mark r).read q = g.read q ∧ (g.mark r).isEmpty q = g.isEmpty q := by
  refine ⟨mark_read g r q, ?_⟩
  by_cases hw : r.wired = true
  · simp [mark_isEmpty, hw]
  · have hq : q ≠ r := fun he => h (by simp [he, hw])
    simp [mark_isEmpty, hq]

end

/-! ### What a producer changes (01 R15 R22) -/

/-- What O58 lets change: registers of `l`, results in flight, flags and the scale latch. -/
def State.ComputeFrame (s t : State) (l : List RegId) : Prop :=
  s.OnlyMine t ∧ s.OnlyRegs t l ∧ t.mem = s.mem ∧
    t.myCore = { s.myCore with status := t.myCore.status, flagAt := t.myCore.flagAt, qpend := t.myCore.qpend, qscale := t.myCore.qscale }

theorem computeFrame_refl (s : State) (l : List RegId) : s.ComputeFrame s l :=
  ⟨⟨rfl, fun _ _ => ⟨rfl, rfl⟩⟩, ⟨rfl, rfl, fun _ _ => ⟨rfl, rfl⟩⟩, rfl, rfl⟩

/-- How the slot ended is no part of the frame. -/
theorem State.ComputeFrame.issues {s t : State} {l : List RegId} (h : s.ComputeFrame t l) : s.ComputeFrame t.issues l := by
  obtain ⟨⟨hs, hothers⟩, hrest⟩ := h
  exact ⟨⟨congrArg State.issues hs, hothers⟩, hrest⟩

theorem modMe_frame (s : State) (g : Regs) (fl : List Producer) {l : List RegId} (hb : g.b = s.me.regs.b)
    (hg : ∀ q, q ∉ l → g.read q = s.me.regs.read q ∧ g.isEmpty q = s.me.regs.isEmpty q) :
    s.ComputeFrame (s.setMe { s.me with regs := g, flight := fl }) l := by
  refine ⟨⟨rfl, fun n hn => ⟨(setAgent_agent ..).trans (if_neg hn), rfl⟩⟩, ⟨?_, ?_, fun q hq => ?_⟩, rfl, rfl⟩ <;> rw [setMe_me]
  · exact hb
  · exact hg q hq

theorem setCore_frame {s t : State} {l : List RegId} (h : s.ComputeFrame t l) (k : Core)
    (hk : k = { t.myCore with status := k.status, flagAt := k.flagAt, qpend := k.qpend, qscale := k.qscale }) :
    s.ComputeFrame (t.setCore s.cur k) l := by
  obtain ⟨⟨hs, hothers⟩, hregs, hmem, hcore⟩ := h
  have hcur : t.cur = s.cur := (congrArg State.cur hs).trans rfl
  have hmine : (t.setCore s.cur k).myCore = k := (setCore_core ..).trans (if_pos hcur)
  refine ⟨⟨?_, fun n hn => ⟨(hothers n hn).1, (setCore_core ..).trans ((if_neg hn).trans (hothers n hn).2)⟩⟩, hregs, hmem, ?_⟩
  · exact (congrArg (fun u : State => u.setCore s.cur k) hs).trans rfl
  · rw [hmine, hk, hcore]

theorem raiseFlags_frame {s t : State} {l : List RegId} (h : s.ComputeFrame t l) (f : Flags) (c : Nat) :
    s.ComputeFrame (t.raiseFlags s.cur f c) l := by
  unfold State.raiseFlags
  split
  · exact h
  · refine setCore_frame h _ ?_
    have hcur : t.cur = s.cur := (congrArg State.cur h.1.1).trans rfl
    rw [← hcur]
    rfl

/-- A producer of latency 1 or more (01 R15). -/
theorem produce_frame (s : State) (r : RegId) (x : RegVal) (f : Flags) (lat : Nat) :
    s.ComputeFrame (s.produce r x f lat) ([r].filter (!·.wired)) := by
  unfold State.produce
  dsimp only
  split
  · exact raiseFlags_frame (modMe_frame s _ s.me.flight (write_b ..) fun q hq => write_frame _ _ _ hq) f _
  · exact modMe_frame s _ _ (mark_b ..) fun q hq => mark_frame _ _ hq

/-- What issues has either been suppressed or come to its body. -/
theorem issue_issued {s t : State} {c : Ctl} {f : Form} {e : Eff} (h : issue s c f e = .next t) (ht : t.res = .issued) :
    t = s.issues ∨ ∃ u, e = .done u ∧ t = u.issues := by
  have hdone {e : Eff} (h : e.out = .next t) : ∃ u, e = .done u ∧ t = u.issues := by
    cases e with
    | done u => exact ⟨u, rfl, (Outcome.next.inj h).symm⟩
    | raise u code addr => exact nomatch ht.symm.trans (congrArg State.res (Outcome.next.inj h).symm)
    | hold u k => exact nomatch ht.symm.trans (congrArg State.res (Outcome.next.inj h).symm)
  obtain ⟨u, hu, htu⟩ := hdone h
  subst htu
  unfold issueEff at hu
  dsimp only at hu
  split at hu
  · exact nomatch hu
  split at hu
  · exact nomatch hu
  split at hu
  · exact nomatch hu
  split at hu
  · exact nomatch hu
  split at hu
  · cases hu
    exact .inl rfl
  split at hu
  · exact nomatch hu
  split at hu
  · exact nomatch hu
  exact .inr ⟨u, hu, rfl⟩

/-- What has issued in the VX slot has either been suppressed or come to its body. -/
theorem issueVx_issued {s t : State} {c : Ctl} {f : Form} {e : Eff} (h : issueVx s c f e = .next t) (ht : t.res = .issued) :
    t = s.issues ∨ ∃ u, e = .done u ∧ t = u.issues := by
  obtain hs | ⟨u, hu, htu⟩ := issue_issued h ht
  · exact .inl hs
  · split at hu
    · exact nomatch hu
    · exact .inr ⟨u, hu, htu⟩

/-! ### The instructions of the slots -/

/-- An instruction of SA or SB writes the one register that its word names. -/
theorem exec_scalar {i : Instr}
    (hs : i.slot ≠ none ∧ i.slot ≠ some .br ∧ i.slot ≠ some .vx ∧ i.slot ≠ some .mx ∧ i.slot ≠ some .ms) (s : State) :
    ∃ c form r x f lat, exec i s = issue s c form (.done (s.produce r x f lat)) ∧ instrDests i = [r].filter (!·.wired) := by
  obtain ⟨h0, h1, h2, h3, h4⟩ := hs
  cases i
  any_goals exact (h0 rfl).elim
  any_goals exact (h1 rfl).elim
  any_goals exact (h2 rfl).elim
  any_goals exact (h3 rfl).elim
  any_goals exact (h4 rfl).elim
  all_goals exact ⟨_, _, _, _, _, _, rfl, rfl⟩

/-- One of VX writes the one register that its word names, or, VMAXEXP, leaves a result for the scale latch. -/
theorem exec_vector {i : Instr}
    (hs : i.slot ≠ none ∧ i.slot ≠ some .br ∧ i.slot ≠ some .sa ∧ i.slot ≠ some .sb ∧ i.slot ≠ some .mx ∧
      i.slot ≠ some .ms) (s : State) :
    (∃ c form r x f lat, exec i s = issueVx s c form (.done (s.produce r x f lat)) ∧ instrDests i = [r].filter (!·.wired)) ∨
    ∃ c form q, exec i s = issueVx s c form (.done (s.modCore fun k => { k with qpend := k.qpend ++ [q] })) := by
  obtain ⟨h0, h1, h2, h3, h4, h5⟩ := hs
  cases i
  any_goals exact (h0 rfl).elim
  any_goals exact (h1 rfl).elim
  any_goals exact (h2 rfl).elim
  any_goals exact (h3 rfl).elim
  any_goals exact (h4 rfl).elim
  any_goals exact (h5 rfl).elim
  case vmaxexp => exact .inr ⟨_, _, _, rfl⟩
  all_goals exact .inl ⟨_, _, _, _, _, _, rfl, rfl⟩

/-- Settles O58: each instruction of the three slots issues one producer of the register that its word names; VMAXEXP leaves a result for the
scale latch. -/
theorem registerFrames : Obligations.RegisterFrames := by
  intro s t i sl hi hsl ht hres
  show s.ComputeFrame t (instrDests i)
  have hslot {sl' : Slot} (h : sl ≠ sl') : i.slot ≠ some sl' := fun he => h (Option.some.inj (hi.symm.trans he))
  have hsome : i.slot ≠ none := fun he => nomatch hi.symm.trans he
  by_cases hvx : sl = .vx
  · subst hvx
    obtain ⟨c, form, r, x, f, lat, he, hd⟩ | ⟨c, form, q, he⟩ :=
      exec_vector ⟨hsome, hslot (by decide), hslot (by decide), hslot (by decide), hslot (by decide), hslot (by decide)⟩ s
    · obtain rfl | ⟨u, hu, rfl⟩ := issueVx_issued (he.symm.trans ht) hres
      · exact (computeFrame_refl ..).issues
      · cases hu
        rw [hd]
        exact (produce_frame ..).issues
    · obtain rfl | ⟨u, hu, rfl⟩ := issueVx_issued (he.symm.trans ht) hres
      · exact (computeFrame_refl ..).issues
      · cases hu
        exact (setCore_frame (computeFrame_refl ..) _ rfl).issues
  · have hother {sl' : Slot} (h1 : sl' ≠ .sa) (h2 : sl' ≠ .sb) (h3 : sl' ≠ .vx) : i.slot ≠ some sl' := hslot fun he => by
      subst he
      exact hsl.elim h1 fun h => h.elim h2 h3
    obtain ⟨c, form, r, x, f, lat, he, hd⟩ := exec_scalar ⟨hsome, hother (by decide) (by decide) (by decide), hslot hvx,
      hother (by decide) (by decide) (by decide), hother (by decide) (by decide) (by decide)⟩ s
    obtain rfl | ⟨u, hu, rfl⟩ := issue_issued (he.symm.trans ht) hres
    · exact (computeFrame_refl ..).issues
    · cases hu
      rw [hd]
      exact (produce_frame ..).issues

end Sys2Proof.Machine

/-! A step of the agenda, words written out, and the state after power-on reset (03 R60 R81, 01 R38). -/

namespace Sys2Proof.Machine

open Host (Outcome)

/-- Settles O54: the words of the tests, read by the slots' maps. -/
theorem decodeWords : Obligations.DecodeWords := by
  refine ⟨Tests.word_loopset, Tests.word_addi, Tests.word_vadd, Tests.word_vcvt, ?_, ?_, ?_, ?_⟩ <;> decide

theorem reset_agent (n : Nat) : State.reset.agent n = if n = 100 then { run := .running, pc := bootRomBase } else {} := by
  by_cases hn : n = 100
  · subst hn
    rfl
  · rw [if_neg hn]
    exact SMap.get_insert_ne ({} : Agent) [] 100 _ n hn

theorem reset_core (n : Nat) : State.reset.core n = {} := rfl

/-- Settles O56: the reset state gives every field its default, but for the management controller's start at the boot ROM. -/
theorem resetState : Obligations.ResetState := by
  have hoff (n : Nat) (hn : n < 100) : (State.reset.agent n).run = .off := by rw [reset_agent, if_neg hn.ne]
  refine ⟨fun a => rfl, rfl, fun n hn => ⟨hoff n (by omega), rfl, rfl, rfl, rfl, rfl, fun i => rfl, fun a _ => ⟨rfl, fun j => rfl⟩⟩,
    fun n _ hn => hoff n hn, rfl, rfl, fun n _ => ?_, rfl, rfl, rfl, rfl, rfl, rfl, rfl, rfl, rfl, rfl, rfl, fun i => rfl, rfl⟩
  rw [reset_agent]
  split <;> exact ⟨rfl, rfl, rfl, rfl, rfl⟩

/-! ### Fetching (03 R81 R84 R85) -/

/-- What fetching may change: what a translation does, and of agents the lines of code they hold. -/
def State.FetchFrame (s t : State) : Prop := t = { s with dies := t.dies, cores := t.cores, fresh := t.fresh, agents := t.agents }

section
variable {s t u : State}

theorem State.FetchFrame.refl (s : State) : s.FetchFrame s := rfl
theorem State.FetchFrame.trans (h : s.FetchFrame t) (k : t.FetchFrame u) : s.FetchFrame u := by
  rw [State.FetchFrame] at *
  exact k.trans (by rw [h])
theorem Looked.fetchFrame (h : Looked s t) : s.FetchFrame t := by
  rw [State.FetchFrame]
  exact h.only.trans (by rw [h.agents])
theorem fetchFrame_modMe (s : State) (f : Agent → Agent) : s.FetchFrame (s.modMe f) := rfl
theorem fetchFrame_fresh (s : State) (n : Nat) : s.FetchFrame { s with fresh := n } := rfl
theorem State.FetchFrame.cur (h : s.FetchFrame t) : t.cur = s.cur := by rw [h]
theorem State.FetchFrame.mem (h : s.FetchFrame t) : t.mem = s.mem := by rw [h]

end

theorem fetchFrame_map {α β : Type} {s : State} {r : Acc α} (h : s.FetchFrame r.state) (f : α → β) : s.FetchFrame (r.map f).state := by
  cases r <;> exact h

theorem fetchFrame_bind {α β : Type} {s : State} {r : Acc α} {f : State → α → Acc β} (h : s.FetchFrame r.state)
    (k : ∀ (t : State) (x : α), t.FetchFrame (f t x).state) : s.FetchFrame (r.bind f).state := by
  cases r with
  | ok t x => exact h.trans (k t x)
  | wait t p => exact h
  | fail t c x => exact h

theorem fetchFrame_readLine (s : State) (a : Nat) : s.FetchFrame (s.readLine a).state := by
  have h := (looked_reach s s.issuer .fetch a 8).fetchFrame
  unfold State.readLine
  split
  · exact .refl s
  · split <;> next hr => rw [hr] at h; exact h

theorem fetchFrame_codeLine (s : State) (a : Nat) : s.FetchFrame (s.codeLine a).state := by
  have h := fetchFrame_readLine s a
  have hdrew (c : Bool) {t : State} (ht : s.FetchFrame t) : s.FetchFrame (if c then t else { t with fresh := s.fresh + 1 }) := by
    cases c
    · exact ht.trans (fetchFrame_fresh ..)
    · exact ht
  unfold State.codeLine
  generalize s.readLine a = r at h
  cases r <;> dsimp only <;> split
  case ok.isFalse t bs _ =>
    split <;> dsimp only [Acc.state]
    · exact (hdrew _ (.refl s)).trans (fetchFrame_modMe ..)
    · exact (hdrew _ h).trans (fetchFrame_modMe ..)
  case wait.isFalse t p _ =>
    split <;> dsimp only [Acc.state]
    · exact (hdrew _ (.refl s)).trans (fetchFrame_modMe ..)
    · exact hdrew _ h
  case fail.isFalse t c x _ =>
    split <;> dsimp only [Acc.state]
    · exact (hdrew _ (.refl s)).trans (fetchFrame_modMe ..)
    · exact hdrew _ h
  all_goals exact .refl s

theorem fetchFrame_readCode (s : State) (a : Word) : s.FetchFrame (s.readCode a).state := by
  unfold State.readCode
  dsimp only
  split
  · exact .refl s
  split
  · exact .refl s
  · exact fetchFrame_map (fetchFrame_codeLine ..) _

theorem fetchFrame_fetchWord (s : State) (a : Word) : s.FetchFrame (s.fetchWord a).state := by
  refine fetchFrame_bind (fetchFrame_readCode ..) fun t w => ?_
  show t.FetchFrame (if t.me.loops.isEmpty then t else t.modMe _)
  split
  · exact .refl t
  · exact fetchFrame_modMe ..

/-! ### A turn (03 R63 R81) -/

/-- A turn with nothing to come before its position reads the next stored bundle. -/
theorem turn_nextBundle {s : State} (hd : s.canDefer s.cur = false) (hr : s.me.run = .running) (hi : s.cur = 100 → s.canInterrupt = false)
    (hp : s.me.pend = none) (hdoom : s.doomed = none) (hs : s.stopped = false) (he : s.me.empties = 0) (hh : s.heldOnPage = none) :
    turn s = nextBundle s := by
  have hint : (s.cur == 100 && s.canInterrupt) = false := by
    by_cases hc : s.cur = 100
    · rw [hi hc, Bool.and_false]
    · rw [beq_false_of_ne hc, Bool.false_and]
  simp [turn, hd, hr, hp, hint, hdoom, hs, he, hh]

/-- A bundle that has been read issues in free-issue mode at the cycle of 03 R63. -/
theorem nextBundle_ok {s t : State} {h : Header} {is : List Instr} (hread : s.readBundle = .ok t h is) (hst : t.stamped = false)
    (his : is ≠ []) :
    nextBundle s = afterSlots (t.settleAt t.issueCycle) t.me.delay.isSome (stallOf is) t.issueCycle
      (runBundle ((t.settleAt t.issueCycle).begin h t.issueCycle) is) := by
  cases is with
  | nil => exact absurd rfl his
  | cons i r => simp [nextBundle, hread, hst, issueBundle]

/-- A bundle of one slot is read from its header and its word (03 R60). -/
theorem readBundle_one {s v w : State} {hw word : Word} {h : Header} {sl : Slot} {i : Instr}
    (hhead : (s.modMe fun x => { x with inUse := [] }).fetchWord s.me.pc = .ok v hw) (hdec : decodeHeader hw = some h) (hsl : h.slots = [sl])
    (hword : v.fetchWord (s.me.pc + 8) = .ok w word) (hi : decodeFor s.kind sl word = .ok i) (hd : distinct (instrDests i) = true) :
    s.readBundle = .ok w h [i] := by
  have hkind : w.kind = s.kind := by
    have h1 := fetchFrame_fetchWord (s.modMe fun x => { x with inUse := [] }) s.me.pc
    have h2 := fetchFrame_fetchWord v (s.me.pc + 8)
    rw [hhead] at h1
    rw [hword] at h2
    exact congrArg kindOf (h2.cur.trans h1.cur)
  have hwords : v.fetchWords (s.me.pc + 8) 1 = .ok w [word] := by
    rw [State.fetchWords, hword]
    rfl
  have hslots : decodeSlots w.kind [sl] [word] = .ok [i] := by
    rw [decodeSlots, hkind, hi]
    rfl
  unfold State.readBundle
  dsimp only
  rw [modMe_me]
  dsimp only
  rw [hhead]
  dsimp only
  rw [hdec]
  dsimp only
  rw [hsl]
  simp only [List.length_singleton, hwords, hslots, List.flatMap_singleton, hd, if_true]

/-- Settles O53: the turn of the agent reads its bundle, and an event of the agenda is exec of it. -/
theorem stepRunsDecoded : Obligations.StepRunsDecoded := by
  refine ⟨fun s n r hs hn => ?_, fun s i r hs hf => ?_⟩
  · intro u0 a u hdefer hrun hint hpend hdoom hstop hemp hhold
    have hstep : step s = nextBundle u0 := by
      rw [step, hs]
      exact (if_pos hn).trans (turn_nextBundle hdefer hrun hint hpend hdoom hstop hemp hhold)
    refine ⟨fun v w hw word h sl i hhead hdec hsl hword hi hd hst => ?_, fun t h is hread hst hlen => ?_⟩
    · intro c before x
      have hread : u0.readBundle = .ok w h [i] := readBundle_one hhead hdec hsl hword hi hd
      have hissue := nextBundle_ok hread hst (List.cons_ne_nil i [])
      have hc : c = w.issueCycle := by rw [State.issueCycle, hst]; rfl
      have hsize : h.size = 16 := by rw [Header.size, hsl]; rfl
      have hx : x.me = { before.me with
          bundle := before.me.pc, pc := before.me.pc + BitVec.ofNat 64 h.size
          empties := h.run.toNat + (if h.slots.isEmpty then 1 else 0), issued := c, xfer := none, pageHold := none, waitFrom := none } :=
        setMe_me ..
      have hstall : stallOf [i] = (i.fields.map fun f => f.ctl.sch.toNat).getD 0 := by
        cases hf : i.fields <;> simp [stallOf, hf]
      refine ⟨?_, ?_, ?_, hstep.trans (hissue.trans ?_)⟩
      · rw [hx, hsize]
        rfl
      · rw [hx]
      · rw [hx]
      · rw [← hc, hstall]
        rfl
    · exact hstep.trans (nextBundle_ok hread hst (by rintro rfl; simp at hlen))
  · rw [step, hs]
    exact if_neg (by simp [hf])

end Sys2Proof.Machine

/-! Loads and stores of the agent that acts (07 R163 to R179): their checks, a task's accesses past its side log, and the scratchpad forms. -/

namespace Sys2Proof.Machine

open Host (Outcome)

/-! ### The checks of an address (07 R166) -/

section
variable {code : BitVec 8} {n : Nat} {a : Word}

theorem accessBad_good (h : GoodAddr n a) : accessBad code n a = none := by
  rw [accessBad, if_neg h.1.not_ge, if_neg (not_not.2 h.2)]

theorem accessBad_range (h : 2 ^ 56 ≤ a.toNat) : accessBad code n a = some (code, a) := if_pos h

theorem accessBad_align (h : a.toNat < 2 ^ 56) (h' : a.toNat % n ≠ 0) : accessBad code n a = some (cAlign, a) := by
  rw [accessBad, if_neg h.not_ge, if_pos h']

theorem accessBad_bad (h : ¬ GoodAddr n a) : accessBad code n a = some (if 2 ^ 56 ≤ a.toNat then code else cAlign, a) := by
  rcases Nat.lt_or_ge a.toNat (2 ^ 56) with ha | ha
  · rw [accessBad_align ha fun hn => h ⟨ha, hn⟩, if_neg ha.not_ge]
  · rw [accessBad_range ha, if_pos ha]

theorem localBad_good (h : GoodLocal n a) : localBad n a = none := by
  rw [localBad, if_neg (by rw [scratchEnd]; exact h.1.not_gt), if_neg (not_not.2 h.2)]

theorem localBad_range (h : 0x180000 < a.toNat + n) : localBad n a = some (cLocal, a) := if_pos h

theorem localBad_align (h : a.toNat + n ≤ 0x180000) (h' : a.toNat % n ≠ 0) : localBad n a = some (cAlign, a) := by
  rw [localBad, if_neg (by rw [scratchEnd]; exact h.not_gt), if_pos h']

theorem localBad_bad (h : ¬ GoodLocal n a) : localBad n a = some (if 0x180000 < a.toNat + n then cLocal else cAlign, a) := by
  rcases Nat.lt_or_ge 0x180000 (a.toNat + n) with ha | ha
  · rw [localBad_range ha, if_pos ha]
  · rw [localBad_align ha fun hn => h ⟨ha, hn⟩, if_neg ha.not_gt]

end

section
variable {bad : Word → Option (BitVec 8 × Word)} {addr : Nat → Word} {is : List Nat}

theorem firstBad_none (h : ∀ k ∈ is, bad (addr k) = none) : firstBad bad addr is = none := by
  rw [firstBad, List.findSome?_eq_none_iff]
  exact h

/-- Of elements in ascending order the lowest-numbered one that fails is named. -/
theorem firstBad_lowest (hs : is.Pairwise (· < ·)) {k : Nat} (hk : k ∈ is) {y : BitVec 8 × Word} (hy : bad (addr k) = some y)
    (hlow : ∀ j ∈ is, j < k → bad (addr j) = none) : firstBad bad addr is = some y := by
  induction is with
  | nil => exact nomatch hk
  | cons j r ih =>
    rw [firstBad, List.findSome?_cons]
    rw [List.pairwise_cons] at hs
    rcases List.mem_cons.1 hk with rfl | hkr
    · rw [hy]
    · rw [hlow j List.mem_cons_self (hs.1 k hkr)]
      exact ih hs.2 hkr fun i hi => hlow i (List.mem_cons_of_mem _ hi)

end

theorem actives_sorted (s : State) (c : Ctl) (t : Ty) : (actives s c t).Pairwise (· < ·) := List.Pairwise.filter _ List.pairwise_lt_range

/-! ### A task's accesses with an empty side log (07 R173 R175) -/

section
variable {s t : State} {h : BitVec 2} {n : Nat} {as : List Nat}

theorem slogForward_empty (hs : s.myCore.slog = []) (a n : Nat) : s.slogForward a n = .clear := by
  rw [State.slogForward, hs]
  rfl

theorem slogElems_empty (hs : s.myCore.slog = []) (n : Nat) (as : List Nat) : s.slogElems n as = .clear := by
  have hall : (as.map fun a => s.slogForward a n).all (· == .clear) = true := by
    simp [slogForward_empty hs]
  rw [State.slogElems, hall]
  rfl

/-- A load of a task whose elements have been read fills its register. -/
theorem loadTask_ok (i : Instr) (reg : RegId) (val : List (List Byte) → RegVal) {es : List LoadElem} (hs : s.myCore.slog = [])
    (hload : s.loadElems h n as = .ok t es) (hm : ∀ e ∈ es, e.missed = false) :
    s.loadTask i h reg n as val =
      .done (t.produceLoad reg (val (es.map (·.bytes))) (t.arrivesAt ((es.map (·.lat)).foldl max 0))) := by
  have hany : es.any (·.missed) = false := by simpa using hm
  rw [State.loadTask, slogElems_empty hs]
  simp only [hload, hany, Bool.false_eq_true, if_false]
  rfl

/-- A store of a task in free-issue mode that is performed. -/
theorem storeTask_ok (i : Instr) {what : LogOp} {attrs : List Nat} (hs : s.myCore.slog = []) (hst : s.stamped = false)
    (hwhat : what.isEmpty = false) (hop : s.performOp s.issuer h what = .ok t attrs) : s.storeTask i h what = .done t.storeSink := by
  have hlate : s.storeLate t what = false := by rw [State.storeLate, hst, Bool.false_and]
  rw [State.storeTask, hwhat, hs]
  simp only [List.isEmpty_nil, Bool.not_true, Bool.false_and, Bool.false_eq_true, if_false, hop, hlate]

theorem loadElems_nil (s : State) (h : BitVec 2) (n : Nat) : s.loadElems h n [] = .ok s [] := rfl

end

/-- The one element of a load. -/
theorem loadElems_one {s u : State} {h : BitVec 2} {n a pa attr : Nat} (hr : s.reach s.issuer .read a n = .ok u (pa, attr)) :
    s.loadElems h n [a] = .ok ((u.countOnce u.cur h s.myCore.hintcnt [attr]).cacheLoad u.issuer a pa attr h)
      [{ bytes := u.physBytes pa n, attr := attr
         lat := if u.blockHit a && h ≠ 3 then 14 else if s.stamped then u.declared pa else 0
         missed := s.stamped && s.missesClass a pa (u.blockHit a && h ≠ 3) }] := by
  show ((s.reach s.issuer .read a n).bind _).bind _ = _
  rw [hr]
  rfl

/-- The one element of a store. -/
theorem performOp_store_one {s u : State} {i : Issuer} {h : BitVec 2} {a pa attr : Nat} {bs : List Byte}
    (hr : s.reach i .write a bs.length = .ok u (pa, attr)) :
    s.performOp i h (.store [(a, bs)]) =
      .ok (((u.physWrite pa bs).cacheStore i a pa attr h).countOnce i.agent h (s.core i.agent).hintcnt [attr]) [attr] := by
  show ((s.reach i .write a bs.length).bind _).bind _ = _
  rw [hr]
  rfl

/-! ### LD and ST (07 R169) -/

theorem execLd_eq (s : State) (c : Ctl) (t : Ty) (d a : BitVec 6) (disp : BitVec 18) (h : s.Ready c [.s a.toNat, .s d.toNat]) :
    exec (.ld c t d a disp) s = (s.bodyLd (.ld c t d a disp) c t d a disp).out :=
  issue_ready s c { srcs := [srcS a 0], dsts := [.s d.toNat] } _ _ h rfl (fun hn => nomatch hn) (fun hn => nomatch hn) fun _ hr => hr

theorem execSt_eq (s : State) (c : Ctl) (t : Ty) (d a : BitVec 6) (disp : BitVec 18) (h : s.Ready c [.s a.toNat, .s d.toNat]) :
    exec (.st c t d a disp) s = (s.bodySt (.st c t d a disp) c t d a disp).out :=
  issue_ready s c { srcs := [srcS a 0, datS d] } _ _ h rfl (fun hn => nomatch hn) (fun hn => nomatch hn) fun _ hr => hr

theorem execLdl_eq (s : State) (c : Ctl) (t : Ty) (d a : BitVec 6) (disp : BitVec 18) (h : s.Ready c [.s a.toNat, .s d.toNat])
    (hc : s.cur < 96) : exec (.ldl c t d a disp) s = (s.bodyLdl (.ldl c t d a disp) t d a disp).out :=
  issue_ready s c { srcs := [srcS a 0], dsts := [.s d.toNat], tileOnly := true } _ _ h rfl (fun _ => hc) (fun hn => nomatch hn) fun _ hr => hr

theorem execStl_eq (s : State) (c : Ctl) (t : Ty) (d a : BitVec 6) (disp : BitVec 18) (h : s.Ready c [.s a.toNat, .s d.toNat])
    (hc : s.cur < 96) : exec (.stl c t d a disp) s = (s.bodyStl (.stl c t d a disp) t d a disp).out :=
  issue_ready s c { srcs := [srcS a 0, datS d], tileOnly := true } _ _ h rfl (fun _ => hc) (fun hn => nomatch hn) fun _ hr => hr

section
variable {s u : State} {c : Ctl} {t : Ty} {d a : BitVec 6} {disp : BitVec 18} (i : Instr)

theorem bodyLd_tile (hg : GoodAddr (elemBytes t) (dispAddr s a disp)) (hc : s.cur < 96) :
    s.bodyLd i c t d a disp = s.loadTask i c.ch (.s d.toNat) (elemBytes t) [(dispAddr s a disp).toNat] (scalarVal t) := by
  rw [State.bodyLd, accessBad_good hg, kind_of_tile hc]

theorem bodyLd_phys (hg : GoodAddr (elemBytes t) (dispAddr s a disp)) (hc : 96 ≤ s.cur) {bs : List Byte}
    (hload : s.physLoad c.ch (dispAddr s a disp).toNat (elemBytes t) = .ok u bs) :
    s.bodyLd i c t d a disp = .done (u.produceLoad (.s d.toNat) (scalarVal t [bs]) none) := by
  rw [State.bodyLd, accessBad_good hg]
  rcases kind_of_not_tile hc with hk | hk <;> simp only [hk, hload]

theorem bodySt_tile (hg : GoodAddr (elemBytes t) (dispAddr s a disp)) (hc : s.cur < 96) :
    s.bodySt i c t d a disp = s.storeTask i c.ch (.store [((dispAddr s a disp).toNat, toBytes (s.rs d).toNat (elemBytes t))]) := by
  rw [State.bodySt, accessBad_good hg, kind_of_tile hc]

theorem bodySt_phys (hg : GoodAddr (elemBytes t) (dispAddr s a disp)) (hc : 96 ≤ s.cur)
    (hstore : s.physStore c.ch (dispAddr s a disp).toNat (toBytes (s.rs d).toNat (elemBytes t)) = .ok u ()) :
    s.bodySt i c t d a disp = .done u := by
  rw [State.bodySt, accessBad_good hg]
  rcases kind_of_not_tile hc with hk | hk <;> simp only [hk, hstore]

theorem bodyLdl_good (hg : GoodLocal (elemBytes t) (dispAddr s a disp)) :
    s.bodyLdl i t d a disp = s.localLoad i (.s d.toNat) 6 (elemBytes t) [(dispAddr s a disp).toNat] (scalarVal t) := by
  rw [State.bodyLdl, localBad_good hg]

theorem bodyStl_good (hg : GoodLocal (elemBytes t) (dispAddr s a disp)) :
    s.bodyStl i t d a disp = s.localStore i (elemBytes t) [((dispAddr s a disp).toNat, toBytes (s.rs d).toNat (elemBytes t))] := by
  rw [State.bodyStl, localBad_good hg]

end

/-! ### The scratchpad (07 R172) -/

section
variable {s t : State} {n : Nat} {as : List Nat}

/-- A scratchpad load whose lines are filled and whose words are good. -/
theorem localLoad_ok (i : Instr) (reg : RegId) (lat : Nat) (val : List (List Byte) → RegVal) (hw : s.localWaits false n as = false)
    (hl : s.localLogged n as = false) (hf : s.fillLines s.cur as = .ok t ()) (hst : (s.stamped && as.any s.myCore.unfilled) = false)
    (hgood : ∀ a ∈ as, t.myCore.badWord .pad a n = none) :
    s.localLoad i reg lat n as val = .done (t.produce reg (val (as.map fun a => bytesAt t.myCore.scratch a n)) 0 lat) := by
  have hfind : (as.find? fun a => (t.myCore.badWord .pad a n).isSome) = none := by
    rw [List.find?_eq_none]
    intro a ha
    simp [hgood a ha]
  rw [State.localLoad, hw, hl, hf]
  simp only [hst, hfind, Bool.false_eq_true, if_false]

/-- A scratchpad load of one element that meets an uncorrectable word, whose record has room. -/
theorem localLoad_spoilt {a w : Nat} (i : Instr) (reg : RegId) (lat : Nat) (val : List (List Byte) → RegVal)
    (hw : s.localWaits false n [a] = false) (hl : s.localLogged n [a] = false) (hf : s.fillLines s.cur [a] = .ok t ())
    (hst : (s.stamped && [a].any s.myCore.unfilled) = false) (hbad : t.myCore.badWord .pad a n = some w)
    (hpost : t.canPost (dieOf t.issuer.agent) = true) :
    s.localLoad i reg lat n [a] val = .done ((t.noteLoss t.issuer (windowAddr t.cur w)).deferMe cEcc a) := by
  have hfind : ([a].find? fun a => (t.myCore.badWord .pad a n).isSome) = some a := by simp [hbad]
  rw [State.localLoad, hw, hl, hf]
  simp only [hst, hfind, hbad, Option.getD_some, State.recordLoss, hpost, Bool.false_eq_true, if_false, if_true]

/-- A scratchpad store whose lines are filled. -/
theorem localStore_ok (i : Instr) {es : List (Nat × List Byte)} (hes : es ≠ []) (hw : s.localWaits true n (es.map (·.1)) = false)
    (hl : s.localLogged n (es.map (·.1)) = false) (hf : s.fillLines s.cur (es.map (·.1)) = .ok t ()) :
    s.localStore i n es = .done (t.putLocal es).storeSink := by
  have hne : (es.map (·.1)).isEmpty = false := by simpa using hes
  simp only [State.localStore, hne, hw, hl, hf, Bool.false_eq_true, if_false]

end

/-- Settles O22: each access by the lemma for its kind of agent. -/
theorem scalarAccesses : Obligations.ScalarAccesses := by
  refine ⟨⟨fun s u c t d a disp hint h => ?_, fun s u c t d a disp hint h => ?_⟩, fun s u c t d a disp hint h => ?_⟩
  · intro addr n hgood
    refine ⟨fun pa attr hc hs hr => ?_, fun bs hc hload => ?_⟩
    · intro hit hst w
      have hhit : (u.blockHit addr.toNat && decide (c.ch ≠ 3)) = hit := by
        rw [decide_not]
        rfl
      have hload := loadElems_one (h := c.ch) hr
      have hmiss : (s.stamped && s.missesClass addr.toNat pa (u.blockHit addr.toNat && decide (c.ch ≠ 3))) = false := by
        rw [hhit]
        cases hs : s.stamped
        · rfl
        · exact hst hs
      have hok := loadTask_ok (.ld c t d a disp) (.s d.toNat) (scalarVal t) hs hload (by simpa using hmiss)
      rw [execLd_eq s c t d a disp h, bodyLd_tile _ hgood hc]
      refine (congrArg Eff.out hok).trans ?_
      simp only [List.map_cons, List.map_nil, List.foldl_cons, List.foldl_nil, Nat.zero_max, hhit]
      rfl
    · exact (execLd_eq s c t d a disp h).trans (congrArg Eff.out (bodyLd_phys _ hgood hc hload))
  · intro addr n bs hgood
    refine ⟨fun pa attr hc hst hs hr => ?_, fun hc hstore => ?_⟩
    · have hr' : s.reach s.issuer .write addr.toNat bs.length = .ok u (pa, attr) := by rw [toBytes_length]; exact hr
      exact (execSt_eq s c t d a disp h).trans (congrArg Eff.out ((bodySt_tile _ hgood hc).trans
        (storeTask_ok _ hs hst rfl (performOp_store_one hr'))))
    · exact (execSt_eq s c t d a disp h).trans (congrArg Eff.out (bodySt_phys _ hgood hc hstore))
  · intro addr n hgood hlog hfill
    obtain ⟨hready, hc⟩ := h
    refine ⟨fun hw hst => ?_, fun hw => ?_⟩
    · have hfilled : (s.stamped && [addr.toNat].any s.myCore.unfilled) = false := by
        cases hs : s.stamped
        · rfl
        · simpa using hst hs
      refine ⟨fun hb => ?_, fun w hb hp => ?_⟩
      · exact (execLdl_eq s c t d a disp hready hc).trans (congrArg Eff.out ((bodyLdl_good _ hgood).trans
          (localLoad_ok _ _ _ _ hw hlog hfill hfilled fun x hx => List.mem_singleton.1 hx ▸ hb)))
      · exact (execLdl_eq s c t d a disp hready hc).trans (congrArg Eff.out ((bodyLdl_good _ hgood).trans
          (localLoad_spoilt _ _ _ _ hw hlog hfill hfilled hb hp)))
    · exact (execStl_eq s c t d a disp hready hc).trans (congrArg Eff.out ((bodyStl_good _ hgood).trans
        (localStore_ok _ (List.cons_ne_nil _ _) hw hlog hfill)))

end Sys2Proof.Machine

/-! The vector loads and stores, of global memory and of the scratchpad (07 R167 R170 to R172). -/

namespace Sys2Proof.Machine

open Host (Outcome)

/-! ### A vector as a load leaves it (07 R167) -/

theorem lookup_zip {α : Type} {l : List Nat} (hl : l.Nodup) {ys : List α} {j k : Nat} {y : α} (hk : l[j]? = some k) (hy : ys[j]? = some y) :
    (l.zip ys).lookup k = some y := by
  induction l generalizing ys j with
  | nil => simp at hk
  | cons x r ih =>
    cases ys with
    | nil => simp at hy
    | cons z zs =>
      rw [List.nodup_cons] at hl
      rw [List.zip_cons_cons, List.lookup_cons]
      cases j with
      | zero =>
        cases hk
        cases hy
        simp
      | succ j =>
        have hne : k ≠ x := by
          rintro rfl
          exact hl.1 (List.mem_of_getElem? hk)
        rw [beq_false_of_ne hne]
        exact ih hl.2 hk hy

theorem mem_actives {s : State} {c : Ctl} {t : Ty} {k : Nat} :
    k ∈ actives s c t ↔ k < lanesOf t.width ∧ laneBit (guardBits s.src c) t.width k = true := by
  rw [actives, List.mem_filter, List.mem_range]

/-- What a vector load makes of the bytes of its elements. -/
theorem loadedVec_into (s : State) (c : Ctl) (t : Ty) (d : BitVec 6) (bss : List (List Byte)) :
    LoadedInto s c t d bss (loadedVec t (guardBits s.src c) (s.rv d) (actives s c t) bss) := by
  refine ⟨fun j k bs hk hbs => ?_, fun k hk hoff => ?_⟩
  · obtain ⟨hlt, hon⟩ := mem_actives.1 (List.mem_of_getElem? (l := actives s c t) hk)
    have hnodup : (actives s c t).Nodup := (actives_sorted s c t).imp Nat.ne_of_lt
    have hbytes : (bss.map ofBytes)[j]? = some (ofBytes bs) := by rw [List.getElem?_map, hbs]; rfl
    rw [loadedVec, elem_blend _ _ _ _ _ hlt, if_pos hon, lookup_zip hnodup hk hbytes]
    rfl
  · rw [loadedVec, elem_blend _ _ _ _ _ hk, if_neg fun hon => hoff ((laneOn_iff s c t k hk).2 hon)]

/-! ### The forms of a vector access (07 R170 R171) -/

section
variable {s : State} {c : Ctl} {d a b : BitVec 6} {e : Eff}

theorem issue_vload1 (h : s.ReadyLanes c [.v d.toNat, .s a.toNat]) : issue s c (vloadForm [srcS a 0] d) e = e.out :=
  issue_lanes s c _ _ _ h rfl rfl (by simp [vloadForm, srcS])

theorem issue_vstore1 (h : s.ReadyLanes c [.v d.toNat, .s a.toNat]) : issue s c (vstoreForm [srcS a 0] d) e = e.out :=
  issue_lanes s c _ _ _ h rfl rfl (by simp [vstoreForm, srcS, datV])

theorem readyLanes_append {l m : List RegId} (h : s.ReadyLanes c l) (k : s.Full m) : s.ReadyLanes c (l ++ m) :=
  ⟨h.1, h.2.1, h.2.2.1, full_append h.2.2.2 k⟩

theorem issue_vload2 {r : Src} (h : s.ReadyLanes c [.v d.toNat, .s a.toNat]) (hr : s.Full [r.reg]) :
    issue s c (vloadForm [srcS a 0, r] d) e = e.out :=
  issue_lanes s c _ _ _ (readyLanes_append h hr) rfl rfl (by simp [vloadForm, srcS])

theorem issue_vstore2 {r : Src} (h : s.ReadyLanes c [.v d.toNat, .s a.toNat]) (hr : s.Full [r.reg]) :
    issue s c (vstoreForm [srcS a 0, r] d) e = e.out :=
  issue_lanes s c _ _ _ (readyLanes_append h hr) rfl rfl (by simp [vstoreForm, srcS, datV])

end

/-! ### Loads and stores of global memory -/

section
variable {s u : State} {c : Ctl} {t : Ty} {d : BitVec 6} {addr : Nat → Word} (i : Instr)

/-- A vector load whose elements have been read. -/
theorem bodyVload_ok {es : List LoadElem} (hs : s.myCore.slog = []) (hgood : ∀ k ∈ s.activeElems c t, GoodAddr (t.width / 8) (addr k))
    (hload : s.loadElems c.ch (t.width / 8) ((s.activeElems c t).map fun k => (addr k).toNat) = .ok u es)
    (hm : ∀ e ∈ es, e.missed = false) :
    ∃ v : VWord, LoadedInto s c t d (es.map (·.bytes)) v ∧
      s.bodyVload i c t d addr = .done (u.produceLoad (.v d.toNat) (.r v) (u.arrivesAt ((es.map (·.lat)).foldl max 0))) := by
  refine ⟨_, loadedVec_into s c t d _, ?_⟩
  have hbad : firstBad (accessBad cLoad (elemBytes t)) addr (actives s c t) = none :=
    firstBad_none fun k hk => accessBad_good (hgood k hk)
  rw [State.bodyVload]
  simp only [hbad]
  exact loadTask_ok i _ _ hs hload hm

/-- A vector store whose elements have been performed. -/
theorem bodyVstore_ok {attrs : List Nat} (hs : s.myCore.slog = []) (hst : s.stamped = false) (hne : s.activeElems c t ≠ [])
    (hgood : ∀ k ∈ s.activeElems c t, GoodAddr (t.width / 8) (addr k))
    (hop : s.performOp s.issuer c.ch (.store ((s.activeElems c t).map fun k => ((addr k).toNat, elemBytesOf s t d k))) = .ok u attrs) :
    s.bodyVstore i c t d addr = .done u.storeSink := by
  have hbad : firstBad (accessBad cStore (elemBytes t)) addr (actives s c t) = none :=
    firstBad_none fun k hk => accessBad_good (hgood k hk)
  rw [State.bodyVstore]
  simp only [hbad]
  have hne : actives s c t ≠ [] := hne
  exact storeTask_ok i hs hst (by simpa [LogOp.isEmpty] using hne) hop

theorem bodyVstore_none (hne : s.activeElems c t = []) : s.bodyVstore i c t d addr = .done s := by
  have hne : actives s c t = [] := hne
  rw [State.bodyVstore, hne]
  rfl

end

/-- A hint that the page does not override is not counted (07 R179). -/
theorem countOnce_kept {h : BitVec 2} {attr : Nat} (hover : hintOver h attr = false) (s : State) (n : Nat) (old : BitVec 32) :
    s.countOnce n h old [attr] = s := by
  rw [State.countOnce, List.any_cons, hover]
  rfl

/-- Settles O23: the three forms share one body, and the elements of a load are read one after another. -/
theorem vectorLoads : Obligations.VectorLoads := by
  refine ⟨fun s u c t d a b disp es h hs => ?_, fun s u v h n a r pa attr es hst => ⟨loadElems_nil s h n, fun hr hover => ?_⟩⟩
  · intro n lanes runs
    have hruns {addr : Nat → Word} {i : Instr} (hi : exec i s = (s.bodyVload i c t d addr).out) : runs addr i := by
      intro hgood hload hm
      obtain ⟨v, hv, hbody⟩ := bodyVload_ok i hs hgood hload hm
      exact ⟨v, hv, hi.trans (congrArg Eff.out hbody)⟩
    exact ⟨hruns (issue_vload1 h), fun hb => hruns (issue_vload2 h hb), fun hb => hruns (issue_vload2 h hb)⟩
  · intro w hwst hcnt hload
    refine ⟨{ bytes := u.physBytes pa n, attr := attr, lat := if u.blockHit a && h ≠ 3 then 14 else 0, missed := false }, ?_, rfl, rfl, rfl⟩
    unfold State.loadElems at hload ⊢
    rw [hwst, hcnt] at hload
    rw [hst, readEach, hr]
    simp only [Acc.bind, countOnce_kept hover, Bool.false_and, Bool.false_eq_true, if_false] at hload ⊢
    rw [hload]
    rfl

/-- Settles O24: the three forms share one body, and the elements of a store are performed one after another. -/
theorem vectorStores : Obligations.VectorStores := by
  refine ⟨fun s u c t d a b disp attrs h hs hst => ?_, fun s u v i h a bs r pa attr attrs => ⟨rfl, fun hr hover => ?_, fun code x hr => ?_⟩⟩
  · intro n lanes runs
    have hruns {addr : Nat → Word} {i : Instr} (hi : exec i s = (s.bodyVstore i c t d addr).out) : runs addr i :=
      ⟨fun hnone => hi.trans (congrArg Eff.out (bodyVstore_none i hnone)),
        fun hne hgood hop => hi.trans (congrArg Eff.out (bodyVstore_ok i hs hst hne hgood hop))⟩
    exact ⟨hruns (issue_vstore1 h), fun hb => hruns (issue_vstore2 h hb), fun hb => hruns (issue_vstore2 h hb)⟩
  · intro w hcnt hop
    unfold State.performOp at hop ⊢
    dsimp only at hop ⊢
    rw [hcnt] at hop
    rw [readEach, hr]
    simp only [Acc.bind, countOnce_kept hover] at hop ⊢
    rw [hop]
    rfl
  · show ((s.reach i .write a bs.length).bind _).bind _ = _
    rw [hr]
    rfl

/-! ### Loads and stores of the scratchpad -/

section
variable {s u : State} {c : Ctl} {t : Ty} {d : BitVec 6} {addr : Nat → Word} (i : Instr)

/-- A vector load of the scratchpad whose lines are filled and whose words are good. -/
theorem bodyVloadl_ok (lat : Nat) (hst : s.stamped = false) (hgood : ∀ k ∈ s.activeElems c t, GoodLocal (t.width / 8) (addr k))
    (hw : s.localWaits false (t.width / 8) ((s.activeElems c t).map fun k => (addr k).toNat) = false)
    (hl : s.localLogged (t.width / 8) ((s.activeElems c t).map fun k => (addr k).toNat) = false)
    (hf : s.fillLines s.cur ((s.activeElems c t).map fun k => (addr k).toNat) = .ok u ())
    (hb : ∀ x ∈ (s.activeElems c t).map fun k => (addr k).toNat, u.myCore.badWord .pad x (t.width / 8) = none) :
    ∃ v : VWord,
      LoadedInto s c t d (((s.activeElems c t).map fun k => (addr k).toNat).map fun x => bytesAt u.myCore.scratch x (t.width / 8)) v ∧
      s.bodyVloadl i c t d lat addr = .done (u.produce (.v d.toNat) (.r v) 0 lat) := by
  refine ⟨_, loadedVec_into s c t d _, ?_⟩
  have hbad : firstBad (localBad (elemBytes t)) addr (actives s c t) = none := firstBad_none fun k hk => localBad_good (hgood k hk)
  rw [State.bodyVloadl]
  simp only [hbad]
  exact localLoad_ok i _ _ _ hw hl hf (by rw [hst, Bool.false_and]) hb

theorem bodyVstorel_ok (hne : s.activeElems c t ≠ []) (hgood : ∀ k ∈ s.activeElems c t, GoodLocal (t.width / 8) (addr k))
    (hw : s.localWaits true (t.width / 8) ((s.activeElems c t).map fun k => (addr k).toNat) = false)
    (hl : s.localLogged (t.width / 8) ((s.activeElems c t).map fun k => (addr k).toNat) = false)
    (hf : s.fillLines s.cur ((s.activeElems c t).map fun k => (addr k).toNat) = .ok u ()) :
    s.bodyVstorel i c t d addr =
      .done (u.putLocal ((s.activeElems c t).map fun k => ((addr k).toNat, elemBytesOf s t d k))).storeSink := by
  have hbad : firstBad (localBad (elemBytes t)) addr (actives s c t) = none := firstBad_none fun k hk => localBad_good (hgood k hk)
  have hoffs : ((actives s c t).map fun k => ((addr k).toNat, storedBytes t (s.rv d) k)).map (·.1) =
      (s.activeElems c t).map fun k => (addr k).toNat := List.map_map
  rw [← hoffs] at hw hl hf
  rw [State.bodyVstorel]
  simp only [hbad]
  exact localStore_ok i (fun he => hne (List.map_eq_nil_iff.1 he)) hw hl hf

theorem bodyVstorel_none (hne : s.activeElems c t = []) : s.bodyVstorel i c t d addr = .done s := by
  have hne : actives s c t = [] := hne
  rw [State.bodyVstorel, hne]
  rfl

end

/-- Settles O25: the three forms share one body of each kind. -/
theorem vectorLocal : Obligations.VectorLocal := by
  intro s u c t d a b disp h hst n lanes runs
  have hruns {lat : Nat} {addr : Nat → Word} {load store : Instr} (hload : exec load s = (s.bodyVloadl load c t d lat addr).out)
      (hstore : exec store s = (s.bodyVstorel store c t d addr).out) : runs lat addr load store := by
    refine ⟨fun hnone => hstore.trans (congrArg Eff.out (bodyVstorel_none store hnone)), fun hgood hl hf => ⟨fun hw hb => ?_, fun hne hw => ?_⟩⟩
    · obtain ⟨v, hv, hbody⟩ := bodyVloadl_ok load lat hst hgood hw hl hf hb
      exact ⟨v, hv, hload.trans (congrArg Eff.out hbody)⟩
    · exact hstore.trans (congrArg Eff.out (bodyVstorel_ok store hne hgood hw hl hf))
  exact ⟨hruns (issue_vload1 h) (issue_vstore1 h), fun hb => hruns (issue_vload2 h hb) (issue_vstore2 h hb),
    fun hb => hruns (issue_vload2 h hb) (issue_vstore2 h hb)⟩

/-! ### Faults of an address (07 R166 R192) -/

section
variable {s : State} {c : Ctl} {t : Ty} {d a b : BitVec 6} {disp : BitVec 18} {code : BitVec 8} {x : Word} (i : Instr)

theorem bodyLd_bad (h : accessBad cLoad (elemBytes t) (dispAddr s a disp) = some (code, x)) : s.bodyLd i c t d a disp = .raise s code x := by
  rw [State.bodyLd, h]

theorem bodySt_bad (h : accessBad cStore (elemBytes t) (dispAddr s a disp) = some (code, x)) : s.bodySt i c t d a disp = .raise s code x := by
  rw [State.bodySt, h]

theorem bodyLdl_bad (h : localBad (elemBytes t) (dispAddr s a disp) = some (code, x)) : s.bodyLdl i t d a disp = .raise s code x := by
  rw [State.bodyLdl, h]

theorem bodyStl_bad (h : localBad (elemBytes t) (dispAddr s a disp) = some (code, x)) : s.bodyStl i t d a disp = .raise s code x := by
  rw [State.bodyStl, h]

theorem bodyAtomic_bad {op n : Nat} {p v w : Word} {dsts : List RegId} {vals : Nat → List RegVal} (h : accessBad cStore n p = some (code, x)) :
    s.bodyAtomic i op n p v w dsts vals = .raise s code x := by
  rw [State.bodyAtomic, h]

theorem bodyBarinit_bad (h : accessBad cStore 16 (s.rs a) = some (code, x)) : s.bodyBarinit i a b = .raise s code x := by
  rw [State.bodyBarinit, h]

/-- The lowest-numbered active element that fails a check names the fault of a vector access. -/
theorem firstBad_actives {bad : Word → Option (BitVec 8 × Word)} {addr : Nat → Word} {k : Nat} (hk : k ∈ s.activeElems c t)
    (hy : bad (addr k) = some (code, x)) (hlow : ∀ j ∈ s.activeElems c t, j < k → bad (addr j) = none) :
    firstBad bad addr (actives s c t) = some (code, x) := firstBad_lowest (actives_sorted s c t) hk hy hlow

theorem bodyVload_bad {addr : Nat → Word} (h : firstBad (accessBad cLoad (elemBytes t)) addr (actives s c t) = some (code, x)) :
    s.bodyVload i c t d addr = .raise s code x := by
  simp only [State.bodyVload, h]

theorem bodyVstore_bad {addr : Nat → Word} (h : firstBad (accessBad cStore (elemBytes t)) addr (actives s c t) = some (code, x)) :
    s.bodyVstore i c t d addr = .raise s code x := by
  simp only [State.bodyVstore, h]

theorem bodyVloadl_bad {lat : Nat} {addr : Nat → Word} (h : firstBad (localBad (elemBytes t)) addr (actives s c t) = some (code, x)) :
    s.bodyVloadl i c t d lat addr = .raise s code x := by
  simp only [State.bodyVloadl, h]

theorem bodyVstorel_bad {addr : Nat → Word} (h : firstBad (localBad (elemBytes t)) addr (actives s c t) = some (code, x)) :
    s.bodyVstorel i c t d addr = .raise s code x := by
  simp only [State.bodyVstorel, h]

theorem bodyAred_bad {op : BitVec 6} (h : firstBad (accessBad cStore (elemBytes t)) (lineAddr s t a 0) (actives s c t) = some (code, x)) :
    s.bodyAred i c t a b op = .raise s code x := by
  simp only [State.bodyAred, h]

end

theorem pairReg_toNat {r : BitVec 6} (h : r.toNat % 2 = 0) : (pairReg r).toNat = r.toNat + 1 := by
  have hr : ∀ x : BitVec 6, x.toNat % 2 = 0 → (pairReg x).toNat = x.toNat + 1 := by decide
  exact hr r h

/-! ### The forms of the atomics, barrier objects and WAITMEM (07 R189 to R195) -/

section
variable {s : State} {c : Ctl} {d a b x : BitVec 6} {e : Eff}

theorem issue_amo (h : s.Ready c [.s a.toNat, .s b.toNat, .s d.toNat]) : issue s c (amoForm d a b) e = e.out :=
  issue_ready s c _ _ _ h rfl (fun hn => nomatch hn) (fun hn => nomatch hn) fun _ hr => hr

theorem execAcas_eq (t : Ty) (h : s.Ready c [.s a.toNat, .s b.toNat, .s x.toNat, .s d.toNat]) :
    exec (.acas c t d a b x) s = (s.bodyAmo (.acas c t d a b x) t aCas d a b (s.rs x)).out :=
  issue_ready s c { srcs := [srcS a 0, srcS b 1, srcS x 2], dsts := [.s d.toNat] } _ _ h rfl (fun hn => nomatch hn) (fun hn => nomatch hn)
    fun _ hr => hr

theorem execAaddw_eq (hd : d.toNat % 2 = 0) (hb : b.toNat % 2 = 0)
    (h : s.Ready c [.s a.toNat, .s b.toNat, .s (b.toNat + 1), .s d.toNat, .s (d.toNat + 1)]) :
    exec (.aaddw c d a b) s = (s.bodyAaddw (.aaddw c d a b) d a b).out := by
  refine issue_ready s c { srcs := [srcS a 0, srcS b 1, srcS (pairReg b) 1], dsts := if d = 0 then [] else [.s d.toNat, .s (pairReg d).toNat] }
    _ _ h rfl (fun hn => nomatch hn) (fun hn => nomatch hn) ?_
  simp only [List.map_cons, List.map_nil, srcS, pairReg_toNat hb, pairReg_toNat hd]
  split <;> simp

theorem execBarinit_eq (h : s.Ready c [.s a.toNat, .s b.toNat]) :
    exec (.barinit c a b) s = (s.bodyBarinit (.barinit c a b) a b).out :=
  issue_ready s c { srcs := [srcS a 0, srcS b 1] } _ _ h rfl (fun hn => nomatch hn) (fun hn => nomatch hn) fun _ hr => hr

theorem execBararr_eq (h : s.Ready c [.s a.toNat, .s b.toNat, .s d.toNat]) :
    exec (.bararr c d a b) s = (s.bodyBararr (.bararr c d a b) d a b).out := by
  refine issue_ready s c { srcs := [srcS a 0] ++ (if b = 0 then [] else [srcS b 1]), dsts := [.s d.toNat] } _ _ h rfl (fun hn => nomatch hn)
    (fun hn => nomatch hn) ?_
  split <;> simp [srcS]

/-- WAITMEM of an address that passes its checks. -/
def State.bodyWaitmem (s : State) (k : Cond) (d a b x : BitVec 6) : Eff :=
  s.observe (s.rs a).toNat (fun w => icond k (w &&& if x = 0 then BitVec.allOnes 64 else s.rs x) (s.rs b)) fun t w =>
    match s.watchLatency (s.rs a).toNat with
    | some lat => .done (t.produceLoad (.s d.toNat) (.w w) (some (t.me.issued + lat)))
    | none => .done (t.produce (.s d.toNat) (.w w) 0 1)

theorem execWaitmem_eq (k : Cond) (h : s.Ready c [.s a.toNat, .s b.toNat, .s x.toNat, .s d.toNat]) :
    exec (.waitmem c k d a b x) s = (match accessBad cLoad 8 (s.rs a) with
      | some (code, y) => Eff.raise s code y
      | none => s.bodyWaitmem k d a b x).out := by
  refine issue_ready s c { srcs := [srcS a 0, srcS b 1] ++ (if x = 0 then [] else [srcS x 2]), dsts := [.s d.toNat] } _ _ h rfl
    (fun hn => nomatch hn) (fun hn => nomatch hn) ?_
  split <;> simp [srcS]

end

theorem ready_mono {s : State} {c : Ctl} {l m : List RegId} (h : s.Ready c l) (hm : ∀ r ∈ m, r ∈ l) : s.Ready c m :=
  ⟨h.1, h.2.1, fun r hr => h.2.2 r (hm r hr)⟩

/-- Settles O26: each body checks its addresses first, by R166's table. -/
theorem addressChecks : Obligations.AddressChecks := by
  have hraise {s : State} {i : Instr} {e : Eff} {code : BitVec 8} {x : Word} (hi : exec i s = e.out) (he : e = .raise s code x) :
      exec i s = .next (s.faults code x) := hi.trans (congrArg Eff.out he)
  refine ⟨⟨fun s c t d a disp h => ?_, fun s c t k d a b x h => ?_⟩, fun s c t d a b op disp k h hk => ?_⟩
  · have hld := execLd_eq s c t d a disp h
    have hst := execSt_eq s c t d a disp h
    refine ⟨fun hr => ⟨hraise hld (bodyLd_bad _ (accessBad_range hr)), hraise hst (bodySt_bad _ (accessBad_range hr))⟩,
      fun hr ha => ⟨hraise hld (bodyLd_bad _ (accessBad_align hr ha)), hraise hst (bodySt_bad _ (accessBad_align hr ha))⟩, fun hc => ?_⟩
    have hldl := execLdl_eq s c t d a disp h hc
    have hstl := execStl_eq s c t d a disp h hc
    exact ⟨fun hr => ⟨hraise hldl (bodyLdl_bad _ (localBad_range hr)), hraise hstl (bodyStl_bad _ (localBad_range hr))⟩,
      fun hr ha => ⟨hraise hldl (bodyLdl_bad _ (localBad_align hr ha)), hraise hstl (bodyStl_bad _ (localBad_align hr ha))⟩⟩
  · intro addr checks atomic
    have hchecks {n : Nat} {code : BitVec 8} {i : Instr} {e : Eff} (hi : exec i s = e.out)
        (he : ∀ code' x', accessBad code n addr = some (code', x') → e = .raise s code' x') : checks n code i :=
      ⟨fun hr => hraise hi (he _ _ (accessBad_range hr)), fun hr ha => hraise hi (he _ _ (accessBad_align hr ha))⟩
    have hamo {op : Nat} {v : Word} {i : Instr} (hi : exec i s = (s.bodyAmo i t op d a b v).out) : atomic i := fun _ =>
      hchecks hi fun _ _ hy => bodyAtomic_bad i hy
    have h3 : s.Ready c [.s a.toNat, .s b.toNat, .s d.toNat] := ready_mono h (by simp)
    refine ⟨hamo (issue_amo h3), hamo (issue_amo h3), hamo (issue_amo h3), hamo (issue_amo h3), hamo (issue_amo h3), hamo (issue_amo h3),
      hamo (issue_amo h3), hamo (execAcas_eq t h), fun hd hb hfull => ?_, ?_, ?_, ?_⟩
    · exact hchecks (execAaddw_eq hd hb (ready_mono (ready_append h hfull) (by simp))) fun _ _ hy => bodyAtomic_bad _ hy
    · exact hchecks (execWaitmem_eq k h) fun _ _ hy => by rw [hy]
    · exact hchecks (execBarinit_eq (ready_mono h (by simp))) fun _ _ hy => bodyBarinit_bad _ hy
    · exact hchecks (execBararr_eq h3) fun _ _ hy => bodyAtomic_bad _ hy
  · intro n line stride index outside offPad
    have houtside {code : BitVec 8} {addr : Nat → Word} {i : Instr} {e : Eff} (hi : exec i s = e.out)
        (he : ∀ code' x', firstBad (accessBad code (elemBytes t)) addr (actives s c t) = some (code', x') → e = .raise s code' x') : outside code addr i :=
      fun hbad hlow => hraise hi (he _ _ (firstBad_actives hk (accessBad_bad hbad) fun j hj hjk => accessBad_good (hlow j hj hjk)))
    have hoffPad {addr : Nat → Word} {i : Instr} {e : Eff} (hi : exec i s = e.out)
        (he : ∀ code' x', firstBad (localBad (elemBytes t)) addr (actives s c t) = some (code', x') → e = .raise s code' x') : offPad addr i :=
      fun hbad hlow => hraise hi (he _ _ (firstBad_actives hk (localBad_bad hbad) fun j hj hjk => localBad_good (hlow j hj hjk)))
    refine ⟨houtside (issue_vload1 h) fun _ _ => bodyVload_bad _, houtside (issue_vstore1 h) fun _ _ => bodyVstore_bad _,
      hoffPad (issue_vload1 h) fun _ _ => bodyVloadl_bad _, hoffPad (issue_vstore1 h) fun _ _ => bodyVstorel_bad _,
      fun hb => ⟨houtside (issue_vload2 h hb) fun _ _ => bodyVload_bad _, houtside (issue_vstore2 h hb) fun _ _ => bodyVstore_bad _,
        hoffPad (issue_vload2 h hb) fun _ _ => bodyVloadl_bad _, hoffPad (issue_vstore2 h hb) fun _ _ => bodyVstorel_bad _⟩,
      fun hb => ⟨houtside (issue_vload2 h hb) fun _ _ => bodyVload_bad _, houtside (issue_vstore2 h hb) fun _ _ => bodyVstore_bad _,
        hoffPad (issue_vload2 h hb) fun _ _ => bodyVloadl_bad _, hoffPad (issue_vstore2 h hb) fun _ _ => bodyVstorel_bad _, fun h0 => ?_⟩⟩
    subst h0
    exact houtside (issue_lanes s c _ _ _ (readyLanes_append h hb) rfl rfl (by simp [srcS, srcV])) fun _ _ => bodyAred_bad _

end Sys2Proof.Machine

/-! Atomics and barrier objects (07 R189 to R194): whatever an access changes, it leaves the task of each core, and so its mode. -/

namespace Sys2Proof.Machine

open Host (Outcome)

/-! ### The tasks of the cores stand -/

/-- The same agent acts, and each core runs the task it ran. -/
structure State.TasksKept (s t : State) : Prop where
  cur : t.cur = s.cur
  task : ∀ n, (t.core n).task = (s.core n).task

section
variable {s t u : State}

theorem State.TasksKept.refl (s : State) : s.TasksKept s := ⟨rfl, fun _ => rfl⟩
theorem State.TasksKept.trans (h : s.TasksKept t) (k : t.TasksKept u) : s.TasksKept u :=
  ⟨k.cur.trans h.cur, fun n => (k.task n).trans (h.task n)⟩

theorem State.TasksKept.stamped (h : s.TasksKept t) : t.stamped = s.stamped := by
  have htask : t.myCore.task = s.myCore.task := by
    show (t.core t.cur).task = _
    rw [h.cur]
    exact h.task s.cur
  rw [State.stamped, State.stamped, htask, State.kind, State.kind, h.cur]

theorem Looked.tasksKept (h : Looked s t) : s.TasksKept t :=
  ⟨(congrArg State.cur h.only).trans rfl, fun n => by rw [h.core n]⟩

theorem tasksKept_setCore (s : State) (n : Nat) {k : Core} (hk : k.task = (s.core n).task) : s.TasksKept (s.setCore n k) := by
  refine ⟨rfl, fun m => ?_⟩
  rw [setCore_core]
  split
  · next h => rw [hk, h]
  · rfl

theorem tasksKept_putByte (s : State) (pa : Nat) (b : Byte) : s.TasksKept (s.putByte pa b) := by
  unfold State.putByte
  split
  case h_3 => exact tasksKept_setCore _ _ rfl
  all_goals exact ⟨rfl, fun _ => rfl⟩

theorem tasksKept_putBytes (s : State) (pa : Nat) (bs : List Byte) : s.TasksKept (s.putBytes pa bs) := by
  induction bs generalizing s pa with
  | nil => exact .refl s
  | cons b r ih => exact (tasksKept_putByte s pa b).trans (ih _ _)

theorem tasksKept_mendAt (s : State) (pa n : Nat) : s.TasksKept (s.mendAt pa n) := by
  unfold State.mendAt
  split
  · split
    · exact .refl s
    · exact tasksKept_setCore _ _ rfl
  all_goals exact .refl s

theorem State.TasksKept.of_eq {s t : State} (hcur : t.cur = s.cur) (hcores : t.cores = s.cores) : s.TasksKept t :=
  ⟨hcur, fun n => by rw [State.core, hcores, State.core]⟩

theorem tasksKept_noteStore (s : State) (pa n : Nat) : s.TasksKept (s.noteStore pa n) :=
  have h := noteStore_only s pa n
  .of_eq ((congrArg State.cur h).trans rfl) ((congrArg State.cores h).trans rfl)

theorem tasksKept_physWrite (s : State) (pa : Nat) (bs : List Byte) : s.TasksKept (s.physWrite pa bs) := by
  have h := ((tasksKept_putBytes s pa bs).trans (tasksKept_mendAt _ pa bs.length)).trans (tasksKept_noteStore _ pa bs.length)
  unfold State.physWrite
  generalize ((s.putBytes pa bs).mendAt pa bs.length).noteStore pa bs.length = t at h
  dsimp only
  split
  · exact h.trans (.of_eq rfl rfl)
  · exact h

end

theorem tasksKept_bind {α β : Type} {s : State} {r : Acc α} {f : State → α → Acc β} (h : s.TasksKept r.state)
    (k : ∀ (t : State) (x : α), t.TasksKept (f t x).state) : s.TasksKept (r.bind f).state := by
  cases r with
  | ok t x => exact h.trans (k t x)
  | wait t p => exact h
  | fail t c x => exact h

/-! ### An atomic at its home (07 R189 to R191) -/

section
variable {s t u : State} {op n a pa attr old : Nat} {i : Issuer} {b c : Word}

theorem atomicAt_both (hop : op < aRed) (hne : op ≠ aArrive) (hr : s.reach i .both a n = .ok u (pa, attr)) :
    s.atomicAt i op n a b c = .ok (u.physWrite pa (toBytes (atomicNew op (8 * n) (u.physWord pa n)
      (if n = 16 then b.toNat + 2 ^ 64 * c.toNat else b.toNat) c.toNat) n)) (u.physWord pa n) := by
  rw [State.atomicAt, if_neg hne, if_neg (by omega), hr, Nat.mod_eq_of_lt hop]
  rfl

theorem atomicAt_red (hop : op < aRed) (hr : s.reach i .red a n = .ok u (pa, attr)) :
    s.atomicAt i (aRed + op) n a b c = .ok (u.physWrite pa (toBytes (atomicNew op (8 * n) (u.physWord pa n)
      (if n = 16 then b.toNat + 2 ^ 64 * c.toNat else b.toNat) c.toNat) n)) (u.physWord pa n) := by
  have hmod : (aRed + op) % aRed = op := by rw [Nat.add_mod_left, Nat.mod_eq_of_lt hop]
  rw [State.atomicAt, if_neg (by show 32 + op ≠ 13; omega), if_pos (by omega), hr, hmod]
  rfl

theorem performOp_atomic_one (hop : s.atomicAt i op n a b c = .ok t old) : s.performOp i 0 (.atomic op n [(a, b, c)]) = .ok t [old] := by
  show (s.atomicAt i op n a b c).bind _ = _
  rw [hop]
  rfl

end

section
variable {s t u : State} {op n old : Nat} {p v w : Word} {dsts : List RegId} {vals : Nat → List RegVal} (i : Instr)

theorem tile_of_kind (h : s.kind = .tile) : s.cur < 96 := by
  by_contra hc
  rcases kind_of_not_tile (Nat.le_of_not_lt hc) with hk | hk <;> rw [hk] at h <;> cases h

theorem control_of_kind (h : s.kind = .control) : 96 ≤ s.cur ∧ s.cur < 100 := by
  refine ⟨Nat.le_of_not_lt fun hc => ?_, Nat.lt_of_not_le fun hc => ?_⟩
  · rw [kind_of_tile hc] at h
    cases h
  · rw [kind_of_machine hc] at h
    cases h

theorem atomicValue_ok (hs : s.cur < 96 → s.myCore.slog = []) (hsram : 96 ≤ s.cur → s.cur < 100 → placeOf p.toNat ≠ .sram)
    (hop : s.atomicAt s.issuer op n p.toNat v w = .ok t old) (ht : t.stamped = false) :
    s.atomicValue i op n p.toNat v w dsts vals =
      .done ((dsts.zip (vals old)).foldl (fun u p => u.produceLoad p.1 p.2 none) t.storeSink) := by
  have hmeets : (s.kind == .tile && s.slogMeets p.toNat n) = false := by
    rcases Nat.lt_or_ge s.cur 96 with hc | hc
    · rw [State.slogMeets, slogForward_empty (hs hc)]
      exact Bool.and_false _
    · rcases kind_of_not_tile hc with hk | hk <;> rw [hk] <;> rfl
  have hmine : s.atomicMine op n p.toNat v w = .ok t old := by
    rw [State.atomicMine]
    split
    next hk hp => exact (hsram (control_of_kind hk).1 (control_of_kind hk).2 hp).elim
    all_goals exact hop
  rw [State.atomicValue, hmeets, hmine]
  simp only [ht, Bool.false_and, Bool.false_eq_true, if_false]

/-- An atomic that its home has performed. -/
theorem bodyAtomic_ok (hg : GoodAddr n p) (hst : s.stamped = false) (hs : s.cur < 96 → s.myCore.slog = [])
    (hsram : 96 ≤ s.cur → s.cur < 100 → placeOf p.toNat ≠ .sram) (hop : s.atomicAt s.issuer op n p.toNat v w = .ok t old)
    (ht : t.stamped = false) :
    s.bodyAtomic i op n p v w dsts vals =
      .done ((dsts.zip (vals old)).foldl (fun u p => u.produceLoad p.1 p.2 none) t.storeSink) := by
  rw [State.bodyAtomic, accessBad_good hg]
  dsimp only
  split
  · next h =>
    rw [Bool.and_eq_true, beq_iff_eq, List.isEmpty_iff] at h
    obtain ⟨rfl, hk⟩ := h
    rw [storeTask_ok i (hs (tile_of_kind hk)) hst rfl (performOp_atomic_one hop)]
    rfl
  · exact atomicValue_ok i hs hsram hop ht

/-- An atomic whose access has been reached: the new value is put, and the old one comes back. -/
theorem bodyAtomic_reached {pa attr : Nat} (hop : op < aRed) (hne : op ≠ aArrive) (hg : GoodAddr n p) (hst : s.stamped = false)
    (hs : s.cur < 96 → s.myCore.slog = []) (hsram : 96 ≤ s.cur → s.cur < 100 → placeOf p.toNat ≠ .sram)
    (hr : s.reach s.issuer .both p.toNat n = .ok u (pa, attr)) :
    s.bodyAtomic i op n p v w dsts vals =
      .done ((dsts.zip (vals (u.physWord pa n))).foldl (fun u p => u.produceLoad p.1 p.2 none)
        (u.physWrite pa (toBytes (atomicNew op (8 * n) (u.physWord pa n)
          (if n = 16 then v.toNat + 2 ^ 64 * w.toNat else v.toNat) w.toNat) n)).storeSink) := by
  have hu : s.TasksKept u := by
    have h := (looked_reach s s.issuer .both p.toNat n).tasksKept
    rw [hr] at h
    exact h
  exact bodyAtomic_ok i hg hst hs hsram (atomicAt_both hop hne hr)
    ((hu.trans (tasksKept_physWrite _ _ _)).stamped.trans hst)

/-- An ARED whose elements have been performed. -/
theorem bodyAred_ok {c : Ctl} {t : Ty} {a b o : BitVec 6} {olds : List Nat} (hs : s.myCore.slog = []) (hst : s.stamped = false)
    (hne : actives s c t ≠ []) (hgood : ∀ k ∈ actives s c t, GoodAddr (elemBytes t) (lineAddr s t a 0 k))
    (hop : s.performOp s.issuer 0 (.atomic (aredOp t o) (elemBytes t)
      ((actives s c t).map fun k => ((lineAddr s t a 0 k).toNat, BitVec.ofNat 64 (elemOf (s.rv b) t.width k), 0))) = .ok u olds) :
    s.bodyAred i c t a b o = .done u.storeSink := by
  have hbad : firstBad (accessBad cStore (elemBytes t)) (lineAddr s t a 0) (actives s c t) = none :=
    firstBad_none fun k hk => accessBad_good (hgood k hk)
  rw [State.bodyAred]
  simp only [hbad]
  exact storeTask_ok i hs hst (by simpa [LogOp.isEmpty] using hne) hop

theorem bodyAred_none {c : Ctl} {t : Ty} {a b o : BitVec 6} (hne : actives s c t = []) : s.bodyAred i c t a b o = .done s := by
  rw [State.bodyAred, hne]
  rfl

end

/-! ### The values of atomics (07 R189 to R191) -/

theorem Num.lt_asymm {x y : Num} (h : x.lt y = true) : y.lt x = false := by
  cases x <;> cases y <;> simp_all [Num.lt]
  case fin.fin n m e n' m' e' =>
    rw [Int.min_comm]
    omega

/-- The order of minimumNumber is asymmetric. -/
theorem Num.minLt_asymm {x y : Num} (h : x.minLt y = true) : y.minLt x = false := by
  rw [Num.minLt, Bool.or_eq_true] at h
  rw [Num.minLt, Bool.or_eq_false_iff]
  rcases h with h | h
  · exact ⟨Num.lt_asymm h, by simp [Num.eqv, h]⟩
  · simp only [Num.eqv, Bool.and_eq_true, Bool.not_eq_true'] at h
    obtain ⟨⟨⟨-, hyx⟩, hx⟩, -⟩ := h
    exact ⟨hyx, by rw [hx]; simp⟩

theorem Num.minLt_iff (x y : Num) : x.minLt y = true ↔ x.lt y = true ∨ (x.eqv y = true ∧ x.sign = true ∧ y.sign = false) := by
  simp [Num.minLt, and_assoc]

section
variable {a b : Nat}

theorem fminmax_nan (mx : Bool) (ha : (f32.decode a).isNan = true) (hb : (f32.decode b).isNan = true) :
    (fminmax f32 mx a b).bits = 0x7FC00000 := by
  simp only [fminmax, ha, hb, Bool.and_self, if_true]
  rfl

theorem fminmax_left_nan (mx : Bool) (ha : (f32.decode a).isNan = true) (hb : (f32.decode b).isNan = false) :
    (fminmax f32 mx a b).bits = b := by
  simp [fminmax, ha, hb]

theorem fminmax_right_nan (mx : Bool) (ha : (f32.decode a).isNan = false) (hb : (f32.decode b).isNan = true) :
    (fminmax f32 mx a b).bits = a := by
  simp [fminmax, ha, hb]

theorem fmin_numbers (ha : (f32.decode a).isNan = false) (hb : (f32.decode b).isNan = false) :
    (fminmax f32 false a b).bits = if (f32.decode b).minLt (f32.decode a) then b else a := by
  simp only [fminmax, ha, hb, Bool.and_self, Bool.false_eq_true, if_false]

theorem fmax_numbers (ha : (f32.decode a).isNan = false) (hb : (f32.decode b).isNan = false) :
    (fminmax f32 true a b).bits = if (f32.decode a).minLt (f32.decode b) then b else a := by
  simp only [fminmax, ha, hb, Bool.and_self, Bool.false_eq_true, if_false, if_true]

end

/-- The values of the integer operations of ARED (07 R191). -/
theorem atomicNew_integers (w x y : Nat) (hx : x < 2 ^ w) (hy : y < 2 ^ w) :
    atomicNew 0 w x y 0 = (x + y) % 2 ^ w ∧
    atomicNew 1 w x y 0 = (if (BitVec.ofNat w x).toInt ≤ (BitVec.ofNat w y).toInt then x else y) ∧
    atomicNew 2 w x y 0 = (if (BitVec.ofNat w y).toInt ≤ (BitVec.ofNat w x).toInt then x else y) ∧
    atomicNew 3 w x y 0 = x &&& y ∧ atomicNew 4 w x y 0 = x ||| y ∧ atomicNew 5 w x y 0 = x ^^^ y ∧
    atomicNew 6 w x y 0 = min x y ∧ atomicNew 7 w x y 0 = max x y := by
  simp [atomicNew, Nat.mod_eq_of_lt hx, Nat.mod_eq_of_lt hy]

/-- The values of the f32 operations of ARED (07 R191). -/
theorem atomicNew_floats {x y : Nat} (hx : x < 2 ^ 32) (hy : y < 2 ^ 32) :
    atomicNew aFmin 32 x y 0 = (fminmax f32 false x y).bits ∧ atomicNew aFmax 32 x y 0 = (fminmax f32 true x y).bits := by
  simp only [atomicNew, aFmin, aFmax, BitVec.toNat_ofNat, Nat.mod_eq_of_lt hx, Nat.mod_eq_of_lt hy, and_self]

theorem fmin_fmax {x y : Nat} (hp : (f32.decode x).isNan = false) (hq : (f32.decode y).isNan = false) :
    ((f32.decode x).minLt (f32.decode y) = true → (fminmax f32 false x y).bits = x ∧ (fminmax f32 true x y).bits = y) ∧
    ((f32.decode y).minLt (f32.decode x) = true → (fminmax f32 false x y).bits = y ∧ (fminmax f32 true x y).bits = x) ∧
    (¬ (f32.decode x).minLt (f32.decode y) = true → ¬ (f32.decode y).minLt (f32.decode x) = true →
      (fminmax f32 false x y).bits = x ∧ (fminmax f32 true x y).bits = x) := by
  rw [fmin_numbers hp hq, fmax_numbers hp hq]
  refine ⟨fun h => ?_, fun h => ?_, fun h h' => ?_⟩
  · rw [h, Num.minLt_asymm h]
    exact ⟨rfl, rfl⟩
  · rw [h, Num.minLt_asymm h]
    exact ⟨rfl, rfl⟩
  · rw [if_neg h, if_neg h']
    exact ⟨rfl, rfl⟩

/-! ### The scalar atomics -/

/-- What a scalar atomic of an integer type leaves. -/
theorem bodyAmo_reached {s u : State} {t : Ty} {d a b : BitVec 6} {v : Word} {op pa attr : Nat} (i : Instr) (ht : t = .i32 ∨ t = .i64)
    (hop : op < aRed) (hne : op ≠ aArrive)
    (hst : s.stamped = false) (hs : s.cur < 96 → s.myCore.slog = []) (hsram : 96 ≤ s.cur → s.cur < 100 → placeOf (s.rs a).toNat ≠ .sram)
    (hg : GoodAddr (t.width / 8) (s.rs a)) (hr : s.reach s.issuer .both (s.rs a).toNat (t.width / 8) = .ok u (pa, attr))
    {new : Nat} (hnew : atomicNew op t.width (u.physWord pa (t.width / 8)) (s.rs b).toNat v.toNat = new) :
    (s.bodyAmo i t op d a b v).out =
      .next (if d = 0 then ((u.physWrite pa (toBytes new (t.width / 8))).storeSink).issues
        else ((u.physWrite pa (toBytes new (t.width / 8))).storeSink.produceLoad (.s d.toNat)
          (.w ((BitVec.ofNat t.width (u.physWord pa (t.width / 8))).signExtend 64)) none).issues) := by
  have hbits : 8 * (t.width / 8) = t.width ∧ t.width / 8 ≠ 16 ∧ t.width ≤ 64 := by rcases ht with rfl | rfl <;> decide
  have hold : sext64 t.width (u.physWord pa (t.width / 8)) = (BitVec.ofNat t.width (u.physWord pa (t.width / 8))).signExtend 64 := by
    rfl
  rw [State.bodyAmo, elemBytes, bodyAtomic_reached i hop hne hg hst hs hsram hr, hbits.1, if_neg hbits.2.1, hnew, hold, destOf]
  split <;> rfl

theorem atomicNew_add (w old x c : Nat) : atomicNew 0 w old x c = (old + x) % 2 ^ w := by simp [atomicNew]

/-- What AADDW leaves. -/
theorem bodyAaddw_reached {s u : State} {d a b : BitVec 6} {pa attr : Nat} (i : Instr) (hg : GoodAddr 16 (s.rs a)) (hst : s.stamped = false)
    (hs : s.cur < 96 → s.myCore.slog = []) (hsram : 96 ≤ s.cur → s.cur < 100 → placeOf (s.rs a).toNat ≠ .sram)
    (hr : s.reach s.issuer .both (s.rs a).toNat 16 = .ok u (pa, attr)) {new : Nat}
    (hnew : atomicNew 0 128 (u.physWord pa 16) ((s.rs b).toNat + 2 ^ 64 * (s.rs (pairReg b)).toNat) (s.rs (pairReg b)).toNat = new) :
    s.bodyAaddw i d a b = .done (if d = 0 then (u.physWrite pa (toBytes new 16)).storeSink
      else ((u.physWrite pa (toBytes new 16)).storeSink.produceLoad (.s d.toNat) (.w (BitVec.ofNat 64 (u.physWord pa 16))) none).produceLoad
        (.s (pairReg d).toNat) (.w (BitVec.ofNat 64 (u.physWord pa 16 / 2 ^ 64))) none) := by
  rw [State.bodyAaddw, bodyAtomic_reached i (by decide) (by decide) hg hst hs hsram hr, if_pos rfl, hnew]
  by_cases h0 : d = 0
  · rw [if_pos h0, if_pos h0, List.zip_nil_left, List.foldl_nil]
  · rw [if_neg h0, if_neg h0]
    simp only [List.zip_cons_cons, List.zip_nil_left, List.foldl_cons, List.foldl_nil]

/-- Settles O27: the scalar atomics share one body, ARED goes element by element, and the values are those of the operations' table. -/
theorem atomics : Obligations.Atomics := by
  refine ⟨⟨fun s u c t d a b x pa attr ht h hst hs hsram => ?_, fun s u c d a b pa attr hd hb h hst hs hsram hg hr => ?_⟩,
    fun s u c t a b op olds ht hop h hs hst => ?_, fun s u i opn n a pa attr b hop hn hr => ?_, fun w x y _ hx hy => atomicNew_integers w x y hx hy,
    fun x y hx hy => ?_⟩
  · intro w n hg hr old y z gives
    have h3 : s.Ready c [.s a.toNat, .s b.toNat, .s d.toNat] := ready_mono h (by simp)
    have hgives {i : Instr} {op : Nat} {v : Word} {new : BitVec w} (hi : exec i s = (s.bodyAmo i t op d a b v).out) (hop : op < aRed)
        (hne : op ≠ aArrive) (hnew : atomicNew op w (u.physWord pa n) (s.rs b).toNat v.toNat = new.toNat) : gives i new :=
      hi.trans (bodyAmo_reached i ht hop hne hst hs hsram hg hr hnew)
    have hy : BitVec.ofNat w (s.rs b).toNat = y := BitVec.ofNat_toNat ..
    have hz : BitVec.ofNat w (s.rs x).toNat = z := BitVec.ofNat_toNat ..
    refine ⟨hgives (issue_amo h3) ?_ ?_ ?_, hgives (issue_amo h3) ?_ ?_ ?_, hgives (issue_amo h3) ?_ ?_ ?_, hgives (issue_amo h3) ?_ ?_ ?_,
      hgives (issue_amo h3) ?_ ?_ ?_, hgives (issue_amo h3) ?_ ?_ ?_, hgives (issue_amo h3) ?_ ?_ ?_, hgives (execAcas_eq t h) ?_ ?_ ?_⟩
    case refine_3 | refine_12 | refine_15 | refine_18 | refine_21 => rw [← hy]; rfl
    case refine_6 | refine_9 => rw [← hy, apply_ite BitVec.toNat]; rfl
    case refine_24 => rw [← hy, ← hz, apply_ite BitVec.toNat]; rfl
    all_goals decide
  · intro old v
    have hnew : atomicNew 0 128 old ((s.rs b).toNat + 2 ^ 64 * (s.rs (pairReg b)).toNat) (s.rs (pairReg b)).toNat =
        (old + ((s.rs b).toNat + 2 ^ 64 * (s.src.rs (b.toNat + 1)).toNat)) % 2 ^ 128 := by
      rw [show s.rs (pairReg b) = s.src.rs (b.toNat + 1) from congrArg s.src.rs (pairReg_toNat hb)]
      exact atomicNew_add ..
    refine ((execAaddw_eq hd hb h).trans (congrArg Eff.out (bodyAaddw_reached _ hg hst hs hsram hr hnew))).trans ?_
    rw [pairReg_toNat hd]
    split <;> rfl
  · intro n lanes addr opn
    have haddr : lineAddr s t a 0 = addr := funext fun k => congrArg (· + BitVec.ofNat 64 (k * n)) (BitVec.add_zero _)
    have hopn : aredOp t op = opn := by rcases ht with rfl | rfl | ⟨rfl, -⟩ <;> rfl
    have hi : exec (.ared c t a b op) s = (s.bodyAred (.ared c t a b op) c t a b op).out :=
      issue_lanes s c _ _ _ h rfl rfl (by simp [srcS, srcV])
    refine ⟨fun hnone => hi.trans (congrArg Eff.out (bodyAred_none _ hnone)), fun hne hgood hdone => ?_⟩
    exact hi.trans (congrArg Eff.out (bodyAred_ok _ hs hst hne (by rw [haddr]; exact hgood) (by rw [haddr, hopn]; exact hdone)))
  · intro old
    rw [atomicAt_red hop hr, if_neg (Nat.ne_of_lt hn)]
    rfl
  · intro p q lo hi
    obtain ⟨hlo, hhi⟩ := atomicNew_floats hx hy
    refine ⟨fun hp hq => ?_, fun hp hq => ?_, fun hp hq => ?_, fun hp hq => ?_⟩
    · exact ⟨hlo.trans (fminmax_nan _ hp hq), hhi.trans (fminmax_nan _ hp hq)⟩
    · exact ⟨hlo.trans (fminmax_left_nan _ hp hq), hhi.trans (fminmax_left_nan _ hp hq)⟩
    · exact ⟨hlo.trans (fminmax_right_nan _ hp hq), hhi.trans (fminmax_right_nan _ hp hq)⟩
    · have h := fmin_fmax hp hq
      rw [← hlo, ← hhi] at h
      simp only [Num.minLt_iff] at h
      exact h

end Sys2Proof.Machine

/-! Barrier objects, held instructions, pushes and remote atomics (07 R193 to R202). -/

namespace Sys2Proof.Machine

open Host (Outcome)

/-! ### An arrival in its turn leaves the tasks (07 R194, 12 R332) -/

theorem tasksKept_modLaunch (s : State) (num : Nat) (f : Launch → Launch) : s.TasksKept (s.modLaunch num f) := .of_eq rfl rfl

theorem tasksKept_logWaits (s : State) (num : Nat) (p : Option (Nat × Nat)) : s.TasksKept (s.logWaits num p) := by
  unfold State.logWaits
  split
  · exact tasksKept_modLaunch ..
  · exact .refl s

theorem tasksKept_launchWaits (s : State) (num d : Nat) : s.TasksKept (s.launchWaits num d) := by
  unfold State.launchWaits
  split
  · exact .refl s
  · exact .of_eq rfl rfl

theorem tasksKept_readMem (s : State) (i : Issuer) (k : AccKind) (a n : Nat) : s.TasksKept (s.readMem i k a n).state :=
  (looked_readMem s i k a n).tasksKept

theorem tasksKept_writeMem (s : State) (i : Issuer) (a : Nat) (bs : List Byte) : s.TasksKept (s.writeMem i a bs).state := by
  have h : s.TasksKept (s.writeAttr i a bs).state :=
    tasksKept_bind (looked_reach s i .write a bs.length).tasksKept fun t p => tasksKept_physWrite t p.1 bs
  unfold State.writeMem
  cases hw : s.writeAttr i a bs <;> rw [hw] at h <;> exact h

theorem tasksKept_seekEntry (s : State) (i : Issuer) (a key j n : Nat) : s.TasksKept (s.seekEntry i a key j n).state := by
  induction n generalizing s j with
  | zero => exact .refl s
  | succ m ih =>
    refine tasksKept_bind (tasksKept_readMem ..) fun t bs => ?_
    dsimp only
    split
    · exact .refl t
    · exact ih t (j + 1)

/-- The read of a decision log, which waits while a request for its page is unanswered. -/
theorem tasksKept_logRead (s : State) (w : Bool) (i : Issuer) (a n : Nat) :
    s.TasksKept (if w then Acc.wait s none else s.readMem i .read a n).state := by
  split
  · exact .refl s
  · exact tasksKept_readMem ..

theorem tasksKept_replayOf (s : State) (l : Launch) (key : Nat) : s.TasksKept (s.replayOf l key).1 := by
  have hread := tasksKept_logRead s (s.unanswered (dieOf l.issuer.agent) l.page) l.issuer (ltLog l.table) 24
  unfold State.replayOf
  split
  · exact .refl s
  · split
    · exact tasksKept_modLaunch ..
    · dsimp only
      generalize (if s.unanswered (dieOf l.issuer.agent) l.page = true then Acc.wait s none
        else s.readMem l.issuer .read (ltLog l.table) 24) = r at hread
      cases r with
      | wait t p => exact hread.trans (tasksKept_logWaits ..)
      | fail t c x => exact hread
      | ok t bs =>
        have hseek := hread.trans (tasksKept_seekEntry t l.issuer (ltLog l.table) key (l.streams.get 0 key)
          (ofBytes ((bs.drop 8).take 4) - l.streams.get 0 key))
        dsimp only
        generalize t.seekEntry l.issuer (ltLog l.table) key (l.streams.get 0 key)
          (ofBytes ((bs.drop 8).take 4) - l.streams.get 0 key) = r at hseek
        cases r with
        | wait u p => exact hseek.trans (tasksKept_logWaits ..)
        | fail u c x => exact hseek
        | ok u o => cases o <;> exact hseek

theorem tasksKept_recordDecision (s : State) (num e v : Nat) : s.TasksKept (s.recordDecision num e v).state := by
  unfold State.recordDecision
  cases s.launch num with
  | none => exact .refl s
  | some l =>
    have hread := tasksKept_logRead s (s.unanswered (dieOf l.issuer.agent) l.page) l.issuer (ltLog l.table) 4
    dsimp only
    split
    · exact .refl s
    split
    · exact tasksKept_modLaunch ..
    generalize (if s.unanswered (dieOf l.issuer.agent) l.page = true then Acc.wait s none
      else s.readMem l.issuer .read (ltLog l.table) 4) = r at hread
    cases r with
    | wait t p => exact hread.trans (tasksKept_logWaits ..)
    | fail t c x => exact hread
    | ok t bs =>
      dsimp only
      split
      · split
        · exact hread.trans (tasksKept_launchWaits ..)
        · have hwrite := hread.trans (tasksKept_writeMem t l.issuer (ltLog l.table + 16) (toBytes 1 8))
          generalize t.writeMem l.issuer (ltLog l.table + 16) (toBytes 1 8) = r at hwrite
          cases r with
          | wait u p => exact hwrite.trans (tasksKept_logWaits ..)
          | fail u c x => exact hwrite.trans (.of_eq rfl rfl)
          | ok u x => exact hwrite.trans (.of_eq rfl rfl)
      · have hwrite := hread.trans (tasksKept_writeMem t l.issuer (ltLog l.table + 64 + 16 * l.logCount) (toBytes e 8 ++ toBytes v 8))
        generalize t.writeMem l.issuer (ltLog l.table + 64 + 16 * l.logCount) (toBytes e 8 ++ toBytes v 8) = r at hwrite
        cases r with
        | wait u p => exact hwrite.trans (tasksKept_logWaits ..)
        | fail u c x => exact hwrite
        | ok u x => exact hwrite.trans (tasksKept_modLaunch ..)

/-- An arrival whose turn has come leaves the tasks. -/
theorem tasksKept_placeArrival {s v : State} {l : Launch} {x pa : Nat} (h : s.placeArrival l x pa = .go v) : s.TasksKept v := by
  have hrep := tasksKept_replayOf s l (streamKey 3 (logObj pa))
  unfold State.placeArrival at h
  dsimp only at h
  generalize s.replayOf l (streamKey 3 (logObj pa)) = r at hrep h
  obtain ⟨u, rep⟩ := r
  cases rep
  case off =>
    have hrec := hrep.trans (tasksKept_recordDecision u l.num (3 + 2 ^ 22 * logObj pa) x)
    dsimp only at h
    generalize u.recordDecision l.num (3 + 2 ^ 22 * logObj pa) x = r at hrec h
    cases r with
    | ok t y => cases h; exact hrec
    | wait t p => cases h
    | fail t c y => cases h
  case entry j e v' =>
    dsimp only at h
    split at h
    · cases h; exact hrep.trans (tasksKept_modLaunch ..)
    · split at h <;> cases h
  all_goals cases h

theorem tasksKept_arrive {s t : State} {i : Issuer} {a x : Nat} {old : Word} (h : s.arrive i a x = .ok t old) : s.TasksKept t := by
  have hr := (looked_reach s i .both a 16).tasksKept
  unfold State.arrive at h
  generalize s.reach i .both a 16 = r at hr h
  cases r with
  | ok u p =>
    have ht : u.physWrite p.1 _ = t := (Acc.ok.inj h).1
    exact ht ▸ State.TasksKept.trans (t := u) hr (tasksKept_physWrite ..)
  | wait u p => cases h
  | fail u c y => cases h

theorem tasksKept_arriveInTurn {s t : State} {i : Issuer} {a x : Nat} {old : Word} (h : s.arriveInTurn i a x = .ok t old) : s.TasksKept t := by
  unfold State.arriveInTurn at h
  dsimp only at h
  split at h
  · exact tasksKept_arrive h
  · next k l _ =>
    have hr := (looked_reach s i .both a 16).tasksKept
    generalize s.reach i .both a 16 = r at hr h
    cases r with
    | wait u p => cases h
    | fail u c y => cases h
    | ok u p =>
      simp only [Acc.bind] at h
      cases hp : u.placeArrival l k.tidx p.1 with
      | go v =>
        rw [hp] at h
        exact (hr.trans (tasksKept_placeArrival hp)).trans (tasksKept_arrive h)
      | later v =>
        rw [hp] at h
        cases h

/-! ### Barrier objects (07 R193 R194) -/

section
variable {s u : State} {a b d : BitVec 6} (i : Instr)

theorem cacheStore_none (s : State) (i : Issuer) (va pa attr : Nat) : s.cacheStore i va pa attr 0 = s := rfl

theorem countOnce_none (s : State) (n : Nat) (old : BitVec 32) (attr : Nat) : s.countOnce n 0 old [attr] = s := rfl

theorem bitsOf_low (w : Word) (n : Nat) : bitsOf w 0 n = w.toNat % 2 ^ n := by rw [bitsOf, pow_zero, Nat.div_one]

theorem bodyBarinit_tile {pa attr : Nat} (hc : s.cur < 96) (hst : s.stamped = false) (hs : s.myCore.slog = []) (hg : GoodAddr 16 (s.rs a))
    (hr : s.reach s.issuer .write (s.rs a).toNat 16 = .ok u (pa, attr)) :
    s.bodyBarinit i a b = .done (u.physWrite pa (toBytes 0 8 ++ toBytes ((s.rs b).toNat % 2 ^ 63) 8)).storeSink := by
  have hlen : (toBytes 0 8 ++ toBytes ((s.rs b).toNat % 2 ^ 63) 8).length = 16 := by rw [List.length_append, toBytes_length, toBytes_length]
  rw [State.bodyBarinit, bitsOf_low]
  simp only [accessBad_good hg, kind_of_tile hc]
  rw [storeTask_ok i hs hst rfl (performOp_store_one (by rw [hlen]; exact hr)), cacheStore_none, countOnce_none]

theorem bodyBarinit_phys (hc : 96 ≤ s.cur) (hg : GoodAddr 16 (s.rs a))
    (hstore : s.physStore 0 (s.rs a).toNat (toBytes 0 8 ++ toBytes ((s.rs b).toNat % 2 ^ 63) 8) = .ok u ()) :
    s.bodyBarinit i a b = .done u := by
  rw [State.bodyBarinit, bitsOf_low]
  rcases kind_of_not_tile hc with hk | hk <;> simp only [accessBad_good hg, hk, hstore]

/-- A BARARR that has arrived. -/
theorem bodyBararr_ok {old : Word} (hg : GoodAddr 16 (s.rs a)) (hst : s.stamped = false) (hs : s.cur < 96 → s.myCore.slog = [])
    (hsram : 96 ≤ s.cur → s.cur < 100 → placeOf (s.rs a).toNat ≠ .sram)
    (harr : s.arriveInTurn s.issuer (s.rs a).toNat (if b = 0 then 1 else (s.rs b).toNat % 2 ^ 63) = .ok u old) :
    s.bodyBararr i d a b = .done (if d = 0 then u.storeSink else u.storeSink.produceLoad (.s d.toNat) (.w old) none) := by
  have hamount : (arriveAmount s b).toNat = if b = 0 then 1 else (s.rs b).toNat % 2 ^ 63 := by
    rw [arriveAmount, bitsOf_low]
    split
    · rfl
    · rw [BitVec.toNat_ofNat]
      omega
  have hop : s.atomicAt s.issuer aArrive 16 (s.rs a).toNat (arriveAmount s b) 0 = .ok u old.toNat := by
    rw [State.atomicAt, if_pos rfl, hamount, harr]
    rfl
  rw [State.bodyBararr, bodyAtomic_ok i hg hst hs hsram hop ((tasksKept_arriveInTurn harr).stamped.trans hst), destOf]
  by_cases h0 : d = 0
  · rw [if_pos h0, if_pos h0, List.zip_nil_left, List.foldl_nil]
  · rw [if_neg h0, if_neg h0, List.zip_cons_cons, List.zip_nil_left, List.foldl_cons, List.foldl_nil, BitVec.ofNat_toNat, BitVec.setWidth_eq]

end

theorem physWord_lt (s : State) (a : Nat) : s.physWord a 8 < 2 ^ 64 := by
  have h := ofBytes_lt (s.physBytes a 8)
  rw [physBytes_length] at h
  exact h

/-- The word that an arrival leaves, as a number. -/
theorem arriveWord_toNat (w0 w1 x : Nat) (h0 : w0 < 2 ^ 64) (h1 : w1 < 2 ^ 64) :
    (arriveWord (BitVec.ofNat 64 w0) (BitVec.ofNat 64 w1) x).toNat =
      if w1 % 2 ^ 63 ≠ 0 ∧ w1 % 2 ^ 63 ≤ (w0 % 2 ^ 63 + x) % 2 ^ 63
      then (1 - w0 / 2 ^ 63 % 2) * 2 ^ 63 + ((w0 % 2 ^ 63 + x) % 2 ^ 63 - w1 % 2 ^ 63)
      else w0 / 2 ^ 63 % 2 * 2 ^ 63 + (w0 % 2 ^ 63 + x) % 2 ^ 63 := by
  have hcount : (w0 % 2 ^ 63 + x) % 2 ^ 63 < 2 ^ 63 := Nat.mod_lt _ (by decide)
  have hmsb : (BitVec.ofNat 64 w0).msb = decide (2 ^ 63 ≤ w0) := by
    rw [BitVec.msb_eq_decide, BitVec.toNat_ofNat, Nat.mod_eq_of_lt h0]
  simp only [arriveWord, bitsOf_low, BitVec.toNat_ofNat, Nat.mod_eq_of_lt h0, Nat.mod_eq_of_lt h1, hmsb, decide_eq_true_eq, Bool.and_eq_true]
  generalize (w0 % 2 ^ 63 + x) % 2 ^ 63 = count at hcount
  generalize w1 % 2 ^ 63 = target
  split <;> split <;> rw [BitVec.toNat_ofNat] <;> omega

/-- Settles O28: the store of BARINIT, and the arrival of BARARR as an atomic of its own. -/
theorem barrierInstructions : Obligations.BarrierInstructions := by
  refine ⟨fun s u c d a b h hst hs hg => ?_, fun s u i a x pa attr hr => ?_⟩
  · intro words
    have hinit := execBarinit_eq (ready_mono h (m := [.s a.toNat, .s b.toNat]) (by simp))
    refine ⟨fun pa attr hc hr => hinit.trans (congrArg Eff.out (bodyBarinit_tile _ hc hst (hs hc) hg hr)),
      fun hc hstore => hinit.trans (congrArg Eff.out (bodyBarinit_phys _ hc hg hstore)), fun old hsram harr => ?_⟩
    refine ((execBararr_eq h).trans (congrArg Eff.out (bodyBararr_ok _ hg hst hs hsram harr))).trans ?_
    split <;> rfl
  · intro w0 count target phase
    rw [State.arrive, hr]
    dsimp only
    rw [arriveWord_toNat _ _ _ (physWord_lt ..) (physWord_lt ..)]

/-! ### Held instructions (07 R195 R196 R202) -/

section
variable {s u : State} {k : Cond} {d a b x : BitVec 6} {bs : List Byte}

section
variable (hlate : s.watchLate (s.rs a).toNat = false) (hload : s.loadMine (s.rs a).toNat 8 = .ok u bs)
  (hk : icond k ((BitVec.ofNat 64 (ofBytes bs) : Word) &&& if x = 0 then BitVec.allOnes 64 else s.rs x) (s.rs b) = true)
include hlate hload hk

/-- A WAITMEM whose word lets it issue, in free-issue mode. -/
theorem bodyWaitmem_free (hlat : s.watchLatency (s.rs a).toNat = none) :
    s.bodyWaitmem k d a b x = .done (u.produce (.s d.toNat) (.w (BitVec.ofNat 64 (ofBytes bs))) 0 1) := by
  rw [State.bodyWaitmem, State.observe, hload]
  simp only [hlate, hk, hlat, Bool.false_eq_true, if_false, if_true]

/-- A WAITMEM whose word lets it issue, in stamped mode. -/
theorem bodyWaitmem_stamped {lat : Nat} (hlat : s.watchLatency (s.rs a).toNat = some lat) :
    s.bodyWaitmem k d a b x = .done (u.produceLoad (.s d.toNat) (.w (BitVec.ofNat 64 (ofBytes bs))) (some (u.me.issued + lat))) := by
  rw [State.bodyWaitmem, State.observe, hload]
  simp only [hlate, hk, hlat, Bool.false_eq_true, if_false, if_true]

end

end

/-- What a FENCE waits for. -/
theorem fence_waits (s : State) (n : BitVec 3) :
    (((n == 0 || n.getLsbD 0) && !s.memQuiet) || ((n == 0 || n.getLsbD 1) && !s.regQuiet) || ((n == 0 || n.getLsbD 2) && !s.engQuiet)) = false ↔
      (n = 0 ∨ n.getLsbD 0 = true → s.memQuiet = true) ∧ (n = 0 ∨ n.getLsbD 1 = true → s.regQuiet = true) ∧
        (n = 0 ∨ n.getLsbD 2 = true → s.engQuiet = true) := by
  have hone (p : Bool) (q : Bool) : ((n == 0 || p) && !q) = false ↔ (n = 0 ∨ p = true → q = true) := by
    cases q <;> simp
  rw [Bool.or_eq_false_iff, Bool.or_eq_false_iff, hone, hone, hone, and_assoc]

theorem execFence_eq {s : State} {c : Ctl} (n : BitVec 3) (h : s.Ready c []) :
    exec (.fence c n) s = (if ((n == 0 || n.getLsbD 0) && !s.memQuiet) || ((n == 0 || n.getLsbD 1) && !s.regQuiet) ||
      ((n == 0 || n.getLsbD 2) && !s.engQuiet) then Eff.hold s 0 else .done s.fenced).out :=
  issue_ready s c {} _ _ h rfl (fun hn => nomatch hn) (fun hn => nomatch hn) fun _ hr => hr

theorem fenced_tile {s : State} (h : s.cur < 96) : s.fenced = s := by rw [State.fenced, kind_of_tile h]

theorem fenced_stale {s : State} (h : 96 ≤ s.cur) (hd : s.me.delay = none) : s.fenced = s.setMe { s.me with stale := s.me.lines.map (·.1) } := by
  rw [State.fenced]
  rcases kind_of_not_tile h with hk | hk <;> simp only [hk, State.modMe, hd, Option.isNone_none, if_true]

theorem fenced_staleNext {s : State} (h : 96 ≤ s.cur) (hd : s.me.delay ≠ none) :
    s.fenced = s.setMe { s.me with staleNext := s.me.lines.map (·.1) } := by
  have hd : s.me.delay.isNone = false := by rwa [Option.isNone_eq_false_iff, Option.isSome_iff_ne_none]
  rw [State.fenced]
  rcases kind_of_not_tile h with hk | hk <;> simp only [hk, State.modMe, hd, Bool.false_eq_true, if_false]

/-- Settles O29: each instruction by the effect that its form runs. -/
theorem heldInstructions : Obligations.HeldInstructions := by
  intro s c k d a b x n h
  refine ⟨fun u bs hfull hg hlate hload => ?_, ?_, fun hc => ?_⟩
  · intro m hk
    have hexec := execWaitmem_eq k (d := d) (ready_append h hfull)
    rw [accessBad_good hg] at hexec
    dsimp only at hexec
    exact ⟨fun hlat => hexec.trans (congrArg Eff.out (bodyWaitmem_free hlate hload hk hlat)),
      fun lat hlat => hexec.trans (congrArg Eff.out (bodyWaitmem_stamped hlate hload hk hlat))⟩
  · intro mem reg eng ok
    have hexec := execFence_eq n h
    refine ⟨fun hok => ?_, fun hok => ?_⟩
    · rw [(fence_waits s n).2 hok] at hexec
      refine ⟨fun hc => hexec.trans ?_, fun hc => ⟨fun hd => hexec.trans ?_, fun hd => hexec.trans ?_⟩⟩
      · rw [fenced_tile hc]; rfl
      · rw [fenced_stale hc hd]; rfl
      · rw [fenced_staleNext hc hd]; rfl
    · rw [Bool.eq_true_of_not_eq_false (mt (fence_waits s n).1 hok)] at hexec
      exact hexec
  · have hexec : exec (.frel c) s = (if s.myOutstanding = 0 then Eff.done s else .hold s 0).out := by
      refine (issue_ready s c {} _ _ h rfl (fun hn => nomatch hn) (fun hn => nomatch hn) fun _ hr => hr).trans ?_
      rcases Nat.lt_or_ge s.cur 96 with ht | ht
      · rw [kind_of_tile ht]
      · rw [kind_of_control ht hc]
    exact ⟨fun h0 => hexec.trans (by rw [if_pos h0]; rfl), fun h0 => hexec.trans (by rw [if_neg h0]; rfl)⟩

end Sys2Proof.Machine

/-! Pushes and remote atomics (07 R197 to R200). -/

namespace Sys2Proof.Machine

open Host (Outcome)

/-! ### A push that finds its queue full (07 R198) -/

section
variable {s u : State} {q : TileQueue} {r cmd : Rec} {o : Origin} {ctx : Nat} {phys : Bool}

theorem offerTile_full (h : s.offerTile q r o ctx phys = (u, false)) : u = s := by
  unfold State.offerTile at h
  split at h
  · exact ((Prod.mk.inj h).1).symm
  · generalize s.sourceOf r o = source at h
    obtain ⟨prio, depth⟩ := source
    dsimp -zeta only at h
    extract_lets core e s1 at h
    split at h
    · cases (Prod.mk.inj h).2
    · split at h
      · cases (Prod.mk.inj h).2
      · split at h <;> cases (Prod.mk.inj h).2

theorem offerPod_full (h : s.offerPod r o ctx phys = (u, false)) : u = s := by
  unfold State.offerPod at h
  dsimp only at h
  split at h
  · exact ((Prod.mk.inj h).1).symm
  split at h
  · cases (Prod.mk.inj h).2
  split at h
  · exact offerTile_full h
  split at h
  · exact ((Prod.mk.inj h).1).symm
  split at h <;> cases (Prod.mk.inj h).2

theorem offerLaunch_full {lq : Bool} {die : Nat} (h : s.offerLaunch q lq r o ctx phys die = (u, false)) : u = s := by
  unfold State.offerLaunch at h
  generalize s.sourceOf r o = source at h
  obtain ⟨prio, depth0⟩ := source
  dsimp -zeta only at h
  extract_lets depth lvl e refuse later at h
  have hlater {t : State} {p : Option (Nat × Nat)} (h : later t p = (u, false)) : u = s := by
    simp only [later] at h
    split at h
    · exact ((Prod.mk.inj h).1).symm
    · cases (Prod.mk.inj h).2
  generalize (if lq = true then decide (5 ≤ lvl) || tiOpc r != 0x0A else lvl != queueLevel q) = refused at h
  split at h
  · cases (Prod.mk.inj h).2
  split at h
  · exact hlater h
  split at h
  · exact hlater h
  · cases (Prod.mk.inj h).2
  · split at h
    · exact ((Prod.mk.inj h).1).symm
    · cases (Prod.mk.inj h).2

theorem offerRecord_full (h : s.offerRecord q r o ctx phys = (u, false)) : u = s := by
  unfold State.offerRecord at h
  dsimp only at h
  split at h
  · exact offerPod_full h
  · exact offerTile_full h
  · split at h
    · exact offerLaunch_full h
    · exact offerTile_full h
  · split at h
    · exact offerLaunch_full h
    · exact offerTile_full h

theorem offerLq_full {d : Nat} (h : s.offerLq r o ctx phys d = (u, false)) : u = s := by
  unfold State.offerLq at h
  split at h
  · exact offerPod_full h
  · exact offerLaunch_full h

theorem offerEngine_full {n : Nat} {g : Bool} {c : Option Nat} {hint : BitVec 2} (h : s.offerEngine n g r o c hint = (u, false)) : u = s := by
  unfold State.offerEngine at h
  dsimp only at h
  split at h
  · exact ((Prod.mk.inj h).1).symm
  · split at h <;> cases (Prod.mk.inj h).2

theorem offerMatrix_full {n c : Nat} (h : s.offerMatrix n r o c = (u, false)) : u = s := by
  unfold State.offerMatrix at h
  split at h
  · exact ((Prod.mk.inj h).1).symm
  · split at h <;> cases (Prod.mk.inj h).2

theorem offerFabric_full {n dctx : Nat} {c : Option Nat} (h : s.offerFabric n r o c dctx = (u, false)) : u = s := by
  unfold State.offerFabric at h
  split at h
  · exact ((Prod.mk.inj h).1).symm
  · split at h <;> cases (Prod.mk.inj h).2

theorem offerPair_full {n c : Nat} {x : Option Nat} {hint : BitVec 2} (h : s.offerPair n r cmd o x hint c = (u, false)) : u = s := by
  unfold State.offerPair at h
  dsimp only at h
  split at h
  · exact ((Prod.mk.inj h).1).symm
  · split at h
    · cases (Prod.mk.inj h).2
    · split at h <;> cases (Prod.mk.inj h).2

/-- No queue changes anything when it is full. -/
theorem pushTo_full {n : Nat} {hint : BitVec 2} (h : s.pushTo n r hint = some (u, false)) : u = s := by
  unfold State.pushTo at h
  dsimp only at h
  split at h
  · exact offerRecord_full (Option.some.inj h)
  · exact offerEngine_full (Option.some.inj h)
  · exact offerEngine_full (Option.some.inj h)
  · split at h
    · cases h
    · exact offerMatrix_full (Option.some.inj h)
  · exact offerFabric_full (Option.some.inj h)
  · exact offerLq_full (Option.some.inj h)
  all_goals exact offerRecord_full (Option.some.inj h)

end

/-! ### The record and the answer of a push (07 R197 R198) -/

theorem recAt_word (s : State) (a k : Nat) (hk : k < 8) : Rec_word (s.recAt a) k = s.src.rs (a + k) := by
  have hlt : packElems 64 ((List.range 8).map fun k => (s.src.rs (a + k)).toNat) < 2 ^ 512 := by
    simpa using pack_lt 64 ((List.range 8).map fun k => (s.src.rs (a + k)).toNat)
  have helem := pack_elem 64 ((List.range 8).map fun k => (s.src.rs (a + k)).toNat) k (by simpa using hk)
  rw [List.getElem_map, List.getElem_range, Nat.mod_eq_of_lt (s.src.rs (a + k)).isLt] at helem
  apply BitVec.eq_of_toNat_eq
  rw [Rec_word, State.recAt, BitVec.extractLsb'_toNat, BitVec.toNat_ofNat, Nat.mod_eq_of_lt hlt, Nat.shiftRight_eq_div_pow, Nat.mul_comm 64 k, helem]

/-- The answer of a push: ones where the queue was full. -/
theorem pushed_answer (taken : Bool) : Pred.all (!taken) = { bits := if taken then 0 else BitVec.allOnes 256, tag := true } := by
  cases taken <;> rfl

theorem pushed_out (d : BitVec 6) (u : State) (taken : Bool) :
    (Eff.pushed d (u, taken)).out =
      .next (u.wrote (.p d.toNat) (.q { bits := if taken then 0 else BitVec.allOnes 256, tag := true }) 0 1) := by
  rw [Eff.pushed, pushed_answer]
  rfl

section
variable {s u : State} {c : Ctl} {d a q : BitVec 6} {taken : Bool}

theorem recSrcs_full {n : Nat} (h : s.Ready c [.p d.toNat]) (hfull : s.Full ((List.range n).map fun k => .s (a.toNat + k))) :
    s.Ready c ((recSrcs a n).map (·.reg) ++ [.p d.toNat]) := by
  refine ready_mono (ready_append h hfull) fun r hr => ?_
  rw [recSrcs, List.map_map] at hr
  rw [List.mem_append] at hr ⊢
  exact hr.symm

theorem execPush_eq (h : s.Ready c [.p d.toNat]) (hfull : s.Full ((List.range 8).map fun k => .s (a.toNat + k)))
    (hq : s.cur < 96 ∨ s.cur < 100 ∧ 4 ≤ q.toNat) (hpush : s.pushTo q.toNat (s.recAt a.toNat) c.ch = some (u, taken)) :
    exec (.push c d a q) s = (Eff.pushed d (u, taken)).out := by
  refine (issue_ready s c { srcs := recSrcs a 8, dsts := [.p d.toNat] } _ _ (recSrcs_full h hfull) rfl (fun hn => nomatch hn)
    (fun hn => nomatch hn) fun _ hr => hr).trans ?_
  rcases Nat.lt_or_ge s.cur 96 with ht | ht
  · simp only [kind_of_tile ht, hpush]
  · obtain ⟨hc, h4⟩ := hq.resolve_left (Nat.not_lt.2 ht)
    simp only [kind_of_control ht hc, Nat.not_lt.2 h4, decide_false, hpush]

theorem execPushc_eq (h : s.Ready c [.p d.toNat]) (hfull : s.Full ((List.range 16).map fun k => .s (a.toNat + k))) (hc : s.cur < 96)
    (hb : (mcmdOp (s.recAt (a.toNat + 8))).any s.myCore.borrowed = false)
    (hpush : s.offerPair s.cur (s.recAt a.toNat) (s.recAt (a.toNat + 8)) (s.originOf s.pusher s.cur).1 (s.originOf s.pusher s.cur).2 c.ch
      s.me.issued = (u, taken)) : exec (.pushc c d a) s = (Eff.pushed d (u, taken)).out := by
  refine (issue_ready s c { srcs := recSrcs a 16, dsts := [.p d.toNat], tileOnly := true } _ _ (recSrcs_full h hfull) rfl (fun _ => hc)
    (fun hn => nomatch hn) fun _ hr => hr).trans ?_
  rw [hb, ← hpush]
  rfl

end

/-! ### FATOM (07 R200) -/

section
variable {s : State} {c : Ctl} {op : BitVec 3} {t : Ty} {d a b x y : BitVec 6}

theorem execFatom_eq (h : s.Ready c [.s a.toNat, .s b.toNat, .s x.toNat, .s y.toNat, .s d.toNat]) (hc : s.cur < 100)
    (hg : GoodAddr (elemBytes t) (s.rs a)) :
    exec (.fatom c op t d a b x y) s = (if 64 * (s.fab.herdm1.toNat + 1) ≤ (s.rs x).toNat then Eff.done (s.deferMe cPeer (s.rs a).toNat)
      else if s.dbgHalt then .hold s 0
      else .done (s.takeFatom op.toNat (t == .i64) d (s.rs a) (s.rs b) (if y = 0 then 0 else s.rs y) (s.rs x).toNat)).out := by
  refine (issue_ready s c { srcs := [srcS a 0, srcS b 1, srcS x 2] ++ (if y = 0 then [] else [srcS y 3]), dsts := [.s d.toNat] } _ _ h rfl
    (fun hn => nomatch hn) (fun hn => nomatch hn) ?_).trans ?_
  · split <;> simp [srcS]
  · rcases Nat.lt_or_ge s.cur 96 with ht | ht
    · simp only [kind_of_tile ht, accessBad_good hg]
      rfl
    · simp only [kind_of_control ht hc, accessBad_good hg]
      rfl

end

/-- Neither the fabric, nor memory, nor which agent acts, is different. -/
structure State.FabricKept (s t : State) : Prop where
  fab : t.fab = s.fab
  mem : t.mem = s.mem
  cur : t.cur = s.cur

theorem fabricKept_countReq (s : State) (o : Origin) (f : Nat → Nat) : s.FabricKept (s.countReq o f) := by
  unfold State.countReq
  split
  · unfold State.modTask
    split
    · exact ⟨rfl, rfl, rfl⟩
    · split <;> exact ⟨rfl, rfl, rfl⟩
  all_goals exact ⟨rfl, rfl, rfl⟩

theorem fabricKept_takeReq (s : State) (r : FabReq) :
    (s.modFab fun f => { f with reqs := f.reqs ++ [{ r with seq := f.seq, at_ := s.now }], seq := (f.seq + 1) % 2 ^ 48 }).FabricKept (s.takeReq r) := by
  unfold State.takeReq
  dsimp only
  split
  · exact ⟨rfl, rfl, rfl⟩
  · exact fabricKept_countReq ..

/-- The request that a FATOM becomes (07 R200). -/
def State.fatomReq (s : State) (op : Nat) (wide : Bool) (d : BitVec 6) (addr b cmp : Word) (dst : Nat) : FabReq :=
  { seq := s.fab.seq, at_ := s.now, origin := s.myOrigin, dctx := s.fatomCtx, dst := dst, len := 32
    waits := decide (4096 ≤ s.fab.window dst s.fab.seq)
    fatom := some { addr := addr, b := b, cmp := cmp, ctx := s.fatomCtx, wide := wide, op := op, core := s.cur, d := d.toNat } }

section
variable (s : State) (op : Nat) (wide : Bool) (d : BitVec 6) (addr b cmp : Word) (dst : Nat)

theorem takeFatom_reqs : (s.takeFatom op wide d addr b cmp dst).fab.reqs = s.fab.reqs ++ [s.fatomReq op wide d addr b cmp dst] :=
  congrArg Fabric.reqs (fabricKept_takeReq s _).fab

theorem takeFatom_mem : (s.takeFatom op wide d addr b cmp dst).mem = s.mem := (fabricKept_takeReq s _).mem

theorem takeFatom_empty (h : d ≠ 0) : (s.takeFatom op wide d addr b cmp dst).me.regs.isEmpty (.s d.toNat) = true := by
  have hd : RegId.wired (.s d.toNat) = false := by
    have h0 : d.toNat ≠ 0 := fun h0 => h (BitVec.eq_of_toNat_eq h0)
    simpa [RegId.wired] using h0
  rw [State.takeFatom, modMe_me, mark_isEmpty, hd]
  simp

end

/-- Settles O30: a push answers what its queue says; a FATOM is taken as a request, deferred or held. -/
theorem pushesAndRemoteAtomics : Obligations.PushesAndRemoteAtomics := by
  refine ⟨fun s u c d a q taken h => ?_, fun s c op t d a b x y ht h hc hg => ?_⟩
  · intro answer
    refine ⟨fun hfull hq hpush => ⟨fun h0 => pushTo_full (h0 ▸ hpush), ?_⟩, fun hfull hc hb hpush => ⟨fun h0 => offerPair_full (h0 ▸ hpush), ?_⟩,
      fun k hk => recAt_word s a.toNat k hk⟩
    · exact (execPush_eq h hfull hq hpush).trans (pushed_out ..)
    · exact (execPushc_eq h hfull hc hb hpush).trans (pushed_out ..)
  · have hexec := execFatom_eq (op := op) h hc hg
    refine ⟨fun hpeer => ?_, fun hpeer hh => ?_, fun hpeer hh => ?_⟩
    · rw [if_pos hpeer] at hexec
      refine hexec.trans ?_
      rw [State.deferMe, BitVec.ofNat_toNat, BitVec.setWidth_eq]
      rfl
    · rw [if_neg (Nat.not_le.2 hpeer), hh] at hexec
      exact hexec
    · rw [if_neg (Nat.not_le.2 hpeer), hh] at hexec
      refine ⟨_, s.fatomReq op.toNat (t == .i64) d (s.rs a) (s.rs b) (if y = 0 then 0 else s.rs y) (s.rs x).toNat, _, hexec, rfl, ?_, rfl, rfl, rfl,
        rfl, rfl, rfl, rfl, rfl, rfl, rfl, ?_, fun h0 => ?_⟩
      · exact takeFatom_reqs ..
      · exact takeFatom_mem ..
      · exact takeFatom_empty _ _ _ _ _ _ _ _ h0

end Sys2Proof.Machine

/-! The block cache, scratchpad regions, and the slots of the matrix engine (07 R181 to R187, 08 R211 R212 R221). -/

namespace Sys2Proof.Machine

open Host (Outcome)

theorem setCore_setCore (s : State) (n : Nat) (x y : Core) : (s.setCore n x).setCore n y = s.setCore n y := by
  simp only [State.setCore, SMap.set_set]

theorem setCore_myCore (s : State) (x : Core) : (s.setCore s.cur x).myCore = x := (setCore_core ..).trans (if_pos rfl)

theorem setCore_me (s : State) (n : Nat) (x : Core) : (s.setCore n x).me = s.me := rfl

/-! ### A pinned block (07 R181) -/

theorem evictAll_task (k : Core) (f : Block → Bool) : (k.evictAll f).task = k.task := rfl

theorem makeRoom_task (k : Core) (n fuel : Nat) : (k.makeRoom n fuel).task = k.task := by
  induction fuel generalizing k with
  | zero => rfl
  | succ f ih =>
    rw [Core.makeRoom]
    split
    · rfl
    · exact ih _

/-- What LDBLK leaves of the core's blocks before it allots the new one (07 R181). -/
def State.blockRoom (s : State) (base n : Nat) : Core :=
  (s.myCore.evictAll fun b => b.ctx == s.myTask.ctx && overlap b.addr (128 * b.lines) base (128 * (n + 1))).makeRoom (n + 1) 2000

/-- A block that LDBLK finds pinned already. -/
def State.isPinned (s : State) (base n : Nat) (k : Block) : Prop :=
  k.pinned = true ∧ k.here = true ∧ k.ctx = s.myTask.ctx ∧ k.addr + (k.lines - 1) = base + n

section
variable {s : State} {c : Ctl} {d a n : BitVec 6} {ev : Bool}

/-- LDBLK of lines that pass the address checks. -/
def State.bodyLdblk (s : State) (d n : BitVec 6) (base : Nat) (ev : Bool) : Eff :=
  if s.myCore.blocks.any fun b => b.pinned && b.here && b.ctx == s.myTask.ctx && b.handle == base + n.toNat then
    .done (s.produce (.s d.toNat) (.w (BitVec.ofNat 64 (base + n.toNat))) 0 1)
  else .done ((s.setCore s.cur (s.blockRoom base n.toNat)).startBlock d base (n.toNat + 1) ev)

theorem execLdblk_eq (h : s.ReadyTile c [.s a.toNat, .s d.toNat]) (ha : (s.rs a).toNat % 128 = 0) (hr : (s.rs a).toNat + 128 * n.toNat < 2 ^ 56) :
    exec (.ldblk c d a n ev) s = (s.bodyLdblk d n (s.rs a).toNat ev).out := by
  obtain ⟨hready, hc⟩ := h
  have hlines : ((List.range (n.toNat + 1)).findSome? fun l =>
      let x := (s.rs a + BitVec.ofNat 64 (128 * l)).toNat
      if 2 ^ 56 ≤ x then some (cLoad, x) else if x % 128 ≠ 0 then some (cAlign, x) else none) = none := by
    rw [List.findSome?_eq_none_iff]
    intro l hl
    have hl : l < n.toNat + 1 := List.mem_range.1 hl
    have hx : (s.rs a + BitVec.ofNat 64 (128 * l)).toNat = (s.rs a).toNat + 128 * l := by
      rw [BitVec.toNat_add, BitVec.toNat_ofNat]
      omega
    dsimp only
    rw [hx, if_neg (by omega), if_neg (by omega)]
  refine (issue_ready s c { srcs := [srcS a 0], dsts := [.s d.toNat], tileOnly := true } _ _ hready rfl (fun _ => hc) (fun hn => nomatch hn)
    fun _ hr => hr).trans ?_
  rw [hlines]
  rfl

theorem isPinned_iff (base n : Nat) : (s.myCore.blocks.any fun b => b.pinned && b.here && b.ctx == s.myTask.ctx && b.handle == base + n) = true ↔
    ∃ k ∈ s.myCore.blocks, s.isPinned base n k := by
  simp [State.isPinned, Block.handle, and_assoc]

theorem stamped_setCore {k : Core} (h : k.task = s.myCore.task) : (s.setCore s.cur k).stamped = s.stamped := by
  rw [State.stamped, setCore_myCore, h]
  rfl

theorem myTask_setCore {k : Core} (h : k.task = s.myCore.task) : (s.setCore s.cur k).myTask = s.myTask := by
  rw [State.myTask, setCore_myCore, h]
  rfl

theorem bodyLdblk_pinned {base : Nat} (h : ∃ k ∈ s.myCore.blocks, s.isPinned base n.toNat k) :
    s.bodyLdblk d n base ev = .done (s.produce (.s d.toNat) (.w (BitVec.ofNat 64 (base + n.toNat))) 0 1) := if_pos ((isPinned_iff ..).2 h)

theorem startBlock_free {base lines : Nat} (hst : s.stamped = false) :
    s.startBlock d base lines ev = (s.setCore s.cur (s.myCore.allot
      { ctx := s.myTask.ctx, addr := base, lines := lines, bundle := s.me.bundle, fill := some (d.toNat, ev), used := 1 })).modMe fun x =>
        { x with regs := x.regs.mark (.s d.toNat) } := by
  rw [State.startBlock, hst]
  rfl

theorem bodyLdblk_new {base : Nat} (h : ∀ k ∈ s.myCore.blocks, ¬ s.isPinned base n.toNat k) (hst : s.stamped = false) :
    s.bodyLdblk d n base ev = .done ((s.setCore s.cur ((s.blockRoom base n.toNat).allot
      { ctx := s.myTask.ctx, addr := base, lines := n.toNat + 1, bundle := s.me.bundle, fill := some (d.toNat, ev), used := 1 })).modMe fun x =>
        { x with regs := x.regs.mark (.s d.toNat) }) := by
  have hnone : ¬ ∃ k ∈ s.myCore.blocks, s.isPinned base n.toNat k := fun ⟨k, hk, hp⟩ => h k hk hp
  have htask : (s.blockRoom base n.toNat).task = s.myCore.task := makeRoom_task ..
  rw [State.bodyLdblk, if_neg (mt (isPinned_iff ..).1 hnone), startBlock_free ((stamped_setCore htask).trans hst), myTask_setCore htask,
    setCore_myCore, setCore_cur, setCore_setCore, setCore_me]

/-! ### Releasing a block (07 R183) -/

/-- What BLKREL leaves of a block. -/
def releaseBlock (h : Nat) (b : Block) : Option Block := if b.pinned && b.handle == h then b.unpin else some b

theorem releaseBlock_other {h : Nat} {b : Block} (hb : b.pinned = false ∨ b.addr + (b.lines - 1) ≠ h) : releaseBlock h b = some b := by
  refine if_neg fun hp => ?_
  rw [Bool.and_eq_true, beq_iff_eq] at hp
  rcases hb with hb | hb
  · rw [hb] at hp
    cases hp.1
  · exact hb hp.2

theorem releaseBlock_kept {h : Nat} {b : Block} (hp : b.pinned = true) (hh : b.addr + (b.lines - 1) = h) (hk : b.here = true ∨ b.fill.isSome = true) :
    releaseBlock h b = some { b with pinned := false } := by
  have hk : (b.here || b.fill.isSome) = true := by rwa [Bool.or_eq_true]
  rw [releaseBlock, if_pos (by rw [hp, Block.handle, hh]; simp), Block.unpin, if_pos hk]

theorem of_releaseBlock {h : Nat} {b x : Block} (hx : releaseBlock h b = some x) :
    (x = b ∧ (b.pinned = false ∨ b.addr + (b.lines - 1) ≠ h)) ∨ (x = { b with pinned := false } ∧ b.pinned = true ∧ b.addr + (b.lines - 1) = h) := by
  unfold releaseBlock at hx
  split at hx
  · next hp =>
    rw [Bool.and_eq_true, beq_iff_eq] at hp
    unfold Block.unpin at hx
    split at hx
    · exact .inr ⟨(Option.some.inj hx).symm, hp.1, hp.2⟩
    · cases hx
  · next hp =>
    refine .inl ⟨(Option.some.inj hx).symm, ?_⟩
    rw [Bool.and_eq_true, beq_iff_eq, not_and_or] at hp
    exact hp.imp Bool.eq_false_of_not_eq_true id

end

/-- Settles O31: LDBLK by the block it finds or allots, BLKREL block by block. -/
theorem blockInstructions : Obligations.BlockInstructions := by
  refine ⟨fun s c d a n ev h ha hr => ?_, fun s c a h => ?_⟩
  · intro base ctx mine fits
    have hexec := execLdblk_eq (ev := ev) h ha hr
    refine ⟨fun hp => ?_, fun hn hst => ?_, fun b hb => ?_, fun hd => ?_⟩
    · refine (hexec.trans (congrArg Eff.out (bodyLdblk_pinned hp))).trans ?_
      have hv : BitVec.ofNat 64 ((s.rs a).toNat + n.toNat) = s.rs a + n.zeroExtend 64 := by
        apply BitVec.eq_of_toNat_eq
        simp
      rw [hv]
      rfl
    · exact hexec.trans (congrArg Eff.out (bodyLdblk_new hn hst))
    · refine ⟨(fits.makeFit b.lines (fits.blocks.length + 1)).blocks, ?_⟩
      simp only [Core.allot, if_neg hb]
    · have hw : RegId.wired (.s d.toNat) = false := by
        have h0 : d.toNat ≠ 0 := fun h0 => hd (BitVec.eq_of_toNat_eq h0)
        simpa [RegId.wired] using h0
      rw [mark_isEmpty, hw]
      simp
  · obtain ⟨hready, hc⟩ := h
    refine ⟨s.myCore.blocks.filterMap (releaseBlock (s.rs a).toNat),
      issue_ready s c { srcs := [srcS a 0], tileOnly := true } _ _ hready rfl (fun _ => hc) (fun hn => nomatch hn) fun _ hr => hr,
      fun b hb ho => List.mem_filterMap.2 ⟨b, hb, releaseBlock_other ho⟩, fun b hb hp hh hk => List.mem_filterMap.2 ⟨b, hb, releaseBlock_kept hp hh hk⟩,
      fun x hx => ?_⟩
    obtain ⟨b, hb, hx⟩ := List.mem_filterMap.1 hx
    exact ⟨b, hb, of_releaseBlock hx⟩

/-! ### Scratchpad regions (07 R184 R187) -/

theorem flushRegion_unmapped {k : Core} {n : Nat} (h : k.regions.get none n = none) (t : Task) (bundle : Word) :
    k.flushRegion n none t bundle = k := by
  rw [Core.flushRegion, h]
  rfl

/-- The write-back that a flush of region `r` starts, where no word is uncorrectable. -/
def Core.backOf (k : Core) (r : Region) (bar : Option Word) (t : Task) (bundle : Word) : WriteBack :=
  { lines := r.dirty.reverse.map fun l => (r.gbase + 128 * l, bytesAt k.scratch (r.base + 128 * l) 128)
    bar := bar, ctx := t.ctx, bundle := bundle, task := t.uid, launch := t.launch, stops := t.stops }

theorem flushRegion_mapped {k : Core} {n : Nat} {r : Region} {bar : Option Word} (h : k.regions.get none n = some r) (hs : k.spoilt = [])
    (hne : bar ≠ none ∨ r.dirty ≠ []) (t : Task) (bundle : Word) :
    k.flushRegion n bar t bundle =
      { k with regions := k.regions.set none n (some { r with dirty := [] }), wb := k.wb ++ [k.backOf r bar t bundle] } := by
  have hidle : (r.dirty.isEmpty && bar.isNone) = false := by
    rw [Bool.and_eq_false_iff]
    rcases hne with hne | hne
    · exact .inr (by simpa [Option.isSome_iff_ne_none] using hne)
    · exact .inl (by simpa using hne)
  have hfind : (r.dirty.reverse.findSome? fun _ => (none : Option Nat)) = none := List.findSome?_eq_none_iff.2 fun _ _ => rfl
  simp only [Core.flushRegion, h, hs, List.isEmpty_nil, if_true, Option.isNone_none, List.filter_true, hidle, Bool.false_eq_true, if_false, hfind]
  rfl

section
variable {s : State} {c : Ctl} {n a b x : BitVec 6}

theorem execRegmap_unmapped (h : s.ReadyTile c [.s a.toNat, .s b.toNat, .s x.toNat]) (hheld : s.regionHeld n.toNat = false)
    (hbad : s.myCore.mapBad n.toNat (s.rs a) (s.rs b) (s.rs x) = none) (hr : s.myCore.regions.get none n.toNat = none) :
    exec (.regmap c n a b x) s = .next (s.setCore s.cur { s.myCore with
      regions := s.myCore.regions.set none n.toNat
        (some { base := (s.rs a).toNat, gbase := (s.rs b).toNat, size := (s.rs x).toNat }) }).issues := by
  obtain ⟨hready, hc⟩ := h
  refine (issue_ready s c { srcs := [srcS a 0, srcS b 1, srcS x 2], tileOnly := true } _ _ hready rfl (fun _ => hc) (fun hn => nomatch hn)
    fun _ hr => hr).trans ?_
  simp only [hbad, hheld, Bool.false_eq_true, if_false, State.modCore, flushRegion_unmapped hr]
  rfl

/-- REGFLUSH and REGDROP run alike. -/
theorem flush_mapped {r : Region} (hheld : s.regionHeld n.toNat = false) (hr : s.myCore.regions.get none n.toNat = some r)
    (hb : b = 0 ∨ GoodAddr 16 (s.rs b)) (hne : b ≠ 0 ∨ r.dirty ≠ []) (hs : s.myCore.spoilt = []) (drop : Bool) :
    s.flush n b drop =
      .done (s.setCore s.cur (let k : Core := { s.myCore with
          regions := s.myCore.regions.set none n.toNat (some { r with dirty := [] })
          wb := s.myCore.wb ++ [s.myCore.backOf r (if b = 0 then none else some (s.rs b)) s.myTask s.me.bundle] }
        if drop then { k with regions := k.regions.drop n.toNat } else k)) := by
  have hbad : barBad (barOperand s b) = none := by
    rw [barOperand]
    split
    · rfl
    · next h0 =>
      obtain ⟨hlt, hal⟩ := hb.resolve_left h0
      rw [barBad]
      simp only [Nat.not_le.2 hlt, hal, ne_eq, not_true_eq_false, if_false]
  have hbar : barOperand s b ≠ none ∨ r.dirty ≠ [] := hne.imp_left fun h0 => by
    rw [barOperand, if_neg h0]
    exact Option.some_ne_none _
  have hbarEq : barOperand s b = if b = 0 then none else some (s.rs b) := rfl
  rw [← hbarEq]
  simp only [State.flush, hbad, hheld, Bool.false_eq_true, if_false, State.modCore, flushRegion_mapped hr hs hbar]

end

/-- Settles O32: REGMAP of an unmapped region; REGFLUSH and REGDROP by the flush they share. -/
theorem regionInstructions : Obligations.RegionInstructions := by
  intro s c n a b x h hheld k map
  refine ⟨fun hbad hr => execRegmap_unmapped h hheld hbad hr, fun r hr hb hne hs => ?_⟩
  intro lines flushed
  obtain ⟨hready, hc⟩ := h
  have hflush {i : Instr} {drop : Bool} (hi : exec i s = issue s c { srcs := [srcS b 1], tileOnly := true } (s.flush n b drop)) :
      exec i s = (s.flush n b drop).out :=
    hi.trans (issue_ready s c _ _ _ hready rfl (fun _ => hc) (fun hn => nomatch hn) (by simp [srcS]))
  exact ⟨(hflush rfl).trans (congrArg Eff.out (flush_mapped hheld hr hb hne hs false)),
    (hflush rfl).trans (congrArg Eff.out (flush_mapped hheld hr hb hne hs true))⟩

/-! ### Operand slots and waiting (08 R211 R212 R221) -/

section
variable {s : State} {c : Ctl} {d n acc : BitVec 6} {e : Eff}

theorem issue_tile {f : Form} {l : List RegId} (h : s.ReadyTile c l) (hg : f.guard = .bit0) (hb : f.br = false)
    (hf : ∀ r ∈ f.srcs.map (·.reg) ++ f.dsts, r ∈ l) : issue s c f e = e.out :=
  issue_ready s c f e l h.1 hg (fun _ => h.2) (fun hn => by rw [hb] at hn; cases hn) hf

/-- A slot is free to OSCLAIM where no record borrows the last four. -/
theorem slotFree_iff (ht : s.myCore.tq = []) (m : Nat) :
    (s.myCore.claim m == .free && !(decide (12 ≤ m) && !s.myCore.tq.isEmpty)) = true ↔ s.myCore.claim m = .free := by
  simp [ht]

end

/-- Settles O33: OSCLAIM by the slot it finds, OSREL, MWAIT and MFENCE by what the queue holds. -/
theorem matrixSlots : Obligations.MatrixSlots := by
  intro s c d n acc h ht k claims
  have hclaim {any : Bool} {e : Eff} (he : exec (.osclaim c d n any) s = issue s c { dsts := [.s d.toNat], tileOnly := true } e) :
      exec (.osclaim c d n any) s = e.out := he.trans (issue_tile h rfl rfl fun _ hr => hr)
  have hbare {i : Instr} {e : Eff} (he : exec i s = issue s c { tileOnly := true } e) : exec i s = e.out :=
    he.trans (issue_tile h rfl rfl fun _ hr => nomatch hr)
  refine ⟨fun hn => ?_, fun hn => ?_, fun m hm hf hlow => ?_, fun hnone => ?_, fun hn hq => ?_, fun hq => ?_, fun hq => ?_, fun hq => ?_, fun hq => ?_⟩
  · refine (hclaim rfl).trans ?_
    rw [if_neg Bool.false_ne_true, if_pos ((slotFree_iff ht _).2 hn)]
    rfl
  · refine (hclaim rfl).trans ?_
    rw [if_neg Bool.false_ne_true, if_neg (mt (slotFree_iff ht _).1 hn)]
    rfl
  · have hfind : ((List.range 16).find? fun m => s.myCore.claim m == .free && !(decide (12 ≤ m) && !s.myCore.tq.isEmpty)) = some m := by
      refine List.find?_range_eq_some.2 ⟨(slotFree_iff ht m).2 hf, List.mem_range.2 hm, fun j hj => ?_⟩
      rw [Bool.eq_false_of_not_eq_true (mt (slotFree_iff ht j).1 (hlow j hj))]
      rfl
    refine (hclaim rfl).trans ?_
    rw [if_pos rfl, hfind]
    rfl
  · have hfind : ((List.range 16).find? fun m => s.myCore.claim m == .free && !(decide (12 ≤ m) && !s.myCore.tq.isEmpty)) = none :=
      List.find?_eq_none.2 fun m hm => mt (slotFree_iff ht m).1 (hnone m (List.mem_range.1 hm))
    refine (hclaim rfl).trans ?_
    rw [if_pos rfl, hfind]
    rfl
  · refine (hbare rfl).trans ?_
    rw [State.mxBody, Core.borrowed, ht, Core.check, show s.myCore.claim n.toNat = .free from hn,
      show decide (mqDepth ≤ s.myCore.mq.length) = false from decide_eq_false (Nat.not_le.2 hq)]
    rfl
  · refine (hbare rfl).trans ?_
    have hany : (s.myCore.mq.any fun e => e.op.acc == some acc.toNat) = false := List.any_eq_false.2 fun e he => by simpa using hq e he
    rw [hany, ht, List.isEmpty_nil, Bool.not_true, Bool.and_false]
    rfl
  · refine (hbare rfl).trans ?_
    have hany : (s.myCore.mq.any fun e => e.op.acc == some acc.toNat) = true := List.any_eq_true.2 (by simpa using hq)
    rw [hany]
    rfl
  · refine (hbare rfl).trans ?_
    rw [show s.myCore.mq = [] from hq]
    rfl
  · refine (hbare rfl).trans ?_
    rw [if_neg (by simpa using hq)]
    rfl

end Sys2Proof.Machine

/-! What enters the matrix queue (08 R207 to R220). -/

namespace Sys2Proof.Machine

open Host (Outcome)

/-! ### An operation offered to the queue (08 R207 R209) -/

/-- The state in which an operation enters: the destination of a MACCRD is empty by then. -/
def State.entering (t : State) (o : MatrixOp) : State :=
  match o with
  | .maccrd d _ _ => t.modMe fun a => { a with regs := a.regs.mark (.v d) }
  | .osrel _ | .osld _ _ _ | .mwld _ _ _ | .mma _ _ _ _ _ _ | .maccz _ _ | .maccwr _ _ _ | .maccst _ _ _ | .maccld _ _ _ _ => t

section
variable {s t : State} {o : MatrixOp} (i : Instr)

/-- Room in the queue, and no record that has borrowed what the operation needs. -/
theorem mqOpen (ht : s.myCore.tq = []) (hq : s.myCore.mq.length < 32) :
    ((decide (mqDepth ≤ s.myCore.mq.length) && s.me.pend.isNone) || s.myCore.borrowed o) = false := by
  rw [show decide (mqDepth ≤ s.myCore.mq.length) = false from decide_eq_false (Nat.not_le.2 hq), Core.borrowed, ht]
  rfl

variable (ht : s.myCore.tq = []) (hq : s.myCore.mq.length < 32)
include ht hq

theorem mxBody_raises {code : BitVec 8} {a : Word} (hc : s.myCore.check o = some (code, a)) : s.mxBody i o = .raise s code a := by
  rw [State.mxBody]
  simp only [mqOpen ht hq, hc, Bool.false_eq_true, if_false]

theorem mxBody_enters (hc : s.myCore.check o = none) (hb : o.touches.map (fun x => s.myCore.mqBlocks x.1 x.2.1 x.2.2) ≠ some true)
    (hr : s.touchRegions s.cur o = .ok t ()) : s.mxBody i o = .done ((t.entering o).entersQueue o (·.enterOrder o)) := by
  rw [State.mxBody]
  simp only [mqOpen ht hq, hc, hr, Bool.false_eq_true, if_false]
  split
  · next h => exact (hb h).elim
  all_goals cases o <;> rfl

/-- An operation that touches no scratchpad byte enters in the state as it is. -/
theorem mxBody_enters_untouched (hc : s.myCore.check o = none) (hn : o.touches = none) :
    s.mxBody i o = .done ((s.entering o).entersQueue o (·.enterOrder o)) := by
  refine mxBody_enters i ht hq hc (by rw [hn]; exact nofun) ?_
  rw [State.touchRegions, hn]

end

/-! ### The checks (08 R209 to R220) -/

section
variable {k : Core} {n : Nat} {t : Ty}

theorem filled_iff (c : Claim) : c.filled = true ↔ c = .filling ∨ c = .loaded := by cases c <;> simp [Claim.filled]

theorem check_osrel (h : k.claim n ≠ .free) : k.check (.osrel n) = none := if_neg (by simpa using h)

theorem check_mwld (bias : BitVec 8) (h : ∀ m ∈ windowOf t n, k.claim m = .filling ∨ k.claim m = .loaded) : k.check (.mwld t n bias) = none :=
  if_pos (List.all_eq_true.2 fun m hm => (filled_iff _).2 (h m hm))

theorem check_mwld_empty (bias : BitVec 8) (h : ∃ m ∈ windowOf t n, ¬ (k.claim m = .filling ∨ k.claim m = .loaded)) :
    k.check (.mwld t n bias) = some (cSlot, 0) := by
  obtain ⟨m, hm, hne⟩ := h
  exact if_neg fun hall => hne ((filled_iff _).1 (List.all_eq_true.1 hall m hm))

section
variable {zero : Bool} {a : Nat} {row : Word} {half : Bool}

theorem check_mma (hl : k.latchOrder = some t) (hs : k.claim n = .filling ∨ k.claim n = .loaded) :
    k.check (.mma zero t a n row half) = if !zero && k.fmt a != (t == .i8) then some (cAcc, 0) else none := by
  simp only [Core.check, hl, (filled_iff _).2 hs, ne_eq, not_true_eq_false, if_false, Bool.not_true, Bool.false_eq_true]

theorem check_mma_empty (h : k.latchOrder ≠ some t ∨ ¬ (k.claim n = .filling ∨ k.claim n = .loaded)) :
    k.check (.mma zero t a n row half) = some (cSlot, 0) := by
  by_cases hl : k.latchOrder = some t
  · have hs : (k.claim n).filled = false := Bool.eq_false_of_not_eq_true (mt (filled_iff _).1 (h.resolve_left (not_not.2 hl)))
    simp only [Core.check, hl, hs, ne_eq, not_true_eq_false, if_false, Bool.not_false, if_true]
  · exact if_pos hl

end

/-- The scratchpad bytes of an OSLD are sized and placed as R214 asks. -/
theorem check_osld (off count : Nat) : k.check (.osld n off count) =
    if off % 128 ≠ 0 then some (cAlign, BitVec.ofNat 64 off)
    else if ¬ (count % 128 = 0 ∧ count ≠ 0 ∧ count ≤ 32768) then some (cAlign, BitVec.ofNat 64 count)
    else if 0x180000 < off + count then some (cLocal, BitVec.ofNat 64 off)
    else if k.claim n = .free then some (cSlot, 0) else none := by
  have hsize : (count % 128 ≠ 0 || count = 0 || slotSize < count) = true ↔ ¬ (count % 128 = 0 ∧ count ≠ 0 ∧ count ≤ 32768) := by
    rw [not_and_or, not_and_or, Bool.or_eq_true, Bool.or_eq_true, decide_eq_true_eq, decide_eq_true_eq, decide_eq_true_eq, not_not, Nat.not_le,
      or_assoc]
    rfl
  simp only [Core.check, hsize, beq_iff_eq]
  rfl

/-- The scratchpad bytes of MACCST and MACCLD (08 R220). -/
def accBad (off : Nat) (row : Word) : Option (BitVec 8 × Word) :=
  if off % 128 ≠ 0 then some (cAlign, BitVec.ofNat 64 off)
  else if 0x180000 < off + 1024 * rowCount row then some (cLocal, BitVec.ofNat 64 off) else none

theorem check_maccst (a off : Nat) (row : Word) : k.check (.maccst a off row) = accBad off row := rfl
theorem check_maccld (int : Bool) (a off : Nat) (row : Word) : k.check (.maccld int a off row) = accBad off row := rfl

end

/-- The region lines that an operation touches are filled; those it stores to become dirty. -/
theorem touchRegions_ok {s u : State} {o : MatrixOp} {a len : Nat} {w : Bool} (hs : s.myCore.slog = []) (ho : o.touches = some (a, len, w))
    (hf : s.fillLines s.cur (lineOffs a len) = .ok u ()) :
    s.touchRegions s.cur o = .ok (if w then u.modCoreAt s.cur fun k => (lineOffs a len).foldl Core.dirtyLine k else u) () := by
  have hlog : (s.core s.cur).slog = [] := hs
  rw [State.touchRegions, ho]
  simp only [hlog, hf, List.isEmpty_nil, Bool.not_true, Bool.false_and, Bool.false_eq_true, if_false]

/-- Settles O34: each operation by its checks and what it leaves as program order sees it. -/
theorem matrixEnters : Obligations.MatrixEnters := by
  intro s u c t d n a b x acc h hready ht hq hslog k enters param slotFull
  have hexec {i : Instr} {o : MatrixOp} {f : Form} (hi : exec i s = issue s c f (s.mxBody i o)) (hg : f.guard = .bit0) (hbr : f.br = false)
      (hf : ∀ r ∈ f.srcs.map (·.reg) ++ f.dsts, r ∈ [RegId.s a.toNat, .s b.toNat, .s x.toNat, .v a.toNat, .v d.toNat]) :
      exec i s = (s.mxBody i o).out := hi.trans (issue_tile hready hg hbr hf)
  have hraise {i : Instr} {o : MatrixOp} {code : BitVec 8} {y : Word} (hi : exec i s = (s.mxBody i o).out) (hc : k.check o = some (code, y)) :
      exec i s = .next (s.faults code y) := hi.trans (congrArg Eff.out (mxBody_raises i ht hq hc))
  have henter {i : Instr} {o : MatrixOp} (hi : exec i s = (s.mxBody i o).out) (hc : k.check o = none) (hn : o.touches = none) :
      enters (s.entering o) i o (·.enterOrder o) := hi.trans (congrArg Eff.out (mxBody_enters_untouched i ht hq hc hn))
  have hosrel := hexec (i := .osrel c n) rfl rfl rfl (by simp)
  have hmwld := hexec (i := .mwld c t n b) rfl rfl rfl (by simp [srcS])
  have hmma := hexec (i := .mma c t acc n b h) rfl rfl rfl (by simp [srcS])
  have hmmaz := hexec (i := .mmaz c t acc n b h) rfl rfl rfl (by simp [srcS])
  have hosld := hexec (i := .osld c n a b) rfl rfl rfl (by simp [srcS])
  have hmaccst := hexec (i := .maccst c acc b x) rfl rfl rfl (by simp [srcS])
  have hmaccld := hexec (i := .maccld c t acc b x) rfl rfl rfl (by simp [srcS])
  have hmaccz := hexec (i := .maccz c t acc) rfl rfl rfl (by simp)
  have hmaccrd := hexec (i := .maccrd c d acc b) rfl rfl rfl (by simp [srcS])
  have hmaccwr := hexec (i := .maccwr c acc a b) rfl rfl rfl (by simp [srcS, srcV])
  have hparam : BitVec.ofNat 64 (s.rs b).toNat = s.rs b := BitVec.ofNat_toNat ..
  have hoff : BitVec.ofNat 64 (s.rs a).toNat = s.rs a := BitVec.ofNat_toNat ..
  refine ⟨fun hn => ?_, fun hw => ?_, fun hw => ?_, fun hl hs => ⟨fun hf => ?_, fun hf => ?_, ?_⟩, fun hne => ⟨?_, ?_⟩, ?_, ?_, ?_, ?_, ?_, ?_, ?_⟩
  · exact henter hosrel (check_osrel hn) rfl
  · exact henter hmwld (check_mwld _ hw) rfl
  · exact hraise hmwld (check_mwld_empty _ hw)
  · exact henter hmma ((check_mma hl hs).trans (if_neg (by simpa using hf))) rfl
  · exact hraise hmma ((check_mma hl hs).trans (if_pos (by simpa using hf)))
  · exact henter hmmaz ((check_mma hl hs).trans (if_neg (by simp))) rfl
  · exact hraise hmma (check_mma_empty hne)
  · exact hraise hmmaz (check_mma_empty hne)
  · intro off count sized
    have hcheck := check_osld (k := k) (n := n.toNat) off count
    refine ⟨fun h1 => hraise hosld ?_, fun h1 h2 => hraise hosld ?_, fun h1 h2 h3 => hraise hosld ?_, fun h1 h2 h3 h4 => hraise hosld ?_⟩
    all_goals refine hcheck.trans ?_
    · rw [if_pos h1, hoff]
    · rw [if_neg (not_not.2 h1), if_pos h2, hparam]
    · rw [if_neg (not_not.2 h1), if_neg (not_not.2 h2), if_pos h3, hoff]
    · rw [if_neg (not_not.2 h1), if_neg (not_not.2 h2), if_neg (Nat.not_lt.2 h3), if_pos h4]
  · intro size
    have hbad1 (h1 : param.toNat % 128 ≠ 0) : accBad param.toNat (s.rs x) = some (cAlign, param) := by rw [accBad, if_pos h1, hparam]
    have hbad2 (h1 : param.toNat % 128 = 0) (h2 : 0x180000 < param.toNat + size) : accBad param.toNat (s.rs x) = some (cLocal, param) := by
      rw [accBad, if_neg (not_not.2 h1), if_pos h2, hparam]
    exact ⟨fun h1 => ⟨hraise hmaccst (hbad1 h1), hraise hmaccld (hbad1 h1)⟩,
      fun h1 h2 => ⟨hraise hmaccst (hbad2 h1 h2), hraise hmaccld (hbad2 h1 h2)⟩⟩
  · exact henter hmaccz rfl rfl
  · exact bitsOf_low (s.rs b) 9 ▸ henter hmaccrd rfl rfl
  · exact bitsOf_low (s.rs b) 9 ▸ henter hmaccwr rfl rfl
  · intro off count h1 h2 h3 h4 h5 hn hb hfill
    have hcheck : k.check (.osld n.toNat off count) = none := by
      rw [check_osld, if_neg (not_not.2 h1), if_neg (not_not.2 ⟨h2, h3, h4⟩), if_neg (Nat.not_lt.2 h5), if_neg hn]
    have htouch : s.touchRegions s.cur (.osld n.toNat off count) = .ok u () :=
      touchRegions_ok (w := false) hslog rfl hfill
    have hgo := mxBody_enters (.osld c n a b) ht hq hcheck (by simpa [MatrixOp.touches] using hb) htouch
    have horder : (fun k : Core => if k.claim n.toNat = .claimed then k.setClaim n.toNat .filling else k) =
        (·.enterOrder (.osld n.toNat off count)) := funext fun k => by simp only [Core.enterOrder, beq_iff_eq]
    rw [horder]
    exact hosld.trans (congrArg Eff.out hgo)
  · intro off size h1 h2 hfill
    have hcheck : accBad off (s.rs x) = none := by rw [accBad, if_neg (not_not.2 h1), if_neg (Nat.not_lt.2 h2)]
    refine ⟨fun hb => ?_, fun hb => ?_⟩
    · have htouch := touchRegions_ok (o := .maccst acc.toNat off (s.rs x)) (w := true) hslog rfl hfill
      exact hmaccst.trans (congrArg Eff.out (mxBody_enters (o := .maccst acc.toNat off (s.rs x)) _ ht hq hcheck
        (by simpa [MatrixOp.touches] using hb) htouch))
    · have htouch := touchRegions_ok (o := .maccld (t == .i32) acc.toNat off (s.rs x)) (w := false) hslog rfl hfill
      exact hmaccld.trans (congrArg Eff.out (mxBody_enters (o := .maccld (t == .i32) acc.toNat off (s.rs x)) _ ht hq hcheck
        (by simpa [MatrixOp.touches] using hb) htouch))

end Sys2Proof.Machine

/-! Matrix commands (08 R229). -/

namespace Sys2Proof.Machine

open Host (Outcome)

/-! ### The layout of a command -/

section
variable {c : Rec} {op : MatrixOp} {t : Ty} {l : List Ty}

theorem mcmdTy_bits (h : mcmdTy c l = some t) : Ty.ofBits ((Rec_word c 0).extractLsb' 8 4) = some t := by
  unfold mcmdTy at h
  split at h
  · next u hu =>
    split at h
    · cases h
      exact hu
    · cases h
  · cases h

section
variable (h : mcmdOp c = some op)
include h

theorem mcmdOp_osrel (hc : bitsOf (Rec_word c 0) 0 8 = 2) : op = .osrel (bitsOf (Rec_word c 0) 12 4) := by
  simp only [mcmdOp, hc, Option.ite_none_left_eq_some, Option.ite_none_right_eq_some, Option.some.injEq] at h
  exact h.2.2.symm

theorem mcmdOp_osld (hc : bitsOf (Rec_word c 0) 0 8 = 3) :
    op = .osld (bitsOf (Rec_word c 0) 12 4) (Rec_word c 2).toNat (Rec_word c 1).toNat := by
  simp only [mcmdOp, hc, Option.ite_none_left_eq_some, Option.some.injEq] at h
  exact h.2.symm

theorem mcmdOp_mwld (hc : bitsOf (Rec_word c 0) 0 8 = 4) : ∃ t, Ty.ofBits ((Rec_word c 0).extractLsb' 8 4) = some t ∧
    op = .mwld t (bitsOf (Rec_word c 0) 12 4) ((Rec_word c 1).setWidth 8) := by
  simp only [mcmdOp, hc, Option.ite_none_left_eq_some] at h
  cases ht : mcmdTy c arrayTypes with
  | none => simp [ht] at h
  | some t =>
    simp only [ht, Option.ite_none_right_eq_some, Option.some.injEq] at h
    exact ⟨t, mcmdTy_bits ht, h.2.2.symm⟩

theorem mcmdOp_mma {code : Nat} (hcode : code = 5 ∨ code = 6) (hc : bitsOf (Rec_word c 0) 0 8 = code) :
    ∃ t, Ty.ofBits ((Rec_word c 0).extractLsb' 8 4) = some t ∧
      op = .mma (code == 6) t (bitsOf (Rec_word c 0) 16 2) (bitsOf (Rec_word c 0) 12 4) (Rec_word c 1) ((Rec_word c 0).getLsbD 18) := by
  cases ht : mcmdTy c arrayTypes with
  | none => rcases hcode with rfl | rfl <;> simp [mcmdOp, hc, ht] at h
  | some t =>
    rcases hcode with rfl | rfl
    all_goals
      simp only [mcmdOp, hc, Option.ite_none_left_eq_some, ht, Option.ite_none_right_eq_some, Option.some.injEq] at h
      exact ⟨t, mcmdTy_bits ht, h.2.2.symm⟩

theorem mcmdOp_maccz (hc : bitsOf (Rec_word c 0) 0 8 = 7) : ∃ t, Ty.ofBits ((Rec_word c 0).extractLsb' 8 4) = some t ∧
    op = .maccz (t == .i32) (bitsOf (Rec_word c 0) 16 2) := by
  simp only [mcmdOp, hc, Option.ite_none_left_eq_some] at h
  cases ht : mcmdTy c [.f32, .i32] with
  | none => simp [ht] at h
  | some t =>
    simp only [ht, Option.ite_none_right_eq_some, Option.some.injEq] at h
    exact ⟨t, mcmdTy_bits ht, h.2.2.symm⟩

theorem mcmdOp_maccst (hc : bitsOf (Rec_word c 0) 0 8 = 10) :
    op = .maccst (bitsOf (Rec_word c 0) 16 2) (Rec_word c 2).toNat (Rec_word c 1) := by
  simp only [mcmdOp, hc, Option.ite_none_left_eq_some, Option.some.injEq] at h
  exact h.2.symm

theorem mcmdOp_maccld (hc : bitsOf (Rec_word c 0) 0 8 = 11) : ∃ t, Ty.ofBits ((Rec_word c 0).extractLsb' 8 4) = some t ∧
    op = .maccld (t == .i32) (bitsOf (Rec_word c 0) 16 2) (Rec_word c 2).toNat (Rec_word c 1) := by
  simp only [mcmdOp, hc, Option.ite_none_left_eq_some] at h
  cases ht : mcmdTy c [.f32, .i32] with
  | none => simp [ht] at h
  | some t =>
    simp only [ht, Option.some.injEq] at h
    exact ⟨t, mcmdTy_bits ht, h.2.symm⟩

end

/-! ### A command is taken -/

section
variable {s u : State} {n : Nat}

/-- The queue entry of a matrix command. -/
def mcmdEntry (c : Rec) (op : MatrixOp) (o : Origin) (ready : Nat) : MatrixEntry :=
  { id := 0, op := op, ready := ready, bar := Rec_word c 3, ev := mcmdEv c, command := true, bundle := o.bundle }

theorem mcmd_offered (hq : (s.core n).mq.length < 32) (ht : (s.core n).tq = []) (hop : mcmdOp c = some op) :
    s.mcmd (bitsOf (Rec_word c 0) 0 8) (.task n) n c =
      s.enterCommand n op c (s.originOf (.task n) n).1 none (max s.cycle (s.agent n).issued) := by
  have hfree : (mcmdOp c).any (s.core n).borrowed = false := by
    rw [hop, Option.any_some, Core.borrowed, ht]
    rfl
  have hroom : ¬ mqDepth ≤ (s.core n).mq.length := Nat.not_le.2 hq
  rw [State.mcmd, hfree, if_pos (by simp), State.offerMatrix, if_neg hroom, hop]

variable {o : Origin} {ready : Nat}

theorem enterCommand_ok (hc : (s.core n).check op = none) (hr : s.touchRegions n op = .ok u ()) :
    s.enterCommand n op c o none ready = u.enter n (mcmdEntry c op o ready) := by
  rw [State.enterCommand]
  simp only [hc, hr]
  rfl

theorem enterCommand_wait {pg : Option (Nat × Nat)} (hc : (s.core n).check op = none) (hr : s.touchRegions n op = .wait u pg) :
    s.enterCommand n op c o none ready = u.enter n { mcmdEntry c op o ready with unfilled := true, page := pg } := by
  rw [State.enterCommand]
  simp only [hc, hr]
  rfl

theorem enterCommand_refused {f : BitVec 8} {a : Word} (hc : (s.core n).check op = some (f, a)) :
    s.enterCommand n op c o none ready = s.commandFault o 4 f a.toNat 0 0 := by
  rw [State.enterCommand, hc]

end

end

/-- Settles O37: the layout by the code of the command, and one path for every code. -/
theorem matrixCommands : Obligations.MatrixCommands := by
  intro s u n c op hq ht hop w0 code slot acc param loc half o reads does
  have hcode {x : Nat} (h : code = x) : bitsOf (Rec_word c 0) 0 8 = x := (bitsOf_low ..).trans h
  have hdoes {x : Nat} {i : Instr} (hi : exec i s = (Eff.done (s.mcmd x (.task n) n c)).out) : does x i := by
    intro hx
    have hexec : exec i s = (Eff.done (s.enterCommand n op c o none (max s.cycle (s.agent n).issued))).out := by
      rw [hi, ← hcode hx, mcmd_offered hq ht hop]
    exact ⟨fun hc hr => hexec.trans (congrArg (fun v => (Eff.done v).out) (enterCommand_ok hc hr)),
      fun pg hc hr => hexec.trans (congrArg (fun v => (Eff.done v).out) (enterCommand_wait hc hr)),
      fun f a hc => hexec.trans (congrArg (fun v => (Eff.done v).out) (enterCommand_refused hc))⟩
  refine ⟨⟨fun h => mcmdOp_osrel hop (hcode h), fun h => mcmdOp_osld hop (hcode h), fun h => mcmdOp_mwld hop (hcode h),
    fun h => mcmdOp_mma hop (.inl rfl) (hcode h), fun h => mcmdOp_mma hop (.inr rfl) (hcode h), fun h => mcmdOp_maccz hop (hcode h),
    fun h => mcmdOp_maccst hop (hcode h), fun h => mcmdOp_maccld hop (hcode h)⟩, hdoes rfl, hdoes rfl, hdoes rfl, hdoes rfl, hdoes rfl, hdoes rfl,
    hdoes rfl, hdoes rfl⟩

end Sys2Proof.Machine

/-! A command of an engine whose record has no room (08 R227, 12 R335). -/

namespace Sys2Proof.Machine

open Host (Outcome)

/-- A copy of one byte from the scratchpad's first offset past its end, pushed by the task of number 7. -/
def strayCopy : EngineCmd :=
  { id := 0, cmd := BitVec.ofNat 512 (0x100 + 0x4000 + 2 ^ 32 + 0x180000 * 2 ^ 64), origin := { by_ := .task 0, die := 0, task := 7 }, ctx := some 0 }

/-- A state whose list of cores names core 0 twice, which no step makes and the state type does not shut out: the second entry, that no read of
core 0 sees, holds task 7. The ring of die 0 is full. -/
def doubledCore : State :=
  { cores := [(0, { cq := [strayCopy] }),
      (0, { task := some { uid := 7, launch := 0, die := 0, ord := 0, tidx := 0, coords := [], ctx := 0, entry := 0, arg := 0, mode := 0 } })]
    dies := [(0, { evEn := true, evLog2 := 0, evqtail := 1 })] }

/-- How many commands CQ of core 0 holds after a step. -/
def copiesLeft (o : Outcome State Fault Refusal) : Nat :=
  match o with
  | .next t => (t.core 0).cq.length
  | _ => 0

/-- Refutes O36: `mustPost` looks for the pusher's task through the whole list of cores, and the first write of core 0 drops the entry that only
it saw; so the failed copy, which had no record to post, comes to wait for room instead of leaving its queue. -/
theorem not_engineCommands : ¬ Obligations.EngineCommands := by
  intro h
  obtain ⟨-, -, -, hhead⟩ := h doubledCore (.task 0) 0 false 0
  obtain ⟨hstart, -, -⟩ := hhead strayCopy [] rfl (by decide +kernel)
  obtain ⟨-, hfail⟩ := hstart rfl (by decide +kernel) rfl (by decide +kernel) rfl (by decide +kernel)
  obtain ⟨t, ht, -, -, -, hleft, -⟩ := hfail 0x180000 (by decide +kernel) (.inl (by decide +kernel))
  have hwaits : copiesLeft (exec (.engineCommandStart 0 false 0) doubledCore) = 1 := by decide +kernel
  rw [ht] at hwaits
  have hempty : (t.core 0).cq = [] := hleft
  rw [copiesLeft, hempty] at hwaits
  cases hwaits

end Sys2Proof.Machine

/-! What an operation of the matrix queue does (08 R203 R206 R214 to R220). -/

namespace Sys2Proof.Machine

open Host (Outcome)

/-! ### Sparse data written entry by entry -/

section
variable {α : Type} [DecidableEq α] {d v : α} {x : Nat}

theorem foldl_set_of_mem (l : List (Nat × α)) (m : SMap α) (hl : ∀ p ∈ l, p.1 = x → p.2 = v) (hx : SMap.get d m x = v ∨ ∃ p ∈ l, p.1 = x) :
    SMap.get d (l.foldl (fun m p => SMap.set d m p.1 p.2) m) x = v := by
  induction l generalizing m with
  | nil => exact hx.resolve_right (by simp)
  | cons q r ih =>
    refine ih _ (fun p hp => hl p (List.mem_cons_of_mem _ hp)) ?_
    rw [SMap.get_set]
    by_cases hq : x = q.1
    · exact .inl ((if_pos hq).trans (hl q (List.mem_cons_self ..) hq.symm))
    · rw [if_neg hq]
      refine hx.imp_right fun ⟨p, hp, he⟩ => ?_
      rcases List.mem_cons.1 hp with rfl | hp
      · exact (hq he.symm).elim
      · exact ⟨p, hp, he⟩

theorem foldl_set_of_not_mem (l : List (Nat × α)) (m : SMap α) (hl : ∀ p ∈ l, p.1 ≠ x) :
    SMap.get d (l.foldl (fun m p => SMap.set d m p.1 p.2) m) x = SMap.get d m x :=
  foldl_set_of_mem l m (fun p hp he => (hl p hp he).elim) (.inl rfl)

omit [DecidableEq α] in
theorem get_filter (d : α) (m : SMap α) (f : Nat → Bool) (x : Nat) : SMap.get d (m.filter fun p => f p.1) x = if f x then SMap.get d m x else d := by
  induction m with
  | nil => simp [SMap.get]
  | cons q r ih =>
    obtain ⟨a, y⟩ := q
    by_cases ha : a = x
    · subst ha
      by_cases hf : f a <;> simp [SMap.get, hf, ih]
    · by_cases hf : f a <;> simp [SMap.get, hf, ih, ha]

/-- A block of a list that is put together from blocks of one length. -/
theorem flatMap_block {β γ : Type} {g : β → List γ} {n : Nat} (hn : ∀ y, (g y).length = n) {l : List β} {i : Nat} {y : β} (hi : l[i]? = some y)
    {k m : Nat} (hk : k + m ≤ n) : ((l.flatMap g).drop (n * i + k)).take m = ((g y).drop k).take m := by
  induction l generalizing i with
  | nil => simp at hi
  | cons z r ih =>
    cases i with
    | zero =>
      cases hi
      rw [List.flatMap_cons, Nat.mul_zero, Nat.zero_add, List.drop_append_of_le_length (by rw [hn]; omega), List.take_append_of_le_length]
      rw [List.length_drop, hn]
      omega
    | succ i =>
      rw [List.flatMap_cons, Nat.mul_succ, Nat.add_right_comm, Nat.add_comm _ n, ← hn z, ← List.drop_drop, List.drop_left, hn z]
      exact ih hi

theorem flatMap_length {β γ : Type} {g : β → List γ} {n : Nat} (hn : ∀ y, (g y).length = n) (l : List β) : (l.flatMap g).length = n * l.length := by
  induction l with
  | nil => rfl
  | cons y r ih => rw [List.flatMap_cons, List.length_append, hn, ih, List.length_cons, Nat.mul_succ, Nat.add_comm]

theorem bytesAt_putBytes_within (m : SMap Byte) (a : Nat) (bs : List Byte) {k n : Nat} (h : k + n ≤ bs.length) :
    bytesAt (putBytes m a bs) (a + k) n = (bs.drop k).take n := by
  refine List.ext_getElem (by rw [bytesAt_length, List.length_take, List.length_drop]; omega) fun i h1 h2 => ?_
  rw [bytesAt_length] at h1
  have hget := bytesAt_getD (putBytes m a bs) (a + k) n i h1
  rw [putBytes_get, if_pos ⟨by omega, by omega⟩] at hget
  rw [← List.getD_eq_getElem _ 0 (by rw [bytesAt_length]; exact h1), hget, List.getElem_take, List.getElem_drop,
    List.getD_eq_getElem _ 0 (by omega)]
  congr 1
  omega

end

/-! ### Accumulator elements (08 R206) -/

theorem accKey_div {a r j : Nat} (hr : r < 128) (hj : j < 256) : accKey a r j / 32768 = a := by rw [accKey]; omega

theorem accKey_inj {a r j r' j' : Nat} (hj : j < 256) (hj' : j' < 256) (h : accKey a r j = accKey a r' j') :
    r = r' ∧ j = j' := by
  rw [accKey, accKey] at h
  omega

theorem rowAt_lt (w : Word) (r : Nat) : rowAt w r < 128 := Nat.mod_lt _ (by decide)

theorem rowCount_le (w : Word) : rowCount w ≤ 128 := by
  have h : bitsOf w 8 7 < 2 ^ 7 := Nat.mod_lt _ (by decide)
  rw [rowCount]
  omega

theorem rowAt_inj {w : Word} {r r' : Nat} (hr : r < rowCount w) (hr' : r' < rowCount w) (h : rowAt w r = rowAt w r') : r = r' := by
  have := rowCount_le w
  rw [rowAt, rowAt] at h
  omega

theorem mem_grid {rows cols : Nat} {p : Nat × Nat} : p ∈ grid rows cols ↔ p.1 < rows ∧ p.2 < cols := by
  obtain ⟨r, j⟩ := p
  simp [grid]

section
variable {k : Core} {w : Word} {a : Nat} {f : Nat × Nat → BitVec 32}

/-- The elements of an operation's rows, as `putAcc` takes them. -/
def rowElems (w : Word) (a : Nat) (f : Nat × Nat → BitVec 32) : List (Nat × BitVec 32) :=
  (grid (rowCount w) 256).map fun p => (accKey a (rowAt w p.1) p.2, f p)

theorem putAcc_row {r j : Nat} (hr : r < rowCount w) (hj : j < 256) :
    (k.putAcc (rowElems w a f)).acc.get 0 (accKey a (rowAt w r) j) = f (r, j) := by
  refine foldl_set_of_mem _ _ (fun p hp he => ?_) (.inr ⟨_, List.mem_map.2 ⟨(r, j), mem_grid.2 ⟨hr, hj⟩, rfl⟩, rfl⟩)
  obtain ⟨⟨r', j'⟩, hq, rfl⟩ := List.mem_map.1 hp
  obtain ⟨hr', hj'⟩ := mem_grid.1 hq
  obtain ⟨hrow, hcol⟩ := accKey_inj hj' hj he
  exact congrArg f (Prod.ext (rowAt_inj hr' hr hrow) hcol)

theorem putAcc_other_row {r j : Nat} (hj : j < 256) (hne : ∀ i, i < rowCount w → rowAt w i ≠ r) :
    (k.putAcc (rowElems w a f)).acc.get 0 (accKey a r j) = k.acc.get 0 (accKey a r j) := by
  refine foldl_set_of_not_mem _ _ fun p hp he => ?_
  obtain ⟨⟨r', j'⟩, hq, rfl⟩ := List.mem_map.1 hp
  obtain ⟨hr', hj'⟩ := mem_grid.1 hq
  exact hne r' hr' (accKey_inj hj' hj he).1

theorem zeroAcc_get {r j : Nat} (hr : r < 128) (hj : j < 256) : (k.zeroAcc a).acc.get 0 (accKey a r j) = 0 := by
  have h := get_filter 0 k.acc (fun x => x / 32768 != a) (accKey a r j)
  rw [accKey_div hr hj, if_neg (by simp)] at h
  exact h

end

/-! ### What an operation does to the memories of its core (08 R214 to R220) -/

section
variable (k : Core)

theorem mmaElem_eq (t : Ty) (a n : Nat) (row : Word) (half zero : Bool) {r j : Nat} (hj : j < 256) :
    (if zero then k.zeroAcc a else k).mmaElem t a n row half r j =
      accAdd (t == .i8) (if zero then 0 else k.acc.get 0 (accKey a (rowAt row r) j))
        (chunkSum ((List.range (chunkLen t)).map fun i =>
          (decodeElem t (rowBias row) (k.activation t n half r i), decodeElem t k.latch.bias.toInt (k.weight t i j)))) := by
  cases zero with
  | false => rfl
  | true =>
    have hzero : (k.zeroAcc a).acc.get 0 (accKey a (rowAt row r) j) = 0 := zeroAcc_get (rowAt_lt ..) hj
    simp only [if_true, Core.mmaElem, hzero]
    rfl

theorem perform_mma (zero : Bool) (t : Ty) (a n : Nat) (row : Word) (half : Bool) :
    (k.perform (.mma zero t a n row half)).1 = (if zero then k.zeroAcc a else k).putAcc (rowElems row a fun p =>
      BitVec.ofNat 32 ((if zero then k.zeroAcc a else k).mmaElem t a n row half p.1 p.2).bits) := by
  simp only [Core.perform, rowElems, List.map_map]
  rfl

theorem perform_mma_row (zero : Bool) (t : Ty) (a n : Nat) (row : Word) (half : Bool) {r j : Nat} (hr : r < rowCount row) (hj : j < 256) :
    (k.perform (.mma zero t a n row half)).1.acc.get 0 (accKey a (rowAt row r) j) = BitVec.ofNat 32
      (accAdd (t == .i8) (if zero then 0 else k.acc.get 0 (accKey a (rowAt row r) j))
        (chunkSum ((List.range (chunkLen t)).map fun i =>
          (decodeElem t (rowBias row) (k.activation t n half r i), decodeElem t k.latch.bias.toInt (k.weight t i j))))).bits := by
  rw [perform_mma, putAcc_row hr hj, mmaElem_eq k t a n row half zero hj]

theorem perform_mma_other (zero : Bool) (t : Ty) (a n : Nat) (row : Word) (half : Bool) {r j : Nat} (hr : r < 128) (hj : j < 256)
    (hne : ∀ i, i < rowCount row → rowAt row i ≠ r) :
    (k.perform (.mma zero t a n row half)).1.acc.get 0 (accKey a r j) = if zero then 0 else k.acc.get 0 (accKey a r j) := by
  rw [perform_mma, putAcc_other_row hj hne]
  cases zero with
  | false => rfl
  | true => exact zeroAcc_get hr hj

theorem perform_maccwr (a q : Nat) (v : VWord) {i : Nat} (hi : i < 64) :
    (k.perform (.maccwr a q v)).1.acc.get 0 (accKey a (q / 4 % 128) (64 * (q % 4) + i)) = BitVec.ofNat 32 (elemOf v 32 i) := by
  refine foldl_set_of_mem _ _ (fun p hp he => ?_) (.inr ⟨_, List.mem_map.2 ⟨i, List.mem_range.2 hi, rfl⟩, rfl⟩)
  obtain ⟨i', hi', rfl⟩ := List.mem_map.1 hp
  have hi' := List.mem_range.1 hi'
  obtain ⟨-, hcol⟩ := accKey_inj (by omega) (by omega) he
  rw [Nat.add_left_cancel hcol]

theorem perform_maccld (int : Bool) (a off : Nat) (row : Word) {r j : Nat} (hr : r < rowCount row) (hj : j < 256) :
    (k.perform (.maccld int a off row)).1.acc.get 0 (accKey a (rowAt row r) j) =
      BitVec.ofNat 32 (ofBytes (bytesAt k.scratch (off + 1024 * r + 4 * j) 4)) :=
  putAcc_row (k := k) (f := fun p => BitVec.ofNat 32 (ofBytes (bytesAt k.scratch (off + 1024 * p.1 + 4 * p.2) 4))) hr hj

theorem perform_maccst (a off : Nat) (row : Word) {r j : Nat} (hr : r < rowCount row) (hj : j < 256) :
    bytesAt (k.perform (.maccst a off row)).1.scratch (off + 1024 * r + 4 * j) 4 = toBytes (k.acc.get 0 (accKey a (rowAt row r) j)).toNat 4 := by
  have hcol : ∀ (m i : Nat), (toBytes (k.acc.get 0 (accKey a (rowAt row m) i)).toNat 4).length = 4 := fun _ _ => toBytes_length ..
  have hrow : ∀ m, ((List.range 256).flatMap fun i => toBytes (k.acc.get 0 (accKey a (rowAt row m) i)).toNat 4).length = 1024 := fun m => by
    rw [flatMap_length (hcol m), List.length_range]
  have hflat : ((grid (rowCount row) 256).flatMap fun p => toBytes (k.acc.get 0 (accKey a (rowAt row p.1) p.2)).toNat 4) =
      (List.range (rowCount row)).flatMap fun m => (List.range 256).flatMap fun i => toBytes (k.acc.get 0 (accKey a (rowAt row m) i)).toNat 4 := by
    simp only [grid, List.flatMap_assoc, List.flatMap_map]
  show bytesAt (Machine.putBytes k.scratch off _) (off + 1024 * r + 4 * j) 4 = _
  rw [hflat, Nat.add_assoc, bytesAt_putBytes_within _ _ _ (by rw [flatMap_length hrow, List.length_range]; omega),
    flatMap_block hrow (List.getElem?_range hr) (by omega), ← Nat.add_zero (4 * j),
    flatMap_block (hcol r) (List.getElem?_range hj) (by omega), List.drop_zero]
  exact List.take_of_length_le (Nat.le_of_eq (toBytes_length ..))

theorem perform_osld (m off count : Nat) (hc : count ≤ 32768) {j : Nat} (hj : j < 32768) :
    (k.perform (.osld m off count)).1.slotMem.get 0 (32768 * m + j) = if j < count then k.scratch.get 0 (off + j) else 0 := by
  show SMap.get 0 (Machine.putBytes k.slotMem (slotSize * m) _) (32768 * m + j) = _
  have hlen : (bytesAt k.scratch off count ++ List.replicate (slotSize - count) (0 : Byte)).length = 32768 := by
    rw [List.length_append, bytesAt_length, List.length_replicate, slotSize]
    omega
  rw [putBytes_get, hlen, if_pos ⟨by rw [slotSize]; omega, by rw [slotSize]; omega⟩, slotSize, Nat.add_sub_cancel_left]
  split
  · next h => rw [List.getD_append _ _ _ _ (by rwa [bytesAt_length]), bytesAt_getD _ _ _ _ h]
  · next h =>
    rw [List.getD_append_right _ _ _ _ (by rw [bytesAt_length]; omega), List.getD_eq_getElem _ _ (by rw [bytesAt_length, List.length_replicate]; omega),
      List.getElem_replicate]

theorem perform_mwld (t : Ty) (m : Nat) (bias : BitVec 8) {j : Nat} (hj : j < 32768 * (windowOf t m).length) :
    (k.perform (.mwld t m bias)).1.latch.weights.get 0 j = k.slotMem.get 0 (32768 * m + j) := by
  show SMap.get 0 (Machine.putBytes [] 0 (bytesAt k.slotMem (slotSize * m) ((windowOf t m).length * slotSize))) j = _
  have hj : j < (windowOf t m).length * slotSize := by rwa [Nat.mul_comm]
  rw [putBytes_get, if_pos ⟨Nat.zero_le _, by rwa [bytesAt_length, Nat.zero_add]⟩, Nat.sub_zero, bytesAt_getD _ _ _ _ hj]
  rfl

theorem quarter_elem (a q : Nat) {i : Nat} (hi : i < 64) :
    elemOf (k.quarter a q) 32 i = (k.acc.get 0 (accKey a (q / 4 % 128) (64 * (q % 4) + i))).toNat := by
  have h := elem_pack 32 rfl (fun i => (k.acc.get 0 (accKey a (q / 4 % 128) (64 * (q % 4) + i))).toNat) i hi
  exact h.trans (Nat.mod_eq_of_lt (BitVec.isLt _))

end

/-! ### The one entry of a queue starts (08 R207 R208) -/

/-- The governor moves none of the core's data. -/
structure Core.Governed (k k' : Core) : Prop where
  only : k' = { k with win := k'.win, load := k'.load, fullAt := k'.fullAt, inj := k'.inj }

section
variable {k k' : Core}

theorem Core.Governed.acc (h : k.Governed k') : k'.acc = k.acc := by rw [h.only]
theorem Core.Governed.slotMem (h : k.Governed k') : k'.slotMem = k.slotMem := by rw [h.only]
theorem Core.Governed.scratch (h : k.Governed k') : k'.scratch = k.scratch := by rw [h.only]
theorem Core.Governed.latch (h : k.Governed k') : k'.latch = k.latch := by rw [h.only]

theorem Core.Governed.readsBad (h : k.Governed k') (o : MatrixOp) : k'.readsBad o = k.readsBad o := by
  rw [h.only]
  rfl

theorem Core.Governed.activation (h : k.Governed k') (t : Ty) (n : Nat) (half : Bool) (m i : Nat) :
    k'.activation t n half m i = k.activation t n half m i := by rw [Core.activation, h.slotMem, Core.activation]

theorem Core.Governed.weight (h : k.Governed k') (t : Ty) (i j : Nat) : k'.weight t i j = k.weight t i j := by
  rw [Core.weight, h.latch, Core.weight]

end

theorem governed_governTo (k : Core) (ramp : Nat) (w : Option Nat) (c fuel : Nat) : k.Governed (k.governTo ramp w c fuel) := by
  induction fuel generalizing k with
  | zero => exact ⟨rfl⟩
  | succ f ih =>
    unfold Core.governTo
    split
    · exact ⟨rfl⟩
    · exact ⟨(ih _).only.trans rfl⟩

/-- What the start of the one entry of a queue leaves, where `k` is the core as the governor has it. -/
structure StartedOne (s t : State) (n : Nat) (e : MatrixEntry) (k : Core) : Prop where
  mem : t.mem = s.mem
  entry : ∃ x, (t.core n).mq = [x] ∧ x.op = e.op ∧ x.started = true ∧ x.ecc = k.readsBad e.op
  acc : (t.core n).acc = (k.perform e.op).1.acc
  slotMem : (t.core n).slotMem = (k.perform e.op).1.slotMem
  latch : (t.core n).latch = (k.perform e.op).1.latch
  scratch : (t.core n).scratch = (k.perform e.op).1.scratch

section
variable {s : State} {n : Nat} {e : MatrixEntry}

theorem noteStore_core (s : State) (pa len m : Nat) : (s.noteStore pa len).core m = s.core m := by
  rw [State.core, congrArg State.cores (noteStore_only s pa len), State.core]

theorem noteStore_agent (s : State) (pa len m : Nat) : (s.noteStore pa len).agent m = s.agent m := by
  rw [State.agent, congrArg State.agents (noteStore_only s pa len), State.agent]

theorem perform_mq (k : Core) (o : MatrixOp) : (k.perform o).1.mq = k.mq := by
  cases o
  case mma zero t a m row half => cases zero <;> rfl
  all_goals rfl

/-- A core whose data are those of `p`, and whose queue holds the started entry. -/
theorem startedOne_of {s t : State} {p k k2 : Core} {l : List MatrixEntry} (hp : p = (k.perform e.op).1) (hmem : t.mem = s.mem)
    (hcore : t.core n = { k2 with mq := l }) (hl : ∃ x, l = [x] ∧ x.op = e.op ∧ x.started = true ∧ x.ecc = k.readsBad e.op)
    (hk : k2.acc = p.acc ∧ k2.slotMem = p.slotMem ∧ k2.latch = p.latch ∧ k2.scratch = p.scratch) : StartedOne s t n e k := by
  subst hp
  obtain ⟨hacc, hslot, hlatch, hpad⟩ := hk
  refine ⟨hmem, ?_, ?_, ?_, ?_, ?_⟩ <;> rw [hcore]
  all_goals assumption

theorem startEntry_one (hq : (s.core n).mq = [e]) (c : Nat) : ∃ k, (s.core n).Governed k ∧ StartedOne s (s.startEntry n 0 c) n e k := by
  have hgov : (s.core n).Governed (if e.op.isMma then (s.core n).governTo s.ramp (s.core n).waitsSince c 200 else s.core n) := by
    split
    · exact governed_governTo ..
    · exact ⟨rfl⟩
  refine ⟨_, hgov, ?_⟩
  rw [State.startEntry]
  generalize hk : (if e.op.isMma then (s.core n).governTo s.ramp (s.core n).waitsSince c 200 else s.core n) = k at hgov
  have hmq : (k.perform e.op).1.mq = [e] := by
    rw [perform_mq, hgov.only]
    exact hq
  simp only [hq, List.getElem?_cons_zero, hk]
  generalize hp : (k.perform e.op).1 = p at hmq
  generalize (k.perform e.op).2 = fl
  cases hop : e.op
  all_goals dsimp only [MatrixOp.touches]
  case maccst a off row =>
    refine startedOne_of (k2 := p) hp.symm (noteStore_mem ..) ((noteStore_core ..).trans ((setCore_core ..).trans (if_pos rfl))) ?_ ⟨rfl, rfl, rfl, rfl⟩
    rw [hmq]
    exact ⟨_, rfl, hop.symm, rfl, congrArg k.readsBad hop.symm⟩
  case osld m off count =>
    refine startedOne_of (k2 := if !e.released && p.claim m == Claim.loaded then p.setClaim m .filling else p) hp.symm rfl
      ((setCore_core ..).trans (if_pos rfl)) ?_ ?_
    · have hmq2 : (if !e.released && p.claim m == Claim.loaded then p.setClaim m .filling else p).mq = [e] := by split <;> exact hmq
      rw [hmq2]
      exact ⟨_, rfl, hop.symm, rfl, congrArg k.readsBad hop.symm⟩
    · split <;> exact ⟨rfl, rfl, rfl, rfl⟩
  case mma zero ty a m row half =>
    refine startedOne_of (k2 := { p with inj := p.inj ++ [(c, ((s.core n).cadAt c).toNat * baseInterval ty, baseInterval ty, rowCount row)] })
      hp.symm rfl ((setCore_core ..).trans (if_pos rfl)) ?_ ⟨rfl, rfl, rfl, rfl⟩
    rw [hmq]
    exact ⟨_, rfl, hop.symm, rfl, congrArg k.readsBad hop.symm⟩
  all_goals
    refine startedOne_of (k2 := p) hp.symm rfl ((setCore_core ..).trans (if_pos rfl)) ?_ ⟨rfl, rfl, rfl, rfl⟩
    rw [hmq]
    exact ⟨_, rfl, hop.symm, rfl, congrArg k.readsBad hop.symm⟩

/-- MACCRD's result is in flight from its start. -/
theorem startEntry_maccrd {d a q : Nat} (hq : (s.core n).mq = [e]) (hop : e.op = .maccrd d a q) (c : Nat) :
    ((s.startEntry n 0 c).agent n).flight = (s.agent n).flight ++ [{ reg := .v d, val := .r ((s.core n).quarter a q), due := some (c + 4) }] := by
  rw [State.startEntry]
  simp only [hq, List.getElem?_cons_zero, hop, MatrixOp.touches]
  rw [State.modAgent, setAgent_agent, if_pos rfl]
  rfl

/-! ### The queue is ready for its one entry (08 R208) -/

theorem fillEntries_filled (hq : (s.core n).mq = [e]) (hu : e.unfilled = false) : s.fillEntries n = s := by
  rw [State.fillEntries, hq, List.filter_cons, hu]
  rfl

theorem mqActs_one (hq : (s.core n).mq = [e]) (hs : e.started = false) (hu : e.unfilled = false) (ha : e.after = []) (hc : e.couch = none) :
    ∃ c, (s.core n).mqActs s.ramp = [(c, .start 0)] := by
  have helig : (s.core n).eligible 0 = true := by
    rw [Core.eligible, hq]
    simp only [List.getElem?_cons_zero, hs, hu, ha, hc]
    rfl
  refine ⟨(s.core n).startAt s.ramp e, ?_⟩
  rw [Core.mqActs, hq]
  simp [hs, helig]

theorem notYet_free {c : Nat} (hr : s.stampedRun n = false) : s.notYet n c = false := by rw [State.notYet, hr, Bool.false_and]

/-- MATRIX_ENTRY_START of the one entry, which nothing keeps back. -/
theorem exec_entryStart_one (hq : (s.core n).mq = [e]) (hs : e.started = false) (hu : e.unfilled = false) (ha : e.after = []) (hc : e.couch = none)
    (hp : s.paused = false) (hr : s.stampedRun n = false) :
    ∃ c, exec (.matrixEntryStart n 0) s = .next { s.startEntry n 0 c with cycle := max s.cycle c }.issues := by
  obtain ⟨c, hacts⟩ := mqActs_one (s := s) hq hs hu ha hc
  refine ⟨c, ?_⟩
  show execMatrixEntryStart n 0 s = _
  rw [execMatrixEntryStart, fillEntries_filled hq hu]
  simp only [hp, hacts, notYet_free hr]
  simp
  rfl

end

/-! ### A started entry completes (08 R207 R213) -/

section
variable {s : State} {n : Nat} {e : MatrixEntry} {r : List MatrixEntry}

/-- Flags join the status of a tile core, and nothing else changes. -/
theorem raiseFlags_core (hn : n < 96) (s : State) (f : Flags) (c : Nat) :
    ∃ at_, (s.raiseFlags n f c).core n = { s.core n with status := (s.core n).status ||| f, flagAt := at_ } := by
  have htile : kindOf n = .tile := if_pos hn
  unfold State.raiseFlags
  split
  · next h =>
    have hf : f = 0 := by simpa [htile] using h
    subst hf
    exact ⟨(s.core n).flagAt, by simp⟩
  · exact ⟨_, (setCore_core ..).trans (if_pos rfl)⟩

theorem raiseFlags_mem (s : State) (n : Nat) (f : Flags) (c : Nat) : (s.raiseFlags n f c).mem = s.mem := by
  unfold State.raiseFlags
  split <;> rfl

/-- What a completed entry leaves of its core. -/
structure CompletedOne (s t : State) (n : Nat) (e : MatrixEntry) (r : List MatrixEntry) : Prop where
  mem : t.mem = s.mem
  ops : (t.core n).mq.map (·.op) = r.map (·.op)
  status : (t.core n).status = (s.core n).status ||| e.flags
  loaded : ∀ m off count, e.op = .osld m off count → e.released = false → (s.core n).claim m = .filling → (t.core n).claim m = .loaded
  acc : (t.core n).acc = (s.core n).acc
  scratch : (t.core n).scratch = (s.core n).scratch
  slotMem : (t.core n).slotMem = (s.core n).slotMem

theorem map_op_eraseIdx_mapIdx {f : Nat → MatrixEntry → MatrixEntry} (hf : ∀ j y, (f j y).op = y.op) :
    (((e :: r).mapIdx f).eraseIdx 0).map (·.op) = r.map (·.op) := by
  rw [List.mapIdx_cons, List.eraseIdx_cons_zero]
  refine List.ext_getElem (by simp) fun i h1 h2 => ?_
  simp [hf]

theorem claim_setClaim (k : Core) (m : Nat) (c : Claim) : (k.setClaim m c).claim m = c := SMap.get_set_same ..

/-- The core that a completed entry leaves, before its flags join. -/
theorem dropEntry_core (hq : (s.core n).mq = e :: r) (c : Nat) : ∃ k : Core,
    s.dropEntry n 0 c e = (s.setCore n k).raiseFlags n e.flags c ∧ k.mq.map (·.op) = r.map (·.op) ∧ k.status = (s.core n).status ∧
    (∀ m off count, e.op = .osld m off count → e.released = false → (s.core n).claim m = .filling → k.claim m = .loaded) ∧
    k.acc = (s.core n).acc ∧ k.scratch = (s.core n).scratch ∧ k.slotMem = (s.core n).slotMem := by
  refine ⟨_, rfl, ?_⟩
  dsimp only
  rw [hq]
  cases hop : e.op
  case osld m off count =>
    dsimp only
    split
    · next h =>
      refine ⟨map_op_eraseIdx_mapIdx fun j y => ?_, rfl, fun m' off' count' he _ _ => ?_, rfl, rfl, rfl⟩
      · split <;> rfl
      · cases he
        exact claim_setClaim _ _ _
    · next h =>
      refine ⟨map_op_eraseIdx_mapIdx fun j y => ?_, rfl, fun m' off' count' he hrel hfill => ?_, rfl, rfl, rfl⟩
      · split <;> rfl
      · cases he
        refine (h ?_).elim
        rw [hrel]
        exact beq_iff_eq.2 hfill
  all_goals
    refine ⟨map_op_eraseIdx_mapIdx fun j y => ?_, rfl, fun m' off' count' he => (by cases he), rfl, rfl, rfl⟩
    split <;> rfl

theorem dropEntry_completes (hn : n < 96) (hq : (s.core n).mq = e :: r) (c : Nat) : CompletedOne s (s.dropEntry n 0 c e) n e r := by
  obtain ⟨k, hdrop, hops, hstatus, hloaded, hacc, hpad, hslot⟩ := dropEntry_core hq c
  obtain ⟨at_, hcore⟩ := raiseFlags_core hn (s.setCore n k) e.flags c
  rw [setCore_core, if_pos rfl] at hcore
  rw [hdrop]
  refine ⟨raiseFlags_mem .., ?_, ?_, ?_, ?_, ?_, ?_⟩ <;> rw [hcore]
  · exact hops
  · rw [← hstatus]
  · exact hloaded
  · exact hacc
  · exact hpad
  · exact hslot

/-- An entry that names no barrier and posts no record completes at once. -/
theorem finishEntry_plain (hq : (s.core n).mq = e :: r) (hbar : e.bar = 0) (hev : e.ev = false) (hcmd : e.command = false) (hecc : e.ecc = none)
    (hpage : s.unanswered (dieOf n) e.page = false) (c : Nat) :
    s.finishEntry n 0 c = ((s.dropEntry n 0 c e).setAgent n { s.agent n with busyTo := max (s.agent n).busyTo c }, true) := by
  have hbar : s.arriveAt { agent := n, ctx := some (((s.core n).task.map (·.ctx)).getD 0) } e.bar e.op.arrival = .ok s () := if_pos hbar
  rw [State.finishEntry, hq]
  simp only [List.getElem?_cons_zero, hecc, hev, hcmd, hpage, hbar, Option.isNone_none, Option.isSome_none, Bool.false_eq_true, if_false, if_true]
  rfl

theorem exec_entryComplete (hq : (s.core n).mq = e :: r) (hs : e.started = true) (hp : s.paused = false) (hr : s.stampedRun n = false) :
    exec (.matrixEntryComplete n 0) s = .next { (s.finishEntry n 0 e.doneAt).1 with cycle := max s.cycle e.doneAt }.issues := by
  show execMatrixEntryComplete n 0 s = _
  rw [execMatrixEntryComplete, hq]
  simp only [List.getElem?_cons_zero, hs, hp, notYet_free hr, Bool.not_false, Bool.and_self, if_true]
  rfl

end

/-- Settles O35: the start by what the operation makes of its core's memories, the completion by what leaves the queue. -/
theorem matrixQueue : Obligations.MatrixQueue := by
  refine ⟨fun s n e hq hs hu ha hc hp hr => ?_, fun s n e r hn hq hs hbar hev hcmd hecc hp hr hpage => ?_⟩
  · intro k acc
    obtain ⟨c, hexec⟩ := exec_entryStart_one (s := s) hq hs hu ha hc hp hr
    obtain ⟨g, hg, hone⟩ := startEntry_one (s := s) hq c
    obtain ⟨x, hmq, hop, hst, hecc⟩ := hone.entry
    have hacc : ((s.startEntry n 0 c).core n).acc = (g.perform e.op).1.acc := hone.acc
    refine ⟨_, hexec, rfl, hone.mem, ⟨x, hmq, hop, hst, hecc.trans (hg.readsBad _)⟩, fun m off count ho hc j hj => ?_, fun ty m bias ho => ?_,
      fun zero ty a m row half ho r j hrow hj => ?_, fun zero ty a m row half ho r j hr hne hj => ?_, fun int a ho r j hr hj => ?_,
      fun a q v ho i hi => ?_, fun a off row ho r j hrow hj => ?_, fun int a off row ho r j hrow hj => ?_, fun d a q ho hn => ?_⟩
    · refine (congrArg (SMap.get 0 · _) hone.slotMem).trans ?_
      rw [ho, perform_osld g m off count hc hj, hg.scratch]
    · have hlatch : ((s.startEntry n 0 c).core n).latch = (g.perform (.mwld ty m bias)).1.latch := ho ▸ hone.latch
      refine ⟨congrArg Latch.valid hlatch, congrArg Latch.fmt hlatch, congrArg Latch.bias hlatch, fun j hj => ?_⟩
      refine (congrArg (fun l : Latch => SMap.get 0 l.weights j) hlatch).trans ?_
      rw [perform_mwld g ty m bias hj, hg.slotMem]
    · refine (congrArg (SMap.get 0 · _) hacc).trans ?_
      rw [ho]
      refine (perform_mma_row g zero ty a m row half hrow hj).trans ?_
      simp only [hg.acc, hg.activation, hg.weight, hg.latch]
      rfl
    · refine (congrArg (SMap.get 0 · _) hacc).trans ?_
      rw [ho]
      refine (perform_mma_other g zero ty a m row half hr hj hne).trans ?_
      rw [hg.acc]
      rfl
    · refine (congrArg (SMap.get 0 · _) hacc).trans ?_
      rw [ho]
      exact zeroAcc_get hr hj
    · refine (congrArg (SMap.get 0 · _) hacc).trans ?_
      rw [ho]
      exact perform_maccwr g a q v hi
    · refine (congrArg (bytesAt · _ 4) hone.scratch).trans ?_
      rw [ho, perform_maccst g a off row hrow hj, hg.acc]
      rfl
    · refine (congrArg (SMap.get 0 · _) hacc).trans ?_
      rw [ho]
      refine (perform_maccld g int a off row hrow hj).trans ?_
      rw [hg.scratch]
    · exact ⟨_, _, startEntry_maccrd hq ho c, rfl, rfl, fun i hi => quarter_elem _ a q hi⟩
  · have hdone := dropEntry_completes hn hq e.doneAt
    have hexec := exec_entryComplete hq hs hp hr
    rw [finishEntry_plain hq hbar hev hcmd hecc hpage] at hexec
    exact ⟨_, hexec, rfl, hdone.mem, hdone.ops, hdone.status, hdone.loaded, hdone.acc, hdone.scratch, hdone.slotMem⟩

end Sys2Proof.Machine

/-! LEMMAS and PROOF of O38: requests of the fabric logic as commands take them, acknowledgements and replies end them, time resends them (08
R232, 14 R375 R376, 15 R404), and an atomic request as it arrives (15 R405). -/

namespace Sys2Proof.Machine

open Host (Outcome)

/-! ### Headers of chunks (14 R369) -/

/-- A word of the record that lists eight words. -/
theorem packed_word (xs : List Nat) (hlen : xs.length = 8) (k : Nat) (hk : k < xs.length) :
    (Rec_word (BitVec.ofNat 512 (packElems 64 xs)) k).toNat = xs[k] % 2 ^ 64 := by
  have hlt : packElems 64 xs < 2 ^ 512 := by
    have := pack_lt 64 xs
    rw [hlen] at this
    exact this
  rw [Rec_word, BitVec.extractLsb'_toNat, BitVec.toNat_ofNat, Nat.mod_eq_of_lt hlt, Nat.shiftRight_eq_div_pow, Nat.mul_comm 64 k,
    pack_elem 64 xs k hk]

section AtomicHeader
variable (src self seq : Nat) (addr : Word)

/-- The header of an atomic request of `src` (15 R403). -/
def atomicHeader : BitVec 512 := hdMake 3 false 0 src self 0 seq 32 0 32 addr.toNat 0 0

/-- Its words. -/
def atomicFields : List Nat :=
  [3 + 0 + 0 + 2 ^ 11 * 0 + 2 ^ 16 * src + 2 ^ 27 * self, seq + 2 ^ 48 * (32 - 1), 0 + 2 ^ 32 * 32, addr.toNat, 0, 0, 0, 0]

theorem atomicHeader_word (k : Nat) (hk : k < 8) :
    (Rec_word (atomicHeader src self seq addr) k).toNat = (atomicFields src self seq addr)[k] % 2 ^ 64 :=
  packed_word (atomicFields src self seq addr) rfl k hk

theorem atomicHeader_kind : hdKind (atomicHeader src self seq addr) = 3 := by
  rw [hdKind, hdBits, bitsOf, atomicHeader_word _ _ _ _ 0 (by decide)]
  simp only [atomicFields, List.getElem_cons_zero]; omega

theorem atomicHeader_ord : hdOrd (atomicHeader src self seq addr) = false := by
  rw [hdOrd, BitVec.getLsbD, atomicHeader_word _ _ _ _ 0 (by decide), Nat.testBit_eq_decide_div_mod_eq, decide_eq_false_iff_not]
  simp only [atomicFields, List.getElem_cons_zero]; omega

theorem atomicHeader_src (hsrc : src < 2048) : hdSrc (atomicHeader src self seq addr) = src := by
  rw [hdSrc, hdBits, bitsOf, atomicHeader_word _ _ _ _ 0 (by decide)]
  simp only [atomicFields, List.getElem_cons_zero]; omega

theorem atomicHeader_seq (hseq : seq < 2 ^ 48) : hdSeq (atomicHeader src self seq addr) = seq := by
  rw [hdSeq, hdBits, bitsOf, atomicHeader_word _ _ _ _ 1 (by decide)]
  simp only [atomicFields, List.getElem_cons_zero, List.getElem_cons_succ]; omega

theorem atomicHeader_off : hdOff (atomicHeader src self seq addr) = 0 := by
  rw [hdOff, hdBits, bitsOf, atomicHeader_word _ _ _ _ 2 (by decide)]
  simp only [atomicFields, List.getElem_cons_zero, List.getElem_cons_succ]; omega

theorem atomicHeader_addr : hdAddr (atomicHeader src self seq addr) = addr.toNat := by
  have := addr.isLt
  rw [hdAddr, hdBits, bitsOf, atomicHeader_word _ _ _ _ 3 (by decide)]
  simp only [atomicFields, List.getElem_cons_zero, List.getElem_cons_succ]; omega

end AtomicHeader

/-! ### Commands (08 R232) -/

section Offered
variable {s : State} {q : Nat} {c : Rec} {o : Origin} {ctx : Option Nat} {dctx : Nat}

theorem offerFabric_held (h : ¬ ((s.fab.reqs.filter fun r => r.queue == some q).length < 16 ∧ s.dbgHalt = false)) :
    (s.offerFabric q c o ctx dctx).1 = s := by
  unfold State.offerFabric
  rw [if_pos]
  rcases Nat.lt_or_ge (s.fab.reqs.filter fun r => r.queue == some q).length 16 with hlt | hge
  · have hhalt : s.dbgHalt = true := by
      by_contra hrun
      exact h ⟨hlt, by simpa using hrun⟩
    simp [hhalt]
  · simp [hge]

variable (hroom : (s.fab.reqs.filter fun r => r.queue == some q).length < 16 ∧ s.dbgHalt = false)
include hroom

theorem offerFabric_refused (hbad : s.fabricOk c = false) :
    (s.offerFabric q c o ctx dctx).1 = s.commandFault o 6 cQueue 0 (BitVec.ofNat 64 (fcChip c)) (BitVec.ofNat 64 (fcLen c)) := by
  unfold State.offerFabric
  rw [if_neg (by simpa [hroom.2] using hroom.1), if_pos (by simp [hbad])]

theorem offerFabric_taken (hok : s.fabricOk c = true) :
    (s.offerFabric q c o ctx dctx).1 =
      s.takeReq { seq := 0, origin := o, cmd := c, ctx := ctx, dctx := dctx, dst := fcChip c, len := fcLen c, ord := fcOrd c
                  stamp := if fcOrd c then s.now else 0, queue := some q } := by
  unfold State.offerFabric
  rw [if_neg (by simpa [hroom.2] using hroom.1), if_neg (by simp [hok])]

end Offered

/-- A command of the kind that its instruction names goes to the FQ of its pusher. -/
theorem takeFabric_eq {s : State} {kind : Nat} {p : Pusher} {c : Rec} (hkind : fcKind c = kind) :
    s.takeFabric kind p c =
      (s.offerFabric (s.fabricPath p).1 c (s.fabricPath p).2.1 (s.fabricPath p).2.2.1 (s.fabricPath p).2.2.2).1 :=
  if_pos hkind

/-! ### Requests end, are sent again and are sent (14 R375 R376, 15 R404) -/

theorem endReq_kept (s : State) (r : FabReq) : (s.modFab (·.leave r)).FabricKept (s.endReq r) := by
  unfold State.endReq
  dsimp only
  split
  · exact ⟨rfl, rfl, rfl⟩
  · exact fabricKept_countReq ..

/-- The one request leaves none behind. -/
theorem endReq_one {s : State} {r : FabReq} {seq : Nat} (h : s.fab.reqs.map (·.seq) = [seq]) (hseq : r.seq = seq) : (s.endReq r).fab.reqs = [] := by
  rw [(endReq_kept s r).fab]
  change s.fab.reqs.filter (·.seq != r.seq) = []
  rw [List.filter_eq_nil_iff]
  intro x hx
  have hxs : x.seq = seq := by
    have : x.seq ∈ s.fab.reqs.map (·.seq) := List.mem_map_of_mem hx
    simpa [h] using this
  simp [hxs, hseq]

theorem acknowledged_kept (s : State) (r : FabReq) : s.FabricKept (s.acknowledged r) := by
  unfold State.acknowledged
  split
  · exact ⟨rfl, rfl, rfl⟩
  · exact fabricKept_countReq ..

theorem finishReq_plain {s : State} {r : FabReq} (hpod : r.pod = none) (hpage : r.page = none) (hev : fcEv r.cmd = false) (hbar : Rec_word r.cmd 3 = 0) :
    s.finishReq r = (s.acknowledged r).endReq { r with acked := true } := by
  have harrive : (s.acknowledged r).arriveAt ({ r with acked := true } : FabReq).issuer (Rec_word r.cmd 3) r.len = .ok (s.acknowledged r) () := by
    rw [hbar]; rfl
  unfold State.finishReq
  dsimp only
  rw [if_neg (by simp [hpod]), if_neg (by simp [hev]), if_neg (by simp [hpage, State.unanswered]), harrive]
  exact if_neg (by simp [hev])

section One
variable {s : State} {r : FabReq} (hreqs : s.fab.reqs = [r])
include hreqs

theorem ackOne_performed (hf : r.fatom = none) (hack : r.acked = false) (hseq : r.seq < 2 ^ 48) :
    s.ackOne r.dst (BitVec.ofNat 64 r.seq) = s.finishReq r := by
  have hlow : bitsOf (BitVec.ofNat 64 r.seq) 0 48 = r.seq := by
    rw [bitsOf, BitVec.toNat_ofNat]; omega
  have hhigh : bitsOf (BitVec.ofNat 64 r.seq) 48 2 = 0 := by
    rw [bitsOf, BitVec.toNat_ofNat]; omega
  simp [State.ackOne, hreqs, hlow, hhigh, hf, hack]

theorem putReq_one (x : FabReq) (hseq : x.seq = r.seq) (hc : x.counted = r.counted) :
    s.putReq x = { s with fab := { s.fab with reqs := [x] } } := by
  have hsame : ({ x with counted := x.counted || r.counted } : FabReq) = x := by
    rw [hc, Bool.or_self, ← hc]
  have hmap : (s.fab.reqs.map fun y => if y.seq = x.seq then { x with counted := x.counted || y.counted } else y) = [x] := by
    rw [hreqs, List.map_singleton, if_pos hseq.symm, hsame]
  exact congrArg (fun l => ({ s with fab := { s.fab with reqs := l } } : State)) hmap

end One

/-! ### An atomic request is discarded, answered from the cache, or performed (15 R405) -/

/-- The state in which the performance of a message leaves the chip. -/
def Perform.state : Perform → State
  | .done t | .stays t => t

section Atomic
variable {s : State} {m : RxMsg} (hfree : ∀ t : State, t.freeChunks m = t) {src seq addr w0 w1 w2 low : Nat}
include hfree

theorem performAtomic_below (hseq : seq < (s.fab.cache.get {} src).low) :
    ∃ t, (s.performAtomic m src seq addr w0 w1 w2 low).state = t ∧ t.mem = s.mem ∧ t.fab.rx = s.fab.rx.erase m ∧ t.fab.answers = s.fab.answers := by
  unfold State.performAtomic
  dsimp only
  rw [if_pos hseq, hfree]
  exact ⟨_, rfl, rfl, rfl, rfl⟩

theorem performAtomic_cached (hseq : (s.fab.cache.get {} src).low ≤ seq) {e : Nat × Word × Nat}
    (he : (s.fab.cache.get {} src).entries.find? (·.1 == seq) = some e) :
    ∃ t, (s.performAtomic m src seq addr w0 w1 w2 low).state = t ∧ t.mem = s.mem ∧ t.fab.rx = s.fab.rx.erase m ∧
      t.fab.answers = s.fab.answers ++ [{ dst := src, seq := seq, result := e.2.2, reply := some e.2.1, at_ := s.now }] := by
  unfold State.performAtomic
  dsimp only
  rw [if_neg (Nat.not_lt.mpr hseq)]
  split
  · next x hx =>
    rw [hfree, ← Option.some.inj (he.symm.trans hx)]
    exact ⟨_, rfl, rfl, rfl, rfl⟩
  · next hx => exact absurd (hx.symm.trans he) nofun

theorem performAtomic_new (hseq : (s.fab.cache.get {} src).low ≤ seq) (hnew : (s.fab.cache.get {} src).entries.find? (·.1 == seq) = none)
    {u : State} {n old : Nat} (hn : (if w2 / 2 ^ 8 % 2 = 1 then 8 else 4) = n)
    (hat : s.atomicAt { m.issuer with ctx := some (w2 % 64) } (fatomOp (w2 / 2 ^ 10 % 8)) n addr (BitVec.ofNat 64 w0) (BitVec.ofNat 64 w1) = .ok u old) :
    ∃ t, (s.performAtomic m src seq addr w0 w1 w2 low).state = t ∧ t.mem = u.mem ∧ t.fab.rx = u.fab.rx.erase m ∧
      t.fab.answers = u.fab.answers ++ [{ dst := src, seq := seq, result := 0, reply := some (sext64 (8 * n) old), at_ := u.now }] ∧
      (low ≤ seq → (seq, sext64 (8 * n) old, 0) ∈ (t.fab.cache.get {} src).entries) := by
  unfold State.performAtomic
  dsimp only
  rw [if_neg (Nat.not_lt.mpr hseq), hn]
  split
  · next x hx => exact absurd (hx.symm.trans hnew) nofun
  · rw [hat]
    dsimp only
    rw [hfree]
    refine ⟨_, rfl, rfl, rfl, rfl, fun hlow => ?_⟩
    change _ ∈ (SMap.get {} (SMap.set {} u.fab.cache src _) src).entries
    rw [SMap.get_set_same]
    exact List.mem_filter.mpr ⟨List.mem_append_right _ List.mem_cons_self, decide_eq_true (Nat.max_le.mpr ⟨hseq, hlow⟩)⟩

end Atomic

/-! ### Chunks of no plane, and the one message (14 R377) -/

/-- The message of an atomic request that has arrived. -/
def atomicMsg (s : State) (src seq : Nat) (c : Rec) (low : Nat) : RxMsg :=
  let h := atomicHeader src s.self seq (Rec_word c 0)
  { src := hdSrc h, seq := hdSeq h, hdr := h, at_ := s.now, last := s.now
    chunks := [{ off := hdOff h
                 data := toBytes (Rec_word c 1).toNat 8 ++ toBytes (Rec_word c 2).toNat 8 ++ toBytes (Rec_word c 3).toNat 8 ++ toBytes low 8
                 plane := 8, port := 0 }] }

section AtomicMsg
variable {s : State} {src seq low : Nat} {c : Rec}

theorem arriveChunk_atomic :
    s.arriveChunk (atomicHeader src s.self seq (Rec_word c 0))
        (toBytes (Rec_word c 1).toNat 8 ++ toBytes (Rec_word c 2).toNat 8 ++ toBytes (Rec_word c 3).toNat 8 ++ toBytes low 8) 8 0 none =
      s.modFab fun f => { f with rx := f.rx ++ [atomicMsg s src seq c low] } := by
  unfold State.arriveChunk
  dsimp only
  rw [if_pos (by simp [atomicHeader_kind])]
  rfl

theorem atomicMsg_bytes : (atomicMsg s src seq c low).bytes =
    toBytes (Rec_word c 1).toNat 8 ++ toBytes (Rec_word c 2).toNat 8 ++ toBytes (Rec_word c 3).toNat 8 ++ toBytes low 8 := by
  simp [RxMsg.bytes, atomicMsg, atomicHeader_off, List.range_succ]

/-- The eight bytes of a number. -/
theorem ofBytes_eight {x : Nat} (hx : x < 2 ^ 64) : ofBytes (toBytes x 8) = x := by
  rw [ofBytes_toBytes]; omega

/-- Nothing is left of a number's bytes after as many. -/
theorem drop_toBytes (x n k : Nat) (h : n ≤ k) : (toBytes x n).drop k = [] := List.drop_eq_nil_of_le (by simpa using h)

/-- The words of an atomic request's payload (15 R403). -/
theorem atomicMsg_words (hlow : low < 2 ^ 48) :
    let bs := (atomicMsg s src seq c low).bytes
    ofBytes ((bs.drop (8 * 0)).take 8) = (Rec_word c 1).toNat ∧ ofBytes ((bs.drop (8 * 1)).take 8) = (Rec_word c 2).toNat ∧
      ofBytes ((bs.drop (8 * 2)).take 8) = (Rec_word c 3).toNat ∧ ofBytes ((bs.drop (8 * 3)).take 8) % 2 ^ 48 = low := by
  intro bs
  have h64 : low < 2 ^ 64 := by omega
  refine ⟨?_, ?_, ?_, ?_⟩
  · simp [bs, atomicMsg_bytes, ofBytes_eight (Rec_word c 1).isLt]
  · simp [bs, atomicMsg_bytes, ofBytes_eight (Rec_word c 2).isLt]
  · simp [bs, atomicMsg_bytes, List.drop_append, drop_toBytes, ofBytes_eight (Rec_word c 3).isLt]
  · simp [bs, atomicMsg_bytes, List.drop_append, drop_toBytes, List.take_of_length_le, ofBytes_eight h64]
    exact hlow

/-- The chunk of a loopback takes no buffer. -/
theorem freeChunks_atomicMsg (t : State) : t.freeChunks (atomicMsg s src seq c low) = t := rfl


/-- The chip as the message of an atomic request has arrived, where none other is there. -/
def atomicHere (s : State) (src seq : Nat) (c : Rec) (low : Nat) : State := s.modFab fun f => { f with rx := f.rx ++ [atomicMsg s src seq c low] }

theorem atomicMsg_unordered : (atomicMsg s src seq c low).ordered = false := atomicHeader_ord ..

/-- How the atomic request goes on (15 R405). -/
def atomicPerform (s : State) (src seq : Nat) (c : Rec) (low : Nat) : Perform :=
  (atomicHere s src seq c low).performAtomic (atomicMsg s src seq c low) src seq (Rec_word c 0).toNat (Rec_word c 1).toNat (Rec_word c 2).toNat
    (Rec_word c 3).toNat low

/-- A message of kind 3 is performed as an atomic request. -/
theorem performMsg_kind3 {t : State} {m : RxMsg} (hkind : hdKind m.hdr = 3) (hpage : m.page = none) :
    t.performMsg m = (t.performAtomic m m.src m.seq (hdAddr m.hdr) (ofBytes ((m.bytes.drop (8 * 0)).take 8)) (ofBytes ((m.bytes.drop (8 * 1)).take 8))
      (ofBytes ((m.bytes.drop (8 * 2)).take 8)) (ofBytes ((m.bytes.drop (8 * 3)).take 8) % 2 ^ 48)).state := by
  unfold State.performMsg
  dsimp only
  rw [if_neg (by simp [State.unanswered, hpage]), hkind]
  generalize t.performAtomic _ _ _ _ _ _ _ _ = x
  cases x <;> rfl

theorem performMsg_atomic (hsrc : src < 2048) (hseq : seq < 2 ^ 48) (hlow : low < 2 ^ 48) :
    (atomicHere s src seq c low).performMsg (atomicMsg s src seq c low) = (atomicPerform s src seq c low).state := by
  obtain ⟨h0, h1, h2, h3⟩ := atomicMsg_words (s := s) (src := src) (seq := seq) (c := c) hlow
  have hkind : hdKind (atomicMsg s src seq c low).hdr = 3 := atomicHeader_kind ..
  have haddr : hdAddr (atomicMsg s src seq c low).hdr = (Rec_word c 0).toNat := atomicHeader_addr ..
  have hmsrc : (atomicMsg s src seq c low).src = src := atomicHeader_src _ _ _ _ hsrc
  have hmseq : (atomicMsg s src seq c low).seq = seq := atomicHeader_seq _ _ _ _ hseq
  rw [performMsg_kind3 hkind rfl, haddr, hmsrc, hmseq, h0, h1, h2, h3, atomicPerform]

theorem performAll_atomic (hrx : s.fab.rx = []) (hhalt : s.dbgHalt = false) (hsrc : src < 2048) (hseq : seq < 2 ^ 48) (hlow : low < 2 ^ 48) :
    (atomicHere s src seq c low).performAll = (atomicPerform s src seq c low).state := by
  have hall : (atomicHere s src seq c low).fab.rx = [atomicMsg s src seq c low] := by
    change s.fab.rx ++ _ = _
    rw [hrx]; rfl
  have hrun : (atomicHere s src seq c low).dbgHalt = false := hhalt
  unfold State.performAll
  rw [if_neg (by simp [hrun]), hall, List.filter_cons_of_pos (by simp [atomicMsg_unordered]), List.filter_nil, List.foldl_cons, List.foldl_nil,
    if_pos (by simp [hall]), performMsg_atomic hsrc hseq hlow]

theorem exec_atomic (hrx : s.fab.rx = []) (hhalt : s.dbgHalt = false) (hsrc : src < 2048) (hseq : seq < 2 ^ 48) (hlow : low < 2 ^ 48) :
    exec (.fatomRequestArrive src seq low c) s = .next (atomicPerform s src seq c low).state.issues := by
  rw [← performAll_atomic hrx hhalt hsrc hseq hlow]
  exact congrArg (fun t => Outcome.next (t.performAll.issues)) arriveChunk_atomic

/-- The answered message is gone. -/
theorem erase_atomic (hrx : s.fab.rx = []) : (atomicHere s src seq c low).fab.rx.erase (atomicMsg s src seq c low) = [] := by
  change (s.fab.rx ++ _).erase _ = _
  rw [hrx]; simp

section Arrives
variable (hrx : s.fab.rx = []) (hhalt : s.dbgHalt = false) (hsrc : src < 2048) (hseq : seq < 2 ^ 48) (hlow : low < 2 ^ 48)
include hrx hhalt hsrc hseq hlow

theorem exec_atomic_below (hbelow : seq < (s.fab.cache.get {} src).low) :
    ∃ t, exec (.fatomRequestArrive src seq low c) s = .next t ∧ t.res = .issued ∧ t.mem = s.mem ∧ t.fab.rx = [] ∧ t.fab.answers = s.fab.answers := by
  obtain ⟨t, ht, hmem, hgone, hans⟩ := performAtomic_below (s := atomicHere s src seq c low) (m := atomicMsg s src seq c low)
    (addr := (Rec_word c 0).toNat) (w0 := (Rec_word c 1).toNat) (w1 := (Rec_word c 2).toNat) (w2 := (Rec_word c 3).toNat) (low := low)
    freeChunks_atomicMsg hbelow
  exact ⟨t.issues, ht ▸ exec_atomic hrx hhalt hsrc hseq hlow, rfl, hmem, hgone.trans (erase_atomic hrx), hans⟩

theorem exec_atomic_cached (hhad : (s.fab.cache.get {} src).low ≤ seq) {e : Nat × Word × Nat}
    (he : (s.fab.cache.get {} src).entries.find? (·.1 == seq) = some e) :
    ∃ t, exec (.fatomRequestArrive src seq low c) s = .next t ∧ t.res = .issued ∧ t.mem = s.mem ∧ t.fab.rx = [] ∧
      t.fab.answers = s.fab.answers ++ [{ dst := src, seq := seq, result := e.2.2, reply := some e.2.1, at_ := s.now }] := by
  obtain ⟨t, ht, hmem, hgone, hans⟩ := performAtomic_cached (s := atomicHere s src seq c low) (m := atomicMsg s src seq c low)
    (addr := (Rec_word c 0).toNat) (w0 := (Rec_word c 1).toNat) (w1 := (Rec_word c 2).toNat) (w2 := (Rec_word c 3).toNat) (low := low)
    freeChunks_atomicMsg hhad he
  exact ⟨t.issues, ht ▸ exec_atomic hrx hhalt hsrc hseq hlow, rfl, hmem, hgone.trans (erase_atomic hrx), hans⟩

theorem exec_atomic_new (hhad : (s.fab.cache.get {} src).low ≤ seq) (hnew : (s.fab.cache.get {} src).entries.find? (·.1 == seq) = none)
    {u : State} {n old : Nat} (hn : (if (Rec_word c 3).toNat / 2 ^ 8 % 2 = 1 then 8 else 4) = n)
    (hat : (atomicHere s src seq c low).atomicAt { agent := 96, ctx := some ((Rec_word c 3).toNat % 64), unit := true }
      (fatomOp ((Rec_word c 3).toNat / 2 ^ 10 % 8)) n (Rec_word c 0).toNat (Rec_word c 1) (Rec_word c 2) = .ok u old) :
    ∃ t, exec (.fatomRequestArrive src seq low c) s = .next t ∧ t.res = .issued ∧ t.mem = u.mem ∧
      (∀ m, (atomicHere s src seq c low).fab.rx = [m] → t.fab.rx = u.fab.rx.erase m) ∧
      t.fab.answers = u.fab.answers ++ [{ dst := src, seq := seq, result := 0, reply := some (sext64 (8 * n) old), at_ := u.now }] ∧
      (low ≤ seq → (seq, sext64 (8 * n) old, 0) ∈ (t.fab.cache.get {} src).entries) := by
  have hagain : (atomicHere s src seq c low).atomicAt { (atomicMsg s src seq c low).issuer with ctx := some ((Rec_word c 3).toNat % 64) }
      (fatomOp ((Rec_word c 3).toNat / 2 ^ 10 % 8)) n (Rec_word c 0).toNat (BitVec.ofNat 64 (Rec_word c 1).toNat)
      (BitVec.ofNat 64 (Rec_word c 2).toNat) = .ok u old := by
    rw [BitVec.ofNat_toNat, BitVec.ofNat_toNat, BitVec.setWidth_eq, BitVec.setWidth_eq]
    exact hat
  obtain ⟨t, ht, hmem, hgone, hans, hcache⟩ := performAtomic_new (s := atomicHere s src seq c low) (m := atomicMsg s src seq c low)
    (addr := (Rec_word c 0).toNat) (w0 := (Rec_word c 1).toNat) (w1 := (Rec_word c 2).toNat) (w2 := (Rec_word c 3).toNat) (low := low)
    freeChunks_atomicMsg hhad hnew hn hagain
  have hrest : ∀ m, (atomicHere s src seq c low).fab.rx = [m] → t.fab.rx = u.fab.rx.erase m := by
    intro m hm
    have hone : (atomicHere s src seq c low).fab.rx = [atomicMsg s src seq c low] := by
      change s.fab.rx ++ _ = _
      rw [hrx, List.nil_append]
    rw [hgone, List.singleton_inj.mp (hm.symm.trans hone)]
  exact ⟨t.issues, ht ▸ exec_atomic hrx hhalt hsrc hseq hlow, rfl, hmem, hrest, hans, hcache⟩

end Arrives

end AtomicMsg

/-! ### O38 -/

/-- What a fabric command becomes where `exec` gives the state of its FQ (08 R232). -/
theorem fabricCommand_takes {s : State} {p : Pusher} {c : Rec} {kind : Nat} (hkind : fcKind c = kind) {i : Instr}
    (hexec : exec i s = .next (s.takeFabric kind p c).issues) :
    let path := s.fabricPath p
    let room : Prop := (s.fab.reqs.filter fun r => r.queue == some path.1).length < 16 ∧ s.dbgHalt = false
    (room → s.fabricOk c = true →
      ∃ t r, exec i s = .next t ∧ t.res = .issued ∧ t.fab.reqs = s.fab.reqs ++ [r] ∧ t.fab.seq = (s.fab.seq + 1) % 2 ^ 48 ∧
        r.seq = s.fab.seq ∧ r.cmd = c ∧ r.origin = path.2.1 ∧ r.dst = fcChip c ∧ r.len = fcLen c ∧ r.ord = fcOrd c ∧
        (fcOrd c = true → r.stamp = s.now) ∧ r.acked = false ∧ t.mem = s.mem) ∧
    (room → s.fabricOk c = false →
      exec i s = .next (s.commandFault path.2.1 6 cQueue 0 (BitVec.ofNat 64 (fcChip c)) (BitVec.ofNat 64 (fcLen c))).issues) ∧
    (¬ room → exec i s = .next s.issues) := by
  intro path room
  rw [takeFabric_eq hkind] at hexec
  refine ⟨fun hroom hok => ?_, fun hroom hbad => ?_, fun hfull => ?_⟩
  · rw [offerFabric_taken hroom hok] at hexec
    have hkept := fabricKept_takeReq s
      { seq := 0, origin := path.2.1, cmd := c, ctx := path.2.2.1, dctx := path.2.2.2, dst := fcChip c, len := fcLen c, ord := fcOrd c
        stamp := if fcOrd c then s.now else 0, queue := some path.1 }
    exact ⟨_, _, hexec, rfl, congrArg Fabric.reqs hkept.fab, congrArg Fabric.seq hkept.fab, rfl, rfl, rfl, rfl, rfl, rfl, fun hord => if_pos hord, rfl,
      hkept.mem⟩
  · rwa [offerFabric_refused hroom hbad] at hexec
  · rwa [offerFabric_held hfull] at hexec

section One
variable {s : State} {r : FabReq} (hreqs : s.fab.reqs = [r])
include hreqs

theorem exec_ack_one (hhalt : s.dbgHalt = false) (hpod : r.pod = none) (hpage : r.page = none) (hf : r.fatom = none) (hack : r.acked = false)
    (hseq : r.seq < 2 ^ 48) (hev : fcEv r.cmd = false) (hbar : Rec_word r.cmd 3 = 0) :
    ∃ t, exec (.ackReceive r.dst [BitVec.ofNat 64 r.seq]) s = .next t ∧ t.res = .issued ∧ t.fab.reqs = [] ∧ t.mem = s.mem := by
  have hexec : exec (.ackReceive r.dst [BitVec.ofNat 64 r.seq]) s = .next (s.ackOne r.dst (BitVec.ofNat 64 r.seq)).issues :=
    congrArg (fun t => Outcome.next (State.issues t)) (if_neg (by simp [hhalt]))
  rw [ackOne_performed hreqs hf hack hseq, finishReq_plain hpod hpage hev hbar] at hexec
  have hkept := acknowledged_kept s r
  refine ⟨_, hexec, rfl, endReq_one (seq := r.seq) ?_ rfl, (endReq_kept _ _).mem.trans hkept.mem⟩
  rw [hkept.fab, hreqs]; rfl

/-- A request past its time, whose chunks have all been handed over (14 R376). -/
theorem exec_resend {x : Nat} (hlast : r.last = some x) (hack : r.acked = false) (hsent : r.sent.length = r.chunks)
    (hdue : x + s.fab.rto * 1000 ≤ s.counted) :
    exec (.resendTimeout r.seq) s = .next (if s.fab.retry ≤ r.attempt then s.failReq r cPeer r.peerAddr
      else s.putReq { r with attempt := r.attempt + 1, prev := r.sent, sent := [], last := none, at_ := s.now }).issues := by
  refine congrArg (fun t => Outcome.next (State.issues t)) ?_
  rw [hreqs, List.find?_cons_of_pos (by simp)]
  dsimp only
  rw [if_neg (by simp [hack]), if_neg (by simp [hsent]), hlast, if_neg (by simpa using hdue)]

theorem exec_fatomSend (hwaits : r.waits = true) :
    exec (.fatomSendRelease 0) s =
      .next (if s.fab.window r.dst r.seq < 4096 then s.putReq { r with waits := false, at_ := s.now } else s).issues := by
  refine congrArg (fun t => Outcome.next (State.issues t)) ?_
  simp [hreqs, hwaits]

theorem exec_fatomReply {f : Fatom} (hf : r.fatom = some f) (hwaits : r.waits = false) (hhalt : s.dbgHalt = false) (old : Word) :
    exec (.fatomReplyArrive r.dst r.seq 0 old) s =
      .next ((s.issuerRegs r.origin fun g => g.write (.s f.d) (.w old)).endReq r).issues := by
  refine congrArg (fun t => Outcome.next (State.issues t)) ?_
  rw [if_neg (by simp [hhalt]), State.takeReply, hreqs, List.find?_cons_of_pos (by simp [hf, hwaits])]
  dsimp only
  rw [hf]
  rfl

/-- The reply of a control core's FATOM fills its register (15 R404). -/
theorem fatomReply_control {n d : Nat} (hby : r.origin.by_ = .control n) (old : Word) :
    let t := (s.issuerRegs r.origin fun g => g.write (.s d) (.w old)).endReq r
    t.fab.reqs = [] ∧ t.agent (96 + n) = { s.agent (96 + n) with regs := (s.agent (96 + n)).regs.write (.s d) (.w old) } := by
  have hregs : (s.issuerRegs r.origin fun g => g.write (.s d) (.w old)) = s.modRegs (96 + n) fun g => g.write (.s d) (.w old) := by
    rw [State.issuerRegs, hby]
  rw [hregs]
  refine ⟨endReq_one (seq := r.seq) (by rw [modRegs_fab, hreqs]; rfl) rfl, ?_⟩
  have hagent : ∀ t : State, (t.endReq r).agent (96 + n) = t.agent (96 + n) := by
    intro t
    unfold State.endReq State.countReq
    rw [hby]
    dsimp only
    split <;> rfl
  rw [hagent, State.modRegs, setAgent_agent, if_pos rfl]

end One

/-- Settles O38: a command by its path, the one request by what names it, and an atomic request by the cache of its source. -/
theorem fabricRequests : Obligations.FabricRequests := by
  unfold Obligations.FabricRequests
  intro s p c path room takes
  refine ⟨fun hkind => fabricCommand_takes hkind rfl, fun hkind => fabricCommand_takes hkind rfl, fun r hreqs hpod hpage hhalt => ⟨?_, ?_, ?_, ?_⟩,
    ?_, ?_, fun hhalt src seq acks st old => ⟨?_, ?_⟩, fun d r hdone hdue => ?_⟩
  · rintro n hf hack hseq hev hbar rfl
    exact exec_ack_one hreqs hhalt hpod hpage hf hack hseq hev hbar
  · intro x hlast hack hsent hdue
    have hexec := exec_resend hreqs hlast hack hsent hdue
    refine ⟨fun hmore => ?_, fun hend => ?_⟩
    · rw [hexec, if_neg (Nat.not_le.mpr hmore)]
      exact congrArg (fun t => Outcome.next (State.issues t)) (putReq_one hreqs _ rfl rfl)
    · rw [hexec, if_pos hend]
  · intro f hf hwaits
    have hexec := exec_fatomSend hreqs hwaits
    refine ⟨fun hroom => ?_, fun hfull => ?_⟩
    · rw [hexec, if_pos hroom]
      exact congrArg (fun t => Outcome.next (State.issues t)) (putReq_one hreqs _ rfl rfl)
    · rw [hexec, if_neg (Nat.not_lt.mpr hfull)]
  · intro f n old hf hwaits hby
    obtain ⟨hgone, hagent⟩ := fatomReply_control hreqs (d := f.d) hby old
    exact ⟨_, exec_fatomReply hreqs hf hwaits hhalt old, rfl, hgone, hagent⟩
  · intro src seq low hrx hhalt hsrc hseq hlow hbelow
    exact exec_atomic_below hrx hhalt hsrc hseq hlow hbelow
  · intro src seq low hsrc hseq hlow hrx hhalt w n h bs here had op hhad
    have hhere : here = atomicHere s src seq c low := arriveChunk_atomic
    refine ⟨fun e he => exec_atomic_cached hrx hhalt hsrc hseq hlow hhad he, fun hnew u old hat => ?_⟩
    rw [hhere] at hat ⊢
    exact exec_atomic_new hrx hhalt hsrc hseq hlow hhad hnew rfl hat
  · exact congrArg (fun t => Outcome.next (State.issues t)) (if_pos hhalt)
  · exact congrArg (fun t => Outcome.next (State.issues t)) (if_pos hhalt)
  · refine congrArg (fun t => Outcome.next (State.issues t)) ?_
    rw [hdone]
    dsimp only [List.getElem?_cons_zero]
    rw [if_neg (Nat.not_lt.mpr hdue), State.modFab, hdone]
    rfl

end Sys2Proof.Machine

/-! LEMMAS and PROOF of O39: planes, lanes, slots and headers (14 R366 to R383). -/

namespace Sys2Proof.Machine

open Host (Outcome)

/-! ### Planes -/

theorem modPlane_plane (s : State) (p : Nat) (f : Plane → Plane) (q : Nat) : (s.modPlane p f).plane q = if q = p then f (s.plane p) else s.plane q := by
  rw [State.plane, State.modPlane, SMap.get_set]
  rfl

theorem modPlane_plane_same (s : State) (p : Nat) (f : Plane → Plane) : (s.modPlane p f).plane p = f (s.plane p) := by
  rw [modPlane_plane, if_pos rfl]

theorem planeRecord_plane (s : State) (sub p l : Nat) (code : BitVec 8) (w3 w4 w5 q : Nat) :
    (s.planeRecord sub p l code w3 w4 w5).plane q = s.plane q := rfl

theorem freeBuf_plane (s : State) (p q : Nat) (hp : p < 8) :
    (s.freeBuf p q).plane p = (s.plane p).modPort q fun c => { c with rxfreed := c.rxfreed + 1 } := by
  rw [State.freeBuf, if_neg (by omega), modPlane_plane_same]

theorem modPort_port (x : Plane) (q : Nat) (f : Fsc → Fsc) : (x.modPort q f).port q = f (x.port q) := by
  rw [Plane.port, Plane.modPort, SMap.get_set_same]

/-! ### What goes on in the fabric logic with no message and no request (15 R392 R393) -/

/-- The state differs in the floors of inputs, and in no lane, slot or queue of the fabric logic. -/
structure State.FloorsMoved (s t : State) : Prop where
  mem : t.mem = s.mem
  chipid : t.chipid = s.chipid
  lanes : t.fab.lanes = s.fab.lanes
  slot : t.fab.slot = s.fab.slot
  reqs : t.fab.reqs = s.fab.reqs
  rx : t.fab.rx = s.fab.rx
  fwd : t.fab.fwd = s.fab.fwd
  answers : t.fab.answers = s.fab.answers
  plane : ∀ p, t.plane p = { s.plane p with ins := (t.plane p).ins }
  chip : ∀ p q, ((t.plane p).ins.get {} q).chip = ((s.plane p).ins.get {} q).chip
  heard : ∀ p q, ((t.plane p).ins.get {} q).heard = ((s.plane p).ins.get {} q).heard

theorem State.FloorsMoved.refl (s : State) : s.FloorsMoved s :=
  ⟨rfl, rfl, rfl, rfl, rfl, rfl, rfl, rfl, fun _ => rfl, fun _ _ => rfl, fun _ _ => rfl⟩

theorem State.FloorsMoved.trans {s t u : State} (h : s.FloorsMoved t) (g : t.FloorsMoved u) : s.FloorsMoved u where
  mem := g.mem.trans h.mem
  chipid := g.chipid.trans h.chipid
  lanes := g.lanes.trans h.lanes
  slot := g.slot.trans h.slot
  reqs := g.reqs.trans h.reqs
  rx := g.rx.trans h.rx
  fwd := g.fwd.trans h.fwd
  answers := g.answers.trans h.answers
  plane p := by rw [g.plane p, h.plane p]
  chip p q := (g.chip p q).trans (h.chip p q)
  heard p q := (g.heard p q).trans (h.heard p q)

theorem floorsMoved_foldl {α : Type} {f : State → α → State} (hf : ∀ (s : State) a, s.FloorsMoved (f s a)) (l : List α) (s : State) :
    s.FloorsMoved (l.foldl f s) := by
  induction l generalizing s with
  | nil => exact .refl s
  | cons a r ih => exact (hf s a).trans (ih _)

/-- An input changes, and says the same of its sender. -/
theorem floorsMoved_setInput (s : State) (p q : Nat) (g : PlaneIn → PlaneIn) (hchip : ∀ y, (g y).chip = y.chip) (hheard : ∀ y, (g y).heard = y.heard) :
    s.FloorsMoved (s.modPlane p fun x => { x with ins := x.ins.set {} q (g (x.ins.get {} q)) }) := by
  have hinput : ∀ p' q', (((s.modPlane p fun x => { x with ins := x.ins.set {} q (g (x.ins.get {} q)) }).plane p').ins.get {} q') =
      if p' = p ∧ q' = q then g ((s.plane p').ins.get {} q') else (s.plane p').ins.get {} q' := by
    intro p' q'
    rw [modPlane_plane]
    by_cases hp : p' = p
    · subst hp
      by_cases hq : q' = q
      · subst hq; simp [SMap.get_set_same]
      · simp [hq]
    · simp [hp]
  refine ⟨rfl, rfl, rfl, rfl, rfl, rfl, rfl, rfl, fun p' => ?_, fun p' q' => ?_, fun p' q' => ?_⟩
  · rw [modPlane_plane]
    split
    · next h => subst h; rfl
    · rfl
  · rw [hinput]
    split
    · exact hchip _
    · rfl
  · rw [hinput]
    split
    · exact hheard _
    · rfl

/-- An input once the floor of a slot is applied to it, at a time. -/
def PlaneIn.floored (y : PlaneIn) (slot floor now : Nat) : PlaneIn :=
  if slot % 2 = 1 then { y with hf := max y.hf floor } else if y.pf < floor then { y with pf := floor, since := now } else y

theorem floored_chip (slot floor now : Nat) (y : PlaneIn) : (y.floored slot floor now).chip = y.chip := by
  unfold PlaneIn.floored
  split
  · rfl
  · split <;> rfl

theorem floored_heard (slot floor now : Nat) (y : PlaneIn) : (y.floored slot floor now).heard = y.heard := by
  unfold PlaneIn.floored
  split
  · rfl
  · split <;> rfl

theorem floorsMoved_applyFloor (s : State) (f : Nat × Nat × Nat × Nat) : s.FloorsMoved (s.applyFloor f) :=
  floorsMoved_setInput s f.2.1 f.2.2.1 (PlaneIn.floored · f.1 f.2.2.2 s.now) (floored_chip _ _ _) (floored_heard _ _ _)

theorem floorsMoved_applyFloors (s : State) : s.FloorsMoved s.applyFloors :=
  State.FloorsMoved.trans (t := s.modFab fun f => { f with floors := (s.fab.floors.partition fun f => s.slotHeard f.1).2 })
    ⟨rfl, rfl, rfl, rfl, rfl, rfl, rfl, rfl, fun _ => rfl, fun _ _ => rfl, fun _ _ => rfl⟩ (floorsMoved_foldl floorsMoved_applyFloor _ _)

theorem floorsMoved_setWmark (s : State) : s.FloorsMoved s.setWmark :=
  ⟨rfl, rfl, rfl, rfl, rfl, rfl, rfl, rfl, fun _ => rfl, fun _ _ => rfl, fun _ _ => rfl⟩

theorem floorsMoved_fabricWork {s : State} (hrx : s.fab.rx = []) (hreqs : s.fab.reqs = []) : s.FloorsMoved s.fabricWork := by
  have hall : s.performAll = s := by
    rw [State.performAll, hrx]
    exact ite_self ..
  have hacked : s.retryAcked = s := by rw [State.retryAcked, hreqs]; rfl
  rw [State.fabricWork, hall, hacked]
  exact (floorsMoved_applyFloors s).trans (floorsMoved_setWmark _)

theorem floorsMoved_herdUpdate (s : State) (k : Nat) : s.FloorsMoved (s.herdUpdate k) := by
  unfold State.herdUpdate
  dsimp only
  split
  · exact ⟨rfl, rfl, rfl, rfl, rfl, rfl, rfl, rfl, fun _ => rfl, fun _ _ => rfl, fun _ _ => rfl⟩
  · exact .refl s

theorem floorsMoved_herdUpdates (s : State) : s.FloorsMoved s.herdUpdates := floorsMoved_foldl floorsMoved_herdUpdate _ s

/-- What a plane is but for its inputs. -/
theorem State.FloorsMoved.fsc {s t : State} (h : s.FloorsMoved t) (p : Nat) : (t.plane p).fsc = (s.plane p).fsc := by rw [h.plane p]

theorem State.FloorsMoved.locked {s t : State} (h : s.FloorsMoved t) (p : Nat) : (t.plane p).locked = (s.plane p).locked := by rw [h.plane p]

theorem State.FloorsMoved.sends {s t : State} (h : s.FloorsMoved t) (p n l : Nat) : (t.plane p).sends n l = (s.plane p).sends n l := by
  rw [h.plane p]; rfl

/-! ### What a header says of its sender (14 R369 R373), and pod time that it sets (15 R388) -/

/-- The state differs in pod time and what is recorded of it, in no memory, plane or part of the fabric logic. -/
structure State.TimeMoved (s t : State) : Prop where
  mem : t.mem = s.mem
  chipid : t.chipid = s.chipid
  fab : t.fab = s.fab
  planes : t.planes = s.planes

theorem timeMoved_rebase (s : State) (x : Nat) : s.TimeMoved (s.rebase x) := by
  unfold State.rebase
  obtain ⟨dt, left⟩ := s.sinceBase s.cycle
  exact ⟨rfl, rfl, rfl, rfl⟩

theorem State.TimeMoved.modTime {s t : State} (h : s.TimeMoved t) (f : PodTime → PodTime) : s.TimeMoved (t.modTime f) :=
  ⟨h.mem, h.chipid, h.fab, h.planes⟩

theorem State.TimeMoved.trans {s t u : State} (h : s.TimeMoved t) (g : t.TimeMoved u) : s.TimeMoved u :=
  ⟨g.mem.trans h.mem, g.chipid.trans h.chipid, g.fab.trans h.fab, g.planes.trans h.planes⟩

theorem State.TimeMoved.refl (s : State) : s.TimeMoved s := ⟨rfl, rfl, rfl, rfl⟩

theorem timeMoved_discipline (s : State) (off : Int) : s.TimeMoved (s.discipline off) := by
  unfold State.discipline
  dsimp only
  have hoffs := (State.TimeMoved.refl s).modTime fun p => { p with offs := offsField off }
  split
  · exact (hoffs.trans (timeMoved_rebase ..)).modTime _
  · exact (hoffs.trans (timeMoved_rebase ..)).modTime _

theorem timeMoved_setSync (s : State) (v : Bool) : s.TimeMoved (s.setSync v) := by
  unfold State.setSync
  dsimp only
  split <;> exact ⟨rfl, rfl, rfl, rfl⟩

theorem timeMoved_followParent (s : State) (plane chip : Nat) (tsync : Bool) : s.TimeMoved (s.followParent plane chip tsync) := by
  unfold State.followParent
  extract_lets root me parent row q lower off moved s1
  split
  · exact .refl s
  · have hoff := timeMoved_discipline s off
    have hfresh : s.TimeMoved s1 := ⟨hoff.mem, hoff.chipid, hoff.fab, hoff.planes⟩
    exact (hfresh.modTime fun p => { p with hold := false }).trans (timeMoved_setSync _ _)

theorem timeMoved_plane {s t : State} (h : s.TimeMoved t) (p : Nat) : t.plane p = s.plane p := by rw [State.plane, h.planes, State.plane]

/-- What a good header leaves of its plane: the count of its port, what it says of its sender, and its lanes as they were. -/
theorem noteHeader_plane (s : State) (p q slot : Nat) (h : BitVec 512) :
    (((s.noteHeader p q slot h).plane p).port q).freed = BitVec.ofNat 16 (hdBits h 6 0 16) ∧
      (((s.noteHeader p q slot h).plane p).ins.get {} q).chip = hdHop h ∧ (((s.noteHeader p q slot h).plane p).ins.get {} q).heard = true ∧
      ((s.noteHeader p q slot h).plane p).locked = (s.plane p).locked := by
  unfold State.noteHeader
  dsimp only
  rw [timeMoved_plane (timeMoved_followParent ..)]
  simp only [State.modFab, Plane.port]
  rw [show ∀ t : State, ∀ f, ({ t with fab := f } : State).plane p = t.plane p from fun _ _ => rfl, modPlane_plane_same]
  dsimp only [Plane.modPort]
  rw [SMap.get_set_same, SMap.get_set_same]
  exact ⟨rfl, rfl, rfl, rfl⟩

theorem noteHeader_frame (s : State) (p q slot : Nat) (h : BitVec 512) :
    (s.noteHeader p q slot h).mem = s.mem ∧ (s.noteHeader p q slot h).fab.rx = s.fab.rx ∧ (s.noteHeader p q slot h).fab.reqs = s.fab.reqs := by
  unfold State.noteHeader
  dsimp only
  generalize hs1 : State.modFab _ _ = s1
  have hmoved := timeMoved_followParent s1 p (hdHop h) ((Rec_word h 0).getLsbD 9)
  rw [hmoved.mem, hmoved.fab, ← hs1]
  exact ⟨rfl, rfl, rfl⟩

/-! ### Fields of a slot header (14 R369) -/

theorem hdSet_getLsbD (h : BitVec 512) (i lo n v j : Nat) (hj : j < 512) :
    (hdSet h i lo n v).getLsbD j =
      if 64 * i + lo ≤ j ∧ j < 64 * i + lo + n then v.testBit (j - (64 * i + lo)) else h.getLsbD j := by
  rw [hdSet]
  simp only [BitVec.getLsbD_or, BitVec.getLsbD_and, BitVec.getLsbD_not, BitVec.getLsbD_ofNat, hj, decide_true, Bool.true_and,
    Nat.testBit_mul_two_pow, Nat.testBit_mod_two_pow, Nat.testBit_two_pow_sub_one]
  by_cases hlo : 64 * i + lo ≤ j
  · by_cases hhi : j < 64 * i + lo + n
    · have hin : j - (64 * i + lo) < n := by omega
      simp [hlo, hhi, hin]
    · have hout : ¬ j - (64 * i + lo) < n := by omega
      simp [hlo, hhi, hout]
  · simp [hlo]

theorem hdBits_testBit (h : BitVec 512) (i lo n k : Nat) (hn : lo + n ≤ 64) :
    (hdBits h i lo n).testBit k = (decide (k < n) && h.getLsbD (64 * i + lo + k)) := by
  rw [hdBits, bitsOf, Nat.testBit_mod_two_pow, Nat.testBit_div_two_pow, Rec_word, BitVec.testBit_toNat, BitVec.getLsbD_extractLsb']
  by_cases hk : k < n
  · have hin : k + lo < 64 := by omega
    have hplace : 64 * i + lo + k = 64 * i + (k + lo) := by omega
    simp [hk, hin, hplace]
  · simp [hk]

theorem hdBits_hdSet_same (h : BitVec 512) (i lo n v : Nat) (hn : lo + n ≤ 64) (hi : i < 8) : hdBits (hdSet h i lo n v) i lo n = v % 2 ^ n := by
  refine Nat.eq_of_testBit_eq fun k => ?_
  rw [hdBits_testBit _ _ _ _ _ hn, Nat.testBit_mod_two_pow]
  by_cases hk : k < n
  · rw [hdSet_getLsbD _ _ _ _ _ _ (by omega), if_pos (by omega), Nat.add_sub_cancel_left]
  · simp [hk]

theorem hdBits_hdSet_other (h : BitVec 512) (i lo n v j lo' n' : Nat) (hn : lo' + n' ≤ 64) (hj : j < 8)
    (hapart : 64 * j + lo' + n' ≤ 64 * i + lo ∨ 64 * i + lo + n ≤ 64 * j + lo') : hdBits (hdSet h i lo n v) j lo' n' = hdBits h j lo' n' := by
  refine Nat.eq_of_testBit_eq fun k => ?_
  rw [hdBits_testBit _ _ _ _ _ hn, hdBits_testBit _ _ _ _ _ hn]
  by_cases hk : k < n'
  · rw [hdSet_getLsbD _ _ _ _ _ _ (by omega), if_neg (by omega)]
  · simp [hk]

/-! ### Beacons (14 R371) -/

/-- A header of this chip with nothing after it. -/
def State.Beacon (s : State) (c : Chunk) : Prop := c.data = [] ∧ hdKind c.hdr = 0 ∧ hdHop c.hdr = s.self

theorem hdKind_zero : hdKind 0 = 0 := by simp [hdKind, hdBits, bitsOf, Rec_word]

/-- The header that a lane gets without a chunk's, or again, is a beacon. -/
theorem seal_beacon (s : State) (floor p l q : Nat) (c : Chunk) (hdata : c.data = []) (hkind : hdKind c.hdr = 0) :
    s.Beacon (s.seal floor p l q c) := by
  have hself : s.self % 2 ^ 11 = s.self := Nat.mod_eq_of_lt s.chipid.isLt
  refine ⟨hdata, ?_, ?_⟩
  · rw [hdKind] at hkind ⊢
    unfold State.seal
    iterate 9 rw [hdBits_hdSet_other _ _ _ _ _ _ _ _ (by omega) (by omega) (by omega)]
    exact hkind
  · rw [hdHop]
    unfold State.seal
    iterate 8 rw [hdBits_hdSet_other _ _ _ _ _ _ _ _ (by omega) (by omega) (by omega)]
    rw [hdBits_hdSet_same _ _ _ _ _ (by omega) (by omega), hself]

/-- The lanes once those listed have their headers. -/
def State.sealed (s : State) (ls : List ((Nat × Nat × Nat) × Nat)) (m : SMap (Option Chunk)) : SMap (Option Chunk) :=
  ls.foldl (fun m x =>
    m.set none (16 * x.1.1 + x.1.2.1)
      (some (s.seal x.2 x.1.1 x.1.2.1 x.1.2.2 ((m.get none (16 * x.1.1 + x.1.2.1)).getD { hdr := 0, data := [] })))) m

theorem sealLanes_eq (s : State) (ls : List ((Nat × Nat × Nat) × Nat)) :
    s.sealLanes ls = s.modFab fun f => { f with lanes := s.sealed ls f.lanes } := by
  unfold State.sealLanes
  suffices h : ∀ t : State, ls.foldl (fun t x =>
      t.modFab fun f => { f with lanes := f.lanes.set none (16 * x.1.1 + x.1.2.1) (some (s.seal x.2 x.1.1 x.1.2.1 x.1.2.2
        ((t.fab.lanes.get none (16 * x.1.1 + x.1.2.1)).getD { hdr := 0, data := [] }))) }) t =
      t.modFab fun f => { f with lanes := s.sealed ls f.lanes } from h s
  induction ls with
  | nil => exact fun t => rfl
  | cons x r ih => exact fun t => (ih _).trans rfl

/-- Lanes on which stand beacons alone keep to it, and each one listed has one. -/
theorem sealed_beacons (s : State) (ls : List ((Nat × Nat × Nat) × Nat)) (m : SMap (Option Chunk))
    (hm : ∀ k c, m.get none k = some c → s.Beacon c) :
    (∀ k c, (s.sealed ls m).get none k = some c → s.Beacon c) ∧
      ∀ k, ((m.get none k).isSome ∨ ∃ x ∈ ls, k = 16 * x.1.1 + x.1.2.1) → ((s.sealed ls m).get none k).isSome := by
  induction ls generalizing m with
  | nil => exact ⟨hm, fun k hk => hk.elim id fun ⟨x, hx, _⟩ => absurd hx List.not_mem_nil⟩
  | cons x r ih =>
    obtain ⟨hbeacon, hsome⟩ := ih (m.set none (16 * x.1.1 + x.1.2.1) (some (s.seal x.2 x.1.1 x.1.2.1 x.1.2.2
      ((m.get none (16 * x.1.1 + x.1.2.1)).getD { hdr := 0, data := [] })))) (by
        intro k c hc
        rw [SMap.get_set] at hc
        split at hc
        · cases hc
          cases hold : m.get none (16 * x.1.1 + x.1.2.1) with
          | none => exact seal_beacon _ _ _ _ _ _ rfl hdKind_zero
          | some old => exact seal_beacon _ _ _ _ _ _ (hm _ _ hold).1 (hm _ _ hold).2.1
        · exact hm k c hc)
    refine ⟨hbeacon, fun k hk => hsome k ?_⟩
    rw [SMap.get_set]
    by_cases hkx : k = 16 * x.1.1 + x.1.2.1
    · exact .inl (by rw [if_pos hkx]; rfl)
    · rw [if_neg hkx]
      refine hk.imp id fun ⟨y, hy, hky⟩ => ?_
      rcases List.mem_cons.mp hy with rfl | hy
      · exact absurd hky hkx
      · exact ⟨y, hy, hky⟩

/-! ### What each event does -/

/-- The fabric logic as the lanes of slot `n` begin to be filled. -/
def State.clearLanes (s : State) (n : Nat) : State :=
  s.modFab fun f => { f with lanes := [], handed := f.handed.filter fun h => decide (n ≤ h.slot + 1) }

theorem clearLanes_self (s : State) (n : Nat) : (s.clearLanes n).self = s.self := rfl

theorem floorsMoved_self {s t : State} (h : s.FloorsMoved t) : t.self = s.self := by rw [State.self, h.chipid, State.self]

/-- Lanes of slot `n` at its deadline: those that transmit, with the floors they carry. -/
def State.lanesOut (s : State) (n : Nat) : List ((Nat × Nat × Nat) × Nat) :=
  (s.sending n).map fun x => (x, s.floorTo n (chipOn (rowPlane x.1) s.self x.2.2))

theorem mem_lanesOut {s : State} {n : Nat} {x : Nat × Nat × Nat} (h : x ∈ s.sending n) :
    (x, s.floorTo n (chipOn (rowPlane x.1) s.self x.2.2)) ∈ s.lanesOut n := by
  unfold State.lanesOut
  exact List.mem_map.mpr ⟨x, h, rfl⟩

/-- The lanes of slot `n` filled from what stands at its deadline. -/
def State.handover (s : State) (n : Nat) : State :=
  let s2 := s.clearLanes n
  let s3 := s2.fab.fwd.foldl (fun t x => t.forwardOne n x) s2
  let s4 := (packets (s3.fab.answers.filter fun a => s3.inTime n a.at_) s3.fab.answers.length).foldl (fun t l => t.answerOne n l) s3
  let s5 := (s4.sendAll n).sealLanes (s.lanesOut n)
  (s5.modFab fun f => { f with slot := n }).fabricWork

theorem exec_slotHandover (s : State) (n : Nat) (hnew : s.fab.slot < n) (hdue : 64 * n ≤ s.now + 48) :
    exec (.slotHandover n) s = .next (s.fabricWork.herdUpdates.handover n).issues := by
  refine congrArg (fun t => Outcome.next (State.issues t)) ?_
  rw [if_neg (by simp only [Bool.or_eq_true, decide_eq_true_eq]; omega)]
  unfold State.handover State.lanesOut State.clearLanes
  generalize s.fabricWork.herdUpdates = s1
  rfl

theorem forwards_none {s : State} (n : Nat) (hfwd : s.fab.fwd = []) : s.fab.fwd.foldl (fun t x => t.forwardOne n x) s = s := by
  rw [hfwd]; rfl

theorem answers_none {s : State} (n : Nat) (hans : s.fab.answers = []) :
    (packets (s.fab.answers.filter fun a => s.inTime n a.at_) s.fab.answers.length).foldl (fun t l => t.answerOne n l) s = s := by
  rw [hans]; rfl

theorem sendAll_none {s : State} (n : Nat) (hreqs : s.fab.reqs = []) : s.sendAll n = s := by
  unfold State.sendAll
  rw [hreqs]
  exact ite_self ..

/-- Where nothing waits, the lanes are filled with headers alone. -/
theorem handover_empty (s : State) (n : Nat) (hfwd : s.fab.fwd = []) (hans : s.fab.answers = []) (hreqs : s.fab.reqs = []) :
    s.handover n = (((s.clearLanes n).sealLanes (s.lanesOut n)).modFab fun f => { f with slot := n }).fabricWork := by
  have hfwd2 : (s.clearLanes n).fab.fwd = [] := hfwd
  have hans2 : (s.clearLanes n).fab.answers = [] := hans
  have hreqs2 : (s.clearLanes n).fab.reqs = [] := hreqs
  unfold State.handover
  generalize s.clearLanes n = u at hfwd2 hans2 hreqs2 ⊢
  dsimp only
  rw [forwards_none n hfwd2, answers_none n hans2, sendAll_none n hreqs2]

/-- The chip as it stands at the deadline of a slot for which nothing waits. -/
theorem floorsMoved_deadline {s : State} (hreqs : s.fab.reqs = []) (hrx : s.fab.rx = []) : s.FloorsMoved s.fabricWork.herdUpdates := (floorsMoved_fabricWork hrx hreqs).trans (floorsMoved_herdUpdates _)

/-- Every lane that transmits in it has a beacon. -/
theorem handover_beacons {s u : State} {n : Nat} (hmoved : s.FloorsMoved u) {p l : Nat} (hp : p < 8) (hl : l < 16) (hsends : (s.plane p).sends n l = true) :
    ∃ c, ((u.clearLanes n).sealLanes (u.lanesOut n)).fab.lanes.get none (16 * p + l) = some c ∧ s.Beacon c := by
  have hmem : (p, l, (portOn (rowPlane p) u.self + (u.plane p).offset n l) % 64) ∈ u.sending n := by
    refine List.mem_flatMap.mpr ⟨p, List.mem_range.mpr hp, List.mem_map.mpr ⟨l, List.mem_filter.mpr ⟨List.mem_range.mpr hl, ?_⟩, rfl⟩⟩
    rw [hmoved.sends, hsends]
  obtain ⟨hbeacon, hsome⟩ := sealed_beacons (u.clearLanes n) (u.lanesOut n) [] (fun k c h => absurd h nofun)
  have hlane := mem_lanesOut hmem
  generalize u.floorTo n _ = floor at hlane
  obtain ⟨c, hc⟩ := Option.isSome_iff_exists.mp (hsome (16 * p + l) (.inr ⟨_, hlane, rfl⟩))
  obtain ⟨hdata, hkind, hhop⟩ := hbeacon _ _ hc
  have hself : (u.clearLanes n).self = s.self := (clearLanes_self u n).trans (floorsMoved_self hmoved)
  rw [sealLanes_eq]
  exact ⟨c, hc, hdata, hkind, hhop.trans hself⟩

/-- Filling the lanes changes no memory, and nothing but lanes and the slot. -/
theorem fill_frame (s : State) (n : Nat) (ls : List ((Nat × Nat × Nat) × Nat)) {t : State}
    (ht : ((s.clearLanes n).sealLanes ls).modFab (fun f => { f with slot := n }) = t) :
    t.mem = s.mem ∧ t.fab.rx = s.fab.rx ∧ t.fab.reqs = s.fab.reqs ∧ t.fab.slot = n ∧ t.fab.lanes = ((s.clearLanes n).sealLanes ls).fab.lanes := by
  subst ht
  rw [sealLanes_eq]
  exact ⟨rfl, rfl, rfl, rfl, rfl⟩

/-- What the deadline of a slot for which nothing waits leaves. -/
theorem handover_gives {s : State} {n : Nat} (hreqs : s.fab.reqs = []) (hrx : s.fab.rx = []) (hfwd : s.fab.fwd = []) (hans : s.fab.answers = [])
    (hnew : s.fab.slot < n) (hdue : 64 * n ≤ s.now + 48) :
    ∃ t, exec (.slotHandover n) s = .next t ∧ t.res = .issued ∧ t.mem = s.mem ∧ t.fab.slot = n ∧
      ∀ p l, p < 8 → l < 16 → (s.plane p).sends n l = true → ∃ c, t.fab.lanes.get none (16 * p + l) = some c ∧ s.Beacon c := by
  have hexec := exec_slotHandover s n hnew hdue
  have hmoved := floorsMoved_deadline hreqs hrx
  generalize s.fabricWork.herdUpdates = u at hexec hmoved
  rw [handover_empty u n (hmoved.fwd.trans hfwd) (hmoved.answers.trans hans) (hmoved.reqs.trans hreqs)] at hexec
  generalize hv : State.modFab _ _ = v at hexec
  obtain ⟨hmem, hvrx, hvreqs, hslot, hlanes⟩ := fill_frame u n (u.lanesOut n) hv
  have hafter := floorsMoved_fabricWork (hvrx.trans (hmoved.rx.trans hrx)) (hvreqs.trans (hmoved.reqs.trans hreqs))
  generalize v.fabricWork = w at hexec hafter
  refine ⟨_, hexec, rfl, hafter.mem.trans (hmem.trans hmoved.mem), hafter.slot.trans hslot, fun p l hp hl hsends => ?_⟩
  obtain ⟨c, hc, hbeacon⟩ := handover_beacons hmoved hp hl hsends
  exact ⟨c, (congrArg (SMap.get none · (16 * p + l)) (hafter.lanes.trans hlanes)).trans hc, hbeacon⟩

section Header
variable {s : State} {p l slot : Nat} {h : BitVec 512}

/-- The chip once lane `l` has heard a header, of which the lane keeps that it has. -/
def State.heardLane (s : State) (p l slot : Nat) : State :=
  (s.modFab fun f => { f with heard := f.heard.set 0 (16 * p + l) (max (f.heard.get 0 (16 * p + l)) (slot + 1)) }).modPlane p fun y =>
    { y with locked := if y.locked.contains l then y.locked else l :: y.locked }

theorem heardLane_locked : l ∈ ((s.heardLane p l slot).plane p).locked := by
  rw [State.heardLane, modPlane_plane_same]
  dsimp only
  split
  · next hin => simpa using hin
  · exact List.mem_cons_self

/-- A good beacon is noted (14 R369). -/
theorem exec_slotHeader (hp : p < 8) (hl : l < 16) (hlight : (s.plane p).light = true) (hoff : (s.plane p).offset slot l ≠ 0)
    (hout : l ∉ (s.plane p).out) (hkind : hdKind h = 0) (hcheck : hdBits h 6 32 32 = hdCheck h [])
    (hhop : hdHop h = chipOn (rowPlane p) s.self (offsetTo ((s.plane p).offset slot l) (portOn (rowPlane p) s.self))) :
    exec (.slotHeaderReceive p l slot h []) s =
      .next (((s.heardLane p l slot).noteHeader p (offsetTo ((s.plane p).offset slot l) (portOn (rowPlane p) s.self)) slot h).fabricWork.herdUpdates).issues := by
  refine congrArg (fun t => Outcome.next (State.issues t)) ?_
  rw [if_neg (by simp [hlight, hoff, hout]; omega)]
  dsimp only
  rw [if_neg (by simp [hcheck, hkind]), if_neg (by simpa using hhop), if_pos List.isEmpty_nil, State.heardLane]

/-- What a good beacon leaves where no message and no request is there. -/
theorem slotHeader_gives (hp : p < 8) (hl : l < 16) (hlight : (s.plane p).light = true) (hoff : (s.plane p).offset slot l ≠ 0)
    (hout : l ∉ (s.plane p).out) (hrx : s.fab.rx = []) (hreqs : s.fab.reqs = []) (hkind : hdKind h = 0) (hcheck : hdBits h 6 32 32 = hdCheck h [])
    {q : Nat} (hq : offsetTo ((s.plane p).offset slot l) (portOn (rowPlane p) s.self) = q) (hhop : hdHop h = chipOn (rowPlane p) s.self q) :
    ∃ t, exec (.slotHeaderReceive p l slot h []) s = .next t ∧ t.res = .issued ∧ t.mem = s.mem ∧
      ((t.plane p).port q).freed = BitVec.ofNat 16 (hdBits h 6 0 16) ∧ ((t.plane p).ins.get {} q).chip = hdHop h ∧
      ((t.plane p).ins.get {} q).heard = true ∧ l ∈ (t.plane p).locked := by
  subst hq
  have hexec := exec_slotHeader hp hl hlight hoff hout hkind hcheck hhop
  generalize offsetTo ((s.plane p).offset slot l) (portOn (rowPlane p) s.self) = q at hexec
  have hlocked : l ∈ ((s.heardLane p l slot).plane p).locked := heardLane_locked
  have hmem : (s.heardLane p l slot).mem = s.mem := rfl
  have hrx1 : (s.heardLane p l slot).fab.rx = [] := hrx
  have hreqs1 : (s.heardLane p l slot).fab.reqs = [] := hreqs
  generalize s.heardLane p l slot = u at hexec hlocked hmem hrx1 hreqs1
  obtain ⟨hfreed, hchip, hheard, hlocked2⟩ := noteHeader_plane u p q slot h
  obtain ⟨hmem2, hrx2, hreqs2⟩ := noteHeader_frame u p q slot h
  generalize u.noteHeader p q slot h = v at hexec hfreed hchip hheard hlocked2 hmem2 hrx2 hreqs2
  have hmoved := floorsMoved_deadline (hreqs2.trans hreqs1) (hrx2.trans hrx1)
  generalize v.fabricWork.herdUpdates = w at hexec hmoved
  refine ⟨_, hexec, rfl, hmoved.mem.trans (hmem2.trans hmem), ?_, (hmoved.chip p q).trans hchip, (hmoved.heard p q).trans hheard, ?_⟩
  · exact (congrArg (fun m => (SMap.get {} m q).freed) (hmoved.fsc p)).trans hfreed
  · exact (hmoved.locked p).symm ▸ hlocked2.symm ▸ hlocked

end Header

/-! ### Switches, light, lines and lanes (14 R368 R378 R382 R383) -/

section Plane
variable {s : State} {who p : Nat} {val : Word}

theorem unhandAll_none (s : State) (p : Nat) (f : SentChunk → Bool) (h : s.fab.handed = []) : s.unhandAll p f = s := by
  rw [State.unhandAll, h]; rfl

theorem writePlact_gives (s : State) (p : Nat) (val : Word) :
    (s.writePlact p val).mem = s.mem ∧
      (s.writePlact p val).plane p =
        { s.plane p with armed := some (val.toNat, if val.toNat ≤ s.now then s.now / 64 + 1 else (val.toNat + 63) / 64) } := by
  unfold State.writePlact
  dsimp only
  split
  · exact ⟨rfl, by rw [planeRecord_plane, modPlane_plane_same]⟩
  · exact ⟨rfl, modPlane_plane_same ..⟩

/-- The plane as a store to PLCTL leaves its fields, before its light changes. -/
def Plane.controlled (x : Plane) (val : Word) : Plane :=
  { x with len1 := if x.bank then x.len1 else BitVec.ofNat 6 (bitsOf val 26 6)
           len0 := if x.bank then BitVec.ofNat 6 (bitsOf val 20 6) else x.len0
           rxbuf := if x.light || bitsOf val 8 6 = 0 then x.rxbuf else bitsOf val 8 6
           en := val.getLsbD 0 }

theorem writePlctl_on (hon : val.getLsbD 1 = true) (hdark : (s.plane p).light = false) :
    s.writePlctl p val = (s.modPlane p (·.controlled val)).lightOn p := by
  unfold State.writePlctl
  dsimp only
  rw [if_pos (by simp [hdark, hon])]
  rfl

theorem writePlctl_off (hoff : val.getLsbD 1 = false) (hlit : (s.plane p).light = true) :
    s.writePlctl p val = (s.modPlane p (·.controlled val)).lightOff p := by
  unfold State.writePlctl
  dsimp only
  rw [if_neg (by rw [hoff]; simp), if_pos (by rw [hoff, hlit]; rfl)]
  rfl

theorem lightOn_plane (s : State) (p : Nat) :
    (s.lightOn p).plane p = { s.plane p with light := true, lock := false, locked := [], litAt := s.now, stallAt := s.now, fsc := [], ins := [] } :=
  modPlane_plane_same s p fun x => { x with light := true, lock := false, locked := [], litAt := s.now, stallAt := s.now, fsc := [], ins := [] }

theorem lightOn_mem (s : State) (p : Nat) : (s.lightOn p).mem = s.mem := rfl

theorem lightOff_gives (hhanded : s.fab.handed = []) : (s.lightOff p).mem = s.mem ∧ (s.lightOff p).plane p = { s.plane p with light := false } := by
  unfold State.lightOff
  dsimp only
  rw [unhandAll_none]
  · exact ⟨rfl, modPlane_plane_same s p fun x => { x with light := false }⟩
  · exact hhanded

theorem lineFailure_gives {n : Nat} (hp : p < 8) (hn : n < 128) (hnew : n ∉ (s.plane p).failed) (hhanded : s.fab.handed = []) :
    ∃ t, exec (.lineFailure p n) s = .next t ∧ t.res = .issued ∧ t.mem = s.mem ∧ t.plane p = { s.plane p with failed := n :: (s.plane p).failed } := by
  have hgo : ¬ (decide (8 ≤ p) || decide (128 ≤ n) || (s.plane p).failed.contains n) = true := by simp [hnew]; omega
  have hplane := modPlane_plane_same s p fun y => { y with failed := n :: y.failed }
  have hexec : ∃ t : State, exec (.lineFailure p n) s = .next t.issues ∧ t.mem = s.mem ∧
      t.plane p = (s.modPlane p fun y => { y with failed := n :: y.failed }).plane p := by
    change ∃ t : State, Outcome.next (State.issues (ite _ s _)) = _ ∧ _
    have hnone : ∀ f, (s.modPlane p fun y => { y with failed := n :: y.failed }).unhandAll p f = s.modPlane p fun y => { y with failed := n :: y.failed } :=
      fun f => unhandAll_none _ p f hhanded
    rw [if_neg hgo, hnone, hnone]
    split
    · exact ⟨_, rfl, rfl, rfl⟩
    · split <;> exact ⟨_, rfl, rfl, rfl⟩
  obtain ⟨t, ht, hmem, hp⟩ := hexec
  exact ⟨_, ht, rfl, hmem, hp.trans hplane⟩

/-- What an armed switch does at the start of its slot (14 R367 R368). -/
theorem exec_bankSwitch {a n : Nat} (harmed : (s.plane p).armed = some (a, n)) (hdue : 64 * n ≤ s.now) :
    exec (.bankSwitch p) s = .next (State.issues
      (if (s.plane p).bankOk (!(s.plane p).bank) then s.modPlane p fun y => { y with armed := none, bad := false, bank := !y.bank, since := n }
        else (s.modPlane p fun y => { y with armed := none, bad := true }).planeRecord 0x05 p 0 0 0 0 a)) := by
  refine congrArg (fun t => Outcome.next (State.issues t)) ?_
  rw [harmed]
  exact if_neg (Nat.not_lt.mpr hdue)

theorem bankSwitch_gives {a n : Nat} (harmed : (s.plane p).armed = some (a, n)) (hdue : 64 * n ≤ s.now)
    (hok : (s.plane p).bankOk (!(s.plane p).bank) = true) :
    ∃ t, exec (.bankSwitch p) s = .next t ∧ t.res = .issued ∧ t.mem = s.mem ∧
      t.plane p = { s.plane p with armed := none, bad := false, bank := !(s.plane p).bank, since := n } := by
  have hexec := exec_bankSwitch harmed hdue
  rw [if_pos hok] at hexec
  exact ⟨_, hexec, rfl, rfl, modPlane_plane_same s p fun y => { y with armed := none, bad := false, bank := !y.bank, since := n }⟩

theorem bankSwitch_refused {a n : Nat} (harmed : (s.plane p).armed = some (a, n)) (hdue : 64 * n ≤ s.now)
    (hbad : (s.plane p).bankOk (!(s.plane p).bank) = false) :
    ∃ t, exec (.bankSwitch p) s = .next t ∧ t.res = .issued ∧ t.mem = s.mem ∧ t.plane p = { s.plane p with armed := none, bad := true } := by
  have hexec := exec_bankSwitch harmed hdue
  rw [if_neg (by rw [hbad]; decide)] at hexec
  exact ⟨_, hexec, rfl, rfl, modPlane_plane_same s p fun y => { y with armed := none, bad := true }⟩

theorem lightOn_gives (hreach : (reaches who && decide (p < 8)) = true) (hon : val.getLsbD 1 = true) (hdark : (s.plane p).light = false) :
    ∃ t, exec (.plctlLightOn who p val) s = .next t ∧ t.res = .issued ∧ t.mem = s.mem ∧ (t.plane p).light = true ∧ (t.plane p).lock = false ∧
      (t.plane p).litAt = s.now ∧ (t.plane p).fsc = [] ∧ (t.plane p).en = val.getLsbD 0 := by
  have hexec : exec (.plctlLightOn who p val) s = .next (s.writePlctl p val).issues :=
    congrArg (fun t => Outcome.next (State.issues t)) (if_pos (by rw [hreach, hon]; rfl))
  rw [writePlctl_on hon hdark] at hexec
  have hplane := lightOn_plane (s.modPlane p (·.controlled val)) p
  rw [modPlane_plane_same] at hplane
  have hmem : ((s.modPlane p (·.controlled val)).lightOn p).mem = s.mem := lightOn_mem ..
  exact ⟨_, hexec, rfl, hmem, congrArg Plane.light hplane, congrArg Plane.lock hplane, congrArg Plane.litAt hplane, congrArg Plane.fsc hplane,
    congrArg Plane.en hplane⟩

theorem lightOff_leaves (hreach : (reaches who && decide (p < 8)) = true) (hoff : val.getLsbD 1 = false) (hlit : (s.plane p).light = true)
    (hhanded : s.fab.handed = []) :
    ∃ t, exec (.plctlLightOff who p val) s = .next t ∧ t.res = .issued ∧ t.mem = s.mem ∧ (t.plane p).light = false ∧
      (t.plane p).en = val.getLsbD 0 := by
  have hexec : exec (.plctlLightOff who p val) s = .next (s.writePlctl p val).issues :=
    congrArg (fun t => Outcome.next (State.issues t)) (if_pos (by rw [hreach, hoff]; rfl))
  rw [writePlctl_off hoff hlit] at hexec
  have hhanded' : (s.modPlane p (·.controlled val)).fab.handed = [] := hhanded
  obtain ⟨hmem, hplane⟩ := lightOff_gives (p := p) hhanded'
  rw [modPlane_plane_same] at hplane
  exact ⟨_, hexec, rfl, hmem, congrArg Plane.light hplane, congrArg Plane.en hplane⟩

theorem exec_laneLock (hlit : (s.plane p).light = true) (hopen : (s.plane p).lock = false) (hdue : (s.plane p).litAt + 20000 ≤ s.counted) :
    exec (.laneLock p) s = .next (s.modPlane p fun y => { y with lock := true }).issues :=
  congrArg (fun t => Outcome.next (State.issues t)) (if_pos (by rw [hlit, hopen, decide_eq_true hdue, Bool.or_true]; rfl))

theorem exec_retuneStart {l : Nat} (hp : p < 8) (hl : l < 16) (hin : l ∉ (s.plane p).out) :
    exec (.retuneStart p l) s =
      .next ((s.modPlane p fun y => { y with out := l :: y.out, retcnt := satInc y.retcnt 1 }).planeRecord 0x03 p l 0 0 0 0).issues :=
  congrArg (fun t => Outcome.next (State.issues t)) (if_neg (by simp [hin]; omega))

theorem exec_retuneEnd {l : Nat} (hp : p < 8) (hout : l ∈ (s.plane p).out) :
    exec (.retuneEnd p l) s = .next ((s.modPlane p fun y => { y with out := y.out.filter (· != l) }).planeRecord 0x04 p l 0 0 0 0).issues :=
  congrArg (fun t => Outcome.next (State.issues t)) (if_neg (by simp [hout]; omega))

/-- A chunk held too long is discarded, and its buffer freed (14 R373 R374). -/
theorem forwardHold_gives {y : Held} {r : List Held} (hfwd : s.fab.fwd = y :: r) (hdue : y.at_ + s.fab.rto * 1000 ≤ s.counted) (hy : y.plane < 8)
    (hcopy : y.copy = false) :
    ∃ t, exec (.forwardHoldExpiry 0) s = .next t ∧ t.res = .issued ∧ t.mem = s.mem ∧ t.fab.fwd = r ∧
      (t.plane y.plane).port y.port = { (s.plane y.plane).port y.port with rxfreed := ((s.plane y.plane).port y.port).rxfreed + 1 } := by
  have hout : s.heldOut y = true := decide_eq_true hdue
  have hexec : exec (.forwardHoldExpiry 0) s =
      .next (State.issues (((s.modFab fun f => { f with fwd := r }).freeBuf y.plane y.port).planeRecord 0x07 y.plane (hdLane y.chunk.hdr) 0 y.port
        (hdHop y.chunk.hdr) 0)) := by
    refine congrArg (fun t => Outcome.next (State.issues t)) ?_
    rw [hfwd]
    dsimp only [List.getElem?_cons_zero]
    rw [if_neg (by rw [hout]; decide), if_neg (by rw [hcopy]; decide), State.modFab, hfwd]
    rfl
  have hplane := freeBuf_plane (s.modFab fun f => { f with fwd := r }) y.plane y.port hy
  have hkeep : ((s.modFab fun f => { f with fwd := r }).freeBuf y.plane y.port).mem = s.mem ∧
      ((s.modFab fun f => { f with fwd := r }).freeBuf y.plane y.port).fab.fwd = r := by
    rw [State.freeBuf, if_neg (by omega)]
    exact ⟨rfl, rfl⟩
  exact ⟨_, hexec, rfl, hkeep.1, hkeep.2, (congrArg (Plane.port · y.port) hplane).trans (modPort_port ..)⟩

end Plane

/-- Settles O39: each event changes its plane alone; at a deadline with nothing waiting, the headers are beacons. -/
theorem fabricPlanes : Obligations.FabricPlanes := by
  unfold Obligations.FabricPlanes
  intro s who p val hwho hp x result
  have hreach : (reaches who && decide (p < 8)) = true := by
    simp [reaches, hp]; omega
  refine ⟨fun hlater => ?_, fun hpast => ?_, fun a n harmed hdue => ⟨fun hok => ?_, fun hbad => ?_⟩, fun hon hdark => ?_, fun hoff hlit hhanded => ?_,
    fun hlit hopen hdue => ?_, fun n hn hnew hhanded => ?_, fun n => ?_, fun l hl hin => ?_, fun l hout => ?_, ?_, ?_, ?_⟩
  · obtain ⟨hmem, hplane⟩ := writePlact_gives s p val
    exact ⟨_, congrArg (fun t => Outcome.next (State.issues t)) (if_pos hreach), rfl, hmem, hplane.trans (by rw [if_neg (Nat.not_le.mpr hlater)])⟩
  · obtain ⟨hmem, hplane⟩ := writePlact_gives s p val
    exact ⟨_, congrArg (fun t => Outcome.next (State.issues t)) (if_pos hreach), rfl, hmem, hplane.trans (by rw [if_pos hpast])⟩
  · exact bankSwitch_gives harmed hdue hok
  · exact bankSwitch_refused harmed hdue hbad
  · exact lightOn_gives hreach hon hdark
  · exact lightOff_leaves hreach hoff hlit hhanded
  · exact ⟨_, exec_laneLock hlit hopen hdue, rfl, rfl, modPlane_plane_same s p fun y => { y with lock := true }⟩
  · exact lineFailure_gives hp hn hnew hhanded
  · exact ⟨_, congrArg (fun t => Outcome.next (State.issues t)) (if_neg (Nat.not_le.mpr hp)), rfl, rfl,
      modPlane_plane_same s p fun y => { y with failed := y.failed.filter (· != n) }⟩
  · exact ⟨_, exec_retuneStart hp hl hin, rfl, rfl, modPlane_plane_same s p fun y => { y with out := l :: y.out, retcnt := satInc y.retcnt 1 }⟩
  · exact ⟨_, exec_retuneEnd hp hout, rfl, rfl, modPlane_plane_same s p fun y => { y with out := y.out.filter (· != l) }⟩
  · intro l slot h hl hlit hoff hout hrx hreqs hkind hcheck hhop
    exact slotHeader_gives hp hl hlit hoff hout hrx hreqs hkind hcheck rfl hhop
  · rintro y r hfwd hdue rfl hcopy
    exact forwardHold_gives hfwd hdue hp hcopy
  · intro n hnew hdue hreqs hrx hfwd hans
    obtain ⟨t, ht, hres, hmem, hslot, hlanes⟩ := handover_gives hreqs hrx hfwd hans hnew hdue
    exact ⟨t, ht, hres, hmem, hslot, fun l hl hsends => hlanes p l hp hl hsends⟩

end Sys2Proof.Machine

/-! LEMMAS and PROOF of O40: ordered delivery, the watermark's stall, pod barriers and pod time (15 R388 to R402). -/

namespace Sys2Proof.Machine

open Host (Outcome)

/-! ### Ordered messages (15 R394 R395) -/

theorem exec_orderedDelivery_put {s : State} {m : RxMsg} (hnext : s.fabricWork.nextOrdered = some m) (hrun : s.fabricWork.dbgHalt = false)
    (hkind : hdKind m.hdr = 1) (hlate : s.fabricWork.isLate m = false) (hpage : m.page = none) {u : State}
    (hput : s.fabricWork.performPut m = .done u) :
    exec .orderedDelivery s = .next ({ u with fab := { u.fab with key := some (hdKey m.hdr) } } : State).issues := by
  have hperform : s.fabricWork.performOrdered m = .done u := by
    unfold State.performOrdered
    rw [hkind]
    exact hput
  have hdeliver : s.fabricWork.deliver m = { u with fab := { u.fab with key := some (hdKey m.hdr) } } := by
    unfold State.deliver
    rw [if_neg (by simp [State.unanswered, hpage]), hperform]
    exact if_neg (by rw [hlate]; decide)
  refine congrArg (fun t => Outcome.next (State.issues t)) ?_
  dsimp only
  rw [hnext]
  exact (if_neg (by rw [hrun]; decide)).trans hdeliver

/-- Freed buffers and a message that leaves change no memory, and no other message. -/
theorem freeBuf_frame (s : State) (p q : Nat) : (s.freeBuf p q).mem = s.mem ∧ (s.freeBuf p q).fab = s.fab := by
  unfold State.freeBuf
  split <;> exact ⟨rfl, rfl⟩

theorem freeChunks_frame (s : State) (m : RxMsg) : (s.freeChunks m).mem = s.mem ∧ (s.freeChunks m).fab = s.fab := by
  unfold State.freeChunks
  induction m.chunks.filter (!·.done) generalizing s with
  | nil => exact ⟨rfl, rfl⟩
  | cons c r ih =>
    obtain ⟨hmem, hfab⟩ := ih (s.freeBuf c.plane c.port)
    obtain ⟨hmem1, hfab1⟩ := freeBuf_frame s c.plane c.port
    exact ⟨hmem.trans hmem1, hfab.trans hfab1⟩

theorem leavePlace_frame (s : State) (m : RxMsg) : (s.leavePlace m).mem = s.mem ∧ (s.leavePlace m).fab = s.fab := by
  unfold State.leavePlace
  split <;> exact ⟨rfl, rfl⟩

theorem incompleteDiscard_gives {s : State} {idx : Nat} {m : RxMsg} (hm : s.orderedRx[idx]? = some m) (hpart : m.whole = false)
    (hrun : s.dbgHalt = false) (hdue : m.at_ + (s.fab.retry + 2) * s.fab.rto * 1000 ≤ s.counted) :
    ∃ t, exec (.orderedIncompleteDiscard idx) s = .next t ∧ t.res = .issued ∧ t.fab.rx = s.fab.rx.erase m ∧ t.mem = s.mem := by
  have hexec : exec (.orderedIncompleteDiscard idx) s =
      .next (State.issues ((((s.freeChunks m).dropMsg m).leavePlace m).fabRecord 0 0x22 0 0 0 0 0 (hdStamp m.hdr))) := by
    refine congrArg (fun t => Outcome.next (State.issues t)) ?_
    rw [hm]
    exact if_neg (by simp [hpart, hrun, hdue])
  obtain ⟨hmem, hfab⟩ := freeChunks_frame s m
  obtain ⟨hmem1, hfab1⟩ := leavePlace_frame ((s.freeChunks m).dropMsg m) m
  have hrx : ((s.freeChunks m).dropMsg m).fab.rx = s.fab.rx.erase m := congrArg (fun f => f.rx.erase m) hfab
  exact ⟨_, hexec, rfl, (congrArg Fabric.rx hfab1).trans hrx, hmem1.trans hmem⟩

/-! ### The stall of an input (15 R397) -/

theorem inputs_plane {s : State} {p q : Nat} (h : (p, q) ∈ s.inputs) : p < 8 := by
  unfold State.inputs at h
  obtain ⟨x, hx, hin⟩ := List.mem_flatMap.mp h
  dsimp only at hin
  split at hin
  · exact absurd hin List.not_mem_nil
  · obtain ⟨y, -, hy⟩ := List.mem_map.mp hin
    rw [← (Prod.mk.inj hy).1]
    exact List.mem_range.mp hx

/-- The record of an input that stands still (14 R386, 15 R397). -/
def stallRecord (s : State) (p q : Nat) : EvRec :=
  { kind := 0x10, code := cStall, w2 := BitVec.ofNat 64 (0x20 + 2 ^ 8 * p + 2 ^ 12 * 0), w3 := BitVec.ofNat 64 q
    w4 := BitVec.ofNat 64 (s.input (p, q)).chip, w5 := BitVec.ofNat 64 (s.input (p, q)).pf }

theorem watermarkStall_gives {s : State} {p q : Nat} (hrun : s.paused = false) (hin : (p, q) ∈ s.inputs)
    (hdue : max (s.input (p, q)).since (s.plane p).stallAt + s.fab.stall * 1000 ≤ s.counted) :
    ∃ t, exec (.watermarkStall p q) s = .next t ∧ t.res = .issued ∧ (t.input (p, q)).since = s.now ∧ (t.input (p, q)).pf = (s.input (p, q)).pf ∧
      ∃ r, (t.die (p / 2)).evWait = (s.die (p / 2)).evWait ++ [r] ∧ r.kind = 0x10 ∧ r.code = cStall ∧ r.w2.toNat = 0x20 + 2 ^ 8 * p := by
  have hp := inputs_plane hin
  have hexec : exec (.watermarkStall p q) s = .next (State.issues
      ((s.modPlane p fun x => { x with ins := x.ins.set {} q { s.input (p, q) with since := s.now } }).planeRecord 0x20 p 0 cStall q
        (s.input (p, q)).chip (s.input (p, q)).pf)) := by
    refine congrArg (fun t => Outcome.next (State.issues t)) ?_
    refine if_neg ?_
    simp only [hrun, List.contains_iff_mem.mpr hin, Bool.not_true, Bool.false_or, decide_eq_true_eq]
    omega
  have hinput : (s.modPlane p fun x => { x with ins := x.ins.set {} q { s.input (p, q) with since := s.now } }).input (p, q) =
      { s.input (p, q) with since := s.now } := by
    rw [State.input, modPlane_plane_same]
    exact SMap.get_set_same ..
  have hrecord : ((s.modPlane p fun x => { x with ins := x.ins.set {} q { s.input (p, q) with since := s.now } }).planeRecord 0x20 p 0 cStall q
      (s.input (p, q)).chip (s.input (p, q)).pf).input (p, q) = { s.input (p, q) with since := s.now } := hinput
  generalize hX : State.planeRecord _ 0x20 p 0 cStall q _ _ = X at hexec hrecord
  have hwait : (X.die (p / 2)).evWait = (s.die (p / 2)).evWait ++ [stallRecord s p q] := by
    rw [← hX]
    exact congrArg Die.evWait (SMap.get_set_same ..)
  have hsince : (X.input (p, q)).since = s.now := by rw [hrecord]
  have hpf : (X.input (p, q)).pf = (s.input (p, q)).pf := by rw [hrecord]
  refine ⟨X.issues, hexec, rfl, hsince, hpf, stallRecord s p q, hwait, rfl, rfl, ?_⟩
  rw [stallRecord, BitVec.toNat_ofNat]
  omega

/-! ### Pod barriers (15 R401 R402) -/

theorem bar_setBar (s : State) (k : Nat) (b : PodBar) : (s.setBar k b).bar k = b := SMap.get_set_same ..

section Bar
variable {s : State} {who k : Nat} {val : Word} (hwho : 96 ≤ who ∧ who ≤ 100) (hk : k < 4)
include hwho hk

theorem exec_pbarArrive : exec (.pbarArrive who k val) s = .next (s.writePbar k val).issues :=
  congrArg (fun t => Outcome.next (State.issues t)) (if_pos (by simp [reaches, hwho, hk]))

theorem pbarArrive_gives (hgo : val.getLsbD 32 = true) (hfresh : (s.bar k).arrived = false) :
    ∃ t, exec (.pbarArrive who k val) s = .next t ∧ t.res = .issued ∧ t.bar k = { s.bar k with arrived := true } := by
  have hwrite : s.writePbar k val = s.setBar k { s.bar k with arrived := true } := if_pos (by rw [hgo, hfresh]; rfl)
  have hexec := exec_pbarArrive (s := s) (val := val) hwho hk
  rw [hwrite] at hexec
  exact ⟨_, hexec, rfl, bar_setBar s k _⟩

theorem pbarArrive_nothing (hno : val.getLsbD 32 = false ∨ (s.bar k).arrived = true) : exec (.pbarArrive who k val) s = .next s.issues := by
  have hwrite : s.writePbar k val = s := if_neg (by rcases hno with h | h <;> rw [h] <;> simp)
  have hexec := exec_pbarArrive (s := s) (val := val) hwho hk
  rwa [hwrite] at hexec

end Bar

theorem podBarrierComplete_gives {s : State} {k : Nat} (hk : k < 4) (hherd : (s.bar k).herd = true) (hmem : (s.bar k).members = [])
    (hwait : (s.bar k).waiting = []) (hpeers : ∀ j, j < 64 → s.peerCounts false k j = true) :
    ∃ t, exec (.podBarrierComplete k) s = .next t ∧ t.res = .issued ∧ t.bar k = { gen := (s.bar k).gen + 1 } := by
  have hup : s.herdUpdate k = s := if_neg (by rw [hherd]; simp)
  have hall : (List.range 64).all (fun q => s.peerCounts false k q) = true := List.all_eq_true.mpr fun q hq => hpeers q (List.mem_range.mp hq)
  have hexec : exec (.podBarrierComplete k) s = .next (State.issues (s.setBar k { gen := (s.bar k).gen + 1 })) := by
    refine congrArg (fun t => Outcome.next (State.issues t)) ?_
    rw [hup]
    dsimp only
    rw [if_neg (by rw [hherd, hall]; simpa using hk), hmem, hwait]
    rfl
  exact ⟨_, hexec, rfl, bar_setBar ..⟩

/-! ### Pod time (15 R388 R389) -/

theorem slewed_zero (dt : Nat) : slewed 0 dt = 0 := by unfold slewed; omega

theorem stepRate_pos (k : Nat) : 0 < stepRate k := by
  unfold stepRate
  split <;> decide

/-- Pod time set to `x`, with nothing to slew. -/
theorem now_rebase (s : State) (x : Nat) (f : PodTime → PodTime) (hslew : ∀ p, (f p).slew = 0) : ((s.rebase x).modTime f).now = x := by
  have hleft : (s.sinceBase s.cycle).2 / stepRate s.step_ = 0 := Nat.div_eq_of_lt (Nat.mod_lt _ (stepRate_pos _))
  unfold State.rebase
  rcases hs : s.sinceBase s.cycle with ⟨dt, left⟩
  rw [hs] at hleft
  dsimp only at hleft ⊢
  have hdt : ((s.cycle - s.cycle) * 10 + left) / stepRate s.step_ = 0 := by rw [Nat.sub_self, Nat.zero_mul, Nat.zero_add, hleft]
  change ((x + ((s.cycle - s.cycle) * 10 + left) / stepRate s.step_ : Nat) + slewed (f _).slew _ : Int).toNat = x
  rw [hslew, slewed_zero, hdt]
  omega

/-- What an offset that is taken leaves of pod time. -/
theorem discipline_acq (s : State) (off : Int) :
    (s.discipline off).pt.acq = true ∧ (s.pt.acq = false → (s.discipline off).now = ((s.now : Int) - off).toNat) := by
  unfold State.discipline
  dsimp only
  split
  · refine ⟨rfl, fun _ => now_rebase _ _ _ fun _ => rfl⟩
  · next h =>
    have hacq : s.pt.acq = true := by
      by_contra hno
      exact h (by simp [hno])
    refine ⟨?_, fun hno => absurd (hacq.symm.trans hno) nofun⟩
    unfold State.rebase
    obtain ⟨dt, left⟩ := (s.modTime fun p => { p with offs := offsField off }).sinceBase (s.modTime fun p => { p with offs := offsField off }).cycle
    exact hacq

theorem setSync_on (s : State) : s.setSync true = s.modTime fun p => { p with sync := true } := if_neg (by simp)

section PodTime
variable {s : State} {who : Nat} {val : Word}

theorem exec_ptpMessage (hroot : s.pt.root = true) (t1 t2 t3 t4 : Nat) :
    exec (.ptpMessage ⟨s.pt.dom.toNat, t1⟩ t2 t3 t4) s = .next (State.issues
      (((s.discipline ((((t2 : Int) - t1) - ((t4 : Int) - t3)) / 2)).modTime fun p => { p with ext := true, hold := false }).modTime
        fun p => { p with sync := true })) := by
  refine congrArg (fun t => Outcome.next (State.issues t)) ?_
  rw [if_neg (by simp [hroot])]
  exact setSync_on _

theorem ptpMessage_gives (hroot : s.pt.root = true) (t1 t2 t3 t4 : Nat) :
    ∃ t, exec (.ptpMessage ⟨s.pt.dom.toNat, t1⟩ t2 t3 t4) s = .next t ∧ t.res = .issued ∧ t.pt.ext = true ∧ t.pt.hold = false ∧ t.pt.sync = true ∧
      t.pt.acq = true ∧ (s.pt.acq = false → t.now = ((s.now : Int) - (((t2 : Int) - t1) - ((t4 : Int) - t3)) / 2).toNat) := by
  have hexec := exec_ptpMessage hroot t1 t2 t3 t4
  obtain ⟨hacq, hnow⟩ := discipline_acq s ((((t2 : Int) - t1) - ((t4 : Int) - t3)) / 2)
  generalize s.discipline ((((t2 : Int) - t1) - ((t4 : Int) - t3)) / 2) = u at hexec hacq hnow
  exact ⟨_, hexec, rfl, rfl, rfl, rfl, hacq, hnow⟩

theorem exec_ptpMessage_other {sync : PtpSync} {t2 t3 t4 : Nat} (hno : s.pt.root = false ∨ sync.dom ≠ s.pt.dom.toNat) :
    exec (.ptpMessage sync t2 t3 t4) s = .next s.issues :=
  congrArg (fun t => Outcome.next (State.issues t)) (if_pos (by rcases hno with h | h <;> simp [h]))

variable (hwho : 96 ≤ who ∧ who ≤ 100)
include hwho

theorem exec_ptset : exec (.ptset who val) s = .next (s.writePtset val).issues :=
  congrArg (fun t => Outcome.next (State.issues t)) (if_pos (by simp [reaches, hwho]))

theorem ptset_gives (hroot : s.pt.root = true) (hext : s.pt.ext = false) :
    ∃ t, exec (.ptset who val) s = .next t ∧ t.res = .issued ∧ t.now = val.toNat ∧ t.pt.sync = true ∧ t.pt.acq = true := by
  have hexec := exec_ptset (s := s) (val := val) hwho
  have hwrite : s.writePtset val = (s.rebase val.toNat).modTime fun p => { p with sync := true, acq := true, slew := 0 } :=
    if_neg (by simp [hext, hroot])
  rw [hwrite] at hexec
  have hnow : ((s.rebase val.toNat).modTime fun p => { p with sync := true, acq := true, slew := 0 }).now = val.toNat := now_rebase _ _ _ fun _ => rfl
  exact ⟨_, hexec, rfl, hnow, rfl, rfl⟩

theorem exec_ptset_follower (hroot : s.pt.root = false) : exec (.ptset who val) s = .next s.issues := by
  have hwrite : s.writePtset val = s := if_pos (by simp [hroot])
  have hexec := exec_ptset (s := s) (val := val) hwho
  rwa [hwrite] at hexec

omit hwho

theorem timeParentLost_root (hroot : s.pt.root = true) :
    ∃ t, exec .timeParentLost s = .next t ∧ t.res = .issued ∧ t.pt.hold = true ∧ t.pt.ext = false ∧ t.pt.sync = s.pt.sync := by
  have hexec : exec .timeParentLost s = .next (State.issues
      (((s.modTime fun p => { p with hold := true }).modTime fun p => { p with ext := false }).fabRecord 0 0x23 0 0 0 0 0 0)) :=
    congrArg (fun t => Outcome.next (State.issues (State.fabRecord t 0 0x23 0 0 0 0 0 0))) (if_pos hroot)
  exact ⟨_, hexec, rfl, rfl, rfl, rfl⟩

theorem timeParentLost_follower (hroot : s.pt.root = false) :
    ∃ t, exec .timeParentLost s = .next t ∧ t.res = .issued ∧ t.pt.hold = true ∧ t.pt.sync = false := by
  have hexec : exec .timeParentLost s = .next (State.issues
      (((s.modTime fun p => { p with hold := true }).setSync false).fabRecord 0 0x23 0 0 0 0 0 0)) :=
    congrArg (fun t => Outcome.next (State.issues (State.fabRecord t 0 0x23 0 0 0 0 0 0))) (if_neg (by rw [hroot]; decide))
  refine ⟨_, hexec, rfl, ?_⟩
  unfold State.setSync
  dsimp only
  split <;> exact ⟨rfl, rfl⟩

end PodTime

/-- Settles O40: each event by the conditions of its rule. -/
theorem fabricOrder : Obligations.FabricOrder := by
  unfold Obligations.FabricOrder
  intro s who k p q idx val hwho result
  refine ⟨fun m hnext hrun hkind hlate hpage u hput => exec_orderedDelivery_put hnext hrun hkind hlate hpage hput,
    fun m hm hpart hrun hdue => incompleteDiscard_gives hm hpart hrun hdue, fun hpaused => ?_,
    fun hrun hin hdue => watermarkStall_gives hrun hin hdue, fun hk => ⟨pbarArrive_gives hwho hk, pbarArrive_nothing hwho hk, ?_⟩,
    fun hroot => ⟨ptpMessage_gives hroot, ptset_gives hwho hroot, timeParentLost_root hroot⟩,
    fun sync t2 t3 t4 hdom => exec_ptpMessage_other (.inr hdom),
    fun hroot => ⟨fun sync t2 t3 t4 => exec_ptpMessage_other (.inl hroot), exec_ptset_follower hwho hroot, timeParentLost_follower hroot⟩⟩
  · exact congrArg (fun t => Outcome.next (State.issues t)) (if_pos (by rw [hpaused]; rfl))
  · exact fun hherd hmem hwait hpeers => podBarrierComplete_gives hk hherd hmem hwait hpeers

end Sys2Proof.Machine

/-! LEMMAS and PROOF of O41: cadence, governor, clock steps, stacks, sensors, gating and L2 windows (13 R342 to R361, 12 R329). -/

namespace Sys2Proof.Machine

open Host (Outcome)

theorem modCoreAt_core_same (s : State) (c : Nat) (f : Core → Core) : (s.modCoreAt c f).core c = f (s.core c) := by
  rw [State.modCoreAt, setCore_core, if_pos rfl]

theorem modDie_die_same (s : State) (d : Nat) (f : Die → Die) : (s.modDie d f).die d = f (s.die d) := by
  rw [State.modDie, setDie_die, if_pos rfl]

/-- Where no matrix operation is queued, the array has nothing to do. -/
theorem settleCore_idle {s : State} {n c : Nat} (h : (s.core n).mq = []) : s.settleCore n c = s := by
  rw [State.settleCore, h]
  exact if_pos rfl

/-! ### Alerts (13 R360 R361) -/

/-- The state differs in the thermal alert block alone. -/
structure State.AlertMoved (s t : State) : Prop where
  mem : t.mem = s.mem
  cores : t.cores = s.cores
  hbm : t.hbm = s.hbm

theorem State.AlertMoved.trans {s t u : State} (h : s.AlertMoved t) (g : t.AlertMoved u) : s.AlertMoved u :=
  ⟨g.mem.trans h.mem, g.cores.trans h.cores, g.hbm.trans h.hbm⟩

theorem State.AlertMoved.core {s t : State} (h : s.AlertMoved t) (n : Nat) : t.core n = s.core n := by rw [State.core, h.cores, State.core]

theorem alertMoved_alert (s : State) (m : BitVec 8) : s.AlertMoved (s.alert m) := by
  unfold State.alert
  split <;> exact ⟨rfl, rfl, rfl⟩

theorem alertMoved_alertCore (s : State) (c : Nat) (m : BitVec 8) : s.AlertMoved (s.alertCore c m) := by
  unfold State.alertCore
  split
  · exact ⟨rfl, rfl, rfl⟩
  · exact ⟨(alertMoved_alert s m).mem, (alertMoved_alert s m).cores, (alertMoved_alert s m).hbm⟩

theorem alertMoved_alertStack (s : State) (h : Nat) (m : BitVec 8) : s.AlertMoved (s.alertStack h m) := by
  unfold State.alertStack
  split
  · exact ⟨rfl, rfl, rfl⟩
  · exact ⟨(alertMoved_alert s m).mem, (alertMoved_alert s m).cores, (alertMoved_alert s m).hbm⟩

theorem alert_status {s : State} {m : BitVec 8} (hm : m ≠ 0) : (s.alert m).alertStatus = s.alertStatus ||| m := by
  rw [State.alert, if_neg hm]

theorem alertStack_status {s : State} {h : Nat} {m : BitVec 8} (hm : m ≠ 0) : (s.alertStack h m).alertStatus = s.alertStatus ||| m := by
  rw [State.alertStack, if_neg hm]
  exact alert_status hm

/-! ### Cadence (13 R342 R343) -/

section Cadence
variable {s : State} {who c : Nat} {val : Word}

theorem bitsOf_five (val : Word) : bitsOf val 0 5 = val.toNat % 32 := bitsOf_low val 5

/-- The core once a cadence is written to it. -/
def Core.cadenced (k : Core) (v cycle : Nat) : Core :=
  { k with cad := BitVec.ofNat 5 v, cadWas := k.cadAt cycle, cadFrom := cycle + 1, pv := false }

/-- What a cadence that takes effect leaves of its core: of a forced one the task may overrun too. -/
theorem writeMxcad_now (hlow : 1 ≤ val.toNat % 32) (hhigh : val.toNat % 32 ≤ 16) (htrip : (s.core c).trip = false) (hmq : (s.core c).mq = [])
    (hnow : val.getLsbD 8 = true ∨ (s.core c).stampHeld = false) :
    s.writeMxcad c val = s.modCoreAt c fun k =>
      if val.getLsbD 8 then (k.cadenced (val.toNat % 32) s.cycle).overrun else k.cadenced (val.toNat % 32) s.cycle := by
  unfold State.writeMxcad
  dsimp only
  rw [bitsOf_five, if_neg (by simp; omega), if_neg (by simp [htrip]), if_pos (by rcases hnow with h | h <;> simp [h]), settleCore_idle hmq]
  rfl

theorem writeMxcad_pends (hlow : 1 ≤ val.toNat % 32) (hhigh : val.toNat % 32 ≤ 16) (htrip : (s.core c).trip = false)
    (hforce : val.getLsbD 8 = false) (hheld : (s.core c).stampHeld = true) :
    s.writeMxcad c val = s.modCoreAt c fun x => { x with pendCad := BitVec.ofNat 5 (val.toNat % 32), pv := true } := by
  unfold State.writeMxcad
  dsimp only
  rw [bitsOf_five, if_neg (by simp; omega), if_neg (by simp [htrip]), if_neg (by rw [hforce, hheld]; decide)]

/-- The cadence of a core to which one is written is the new one from the next cycle on. -/
theorem cadenced_gives (k : Core) (v cycle : Nat) (b : Bool) (hv : v ≤ 16) :
    let y := if b then (k.cadenced v cycle).overrun else k.cadenced v cycle
    y.cad.toNat = v ∧ y.pv = false ∧ y.cadAt cycle = k.cadAt cycle ∧ ∀ x, cycle < x → (y.cadAt x).toNat = v := by
  intro y
  have hcad : y.cad = BitVec.ofNat 5 v ∧ y.cadWas = k.cadAt cycle ∧ y.cadFrom = cycle + 1 ∧ y.pv = false := by
    cases b <;> exact ⟨rfl, rfl, rfl, rfl⟩
  obtain ⟨hnew, hwas, hfrom, hpv⟩ := hcad
  have hnat : (BitVec.ofNat 5 v).toNat = v := by rw [BitVec.toNat_ofNat]; omega
  refine ⟨by rw [hnew, hnat], hpv, ?_, fun x hx => ?_⟩
  · rw [Core.cadAt, hfrom, if_pos (Nat.lt_succ_self _), hwas]
  · rw [Core.cadAt, hfrom, if_neg (by omega), hnew, hnat]

end Cadence

/-! ### The governor (13 R344 to R346) -/

/-- A window in which nothing works, with nothing that waits, loses RAMP. -/
theorem endWindow_idle {k : Core} {ramp : Nat} (hinj : k.inj = []) (hgather : k.gatheredFor = none) :
    k.endWindow ramp false = { k with win := k.win + 1, load := k.load - ramp } := by
  have hreal : ∀ w, k.realLoad w = 0 := by
    intro w
    rw [Core.realLoad, hinj]
    rfl
  have hload : k.windowLoad ramp false = k.load - ramp := by
    rw [Core.windowLoad, hreal, hreal, hgather]
    simp
  rw [Core.endWindow, hload, hinj, hgather]
  simp

theorem waitsSince_idle {k : Core} (hmq : k.mq = []) : k.waitsSince = none := by
  rw [Core.waitsSince, hmq]
  rfl

theorem govern_idle {k : Core} {ramp c : Nat} (hinj : k.inj = []) (hmq : k.mq = []) (hgather : k.gatheredFor = none) (hc : c / 64 = k.win + 1) :
    k.govern ramp c = { k with win := k.win + 1, load := k.load - ramp } := by
  have honce : k.governTo ramp none c 200 = (k.endWindow ramp false).governTo ramp none c 199 := if_neg (by omega)
  rw [Core.govern, waitsSince_idle hmq, honce, endWindow_idle hinj hgather]
  exact if_pos (by rw [hc])

/-! ### Clock steps (13 R350) -/

/-- Neither memory, nor pod time, nor the clock and its step, is different. -/
structure State.ClockKept (s t : State) : Prop where
  mem : t.mem = s.mem
  timeBase : t.timeBase = s.timeBase
  cycleBase : t.cycleBase = s.cycleBase
  timeRem : t.timeRem = s.timeRem
  cycle : t.cycle = s.cycle
  step : t.step_ = s.step_
  pt : t.pt = s.pt
  clk : t.clk = s.clk

theorem State.ClockKept.refl (s : State) : s.ClockKept s := ⟨rfl, rfl, rfl, rfl, rfl, rfl, rfl, rfl⟩

theorem State.ClockKept.trans {s t u : State} (h : s.ClockKept t) (g : t.ClockKept u) : s.ClockKept u :=
  ⟨g.mem.trans h.mem, g.timeBase.trans h.timeBase, g.cycleBase.trans h.cycleBase, g.timeRem.trans h.timeRem, g.cycle.trans h.cycle,
    g.step.trans h.step, g.pt.trans h.pt, g.clk.trans h.clk⟩

theorem State.ClockKept.now {s t : State} (h : s.ClockKept t) : t.now = s.now := by
  rw [State.now, State.timeAt, State.sinceBase, h.timeBase, h.cycleBase, h.timeRem, h.cycle, h.step, h.pt]
  rfl

theorem clockKept_foldl {α : Type} {g : State → α → State} (hg : ∀ (s : State) a, s.ClockKept (g s a)) (l : List α) (s : State) :
    s.ClockKept (l.foldl g s) := by
  induction l generalizing s with
  | nil => exact .refl s
  | cons a r ih => exact (hg s a).trans (ih _)

theorem clockKept_setCore (s : State) (n : Nat) (k : Core) : s.ClockKept (s.setCore n k) := ⟨rfl, rfl, rfl, rfl, rfl, rfl, rfl, rfl⟩

theorem clockKept_setDie (s : State) (d : Nat) (x : Die) : s.ClockKept (s.setDie d x) := ⟨rfl, rfl, rfl, rfl, rfl, rfl, rfl, rfl⟩

theorem clockKept_fresh (s : State) (n : Nat) : s.ClockKept { s with fresh := n } := ⟨rfl, rfl, rfl, rfl, rfl, rfl, rfl, rfl⟩

theorem clockKept_modAllCores (s : State) (f : Core → Core) : s.ClockKept (s.modAllCores f) := by
  unfold State.modAllCores
  exact clockKept_foldl (fun t n => clockKept_setCore t n _) _ s

theorem clockKept_trimRails (s : State) : s.ClockKept s.trimRails := by
  have hrails := clockKept_foldl (g := fun (t : State) (p : Nat × Nat) => t.modDie p.1 fun x =>
    { x with railMv := x.railMv.set 600 p.2 (railClamp (s.railNeeds p.1 p.2)) }) (fun t p => clockKept_setDie t p.1 _) railList s
  unfold State.trimRails
  dsimp only
  generalize List.foldl _ s railList = u at hrails ⊢
  exact hrails.trans (clockKept_fresh u _)

theorem clockKept_alert (s : State) (m : BitVec 8) : s.ClockKept (s.alert m) := by
  unfold State.alert
  split <;> exact ⟨rfl, rfl, rfl, rfl, rfl, rfl, rfl, rfl⟩

theorem settleCores_idle {s : State} (h : ∀ n, (s.core n).mq = []) (l : List Nat) : l.foldl (fun t n => t.settleCore n (t.ranTo n)) s = s := by
  induction l with
  | nil => rfl
  | cons n r ih => rw [List.foldl_cons, settleCore_idle (h n), ih]

theorem slewed_short (x : Int) {dt : Nat} (h : dt < 10000) : slewed x dt = 0 := by
  unfold slewed
  rw [Nat.div_eq_of_lt h]
  omega

/-- Pod time stands at its base in the cycle from which it goes on. -/
theorem now_base {t : State} (hcycle : t.cycleBase = t.cycle) (hrem : t.timeRem < stepRate t.step_) (hacc : t.pt.slewAcc < 10000) :
    t.now = t.timeBase := by
  have hdt : ((t.cycle - t.cycleBase) * 10 + t.timeRem) / stepRate t.step_ = 0 := by
    rw [hcycle, Nat.sub_self, Nat.zero_mul, Nat.zero_add, Nat.div_eq_of_lt hrem]
  change ((t.timeBase + ((t.cycle - t.cycleBase) * 10 + t.timeRem) / stepRate t.step_ : Nat) +
    slewed t.pt.slew (t.pt.slewAcc + ((t.cycle - t.cycleBase) * 10 + t.timeRem) / stepRate t.step_) : Int).toNat = t.timeBase
  rw [hdt, slewed_short _ (by omega)]
  omega

theorem rebase_time (s : State) (x : Nat) :
    (s.rebase x).timeBase = x ∧ (s.rebase x).cycleBase = s.cycle ∧ (s.rebase x).cycle = s.cycle ∧ (s.rebase x).mem = s.mem ∧
      (s.rebase x).timeRem < stepRate s.step_ ∧ (s.rebase x).pt.slewAcc < 10000 := by
  have hleft : (s.sinceBase s.cycle).2 < stepRate s.step_ := Nat.mod_lt _ (stepRate_pos _)
  unfold State.rebase
  rcases hs : s.sinceBase s.cycle with ⟨dt, left⟩
  rw [hs] at hleft
  refine ⟨rfl, rfl, rfl, rfl, hleft, ?_⟩
  dsimp only
  split
  · decide
  · exact Nat.mod_lt _ (by decide)

section Clock
variable {s : State} {x : ClockChange} (hclk : s.clk = some x)
include hclk

/-- The chip as the clock has switched, before its rails follow. -/
def State.switched (s : State) (x : ClockChange) : State :=
  let p := pastPause x.since s.now
  let s2 := (s.modAllCores fun k => k.pause x.from_ s.cycle).rebase s.now
  { s2 with
    step_ := x.target, clk := none
    timeRem := s2.timeRem * stepRate x.target / stepRate s.step_
    launches := s.launches.map fun (l : Launch) => { l with clockFrom := l.clockFrom.map p }
    agents := s.agents.map fun (a : Nat × Agent) => (a.1, a.2.pause p)
    dies := s.dies.map fun (d : Nat × Die) => (d.1, d.2.pause p)
    planes := s.planes.map fun (x : Nat × Plane) => (x.1, x.2.pause p)
    fab := s.fab.pause p }

omit hclk in
/-- Pod time stands where it stood. -/
theorem switched_gives (s : State) (x : ClockChange) :
    (s.switched x).mem = s.mem ∧ (s.switched x).step_ = x.target ∧ (s.switched x).clk = none ∧ (s.switched x).now = s.now := by
  have hpause := clockKept_modAllCores s fun k => k.pause x.from_ s.cycle
  obtain ⟨hbase, hcycleBase, hcycle, hmem, hrem, hacc⟩ := rebase_time (s.modAllCores fun k => k.pause x.from_ s.cycle) s.now
  unfold State.switched
  generalize s.modAllCores (fun k => k.pause x.from_ s.cycle) = u at hpause hbase hcycleBase hcycle hmem hrem hacc
  generalize u.rebase s.now = v at hbase hcycleBase hcycle hmem hrem hacc
  refine ⟨hmem.trans hpause.mem, rfl, rfl, Eq.trans (now_base ?_ ?_ hacc) hbase⟩
  · exact hcycleBase.trans hcycle.symm
  · rw [hpause.step] at hrem
    refine (Nat.div_lt_iff_lt_mul (stepRate_pos _)).mpr ?_
    rw [Nat.mul_comm (stepRate x.target)]
    exact Nat.mul_lt_mul_of_pos_right hrem (stepRate_pos _)

theorem clockSwitchDone_gives (hphase : x.phase = 2) :
    ∃ t, exec .clockSwitchDone s = .next t ∧ t.res = .issued ∧ t.mem = s.mem ∧ t.step_ = x.target ∧ t.clk = none ∧ t.now = s.now ∧
      t.alertStatus.getLsbD 7 = true := by
  have hexec : exec .clockSwitchDone s =
      .next (State.issues ((if s.step_ < x.target then (s.switched x).trimRails else s.switched x).alert alClkdone)) := by
    refine congrArg (fun t => Outcome.next (State.issues t)) ?_
    rw [hclk]
    dsimp only
    rw [if_neg (by simp [hphase])]
    rfl
  obtain ⟨hmem, hstep, hnone, hnow⟩ := switched_gives s x
  have hrails : (s.switched x).ClockKept (if s.step_ < x.target then (s.switched x).trimRails else s.switched x) := by
    split
    · exact clockKept_trimRails _
    · exact .refl _
  generalize (if s.step_ < x.target then (s.switched x).trimRails else s.switched x) = u at hexec hrails
  have hkept := hrails.trans (clockKept_alert u alClkdone)
  have hbit : (u.alert alClkdone).alertStatus.getLsbD 7 = true := by
    rw [alert_status (by decide), BitVec.getLsbD_or]
    simp [alClkdone]
  exact ⟨_, hexec, rfl, hkept.mem.trans hmem, hkept.step.trans hstep, hkept.clk.trans hnone, hkept.now.trans hnow, hbit⟩

theorem exec_clockChangeProceed (hphase : x.phase = 0) (hidle : s.stampedActive = false) :
    exec .clockChangeProceed s = .next ({ s with clk := some { x with phase := 1 } } : State).issues := by
  refine congrArg (fun t => Outcome.next (State.issues t)) ?_
  rw [hclk]
  exact if_pos (by simp [hphase, hidle])

theorem exec_clockRailsTrimmed (hphase : x.phase = 1) (hdown : s.step_ ≤ x.target) (hmq : ∀ n, (s.core n).mq = []) :
    exec .clockRailsTrimmed s = .next ({ s with clk := some { x with phase := 2, since := s.now, from_ := s.cycle } } : State).issues := by
  refine congrArg (fun t => Outcome.next (State.issues t)) ?_
  rw [hclk]
  dsimp only
  rw [if_neg (by simp [hphase]), if_neg (by simp [Nat.not_lt.mpr hdown]), settleCores_idle hmq, if_neg (Nat.not_lt.mpr hdown)]

end Clock

/-! ### Stacks, sensors and trips (13 R355 R356 R358) -/

theorem setStack_get (s : State) (h : Nat) (x : Stack) : (s.setStack h x).hbm.get {} h = x := SMap.get_set_same ..

/-- A stack replaced, with the alerts that its change raises. -/
theorem setStack_alerts (s : State) (h : Nat) (x : Stack) (m1 m2 : BitVec 8) :
    (((s.setStack h x).alertStack h m1).alertStack h m2).mem = s.mem ∧ (((s.setStack h x).alertStack h m1).alertStack h m2).hbm.get {} h = x := by
  have hmoved := (alertMoved_alertStack (s.setStack h x) h m1).trans (alertMoved_alertStack _ h m2)
  refine ⟨hmoved.mem, ?_⟩
  rw [hmoved.hbm, setStack_get]

/-- A core replaced, with the alerts that its change raises. -/
theorem setCore_alerts (s : State) (c : Nat) (k : Core) (m : BitVec 8) :
    ((s.setCore c k).alertCore c m).mem = s.mem ∧ ((s.setCore c k).alertCore c m).core c = k := by
  have hmoved := alertMoved_alertCore (s.setCore c k) c m
  refine ⟨hmoved.mem, ?_⟩
  rw [hmoved.core, setCore_core, if_pos rfl]

section Stack
variable {s : State} {h : Nat} (hh : h < 8)
include hh

theorem exec_hbmTempRead_failed :
    ∃ m, exec (.hbmTempRead h none) s = .next (State.issues
      (((s.setStack h { s.hbm.get {} h with valid := false, s := 2, afresh := true }).alertStack h m).alertStack h alHfail)) :=
  ⟨_, congrArg (fun t => Outcome.next (State.issues t)) (if_neg (Nat.not_le.mpr hh))⟩

theorem hbmTempRead_failed :
    ∃ t, exec (.hbmTempRead h none) s = .next t ∧ t.res = .issued ∧ t.mem = s.mem ∧
      t.hbm.get {} h = { s.hbm.get {} h with valid := false, s := 2, afresh := true } ∧ t.alertStatus.getLsbD 6 = true := by
  obtain ⟨m, hexec⟩ := exec_hbmTempRead_failed (s := s) hh
  obtain ⟨hmem, hget⟩ := setStack_alerts s h { s.hbm.get {} h with valid := false, s := 2, afresh := true } m alHfail
  generalize State.alertStack (s.setStack h _) h m = u at hexec hmem hget
  have hbit : (u.alertStack h alHfail).alertStatus.getLsbD 6 = true := by
    rw [alertStack_status (by decide), BitVec.getLsbD_or]
    simp [alHfail]
  exact ⟨_, hexec, rfl, hmem, hget, hbit⟩

theorem exec_hbmTempRead_taken (b : BitVec 8) :
    ∃ y m1 m2, exec (.hbmTempRead h (some b)) s = .next (State.issues (((s.setStack h y).alertStack h m1).alertStack h m2)) ∧ y.valid = true ∧
      y.degc = b ∧ y.s =
        if (s.hbm.get {} h).afresh then (if 96 ≤ b.toNat then 2 else if 86 ≤ b.toNat then 1 else 0) else stepAfter (s.hbm.get {} h).s b.toNat :=
  ⟨_, _, _, congrArg (fun t => Outcome.next (State.issues t)) (if_neg (Nat.not_le.mpr hh)), rfl, rfl, rfl⟩

theorem hbmTempRead_taken (b : BitVec 8) :
    ∃ t, exec (.hbmTempRead h (some b)) s = .next t ∧ t.res = .issued ∧ t.mem = s.mem ∧ (t.hbm.get {} h).valid = true ∧
      (t.hbm.get {} h).degc = b ∧ (t.hbm.get {} h).s =
        if (s.hbm.get {} h).afresh then (if 96 ≤ b.toNat then 2 else if 86 ≤ b.toNat then 1 else 0) else stepAfter (s.hbm.get {} h).s b.toNat := by
  obtain ⟨y, m1, m2, hexec, hvalid, hdeg, hs⟩ := exec_hbmTempRead_taken (s := s) hh b
  obtain ⟨hmem, hget⟩ := setStack_alerts s h y m1 m2
  generalize ((s.setStack h y).alertStack h m1).alertStack h m2 = u at hexec hmem hget
  subst hget
  exact ⟨_, hexec, rfl, hmem, hvalid, hdeg, hs⟩

theorem hbmRefresh_gives {pc : Nat} (hpc : pc < 64) :
    ∃ t, exec (.hbmRefresh h pc) s = .next t ∧ t.res = .issued ∧ t.mem = s.mem ∧ (t.hbm.get {} h).hold.get 0 pc = s.now + 200 := by
  have hexec : exec (.hbmRefresh h pc) s =
      .next (State.issues (s.setStack h { s.hbm.get {} h with hold := (s.hbm.get {} h).hold.set 0 pc (s.now + 200) })) :=
    congrArg (fun t => Outcome.next (State.issues t)) (if_neg (by simp; omega))
  have hget := setStack_get s h { s.hbm.get {} h with hold := (s.hbm.get {} h).hold.set 0 pc (s.now + 200) }
  have hmem : (s.setStack h { s.hbm.get {} h with hold := (s.hbm.get {} h).hold.set 0 pc (s.now + 200) }).mem = s.mem := rfl
  generalize s.setStack h _ = u at hexec hget hmem
  refine ⟨_, hexec, rfl, hmem, ?_⟩
  change (u.hbm.get {} h).hold.get 0 pc = _
  rw [hget]
  exact SMap.get_set_same 0 (s.hbm.get {} h).hold pc (s.now + 200)

end Stack

section Sensors
variable {s : State} {c : Nat}

theorem exec_coreSensorSample (hc : c < 96) (lo hi : BitVec 16) :
    ∃ k m, exec (.coreSensorSample c lo hi) s = .next (State.issues ((s.setCore c k).alertCore c m)) ∧ k.thermLo = lo ∧ k.thermHi = hi ∧
      k.tripDue = ((s.core c).tripDue || (((if 840 < max lo.toInt hi.toInt then alCtrip else 0) |||
        (if 96 < ((hi.toInt - lo.toInt).natAbs : Int) then alVtrip else 0)) != 0 && !(s.core c).trip)) :=
  ⟨_, _, congrArg (fun t => Outcome.next (State.issues t)) (if_neg (Nat.not_le.mpr hc)), rfl, rfl, rfl⟩

/-- A sample beyond the limit of a core's temperature makes its trip due. -/
theorem past_limit {top gap : Int} (h : 840 < top) : ((if 840 < top then alCtrip else 0) ||| (if 96 < gap then alVtrip else 0) != 0) = true := by
  rw [if_pos h]
  split <;> decide

theorem coreSensorSample_gives (hc : c < 96) (lo hi : BitVec 16) :
    ∃ t, exec (.coreSensorSample c lo hi) s = .next t ∧ t.res = .issued ∧ t.mem = s.mem ∧ (t.core c).thermLo = lo ∧ (t.core c).thermHi = hi ∧
      ((s.core c).trip = false → 840 < max lo.toInt hi.toInt → (t.core c).tripDue = true) := by
  obtain ⟨k, m, hexec, hlo, hhi, hdue⟩ := exec_coreSensorSample (s := s) hc lo hi
  obtain ⟨hmem, hcore⟩ := setCore_alerts s c k m
  generalize (s.setCore c k).alertCore c m = u at hexec hmem hcore
  subst hcore
  refine ⟨_, hexec, rfl, hmem, hlo, hhi, fun htrip htop => hdue.trans ?_⟩
  rw [past_limit htop, htrip]
  exact Bool.or_true _

theorem exec_thermalTrip (hdue : (s.core c).tripDue = true) (htrip : (s.core c).trip = false) (hmq : (s.core c).mq = []) :
    ∃ k u m, exec (.thermalTrip c) s = .next (State.issues ((State.setCore u c k).alertCore c m)) ∧ u.mem = s.mem ∧ k.cad.toNat = 16 ∧
      k.trip = true ∧ k.tripDue = false := by
  have hwrite : s.writeMxcad c 0x110 = s.modCoreAt c fun k => (k.cadenced 16 s.cycle).overrun :=
    writeMxcad_now (val := 0x110) (by decide) (by decide) htrip hmq (.inl (by decide))
  have hexec : exec (.thermalTrip c) s = .next (State.issues (((s.modCoreAt c fun k => (k.cadenced 16 s.cycle).overrun).modCoreAt c
      fun x => { x with trip := true, tripDue := false, tripWhy := 0 }).alertCore c (s.core c).tripWhy)) := by
    refine congrArg (fun t => Outcome.next (State.issues t)) ?_
    rw [if_neg (by rw [hdue, htrip]; decide), hwrite]
  refine ⟨_, _, _, hexec, rfl, ?_, rfl, rfl⟩
  rw [modCoreAt_core_same]
  rfl

theorem thermalTrip_gives (hdue : (s.core c).tripDue = true) (htrip : (s.core c).trip = false) (hmq : (s.core c).mq = []) :
    ∃ t, exec (.thermalTrip c) s = .next t ∧ t.res = .issued ∧ t.mem = s.mem ∧ (t.core c).cad.toNat = 16 ∧ (t.core c).trip = true ∧
      (t.core c).tripDue = false := by
  obtain ⟨k, u, m, hexec, hu, hcad, hset, hdone⟩ := exec_thermalTrip hdue htrip hmq
  obtain ⟨hmem, hcore⟩ := setCore_alerts u c k m
  generalize (u.setCore c k).alertCore c m = v at hexec hmem hcore
  subst hcore
  exact ⟨_, hexec, rfl, hmem.trans hu, hcad, hset, hdone⟩

end Sensors

/-! ### Gating and windows of the L2 (13 R359, 12 R329) -/

section Gate
variable {s : State} {c : Nat}

theorem exec_coreGated (hpower : (s.core c).power = 1) (htask : (s.core c).task = none) (hcq : (s.core c).cq = []) (hgq : (s.core c).gq = [])
    (htq : (s.core c).tq = []) (hmq : (s.core c).mq = []) (hwb : (s.core c).wb = []) (hreqs : ∀ r ∈ s.fab.reqs, r.queue ≠ some c)
    (htiles : ∀ e ∈ s.tiles, e.core ≠ some c) (hfill : ∀ b ∈ (s.core c).blocks, b.fill = none)
    (hload : ((s.core c).governTo s.ramp none s.arrayCycle 200).load = 0) :
    exec (.coreGated c) s = .next (s.setCore c { s.core c with power := 2 }).issues := by
  have hreqs' : s.fab.reqs.all (·.queue != some c) = true := List.all_eq_true.mpr fun r hr => by simpa using hreqs r hr
  have htiles' : (s.tiles.all fun e => e.core != some c) = true := List.all_eq_true.mpr fun e he => by simpa using htiles e he
  have hfill' : ((s.core c).blocks.all fun b => b.fill.isNone) = true := List.all_eq_true.mpr fun b hb => by simp [hfill b hb]
  have hlow : ((s.core c).govern s.ramp s.arrayCycle).load = 0 := by rw [Core.govern, waitsSince_idle hmq, hload]
  refine congrArg (fun t => Outcome.next (State.issues t)) (if_pos ?_)
  rw [hlow, hpower, htask, hcq, hgq, htq, hmq, hwb, hreqs', htiles', hfill']
  rfl

theorem writeL2win_off {d w : Nat} {val : Word} (hoff : val.getLsbD 0 = false) :
    s.writeL2win d w val = s.setDie d { s.die d with l2win := (s.die d).l2win.set 0 w (val &&& 0xFFFFFFFC01) } := by
  unfold State.writeL2win
  dsimp only
  rw [if_neg]
  rw [BitVec.getLsbD_and, hoff, Bool.false_and, Bool.false_and]
  exact Bool.false_ne_true

end Gate

/-- Settles O41: each event on the core, stack, die or clock that it names. -/
theorem powerControl : Obligations.PowerControl := by
  unfold Obligations.PowerControl
  intro s who c val hlow hhigh hc k result
  have hwho : (reaches who && decide (c < 96)) = true := by simp [reaches, hlow, hhigh, hc]
  have hmgmt : (decide (100 = 100) && decide (c < 96)) = true := by simp [hc]
  refine ⟨?_, fun hinj hmq hgather hwin => ?_, ?_, fun x hclk => ⟨fun hphase hidle => exec_clockChangeProceed hclk hphase hidle,
    fun hphase hdown hmq => exec_clockRailsTrimmed hclk hphase hdown hmq, fun hphase => clockSwitchDone_gives hclk hphase⟩,
    fun h hh => ⟨hbmTempRead_failed hh, hbmTempRead_taken hh, fun pc hpc => hbmRefresh_gives hh hpc⟩, coreSensorSample_gives hc, thermalTrip_gives,
    ?_, ?_, ?_, fun hpower => ?_, rfl, fun d w hd hw => ⟨fun hoff => ?_, fun hon => ?_⟩⟩
  · intro v h1 h16 htrip hmq
    have hexec : exec (.mxcadWrite who c val) s = .next (s.writeMxcad c val).issues := congrArg (fun t => Outcome.next (State.issues t)) (if_pos hwho)
    refine ⟨fun hnow => ?_, fun hforce hheld => ?_⟩
    · rw [writeMxcad_now h1 h16 htrip hmq hnow] at hexec
      have hcore := modCoreAt_core_same s c fun k =>
        if val.getLsbD 8 then (k.cadenced (val.toNat % 32) s.cycle).overrun else k.cadenced (val.toNat % 32) s.cycle
      have hmem : (s.modCoreAt c fun k =>
        if val.getLsbD 8 then (k.cadenced (val.toNat % 32) s.cycle).overrun else k.cadenced (val.toNat % 32) s.cycle).mem = s.mem := rfl
      generalize s.modCoreAt c _ = u at hexec hcore hmem
      have hgives := cadenced_gives (s.core c) (val.toNat % 32) s.cycle (val.getLsbD 8) h16
      dsimp only at hgives
      rw [← hcore] at hgives
      exact ⟨_, hexec, rfl, hmem, hgives⟩
    · rw [writeMxcad_pends h1 h16 htrip hforce hheld] at hexec
      exact ⟨_, hexec, rfl, rfl, modCoreAt_core_same s c fun x => { x with pendCad := BitVec.ofNat 5 (val.toNat % 32), pv := true }⟩
  · have hexec : exec (.governorWindow c) s = .next (State.issues ((s.settleCore c (s.ranTo c)).setCore c
        (((s.settleCore c (s.ranTo c)).core c).govern (s.settleCore c (s.ranTo c)).ramp ((s.settleCore c (s.ranTo c)).ranTo c)))) :=
      congrArg (fun t => Outcome.next (State.issues t)) (if_neg (Nat.not_le.mpr hc))
    rw [settleCore_idle hmq, govern_idle hinj hmq hgather hwin] at hexec
    exact ⟨_, hexec, rfl, rfl, (setCore_core ..).trans (if_pos rfl)⟩
  · intro x hclk hnew hforce
    have hstep : bitsOf val 0 2 = x := bitsOf_low val 2
    refine congrArg (fun t => Outcome.next (State.issues t)) ((if_pos rfl).trans ?_)
    unfold State.writeClkctl
    dsimp only
    rw [hstep, if_neg (by simp [hclk, hnew]), hforce]
    rfl
  · have hcore := modCoreAt_core_same s c fun k => { k with gate := true, power := if k.power = 0 || k.power = 3 then 1 else k.power }
    simp only [Bool.or_eq_true, decide_eq_true_eq] at hcore
    refine ⟨_, congrArg (fun t => Outcome.next (State.issues t)) (if_pos hmgmt), rfl, rfl, ?_⟩
    unfold State.gateSet
    simp only [Bool.or_eq_true, decide_eq_true_eq]
    exact hcore
  · exact ⟨_, congrArg (fun t => Outcome.next (State.issues t)) (if_pos hmgmt), rfl, rfl,
      modCoreAt_core_same s c fun k => { k with gate := false, power := if k.power = 1 then 0 else if k.power = 2 then 3 else k.power }⟩
  · intro hpower htask hcq hgq htq hmq hwb hreqs htiles hfill hload
    exact ⟨_, exec_coreGated hpower htask hcq hgq htq hmq hwb hreqs htiles hfill hload, rfl, rfl, (setCore_core ..).trans (if_pos rfl)⟩
  · exact ⟨_, congrArg (fun t => Outcome.next (State.issues t)) (if_pos hpower), rfl, rfl, modCoreAt_core_same s c fun k => { k with power := 0 }⟩
  · have hgo : (reaches who && decide (d < 4) && decide (w < 4)) = true := by simp [reaches, hlow, hhigh, hd, hw]
    have hexec : exec (.l2winWrite who d w val) s = .next (s.writeL2win d w val).issues :=
      congrArg (fun t => Outcome.next (State.issues t)) (if_pos hgo)
    rw [writeL2win_off hoff] at hexec
    refine ⟨_, hexec, rfl, rfl, ?_⟩
    have hdie := (setDie_die s d d { s.die d with l2win := (s.die d).l2win.set 0 w (val &&& 0xFFFFFFFC01) }).trans (if_pos rfl)
    exact (congrArg (fun x : Die => x.l2win.get 0 w) hdie).trans (SMap.get_set_same 0 (s.die d).l2win w _)
  · have hexec : exec (.l2winFilled d w) s =
        .next (State.issues (s.modDie d fun x => { x with l2win := x.l2win.set 0 w ((s.die d).l2win.get 0 w ||| 2) })) :=
      congrArg (fun t => Outcome.next (State.issues t)) (if_pos hon)
    refine ⟨_, hexec, rfl, rfl, ?_⟩
    have hdie := modDie_die_same s d fun x => { x with l2win := x.l2win.set 0 w ((s.die d).l2win.get 0 w ||| 2) }
    exact (congrArg (fun x : Die => x.l2win.get 0 w) hdie).trans (SMap.get_set_same 0 (s.die d).l2win w _)

end Sys2Proof.Machine

/-! LEMMAS and PROOF of O42: page locks, shootdowns, page replies and the patrol (11 R302 to R308). -/

namespace Sys2Proof.Machine

open Host (Outcome)

/-! ### Maps -/

/-- A key that a map does not list reads as unlisted. -/
theorem SMap.get_of_not_mem {α : Type} (d : α) (m : SMap α) (k : Nat) (h : k ∉ m.map (·.1)) : SMap.get d m k = d := by
  induction m with
  | nil => rfl
  | cons p r ih =>
    obtain ⟨hne, hr⟩ := not_or.mp (fun hm => h (List.mem_cons.mpr hm))
    rw [SMap.get, if_neg (Ne.symm hne)]
    exact ih hr

/-- A map whose values all change, the unlisted one too, in a way that keeps it. -/
theorem SMap.get_map {α : Type} (d : α) (f : α → α) (hd : f d = d) (m : SMap α) (k : Nat) :
    SMap.get d (m.map fun p => (p.1, f p.2)) k = f (SMap.get d m k) := by
  induction m with
  | nil => exact hd.symm
  | cons p r ih =>
    rw [List.map_cons, SMap.get, SMap.get]
    split
    · rfl
    · exact ih

/-! ### Locks (11 R303) -/

/-- What a page locked in a TLB with room leaves of it: its entry, and an entry locked for every page that had one. -/
theorem tlbAdd_locked {l : List TlbEntry} {t : TlbEntry} (ht : t.locked = true) (hroom : (l.filter (·.locked)).length < 256) :
    let rest := l.filter fun u => !(u.ctx == t.ctx && u.va == t.va && u.size == t.size)
    t ∈ tlbAdd rest t 8192 ∧
      ∀ u ∈ l, u.locked = true → ∃ w ∈ tlbAdd rest t 8192, w.ctx = u.ctx ∧ w.va = u.va ∧ w.size = u.size ∧ w.locked = true := by
  intro rest
  have hother : ∀ u ∈ rest, (u.ctx == t.ctx && u.va == t.va && u.size == t.size) = false := fun u hu =>
    (Bool.not_eq_true' _).mp (List.mem_filter.mp hu).2
  have hnone : (rest.any fun u => u.ctx == t.ctx && u.va == t.va && u.size == t.size && u.locked) = false :=
    List.any_eq_false.mpr fun u hu => by rw [hother u hu]; simp
  have hagain : (rest.filter fun u => !(u.ctx == t.ctx && u.va == t.va && u.size == t.size)) = rest :=
    List.filter_eq_self.mpr fun u hu => by rw [hother u hu]; rfl
  have hheld : (rest.filter (·.locked)).length < 256 := by
    refine Nat.lt_of_le_of_lt (List.Sublist.length_le ?_) hroom
    exact List.Sublist.filter _ List.filter_sublist
  have hadd : tlbAdd rest t 8192 = rest.filter (·.locked) ++ (t :: rest.filter (!·.locked)).take (8192 - (rest.filter (·.locked)).length) := by
    rw [tlbAdd, if_neg (by rw [hnone]; decide)]
    dsimp only
    rw [hagain]
  obtain ⟨k, hk⟩ : ∃ k, 8192 - (rest.filter (·.locked)).length = k + 1 := ⟨8191 - (rest.filter (·.locked)).length, by omega⟩
  have hin : t ∈ tlbAdd rest t 8192 := by
    rw [hadd, hk, List.take_succ_cons]
    exact List.mem_append_right _ List.mem_cons_self
  refine ⟨hin, fun u hu hlocked => ?_⟩
  by_cases hsame : (u.ctx == t.ctx && u.va == t.va && u.size == t.size) = true
  · simp only [Bool.and_eq_true, beq_iff_eq] at hsame
    exact ⟨t, hin, hsame.1.1.symm, hsame.1.2.symm, hsame.2.symm, ht⟩
  · refine ⟨u, ?_, rfl, rfl, rfl, hlocked⟩
    rw [hadd]
    exact List.mem_append_left _ (List.mem_filter.mpr ⟨List.mem_filter.mpr ⟨hu, (Bool.not_eq_true' _).mpr (Bool.eq_false_iff.mpr hsame)⟩, hlocked⟩)

section Lock
variable {s : State} {d : Nat} {val : Word}

theorem lockPage_leaf {e : Word} {l a : Nat} (hwalk : s.walk (lockCtx val) (lockVa val) = .leaf e l a) (hroom : (s.die d).locked < 256) :
    let t := { TlbEntry.ofLeaf (lockCtx val) (lockVa val) e l with locked := true }
    s.lockPage d val = s.setDie d { s.die d with
      tlb := tlbAdd ((s.die d).tlb.filter fun u => !(u.ctx == t.ctx && u.va == t.va && u.size == t.size)) t 8192 } := by
  unfold State.lockPage
  dsimp only
  rw [hwalk, if_neg (by simp [State.walkFull, WalkRes.record])]
  refine if_neg (Nat.not_le.mpr (Nat.lt_of_le_of_lt (List.Sublist.length_le ?_) hroom))
  exact List.Sublist.filter _ List.filter_sublist

theorem lockPage_absent (hwalk : s.walk (lockCtx val) (lockVa val) = .absent) : s.lockPage d val = s := by
  unfold State.lockPage
  dsimp only
  rw [hwalk, if_neg (by simp [State.walkFull, WalkRes.record])]
  rfl

theorem unlockPage_gives (s : State) (d : Nat) (val : Word) :
    ((s.unlockPage d val).die d).tlb.length = (s.die d).tlb.length ∧
      ∀ u ∈ ((s.unlockPage d val).die d).tlb, u.covers (lockCtx val) (lockVa val) = true → u.locked = false := by
  unfold State.unlockPage
  rw [modDie_die_same]
  refine ⟨List.length_map .., fun u hu hcovers => ?_⟩
  obtain ⟨w, -, rfl⟩ := List.mem_map.mp hu
  by_cases h : (w.locked && w.covers (lockCtx val) (lockVa val)) = true
  · rw [if_pos h]
  · rw [if_neg h] at hcovers ⊢
    simpa [hcovers] using h

end Lock

/-! ### Shootdown (11 R304) -/

/-- A cached translation that a shootdown of [va, va + size) in a context drops. -/
def TlbEntry.hit (t : TlbEntry) (ctx va size : Nat) : Bool := t.ctx == ctx && overlap t.va t.size va size

section Drop
variable (ctx va size : Nat)

/-- Its die's part. -/
def State.dropDie (s : State) (d : Nat) : State :=
  if (s.die d).tlb.any (·.hit ctx va size) then s.modDie d fun x => { x with tlb := x.tlb.filter (!·.hit ctx va size) } else s

theorem dropDie_die (s : State) (d k : Nat) :
    (s.dropDie ctx va size d).die k =
      if k = d then { s.die k with tlb := (s.die k).tlb.filter (!·.hit ctx va size) } else s.die k := by
  unfold State.dropDie
  split
  · rw [State.modDie, setDie_die]
    split
    · next h => rw [h]
    · rfl
  · next hnone =>
    split
    · next h =>
      have hall : (s.die k).tlb.filter (!·.hit ctx va size) = (s.die k).tlb := by
        refine List.filter_eq_self.mpr fun u hu => ?_
        rw [h] at hu
        have := List.any_eq_false.mp (Bool.eq_false_iff.mpr hnone) u hu
        simpa using this
      rw [hall]
    · rfl

theorem dropDies_tlb (l : List Nat) (s : State) (k : Nat) (u : TlbEntry) (hu : u ∈ ((l.foldl (State.dropDie ctx va size) s).die k).tlb) :
    u ∈ (s.die k).tlb ∧ (k ∈ l → u.hit ctx va size = false) := by
  induction l generalizing s with
  | nil => exact ⟨hu, fun h => absurd h List.not_mem_nil⟩
  | cons d r ih =>
    obtain ⟨hin, hr⟩ := ih (s.dropDie ctx va size d) hu
    rw [dropDie_die] at hin
    split at hin
    · obtain ⟨hs, hmiss⟩ := List.mem_filter.mp hin
      exact ⟨hs, fun _ => by simpa using hmiss⟩
    · next hne => exact ⟨hin, fun hk => hr ((List.mem_cons.mp hk).resolve_left hne)⟩

theorem dropDies_frame (l : List Nat) (s : State) :
    (l.foldl (State.dropDie ctx va size) s).mem = s.mem ∧ (l.foldl (State.dropDie ctx va size) s).cores = s.cores := by
  induction l generalizing s with
  | nil => exact ⟨rfl, rfl⟩
  | cons d r ih =>
    obtain ⟨hmem, hcores⟩ := ih (s.dropDie ctx va size d)
    have hd : (s.dropDie ctx va size d).mem = s.mem ∧ (s.dropDie ctx va size d).cores = s.cores := by
      unfold State.dropDie
      split <;> exact ⟨rfl, rfl⟩
    exact ⟨hmem.trans hd.1, hcores.trans hd.2⟩

end Drop

/-- What holds of every core that a change leaves, when it holds once the change is made and of a core that is not listed. -/
theorem modAllCores_holds (s : State) (f : Core → Core) (P : Core → Prop) (hf : ∀ k, P (f k)) (hd : P {}) (n : Nat) : P ((s.modAllCores f).core n) := by
  unfold State.modAllCores
  have hfold : ∀ (l : List Nat) (t : State), (n ∈ l ∨ P (t.core n)) → P ((l.foldl (fun t n => t.modCoreAt n f) t).core n) := by
    intro l
    induction l with
    | nil => exact fun t h => h.resolve_left List.not_mem_nil
    | cons m r ih =>
      intro t h
      refine ih _ ?_
      change n ∈ r ∨ P ((t.setCore m (f (t.core m))).core n)
      rw [setCore_core]
      split
      · exact .inr (hf _)
      · next hne => exact h.imp_left fun hm => (List.mem_cons.mp hm).resolve_left hne
  refine hfold _ s ?_
  by_cases hn : n ∈ s.cores.map (·.1)
  · exact .inl hn
  · have hcore : s.core n = {} := SMap.get_of_not_mem (α := Core) {} s.cores n hn
    exact .inr (hcore.symm ▸ hd)

theorem modAllCores_frame (s : State) (f : Core → Core) : (s.modAllCores f).mem = s.mem ∧ (s.modAllCores f).dies = s.dies := by
  unfold State.modAllCores
  generalize s.cores.map (·.1) = l
  induction l generalizing s with
  | nil => exact ⟨rfl, rfl⟩
  | cons n r ih => exact ih (s.modCoreAt n f)

/-- The core once the cached translations and blocks of a range are dropped. -/
def Core.dropRange (k : Core) (ctx va size : Nat) : Core :=
  { k with utlb := k.utlb.filter (!·.hit ctx va size)
           blocks := k.blocks.filterMap fun b => if b.ctx == ctx && overlap b.addr (128 * b.lines) va size then b.shoot else some b }

theorem dropRange_eq (s : State) (ctx va size : Nat) :
    s.dropRange ctx va size = ((List.range 4).foldl (State.dropDie ctx va size) s).modAllCores (·.dropRange ctx va size) := rfl

/-- A shootdown leaves no translation of its range, and no byte of memory changed. -/
theorem dropRange_gives (s : State) (ctx va size : Nat) :
    (s.dropRange ctx va size).mem = s.mem ∧ ∀ u : TlbEntry, u.hit ctx va size = true →
      (∀ k, k < 4 → u ∉ ((s.dropRange ctx va size).die k).tlb) ∧ ∀ n, u ∉ ((s.dropRange ctx va size).core n).utlb := by
  rw [dropRange_eq]
  generalize ht : (List.range 4).foldl (State.dropDie ctx va size) s = t
  obtain ⟨hmem, hdies⟩ := modAllCores_frame t (·.dropRange ctx va size)
  obtain ⟨htmem, -⟩ := dropDies_frame ctx va size (List.range 4) s
  rw [ht] at htmem
  refine ⟨hmem.trans htmem, fun u hu => ⟨fun k hk hin => ?_, fun n hin => ?_⟩⟩
  · rw [State.die, hdies, ← ht] at hin
    obtain ⟨-, hmiss⟩ := dropDies_tlb ctx va size (List.range 4) s k u hin
    exact absurd ((hmiss (List.mem_range.mpr hk)).symm.trans hu) nofun
  · refine modAllCores_holds t (·.dropRange ctx va size) (fun k => u ∉ k.utlb) (fun k hk => ?_) List.not_mem_nil n hin
    have := (List.mem_filter.mp hk).2
    rw [hu] at this
    exact absurd this (by decide)

section Sdgo
variable {s : State} {n : Nat}

theorem exec_sdgo {who : Nat} (hwho : 96 ≤ who ∧ who ≤ 100) : exec (.sdgo who (who - 96)) s = .next (s.shootdown (who - 96)).issues :=
  congrArg (fun t => Outcome.next (State.issues t)) (if_pos (by simp [ownsSet]; omega))

/-- The reserved bits of SDCTL are clear, and its address is one of its size. -/
def Shootdown.WellFormed (x : Shootdown) : Prop :=
  bitsOf x.ctl 56 8 = 0 ∧ bitsOf x.ctl 10 6 = 0 ∧ bitsOf x.ctl 2 2 = 0 ∧
    (bitsOf x.ctl 0 2 ≠ 3 → bitsOf x.ctl 16 40 * 65536 % sdSize (bitsOf x.ctl 0 2) = 0)

theorem wellFormed_iff (x : Shootdown) : x.WellFormed ↔
    (bitsOf x.ctl 56 8 != 0 || bitsOf x.ctl 10 6 != 0 || bitsOf x.ctl 2 2 != 0 ||
      (!(bitsOf x.ctl 0 2 == 3) && bitsOf x.ctl 16 40 * 65536 % sdSize (bitsOf x.ctl 0 2) != 0)) = false := by
  simp [Shootdown.WellFormed, and_assoc]

theorem shootdown_busy (h : (s.shoot.get {} n).busy = true) : s.shootdown n = s := if_pos h

theorem shootdown_malformed (hidle : (s.shoot.get {} n).busy = false) (hbad : ¬ (s.shoot.get {} n).WellFormed) :
    s.shootdown n = { s with shoot := s.shoot.set {} n { s.shoot.get {} n with bad := true } } := by
  unfold State.shootdown
  dsimp only
  rw [if_neg (by rw [hidle]; decide), if_pos]
  exact Bool.not_eq_false _ ▸ (wellFormed_iff _).not.mp hbad

theorem shootdown_drops (hidle : (s.shoot.get {} n).busy = false) (hgood : (s.shoot.get {} n).WellFormed) :
    s.shootdown n = { s.dropRange (bitsOf (s.shoot.get {} n).ctl 4 6)
        (if bitsOf (s.shoot.get {} n).ctl 0 2 = 3 then 0 else bitsOf (s.shoot.get {} n).ctl 16 40 * 65536)
        (sdSize (bitsOf (s.shoot.get {} n).ctl 0 2)) with
      shoot := s.shoot.set {} n { s.shoot.get {} n with bad := false, busy := true } } := by
  unfold State.shootdown
  dsimp only
  rw [if_neg (by rw [hidle]; decide), if_neg (by rw [(wellFormed_iff _).mp hgood]; decide)]
  simp only [beq_iff_eq]

end Sdgo

/-! ### Page replies (11 R302) -/

section Reply
variable {s : State} {who d : Nat} {val : Word}

theorem answered_preqs (s : State) (d num : Nat) :
    ((s.answered d num).die d).preqs = (s.die d).preqs.filter fun q => decide (q.num ≠ num) := by
  rw [State.answered, modDie_die_same]
  refine List.filter_congr fun q _ => ?_
  rw [decide_not, bne, beq_eq_decide]

theorem mapLogs_die (s : State) (f : LogEntry → LogEntry) (k : Nat) :
    (s.mapLogs f).die k = { s.die k with saved := (s.die k).saved.map fun (x : Saved) => { x with core := { x.core with slog := x.core.slog.map f } } } :=
  SMap.get_map (α := Die) {} (fun y => { y with saved := y.saved.map fun (x : Saved) => { x with core := { x.core with slog := x.core.slog.map f } } })
    rfl s.dies k

theorem exec_pgreplyRetry (hwho : 96 ≤ who ∧ who ≤ 100) (hd : d < 4) {r : PageReq} (hr : (s.die d).preqs.find? (·.num == bitsOf val 0 16) = some r)
    (hop : val.getLsbD 16 = false) : exec (.pgreplyRetry who d val) s = .next (s.pageRetry d r).issues := by
  have hwrite : s.writePgreply d val = s.pageRetry d r := by
    rw [State.writePgreply, hr]
    exact if_neg (by rw [hop]; decide)
  rw [← hwrite]
  exact congrArg (fun t => Outcome.next (State.issues t)) (if_pos (by rw [hop]; simp [reaches, hwho, hd]))

theorem exec_pgreplyRefuse (hwho : 96 ≤ who ∧ who ≤ 100) (hd : d < 4) {r : PageReq} (hr : (s.die d).preqs.find? (·.num == bitsOf val 0 16) = some r)
    (hop : val.getLsbD 16 = true) : exec (.pgreplyRefuse who d val) s = .next (s.pageRefuse d r).issues := by
  have hwrite : s.writePgreply d val = s.pageRefuse d r := by
    rw [State.writePgreply, hr]
    exact if_pos hop
  rw [← hwrite]
  exact congrArg (fun t => Outcome.next (State.issues t)) (if_pos (by rw [hop]; simp [reaches, hwho, hd]))

theorem pgreplyRetry_gives (hwho : 96 ≤ who ∧ who ≤ 100) (hd : d < 4) {r : PageReq}
    (hr : (s.die d).preqs.find? (·.num == bitsOf val 0 16) = some r) (hop : val.getLsbD 16 = false) :
    ∃ t, exec (.pgreplyRetry who d val) s = .next t ∧ t.res = .issued ∧ t.mem = s.mem ∧
      (t.die d).preqs = (s.die d).preqs.filter fun q => decide (q.num ≠ r.num) := by
  have hpreqs : ((s.pageRetry d r).die d).preqs = (s.die d).preqs.filter fun q => decide (q.num ≠ r.num) := by
    rw [State.pageRetry, mapLogs_die]
    exact answered_preqs s d r.num
  exact ⟨_, exec_pgreplyRetry hwho hd hr hop, rfl, rfl, hpreqs⟩

/-- A refusal where nothing waits but one agent's accesses. -/
theorem pageRefuse_agent {r : PageReq} {n : Nat} {a : Agent} (hdie : dieOf n = d) (hagents : s.agents = [(n, a)]) (hcores : s.cores = [])
    (htiles : s.tiles = []) (hlaunches : s.launches = []) (hrx : s.fab.rx = []) (hreqs : s.fab.reqs = []) :
    s.pageRefuse d r =
      { (({ s.answered d r.num with refuse := some (r.ctx, r.va) } : State).refuseAgent n r.ctx r.va).mapLogs (fun e => e.refuse r.ctx r.va) with
        refuse := none } := by
  have hagents' : (s.answered d r.num).agents = [(n, a)] := hagents
  have hcores' : (s.answered d r.num).cores = [] := hcores
  have htiles' : (s.answered d r.num).tiles = [] := htiles
  have hlaunches' : (s.answered d r.num).launches = [] := hlaunches
  have hrx' : (s.answered d r.num).fab.rx = [] := hrx
  have hreqs' : (s.answered d r.num).fab.reqs = [] := hreqs
  unfold State.pageRefuse State.refuseFabric
  dsimp only
  simp only [hagents', hcores', htiles', hlaunches', hrx', hreqs', hdie, List.map_cons, List.map_nil, List.filter_nil, List.foldl_nil, List.foldl_cons,
    List.filter_cons, beq_self_eq_true, if_true]

theorem refuseAgent_pend {n ctx va : Nat} {p : PendAccess} (hpend : (s.agent n).pend = some p) (hpage : p.page = some (ctx, va))
    (hva : va % 65536 = 0) (hhold : (s.agent n).pageHold = none) :
    (s.refuseAgent n ctx va = s.modAgent n fun x => { x with pend := x.pend.map (·.refuse ctx va) }) ∧
      p.refuse ctx va = { p with refused := some (ctx, va) } := by
  constructor
  · unfold State.refuseAgent
    dsimp only
    rw [hhold, if_neg (by rw [hpend]; exact Bool.false_ne_true)]
  · have hbase : va / 65536 * 65536 = va := Nat.div_mul_cancel (Nat.dvd_of_mod_eq_zero hva)
    rw [PendAccess.refuse, hpage]
    exact if_pos (by simp [onPage, hbase])

theorem pgreplyRefuse_gives (hwho : 96 ≤ who ∧ who ≤ 100) (hd : d < 4) {r : PageReq}
    (hr : (s.die d).preqs.find? (·.num == bitsOf val 0 16) = some r) (hop : val.getLsbD 16 = true) {n : Nat} {a : Agent} {p : PendAccess}
    (hdie : dieOf n = d) (hagents : s.agents = [(n, a)]) (hcores : s.cores = []) (htiles : s.tiles = []) (hlaunches : s.launches = [])
    (hrx : s.fab.rx = []) (hreqs : s.fab.reqs = []) (hpend : a.pend = some p) (hpage : p.page = some (r.ctx, r.va)) (hva : r.va % 65536 = 0)
    (hhold : a.pageHold = none) :
    ∃ t, exec (.pgreplyRefuse who d val) s = .next t ∧ t.res = .issued ∧ t.mem = s.mem ∧
      (t.agent n).pend = some { p with refused := some (r.ctx, r.va) } ∧ (t.agent n).deferred = a.deferred ∧
      (t.die d).preqs = (s.die d).preqs.filter fun q => decide (q.num ≠ r.num) := by
  have hexec := exec_pgreplyRefuse hwho hd hr hop
  rw [pageRefuse_agent hdie hagents hcores htiles hlaunches hrx hreqs] at hexec
  have ha : (s.answered d r.num).agent n = a := by
    change SMap.get {} s.agents n = a
    rw [hagents]
    exact if_pos rfl
  have hpreqs := answered_preqs s d r.num
  have hmem : (s.answered d r.num).mem = s.mem := rfl
  generalize s.answered d r.num = u at hexec ha hpreqs hmem
  obtain ⟨hrefuse, hp⟩ := refuseAgent_pend (s := { u with refuse := some (r.ctx, r.va) }) (n := n) (p := p) (ha ▸ hpend) hpage hva (ha ▸ hhold)
  rw [hrefuse] at hexec
  have hagent : (State.modAgent { u with refuse := some (r.ctx, r.va) } n fun x => { x with pend := x.pend.map (·.refuse r.ctx r.va) }).agent n =
      { a with pend := a.pend.map (·.refuse r.ctx r.va) } := by
    rw [State.modAgent, setAgent_agent, if_pos rfl]
    change ({ u.agent n with pend := (u.agent n).pend.map (·.refuse r.ctx r.va) } : Agent) = _
    rw [ha]
  have hdies : (State.modAgent { u with refuse := some (r.ctx, r.va) } n fun x => { x with pend := x.pend.map (·.refuse r.ctx r.va) }).die d = u.die d := rfl
  have hmem2 : (State.modAgent { u with refuse := some (r.ctx, r.va) } n fun x => { x with pend := x.pend.map (·.refuse r.ctx r.va) }).mem = u.mem := rfl
  generalize State.modAgent _ n _ = v at hexec hagent hdies hmem2
  have hlogs : ((v.mapLogs fun e => e.refuse r.ctx r.va).die d).preqs = (v.die d).preqs := by rw [mapLogs_die]
  have hpended : (v.agent n).pend = some { p with refused := some (r.ctx, r.va) } := by
    rw [hagent]
    dsimp only
    rw [hpend, Option.map_some, hp]
  have hdeferred : (v.agent n).deferred = a.deferred := by rw [hagent]
  refine ⟨_, hexec, rfl, hmem2.trans hmem, hpended, hdeferred, ?_⟩
  · refine hlogs.trans ?_
    rw [hdies, hpreqs]

end Reply

/-! ### The patrol (11 R307 R308) -/

/-- What a word found uncorrectable leaves of its die. -/
theorem loseWord_gives (s : State) (pa : Nat) {d : Nat} (hd : pa / 0x2000000000 % 4 = d) :
    (s.loseWord pa).mem = s.mem ∧ pa / 128 ∈ (s.loseWord pa).poison ∧ (s.loseWord pa).die d =
      { s.die d with eccUnc := satInc (s.die d).eccUnc 1, evWait := (s.die d).evWait ++ [{ kind := 10, w2 := BitVec.ofNat 64 pa, w3 := 1 }] } := by
  subst hd
  have hpoison : ∃ u : State, (if s.poison.contains (pa / 128) then s else { s with poison := pa / 128 :: s.poison }) = u ∧ u.mem = s.mem ∧
      pa / 128 ∈ u.poison ∧ ∀ k, u.die k = s.die k := by
    split
    · next hin => exact ⟨_, rfl, rfl, List.contains_iff_mem.mp hin, fun _ => rfl⟩
    · exact ⟨_, rfl, rfl, List.mem_cons_self, fun _ => rfl⟩
  obtain ⟨u, hu, hmem, hin, hdies⟩ := hpoison
  unfold State.loseWord
  dsimp only
  rw [hu, State.post]
  refine ⟨hmem, hin, ?_⟩
  rw [modDie_die_same, modDie_die_same, hdies]

section Patrol
variable {s : State} {h fixed : Nat} (hh : h < 8)
include hh

/-- The chip once the errors that a patrol has corrected are counted. -/
def State.corrected (s : State) (h fixed : Nat) : State := s.modDie (h / 2) fun x => { x with eccCor := satInc x.eccCor fixed }

theorem exec_hbmPatrol (lost : List Spot) : exec (.hbmPatrol h fixed lost) s = .next (lost.foldl (State.strike h) (s.corrected h fixed)).issues :=
  congrArg (fun t => Outcome.next (State.issues t)) (if_neg (Nat.not_le.mpr hh))

theorem hbmPatrol_none :
    ∃ t, exec (.hbmPatrol h fixed []) s = .next t ∧ t.res = .issued ∧ t.mem = s.mem ∧
      (t.die (h / 2)).eccCor = satInc (s.die (h / 2)).eccCor fixed ∧ t.poison = s.poison := by
  have hdie := modDie_die_same s (h / 2) fun x => { x with eccCor := satInc x.eccCor fixed }
  exact ⟨_, exec_hbmPatrol hh [], rfl, rfl, congrArg Die.eccCor hdie, rfl⟩

theorem hbmPatrol_core {n w : Nat} {b : Bank} (hn : n < 96) (hw : w < bankWords b) :
    ∃ t, exec (.hbmPatrol h fixed [.core n b w]) s = .next t ∧ t.res = .issued ∧ t.mem = s.mem ∧ (b, w) ∈ (t.core n).spoilt ∧
      t.poison = s.poison ∧ (t.core n).scratch = (s.core n).scratch := by
  have hexec := exec_hbmPatrol (s := s) (fixed := fixed) hh [.core n b w]
  have hcore : (s.corrected h fixed).core n = s.core n := rfl
  have hmem : (s.corrected h fixed).mem = s.mem ∧ (s.corrected h fixed).poison = s.poison := ⟨rfl, rfl⟩
  generalize s.corrected h fixed = u at hexec hcore hmem
  rw [List.foldl_cons, List.foldl_nil, State.strike] at hexec
  by_cases hold : (b, w) ∈ (u.core n).spoilt
  · rw [if_neg (by simp [hold])] at hexec
    exact ⟨_, hexec, rfl, hmem.1, hold, hmem.2, congrArg Core.scratch hcore⟩
  · rw [if_pos (by simp [hn, hw, hold])] at hexec
    have hnew := modCoreAt_core_same u n fun k => { k with spoilt := (b, w) :: k.spoilt }
    have hin : (b, w) ∈ ((u.modCoreAt n fun k => { k with spoilt := (b, w) :: k.spoilt }).core n).spoilt := by
      rw [hnew]
      exact List.mem_cons_self
    have hscratch : ((u.modCoreAt n fun k => { k with spoilt := (b, w) :: k.spoilt }).core n).scratch = (s.core n).scratch := by
      rw [hnew]
      change (u.core n).scratch = _
      rw [hcore]
    exact ⟨_, hexec, rfl, hmem.1, hin, hmem.2, hscratch⟩

theorem hbmPatrol_home {pa : Nat} (hpa : pa < 0x8000000000) (hstack : (channelOf pa).1 = h) :
    ∃ t, exec (.hbmPatrol h fixed [.home pa]) s = .next t ∧ t.res = .issued ∧ t.mem = s.mem ∧
      (t.die (h / 2)).eccCor = satInc (s.die (h / 2)).eccCor fixed ∧ pa / 128 ∈ t.poison ∧
      (t.die (h / 2)).eccUnc = satInc (s.die (h / 2)).eccUnc 1 ∧
      (t.die (h / 2)).evWait = (s.die (h / 2)).evWait ++ [{ kind := 10, w2 := BitVec.ofNat 64 pa, w3 := 1 }] := by
  have hexec := exec_hbmPatrol (s := s) (fixed := fixed) hh [.home pa]
  have hdie := modDie_die_same s (h / 2) fun x => { x with eccCor := satInc x.eccCor fixed }
  change (s.corrected h fixed).die (h / 2) = _ at hdie
  have hd : pa / 0x2000000000 % 4 = h / 2 := by
    have : 2 * (pa / 0x2000000000) + pa % 0x2000000000 / 1024 % 2 = h := hstack
    omega
  have hmem : (s.corrected h fixed).mem = s.mem := rfl
  generalize s.corrected h fixed = u at hexec hdie hmem
  rw [List.foldl_cons, List.foldl_nil, State.strike, if_pos (by simp [hstack, hbmEnd, hpa])] at hexec
  obtain ⟨hwmem, hpoison, hword⟩ := loseWord_gives u pa hd
  rw [hdie] at hword
  exact ⟨_, hexec, rfl, hwmem.trans hmem, congrArg Die.eccCor hword, hpoison, congrArg Die.eccUnc hword, congrArg Die.evWait hword⟩

end Patrol

/-- Settles O42: a lock by what its walk gives, a shootdown by what it drops everywhere, a reply by what waits, the patrol by the die of its stack. -/
theorem translationCommands : Obligations.TranslationCommands := by
  unfold Obligations.TranslationCommands
  intro s who d val hwho hd result ctx va set x size base wellFormed
  have hreach : reaches who = true := by simp [reaches, hwho]
  refine ⟨fun hop => ⟨fun e l a hwalk hroom => ?_, fun hwalk => ?_⟩, fun hop => ?_, fun hbusy => ?_, fun hidle hgood => ?_, fun hidle hbad => ?_, ?_,
    fun r hr => ⟨fun hop => pgreplyRetry_gives hwho hd hr hop, fun n a p hop _ hdie hagents hcores htiles hlaunches hrx hreqs hpend hpage hva hhold =>
      pgreplyRefuse_gives hwho hd hr hop hdie hagents hcores htiles hlaunches hrx hreqs hpend hpage hva hhold⟩,
    fun i kind c a n hctx hrefuse => ?_, fun h fixed hh => ⟨hbmPatrol_none hh, fun n b w hn hw => hbmPatrol_core hh hn hw,
      fun pa hpa hstack => hbmPatrol_home hh hpa hstack⟩⟩
  · have hexec : exec (.tlblockLock who d val) s = .next (s.lockPage d val).issues :=
      congrArg (fun t => Outcome.next (State.issues t)) (if_pos (by simp [hreach, hop]))
    have hlock := lockPage_leaf (s := s) (d := d) (val := val) hwalk hroom
    rw [hlock] at hexec
    obtain ⟨hin, hkept⟩ := tlbAdd_locked (t := { TlbEntry.ofLeaf (lockCtx val) (lockVa val) e l with locked := true }) rfl hroom
    have hdie := setDie_die s d d { s.die d with tlb := tlbAdd ((s.die d).tlb.filter fun u =>
      !(u.ctx == (TlbEntry.ofLeaf (lockCtx val) (lockVa val) e l).ctx && u.va == (TlbEntry.ofLeaf (lockCtx val) (lockVa val) e l).va &&
        u.size == (TlbEntry.ofLeaf (lockCtx val) (lockVa val) e l).size)) { TlbEntry.ofLeaf (lockCtx val) (lockVa val) e l with locked := true } 8192 }
    rw [if_pos rfl] at hdie
    refine ⟨_, hexec, rfl, rfl, ?_⟩
    refine ⟨(congrArg Die.tlb hdie).symm ▸ hin, fun u hu hlocked => ?_⟩
    exact (congrArg Die.tlb hdie).symm ▸ hkept u hu hlocked
  · have hexec : exec (.tlblockLock who d val) s = .next (s.lockPage d val).issues :=
      congrArg (fun t => Outcome.next (State.issues t)) (if_pos (by simp [hreach, hop]))
    rwa [lockPage_absent hwalk] at hexec
  · have hexec : exec (.tlblockUnlock who d val) s = .next (s.unlockPage d val).issues :=
      congrArg (fun t => Outcome.next (State.issues t)) (if_pos (by simp [hreach, hop]))
    obtain ⟨hlen, hfree⟩ := unlockPage_gives s d val
    exact ⟨_, hexec, rfl, rfl, hlen, hfree⟩
  · rw [exec_sdgo hwho, shootdown_busy hbusy]
  · have hexec := exec_sdgo (s := s) hwho
    rw [shootdown_drops hidle hgood] at hexec
    obtain ⟨hmem, hgone⟩ := dropRange_gives s (bitsOf x.ctl 4 6) (if bitsOf x.ctl 0 2 = 3 then 0 else base) size
    change exec (.sdgo who set) s = .next (State.issues { s.dropRange (bitsOf x.ctl 4 6) (if bitsOf x.ctl 0 2 = 3 then 0 else base) size with
      shoot := s.shoot.set {} set { x with bad := false, busy := true } }) at hexec
    generalize s.dropRange (bitsOf x.ctl 4 6) (if bitsOf x.ctl 0 2 = 3 then 0 else base) size = v at hexec hmem hgone
    refine ⟨_, hexec, rfl, hmem, ?_, ?_, fun u hctx hover => hgone u ?_⟩
    · exact congrArg Shootdown.busy (SMap.get_set_same {} s.shoot set { x with bad := false, busy := true })
    · exact congrArg Shootdown.bad (SMap.get_set_same {} s.shoot set { x with bad := false, busy := true })
    · rw [TlbEntry.hit, hctx, hover, beq_self_eq_true, Bool.and_self]
  · have hexec := exec_sdgo (s := s) hwho
    rw [shootdown_malformed hidle hbad] at hexec
    refine ⟨_, hexec, rfl, rfl, ?_, ?_, rfl⟩
    · exact (congrArg Shootdown.busy (SMap.get_set_same {} s.shoot set { x with bad := true })).trans hidle
    · exact congrArg Shootdown.bad (SMap.get_set_same {} s.shoot set { x with bad := true })
  · have hset := SMap.get_set_same {} s.shoot set { x with busy := false }
    have hbad : (SMap.get {} (s.shoot.set {} set { x with busy := false }) set).bad = x.bad := by rw [hset]
    exact ⟨_, rfl, rfl, rfl, congrArg Shootdown.busy hset, hbad⟩
  · unfold State.reach
    rw [hctx]
    exact if_pos (by rw [hrefuse]; simp)

end Sys2Proof.Machine

/-! LEMMAS and PROOF of O43: migrations (11 R305 R306). -/

namespace Sys2Proof.Machine

open Host (Outcome)

/-! ### What a store does to a migration engine (11 R306) -/

/-- A change of dies that keeps every migration engine. -/
theorem modDie_mig (s : State) (k : Nat) (f : Die → Die) (hf : ∀ x, (f x).mig = x.mig) (d : Nat) : ((s.modDie k f).die d).mig = (s.die d).mig := by
  rw [State.modDie, setDie_die]
  split
  · next h => rw [h, hf]
  · rfl

theorem noteLines_mig (l : List Nat) (x : Die) (h : ∀ line ∈ l, x.mig.note line = x.mig) : (l.foldl Die.noteLine x).mig = x.mig := by
  induction l generalizing x with
  | nil => rfl
  | cons line r ih =>
    have hline : (x.noteLine line).mig = x.mig := h line List.mem_cons_self
    rw [List.foldl_cons, ih (x.noteLine line) (by rw [hline]; exact fun y hy => h y (List.mem_cons_of_mem _ hy)), hline]

/-- A store to lines that an engine does not follow leaves it as it was. -/
theorem noteStore_mig (s : State) (pa n d : Nat) (h : ∀ line ∈ linesOf pa n, (s.die d).mig.note line = (s.die d).mig) :
    ((s.noteStore pa n).die d).mig = (s.die d).mig := by
  unfold State.noteStore
  generalize List.range 4 = l
  induction l generalizing s with
  | nil => rfl
  | cons k r ih =>
    rw [List.foldl_cons]
    have hk : ((if (s.die k).watches then s.modDie k fun x => (linesOf pa n).foldl Die.noteLine x else s).die d).mig = (s.die d).mig := by
      split
      · rw [State.modDie, setDie_die]
        split
        · next hd =>
          subst hd
          exact noteLines_mig _ _ h
        · rfl
      · rfl
    rw [ih _ (by rw [hk]; exact h), hk]

theorem mendAt_dies (s : State) (pa n : Nat) : (s.mendAt pa n).dies = s.dies := by rw [mendAt_only]

theorem putBytes_dies (s : State) (pa : Nat) (bs : List Byte) : (s.putBytes pa bs).dies = s.dies := by rw [putBytes_only]

theorem physWrite_die (s : State) (pa : Nat) (bs : List Byte) (d : Nat) :
    (s.physWrite pa bs).die d = (((s.putBytes pa bs).mendAt pa bs.length).noteStore pa bs.length).die d := by
  unfold State.physWrite
  generalize ((s.putBytes pa bs).mendAt pa bs.length).noteStore pa bs.length = u
  dsimp only
  split <;> rfl

theorem physWrite_mig (s : State) (pa : Nat) (bs : List Byte) (d : Nat)
    (h : ∀ line ∈ linesOf pa bs.length, (s.die d).mig.note line = (s.die d).mig) : ((s.physWrite pa bs).die d).mig = (s.die d).mig := by
  have hdie : ((s.putBytes pa bs).mendAt pa bs.length).die d = s.die d := by
    rw [State.die, mendAt_dies, putBytes_dies, State.die]
  rw [physWrite_die, noteStore_mig _ _ _ _ (by rw [hdie]; exact h), hdie]

theorem noteLoss_mig (s : State) (i : Issuer) (pa d : Nat) : ((s.noteLoss i pa).die d).mig = (s.die d).mig := by
  have hpost : ∀ r, ((s.post (dieOf i.agent) r).die d).mig = (s.die d).mig :=
    fun r => modDie_mig s (dieOf i.agent) (fun x => { x with evWait := x.evWait ++ [r] }) (fun _ => rfl) d
  have hfor : ∀ r, ((s.postFor i r).die d).mig = ((s.post (dieOf i.agent) (s.causedFor i r)).die d).mig :=
    fun r => modDie_mig (s.post (dieOf i.agent) (s.causedFor i r)) (dieOf i.agent)
      (fun x => { x with asked := x.asked.filter (· ≠ (i.agent, r.kind)) }) (fun _ => rfl) d
  have hcount : ∀ u : State, ((u.modDie (eccDie pa) fun x => { x with eccUnc := satInc x.eccUnc 1 }).die d).mig = (u.die d).mig :=
    fun u => modDie_mig u (eccDie pa) (fun x => { x with eccUnc := satInc x.eccUnc 1 }) (fun _ => rfl) d
  rw [State.noteLoss, hcount, hfor, hpost]

/-! ### Bytes of HBM -/

/-- A store in HBM, byte by byte. -/
theorem physWrite_byteAt (s : State) (pa : Nat) (bs : List Byte) (h : pa + bs.length ≤ 0x8000000000) (x : Nat) :
    (s.physWrite pa bs).byteAt x = if pa ≤ x ∧ x < pa + bs.length then bs.getD (x - pa) 0 else s.byteAt x := by
  rw [State.byteAt, physWrite_hbm_mem s pa bs h, putBytes_get, State.byteAt]

/-- A line as it is read. -/
theorem physBytes_byteAt (s : State) (a n k : Nat) (h : a + n ≤ 0x8000000000) (hk : k < n) : (s.physBytes a n).getD k 0 = s.byteAt (a + k) := by
  rw [physBytes_hbm s a n h, bytesAt_getD _ _ _ _ hk, State.byteAt]

/-! ### Lines copied (11 R305 R306) -/

/-- Two ranges of bytes have none in common. -/
def Apart (a b n : Nat) : Prop := a + n ≤ b ∨ b + n ≤ a

/-- One line copied, with what an uncorrectable word of it leaves. -/
def State.copyLine (s : State) (d src dst l : Nat) : State :=
  let t := s.physWrite (dst + 128 * (l - src / 128)) (s.physBytes (128 * l) 128)
  if s.spoiltAt (128 * l) 128 then
    ({ t with poison := (dst / 128 + (l - src / 128)) :: t.poison } : State).noteLoss (unitIssuer d) ((s.lossAt (128 * l) 128).getD (128 * l))
  else t

theorem copyLines_cons (s : State) (d src dst l : Nat) (r : List Nat) :
    s.copyLines d src dst (l :: r) = (s.copyLine d src dst l).copyLines d src dst r := rfl

theorem copyLine_mem (s : State) (d src dst l : Nat) :
    (s.copyLine d src dst l).mem = (s.physWrite (dst + 128 * (l - src / 128)) (s.physBytes (128 * l) 128)).mem := by
  unfold State.copyLine
  generalize s.physWrite (dst + 128 * (l - src / 128)) (s.physBytes (128 * l) 128) = u
  dsimp only
  split <;> rfl

section Copy
variable {src dst size : Nat} (hsrc : src % 128 = 0) (hsize : size % 128 = 0) (hs : src + size ≤ 0x8000000000) (hd : dst + size ≤ 0x8000000000)

include hsrc hsize hs hd in
theorem copyLine_byteAt (s : State) (d : Nat) {l : Nat} (hl : src ≤ 128 * l ∧ 128 * l < src + size) (x : Nat) :
    (s.copyLine d src dst l).byteAt x =
      if dst + (128 * l - src) ≤ x ∧ x < dst + (128 * l - src) + 128 then s.byteAt (128 * l + (x - (dst + (128 * l - src)))) else s.byteAt x := by
  have hplace : dst + 128 * (l - src / 128) = dst + (128 * l - src) := by omega
  rw [State.byteAt, copyLine_mem, ← State.byteAt, physWrite_byteAt _ _ _ (by rw [physBytes_length]; omega), physBytes_length, hplace]
  split
  · next hin => rw [physBytes_byteAt _ _ _ _ (by omega) (by omega)]
  · rfl

include hsrc hsize hs hd in
/-- Lines copied apart from where they stand: each byte of the new frame whose line is listed is that of the old one. -/
theorem copyLines_byteAt (hapart : Apart src dst size) (d : Nat) (ls : List Nat) (hls : ∀ l ∈ ls, src ≤ 128 * l ∧ 128 * l < src + size)
    (s : State) (x : Nat) :
    (s.copyLines d src dst ls).byteAt x =
      if dst ≤ x ∧ x < dst + size ∧ (src + (x - dst)) / 128 ∈ ls then s.byteAt (src + (x - dst)) else s.byteAt x := by
  unfold Apart at hapart
  induction ls generalizing s with
  | nil => simp [State.copyLines]
  | cons l r ih =>
    have hl := hls l List.mem_cons_self
    have hline := copyLine_byteAt hsrc hsize hs hd s d hl
    rw [copyLines_cons, ih (fun y hy => hls y (List.mem_cons_of_mem _ hy))]
    by_cases hin : dst ≤ x ∧ x < dst + size
    · obtain ⟨hlo, hhi⟩ := hin
      have hold : (s.copyLine d src dst l).byteAt (src + (x - dst)) = s.byteAt (src + (x - dst)) := by rw [hline, if_neg (by omega)]
      by_cases hr : (src + (x - dst)) / 128 ∈ r
      · rw [if_pos ⟨hlo, hhi, hr⟩, if_pos ⟨hlo, hhi, List.mem_cons_of_mem _ hr⟩, hold]
      · rw [if_neg (fun h => hr h.2.2), hline]
        by_cases hhere : (src + (x - dst)) / 128 = l
        · rw [if_pos (by omega), if_pos ⟨hlo, hhi, List.mem_cons.mpr (.inl hhere)⟩]
          congr 1
          omega
        · rw [if_neg (by omega), if_neg (fun h => (List.mem_cons.mp h.2.2).elim hhere hr)]
    · rw [if_neg (fun h => hin ⟨h.1, h.2.1⟩), if_neg (fun h => hin ⟨h.1, h.2.1⟩), hline, if_neg (by omega)]

end Copy

/-- Copying to lines that an engine does not follow leaves it as it was. -/
theorem copyLines_mig (d src dst : Nat) (k : Nat) (ls : List Nat) (s : State)
    (h : ∀ l ∈ ls, ∀ line ∈ linesOf (dst + 128 * (l - src / 128)) 128, (s.die k).mig.note line = (s.die k).mig) :
    ((s.copyLines d src dst ls).die k).mig = (s.die k).mig := by
  induction ls generalizing s with
  | nil => rfl
  | cons l r ih =>
    have hline : ((s.copyLine d src dst l).die k).mig = (s.die k).mig := by
      have hwrite := physWrite_mig s (dst + 128 * (l - src / 128)) (s.physBytes (128 * l) 128) k (by
        rw [physBytes_length]; exact h l List.mem_cons_self)
      unfold State.copyLine
      generalize s.physWrite (dst + 128 * (l - src / 128)) (s.physBytes (128 * l) 128) = u at hwrite ⊢
      dsimp only
      split
      · rw [noteLoss_mig]; exact hwrite
      · exact hwrite
    rw [copyLines_cons, ih _ (by rw [hline]; exact fun y hy => h y (List.mem_cons_of_mem _ hy)), hline]

/-! ### MIGGO (11 R305 R306 step 1) -/

/-- The size of the page that MIGCTL names. -/
def Migration.pageSize (m : Migration) : Nat := if bitsOf m.ctl 0 2 = 0 then 2 ^ 16 else 2 ^ 21

/-- MIGCTL and MIGDST are well formed. -/
def Migration.Formed (m : Migration) : Prop :=
  bitsOf m.ctl 56 8 = 0 ∧ bitsOf m.ctl 8 8 = 0 ∧ bitsOf m.ctl 0 2 < 2 ∧ bitsOf m.dst 40 24 = 0 ∧ bitsOf m.dst 0 16 = 0 ∧
    migDst m % m.pageSize = 0 ∧ migDst m + m.pageSize ≤ 0x8000000000 ∧ bitsOf m.ctl 16 40 * 65536 % m.pageSize = 0

theorem migSize_size (m : Migration) : (migSize (bitsOf m.ctl 0 2)).1 = m.pageSize := by
  unfold migSize Migration.pageSize
  split <;> rfl

theorem migSize_level (m : Migration) : (migSize (bitsOf m.ctl 0 2)).2 = if bitsOf m.ctl 0 2 = 0 then 0 else 1 := by
  unfold migSize
  split <;> rfl

theorem malformed_iff (m : Migration) : m.malformed = false ↔ m.Formed := by
  unfold Migration.malformed
  dsimp only
  rw [migSize_size]
  have hend : hbmEnd = 0x8000000000 := rfl
  simp [Migration.Formed, and_assoc, hend]

/-- A page's size is a multiple of 64 KiB. -/
theorem pageSize_mod (m : Migration) : m.pageSize % 65536 = 0 := by
  unfold Migration.pageSize
  split <;> decide

section MigGo
variable {s : State} {d : Nat}

theorem exec_miggo {who : Nat} {val : Word} (hwho : who = 96 + d ∨ who = 100) : exec (.miggo who d val) s = .next (s.migGo d).issues :=
  congrArg (fun t => Outcome.next (State.issues t)) (if_pos (by simpa using hwho))

theorem migGo_running (h : (s.die d).mig.state = 1 ∨ (s.die d).mig.state = 2) : s.migGo d = s := if_pos (by simpa using h)

variable (h1 : (s.die d).mig.state ≠ 1) (h2 : (s.die d).mig.state ≠ 2)
include h1 h2

theorem migGo_malformed (hbad : ¬ (s.die d).mig.Formed) : s.migGo d = s.modMig d fun x => { x with state := 4 } := by
  have hmal : (s.die d).mig.malformed = true := Bool.not_eq_false _ ▸ (malformed_iff _).not.mpr hbad
  have hroom : s.migRoom d = none := if_pos hmal
  unfold State.migGo
  dsimp only
  rw [if_neg (by simp [h1, h2]), hroom]
  exact if_pos hmal

/-- The engine of die `d` as it starts to copy a page whose leaf `e` stands at `a`. -/
def Migration.started (m : Migration) (e : Word) (a : Nat) : Migration :=
  { m with state := 1, leafAt := a, leaf := e, frame := pteAddr e, size := m.pageSize, dirty := [], todo := [], to_ := migDst m
           ctx := bitsOf m.ctl 2 6, va := bitsOf m.ctl 16 40 * 65536, rounds := 0, dirtyCount := 0 }

omit h1 h2 in
theorem migPage_leaf {e : Word} {a : Nat} (hwalk : s.walk (bitsOf (s.die d).mig.ctl 2 6) (bitsOf (s.die d).mig.ctl 16 40 * 65536) =
      .leaf e (if bitsOf (s.die d).mig.ctl 0 2 = 0 then 0 else 1) a)
    (hothers : ∀ k, k < 4 → k ≠ d → (s.die k).mig.state ≠ 1 ∧ (s.die k).mig.state ≠ 2) : s.migPage d = .ok (e, a) := by
  have hfree : ((List.range 4).any fun k => k != d && ((s.die k).mig.state == 1 || (s.die k).mig.state == 2) &&
      overlap (s.die k).mig.frame (s.die k).mig.size (pteAddr e) (migSize (bitsOf (s.die d).mig.ctl 0 2)).1) = false := by
    refine List.any_eq_false.mpr fun k hk => ?_
    by_cases hkd : k = d
    · simp [hkd]
    · obtain ⟨hs1, hs2⟩ := hothers k (List.mem_range.mp hk) hkd
      simp [hs1, hs2]
  unfold State.migPage
  dsimp only
  rw [hwalk]
  exact if_neg (by rw [hfree, migSize_level]; simp)

theorem migGo_starts {e : Word} {a : Nat} (hformed : (s.die d).mig.Formed) (hpage : s.migPage d = .ok (e, a))
    (hfull : s.copyFull d (frameLines (pteAddr e) (s.die d).mig.pageSize) = false) :
    s.migGo d = (s.modMig d (·.started e a)).copyLines d (pteAddr e) (migDst (s.die d).mig) (frameLines (pteAddr e) (s.die d).mig.pageSize) := by
  have hmal : (s.die d).mig.malformed = false := (malformed_iff _).mpr hformed
  have hroom : s.migRoom d = none := by
    unfold State.migRoom
    dsimp only
    rw [if_neg (by rw [hmal]; decide), hpage]
    exact if_neg (by rw [migSize_size, hfull]; decide)
  unfold State.migGo
  dsimp only
  rw [if_neg (by simp [h1, h2]), hroom]
  dsimp only
  rw [if_neg (by rw [hmal]; decide), hpage, migSize_size]
  rfl

end MigGo

/-! ### A page copied whole (11 R306 step 1) -/

/-- An engine that does not follow a line notes nothing of it. -/
theorem note_outside (m : Migration) (line : Nat) (h : line < m.frame / 128 ∨ (m.frame + m.size) / 128 ≤ line) : m.note line = m := by
  refine if_neg fun hc => ?_
  simp only [Bool.and_eq_true, decide_eq_true_eq] at hc
  omega

theorem modMig_mig (s : State) (d : Nat) (f : Migration → Migration) : ((s.modMig d f).die d).mig = f (s.die d).mig := by
  rw [State.modMig, State.modDie, setDie_die, if_pos rfl]

theorem mem_frameLines {frame size l : Nat} (hf : frame % 128 = 0) (hs : size % 128 = 0) :
    l ∈ frameLines frame size ↔ frame ≤ 128 * l ∧ 128 * l < frame + size := by
  unfold frameLines
  rw [List.mem_map]
  constructor
  · rintro ⟨k, hk, rfl⟩
    rw [List.mem_range] at hk
    omega
  · exact fun h => ⟨l - frame / 128, List.mem_range.mpr (by omega), by omega⟩

/-- The lines of a page copied apart from it: the engine of the copy notes nothing, and every byte of the new frame is that of the old one. -/
theorem copyFrame {s : State} {d src dst size : Nat} (hsrc : src % 128 = 0) (hdst : dst % 128 = 0) (hsize : size % 128 = 0)
    (hs : src + size ≤ 0x8000000000) (hd : dst + size ≤ 0x8000000000) (hapart : Apart src dst size)
    (hframe : (s.die d).mig.frame = src) (hlen : (s.die d).mig.size = size) :
    ((s.copyLines d src dst (frameLines src size)).die d).mig = (s.die d).mig ∧
      ∀ x, (s.copyLines d src dst (frameLines src size)).byteAt x = if dst ≤ x ∧ x < dst + size then s.byteAt (src + (x - dst)) else s.byteAt x := by
  constructor
  · refine copyLines_mig d src dst d _ s fun l hl line hline => note_outside _ _ ?_
    have hin := (mem_frameLines hsrc hsize).mp hl
    obtain ⟨k, hk, rfl⟩ := List.mem_map.mp hline
    rw [List.mem_range] at hk
    unfold Apart at hapart
    rw [hframe, hlen]
    omega
  · intro x
    rw [copyLines_byteAt hsrc hsize hs hd hapart d _ (fun l hl => (mem_frameLines hsrc hsize).mp hl)]
    by_cases hin : dst ≤ x ∧ x < dst + size
    · rw [if_pos hin, if_pos ⟨hin.1, hin.2, (mem_frameLines hsrc hsize).mpr (by omega)⟩]
    · rw [if_neg hin, if_neg fun h => hin ⟨h.1, h.2.1⟩]

/-- MIGGO of a well-formed request: the engine starts its first round, and the new frame holds the bytes of the old one. -/
theorem miggo_copies {s : State} {who d : Nat} {val : Word} (hwho : who = 96 + d ∨ who = 100) (h1 : (s.die d).mig.state ≠ 1) (h2 : (s.die d).mig.state ≠ 2)
    {e : Word} {a : Nat} (hformed : (s.die d).mig.Formed) (hpage : s.migPage d = .ok (e, a))
    (hfull : s.copyFull d (frameLines (pteAddr e) (s.die d).mig.pageSize) = false) (hal : pteAddr e % (s.die d).mig.pageSize = 0)
    (hend : pteAddr e + (s.die d).mig.pageSize ≤ 0x8000000000) (hapart : Apart (pteAddr e) (migDst (s.die d).mig) (s.die d).mig.pageSize) :
    ∃ t, exec (.miggo who d val) s = .next t ∧ t.res = .issued ∧ (t.die d).mig = (s.die d).mig.started e a ∧
      ∀ x, t.byteAt x = if migDst (s.die d).mig ≤ x ∧ x < migDst (s.die d).mig + (s.die d).mig.pageSize
        then s.byteAt (pteAddr e + (x - migDst (s.die d).mig)) else s.byteAt x := by
  have hexec := exec_miggo (s := s) (val := val) hwho
  rw [migGo_starts h1 h2 hformed hpage hfull] at hexec
  obtain ⟨-, -, -, -, -, hdst, hdstEnd, -⟩ := hformed
  have hsize := pageSize_mod (s.die d).mig
  have hmig := modMig_mig s d (·.started e a)
  generalize (s.die d).mig = m at *
  have hline : ∀ n : Nat, n % m.pageSize = 0 → n % 128 = 0 := fun n hn =>
    Nat.mod_eq_zero_of_dvd ((Nat.dvd_of_mod_eq_zero (by omega : m.pageSize % 128 = 0)).trans (Nat.dvd_of_mod_eq_zero hn))
  obtain ⟨hkeeps, hbytes⟩ := copyFrame (s := s.modMig d (·.started e a)) (d := d) (hline _ hal) (hline _ hdst) (by omega) hend hdstEnd hapart
    (by rw [hmig]; rfl) (by rw [hmig]; rfl)
  generalize (s.modMig d (·.started e a)).copyLines d (pteAddr e) (migDst m) (frameLines (pteAddr e) m.pageSize) = u at hexec hkeeps hbytes
  exact ⟨_, hexec, rfl, hkeeps.trans hmig, hbytes⟩

/-! ### MIGRATION_ROUND (11 R306 step 2) -/

/-- The lines of a round and those left dirty are a cut of the list; after the first round none was dirty before it began. -/
theorem roundSplit_cut (s : State) (m : Migration) : ∃ j, j ≤ m.dirty.length ∧ (s.roundSplit m).1 = m.todo ++ m.dirty.drop j ∧
    (s.roundSplit m).2 = m.dirty.take j ∧ (m.rounds ≠ 0 → j = m.dirty.length) :=
  ⟨m.dirty.length - (if m.rounds = 0 then min (Config.roundBegan s.fresh) m.dirty.length else 0), Nat.sub_le _ _, rfl, rfl,
    fun h => by rw [if_neg h, Nat.sub_zero]⟩

/-- What a round leaves of the engine, by the number of lines it leaves dirty. -/
def Migration.ended (m : Migration) (left : List Nat) : Migration :=
  let e : Migration := { m with rounds := m.rounds + 1, dirtyCount := left.length, todo := [], dirty := [] }
  if left.length < 16 then { e with state := 2, dirty := left } else if 8 ≤ m.rounds + 1 then { e with state := 5 } else { e with todo := left }

section Round
variable {s : State} {d : Nat}

theorem exec_migrationRound_idle (h : (s.die d).mig.state ≠ 1) : exec (.migrationRound d) s = .next s.issues :=
  congrArg (fun t => Outcome.next (State.issues t)) (if_pos h)

theorem exec_migrationRound (h : (s.die d).mig.state = 1) (hfull : s.copyFull d (s.roundSplit (s.die d).mig).1 = false) :
    exec (.migrationRound d) s = .next (State.issues ((({ s with fresh := s.fresh + 1 } : State).copyLines d (s.die d).mig.frame (s.die d).mig.to_
      (s.roundSplit (s.die d).mig).1).modMig d fun _ => (s.die d).mig.ended (s.roundSplit (s.die d).mig).2)) :=
  (congrArg (fun t => Outcome.next (State.issues t)) (if_neg (not_not.mpr h))).trans
    (congrArg (fun t => Outcome.next (State.issues t)) (if_neg (Bool.eq_false_iff.mp hfull)))

theorem migrationRound_mig (h : (s.die d).mig.state = 1) (hfull : s.copyFull d (s.roundSplit (s.die d).mig).1 = false) :
    ∃ t, exec (.migrationRound d) s = .next t ∧ t.res = .issued ∧ (t.die d).mig = (s.die d).mig.ended (s.roundSplit (s.die d).mig).2 := by
  have hexec := exec_migrationRound h hfull
  generalize (({ s with fresh := s.fresh + 1 } : State).copyLines d (s.die d).mig.frame (s.die d).mig.to_ (s.roundSplit (s.die d).mig).1) = u at hexec
  exact ⟨_, hexec, rfl, modMig_mig u d fun _ => (s.die d).mig.ended (s.roundSplit (s.die d).mig).2⟩

/-- A round copies its lines, and changes no byte outside the new frame. -/
theorem migrationRound_bytes (h : (s.die d).mig.state = 1) (hfull : s.copyFull d (s.roundSplit (s.die d).mig).1 = false) {src dst size : Nat}
    (hsrc : src % 128 = 0) (hsize : size % 128 = 0) (hs : src + size ≤ 0x8000000000) (hd : dst + size ≤ 0x8000000000) (hapart : Apart src dst size)
    (hframe : (s.die d).mig.frame = src) (hto : (s.die d).mig.to_ = dst)
    (hls : ∀ l ∈ (s.roundSplit (s.die d).mig).1, src ≤ 128 * l ∧ 128 * l < src + size) :
    ∃ t, exec (.migrationRound d) s = .next t ∧ t.res = .issued ∧
      (∀ l ∈ (s.roundSplit (s.die d).mig).1, ∀ j, j < 128 → t.byteAt (dst + (128 * l - src) + j) = s.byteAt (128 * l + j)) ∧
        ∀ j, (j < dst ∨ dst + size ≤ j) → t.byteAt j = s.byteAt j := by
  have hexec := exec_migrationRound h hfull
  rw [hframe, hto] at hexec
  have hbytes := copyLines_byteAt hsrc hsize hs hd hapart d _ hls { s with fresh := s.fresh + 1 }
  generalize (({ s with fresh := s.fresh + 1 } : State).copyLines d src dst (s.roundSplit (s.die d).mig).1) = u at hexec hbytes
  refine ⟨_, hexec, rfl, fun l hl j hj => ?_, fun j hj => ?_⟩
  · have hin := hls l hl
    have hline : (src + (dst + (128 * l - src) + j - dst)) / 128 = l := by omega
    have hbyte := hbytes (dst + (128 * l - src) + j)
    rw [if_pos ⟨by omega, by omega, by rw [hline]; exact hl⟩] at hbyte
    refine hbyte.trans (congrArg s.byteAt ?_)
    omega
  · have hbyte := hbytes j
    rw [if_neg (by omega)] at hbyte
    exact hbyte

end Round

/-! ### MIGRATION_SWITCH (11 R306 steps 3 and 4) -/

/-- The moved entry names the new frame, and is otherwise as it was. -/
theorem pteMoved_addr {dst : Nat} (e : Word) (hal : dst % 65536 = 0) (hlt : dst < 2 ^ 40) : pteAddr (pteMoved e dst) = dst := by
  have hbits : (pteMoved e dst).toNat / 2 ^ 8 % 2 ^ 32 = dst / 2 ^ 8 := by
    refine Nat.eq_of_testBit_eq fun i => ?_
    rw [Nat.testBit_mod_two_pow, Nat.testBit_div_two_pow, Nat.testBit_div_two_pow, BitVec.testBit_toNat]
    by_cases hi : i < 32
    · have hmask : (0xFFFFFFFF00 : Word).getLsbD (8 + i) = true := by
        revert hi; revert i; decide
      have hin : 8 + i < 64 := by omega
      have hclear : (~~~(0xFFFFFFFF00 : Word)).getLsbD (8 + i) = false := by rw [BitVec.getLsbD_not, hmask, Bool.not_true, Bool.and_false]
      rw [Nat.add_comm i 8, pteMoved, BitVec.getLsbD_or, BitVec.getLsbD_and, hclear, Bool.and_false, Bool.false_or, BitVec.getLsbD_ofNat,
        decide_eq_true hi, decide_eq_true hin, Bool.true_and, Bool.true_and]
    · have hhigh : dst.testBit (8 + i) = false := Nat.testBit_lt_two_pow (hlt.trans_le (Nat.pow_le_pow_right (by decide) (by omega)))
      simp [hi, hhigh, Nat.add_comm i 8]
  unfold pteAddr bitsOf
  rw [hbits]
  omega

theorem pteMoved_rest {dst : Nat} (e : Word) (hal : dst % 65536 = 0) (hlt : dst < 2 ^ 40) :
    pteMoved e dst &&& 0xFFFFFF00000000FF = e &&& 0xFFFFFF00000000FF := by
  have hmask : ∀ i < 64, (0xFFFFFF00000000FF : Word).getLsbD i = decide (i < 8 ∨ 40 ≤ i) ∧ (0xFFFFFFFF00 : Word).getLsbD i = decide (8 ≤ i ∧ i < 40) := by
    decide
  refine BitVec.eq_of_getLsbD_eq fun i hi => ?_
  obtain ⟨hkeep, hmove⟩ := hmask i hi
  simp only [pteMoved, BitVec.getLsbD_and, BitVec.getLsbD_or, BitVec.getLsbD_not, BitVec.getLsbD_ofNat, hkeep, hmove]
  by_cases hin : i < 8 ∨ 40 ≤ i
  · have hdst : dst.testBit i = false := by
      rcases hin with hlow | hhigh
      · have : dst % 2 ^ 16 = 0 := hal
        have hbit := Nat.testBit_mod_two_pow dst 16 i
        rw [this, Nat.zero_testBit] at hbit
        simpa [show i < 16 by omega] using hbit.symm
      · exact Nat.testBit_lt_two_pow (hlt.trans_le (Nat.pow_le_pow_right (by decide) hhigh))
    have hout : ¬ (8 ≤ i ∧ i < 40) := by omega
    simp [hin, hdst, hout, hi]
  · simp [hin]

/-- A shootdown keeps every migration engine. -/
theorem dropRange_mig (s : State) (ctx va size d : Nat) : ((s.dropRange ctx va size).die d).mig = (s.die d).mig := by
  have hdies : ∀ (l : List Nat) (u : State), ((l.foldl (State.dropDie ctx va size) u).die d).mig = (u.die d).mig := by
    intro l
    induction l with
    | nil => exact fun u => rfl
    | cons k r ih =>
      intro u
      rw [List.foldl_cons, ih, dropDie_die]
      split <;> rfl
  rw [dropRange_eq, ← hdies (List.range 4) s]
  generalize (List.range 4).foldl (State.dropDie ctx va size) s = t
  rw [State.die, (modAllCores_frame t (·.dropRange ctx va size)).2, State.die]

theorem copyFull_nil (s : State) (d : Nat) : s.copyFull d [] = false := rfl

theorem copyLines_nil (s : State) (d src dst : Nat) : s.copyLines d src dst [] = s := rfl

section Switch
variable {s : State} {d : Nat} (h : (s.die d).mig.state = 2) (hdirty : (s.die d).mig.dirty = [])
include h hdirty

theorem exec_migrationSwitch_changed (hpte : s.physWord (s.die d).mig.leafAt 8 ≠ (s.die d).mig.leaf.toNat) :
    exec (.migrationSwitch d) s = .next (State.issues (s.modMig d fun x => { x with state := 6, dirty := [] })) := by
  have hne : (BitVec.ofNat 64 (s.physWord (s.die d).mig.leafAt 8) : Word) ≠ (s.die d).mig.leaf := by
    intro heq
    refine hpte ?_
    rw [← heq, BitVec.toNat_ofNat, Nat.mod_eq_of_lt (physWord_lt s _)]
  show execMigrationSwitch d s = _
  unfold execMigrationSwitch
  dsimp only
  rw [if_neg (not_not.mpr h), hdirty, copyFull_nil, copyLines_nil, if_neg Bool.false_ne_true, if_pos hne]
  rfl

theorem exec_migrationSwitch_same (hpte : s.physWord (s.die d).mig.leafAt 8 = (s.die d).mig.leaf.toNat) :
    exec (.migrationSwitch d) s = .next (State.issues (((s.modMig d fun x => { x with state := 3, dirty := [] }).physWrite (s.die d).mig.leafAt
      (toBytes (pteMoved (s.die d).mig.leaf (s.die d).mig.to_).toNat 8)).dropRange (s.die d).mig.ctx (s.die d).mig.va (s.die d).mig.size)) := by
  have heq : (BitVec.ofNat 64 (s.physWord (s.die d).mig.leafAt 8) : Word) = (s.die d).mig.leaf := by rw [hpte, BitVec.ofNat_toNat, BitVec.setWidth_eq]
  show execMigrationSwitch d s = _
  unfold execMigrationSwitch
  dsimp only
  rw [if_neg (not_not.mpr h), hdirty, copyFull_nil, copyLines_nil, if_neg Bool.false_ne_true, if_neg (not_not.mpr heq), heq]
  rfl

end Switch

/-- The switch of a page whose entry stands: the entry names the new frame, and a shootdown of the page follows. -/
theorem migrationSwitch_moves {s : State} {d : Nat} (h : (s.die d).mig.state = 2) (hdirty : (s.die d).mig.dirty = [])
    (hleaf : (s.die d).mig.leafAt + 8 ≤ 0x8000000000)
    (hpte : s.physWord (s.die d).mig.leafAt 8 = (s.die d).mig.leaf.toNat) :
    ∃ t, exec (.migrationSwitch d) s = .next t ∧ t.res = .issued ∧ (t.die d).mig = { (s.die d).mig with state := 3, dirty := [] } ∧
      (BitVec.ofNat 64 (t.physWord (s.die d).mig.leafAt 8) : Word) = pteMoved (s.die d).mig.leaf (s.die d).mig.to_ ∧
      (∀ j, (j < (s.die d).mig.leafAt ∨ (s.die d).mig.leafAt + 8 ≤ j) → t.byteAt j = s.byteAt j) ∧
      ∀ u : TlbEntry, u.hit (s.die d).mig.ctx (s.die d).mig.va (s.die d).mig.size = true →
        (∀ k, k < 4 → u ∉ (t.die k).tlb) ∧ ∀ n, u ∉ (t.core n).utlb := by
  have hexec := exec_migrationSwitch_same h hdirty hpte
  have hmig := modMig_mig s d fun x => { x with state := 3, dirty := [] }
  have hmem : (s.modMig d fun x => { x with state := 3, dirty := [] }).mem = s.mem := rfl
  generalize (s.die d).mig = m at *
  generalize (s.modMig d fun x => { x with state := 3, dirty := [] }) = v at *
  have hlen := toBytes_length (pteMoved m.leaf m.to_).toNat 8
  have hread := physBytes_physWrite v m.leafAt (toBytes (pteMoved m.leaf m.to_).toNat 8) (by rw [hlen]; exact hleaf)
  have hout := physWrite_byteAt_out v m.leafAt (toBytes (pteMoved m.leaf m.to_).toNat 8)
  have hkeep := physWrite_mig v m.leafAt (toBytes (pteMoved m.leaf m.to_).toNat 8) d fun line _ => by
    rw [hmig]
    exact if_neg (by simp)
  rw [hlen] at hread hout
  have hval : ofBytes (toBytes (pteMoved m.leaf m.to_).toNat 8) = (pteMoved m.leaf m.to_).toNat := by
    rw [ofBytes_toBytes]
    exact Nat.mod_eq_of_lt (pteMoved m.leaf m.to_).isLt
  generalize v.physWrite m.leafAt (toBytes (pteMoved m.leaf m.to_).toNat 8) = w at *
  obtain ⟨hdmem, hgone⟩ := dropRange_gives w m.ctx m.va m.size
  have hdmig := dropRange_mig w m.ctx m.va m.size d
  generalize w.dropRange m.ctx m.va m.size = t at *
  have hword : t.physWord m.leafAt 8 = (pteMoved m.leaf m.to_).toNat := by
    rw [State.physWord, physBytes_hbm _ _ _ hleaf, hdmem, ← physBytes_hbm _ _ _ hleaf, hread, hval]
  refine ⟨_, hexec, rfl, hdmig.trans (hkeep.trans hmig), ?_, fun j hj => ?_, hgone⟩
  · exact (congrArg (BitVec.ofNat 64) hword).trans (by rw [BitVec.ofNat_toNat, BitVec.setWidth_eq])
  · exact (congrArg (fun x => SMap.get 0 x j) hdmem).trans ((hout j hj).trans (congrArg (fun x => SMap.get 0 x j) hmem))

/-- Settles O43: MIGGO copies the page's lines in order; a round copies those of its cut, and the number it leaves decides; the switch writes one entry
and drops what a shootdown of the page drops. -/
theorem migrations : Obligations.Migrations := by
  unfold Obligations.Migrations
  intro s who d val hd hwho m dst va size apart result formed
  refine ⟨fun hrun => ?_, fun h1 h2 => ⟨fun hbad => ?_, fun e a hformed hwalk hal hend hapart hothers hfull => ?_⟩, exec_migrationRound_idle,
    fun h hfull => ?_, fun h hdirty hleaf hto hlt => ⟨fun hpte => ?_, fun hpte => ?_⟩⟩
  · rw [exec_miggo hwho, migGo_running hrun]
  · refine ⟨_, exec_miggo hwho, rfl, ?_, ?_⟩
    · rw [migGo_malformed h1 h2 hbad]
      exact modMig_mig s d fun x => { x with state := 4 }
    · rw [migGo_malformed h1 h2 hbad]
      rfl
  · exact miggo_copies hwho h1 h2 hformed (migPage_leaf hwalk hothers) hfull hal hend hapart
  · obtain ⟨t, hexec, hres, hmig⟩ := migrationRound_mig h hfull
    intro ls left ended
    refine ⟨roundSplit_cut s m, fun hfew => ⟨t, hexec, hres, hmig.trans (if_pos hfew)⟩,
      fun hmany hlast => ⟨t, hexec, hres, hmig.trans ((if_neg (Nat.not_lt.mpr hmany)).trans (if_pos (Nat.succ_le_succ hlast)))⟩,
      fun hmany hmore => ⟨t, hexec, hres, hmig.trans ((if_neg (Nat.not_lt.mpr hmany)).trans (if_neg (Nat.not_le.mpr (Nat.succ_lt_succ hmore))))⟩, fun hal hsize hend hto hapart hls => ?_⟩
    have hpage : size % 65536 = 0 := pageSize_mod m
    exact migrationRound_bytes h hfull (by omega) (by omega) hend hto hapart rfl rfl hls
  · have hexec := exec_migrationSwitch_changed h hdirty hpte
    refine ⟨_, hexec, rfl, ?_, rfl⟩
    refine (modMig_mig s d fun x => { x with state := 6, dirty := [] }).trans ?_
    rw [← hdirty]
  · obtain ⟨t, hexec, hres, hmig, hword, hbytes, hgone⟩ := migrationSwitch_moves h hdirty hleaf hpte
    refine ⟨t, hexec, hres, hmig.trans (by rw [← hdirty]), ?_, ?_, hbytes, fun u hctx hover => hgone u ?_⟩
    · rw [hword, pteMoved_addr _ hto hlt]
    · rw [hword, pteMoved_rest _ hto hlt]
    · rw [TlbEntry.hit, hctx, hover, beq_self_eq_true, Bool.and_self]

end Sys2Proof.Machine

/-! LEMMAS and PROOF of O44: launches are activated, dispatched, completed and reported (12 R312 R315 to R318 R326 R327, 05 R128). -/

namespace Sys2Proof.Machine

open Host (Outcome)

/-- The value of a listed key is that of an entry. -/
theorem SMap.get_mem {α : Type} (d : α) (m : SMap α) (k : Nat) (h : k ∈ m.map (·.1)) : ∃ p ∈ m, p.2 = SMap.get d m k := by
  induction m with
  | nil => exact absurd h List.not_mem_nil
  | cons p r ih =>
    by_cases hk : p.1 = k
    · exact ⟨p, List.mem_cons_self, (if_pos hk).symm⟩
    · obtain ⟨q, hq, hget⟩ := ih ((List.mem_cons.mp h).resolve_left fun he => hk he.symm)
      exact ⟨q, List.mem_cons_of_mem _ hq, hget.trans (if_neg hk).symm⟩

/-! ### A launch by its number -/

theorem launch_num {s : State} {num : Nat} {l : Launch} (h : s.launch num = some l) : l.num = num := by
  simpa using List.find?_some h

/-- A launch that is changed and keeps its number. -/
theorem modLaunch_launch {s : State} {num : Nat} {l : Launch} (h : s.launch num = some l) (f : Launch → Launch) (hf : ∀ x, (f x).num = x.num) :
    (s.modLaunch num f).launch num = some (f l) := by
  unfold State.launch at *
  show (s.launches.map fun l => if l.num = num then f l else l).find? (·.num == num) = _
  rw [List.find?_map]
  have hsame : ((fun x : Launch => x.num == num) ∘ fun l => if l.num = num then f l else l) = fun x => x.num == num := by
    funext x
    dsimp only [Function.comp]
    split
    · rw [hf]
    · rfl
  rw [hsame, h, Option.map_some, if_pos (launch_num h)]

/-- The watchdog's clock of a launch is set running or stopped; the launch is else as it was (12 R334). -/
theorem touchClock_launch {s : State} {num : Nat} {l : Launch} (h : s.launch num = some l) :
    ∃ from_ acc, (s.touchClock num).launch num = some { l with clockFrom := from_, clockAcc := acc } := by
  unfold State.touchClock
  dsimp only
  rw [modLaunch_launch h]
  · split <;> exact ⟨_, _, rfl⟩
  · intro x
    split <;> rfl

theorem touchClock_frame (s : State) (num : Nat) : (s.touchClock num).mem = s.mem ∧ (s.touchClock num).cores = s.cores ∧
    (s.touchClock num).agents = s.agents ∧ (s.touchClock num).dies = s.dies ∧ (s.touchClock num).cycle = s.cycle := ⟨rfl, rfl, rfl, rfl, rfl⟩

/-! ### A launch that is not over -/

theorem undispatched_not_over (s : State) {l : Launch} (h : l.undispatched = true) : s.isOver l = false := by
  unfold State.isOver
  rw [h]
  simp

theorem tryFinish_idle {s : State} {num : Nat} {l : Launch} (h : s.launch num = some l) (hover : s.isOver l = false) : s.tryFinish num = s := by
  unfold State.tryFinish
  rw [h]
  exact if_pos (by rw [hover]; rfl)

/-- A launch of which a core runs a task is not over. -/
theorem running_not_over {s : State} {l : Launch} {n : Nat} {y : Task} (h : (s.core n).task = some y) (hy : y.launch = l.num) : s.isOver l = false := by
  obtain ⟨p, hp, htask⟩ : ∃ p ∈ s.cores, p.2.task = some y := by
    by_contra hnone
    by_cases hin : n ∈ s.cores.map (·.1)
    · obtain ⟨p, hp, hget⟩ := SMap.get_mem {} s.cores n hin
      exact hnone ⟨p, hp, by rw [hget]; exact h⟩
    · rw [State.core, SMap.get_of_not_mem _ _ _ hin] at h
      cases h
  have hholds : (s.holdsTask l.num fun _ => true) = true := by
    unfold State.holdsTask
    refine Bool.or_eq_true_iff.mpr (.inl (List.any_eq_true.mpr ⟨p, hp, ?_⟩))
    rw [htask]
    simp [hy]
  unfold State.isOver State.allReported
  rw [hholds]
  simp

/-! ### A task begins (01 R11, 12 R316) -/

/-- Task `x` of launch `l` stands on core `n` as it begins, with everything the launch does not give it zero. -/
def State.Begun (t : State) (l : Launch) (d n x c origin : Nat) : Prop :=
  (∃ y, (t.core n).task = some y ∧ y.launch = l.num ∧ y.tidx = x ∧ y.ctx = l.ctx ∧ y.die = d ∧ y.origin = origin ∧
    y.coords = (if l.isBind then [] else coordsOf l.table x) ∧ (t.agent n).regs.rs 2 = y.desc) ∧
  (t.core n).scratch = [] ∧ (t.core n).claims = [] ∧ (t.core n).acc = [] ∧ (t.core n).status = 0 ∧ (t.core n).qscale = 0 ∧
  (t.agent n).run = .running ∧ (t.agent n).pc = Rec_word l.rec_ 4 ∧ (t.agent n).earliest = c ∧ (t.agent n).loops = [] ∧
  (t.agent n).links = [] ∧ (t.agent n).regs.rs 1 = Rec_word l.rec_ 1 ∧ (∀ j, j ≠ 1 → j ≠ 2 → (t.agent n).regs.rs j = 0) ∧
  (∀ j, j ≠ 0 → (t.agent n).regs.rp j = { bits := 0, tag := true }) ∧ (∀ j, (t.agent n).regs.rv j = 0)

/-- The registers in which a task begins. -/
def taskRegs (arg desc : Word) : Regs := { s := SMap.set 0 (SMap.set 0 [] 1 arg) 2 desc }

theorem taskRegs_rs (arg desc : Word) (j : Nat) : (taskRegs arg desc).rs j = if j = 0 then 0 else if j = 2 then desc else if j = 1 then arg else 0 := by
  show (if j = 0 then 0 else SMap.get 0 (SMap.set 0 (SMap.set 0 [] 1 arg) 2 desc) j) = _
  rw [SMap.get_set, SMap.get_set]
  rfl

section Begin
variable (s : State) (l : Launch) (d x n c origin : Nat)

/-- The task as it stands on its core. -/
def State.placedTask : Task :=
  if s.dbgHalt && ltStamped l.table then { s.taskOf l d x origin with doom := some cStamp } else s.taskOf l d x origin

theorem beginTask_core : (s.beginTask l d x n c origin).core n = { (s.core n).bare with task := some (s.placedTask l d x origin) } :=
  SMap.get_set_same ..

theorem beginTask_agent : (s.beginTask l d x n c origin).agent n =
    { run := .running, pc := Rec_word l.rec_ 4, earliest := c
      regs := taskRegs (Rec_word l.rec_ 1) (s.taskOf l d x origin).desc } := by
  have hset : ∀ (u : State) (a : Agent) (f : Launch → Launch) (i : Nat),
      (({ (u.setAgent n a).modLaunch l.num f with nextId := i } : State).touchClock l.num).agent n = a := fun u a f i => by
    refine Eq.trans (b := (u.setAgent n a).agent n) rfl ?_
    rw [setAgent_agent, if_pos rfl]
  exact hset _ _ _ _

theorem beginTask_mem : (s.beginTask l d x n c origin).mem = s.mem := by
  have hmem : ∀ (u : State) (k : Core) (a : Agent) (f : Launch → Launch) (i : Nat),
      ({ ((u.setCore n k).setAgent n a).modLaunch l.num f with nextId := i } : State).mem = u.mem := fun u k a f i => rfl
  exact (touchClock_frame _ _).1.trans (hmem _ _ _ _ _)

theorem placedTask_gives : (s.placedTask l d x origin).launch = l.num ∧ (s.placedTask l d x origin).tidx = x ∧
    (s.placedTask l d x origin).ctx = l.ctx ∧ (s.placedTask l d x origin).die = d ∧ (s.placedTask l d x origin).origin = origin ∧
    (s.placedTask l d x origin).coords = (if l.isBind then [] else coordsOf l.table x) ∧
    (s.placedTask l d x origin).desc = (s.taskOf l d x origin).desc := by
  unfold State.placedTask
  split <;> exact ⟨rfl, rfl, rfl, rfl, rfl, rfl, rfl⟩

omit s l d x n c origin in
/-- What a core holds at dispatch beside what it keeps. -/
theorem bare_empty (k : Core) (t : Option Task) : ({ k.bare with task := t } : Core).scratch = [] ∧ ({ k.bare with task := t } : Core).claims = [] ∧
    ({ k.bare with task := t } : Core).acc = [] ∧ ({ k.bare with task := t } : Core).status = 0 ∧ ({ k.bare with task := t } : Core).qscale = 0 :=
  ⟨rfl, rfl, rfl, rfl, rfl⟩

theorem beginTask_begun : (s.beginTask l d x n c origin).Begun l d n x c origin := by
  obtain ⟨hlaunch, htidx, hctx, hdie, horigin, hcoords, hdesc⟩ := placedTask_gives s l d x origin
  obtain ⟨hscratch, hclaims, hacc, hstatus, hqscale⟩ := bare_empty (s.core n) (some (s.placedTask l d x origin))
  have hcore := beginTask_core s l d x n c origin
  have hagent := beginTask_agent s l d x n c origin
  generalize s.beginTask l d x n c origin = t at hcore hagent
  generalize s.placedTask l d x origin = y at *
  generalize (s.taskOf l d x origin).desc = desc at *
  unfold State.Begun
  rw [hcore, hagent]
  refine ⟨⟨y, rfl, hlaunch, htidx, hctx, hdie, horigin, hcoords, (taskRegs_rs _ _ 2).trans hdesc.symm⟩,
    hscratch, hclaims, hacc, hstatus, hqscale, rfl, rfl, rfl, rfl, rfl, taskRegs_rs _ _ 1, fun j h1 h2 => ?_, fun j hj => if_neg hj, fun j => rfl⟩
  refine (taskRegs_rs _ _ j).trans ?_
  rw [if_neg h2, if_neg h1, ite_self]

end Begin

/-- A task that begins changes of its launch the counts of dispatches alone. -/
theorem beginTask_launch {s : State} {l l' : Launch} (h : s.launch l.num = some l') (d x n c origin : Nat) :
    ∃ z, (s.beginTask l d x n c origin).launch l.num = some z ∧ z.active = l'.active ∧ z.begun = l'.begun ∧ z.frame0 = l'.frame0 := by
  have hmod : ∀ (u : State) (i : Nat) (f : Launch → Launch), u.launches = s.launches → (∀ y, (f y).num = y.num) →
      ({ u.modLaunch l.num f with nextId := i } : State).launch l.num = some (f l') := fun u i f hu hf => by
    refine (modLaunch_launch (s := u) (num := l.num) (l := l') ?_ f hf)
    rw [State.launch, hu]
    exact h
  unfold State.beginTask
  dsimp only
  obtain ⟨from_, acc, hz⟩ := touchClock_launch (hmod ((s.modCoreAt n fun k => { k.bare with task := some (s.placedTask l d x origin) }).setAgent n
    { run := .running, pc := (s.taskOf l d x origin).entry, earliest := c
      regs := taskRegs (s.taskOf l d x origin).arg (s.taskOf l d x origin).desc }) (s.nextId + 1)
    (fun y => { y with sent := y.sent.set 0 d (y.sent.get 0 d + 1), strands := y.strands.set 0 (strandOf l.table x) (n + 1)
                       next := if ltStamped l.table && !l.isBind then y.next.set 0 (strandOf l.table x) (x + 1) else y.next.set 0 d (x + 1) })
    rfl (fun _ => rfl))
  exact ⟨_, hz, rfl, rfl, rfl⟩

/-! ### LAUNCH_ACTIVATE (12 R312) -/

section Activate
variable {s : State} {num : Nat} {l : Launch} (h : s.launch num = some l)
include h

theorem launchActivate_active (hactive : l.active = true) : exec (.launchActivate num) s = .next s.issues := by
  show execLaunchActivate num s = _
  unfold execLaunchActivate
  rw [h]
  exact congrArg (fun t => Outcome.next (State.issues t)) (if_pos (by simp [State.mayGather, hactive]))

theorem launchActivate_takes (hactive : l.active = false) (hbind : l.isBind = false) (habort : l.abort = none) (hst : ltStamped l.table = false)
    (hundis : l.undispatched = true) (hstart : (Rec_word l.rec_ 7).toNat ≤ s.now) (hgate : s.gate.getLsbD l.prio = false ∨ l.released = true)
    (hfirst : ∀ x ∈ s.launches, x.active = true ∨ x.before l = false) (htaking : s.takingWaits num = false) {p : Nat}
    (hslot : s.slotPlace l.depth = some p) :
    ∃ t, exec (.launchActivate num) s = .next t ∧ t.res = .issued ∧ t.mem = s.mem ∧
      t.launch num = some { l with active := true, place := p, sinkTime := s.now } := by
  have hnum := launch_num h
  have hgather : s.mayGather l = true := by
    rcases hgate with hgate | hgate <;> simp [State.mayGather, hactive, hbind, habort, hst, hslot, hnum, htaking, hgate]
  have hcan : s.canActivate l = true := by simp [State.canActivate, hgather, Launch.start, hbind, hstart]
  have hlead : s.isFirst l = true := by
    refine List.all_eq_true.mpr fun x hx => ?_
    rcases hfirst x hx with hx | hx <;> simp [State.ready, State.canActivate, State.mayGather, hx]
  have hact : s.activate l = s.modLaunch num fun x => { x with active := true, place := p, sinkTime := s.now } := by
    unfold State.activate
    rw [hslot, hnum]
  have hlaunch := modLaunch_launch h (fun x => { x with active := true, place := p, sinkTime := s.now }) fun _ => rfl
  have hfin := tryFinish_idle hlaunch (undispatched_not_over _ hundis)
  have hexec : exec (.launchActivate num) s = .next (State.issues ((s.activate l).tryFinish num)) := by
    show execLaunchActivate num s = _
    unfold execLaunchActivate
    rw [h]
    dsimp only
    rw [hgather, hst, hcan, hlead]
    rfl
  rw [hact, hfin] at hexec
  exact ⟨_, hexec, rfl, rfl, hlaunch⟩

end Activate

/-! ### Frame 0 of a stamped launch (12 R326) -/

theorem firstAt_le (s : State) {t c : Nat} (ht : t ≤ s.timeAt c) : ∀ m c0, c0 ≤ c → c ≤ c0 + m → s.firstAt t c0 m ≤ c
  | 0, _, hlo, _ => hlo
  | m + 1, c0, hlo, hhi => by
    unfold State.firstAt
    split
    · exact hlo
    · next hnot =>
      have hne : c0 ≠ c := fun he => hnot (he ▸ ht)
      exact firstAt_le s ht m (c0 + 1) (by omega) (by omega)

theorem foldl_max_le {α : Type} (f : α → Nat) (c : Nat) (l : List α) (h : ∀ x ∈ l, f x ≤ c) : ∀ m, m ≤ c → l.foldl (fun m x => max m (f x)) m ≤ c := by
  induction l with
  | nil => exact fun m hm => hm
  | cons x r ih => exact fun m hm => ih (fun y hy => h y (List.mem_cons_of_mem _ hy)) _ (Nat.max_le.mpr ⟨hm, h x List.mem_cons_self⟩)

theorem frameZero_le (s : State) (l : Launch) {c : Nat}
    (hcores : ∀ e m, e < 4 → m ∈ s.gatheredOn l.num e → ((s.core m).governTo s.ramp none s.arrayCycle 200).fullAt ≤ c ∧ (s.agent m).earliest ≤ c)
    (hc : c ≤ s.cycle) (hstart : l.start ≤ s.timeAt c) : s.frameZero l ≤ c := by
  unfold State.frameZero
  have hlast : ∀ (ds : List Nat), (∀ e ∈ ds, e < 4) → ∀ m, m ≤ c → ds.foldl (fun m d => (s.gatheredOn l.num d).foldl
      (fun x n => max x (max (s.agent n).earliest ((s.core n).governTo s.ramp none s.arrayCycle 200).fullAt)) m) m ≤ c := by
    intro ds
    induction ds with
    | nil => exact fun _ m hm => hm
    | cons d r ih =>
      intro hds m hm
      refine ih (fun e he => hds e (List.mem_cons_of_mem _ he)) _ (foldl_max_le _ c _ (fun n hn => ?_) m hm)
      obtain ⟨hfull, hearly⟩ := hcores d n (hds d List.mem_cons_self) hn
      exact Nat.max_le.mpr ⟨hearly, hfull⟩
  have hlo := hlast (List.range 4) (fun e he => List.mem_range.mp he) 0 (Nat.zero_le c)
  exact firstAt_le s hstart _ _ hlo (by omega)

/-! ### STAMPED_GATHER_DONE: a launch of one task (12 R326) -/

section OneTask
variable {tb : Rec} (hlev : ltLevels tb = 0)
include hlev

theorem ltDims_none : ltDims tb = [] := by rw [ltDims, hlev]; rfl

theorem ltTotal_one : ltTotal tb = 1 := by rw [ltTotal, ltDims_none hlev]; rfl

theorem inShare_one (d x : Nat) : inShare tb none d x = (d == 0) := by
  have hnone : ltOf tb 2 = [] := by rw [ltOf, ltDims_none hlev]; rfl
  unfold inShare
  dsimp only
  rw [hnone]
  rfl

theorem strandsList_first : strandsList tb none 0 = [strandOf tb 0] := by
  unfold strandsList
  rw [ltTotal_one hlev]
  have hone : (List.range 1).filter (inShare tb none 0) = [0] := by
    show [0].filter (inShare tb none 0) = [0]
    rw [List.filter_cons_of_pos (by rw [inShare_one hlev]; rfl), List.filter_nil]
  rw [hone]
  rfl

theorem strandsList_other {d : Nat} (hd : d ≠ 0) : strandsList tb none d = [] := by
  unfold strandsList
  rw [ltTotal_one hlev]
  have hone : (List.range 1).filter (inShare tb none d) = [] := by
    show [0].filter (inShare tb none d) = []
    rw [List.filter_cons_of_neg (by rw [inShare_one hlev]; simpa using hd), List.filter_nil]
  rw [hone]
  rfl

end OneTask

/-- A launch of one task begins it on the first core gathered on die 0. -/
theorem beginStrands_one {l : Launch} (hlev : ltLevels l.table = 0) (hdie : l.onDie = none) {s : State} {n c : Nat} {r : List Nat}
    (hhead : s.gatheredOn l.num 0 = n :: r) :
    (List.range 4).foldl (fun t d => t.beginStrands l d (strandsList l.table l.onDie d) (t.gatheredOn l.num d) c) s = s.beginTask l 0 0 n c c := by
  have hnil : ∀ (t : State) (d : Nat) (ns : List Nat), t.beginStrands l d [] ns c = t := fun t d ns => rfl
  have hfind : (List.range (ltTotal l.table)).find? (fun x => inShare l.table l.onDie 0 x && strandOf l.table x == strandOf l.table 0) = some 0 := by
    rw [ltTotal_one hlev, hdie]
    show [0].find? _ = some 0
    rw [List.find?_cons_of_pos (by rw [inShare_one hlev]; simp)]
  have hzero : s.beginStrands l 0 (strandsList l.table l.onDie 0) (s.gatheredOn l.num 0) c = s.beginTask l 0 0 n c c := by
    rw [hdie, strandsList_first hlev, hhead]
    unfold State.beginStrands
    rw [hfind]
    exact hnil _ _ _
  have hdies : List.range 4 = [0, 1, 2, 3] := rfl
  rw [hdies, List.foldl_cons, hzero]
  simp only [List.foldl_cons, List.foldl_nil, hdie, strandsList_other hlev (by decide : 1 ≠ 0), strandsList_other hlev (by decide : 2 ≠ 0),
    strandsList_other hlev (by decide : 3 ≠ 0), hnil]

/-- The launch in slot `p` from `now` on, its strands begun in frame 0 at cycle `c`. -/
def Launch.opened (l : Launch) (p now c : Nat) : Launch := { l with active := true, place := p, sinkTime := now, begun := true, frame0 := c }

/-- The launch moves to an active slot, and its strands begin. -/
def State.opened (s : State) (l : Launch) : State := (s.activate l).modLaunch l.num fun x => { x with begun := true, frame0 := s.frameZero l }

theorem stampedGatherDone_begins {s : State} {num : Nat} {l : Launch} (h : s.launch num = some l) (hst : ltStamped l.table = true)
    (hlev : ltLevels l.table = 0) (hbind : l.isBind = false) (hdie : l.onDie = none) (hcan : s.canActivate l = true) (hgathered : s.gathered l = true)
    (hfirst : s.isFirst l = true) (hfree : s.gatheredFree num = true) {n : Nat} (hhead : (s.gatheredOn num 0).head? = some n) :
    ∃ t, exec (.stampedGatherDone num) s = .next t ∧ t.res = .issued ∧ t.mem = s.mem ∧ t.Begun l 0 n 0 (s.frameZero l) (s.frameZero l) ∧
      ∃ y, t.launch num = some y ∧ y.active = true ∧ y.begun = true ∧ y.frame0 = s.frameZero l := by
  have hnum := launch_num h
  subst hnum
  obtain ⟨p, hslot⟩ : ∃ p, s.slotPlace l.depth = some p := by
    refine Option.isSome_iff_exists.mp ?_
    unfold State.canActivate State.mayGather at hcan
    simp only [Bool.and_eq_true] at hcan
    obtain ⟨⟨⟨⟨⟨-, hsome⟩, -⟩, -⟩, -⟩, -⟩ := hcan
    exact hsome
  have hact : s.activate l = s.modLaunch l.num fun x => { x with active := true, place := p, sinkTime := s.now } := by
    unfold State.activate
    rw [hslot]
  have hlaunch : (s.opened l).launch l.num = some (l.opened p s.now (s.frameZero l)) := by
    have hone := modLaunch_launch h (fun x => { x with active := true, place := p, sinkTime := s.now }) fun _ => rfl
    exact modLaunch_launch (s := s.activate l) (by rw [hact]; exact hone) (fun x => { x with begun := true, frame0 := s.frameZero l }) fun _ => rfl
  have hgives : (s.opened l).gatheredOn l.num 0 = n :: (s.gatheredOn l.num 0).tail ∧ (s.opened l).mem = s.mem := by
    have hsame : (s.opened l).gatheredOn l.num 0 = s.gatheredOn l.num 0 ∧ (s.opened l).mem = s.mem := by
      unfold State.opened
      rw [hact]
      exact ⟨rfl, rfl⟩
    rw [hsame.1]
    exact ⟨(List.cons_head?_tail hhead).symm, hsame.2⟩
  obtain ⟨hcores, hmem⟩ := hgives
  have hexec : exec (.stampedGatherDone l.num) s = .next (State.issues
      (((s.opened l).beginTask (l.opened p s.now (s.frameZero l)) 0 0 n (s.frameZero l) (s.frameZero l)).tryFinish l.num)) := by
    show execStampedGatherDone l.num s = _
    unfold execStampedGatherDone
    rw [h]
    dsimp only
    rw [State.ready, hcan, hst, hgathered, hbind, hfirst, hfree]
    refine congrArg (fun t => Outcome.next (State.issues t)) ((if_neg (by decide)).trans ?_)
    rw [← State.opened, hlaunch]
    dsimp only
    rw [← beginStrands_one (l := l.opened p s.now (s.frameZero l)) hlev hdie hcores]
    rfl
  have hbegun := beginTask_begun (s.opened l) (l.opened p s.now (s.frameZero l)) 0 0 n (s.frameZero l) (s.frameZero l)
  have hbmem := (beginTask_mem (s.opened l) (l.opened p s.now (s.frameZero l)) 0 0 n (s.frameZero l) (s.frameZero l)).trans hmem
  obtain ⟨z, hz, hactive, hbeg, hframe⟩ := beginTask_launch (l := l.opened p s.now (s.frameZero l)) hlaunch 0 0 n (s.frameZero l) (s.frameZero l)
  generalize (s.opened l).beginTask (l.opened p s.now (s.frameZero l)) 0 0 n (s.frameZero l) (s.frameZero l) = t at *
  obtain ⟨⟨y, htask, hlaunchOf, -⟩, -⟩ := id hbegun
  have hz' : t.launch l.num = some z := hz
  rw [tryFinish_idle hz' (running_not_over htask (hlaunchOf.trans (launch_num hz').symm))] at hexec
  exact ⟨_, hexec, rfl, hbmem, hbegun, z, hz', hactive, hbeg, hframe⟩

/-! ### TASK_DISPATCH (12 R316 R317) -/

section Dispatch
variable {s : State} {d n : Nat} (hlogs : s.readLogs d = s) {r : List Nat} (hkept : s.keptFor d (r.headD 0) = false)
include hlogs hkept

theorem taskDispatch_fresh {num x : Nat} {l : Launch} (h : s.launch num = some l) (hrec : ltRec l.table = false) (hrpl : ltRpl l.table = false)
    (hwork : firstWork (s.works d) = some (.fresh num x, r)) (hcore : s.coreFor d (some l) x = some n) :
    exec (.taskDispatch d n) s =
      .next (State.issues (s.beginTask l d x n (max s.cycle (s.agent n).earliest) (max s.cycle (s.agent n).earliest))) := by
  have hreplay : s.replayOf l (streamKey 1 d) = (s, .off) := if_pos (by rw [hrpl]; rfl)
  have hplace : s.placeCore l d x n = true := by
    unfold State.placeCore
    rw [hreplay, hcore]
    exact beq_self_eq_true _
  have hrecord : ∀ e v, s.recordDecision l.num e v = .ok s () := fun e v => by
    unfold State.recordDecision
    rw [launch_num h, h]
    exact if_pos (by rw [hrec]; rfl)
  have hgo : s.placing l d x n = .go s := by
    unfold State.placing
    dsimp only
    rw [hreplay]
    dsimp only
    rw [hrecord]
  show execTaskDispatch d n s = _
  unfold execTaskDispatch
  dsimp only
  rw [hlogs, hwork]
  dsimp only
  rw [h]
  dsimp only
  rw [hkept, hplace, hgo]
  rfl

theorem taskDispatch_child {id : Nat} {e : TileEntry} (he : s.tile id = some e) (hwork : firstWork (s.works d) = some (.child id, r))
    (hcore : s.coreFor d none 0 = some n) :
    exec (.taskDispatch d n) s = .next (State.issues (s.putTile { e with core := some n })) := by
  show execTaskDispatch d n s = _
  unfold execTaskDispatch
  dsimp only
  rw [hlogs, hwork]
  dsimp only
  rw [he]
  dsimp only
  rw [hkept, hcore]
  exact congrArg (fun t => Outcome.next (State.issues t)) (if_pos (by simp))

end Dispatch

/-- An entry that is put back with its number is the one found. -/
theorem putTile_tile {s : State} {id : Nat} {e e' : TileEntry} (h : s.tile id = some e) (hid : e'.id = e.id) (hcounted : e'.counted = e.counted) :
    (s.putTile e').tile id = some e' := by
  have he : e.id = id := by simpa using List.find?_some h
  unfold State.tile at *
  show (s.tiles.map fun x => if x.id = e'.id then { e' with counted := e'.counted || x.counted } else x).find? (·.id == id) = _
  rw [List.find?_map]
  have hsame : ((fun x : TileEntry => x.id == id) ∘ fun x => if x.id = e'.id then { e' with counted := e'.counted || x.counted } else x) =
      fun x => x.id == id := by
    funext x
    dsimp only [Function.comp]
    split
    · next hx => rw [hx]
    · rfl
  rw [hsame, h, Option.map_some, if_pos hid.symm, ← hcounted, Bool.or_self]

/-! ### STAMPED_STRAND_NEXT (12 R327) -/

theorem releaseCore_gives {s : State} {n : Nat} (hmq : (s.core n).mq = []) :
    ∃ x, s.releaseCore n = s.setCore n x ∧ x.gatheredFor = none ∧ x.pv = false ∧ x.cad = if (s.core n).pv then (s.core n).pendCad else (s.core n).cad := by
  unfold State.releaseCore
  rw [settleCore_idle hmq]
  exact ⟨_, rfl, rfl, rfl, rfl⟩

section StrandNext
variable {s : State} {num n : Nat} {l : Launch} (h : s.launch num = some l) (hgathered : (s.core n).gatheredFor = some num)
  (htask : (s.core n).task = none) (hbegun : l.begun = true) (hfree : s.tileFree n = true) {key : Nat}
  (hstrand : l.strands.find? (fun p => p.2 == n + 1) = some (key, n + 1))

/-- The next task of strand `key` of the launch on die `d`. -/
def Launch.strandNext (l : Launch) (d key : Nat) : Option Nat :=
  ((List.range (ltTotal l.table - l.next.get 0 key)).map (· + l.next.get 0 key)).find? fun x =>
    inShare l.table l.onDie d x && strandOf l.table x == key

theorem strandNext_none {l : Launch} {d key : Nat}
    (hnone : ∀ x, l.next.get 0 key ≤ x → x < ltTotal l.table → ¬ (inShare l.table l.onDie d x = true ∧ strandOf l.table x = key)) :
    l.strandNext d key = none := by
  refine List.find?_eq_none.mpr fun x hx => ?_
  obtain ⟨k, hk, rfl⟩ := List.mem_map.mp hx
  rw [List.mem_range] at hk
  simpa using hnone (k + l.next.get 0 key) (by omega) (by omega)

theorem strandNext_first {l : Launch} {d key x : Nat} (hlo : l.next.get 0 key ≤ x) (hhi : x < ltTotal l.table) (hshare : inShare l.table l.onDie d x = true)
    (hkey : strandOf l.table x = key)
    (hfirst : ∀ y, l.next.get 0 key ≤ y → y < x → ¬ (inShare l.table l.onDie d y = true ∧ strandOf l.table y = key)) :
    l.strandNext d key = some x := by
  unfold Launch.strandNext
  rw [List.find?_map]
  have hfind : (List.range (ltTotal l.table - l.next.get 0 key)).find?
      ((fun x => inShare l.table l.onDie d x && strandOf l.table x == key) ∘ (· + l.next.get 0 key)) = some (x - l.next.get 0 key) := by
    rw [List.find?_range_eq_some]
    refine ⟨?_, List.mem_range.mpr (by omega), fun j hj => ?_⟩
    · have hx : x - l.next.get 0 key + l.next.get 0 key = x := by omega
      simp [hx, hshare, hkey]
    · have := hfirst (j + l.next.get 0 key) (by omega) (by omega)
      rw [not_and_or] at this
      simpa using this
  rw [hfind, Option.map_some]
  exact congrArg some (by omega)

include h hgathered htask hbegun hfree hstrand

theorem strandNext_releases (hnext : l.strandNext (dieOf n) key = none ∨ ∃ x, l.strandNext (dieOf n) key = some x ∧ l.mayDispatch x = false) :
    exec (.stampedStrandNext n) s = .next (State.issues (s.releaseCore n)) := by
  show execStampedStrandNext n s = _
  unfold execStampedStrandNext
  dsimp only
  rw [hgathered, htask]
  dsimp only
  rw [h]
  dsimp only
  rw [hbegun, hfree, hstrand]
  dsimp only
  rw [← Launch.strandNext]
  refine congrArg (fun t => Outcome.next (State.issues t)) ((if_neg (by decide)).trans ?_)
  rcases hnext with hnone | ⟨x, hsome, hmay⟩
  · rw [hnone]
  · rw [hsome]
    exact if_pos (by rw [hmay]; rfl)

theorem strandNext_moves {x : Nat} (hnext : l.strandNext (dieOf n) key = some x) (hmay : l.mayDispatch x = true) :
    exec (.stampedStrandNext n) s = .next (State.issues
      (if l.head.get 0 (dieOf n) + 256 ≤ ordinalOf l (dieOf n) x ∨ s.eligible n (some num) = false
        then s.modAgent n fun a => { a with earliest := max a.earliest s.cycle }
        else s.beginTask l (dieOf n) x n (l.frame0 + ((s.agent n).earliest - l.frame0 + max 1 (ltFrame l.table) - 1) / max 1 (ltFrame l.table) *
          max 1 (ltFrame l.table)) l.frame0)) := by
  show execStampedStrandNext n s = _
  unfold execStampedStrandNext
  dsimp only
  rw [hgathered, htask]
  dsimp only
  rw [h]
  dsimp only
  rw [hbegun, hfree, hstrand]
  dsimp only
  rw [← Launch.strandNext, hnext]
  refine congrArg (fun t => Outcome.next (State.issues t)) ((if_neg (by decide)).trans ((if_neg (by rw [hmay]; decide)).trans ?_))
  exact if_congr (by simp) rfl rfl

end StrandNext

/-- The boundary at which the next task of a strand begins. -/
theorem boundary_next (f e : Nat) {len : Nat} (hlen : 0 < len) :
    max f e ≤ f + (e - f + len - 1) / len * len ∧ (f + (e - f + len - 1) / len * len - f) % len = 0 ∧
      f + (e - f + len - 1) / len * len < max f e + len := by
  have hup := Nat.div_add_mod (e - f + len - 1) len
  have hmod := Nat.mod_lt (e - f + len - 1) hlen
  rw [Nat.mul_comm] at hup
  refine ⟨by omega, ?_, by omega⟩
  rw [Nat.add_sub_cancel_left, Nat.mul_mod_left]

/-! ### TASK_COMPLETE (05 R128, 12 R318) -/

/-- The reorder window's entry of task `y`, which agent `a` has run. -/
def Task.doneAs (y : Task) (a : Agent) (code : BitVec 8) (later : Nat) : Done :=
  { die := y.die, ord := y.ord, tidx := y.tidx, code := code, addr := a.faultaddr, pc := a.faultpc, src := a.faultsrc, later := later }

/-- A task that leaves its core changes beside it the agent's and the launch's part alone. -/
theorem leave_frame (s : State) (n num : Nat) (k : Core) (a : Agent) (f : Launch → Launch) :
    ((((s.setCore n k).setAgent n a).modLaunch num f).touchClock num).mem = s.mem ∧
      ((((s.setCore n k).setAgent n a).modLaunch num f).touchClock num).core n = k := by
  obtain ⟨hmem, hcores, -⟩ := touchClock_frame (((s.setCore n k).setAgent n a).modLaunch num f) num
  constructor
  · rw [hmem]; rfl
  · rw [State.core, hcores]
    exact (setCore_core s n n k).trans (if_pos rfl)

section Complete
variable {s : State} {num n : Nat} {l : Launch} (h : s.launch num = some l) {y : Task} (htask : (s.core n).task = some y) (hy : y.launch = num)
  (hmq : (s.core n).mq = []) (hslog : (s.core n).slog = [])
include h htask hy hmq hslog

theorem taskComplete_ended (hrun : (s.agent n).run = .ended) (hflight : (s.agent n).flight = []) (hpend : (s.agent n).pend = none)
    (hdeferred : (s.agent n).deferred = []) (hblocks : (s.core n).blocks = []) (hregions : (s.core n).regions = []) :
    ∃ t, exec (.taskComplete n) s = .next t ∧ t.res = .issued ∧ t.mem = s.mem ∧ (t.core n).task = none ∧ (t.core n).scratch = (s.core n).scratch ∧
      ∃ z, t.launch num = some z ∧ z.done = l.done ++ [y.doneAs (s.agent n) 0 0] ∧ z.bound = l.bound ∧ z.nfault = l.nfault := by
  have hmay : s.mayComplete n = true := by simp [State.mayComplete, hmq, hslog, hrun, hflight, hpend, hdeferred, hblocks]
  have hdrop : (s.core n).dropRegions y (s.agent n).bundle = s.core n := by
    unfold Core.dropRegions Core.flushAll
    rw [hregions]
    show ({ s.core n with regions := [] } : Core) = s.core n
    rw [← hregions]
  subst hy
  have hexec : ∃ a, exec (.taskComplete n) s = .next (State.issues ((((s.setCore n (s.core n).leftBy).setAgent n a).modLaunch y.launch fun l =>
      { l with done := l.done ++ [y.doneAs (s.agent n) 0 0] }).touchClock y.launch)) := by
    refine ⟨{ earliest := max (s.agent n).issued (s.agent n).busyTo + 1 }, ?_⟩
    show execTaskComplete n s = _
    unfold execTaskComplete
    rw [settleCore_idle hmq]
    dsimp only
    rw [htask]
    dsimp only
    rw [hmay, hrun, hdrop]
    rfl
  obtain ⟨a, hexec⟩ := hexec
  obtain ⟨from_, acc, hz⟩ := touchClock_launch (modLaunch_launch (s := (s.setCore n (s.core n).leftBy).setAgent n a) h
    (fun l => { l with done := l.done ++ [y.doneAs (s.agent n) 0 0] }) fun _ => rfl)
  obtain ⟨hmem, hcore⟩ := leave_frame s n y.launch (s.core n).leftBy a fun l => { l with done := l.done ++ [y.doneAs (s.agent n) 0 0] }
  generalize (((s.setCore n (s.core n).leftBy).setAgent n a).modLaunch y.launch _).touchClock y.launch = t at *
  refine ⟨_, hexec, rfl, hmem, (congrArg Core.task hcore).trans rfl, (congrArg Core.scratch hcore).trans rfl, _, hz, rfl, rfl, rfl⟩

theorem taskComplete_faulted (hrun : (s.agent n).run = .faulted) (hpend : (s.agent n).pend = none) (hdoom : y.doom = none) :
    ∃ t, exec (.taskComplete n) s = .next t ∧ t.res = .issued ∧ t.mem = s.mem ∧ (t.core n).task = none ∧
      ∃ z, t.launch num = some z ∧ z.nfault = l.nfault + 1 ∧
        z.done = l.done ++ [y.doneAs (s.agent n) (s.agent n).faultcode ((s.agent n).later + (s.agent n).deferred.length)] ∧
        z.bound = some (min y.tidx (l.bound.getD y.tidx)) := by
  have hmay : s.mayComplete n = true := by simp [State.mayComplete, hmq, hslog, hrun, hpend]
  subst hy
  have hexec : ∃ a f, exec (.taskComplete n) s = .next (State.issues
        ((((s.setCore n ({ s.core n with regions := [] } : Core).leftBy).setAgent n a).modLaunch y.launch f).touchClock y.launch)) ∧
      (∀ x, (f x).num = x.num) ∧ (f l).nfault = l.nfault + 1 ∧
      (f l).done = l.done ++ [y.doneAs (s.agent n) (s.agent n).faultcode ((s.agent n).later + (s.agent n).deferred.length)] ∧
      (f l).bound = some (min y.tidx (l.bound.getD y.tidx)) := by
    refine ⟨{ earliest := max (s.agent n).issued (s.agent n).busyTo + 1 }, fun x =>
      { x with done := x.done ++ [y.doneAs (s.agent n) (s.agent n).faultcode ((s.agent n).later + (s.agent n).deferred.length)]
               nfault := x.nfault + 1, bound := some (min y.tidx (x.bound.getD y.tidx))
               first := match x.first with
                 | some f => if f.tidx < y.tidx then some f
                   else some (y.doneAs (s.agent n) (s.agent n).faultcode ((s.agent n).later + (s.agent n).deferred.length))
                 | none => some (y.doneAs (s.agent n) (s.agent n).faultcode ((s.agent n).later + (s.agent n).deferred.length)) },
      ?_, fun _ => rfl, rfl, rfl, rfl⟩
    show execTaskComplete n s = _
    unfold execTaskComplete
    rw [settleCore_idle hmq]
    dsimp only
    rw [htask]
    dsimp only
    rw [hmay, hrun, hdoom]
    rfl
  obtain ⟨a, f, hexec, hf, hnfault, hdone, hbound⟩ := hexec
  obtain ⟨from_, acc, hz⟩ := touchClock_launch (modLaunch_launch (s := (s.setCore n ({ s.core n with regions := [] } : Core).leftBy).setAgent n a) h f hf)
  obtain ⟨hmem, hcore⟩ := leave_frame s n y.launch ({ s.core n with regions := [] } : Core).leftBy a f
  generalize (((s.setCore n ({ s.core n with regions := [] } : Core).leftBy).setAgent n a).modLaunch y.launch f).touchClock y.launch = t at *
  exact ⟨_, hexec, rfl, hmem, (congrArg Core.task hcore).trans rfl, _, hz, hnfault, hdone, hbound⟩

end Complete

/-! ### TASK_REPORT (12 R318) -/

theorem nextReport_gives {s : State} {l : Launch} {d : Nat} {x : Done} (h : s.nextReport l d = some x) :
    x ∈ l.done ∧ x.die = d ∧ (x.ord = l.head.get 0 d ∨
      ∀ y, y < x.tidx → inShare l.table l.onDie d y = true → l.head.get 0 d ≤ ordinalOf l d y → s.neverRuns l y = true) := by
  obtain ⟨hin, hdie⟩ := List.mem_filter.mp (List.mem_of_find?_eq_some h)
  refine ⟨hin, by simpa using hdie, ?_⟩
  have hnext := List.find?_some (p := fun x : Done => x.ord == l.head.get 0 d || (List.range x.tidx).all fun y =>
    !inShare l.table l.onDie d y || decide (ordinalOf l d y < l.head.get 0 d) || s.neverRuns l y) h
  rcases Bool.or_eq_true_iff.mp hnext with hord | hall
  · exact .inl (by simpa using hord)
  · refine .inr fun y hy hshare hhead => ?_
    have := List.all_eq_true.mp hall y (List.mem_range.mpr hy)
    rw [hshare, decide_eq_false (Nat.not_lt.mpr hhead)] at this
    simpa using this

theorem nextReport_head {s : State} {l : Launch} {d : Nat} {x : Done} (h : l.done.filter (fun x => x.die == d) = [x]) (hord : x.ord = l.head.get 0 d) :
    s.nextReport l d = some x := by
  unfold State.nextReport
  dsimp only
  rw [h]
  exact List.find?_cons_of_pos (by simp [hord])

theorem taskReport_gives {s : State} {num d : Nat} {l : Launch} (h : s.launch num = some l) (hbind : l.isBind = false) (hundis : l.undispatched = true)
    {x : Done} (hx : s.nextReport l d = some x) :
    ∃ t, exec (.taskReport num d) s = .next t ∧ t.res = .issued ∧ t.mem = s.mem ∧ ∃ z, t.launch num = some z ∧ z.head.get 0 d = x.ord + 1 ∧
      z.done = l.done.filter fun z => !(z.die == d && z.ord == x.ord) := by
  have hlaunch := modLaunch_launch h (fun y => { y with head := y.head.set 0 d (x.ord + 1)
                                                        done := y.done.filter fun z => !(z.die == d && z.ord == x.ord) }) fun _ => rfl
  have hexec : exec (.taskReport num d) s = .next (State.issues ((s.modLaunch num fun y =>
      { y with head := y.head.set 0 d (x.ord + 1), done := y.done.filter fun z => !(z.die == d && z.ord == x.ord) }).tryFinish num)) := by
    show execTaskReport num d s = _
    unfold execTaskReport
    rw [h]
    dsimp only
    rw [hx]
    dsimp only
    rw [hbind]
    rfl
  rw [tryFinish_idle hlaunch (undispatched_not_over _ hundis)] at hexec
  exact ⟨_, hexec, rfl, rfl, _, hlaunch, SMap.get_set_same 0 l.head d (x.ord + 1), rfl⟩

/-- Settles O44: each event's branch is the one its premises choose; a launch with work left, or a task on a core, is not over. -/
theorem launchEvents : Obligations.LaunchEvents := by
  unfold Obligations.LaunchEvents
  intro s num d n l h hd hn result tb k a beginsAs
  have hnum := launch_num h
  have hdie : dieOf n = d := by
    unfold dieOf
    rw [if_pos (by omega)]
    exact hn
  subst hnum
  refine ⟨fun hactive hbind habort hst hundis hstart hgate hfirst htaking p hslot =>
      launchActivate_takes h hactive hbind habort hst hundis hstart hgate hfirst htaking hslot,
    launchActivate_active h, fun hst hlev hbind honDie hcan hgathered hfirst hfree hd0 hhead _ _ => ?_,
    fun c hcores hc hstart => frameZero_le s l hcores hc hstart,
    fun hlogs hrec hrpl x r hwork hcore hkept => ?_, fun hlogs id e r hwork he hcore hkept => ?_,
    fun hgathered htask hbegun hmq hfree key hstrand => ?_,
    fun y htask hy hmq hslog => ?_,
    fun x => nextReport_gives, fun x => nextReport_head, fun x hbind hundis hx => taskReport_gives h hbind hundis hx⟩
  · subst hd0
    exact stampedGatherDone_begins h hst hlev hbind honDie hcan hgathered hfirst hfree hhead
  · have hexec := taskDispatch_fresh hlogs hkept h hrec hrpl hwork hcore
    have hmem := beginTask_mem s l d x n (max s.cycle (s.agent n).earliest) (max s.cycle (s.agent n).earliest)
    have hbegins := beginTask_begun s l d x n (max s.cycle (s.agent n).earliest) (max s.cycle (s.agent n).earliest)
    generalize s.beginTask l d x n (max s.cycle (s.agent n).earliest) (max s.cycle (s.agent n).earliest) = t at hexec hmem hbegins
    exact ⟨_, hexec, rfl, hmem, hbegins⟩
  · exact ⟨_, taskDispatch_child hlogs hkept he hwork hcore, rfl, rfl, putTile_tile he rfl rfl, rfl⟩
  · obtain ⟨x0, hrelease, hnone, hpv, hcad⟩ := releaseCore_gives hmq
    have hreleased : l.strandNext (dieOf n) key = none ∨ (∃ x, l.strandNext (dieOf n) key = some x ∧ l.mayDispatch x = false) →
        result (.stampedStrandNext n) fun t => (t.core n).gatheredFor = none ∧ (t.core n).pv = false ∧
          (t.core n).cad = if k.pv then k.pendCad else k.cad := fun hnext => by
      have hexec := strandNext_releases h hgathered htask hbegun hfree hstrand hnext
      rw [hrelease] at hexec
      have hcore : (s.setCore n x0).core n = x0 := (setCore_core ..).trans (if_pos rfl)
      exact ⟨_, hexec, rfl, rfl, (congrArg Core.gatheredFor hcore).trans hnone, (congrArg Core.pv hcore).trans hpv, (congrArg Core.cad hcore).trans hcad⟩
    rw [hdie] at hreleased
    intro released
    refine ⟨fun hno => hreleased (.inl (strandNext_none hno)), fun x hlo hhi hshare hkey hfirst => ?_⟩
    have hnext := strandNext_first hlo hhi hshare hkey hfirst
    refine ⟨fun hmay => hreleased (.inr ⟨x, hnext, hmay⟩), fun hmay hheld => ?_, fun hmay hord helig => ?_⟩
    · have hexec := strandNext_moves h hgathered htask hbegun hfree hstrand (by rw [hdie]; exact hnext) hmay
      rw [if_pos (by rw [hdie]; exact hheld)] at hexec
      exact ⟨_, hexec, rfl, rfl, rfl, (setAgent_agent ..).trans (if_pos rfl)⟩
    · have hexec := strandNext_moves h hgathered htask hbegun hfree hstrand (by rw [hdie]; exact hnext) hmay
      rw [if_neg (by rw [hdie, helig]; simp; exact hord), hdie] at hexec
      have hboundary := boundary_next l.frame0 (s.agent n).earliest (len := max 1 (ltFrame l.table)) (by omega)
      generalize l.frame0 + ((s.agent n).earliest - l.frame0 + max 1 (ltFrame l.table) - 1) / max 1 (ltFrame l.table) *
        max 1 (ltFrame l.table) = c at hexec hboundary
      have hmem := beginTask_mem s l d x n c l.frame0
      have hbegins := beginTask_begun s l d x n c l.frame0
      generalize s.beginTask l d x n c l.frame0 = t at hexec hmem hbegins
      exact ⟨_, hexec, rfl, hmem, c, hbegins, hboundary⟩
  · intro d0
    exact ⟨taskComplete_ended h htask hy hmq hslog, taskComplete_faulted h htask hy hmq hslog⟩

end Sys2Proof.Machine

/-! LEMMAS and PROOF of O45: stopped tasks (12 R319 to R322). -/

namespace Sys2Proof.Machine

open Host (Outcome)

/-! ### A store wakes the waits that watch its lines (12 R319) -/

theorem noteLines_saved (l : List Nat) (x : Die) : (l.foldl Die.noteLine x).saved = x.saved.map fun w => l.foldl Saved.wake w := by
  induction l generalizing x with
  | nil => simp
  | cons line r ih =>
    rw [List.foldl_cons, ih]
    show (x.saved.map (·.wake line)).map _ = _
    rw [List.map_map]
    rfl

/-- A wait whose line is among those stored to watches none afterwards. -/
theorem wake_watch {l : List Nat} {w : Saved} (h : w.watch = none ∨ ∃ line ∈ l, w.watch = some line) : (l.foldl Saved.wake w).watch = none := by
  induction l generalizing w with
  | nil =>
    rcases h with h | ⟨line, hin, -⟩
    · exact h
    · exact absurd hin List.not_mem_nil
  | cons line r ih =>
    rw [List.foldl_cons]
    refine ih ?_
    unfold Saved.wake
    split
    · exact .inl rfl
    · next hne =>
      rcases h with h | ⟨line', hin, h⟩
      · exact .inl h
      · refine .inr ⟨line', (List.mem_cons.mp hin).resolve_left fun he => hne (he ▸ h), h⟩

/-- What a store leaves of die 0, where something looks at stores. -/
theorem noteStore_die0 {s : State} (pa n : Nat) (hwatch : (s.die 0).watches = true) :
    (s.noteStore pa n).die 0 = (linesOf pa n).foldl Die.noteLine (s.die 0) := by
  have hkeep : ∀ (k : Nat) (u : State), k ≠ 0 →
      (if (u.die k).watches then u.modDie k fun x => (linesOf pa n).foldl Die.noteLine x else u).die 0 = u.die 0 := fun k u hk => by
    split
    · rw [State.modDie, setDie_die, if_neg hk.symm]
    · rfl
  have hdies : List.range 4 = [0, 1, 2, 3] := rfl
  unfold State.noteStore
  rw [hdies, List.foldl_cons, List.foldl_cons, List.foldl_cons, List.foldl_cons, List.foldl_nil, hkeep 3 _ (by decide), hkeep 2 _ (by decide),
    hkeep 1 _ (by decide), if_pos hwatch]
  exact modDie_die_same s 0 _

theorem first_linesOf (pa : Nat) {n : Nat} (hn : 0 < n) : pa / 128 ∈ linesOf pa n :=
  List.mem_map.mpr ⟨0, List.mem_range.mpr (by omega), Nat.zero_add _⟩

/-- The context written to a slot wakes a saved wait that watches a line of the slot. -/
theorem writeSlot_wakes {s : State} {slot line : Nat} {w : Saved} (hsaved : (s.die 0).saved = [w]) (hline : w.watch = some line)
    (hend : s.slotSpan 0 slot + 0x300000 ≤ hbmEnd) (hin : line ∈ linesOf (s.slotSpan 0 slot) 0x300000) :
    ∃ z, ((s.writeSlot 0 slot).die 0).saved = [z] ∧ z.watch = none := by
  have hlen : ∀ f : Nat → Byte → Byte, ((s.physBytes (s.slotSpan 0 slot) (min 0x300000 (hbmEnd - s.slotSpan 0 slot))).mapIdx f).length = 0x300000 := fun f => by
    rw [List.length_mapIdx, physBytes_length, Nat.min_eq_left (by omega)]
  refine ⟨(linesOf (s.slotSpan 0 slot) 0x300000).foldl Saved.wake w, ?_, wake_watch (.inr ⟨line, hin, hline⟩)⟩
  unfold State.writeSlot
  dsimp only
  rw [physWrite_die, hlen]
  generalize (s.physBytes (s.slotSpan 0 slot) (min 0x300000 (hbmEnd - s.slotSpan 0 slot))).mapIdx _ = bs
  have hdie : (({ s with fresh := s.fresh + 1 } : State).putBytes (s.slotSpan 0 slot) bs |>.mendAt (s.slotSpan 0 slot) 0x300000).die 0 = s.die 0 := by
    rw [State.die, mendAt_dies, putBytes_dies, State.die]
  rw [noteStore_die0 _ _ (by rw [hdie, Die.watches, hsaved]; simp), hdie, noteLines_saved, hsaved]
  rfl

/-! ### TASK_STOP (12 R319 R320) -/

/-- Core `n` as TASK_STOP finds it, its scale latch settled, with the task asked to stop for priority. -/
def State.stopping (s : State) (n : Nat) (y : Task) : State :=
  (s.modCoreAt n (·.qSettle (s.ranTo n))).modCoreAt n fun k => { k with task := some (y.askStop 1) }

theorem taskStop_saves {s : State} {n slot : Nat} {y : Task} (hmq : (s.core n).mq = []) (htask : (s.core n).task = some y) (hask : y.stopAsked = some 1)
    (hmode : y.mode.getLsbD 0 = false) (hdoom : y.doom = none) (hdrained : (s.stopping n y).drained n = true)
    (hslot : ((s.stopping n y).die y.die).slotFor 1 = some slot)
    (hheld : (s.stopping n y).spanHeld ((s.stopping n y).slotSpan y.die slot) 0x300000 = false) :
    exec (.taskStop n) s = .next (State.issues ((s.stopping n y).saveTask n (y.askStop 1) 1 slot)) := by
  have hstop : y.stopFor 1 = y.askStop 1 := if_neg (by rw [hmode]; decide)
  have hsettled : ((s.modCoreAt n (·.qSettle (s.ranTo n))).core n).task = some y := by
    rw [modCoreAt_core_same]
    exact htask
  show execTaskStop n s = _
  unfold execTaskStop
  rw [settleCore_idle hmq]
  dsimp only
  rw [hsettled]
  dsimp only
  have hhard : (some 1).all softStop = false := rfl
  rw [hask, hhard, Bool.false_and, if_neg Bool.false_ne_true]
  dsimp only [Option.some_or]
  rw [hstop, ← State.stopping, hdrained, hslot]
  dsimp only
  rw [hheld]
  exact congrArg (fun t => Outcome.next (State.issues t)) (if_neg (by simp [Task.askStop, hdoom]))

theorem saveTask_saved (s : State) (n : Nat) (y : Task) (cause slot : Nat) (hd : y.die = 0) :
    ∃ z, ((s.saveTask n y cause slot).die 0).saved = ((s.writeSlot 0 slot).die 0).saved ++ [z] := by
  unfold State.saveTask
  dsimp only
  rw [hd]
  generalize s.writeSlot 0 slot = u
  have hdie : ∀ (v : State) (k : Core) (a : Agent), ((((v.setCore n k).setAgent n a).touchClock y.launch).die 0) = v.die 0 := fun v k a => by
    rw [State.die, (touchClock_frame _ _).2.2.2.1]
    rfl
  rw [hdie, modDie_die_same]
  exact ⟨_, rfl⟩

/-- A task saved to a slot that a saved wait watches: that wait watches nothing afterwards. -/
theorem saveTask_wakes {s : State} {n slot line : Nat} {y : Task} {w : Saved} (hd : y.die = 0) (hsaved : (s.die 0).saved = [w])
    (hline : w.watch = some line) (hend : s.slotSpan 0 slot + 0x300000 ≤ hbmEnd) (hin : line ∈ linesOf (s.slotSpan 0 slot) 0x300000) :
    ∃ z z', ((s.saveTask n y 1 slot).die 0).saved = [z, z'] ∧ z.watch = none := by
  obtain ⟨z', hgives⟩ := saveTask_saved s n y 1 slot hd
  obtain ⟨z, hwoken, hwatch⟩ := writeSlot_wakes hsaved hline hend hin
  rw [hwoken] at hgives
  exact ⟨z, z', hgives, hwatch⟩

theorem saved_of_next {u t : State} {l : List Saved} (hexec : .next (State.issues u) = (.next t : Outcome State Fault Refusal))
    (h : (u.die 0).saved = l) : (t.die 0).saved = l := by
  cases hexec
  exact h

/-- A task of launch 0, asked to stop for priority. -/
def preempted : Task :=
  { launch := 0, die := 0, ord := 1, tidx := 1, coords := [], ctx := 0, entry := 0, arg := 0, mode := 0, stopAsked := some 1 }

/-- A task of it in the first save slot, stopped at a wait on a word of the second. -/
def watcher : Saved := { slot := 0, agent := {}, core := {}, task := { preempted with ord := 0, tidx := 0, stopAsked := none }, why := 2, cause := 5, watch := some 0x8000 }

/-- The launch of both, without tasks to come. -/
def stoppedLaunch : Launch :=
  { num := 0, depth := 0, prio := 0, ctx := 0, rec_ := 0, table := 0, id := 0, origin := { by_ := .control 0, die := 0 }, level := 2, place := 0 }

/-- A die with two save slots from 1 MiB on, the first of them taken, whose core 0 is to stop. -/
def watchedSlot : State :=
  { dies := [(0, { saveAddr := 1, saveCnt := 2, saved := [watcher] })], cores := [(0, { task := some preempted })]
    agents := [(0, { run := .running })], launches := [stoppedLaunch] }

/-- Refutes O45: the context written to the second slot wakes the task that the first one holds, so what was saved before does not stand in front of
the new entry as it was. -/
theorem not_taskStops : ¬ Obligations.TaskStops := by
  intro h
  obtain ⟨hstop, -⟩ := h watchedSlot 96 0 0 0 stoppedLaunch (by decide) rfl (by decide) rfl
  obtain ⟨-, hfree⟩ := hstop preempted 1 rfl rfl rfl rfl rfl (by decide)
  obtain ⟨hsave, -⟩ := hfree rfl (by decide +kernel) rfl
  obtain ⟨t, hexec, -, -, -, -, z, hsaved, -⟩ := hsave 1 (by decide +kernel) (by decide +kernel)
  rw [taskStop_saves (s := watchedSlot) (n := 0) (slot := 1) (y := preempted) rfl rfl rfl rfl rfl (by decide +kernel) (by decide +kernel)
    (by decide +kernel)] at hexec
  have hspan : (watchedSlot.stopping 0 preempted).slotSpan 0 1 = 0x400000 := by decide +kernel
  have hend : 0x400000 + 0x300000 ≤ hbmEnd := by decide +kernel
  have hline := first_linesOf 0x400000 (n := 0x300000) (by decide +kernel)
  obtain ⟨w, w', hgives, hwatch⟩ := saveTask_wakes (s := watchedSlot.stopping 0 preempted) (n := 0) (y := preempted.askStop 1) (slot := 1) rfl (line := 0x8000) (w := watcher) (by decide +kernel) (by decide +kernel)
    (by rw [hspan]; exact hend) (by rw [hspan]; exact hline)
  have hbefore : (watchedSlot.die 0).saved = [watcher] := by decide +kernel
  rw [saved_of_next hexec hgives, hbefore] at hsaved
  have hfirst : w = watcher := (List.cons.inj hsaved).1
  rw [hfirst] at hwatch
  cases hwatch

end Sys2Proof.Machine

/-! LEMMAS and PROOF of O46: tile records are taken, refused or turned away (08 R231, 09 R240 R248 R265 R266 R270). -/

namespace Sys2Proof.Machine

open Host (Outcome)

/-! ### What reading a record's shapes may change (09 R240) -/

/-- Reading for a tile record changes the dies, caches and counts of cores, the counter of free values, and which entries have been counted. -/
structure State.TileLooked (s t : State) : Prop where
  only : t = { s with dies := t.dies, cores := t.cores, fresh := t.fresh, tiles := t.tiles }
  tq : ∀ n, (t.core n).tq = (s.core n).tq
  ids : t.tiles.map (·.id) = s.tiles.map (·.id)

section
variable {s t u : State}

theorem State.TileLooked.refl (s : State) : s.TileLooked s := ⟨rfl, fun _ => rfl, rfl⟩

theorem State.TileLooked.trans (h : s.TileLooked t) (k : t.TileLooked u) : s.TileLooked u :=
  ⟨k.only.trans (by rw [h.only]), fun n => (k.tq n).trans (h.tq n), k.ids.trans h.ids⟩

theorem State.TileLooked.mem (h : s.TileLooked t) : t.mem = s.mem := by rw [h.only]

theorem State.TileLooked.launches (h : s.TileLooked t) : t.launches = s.launches ∧ t.launchNext = s.launchNext := by
  rw [h.only]
  exact ⟨rfl, rfl⟩

theorem Looked.tileLooked (h : Looked s t) : s.TileLooked t :=
  ⟨h.only.trans (by rw [h.only]), fun n => by rw [h.core n], by rw [h.only]⟩

theorem tileLooked_modCoreAt (s : State) (n : Nat) (f : Core → Core) (hf : ∀ k, (f k).tq = k.tq) : s.TileLooked (s.modCoreAt n f) := by
  refine ⟨rfl, fun m => ?_, rfl⟩
  rw [State.modCoreAt, setCore_core]
  split
  · next h => rw [hf, h]
  · rfl

theorem tileLooked_modDie (s : State) (d : Nat) (f : Die → Die) : s.TileLooked (s.modDie d f) := ⟨rfl, fun _ => rfl, rfl⟩

theorem tileLooked_putTile (s : State) (e : TileEntry) : s.TileLooked (s.putTile e) := by
  refine ⟨rfl, fun _ => rfl, ?_⟩
  show (s.tiles.map _).map _ = _
  rw [List.map_map]
  refine List.map_congr_left fun x _ => ?_
  dsimp only [Function.comp]
  split
  · next h => exact h.symm
  · rfl

theorem makeFit_tq (k : Core) (n fuel : Nat) : (k.makeFit n fuel).tq = k.tq := by
  induction fuel generalizing k with
  | zero => rfl
  | succ f ih =>
    unfold Core.makeFit
    split
    · rfl
    · split
      · rw [ih]; rfl
      · rfl

theorem cacheLine_tq (k : Core) (ctx a : Nat) (h : BitVec 2) (attr : Nat) : (k.cacheLine ctx a h attr).tq = k.tq := by
  unfold Core.cacheLine
  dsimp only
  split
  · rfl
  · exact makeFit_tq ..

theorem tileLooked_dropCopies (s : State) (i : Issuer) (va pa : Nat) : s.TileLooked (s.dropCopies i va pa) := by
  have hcore : s.TileLooked (match i.ctx with
      | some c => if i.agent < 96 then s.modCoreAt i.agent fun k => k.evictAll (·.holds c va) else s
      | none => s) := by
    split
    · split
      · exact tileLooked_modCoreAt _ _ _ fun _ => rfl
      · exact .refl s
    · exact .refl s
  unfold State.dropCopies
  dsimp only
  split
  · exact hcore.trans (tileLooked_modDie ..)
  · exact hcore

theorem tileLooked_copyRemote (s : State) (d pa : Nat) : s.TileLooked (s.copyRemote d pa) := by
  unfold State.copyRemote
  split
  · exact tileLooked_modDie ..
  · exact .refl s

theorem tileLooked_cacheLoad (s : State) (i : Issuer) (va pa attr : Nat) (h : BitVec 2) : s.TileLooked (s.cacheLoad i va pa attr h) := by
  unfold State.cacheLoad
  split
  · exact .refl s
  · split
    · exact tileLooked_dropCopies ..
    · have hcopy : s.TileLooked (if h = 1 then s else s.copyRemote (dieOf i.agent) pa) := by
        split
        · exact .refl s
        · exact tileLooked_copyRemote ..
      dsimp only
      split
      · split
        · exact hcopy.trans (tileLooked_modCoreAt _ _ _ fun k => cacheLine_tq ..)
        · exact hcopy
      · exact hcopy

theorem tileLooked_noteTile (s : State) (id attr fuel : Nat) : s.TileLooked (s.noteTile id attr fuel) := by
  fun_induction s.noteTile id attr fuel with
  | case1 _ _ _ _ _ _ _ ih => exact ih
  | case2 => exact (tileLooked_modCoreAt s _ Core.countHint fun _ => rfl).trans (tileLooked_putTile ..)
  | _ => exact .refl s

theorem tileLooked_bind {α β : Type} {r : Acc α} {f : State → α → Acc β} (h : s.TileLooked r.state) (k : ∀ (t : State) x, t.TileLooked (f t x).state) :
    s.TileLooked (r.bind f).state := by
  cases r with
  | ok t x => exact h.trans (k t x)
  | wait t p => exact h
  | fail t c x => exact h

theorem tileLooked_map {α β : Type} {r : Acc α} {f : α → β} (h : s.TileLooked r.state) : s.TileLooked (r.map f).state := by
  cases r <;> exact h

theorem tileLooked_tileLoad (s : State) (e : TileEntry) (a n : Nat) : s.TileLooked (s.tileLoad e a n).state :=
  tileLooked_bind (looked_reach ..).tileLooked fun _ _ => (tileLooked_cacheLoad ..).trans (tileLooked_noteTile ..)

theorem tileLooked_readShape (s : State) (e : TileEntry) (k : Nat) : s.TileLooked (s.readShape e k).state := by
  have h := tileLooked_tileLoad s e (Rec_word e.rec_ (k + 1)).toNat 64
  unfold State.readShape
  dsimp only
  generalize s.tileLoad e (Rec_word e.rec_ (k + 1)).toNat 64 = r at h
  cases r <;> exact h

theorem tileLooked_readShapes (e : TileEntry) (tq : Bool) (ks : List Nat) (s : State) : s.TileLooked (s.readShapes e tq ks).state := by
  induction ks generalizing s with
  | nil => exact .refl s
  | cons k r ih =>
    unfold State.readShapes
    dsimp only
    split
    · exact tileLooked_map (ih s)
    · refine tileLooked_bind (tileLooked_readShape ..) fun t x => ?_
      split
      · exact .refl t
      · exact tileLooked_map (ih t)

theorem tileLooked_readParams (s : State) (e : TileEntry) : s.TileLooked (s.readParams e).state := by
  unfold State.readParams
  split
  · exact .refl s
  · exact tileLooked_map (tileLooked_readShape ..)

end

/-! ### Children (09 R246 R247) -/

/-- Entries are added; the queues of cores and memory are as they were. -/
structure State.TilesGrown (s t : State) : Prop where
  mem : t.mem = s.mem
  cores : t.cores = s.cores
  tiles : ∀ e ∈ s.tiles, e ∈ t.tiles

theorem State.TilesGrown.refl (s : State) : s.TilesGrown s := ⟨rfl, rfl, fun _ h => h⟩

theorem State.TilesGrown.trans {s t u : State} (h : s.TilesGrown t) (k : t.TilesGrown u) : s.TilesGrown u :=
  ⟨k.mem.trans h.mem, k.cores.trans h.cores, fun e he => k.tiles e (h.tiles e he)⟩

theorem tilesGrown_addTile (s : State) (e : TileEntry) : s.TilesGrown (s.addTile e) := ⟨rfl, rfl, fun _ h => List.mem_append_left _ h⟩

theorem tilesGrown_dealTo (e : TileEntry) (n : Nat) (queue : Nat → TileQueue) (todo j : Nat) (s : State) :
    s.TilesGrown (s.dealTo e n j todo queue) := by
  induction todo generalizing s j with
  | zero => exact .refl s
  | succ m ih =>
    unfold State.dealTo
    dsimp only
    refine State.TilesGrown.trans ?_ (ih _ _)
    split
    · exact .refl s
    · exact tilesGrown_addTile ..

theorem tilesGrown_deal (s : State) (e : TileEntry) : s.TilesGrown (s.deal e) := by
  have hfold : ∀ (l : List TileEntry) (t : State), t.TilesGrown (l.foldl (fun t x => t.dealTo x 24 0 24 fun _ => x.queue) t) := by
    intro l
    induction l with
    | nil => exact .refl
    | cons x r ih => exact fun t => (tilesGrown_dealTo ..).trans (ih _)
  unfold State.deal
  dsimp only
  split
  · exact tilesGrown_dealTo ..
  · exact (tilesGrown_dealTo ..).trans (hfold _ _)
  · exact .refl s

/-! ### A data record that is taken (08 R231, 09 R240) -/

/-- The same record, as its queue took it. -/
def TileEntry.Same (e x : TileEntry) : Prop :=
  x.rec_ = e.rec_ ∧ x.queue = e.queue ∧ x.level = e.level ∧ x.origin = e.origin ∧ x.ctx = e.ctx ∧ x.phys = e.phys ∧ x.id = e.id ∧ x.parent = e.parent

theorem putTile_same {s : State} {e x : TileEntry} (hid : e.id ∈ s.tiles.map (·.id)) (hx : e.Same x) : ∃ z ∈ (s.putTile x).tiles, e.Same z := by
  obtain ⟨y, hy, hyid⟩ := List.mem_map.mp hid
  obtain ⟨hrec, hqueue, hlevel, horigin, hctx, hphys, hxid, hparent⟩ := hx
  refine ⟨{ x with counted := x.counted || y.counted }, ?_, hrec, hqueue, hlevel, horigin, hctx, hphys, hxid, hparent⟩
  exact List.mem_map.mpr ⟨y, hy, if_pos (hyid.trans hxid.symm)⟩

/-- The check of a record leaves memory and the queues, and the entry with what it has found. -/
theorem checkTile_gives {s : State} {e : TileEntry} (hid : e.id ∈ s.tiles.map (·.id)) :
    (s.checkTile e).mem = s.mem ∧ (∀ n, ((s.checkTile e).core n).tq = (s.core n).tq) ∧ ∃ z ∈ (s.checkTile e).tiles, e.Same z := by
  have hput : ∀ (t u : State) (x : TileEntry), s.TileLooked t → (t.putTile x).TilesGrown u → e.Same x →
      u.mem = s.mem ∧ (∀ n, (u.core n).tq = (s.core n).tq) ∧ ∃ z ∈ u.tiles, e.Same z := by
    intro t u x ht hu hx
    have hall := ht.trans (tileLooked_putTile t x)
    obtain ⟨z, hz, hsame⟩ := putTile_same (s := t) (by rw [ht.ids]; exact hid) hx
    exact ⟨hu.mem.trans hall.mem, fun n => by rw [State.core, hu.cores]; exact hall.tq n, z, hu.tiles z hz, hsame⟩
  have hread : ∀ tq, s.TileLooked ((s.readParams e).bind fun t ok =>
      if ok then (t.readShapes e tq [0, 1, 2]).map some else .ok t none).state := fun tq =>
    tileLooked_bind (tileLooked_readParams s e) fun t ok => by
      split
      · exact tileLooked_map (tileLooked_readShapes ..)
      · exact .refl t
  unfold State.checkTile
  extract_lets tq
  replace hread := hread tq
  split
  next t p heq => exact hput t _ _ (by rw [heq] at hread; exact hread) (.refl _) ⟨rfl, rfl, rfl, rfl, rfl, rfl, rfl, rfl⟩
  next t c a heq => exact hput t _ _ (by rw [heq] at hread; exact hread) (.refl _) ⟨rfl, rfl, rfl, rfl, rfl, rfl, rfl, rfl⟩
  next t heq => exact hput t _ _ (by rw [heq] at hread; exact hread) (.refl _) ⟨rfl, rfl, rfl, rfl, rfl, rfl, rfl, rfl⟩
  next t sh heq =>
    rw [heq] at hread
    split
    · exact hput t _ _ hread (.refl _) ⟨rfl, rfl, rfl, rfl, rfl, rfl, rfl, rfl⟩
    · exact hput t _ _ hread (tilesGrown_deal ..) ⟨rfl, rfl, rfl, rfl, rfl, rfl, rfl, rfl⟩

theorem tileOrigin_by (s : State) (p : Pusher) (q : TileQueue) : (s.tileOrigin p q).1.by_ = p := by
  unfold State.tileOrigin
  cases p with
  | task m =>
    dsimp only
    split <;> rfl
  | regset n => cases q <;> rfl
  | control d => rfl
  | child a b => rfl
  | lead a b => rfl

section Offer
variable (s : State) (q : TileQueue) (r : Rec) (o : Origin) (ctx : Nat) (phys : Bool)

/-- The entry of a record that a queue below the pod's takes. -/
def State.offered : TileEntry :=
  { id := s.nextId, rec_ := r, queue := q, level := queueLevel q, origin := o, ctx := ctx, phys := phys, prio := (s.sourceOf r o).1
    depth := (s.sourceOf r o).2
    core := match q with
      | .tq n => some n
      | .dq _ | .xq | .pq => none
    after := match q with
      | .tq n => ((s.core n).mq.filter fun x => x.op.touches.isSome || x.op.acc == some 3).map (·.id)
      | .dq _ | .xq | .pq => [] }

/-- The entry as its queue's youngest. -/
def State.enqueued (e : TileEntry) : State :=
  match q with
  | .tq n => (s.addTile e).modCoreAt n fun k => { k with tq := k.tq ++ [s.nextId] }
  | .dq _ | .xq | .pq => s.addTile e

theorem enqueued_gives (e : TileEntry) (he : e.id = s.nextId) : (s.enqueued q e).mem = s.mem ∧ (s.enqueued q e).tiles = s.tiles ++ [e] ∧
    (s.enqueued q e).barriers = s.barriers ∧ ∀ n, q = .tq n → ((s.enqueued q e).core n).tq = (s.core n).tq ++ [s.nextId] := by
  have hadd : (s.addTile e).tiles = s.tiles ++ [e] := by
    unfold State.addTile
    rw [← he]
  cases q with
  | tq n => exact ⟨rfl, hadd, rfl, fun m hm => by cases hm; exact congrArg Core.tq (modCoreAt_core_same (s.addTile e) n _)⟩
  | dq d => exact ⟨rfl, hadd, rfl, nofun⟩
  | xq => exact ⟨rfl, hadd, rfl, nofun⟩
  | pq => exact ⟨rfl, hadd, rfl, nofun⟩

variable {s q r o ctx phys}

theorem offerTile_turned (hfull : tileDepth q ≤ (s.queued q).length) : s.offerTile q r o ctx phys = (s, false) := if_pos hfull

variable (hroom : (s.queued q).length < tileDepth q)
include hroom

theorem offerTile_refused {code : BitVec 8} (h : s.tileRefused q r o.by_ = some code) :
    (s.offerTile q r o ctx phys).1 = s.addTile ((s.offered q r o ctx phys).fails s code 0 0) := by
  unfold State.offerTile
  rw [if_neg (Nat.not_le.mpr hroom)]
  dsimp only
  rw [h]
  rfl

variable (h : s.tileRefused q r o.by_ = none)
include h

theorem offerTile_barrier (hop : tiOpc r = 12) : (s.offerTile q r o ctx phys).1 =
    ((s.enqueued q (s.offered q r o ctx phys)).putTile { s.offered q r o ctx phys with checked := true }).joinBarrier
      { s.offered q r o ctx phys with checked := true } := by
  unfold State.offerTile
  rw [if_neg (Nat.not_le.mpr hroom)]
  dsimp only
  rw [h]
  dsimp only
  rw [if_pos hop]
  rfl

theorem offerTile_data (hop : tiOpc r ≠ 12) : (s.offerTile q r o ctx phys).1 =
    if (s.enqueued q (s.offered q r o ctx phys)).tileReady (s.offered q r o ctx phys)
      then (s.enqueued q (s.offered q r o ctx phys)).checkTile (s.offered q r o ctx phys) else s.enqueued q (s.offered q r o ctx phys) := by
  unfold State.offerTile
  rw [if_neg (Nat.not_le.mpr hroom)]
  dsimp only
  rw [h]
  dsimp only
  rw [if_neg hop]
  show (if (s.enqueued q (s.offered q r o ctx phys)).tileReady (s.offered q r o ctx phys) then _ else _ : State × Bool).1 = _
  split <;> rfl

/-- A data record that is taken: it stands among the entries, as its queue's youngest. -/
theorem offerTile_gives (hop : tiOpc r ≠ 12) : (s.offerTile q r o ctx phys).1.mem = s.mem ∧
    (∃ z ∈ (s.offerTile q r o ctx phys).1.tiles, (s.offered q r o ctx phys).Same z) ∧
    ∀ n, q = .tq n → ((s.offerTile q r o ctx phys).1.core n).tq = (s.core n).tq ++ [s.nextId] := by
  obtain ⟨hmem, htiles, -, htq⟩ := enqueued_gives s q (s.offered q r o ctx phys) rfl
  have hin : s.offered q r o ctx phys ∈ (s.enqueued q (s.offered q r o ctx phys)).tiles := by rw [htiles]; simp
  rw [offerTile_data hroom h hop]
  split
  · obtain ⟨hcmem, hctq, hz⟩ := checkTile_gives (List.mem_map_of_mem hin)
    exact ⟨hcmem.trans hmem, hz, fun n hn => (hctq n).trans (htq n hn)⟩
  · exact ⟨hmem, ⟨_, hin, rfl, rfl, rfl, rfl, rfl, rfl, rfl, rfl⟩, htq⟩

end Offer

/-! ### What a queue is offered (08 R231) -/

section Take
variable {s : State} {p : Pusher} {q : TileQueue} {r : Rec} {opc : Nat}

theorem takeRecord_same (hop : tiOpc r = opc) :
    s.takeRecord opc p q r = (s.offerRecord q r (s.tileOrigin p q).1 (s.tileOrigin p q).2.1 (s.tileOrigin p q).2.2).1 := if_pos hop

/-- What is no launch record is offered to the queue itself. -/
theorem takeRecord_tile (hop : tiOpc r = opc) (h10 : opc ≠ 10) (h11 : opc ≠ 11) (hq : q ≠ .pq) :
    s.takeRecord opc p q r = (s.offerTile q r (s.tileOrigin p q).1 (s.tileOrigin p q).2.1 (s.tileOrigin p q).2.2).1 := by
  have hlaunch : ¬ (tiOpc r == 0x0A || tiOpc r == 0x0B) = true := by simp [hop, h10, h11]
  rw [takeRecord_same hop]
  cases q with
  | tq n => rfl
  | dq d => exact congrArg Prod.fst (if_neg hlaunch)
  | xq => exact congrArg Prod.fst (if_neg hlaunch)
  | pq => exact absurd rfl hq

theorem takeRecord_full (hop : tiOpc r = opc) (h10 : opc ≠ 10) (h11 : opc ≠ 11) (hq : q ≠ .pq) (hfull : tileDepth q ≤ (s.queued q).length) :
    s.takeRecord opc p q r = s := by
  rw [takeRecord_tile hop h10 h11 hq, offerTile_turned hfull]

/-- The record of another level is taken as its refusal. -/
theorem takeRecord_refused (hop : tiOpc r = opc) (h10 : opc ≠ 10) (h11 : opc ≠ 11) (hq : q ≠ .pq) (hroom : (s.queued q).length < tileDepth q)
    (hlevel : tiLevel r ≠ queueLevel q) :
    s.takeRecord opc p q r =
      s.addTile ((s.offered q r (s.tileOrigin p q).1 (s.tileOrigin p q).2.1 (s.tileOrigin p q).2.2).fails s cQueue 0 0) := by
  rw [takeRecord_tile hop h10 h11 hq, offerTile_refused hroom (code := cQueue)]
  unfold State.tileRefused
  dsimp only
  exact if_pos (by simp [hlevel])

/-- The code of a refusal stands in its report. -/
theorem fails_code (e : TileEntry) (s : State) {code : BitVec 8} (hcode : code ≠ 0) (addr : Word) (field : Nat) :
    (e.fails s code addr field).rep.code = code := by
  unfold TileEntry.fails TileEntry.located
  dsimp only
  rw [if_neg hcode]
  split <;> rfl

/-- A record of the pod level goes to the lead chip (09 R248). -/
theorem takeRecord_pod (hop : tiOpc r = opc) (h10 : opc ≠ 10) (h11 : opc ≠ 11) (h12 : opc ≠ 12) (hroom : (s.queued .pq).length < tileDepth .pq)
    (hlevel : tiLevel r = 4) (hled : s.mg.podlead.getLsbD 63 = true) (hhalt : s.dbgHalt = false) (hsync : s.pt.sync = true) :
    s.takeRecord opc p .pq r =
      (s.addTile { id := s.nextId, rec_ := r, queue := .pq, level := 4, origin := (s.tileOrigin p .pq).1, ctx := (s.tileOrigin p .pq).2.1
                   phys := (s.tileOrigin p .pq).2.2, prio := (s.sourceOf r (s.tileOrigin p .pq).1).1
                   depth := (s.sourceOf r (s.tileOrigin p .pq).1).2, checked := true }).takeReq
        { seq := 0, origin := (s.tileOrigin p .pq).1, cmd := setPrio r (s.sourceOf r (s.tileOrigin p .pq).1).1, pod := some s.nextId
          dctx := (s.tileOrigin p .pq).2.1, dst := bitsOf s.mg.podlead 48 11, len := 72, ord := true, stamp := s.now } := by
  have hpass : (s.podRefuses r (s.tileOrigin p .pq).2.1 (s.sourceOf r (s.tileOrigin p .pq).1).2) = false := by
    simp [State.podRefuses, hop, h10, h11]
  rw [takeRecord_same hop]
  unfold State.offerRecord State.offerPod
  dsimp only
  rw [if_neg (Nat.not_le.mpr hroom), if_neg (by simp [hlevel, State.podLed, hled, hpass]), if_neg (by rw [hop]; exact h12),
    if_neg (by rw [hhalt]; decide), if_neg (by rw [hsync]; decide)]

/-- A launch record that passes its checks takes an LQ entry (12 R310). -/
theorem takeRecord_launch (hop : tiOpc r = opc) (hlaunch : opc = 10 ∨ opc = 11) (hq : q = .xq ∨ ∃ d, q = .dq d) (hlevel : tiLevel r = queueLevel q)
    (hready : s.tileReady (s.launchEntry q r (s.tileOrigin p q).1 (s.tileOrigin p q).2.1 (s.sourceOf r (s.tileOrigin p q).1).1
      (if opc = 11 then 0 else (s.sourceOf r (s.tileOrigin p q).1).2) (s.tileOrigin p q).2.2) = true) {u : State} {tb : Rec} {hint : Bool} {place : Nat}
    (hcheck : s.checkLaunch (queueAgent q) r (s.tileOrigin p q).1 (s.tileOrigin p q).2.1
      (if opc = 11 then 0 else (s.sourceOf r (s.tileOrigin p q).1).2) (tiLevel r) = .ok u tb hint)
    (hplace : u.lqPlace (if opc = 11 then 0 else (s.sourceOf r (s.tileOrigin p q).1).2) = some place) :
    ∃ onDie, s.takeRecord opc p q r = u.takeLaunch r tb (s.tileOrigin p q).1 (s.tileOrigin p q).2.1
      (if opc = 11 then 0 else (s.sourceOf r (s.tileOrigin p q).1).2) (s.sourceOf r (s.tileOrigin p q).1).1 (some q) (tiLevel r) onDie
      (s.tileOrigin p q).2.2 place hint := by
  have hoffer : ∀ die, (s.offerLaunch q false r (s.tileOrigin p q).1 (s.tileOrigin p q).2.1 (s.tileOrigin p q).2.2 die).1 =
      u.takeLaunch r tb (s.tileOrigin p q).1 (s.tileOrigin p q).2.1
        (if opc = 11 then 0 else (s.sourceOf r (s.tileOrigin p q).1).2) (s.sourceOf r (s.tileOrigin p q).1).1 (some q) (tiLevel r)
        (if tiLevel r = 2 then some die else none) (s.tileOrigin p q).2.2 place hint := fun die => by
    unfold State.offerLaunch
    dsimp only
    rw [hop, if_neg Bool.false_ne_true, if_neg (by simp [hlevel]), hready, if_neg (by decide), hcheck]
    dsimp only
    rw [hplace, if_neg Bool.false_ne_true]
  have hyes : (tiOpc r == 0x0A || tiOpc r == 0x0B) = true := by
    rw [hop]
    rcases hlaunch with rfl | rfl <;> rfl
  rw [takeRecord_same hop]
  rcases hq with rfl | ⟨d, rfl⟩
  · exact ⟨_, (congrArg Prod.fst (if_pos hyes)).trans (hoffer 0)⟩
  · exact ⟨_, (congrArg Prod.fst (if_pos hyes)).trans (hoffer d)⟩

end Take

/-- The checks of a launch record read its loop table, and change no more than that. -/
theorem checkLaunch_looked {s u : State} {agent : Nat} {r : Rec} {o : Origin} {ctx depth lvl : Nat} {tb : Rec} {hint : Bool}
    (h : s.checkLaunch agent r o ctx depth lvl = .ok u tb hint) : s.TileLooked u := by
  unfold State.checkLaunch at h
  dsimp only at h
  split at h
  · cases h
  · split at h
    · cases h
    · split at h
      · split at h
        · cases h; exact .refl s
        · cases h
      · have hread := tileLooked_bind (s := s) (r := s.reach { agent := agent, ctx := some ctx, unit := decide (96 ≤ agent) } .read (Rec_word r 5).toNat 64)
          (f := fun t p => .ok (t.cacheLoad { agent := agent, ctx := some ctx, unit := decide (96 ≤ agent) } (Rec_word r 5).toNat p.1 p.2 o.hint)
            (t.physBytes p.1 64, p.2)) (looked_reach ..).tileLooked fun t p => tileLooked_cacheLoad ..
        split at h
        · cases h
        · cases h
        · next t bs attr heq =>
          rw [heq] at hread
          have hpassed : ∀ {c c' : Prop} [Decidable c] [Decidable c'] {v w : State} {a b : BitVec 8} {x : Rec} {i j : Bool},
              (if c then LaunchCheck.refuse v a 0 else if c' then .refuse w b 0 else .ok t x i) = .ok u tb j → t = u := fun hif => by
            split at hif
            · cases hif
            · split at hif
              · cases hif
              · cases hif; rfl
          exact hpassed h ▸ hread

theorem modTask_frame (uid : Nat) (s : State) (f : Task → Task) : (s.modTask uid f).mem = s.mem ∧ (s.modTask uid f).launches = s.launches := by
  unfold State.modTask
  split
  · exact ⟨rfl, rfl⟩
  · split <;> exact ⟨rfl, rfl⟩

/-- A launch that is taken is the youngest, in LQ (12 R310). -/
theorem takeLaunch_gives {s t : State} {r tb : Rec} {o : Origin} {ctx depth prio : Nat} {scope : Option TileQueue} {lvl : Nat} {onDie : Option Nat}
    {phys : Bool} {place : Nat} {hint : Bool} (hbind : tiOpc r ≠ 0x0B ∨ bindN r ≠ 0)
    (ht : s.takeLaunch r tb o ctx depth prio scope lvl onDie phys place hint = t) :
    t.mem = s.mem ∧ t.launchNext = s.launchNext + 1 ∧ ∃ l, t.launches = s.launches ++ [l] ∧ l.rec_ = r ∧ l.table = tb ∧ l.num = s.launchNext ∧
      l.ctx = ctx ∧ l.origin = o ∧ l.place = place ∧ l.active = false ∧ l.prio = max prio (ltPrio tb) := by
  have hcount : s.TileLooked (s.countLaunchHint o hint) := by
    unfold State.countLaunchHint
    split
    · split
      · exact tileLooked_modCoreAt _ _ _ fun _ => rfl
      · exact .refl s
    all_goals exact .refl s
  obtain ⟨hlaunches, hnext⟩ := hcount.launches
  rw [← ht]
  unfold State.takeLaunch
  extract_lets v num unbind l mark pushed
  have hno : unbind = false := by
    unfold unbind
    rcases hbind with hbind | hbind <;> simp [hbind]
  have hmark : mark = v := by
    unfold mark
    rw [hno]
    split <;> rfl
  have hpushed : pushed.mem = v.mem ∧ pushed.launches = v.launches := by
    unfold pushed
    rw [hmark]
    split
    · exact modTask_frame ..
    all_goals exact ⟨rfl, rfl⟩
  refine ⟨hpushed.1.trans hcount.mem, congrArg (· + 1) hnext, l, ?_, rfl, rfl, hnext, rfl, rfl, rfl, rfl, ?_⟩
  · show pushed.launches ++ [l] = _
    rw [hpushed.2, hlaunches]
  · show (if unbind then prio else max prio (ltPrio tb)) = _
    rw [hno]
    rfl

/-- Where no barrier is open, a TBARRIER opens that of its tag (09 R270). -/
theorem joinBarrier_opens {s : State} (e : TileEntry) (h : s.barriers = []) : s.joinBarrier e =
    { s with barriers := [{ scope := e.queue, tag := tiTag e.rec_, count := bitsOf (Rec_word e.rec_ 7) 0 32, members := [e.id] }] } := by
  unfold State.joinBarrier
  dsimp only
  rw [h]
  rfl

theorem offerTile_opens {s : State} {q : TileQueue} {r : Rec} {o : Origin} {ctx : Nat} {phys : Bool} (hroom : (s.queued q).length < tileDepth q)
    (h : s.tileRefused q r o.by_ = none) (hop : tiOpc r = 12) (hnone : s.barriers = []) :
    (s.offerTile q r o ctx phys).1.mem = s.mem ∧
      (∃ z ∈ (s.offerTile q r o ctx phys).1.tiles, (s.offered q r o ctx phys).Same z ∧ z.failed = false) ∧
      (s.offerTile q r o ctx phys).1.barriers =
        [{ scope := q, tag := tiTag r, count := bitsOf (Rec_word r 7) 0 32, members := [s.nextId] }] := by
  obtain ⟨hmem, htiles, hbarriers, -⟩ := enqueued_gives s q (s.offered q r o ctx phys) rfl
  rw [offerTile_barrier hroom h hop, joinBarrier_opens (s := State.putTile _ _) _ (hbarriers.trans hnone)]
  refine ⟨hmem, ⟨{ s.offered q r o ctx phys with checked := true }, ?_, ⟨rfl, rfl, rfl, rfl, rfl, rfl, rfl, rfl⟩, rfl⟩, rfl⟩
  refine List.mem_map.mpr ⟨s.offered q r o ctx phys, ?_, if_pos rfl⟩
  rw [htiles]
  exact List.mem_append_right _ List.mem_cons_self

/-- Settles O46: what a queue is offered, by the first branch that its premises choose; what a check or a launch's table reads changes no more than
caches and counts. -/
theorem tileRecords : Obligations.TileRecords := by
  unfold Obligations.TileRecords
  intro s p q r result o ctx phys room isRec full refused data launches
  have hby : (s.tileOrigin p q).1.by_ = p := tileOrigin_by s p q
  have hsame : ∀ z, (s.offered q r o ctx phys).Same z → isRec z := fun z hz => hz
  have hturned : ∀ (opc : Nat) (i : Instr), exec i s = .next (State.issues (s.takeRecord opc p q r)) → opc ≠ 10 → opc ≠ 11 → q ≠ .pq →
      full opc i ∧ refused opc i := by
    intro opc i hexec h10 h11 hq
    refine ⟨fun hop hroom => ?_, fun hop hroom hlevel => ?_⟩
    · rw [hexec, takeRecord_full hop h10 h11 hq (Nat.not_lt.mp hroom)]
    · rw [takeRecord_refused hop h10 h11 hq hroom hlevel] at hexec
      exact ⟨_, hexec, rfl, rfl, (s.offered q r o ctx phys).fails s cQueue 0 0, rfl, ⟨rfl, rfl, rfl, rfl, rfl, rfl, rfl, rfl⟩, rfl,
        fails_code _ _ (by decide) 0 0⟩
  have hdata : ∀ (opc : Nat) (i : Instr), exec i s = .next (State.issues (s.takeRecord opc p q r)) → opc ≠ 10 → opc ≠ 11 → opc ≠ 12 → data opc i := by
    intro opc i hexec h10 h11 h12
    refine ⟨hturned opc i hexec h10 h11, fun hop hq hroom hpass => ?_, fun hop hq hroom hlevel hled hhalt hsync => ?_⟩
    · rw [takeRecord_tile hop h10 h11 hq] at hexec
      obtain ⟨hmem, ⟨z, hz, hrec⟩, htq⟩ := offerTile_gives (o := o) (ctx := ctx) (phys := phys) hroom (by rw [hby]; exact hpass) (by rw [hop]; exact h12)
      exact ⟨_, hexec, rfl, hmem, ⟨z, hz, hsame z hrec⟩, htq⟩
    · subst hq
      rw [takeRecord_pod hop h10 h11 h12 hroom hlevel hled hhalt hsync] at hexec
      exact ⟨_, hexec, rfl, rfl, _, _, rfl, ⟨rfl, rfl, rfl, rfl, rfl, rfl, rfl, rfl⟩, rfl, rfl, rfl, rfl, rfl⟩
  have hlaunch : ∀ (opc : Nat) (i : Instr), exec i s = .next (State.issues (s.takeRecord opc p q r)) → opc = 10 ∨ opc = 11 → launches opc i := by
    intro opc i hexec hopc hop hq hlevel hready u tb hint place hcheck hbind hplace
    obtain ⟨onDie, hrecord⟩ := takeRecord_launch hop hopc hq hlevel hready hcheck hplace
    have hread := checkLaunch_looked hcheck
    obtain ⟨hlaunches, hnext⟩ := hread.launches
    obtain ⟨hmem, hcount, l, hin, hrec, htb, hnum, hctx, ho, hat, hactive, hprio⟩ := takeLaunch_gives (hbind.imp_left fun h => by rw [h]; decide) hrecord.symm
    exact ⟨_, hexec, rfl, hmem.trans hread.mem, l, by rw [← hlaunches]; exact hin, hrec, htb, hnum.trans hnext, hctx, ho, hat, hactive, hprio,
      hcount.trans (congrArg (· + 1) hnext)⟩
  refine ⟨hdata 1 _ rfl (by decide) (by decide) (by decide), hdata 2 _ rfl (by decide) (by decide) (by decide),
    hdata 3 _ rfl (by decide) (by decide) (by decide), hdata 4 _ rfl (by decide) (by decide) (by decide),
    hdata 5 _ rfl (by decide) (by decide) (by decide), hdata 6 _ rfl (by decide) (by decide) (by decide),
    hdata 7 _ rfl (by decide) (by decide) (by decide), hdata 8 _ rfl (by decide) (by decide) (by decide),
    hdata 9 _ rfl (by decide) (by decide) (by decide), hdata 13 _ rfl (by decide) (by decide) (by decide),
    hlaunch 10 _ rfl (.inl rfl), hlaunch 11 _ rfl (.inr rfl), hturned 12 _ rfl (by decide) (by decide), fun hop hq hroom hpass hnone => ?_⟩
  have hexec : exec (.tbarrier p q r) s = .next (State.issues (s.takeRecord 12 p q r)) := rfl
  rw [takeRecord_tile hop (by decide) (by decide) hq] at hexec
  obtain ⟨hmem, ⟨z, hz, hrec, hok⟩, hbarriers⟩ := offerTile_opens (o := o) (ctx := ctx) (phys := phys) hroom (by rw [hby]; exact hpass) hop hnone
  exact ⟨_, hexec, rfl, hmem, ⟨z, hz, hsame z hrec, hok⟩, hbarriers⟩

end Sys2Proof.Machine

/-! LEMMAS and PROOF of O47: the elements of a record on a core's tile queue (09 R257 to R263). -/

namespace Sys2Proof.Machine

open Host (Outcome)

/-! ### Reads of the scratchpad -/

/-- Reads that change nothing give the values read. -/
theorem readEach_values {α β : Type} {s : State} {f : State → α → Acc β} {g : α → β} (l : List α) (h : ∀ x ∈ l, f s x = .ok s (g x)) :
    readEach s l f = .ok s (l.map g) := by
  induction l with
  | nil => rfl
  | cons x r ih =>
    unfold readEach
    rw [h x List.mem_cons_self]
    show (readEach s r f).map (g x :: ·) = _
    rw [ih fun y hy => h y (List.mem_cons_of_mem _ hy)]
    rfl

theorem badWord_none {k : Core} (h : k.spoilt = []) (b : Bank) (a n : Nat) : k.badWord b a n = none := by
  unfold Core.badWord
  rw [h]
  rfl

/-- The bits of an element of a shape in a scratchpad. -/
def Core.elemBits (k : Core) (sh : Rec) (is : List Nat) : Nat := ofBytes (bytesAt k.scratch (shAddr sh is) (shSize sh))

theorem tileRead_local {s : State} {e : TileEntry} {n : Nat} (hcore : e.core = some n) (hclean : (s.core n).spoilt = []) {sh : Rec}
    (hlocal : shLocal sh = true) (is : List Nat) : s.tileRead e sh is = .ok s ((s.core n).elemBits sh is) := by
  unfold State.tileRead State.padRead
  dsimp only
  rw [if_pos hlocal, hcore, Option.getD_some, badWord_none hclean]
  rfl

/-! ### Output to the scratchpad -/

/-- Bytes written one after another. -/
def padAfter (m : SMap Byte) (ws : List (Nat × List Byte)) : SMap Byte := ws.foldl (fun m w => Machine.putBytes m w.1 w.2) m

/-- Core `n`'s scratchpad is written: memory, entries and the core's queue are as they were, and no word is uncorrectable. -/
structure State.PadPut (s t : State) (n : Nat) (m : SMap Byte) : Prop where
  mem : t.mem = s.mem
  tiles : t.tiles = s.tiles
  tq : (t.core n).tq = (s.core n).tq
  clean : (t.core n).spoilt = []
  scratch : (t.core n).scratch = m

theorem sinkBy_frame (s : State) (o : Origin) (k n : Nat) : (s.sinkBy o k).mem = s.mem ∧ (s.sinkBy o k).tiles = s.tiles ∧
    (s.sinkBy o k).core n = s.core n := by
  unfold State.sinkBy
  split <;> exact ⟨rfl, rfl, rfl⟩

theorem noteStore_tiles (s : State) (pa n : Nat) : (s.noteStore pa n).tiles = s.tiles := by rw [noteStore_only]

theorem tileWrite_local {s : State} {e : TileEntry} {n k : Nat} (hcore : e.core = some n) (hclean : (s.core n).spoilt = [])
    (hlocal : shLocal (e.shapes.getD k 0) = true) (a : Nat) (bs : List Byte) :
    ∃ t, s.tileWrite e (k, a, bs) = .ok t () ∧ s.PadPut t n (Machine.putBytes (s.core n).scratch a bs) := by
  have hpad := modCoreAt_core_same s n fun c => c.putPad a bs
  have hnote := noteStore_core (s.modCoreAt n fun c => c.putPad a bs) (windowAddr n a) bs.length n
  have hmem := noteStore_mem (s.modCoreAt n fun c => c.putPad a bs) (windowAddr n a) bs.length
  have htiles := noteStore_tiles (s.modCoreAt n fun c => c.putPad a bs) (windowAddr n a) bs.length
  refine ⟨((s.modCoreAt n fun c => c.putPad a bs).noteStore (windowAddr n a) bs.length).sinkBy e.origin 1, ?_, ?_⟩
  · unfold State.tileWrite
    dsimp only
    rw [if_pos hlocal, hcore]
    rfl
  · obtain ⟨hsmem, hstiles, hscore⟩ := sinkBy_frame ((s.modCoreAt n fun c => c.putPad a bs).noteStore (windowAddr n a) bs.length) e.origin 1 n
    have hc := hscore.trans (hnote.trans hpad)
    refine ⟨hsmem.trans hmem, hstiles.trans htiles, by rw [hc]; rfl, ?_, by rw [hc]; rfl⟩
    rw [hc]
    show (s.core n).spoilt.filter _ = []
    rw [hclean]
    rfl

theorem flushTile_local {n : Nat} (ws : List (Nat × Nat × List Byte)) (s : State) (e : TileEntry) (hcore : e.core = some n)
    (hclean : (s.core n).spoilt = []) (hlocal : ∀ w ∈ ws, shLocal (e.shapes.getD w.1 0) = true) :
    ∃ t, s.flushTile e ws = .done t { e with writes := [], rep := { e.rep with bytes := e.rep.bytes + (ws.map (·.2.2.length)).sum } } ∧
      s.PadPut t n (padAfter (s.core n).scratch (ws.map (·.2))) := by
  induction ws generalizing s e with
  | nil => exact ⟨s, rfl, rfl, rfl, rfl, hclean, rfl⟩
  | cons w r ih =>
    obtain ⟨k, a, bs⟩ := w
    obtain ⟨u, hwrite, humem, hutiles, hutq, huclean, huscratch⟩ := tileWrite_local (s := s) (e := e) hcore hclean (hlocal _ List.mem_cons_self) a bs
    obtain ⟨t, hflush, htmem, httiles, httq, htclean, htscratch⟩ := ih u { e with rep := { e.rep with bytes := e.rep.bytes + bs.length } } hcore huclean
      fun w hw => hlocal w (List.mem_cons_of_mem _ hw)
    refine ⟨t, ?_, htmem.trans humem, httiles.trans hutiles, httq.trans hutq, htclean, ?_⟩
    · unfold State.flushTile
      rw [hwrite]
      refine hflush.trans ?_
      dsimp only
      rw [List.map_cons, List.sum_cons, Nat.add_assoc]
    · rw [htscratch, huscratch]
      rfl

/-! ### A record of one unit (09 R252 R257 R272) -/

/-- The only entry, a checked record on core `n`'s TQ whose turn has come, of one unit `u` of shapes `a`, `b` and `c`, with `c` in the scratchpad. -/
structure OneUnit (s : State) (e : TileEntry) (n u : Nat) (a b c : Rec) : Prop where
  tiles : s.tiles = [e]
  level : e.level = 1
  parent : e.parent = none
  core : e.core = some n
  checked : e.checked = true
  failed : e.failed = false
  launch : e.launch = none
  paused : s.paused = false
  done : e.done = 0
  writes : e.writes = []
  first : e.first = u
  units : e.units = 1
  rep : e.rep = {}
  shapes : e.shapes = [a, b, c]
  out : shLocal c = true
  clean : (s.core n).spoilt = []
  tq : (s.core n).tq = [e.id]
  settled : s.pusherSettled e.origin e.id = true
  answered : s.unanswered (dieOf n) e.page = false

/-- The entry once its unit is computed and written. -/
def TileEntry.unitDone (e : TileEntry) (bytes : Nat) (flags : Flags) (oor : Bool) : TileEntry :=
  { e with done := 1, writes := [], rep := { e.rep with bytes := bytes, flags := flags, oor := oor } }

/-- Where elements of `c` go, with their bytes. -/
def outBytes (c : Rec) (xs : List (List Nat × Val)) : List (Nat × List Byte) :=
  xs.map fun p => (shAddr c p.1, toBytes (t6Clean (shTy c) p.2.bits) (shSize c))

/-- An entry that has reported no fault, and is otherwise the record `e`. -/
def TileEntry.Ends (e z : TileEntry) : Prop :=
  z.id = e.id ∧ z.rec_ = e.rec_ ∧ z.core = e.core ∧ z.parent = none ∧ z.rep.code = 0 ∧ z.failed = false

/-- A run that is done: its ranked output goes out, and the entry ends. -/
theorem afterRun_done (s : State) {v u : State} {x z : TileEntry} (hwrite : v.writeRanked { x with rep := x.located v x.rep } = .done u z) :
    s.afterRun (.done v x) = (u.putTile z).endTile z := by
  unfold State.afterRun
  dsimp only
  rw [hwrite]

section Unit
variable {s : State} {e : TileEntry} {n u : Nat} {a b c : Rec} (h : OneUnit s e n u a b c)
include h

theorem runLeaf_unit (hopc : tiOpc e.rec_ ≠ 4) {xs : List (List Nat × Val)} {oor : Bool} (hout : s.unitOut e u = .ok s (outOf c xs oor)) :
    ∃ v, s.runLeaf e = .done v (e.unitDone ((outBytes c xs).map fun w => w.2.length).sum (xs.foldl (fun f p => f ||| p.2.flags) 0) oor) ∧
      s.PadPut v n (padAfter (s.core n).scratch (outBytes c xs)) := by
  have hws : (outOf c xs oor).writes.map (·.2) = outBytes c xs := by
    show (xs.map _).map _ = _
    rw [List.map_map]
    rfl
  have hlocal : ∀ w ∈ (outOf c xs oor).writes, shLocal (e.shapes.getD w.1 0) = true := by
    intro w hw
    obtain ⟨p, -, rfl⟩ := List.mem_map.mp hw
    rw [h.shapes]
    exact h.out
  obtain ⟨v, hflush, hput⟩ := flushTile_local (outOf c xs oor).writes s
    { e with rep := { e.rep with flags := e.rep.flags ||| (outOf c xs oor).flags, oor := e.rep.oor || (outOf c xs oor).oor } } h.core h.clean hlocal
  rw [hws] at hput
  refine ⟨v, ?_, hput⟩
  unfold State.runLeaf
  rw [h.writes, h.units, h.done]
  show s.runUnits e 1 = _
  unfold State.runUnits
  dsimp only
  have hu : e.first + e.done = u := by rw [h.done, h.first, Nat.add_zero]
  rw [if_neg hopc, hu, hout]
  dsimp only
  rw [hflush]
  dsimp only
  unfold State.runUnits TileEntry.unitDone
  have hsum : ((outOf c xs oor).writes.map (·.2.2.length)).sum = ((outBytes c xs).map fun w => w.2.length).sum := by
    rw [← hws, List.map_map]
    rfl
  rw [hsum, h.rep]
  simp [outOf, h.done]

/-- The state in which the record's work is done and its outcome stands: it leaves, and what it borrowed is zero. -/
theorem endTile_leaves {v : State} {z : TileEntry} {m : SMap Byte} (hput : s.PadPut v n m) (hz : e.Ends z) (hcblk : tiCblk e.rec_ = 0)
    (hev : tiEv e.rec_ = false) :
    ((v.putTile z).endTile z).mem = s.mem ∧ ((v.putTile z).endTile z).tiles = [] ∧ (((v.putTile z).endTile z).core n).tq = [] ∧
      (((v.putTile z).endTile z).core n).scratch = m.filter fun p => decide (p.1 < 0x140000) := by
  obtain ⟨hid, hrec, hcore, hparent, hcode, hfailed⟩ := hz
  have hmade : (v.putTile z).endTile z = (v.putTile z).dropTile z := by
    unfold State.endTile
    rw [hparent, if_neg (by decide)]
    unfold State.reportTo
    dsimp only
    rw [hrec, hcblk, hev, hcode]
    rfl
  have htiles : ((v.putTile z).tiles.filter (·.id != z.id)) = [] := by
    show ((v.tiles.map _).filter _) = []
    rw [hput.tiles, h.tiles]
    simp [hid]
  rw [hmade]
  unfold State.dropTile
  rw [hparent, hcore, h.core]
  dsimp only
  have hlast : ∀ w : State, w.mem = s.mem → w.tiles = [] → (w.core n).tq = [e.id] → (w.core n).scratch = m → ∀ f : Core → Core,
      (∀ k, (f k).tq = k.tq.filter (· != z.id) ∧ (f k).scratch = k.scratch.filter fun p => decide (p.1 < 0x140000)) →
      (w.modCoreAt n f).mem = s.mem ∧ (w.modCoreAt n f).tiles = [] ∧ ((w.modCoreAt n f).core n).tq = [] ∧
        ((w.modCoreAt n f).core n).scratch = m.filter fun p => decide (p.1 < 0x140000) := by
    intro w hmem htiles htq hscratch f hf
    obtain ⟨hftq, hfscratch⟩ := hf (w.core n)
    refine ⟨hmem, htiles, ?_, ?_⟩
    · rw [modCoreAt_core_same, hftq, htq, hid]
      simp
    · rw [modCoreAt_core_same, hfscratch, hscratch]
  refine hlast _ ?_ ?_ ?_ ?_ _ fun k => ?_
  · split <;> exact hput.mem
  · split <;> exact htiles
  · split <;> exact hput.tq.trans h.tq
  · split <;> exact hput.scratch
  · rw [hfailed, Bool.false_and, if_neg Bool.false_ne_true]
    split <;> exact ⟨rfl, rfl⟩

theorem tileComplete_runs (hopc : tiOpc e.rec_ ≠ 12) : exec (.tileComplete e.id) s = .next (State.issues (s.afterRun (s.runLeaf e))) := by
  have htile : s.tile e.id = some e := by
    unfold State.tile
    rw [h.tiles]
    exact List.find?_cons_of_pos (beq_self_eq_true _)
  have hanswered : s.unanswered (dieOf e.issuer.agent) e.page = false := by
    have hagent : e.issuer.agent = n := by
      show e.core.getD _ = n
      rw [h.core]
      rfl
    rw [hagent]
    exact h.answered
  have hrun : s.tileMayRun e = true := by
    unfold State.tileMayRun
    rw [h.core, h.parent]
    simp [h.settled, h.tq]
  have hfound : (if s.paused then none else (s.tile e.id).filter fun e => !s.unanswered (dieOf e.issuer.agent) e.page) = some e := by
    rw [h.paused, if_neg Bool.false_ne_true, htile, Option.filter_some, hanswered]
    rfl
  show execTileComplete e.id s = _
  unfold execTileComplete
  rw [hfound]
  dsimp only
  rw [h.failed, if_neg Bool.false_ne_true, if_neg hopc, if_neg (by rw [h.level]; decide), h.launch]
  dsimp only
  rw [h.checked, if_neg (by decide), if_pos h.level, if_pos hrun]
  rfl

/-- A unit of elements: what the run gives, and how the record leaves. -/
theorem unit_settled (h4 : tiOpc e.rec_ ≠ 4) (h12 : tiOpc e.rec_ ≠ 12) {xs : List (List Nat × Val)} {oor : Bool}
    (hout : s.unitOut e u = .ok s (outOf c xs oor)) :
    (∃ v x, s.runLeaf e = .done v x ∧ (v.core n).scratch = padAfter (s.core n).scratch (outBytes c xs) ∧ x.rep.code = 0 ∧
      x.rep.flags = xs.foldl (fun f p => f ||| p.2.flags) 0 ∧ x.rep.oor = oor ∧ x.rep.bytes = ((outBytes c xs).map fun w => w.2.length).sum) ∧
    (tiCblk e.rec_ = 0 → tiEv e.rec_ = false → ∃ t, exec (.tileComplete e.id) s = .next t ∧ t.res = .issued ∧ t.mem = s.mem ∧ t.tiles = [] ∧
      (t.core n).tq = [] ∧ (t.core n).scratch = (padAfter (s.core n).scratch (outBytes c xs)).filter fun p => decide (p.1 < 0x140000)) := by
  obtain ⟨v, hrun, hput⟩ := runLeaf_unit h h4 hout
  have hcode : ∀ bytes flags oor, (e.unitDone bytes flags oor).rep.code = 0 := fun bytes flags oor => by
    show e.rep.code = 0
    rw [h.rep]
  refine ⟨⟨v, _, hrun, hput.scratch, hcode _ _ _, rfl, rfl, rfl⟩, fun hcblk hev => ?_⟩
  have hexec := tileComplete_runs h h12
  rw [hrun] at hexec
  generalize hx : e.unitDone ((outBytes c xs).map fun w => w.2.length).sum (xs.foldl (fun f p => f ||| p.2.flags) 0) oor = x at hexec
  have hxcode : x.rep.code = 0 := hx ▸ hcode _ _ _
  have hends : e.Ends { x with rep := x.located v x.rep } := by
    have hlocated : (x.located v x.rep).code = 0 := by
      unfold TileEntry.located
      rw [if_pos hxcode]
      exact hxcode
    subst hx
    exact ⟨rfl, rfl, rfl, h.parent, hlocated, h.failed⟩
  have hafter : s.afterRun (.done v x) = (v.putTile { x with rep := x.located v x.rep }).endTile { x with rep := x.located v x.rep } := by
    refine afterRun_done s (if_pos ?_)
    rw [hends.2.1]
    simp [h4]
  rw [hafter] at hexec
  obtain ⟨hmem, htiles, htq, hscratch⟩ := endTile_leaves h hput hends hcblk hev
  exact ⟨_, hexec, rfl, hmem, htiles, htq, hscratch⟩

end Unit

/-! ### Operations element by element (09 R259 R260 R263) -/

section Rows
variable {s : State} {e : TileEntry} {n u : Nat} {a b c : Rec} (h : OneUnit s e n u a b c)
include h

/-- The operand shapes of the record. -/
theorem unit_shapes : e.shapes.getD 0 0 = a ∧ e.shapes.getD 1 0 = b ∧ e.shapes.getD 2 0 = c := by
  rw [h.shapes]
  exact ⟨rfl, rfl, rfl⟩

theorem unit_read {sh : Rec} (hlocal : shLocal sh = true) (is : List Nat) : s.tileRead e sh is = .ok s ((s.core n).elemBits sh is) :=
  tileRead_local h.core h.clean hlocal is

omit h in
/-- A row whose elements are computed one by one. -/
theorem unit_row {f : State → List Nat → Acc Val} {g : List Nat → Val} (hf : ∀ is, f s is = .ok s (g is)) :
    ((readEach s (rowIndices c u) fun v is => (f v is).map fun x => (is, x)).map fun xs => outOf c xs) =
      .ok s (outOf c ((rowIndices c u).map fun is => (is, g is))) := by
  rw [readEach_values (g := fun is => (is, g is)) (rowIndices c u) fun is _ => by rw [hf]; rfl]
  rfl

theorem unitOut_ewise (hopc : tiOpc e.rec_ = 2)
    (hlocal : ∀ x ∈ (a :: if ewiseOne (bitsOf (tiP0 e.rec_) 0 8) then [] else [b]), shLocal x = true) :
    s.unitOut e u = .ok s (outOf c ((rowIndices c u).map fun is => (is, ewise (shTy c) (bitsOf (tiP0 e.rec_) 0 8) (modeOf (bitsOf (tiP0 e.rec_) 8 3))
      ((s.core n).elemBits a is) (if ewiseOne (bitsOf (tiP0 e.rec_) 0 8) then 0 else (s.core n).elemBits b is)))) := by
  obtain ⟨ha, hb, hc⟩ := unit_shapes h
  unfold State.unitOut
  dsimp only
  rw [hopc, ha, hb, hc]
  refine unit_row fun is => ?_
  rw [unit_read h (hlocal a List.mem_cons_self)]
  show (if _ then _ else _) = _
  split
  · rfl
  · next hone =>
    rw [unit_read h (hlocal b (by rw [if_neg hone]; simp))]
    rfl

theorem unitOut_reduce (hopc : tiOpc e.rec_ = 3) (ha : shLocal a = true) :
    s.unitOut e u = .ok s (outOf c ((rowIndices c u).map fun is => (is, reduceOf (shTy c) (bitsOf (tiP0 e.rec_) 0 8)
      ((List.range (shExt a (bitsOf (tiP0 e.rec_) 8 3))).map fun i => (s.core n).elemBits a (is.set (bitsOf (tiP0 e.rec_) 8 3) i))))) := by
  obtain ⟨hsa, -, hsc⟩ := unit_shapes h
  unfold State.unitOut
  dsimp only
  rw [hopc, hsa, hsc]
  refine unit_row fun is => ?_
  rw [readEach_values (g := fun i => (s.core n).elemBits a (is.set (bitsOf (tiP0 e.rec_) 8 3) i)) _ fun i _ => unit_read h ha _]
  rfl

theorem unitOut_copy (hopc : tiOpc e.rec_ = 5) (ha : shLocal a = true) :
    s.unitOut e u = .ok s (outOf c ((rowIndices c u).map fun is => (is, plain ((s.core n).elemBits a is)))) := by
  obtain ⟨hsa, -, hsc⟩ := unit_shapes h
  unfold State.unitOut
  dsimp only
  rw [hopc, hsa, hsc]
  refine unit_row fun is => ?_
  rw [unit_read h ha]
  rfl

theorem unitOut_cast (hopc : tiOpc e.rec_ = 7) (ha : shLocal a = true) :
    s.unitOut e u = .ok s (outOf c ((rowIndices c u).map fun is =>
      (is, castElem a c (modeOf (bitsOf (tiP0 e.rec_) 0 3)) ((s.core n).elemBits a is)))) := by
  obtain ⟨hsa, -, hsc⟩ := unit_shapes h
  unfold State.unitOut
  dsimp only
  rw [hopc, hsa, hsc]
  refine unit_row fun is => ?_
  rw [unit_read h ha]
  rfl

theorem unitOut_fill (hopc : tiOpc e.rec_ = 9) :
    s.unitOut e u = .ok s (outOf c ((rowIndices c u).map fun is => (is, plain ((tiP0 e.rec_).toNat % 2 ^ (shTy c).width)))) := by
  obtain ⟨-, -, hsc⟩ := unit_shapes h
  unfold State.unitOut
  dsimp only
  rw [hopc, hsc]
  exact unit_row fun is => rfl

omit h in
/-- The source indices that a permutation gives are the only ones that it can. -/
theorem permuted_unique {rank : Nat} {perm : Nat → Nat} (hlt : ∀ d, d < rank → perm d < rank)
    (hinj : ∀ d f, d < rank → f < rank → perm d = perm f → d = f) {is src : List Nat} (hlen : src.length = rank)
    (hsrc : ∀ d, d < rank → src.getD (perm d) 0 = is.getD d 0) :
    ((List.range rank).map fun j => ((List.range rank).find? fun d => perm d == j).elim 0 fun d => is.getD d 0) = src := by
  have hfound : ∀ d, d < rank → (List.range rank).find? (fun x => perm x == perm d) = some d := by
    intro d hd
    refine List.find?_range_eq_some.mpr ⟨beq_self_eq_true _, List.mem_range.mpr hd, fun j hj => ?_⟩
    have hne : perm j ≠ perm d := fun he => Nat.ne_of_lt hj (hinj j d (hj.trans hd) hd he)
    simpa using hne
  have hsurj : ∀ j, j < rank → ∃ d, d < rank ∧ perm d = j := by
    intro j hj
    have hf : Function.Injective fun d : Fin rank => (⟨perm d, hlt d d.isLt⟩ : Fin rank) := fun x y hxy =>
      Fin.ext (hinj x y x.isLt y.isLt (congrArg Fin.val hxy))
    obtain ⟨d, hd⟩ := Finite.surjective_of_injective hf ⟨j, hj⟩
    exact ⟨d, d.isLt, congrArg Fin.val hd⟩
  refine List.ext_getElem (by rw [List.length_map, List.length_range, hlen]) fun j hj hj' => ?_
  rw [List.getElem_map, List.getElem_range]
  obtain ⟨d, hd, rfl⟩ := hsurj j (by rw [← hlen]; exact hj')
  rw [hfound d hd, Option.elim_some, ← hsrc d hd, List.getD_eq_getElem _ _ hj']

theorem unitOut_trans (hopc : tiOpc e.rec_ = 8) (ha : shLocal a = true) (hlt : ∀ d, d < shRank a → bitsOf (tiP0 e.rec_) (3 * d) 3 < shRank a)
    (hinj : ∀ d f, d < shRank a → f < shRank a → bitsOf (tiP0 e.rec_) (3 * d) 3 = bitsOf (tiP0 e.rec_) (3 * f) 3 → d = f) {src : List Nat → List Nat}
    (hsrc : ∀ is, (src is).length = shRank a ∧ ∀ d, d < shRank a → (src is).getD (bitsOf (tiP0 e.rec_) (3 * d) 3) 0 = is.getD d 0) :
    s.unitOut e u = .ok s (outOf c ((rowIndices c u).map fun is => (is, plain ((s.core n).elemBits a (src is))))) := by
  obtain ⟨hsa, -, hsc⟩ := unit_shapes h
  unfold State.unitOut
  dsimp only
  rw [hopc, hsa, hsc]
  refine unit_row fun is => ?_
  rw [permuted_unique hlt hinj (hsrc is).1 (hsrc is).2, unit_read h ha]
  rfl

theorem unitOut_gather (hopc : tiOpc e.rec_ = 6) (ha : shLocal a = true) (hb : shLocal b = true) :
    let at_ : Int := (BitVec.ofNat (shTy b).width ((s.core n).elemBits b [u])).toInt - (shOrigin a : Int)
    let here : Bool := decide (0 ≤ at_) && decide (at_ < (shExt a (shRank a - 1) : Int))
    s.unitOut e u = .ok s (outOf c (((List.range (shCount c ((shDims c).take (shRank a - 1)))).map (unlinear c ((shDims c).take (shRank a - 1)))).map fun is =>
      (is ++ [u], plain (if here then (s.core n).elemBits a (is ++ [at_.toNat]) else 0))) (!here)) := by
  intro at_ here
  obtain ⟨hsa, hsb, hsc⟩ := unit_shapes h
  unfold State.unitOut
  dsimp only
  rw [hopc, hsa, hsb, hsc]
  dsimp only [Acc.bind]
  rw [unit_read h hb]
  show (if (decide (at_ < 0) || decide ((shExt a (shRank a - 1) : Int) ≤ at_)) = true then _ else _) = _
  have hhere : (decide (at_ < 0) || decide ((shExt a (shRank a - 1) : Int) ≤ at_)) = !here := by
    unfold here
    rw [Bool.not_and, ← decide_not, ← decide_not]
    simp only [Int.not_le, Int.not_lt]
  rw [hhere]
  cases here with
  | false => rfl
  | true =>
    rw [if_neg (by decide), readEach_values (g := fun is => (is ++ [u], plain ((s.core n).elemBits a (is ++ [at_.toNat])))) _ fun is _ => by
      rw [unit_read h ha]; rfl]
    rfl

omit h in
/-- A list cut into groups of `len`, by their numbers. -/
theorem groupsOf_range {α : Type} {len : Nat} (hlen : 0 < len) (fuel kk : Nat) (f : Nat → α) (hfuel : kk ≤ fuel) :
    groupsOf len ((List.range kk).map f) fuel =
      (List.range ((kk + len - 1) / len)).map fun q => (List.range (min len (kk - q * len))).map fun i => f (q * len + i) := by
  induction fuel generalizing kk f with
  | zero =>
    obtain rfl : kk = 0 := by omega
    rw [Nat.div_eq_of_lt (by omega)]
    rfl
  | succ m ih =>
    cases kk with
    | zero =>
      rw [Nat.div_eq_of_lt (by omega)]
      rfl
    | succ k =>
      have htake : ((List.range (k + 1)).map f).take len = (List.range (min len (k + 1))).map f := by
        rw [← List.map_take, List.take_range]
      have hdrop : ((List.range (k + 1)).map f).drop len = (List.range (k + 1 - len)).map fun i => f (len + i) := by
        rw [← List.map_drop, List.range_eq_range', List.drop_range', List.range_eq_range', List.range'_eq_map_range, List.range'_eq_map_range]
        simp
      have hcons : (List.range (k + 1)).map f = f 0 :: (List.range k).map (f ∘ Nat.succ) := by
        rw [List.range_succ_eq_map, List.map_cons, List.map_map]
      have hcount : (k + 1 + len - 1) / len = (k + 1 - len + len - 1) / len + 1 := by
        rcases Nat.lt_or_ge (k + 1) len with hlt | hge
        · rw [Nat.sub_eq_zero_of_le hlt.le, Nat.zero_add, Nat.div_eq_of_lt (by omega : len - 1 < len)]
          exact Nat.div_eq_of_lt_le (by omega) (by omega)
        · rw [show k + 1 + len - 1 = k + 1 - len + len - 1 + len by omega, Nat.add_div_right _ hlen]
      rw [hcons]
      show (_ :: _).take len :: groupsOf len ((_ :: _).drop len) m = _
      rw [← hcons, htake, hdrop, ih _ _ (by omega), hcount, List.range_succ_eq_map, List.map_cons, List.map_map]
      congr 1
      · simp
      · refine List.map_congr_left fun q _ => ?_
        dsimp only [Function.comp]
        rw [Nat.succ_mul, Nat.sub_sub, Nat.add_comm len (q * len)]
        refine List.map_congr_left fun i _ => congrArg f ?_
        omega

omit h in
/-- An element of a tile, its chunks in ascending order of K. -/
theorem tileElem_chunks (ta tb : Ty) (ba bb : Int) (int : Bool) (old kk : Nat) (f g : Nat → Nat) :
    tileElem ta tb ba bb int old ((List.range kk).map f) ((List.range kk).map g) =
      (List.range ((kk + chunkLen ta - 1) / chunkLen ta)).foldl (fun (v : Val) q =>
        let y := accAdd int (BitVec.ofNat 32 v.bits) (chunkSum ((List.range (min (chunkLen ta) (kk - q * chunkLen ta))).map fun i =>
          (decodeElem ta ba (f (q * chunkLen ta + i)), decodeElem tb bb (g (q * chunkLen ta + i)))))
        { bits := y.bits, flags := v.flags ||| y.flags }) { bits := old } := by
  have hlen : 0 < chunkLen ta := by
    unfold chunkLen
    split <;> decide
  unfold tileElem
  dsimp only
  rw [List.zip_map', List.map_map, List.length_map, List.length_range]
  rw [groupsOf_range hlen kk kk _ le_rfl, List.foldl_map]
  rfl

theorem unitOut_matmul (hopc : tiOpc e.rec_ = 1) (ha : shLocal a = true) (hb : shLocal b = true) :
    s.unitOut e u = .ok s (outOf c ((((List.range 128).map (· + 128 * (u / ((shExt c 0 + 255) / 256)))).filter fun m => decide (m < shExt c 1)).flatMap fun m =>
      (((List.range 256).map (· + 256 * (u % ((shExt c 0 + 255) / 256)))).filter fun j => decide (j < shExt c 0)).map fun j =>
        ([j, m], tileElem (shTy a) (shTy b) (shBias a) (shBias b) (shTy a == .i8) (if tiZc e.rec_ then 0 else (s.core n).elemBits c [j, m])
          ((List.range (shExt a 0)).map fun k => (s.core n).elemBits a [k, m]) ((List.range (shExt a 0)).map fun k => (s.core n).elemBits b [j, k])))) := by
  obtain ⟨hsa, hsb, hsc⟩ := unit_shapes h
  unfold State.unitOut
  dsimp only
  rw [hopc]
  change s.matmulUnit e u = _
  unfold State.matmulUnit
  dsimp only
  rw [hsa, hsb, hsc]
  generalize ((List.range 128).map (· + 128 * (u / ((shExt c 0 + 255) / 256)))).filter (fun m => decide (m < shExt c 1)) = rows
  generalize ((List.range 256).map (· + 256 * (u % ((shExt c 0 + 255) / 256)))).filter (fun j => decide (j < shExt c 0)) = cols
  rw [readEach_values (g := fun m => (List.range (shExt a 0)).map fun k => (s.core n).elemBits a [k, m]) rows fun m _ =>
    readEach_values _ fun k _ => unit_read h ha _]
  dsimp only [Acc.bind]
  rw [readEach_values (g := fun j => (List.range (shExt a 0)).map fun k => (s.core n).elemBits b [j, k]) cols fun j _ =>
    readEach_values _ fun k _ => unit_read h hb _]
  dsimp only [Acc.bind]
  rw [readEach_values (g := fun m => cols.map fun j => if tiZc e.rec_ then 0 else (s.core n).elemBits c [j, m]) rows fun m _ =>
    readEach_values _ fun j _ => by
      split
      · rfl
      · exact unit_read h h.out _]
  dsimp only [Acc.map]
  have hzip : ∀ {α β : Type} (l : List α) (f : α → β), l.zip (l.map f) = l.map fun x => (x, f x) := fun l f => by
    simpa using List.zip_map' (f := id) (g := f) (l := l)
  rw [List.zip_map', hzip, List.flatMap_map]
  refine congrArg (fun xs => Acc.ok s (outOf c xs)) (List.flatMap_congr fun m _ => ?_)
  rw [List.zip_map', hzip, List.map_map]
  rfl

end Rows

/-! ### The order of keys (09 R261) -/

/-- A number's place on the line, with infinities at its ends. -/
def Num.place (x : Num) : WithBot (WithTop ℚ) :=
  match x with
  | .fin neg m e => (((if neg then -(m : ℚ) else m) * 2 ^ e : ℚ) : WithTop ℚ)
  | .inf true => ⊥
  | .inf false => ((⊤ : WithTop ℚ) : WithBot (WithTop ℚ))
  | .nan | .nav => ⊥

theorem signedAt_cast (neg : Bool) (m : Nat) {e lo : Int} (h : lo ≤ e) :
    ((signedAt neg m e lo : Int) : ℚ) = (if neg then -(m : ℚ) else m) * 2 ^ e * 2 ^ (-lo) := by
  have hpow : (2 : ℚ) ^ (e - lo).toNat = 2 ^ e * 2 ^ (-lo) := by
    rw [← zpow_natCast, Int.toNat_of_nonneg (by omega), sub_eq_add_neg, zpow_add₀ (by norm_num)]
  unfold signedAt
  cases neg <;> simp [hpow, mul_assoc]

theorem Num.lt_iff_place {x y : Num} (hx : x.isNan = false) (hy : y.isNan = false) : x.lt y = true ↔ x.place < y.place := by
  cases x with
  | nan => cases hx
  | nav => cases hx
  | inf n =>
    cases y with
    | nan => cases hy
    | nav => cases hy
    | inf k => cases n <;> cases k <;> simp [Num.lt, Num.place]
    | fin neg m e => cases n <;> simp [Num.lt, Num.place]
  | fin neg m e =>
    cases y with
    | nan => cases hy
    | nav => cases hy
    | inf k =>
      cases k with
      | true => simp [Num.lt, Num.place]
      | false => exact iff_of_true rfl (WithBot.coe_lt_coe.mpr (WithTop.coe_lt_top _))
    | fin neg' m' e' =>
      have hpos : (0 : ℚ) < 2 ^ (-(min e e')) := by positivity
      simp only [Num.lt, Num.place, decide_eq_true_eq, WithBot.coe_lt_coe, WithTop.coe_lt_coe]
      rw [← Int.cast_lt (R := ℚ), signedAt_cast _ _ (Int.min_le_left e e'), signedAt_cast _ _ (Int.min_le_right e e')]
      exact mul_lt_mul_iff_of_pos_right hpos

/-- A key's place in the order of R261: NaN first, then the greater number, then the lower index. -/
def keyPlace (t : Ty) (bias : Int) (x : Nat × Nat) : Bool ×ₗ ((WithBot (WithTop ℚ))ᵒᵈ ×ₗ ℕ) :=
  let v := decodeElem t bias x.1
  toLex (!v.isNan, toLex (OrderDual.toDual (if v.isNan then ⊥ else v.place), x.2))

theorem Num.lt_nan {x y : Num} (h : x.isNan = true) : x.lt y = false ∧ y.lt x = false := by
  cases x with
  | nan => cases y <;> exact ⟨rfl, rfl⟩
  | nav => cases y <;> exact ⟨rfl, rfl⟩
  | inf n => cases h
  | fin neg m e => cases h

theorem keyPlace_lt (t : Ty) (bias : Int) (x y : Nat × Nat) : keyPlace t bias x < keyPlace t bias y ↔
    (if (decodeElem t bias x.1).isNan then (decodeElem t bias y.1).isNan = false
      else (decodeElem t bias y.1).isNan = false ∧ (decodeElem t bias y.1).lt (decodeElem t bias x.1) = true) ∨
    ((decodeElem t bias x.1).isNan = (decodeElem t bias y.1).isNan ∧ (decodeElem t bias x.1).lt (decodeElem t bias y.1) = false ∧
      (decodeElem t bias y.1).lt (decodeElem t bias x.1) = false ∧ x.2 < y.2) := by
  unfold keyPlace
  dsimp only
  generalize decodeElem t bias x.1 = v
  generalize decodeElem t bias y.1 = w
  rw [Prod.Lex.toLex_lt_toLex, Prod.Lex.toLex_lt_toLex]
  rcases hv : v.isNan with - | - <;> rcases hw : w.isNan with - | -
  · have hvw := Num.lt_iff_place hv hw
    have hwv := Num.lt_iff_place hw hv
    simp only [← Bool.not_eq_true, hvw, hwv, Bool.false_eq_true, if_false, OrderDual.toDual_lt_toDual, EmbeddingLike.apply_eq_iff_eq, true_and,
      lt_irrefl, false_or, not_lt]
    constructor
    · rintro (h | ⟨h, hxy⟩)
      · exact .inl h
      · exact .inr ⟨h.ge, h.le, hxy⟩
    · rintro (h | ⟨h, h', hxy⟩)
      · exact .inl h
      · exact .inr ⟨le_antisymm h' h, hxy⟩
  · simp
  · simp
  · simp [(Num.lt_nan hv).1, (Num.lt_nan hv).2]

theorem ranksBefore_iff (t : Ty) (bias : Int) (x y : Nat × Nat) : ranksBefore t bias x y = true ↔ keyPlace t bias x < keyPlace t bias y := by
  rw [keyPlace_lt]
  unfold ranksBefore
  dsimp only
  generalize decodeElem t bias x.1 = v
  generalize decodeElem t bias y.1 = w
  rcases hv : v.isNan with - | - <;> rcases hw : w.isNan with - | -
  · cases hwv : w.lt v with
    | true => simp
    | false => cases hvw : v.lt w <;> simp
  · simp
  · simp
  · simp [(Num.lt_nan hv).1, (Num.lt_nan hv).2]

/-! ### The first keys of a list -/

/-- A list of keys in their order. -/
def rankAll (t : Ty) (bias : Int) (xs : List (Nat × Nat)) (l : List (Nat × Nat)) : List (Nat × Nat) := xs.foldl (fun l x => rankInsert t bias x l) l

section
variable {t : Ty} {bias : Int}

/-- Only the first keys of a list decide on the first ones after a key has been put in. -/
theorem take_rankInsert_take (x : Nat × Nat) (k : Nat) (l : List (Nat × Nat)) :
    (rankInsert t bias x (l.take k)).take k = (rankInsert t bias x l).take k := by
  induction l generalizing k with
  | nil => rw [List.take_nil]
  | cons y r ih =>
    cases k with
    | zero => rfl
    | succ k =>
      rw [List.take_succ_cons]
      unfold rankInsert
      split
      · rw [List.take_succ_cons, List.take_succ_cons]
        cases k with
        | zero => rfl
        | succ k => rw [List.take_succ_cons, List.take_succ_cons, List.take_take, Nat.min_eq_left (Nat.le_succ k)]
      · rw [List.take_succ_cons, List.take_succ_cons, ih]

theorem topK_take (k : Nat) (xs : List (Nat × Nat)) : topK t bias k xs = (rankAll t bias xs []).take k := by
  have hfold : ∀ (l : List (Nat × Nat)), xs.foldl (fun l x => (rankInsert t bias x l).take k) (l.take k) = (rankAll t bias xs l).take k := by
    induction xs with
    | nil => exact fun l => rfl
    | cons x r ih =>
      intro l
      rw [List.foldl_cons, take_rankInsert_take, ih]
      rfl
  have := hfold []
  rwa [List.take_nil] at this

theorem rankInsert_perm (x : Nat × Nat) (l : List (Nat × Nat)) : (rankInsert t bias x l).Perm (x :: l) := by
  induction l with
  | nil => exact .refl _
  | cons y r ih =>
    unfold rankInsert
    split
    · exact .refl _
    · exact (List.Perm.cons y ih).trans (List.Perm.swap x y r)

theorem rankAll_perm (xs l : List (Nat × Nat)) : (rankAll t bias xs l).Perm (xs ++ l) := by
  induction xs generalizing l with
  | nil => exact .refl _
  | cons x r ih => exact ((ih _).trans ((rankInsert_perm x l).append_left r)).trans List.perm_middle

/-- A list of keys in their order, equal ones as they come. -/
def Ranked (t : Ty) (bias : Int) (l : List (Nat × Nat)) : Prop := l.Pairwise fun x y => keyPlace t bias x ≤ keyPlace t bias y

theorem rankInsert_ranked (x : Nat × Nat) {l : List (Nat × Nat)} (h : Ranked t bias l) : Ranked t bias (rankInsert t bias x l) := by
  induction l with
  | nil => exact List.pairwise_singleton _ _
  | cons y r ih =>
    obtain ⟨hy, hr⟩ := List.pairwise_cons.mp h
    unfold rankInsert
    split
    · next hbefore =>
      have hxy := ((ranksBefore_iff t bias x y).mp hbefore).le
      refine List.pairwise_cons.mpr ⟨fun z hz => ?_, h⟩
      rcases List.mem_cons.mp hz with rfl | hz
      · exact hxy
      · exact hxy.trans (hy z hz)
    · next hnot =>
      have hyx := not_lt.mp (mt (ranksBefore_iff t bias x y).mpr hnot)
      refine List.pairwise_cons.mpr ⟨fun z hz => ?_, ih hr⟩
      rcases List.mem_cons.mp ((rankInsert_perm x r).mem_iff.mp hz) with rfl | hz
      · exact hyx
      · exact hy z hz

theorem rankAll_ranked (xs : List (Nat × Nat)) {l : List (Nat × Nat)} (h : Ranked t bias l) : Ranked t bias (rankAll t bias xs l) := by
  induction xs generalizing l with
  | nil => exact h
  | cons x r ih => exact ih (rankInsert_ranked x h)

/-- The first `k` keys of a list, and the others behind them. -/
theorem topK_gives (k : Nat) (xs : List (Nat × Nat)) : ∃ rest, (topK t bias k xs ++ rest).Perm xs ∧ (topK t bias k xs).length = min k xs.length ∧
    (topK t bias k xs).Pairwise (fun x y => ¬ keyPlace t bias y < keyPlace t bias x) ∧
    ∀ x ∈ topK t bias k xs, ∀ y ∈ rest, ¬ keyPlace t bias y < keyPlace t bias x := by
  have hperm := rankAll_perm (t := t) (bias := bias) xs []
  have hranked := rankAll_ranked (t := t) (bias := bias) xs (l := []) List.Pairwise.nil
  rw [List.append_nil] at hperm
  unfold Ranked at hranked
  rw [← List.take_append_drop k (rankAll t bias xs []), List.pairwise_append] at hranked
  obtain ⟨hfirst, -, hbetween⟩ := hranked
  rw [topK_take]
  refine ⟨(rankAll t bias xs []).drop k, ?_, ?_, hfirst.imp fun h => not_lt.mpr h, fun x hx y hy => not_lt.mpr (hbetween x hx y hy)⟩
  · rw [List.take_append_drop]
    exact hperm
  · rw [List.length_take, hperm.length_eq]

end

section Topk
variable {s : State} {e : TileEntry} {n u : Nat} {a b c : Rec} (h : OneUnit s e n u a b c)

/-- The keys of slice `u`, with their global indices. -/
def Core.sliceKeys (k : Core) (a : Rec) (u : Nat) : List (Nat × Nat) :=
  (List.range (shCount a (shDims a).dropLast)).map fun x =>
    (k.elemBits a (unlinear a (shDims a).dropLast x ++ [u]), globalIndex a (unlinear a (shDims a).dropLast x ++ [u]))

/-- The entry with the first keys of its slice. -/
def TileEntry.ranks (e : TileEntry) (ks : List (Nat × Nat)) : TileEntry := { e with done := 1, keys := ks }

include h

theorem runLeaf_topk (hopc : tiOpc e.rec_ = 4) (ha : shLocal a = true) (hkeys : e.keys = []) :
    s.runLeaf e = .done s (e.ranks (topK (shTy a) (shBias a) (bitsOf (tiP0 e.rec_) 0 32) ((s.core n).sliceKeys a u))) := by
  obtain ⟨hsa, -, -⟩ := unit_shapes h
  have hslice : s.sliceKeys e u = .ok s ((s.core n).sliceKeys a u) := by
    unfold State.sliceKeys
    dsimp only
    rw [hsa]
    exact readEach_values _ fun x _ => by
      rw [unit_read h ha]
      rfl
  have hu : e.first + e.done = u := by rw [h.done, h.first, Nat.add_zero]
  unfold State.runLeaf
  rw [h.writes, h.units, h.done]
  show s.runUnits e 1 = _
  unfold State.runUnits
  dsimp only
  rw [if_pos hopc, hu, hslice, hsa]
  dsimp only
  unfold State.runUnits TileEntry.ranks
  rw [h.done, hkeys, List.nil_append]

/-- What a ranked record writes for its `i`th place. -/
def rankedPut (b c : Rec) (ks : List (Nat × Nat)) (m : SMap Byte) (i : Nat) : SMap Byte :=
  Machine.putBytes (Machine.putBytes m (shAddr b [i]) (toBytes (t6Clean (shTy b) ((ks[i]?.map (·.1)).getD 0)) (shSize b)))
    (shAddr c [i]) (toBytes ((ks[i]?.map (·.2)).getD (2 ^ 64 - 1)) 8)

omit h in
theorem padAfter_ranked (y : TileEntry) (m : SMap Byte) : padAfter m ((rankedWrites y).map (·.2)) =
    (List.range (bitsOf (tiP0 y.rec_) 0 32)).foldl (rankedPut (y.shapes.getD 1 0) (y.shapes.getD 2 0) y.keys) m := by
  unfold rankedWrites padAfter
  rw [List.map_flatMap, List.foldl_flatMap]
  rfl

theorem topk_settled (hopc : tiOpc e.rec_ = 4) (ha : shLocal a = true) (hb : shLocal b = true) (hkeys : e.keys = []) (hranked : e.ranked = false)
    (hcblk : tiCblk e.rec_ = 0) (hev : tiEv e.rec_ = false) :
    ∃ t, exec (.tileComplete e.id) s = .next t ∧ t.res = .issued ∧ t.mem = s.mem ∧ t.tiles = [] ∧ (t.core n).tq = [] ∧
      (t.core n).scratch = ((List.range (bitsOf (tiP0 e.rec_) 0 32)).foldl
        (rankedPut b c (topK (shTy a) (shBias a) (bitsOf (tiP0 e.rec_) 0 32) ((s.core n).sliceKeys a u))) (s.core n).scratch).filter
          fun p => decide (p.1 < 0x140000) := by
  have hexec := tileComplete_runs h (by rw [hopc]; decide)
  rw [runLeaf_topk h hopc ha hkeys] at hexec
  generalize topK (shTy a) (shBias a) (bitsOf (tiP0 e.rec_) 0 32) ((s.core n).sliceKeys a u) = ks at hexec ⊢
  obtain ⟨hsa, hsb, hsc⟩ := unit_shapes h
  let y : TileEntry := { e.ranks ks with rep := (e.ranks ks).located s (e.ranks ks).rep }
  have hcode : y.rep.code = 0 := by
    show ((e.ranks ks).located s e.rep).code = 0
    rw [h.rep]
    rfl
  have hlocal : ∀ w ∈ rankedWrites y, shLocal (({ y with ranked := true } : TileEntry).shapes.getD w.1 0) = true := by
    intro w hw
    obtain ⟨i, -, hw⟩ := List.mem_flatMap.mp hw
    rcases List.mem_cons.mp hw with rfl | hw
    · exact (congrArg shLocal hsb).trans hb
    · rw [List.mem_singleton.mp hw]
      exact (congrArg shLocal hsc).trans h.out
  obtain ⟨v, z, hflush, hends, hput⟩ : ∃ v z, s.flushTile { y with ranked := true } (rankedWrites y) = .done v z ∧ e.Ends z ∧
      s.PadPut v n (padAfter (s.core n).scratch ((rankedWrites y).map (·.2))) := by
    obtain ⟨v, hflush, hput⟩ := flushTile_local (rankedWrites y) s { y with ranked := true } h.core h.clean hlocal
    exact ⟨v, _, hflush, ⟨rfl, rfl, rfl, h.parent, hcode, h.failed⟩, hput⟩
  have hwrite : s.writeRanked y = s.flushTile { y with ranked := true } (rankedWrites y) := by
    have hopc' : tiOpc y.rec_ = 4 := hopc
    have hfailed : y.failed = false := h.failed
    have hparent : y.parent = none := h.parent
    have hranked' : y.ranked = false := hranked
    unfold State.writeRanked
    rw [if_neg (by simp [hopc', hfailed, hparent]), hranked', if_neg (by simp), if_neg Bool.false_ne_true]
  rw [afterRun_done s (hwrite.trans hflush)] at hexec
  obtain ⟨hmem, htiles, htq, hscratch⟩ := endTile_leaves h hput hends hcblk hev
  refine ⟨_, hexec, rfl, hmem, htiles, htq, hscratch.trans (congrArg (List.filter _) ?_)⟩
  rw [padAfter_ranked]
  show List.foldl (rankedPut (e.shapes.getD 1 0) (e.shapes.getD 2 0) ks) _ _ = _
  rw [hsb, hsc]
  rfl

end Topk

/-- Settles O47: the elements of a unit are read before any is written; what each operation makes of them is its equation above, and the ranked keys are
the first of the keys in the order of R261. -/
theorem tileElements : Obligations.TileElements := by
  unfold Obligations.TileElements
  intro s e n u a b c htiles hlevel hparent hqueue hcore hchecked hfailed hlaunch hpaused hdone hwrites hfirst hunits hrep hshapes hout hn op k hclean htq
    hsettled hanswered read rounding leaves gives row p0 rank
  have h : OneUnit s e n u a b c :=
    ⟨htiles, hlevel, hparent, hcore, hchecked, hfailed, hlaunch, hpaused, hdone, hwrites, hfirst, hunits, hrep, hshapes, hout, hclean, htq, hsettled,
      hanswered⟩
  have hgives : ∀ (srcs : List Rec) (oor : Bool) (xs : List (List Nat × Val)), tiOpc e.rec_ ≠ 4 → tiOpc e.rec_ ≠ 12 →
      ((∀ x ∈ srcs, shLocal x = true) → s.unitOut e u = .ok s (outOf c xs oor)) → gives srcs oor xs :=
    fun srcs oor xs h4 h12 hunit hlocal => unit_settled h h4 h12 (hunit hlocal)
  refine ⟨fun hopc => ?_, fun hopc hop => ?_, fun hopc => ?_, fun hopc ha hb hkeys hranked => ?_, fun hopc => ?_, fun hopc => ?_, fun hopc => ?_,
    fun hopc => ?_, fun hopc => ?_⟩
  · refine hgives _ _ _ (by rw [hopc]; decide) (by rw [hopc]; decide) fun hlocal => ?_
    rw [unitOut_matmul h hopc (hlocal a (by simp)) (hlocal b (by simp))]
    simp only [tileElem_chunks]
    rfl
  · exact hgives _ _ _ (by rw [hopc]; decide) (by rw [hopc]; decide) fun hlocal => unitOut_ewise h hopc hlocal
  · exact hgives _ _ _ (by rw [hopc]; decide) (by rw [hopc]; decide) fun hlocal => unitOut_reduce h hopc (hlocal a (by simp))
  · obtain ⟨rest, hperm, hlen, hsorted, hfirstKeys⟩ := topK_gives (t := shTy a) (bias := shBias a) (bitsOf (tiP0 e.rec_) 0 32) ((s.core n).sliceKeys a u)
    refine ⟨_, rest, hperm, hlen, hsorted.imp fun hxy => mt (keyPlace_lt ..).mpr hxy, fun x hx y hy => mt (keyPlace_lt ..).mpr (hfirstKeys x hx y hy), ?_⟩
    exact fun hcblk hev => topk_settled h hopc ha hb hkeys hranked hcblk hev
  · exact hgives _ _ _ (by rw [hopc]; decide) (by rw [hopc]; decide) fun hlocal => unitOut_copy h hopc (hlocal a (by simp))
  · intro dims at_ here
    exact hgives _ _ _ (by rw [hopc]; decide) (by rw [hopc]; decide) fun hlocal => unitOut_gather h hopc (hlocal a (by simp)) (hlocal b (by simp))
  · exact hgives _ _ _ (by rw [hopc]; decide) (by rw [hopc]; decide) fun hlocal => unitOut_cast h hopc (hlocal a (by simp))
  · intro perm hlt hinj src hsrc
    exact hgives _ _ _ (by rw [hopc]; decide) (by rw [hopc]; decide) fun hlocal => unitOut_trans h hopc (hlocal a (by simp)) hlt hinj hsrc
  · exact hgives _ _ _ (by rw [hopc]; decide) (by rw [hopc]; decide) fun _ => unitOut_fill h hopc

end Sys2Proof.Machine

/-! LEMMAS and PROOF of O48: tile records complete; barriers; records of the pod level (09 R248 R252 R255 R270 R440). -/

namespace Sys2Proof.Machine

open Host (Outcome)

/-! ### What a store leaves of a die -/

/-- A part of a die that no store changes is as it was after one. -/
theorem noteStore_part {α : Type} (f : Die → α) (hf : ∀ x l, f (Die.noteLine x l) = f x) (s : State) (pa n d : Nat) :
    f ((s.noteStore pa n).die d) = f (s.die d) := by
  have hlines : ∀ (l : List Nat) (x : Die), f (l.foldl Die.noteLine x) = f x := by
    intro l
    induction l with
    | nil => exact fun x => rfl
    | cons line r ih => exact fun x => (ih _).trans (hf x line)
  unfold State.noteStore
  generalize List.range 4 = ds
  induction ds generalizing s with
  | nil => rfl
  | cons k r ih =>
    rw [List.foldl_cons, ih]
    split
    · rw [State.modDie, setDie_die]
      split
      · next h => rw [hlines, h]
      · rfl
    · rfl

theorem physWrite_part {α : Type} (f : Die → α) (hf : ∀ x l, f (Die.noteLine x l) = f x) (s : State) (pa : Nat) (bs : List Byte) (d : Nat) :
    f ((s.physWrite pa bs).die d) = f (s.die d) := by
  rw [physWrite_die, noteStore_part f hf, State.die, mendAt_dies, putBytes_dies, State.die]

/-- Part of what a store in HBM has put there. -/
theorem physBytes_within {s : State} {pa : Nat} {bs : List Byte} (h : pa + bs.length ≤ 0x8000000000) {k n : Nat} (hk : k + n ≤ bs.length) :
    (s.physWrite pa bs).physBytes (pa + k) n = (bs.drop k).take n := by
  rw [physBytes_hbm _ _ _ (by omega), physWrite_hbm_mem s pa bs h, bytesAt_putBytes_within _ _ _ hk]

/-! ### A record ends (09 R252 R255) -/

section End
variable {s : State} {e : TileEntry} (htiles : s.tiles = [e])
include htiles

theorem tile_only : s.tile e.id = some e := by
  unfold State.tile
  rw [htiles]
  exact List.find?_cons_of_pos (beq_self_eq_true _)

/-- The only entry leaves its level. -/
theorem dropTile_only (hparent : e.parent = none) (hcore : e.core = none) : s.dropTile e = { s with tiles := [] } := by
  unfold State.dropTile
  rw [hparent, hcore, htiles, List.filter_cons_of_neg (by simp)]
  rfl

/-- A record without a completion block and without a fault has nothing to report. -/
theorem endTile_quiet (hparent : e.parent = none) (hcore : e.core = none) (hcblk : tiCblk e.rec_ = 0) (hev : tiEv e.rec_ = false)
    (hcode : e.rep.code = 0) : s.endTile e = { s with tiles := [] } := by
  rw [← dropTile_only htiles hparent hcore]
  unfold State.endTile
  rw [hparent, if_neg (by decide)]
  unfold State.reportTo
  dsimp only
  rw [hcblk, hev, hcode]
  rfl

/-- A fault of what a control core has pushed is told by a record alone. -/
theorem endTile_control (hparent : e.parent = none) (hcore : e.core = none) (hcblk : tiCblk e.rec_ = 0) {d : Nat} (hby : e.origin.by_ = .control d)
    (hroams : e.origin.roams = false) (hcode : e.rep.code ≠ 0) (hroom : s.canPost e.origin.die = true) :
    ∃ r : EvRec, s.endTile e = ({ s with tiles := [] } : State).post e.origin.die r ∧ r.kind = 3 ∧ r.code = e.rep.code ∧ r.tag = tiTag e.rec_ ∧
      r.agent = 96 + d := by
  have hdie : s.recordDie e.origin = e.origin.die := if_neg (by rw [hroams]; decide)
  have htag : e.origin.tagFor (tiTag e.rec_) = tiTag e.rec_ := by
    unfold Origin.tagFor
    rw [hby]
  let r : EvRec := s.tileRecord e.origin (tiTag e.rec_) 0 e.rep.code e.rep
  have hmade : s.endTile e = (s.post e.origin.die r).dropTile e := by
    unfold State.endTile
    rw [hparent, if_neg (by decide)]
    unfold State.reportTo
    dsimp only
    rw [hdie, hroom, hcblk, Bool.not_true, Bool.and_false, if_neg Bool.false_ne_true, if_pos rfl]
    unfold State.notifyTile
    dsimp only
    rw [if_neg hcode, hby, hdie]
  refine ⟨r, ?_, rfl, rfl, htag, congrArg agentNo hby⟩
  rw [hmade, dropTile_only (s := s.post e.origin.die r) htiles hparent hcore]
  rfl

end End

/-! ### A barrier (09 R270) -/

section Barrier
variable {s : State} {e : TileEntry} {bar : BarrierInst} (htiles : s.tiles = [e]) (hbar : s.barriers = [bar]) (hmem : bar.members = [e.id])
include htiles hbar hmem

omit hbar in
theorem barrierReady_one (hlaunches : s.launches = []) (hscope : bar.scope ≠ .pq) :
    s.barrierReady bar = (1 == bar.count) := by
  have hearlier : s.earlierDone bar e = true := by
    unfold State.earlierDone
    rw [htiles, hlaunches]
    simp
  have hpq : (bar.scope != .pq) = true := by simpa using hscope
  unfold State.barrierReady
  rw [hmem, List.all_cons, tile_only htiles]
  simp [hearlier, hpq]

theorem closeBarrier_one (hparent : e.parent = none) (hcore : e.core = none) (hrep : e.rep = {}) (hcblk : tiCblk e.rec_ = 0)
    (hev : tiEv e.rec_ = false) : s.closeBarrier bar = { s with barriers := [], tiles := [] } := by
  let y : TileEntry := { e with done := 1, rep := e.located s e.rep }
  have hcode : y.rep.code = 0 := by
    show (e.located s e.rep).code = 0
    rw [hrep]
    rfl
  have hmap : s.tiles.map (fun e => if bar.members.contains e.id then { e with done := 1, rep := e.located s e.rep } else e) = [y] := by
    rw [htiles, hmem, List.map_cons, List.map_nil, if_pos (by simp)]
  have hfilter : s.barriers.filter (· != bar) = [] := by
    rw [hbar, List.filter_cons_of_neg (by simp)]
    rfl
  unfold State.closeBarrier
  dsimp only
  rw [hmap, hfilter, hmem, List.foldl_cons, List.foldl_nil]
  have htile : ({ s with barriers := [], tiles := [y] } : State).tile e.id = some y := tile_only (e := y) rfl
  have hend : ({ s with barriers := [], tiles := [y] } : State).endTile y = { s with barriers := [], tiles := [] } :=
    endTile_quiet (e := y) rfl hparent hcore hcblk hev hcode
  rw [htile]
  dsimp only
  rw [hend]
  rfl

end Barrier

/-! ### A record of the pod level (09 R248) -/

section Pod
variable {s : State} {origin ctx : Nat} {stamp : Word} {r : Rec}

/-- The entry that a level-4 record takes. -/
def podEntry (origin ctx : Nat) (stamp : Word) (r : Rec) : List Byte :=
  recBytes r ++ toBytes origin 8 ++ toBytes ctx 8 ++ toBytes stamp.toNat 8 ++ toBytes 0 40

theorem podEntry_length : (podEntry origin ctx stamp r).length = 128 := by simp [podEntry, recBytes]

theorem podEntry_parts : (podEntry origin ctx stamp r).take 64 = recBytes r ∧ ((podEntry origin ctx stamp r).drop 64).take 8 = toBytes origin 8 ∧
    ((podEntry origin ctx stamp r).drop 72).take 8 = toBytes ctx 8 ∧ ((podEntry origin ctx stamp r).drop 80).take 8 = toBytes stamp.toNat 8 := by
  have hrec : (recBytes r).length = 64 := toBytes_length ..
  have hword : ∀ x, (toBytes x 8).length = 8 := fun x => toBytes_length x 8
  unfold podEntry
  generalize recBytes r = a at *
  generalize hb : toBytes origin 8 = b
  generalize hc : toBytes ctx 8 = c
  generalize hd : toBytes stamp.toNat 8 = d
  have lb : b.length = 8 := hb ▸ hword _
  have lc : c.length = 8 := hc ▸ hword _
  have ld : d.length = 8 := hd ▸ hword _
  refine ⟨?_, ?_, ?_, ?_⟩ <;> simp [List.drop_append, hrec, lb, lc, ld, List.drop_eq_nil_of_le]

/-- The ring's tail after a record. -/
def State.podTailTo (u : State) (i : BitVec 32) : State := { u with mg := { u.mg with podtail := i } }

theorem post_tail (u : State) (d : Nat) (x : EvRec) : (State.issues (u.post d x)).mg.podtail = u.mg.podtail := rfl

theorem post_evWait (u : State) (d : Nat) (x : EvRec) : ((State.issues (u.post d x)).die d).evWait = (u.die d).evWait ++ [x] :=
  congrArg Die.evWait (modDie_die_same u d fun k => { k with evWait := k.evWait ++ [x] })

/-- When the lead chip may put no record. -/
theorem podShut_iff (led : Bool) (x y n m : Nat) : (!led || decide (x ≠ y) || decide (n ≤ m)) = true ↔ led = false ∨ x ≠ y ∨ n ≤ m := by
  simp [or_assoc]

theorem exec_podRecordDelivery (hhalt : s.dbgHalt = false) (hled : s.mg.podlead.getLsbD 63 = true) (hself : bitsOf s.mg.podlead 48 11 = s.self)
    (hroom : (s.mg.podtail - s.mg.podhead).toNat < 2 ^ bitsOf s.mg.podlead 40 4) {a : Nat}
    (ha : bitsOf s.mg.podlead 7 33 * 128 + 128 * (s.mg.podtail.toNat % 2 ^ bitsOf s.mg.podlead 40 4) = a)
    (hheld : s.homeHeld (unitIssuer 0) a 128 = false) :
    exec (.podRecordDelivery origin ctx stamp r) s = .next (State.issues
      (((s.physWrite a (podEntry origin ctx stamp r)).podTailTo (s.mg.podtail + 1)).post 0
        { kind := 0x11, w2 := s.mg.podtail.setWidth 64, w3 := BitVec.ofNat 64 origin })) := by
  show execPodRecordDelivery origin ctx stamp r s = _
  unfold execPodRecordDelivery State.podDeliver
  dsimp only
  have hopen : ¬ (!s.mg.podlead.getLsbD 63 || decide (bitsOf s.mg.podlead 48 11 ≠ s.self) ||
      decide (2 ^ bitsOf s.mg.podlead 40 4 ≤ (s.mg.podtail - s.mg.podhead).toNat)) = true := by
    rw [podShut_iff, hled, hself, not_or, not_or, not_not]
    exact ⟨nofun, rfl, Nat.not_le.mpr hroom⟩
  rw [hhalt, if_neg Bool.false_ne_true, if_neg hopen, ha, hheld]
  rfl

theorem podRecordDelivery_stays (h : s.dbgHalt = true ∨ s.mg.podlead.getLsbD 63 = false ∨ bitsOf s.mg.podlead 48 11 ≠ s.self ∨
    2 ^ bitsOf s.mg.podlead 40 4 ≤ (s.mg.podtail - s.mg.podhead).toNat) : exec (.podRecordDelivery origin ctx stamp r) s = .next s.issues := by
  show execPodRecordDelivery origin ctx stamp r s = _
  unfold execPodRecordDelivery
  rcases h with h | h
  · rw [h]
    rfl
  · have hnone : s.podDeliver origin ctx stamp r = none :=
      if_pos ((podShut_iff _ _ _ _ _).mpr h)
    rw [hnone]
    split <;> rfl

/-- The record stands in its ring entry, and die 0's ring is told. -/
theorem podRecordDelivery_gives {t : State} {a : Nat} (hend : a + 128 ≤ 0x8000000000) {i : BitVec 32}
    (ht : t = State.issues (((s.physWrite a (podEntry origin ctx stamp r)).podTailTo (i + 1)).post 0
        { kind := 0x11, w2 := i.setWidth 64, w3 := BitVec.ofNat 64 origin })) :
    t.res = .issued ∧ t.mg.podtail = i + 1 ∧ t.physBytes a 64 = recBytes r ∧ t.physWord (a + 64) 8 = origin % 2 ^ 64 ∧
      t.physWord (a + 72) 8 = ctx % 2 ^ 64 ∧ t.physWord (a + 80) 8 = stamp.toNat ∧ (∀ j, (j < a ∨ a + 128 ≤ j) → t.byteAt j = s.byteAt j) ∧
      ∃ x, (t.die 0).evWait = (s.die 0).evWait ++ [x] ∧ x.kind = 0x11 ∧ x.w2 = i.setWidth 64 := by
  have hlen := podEntry_length (origin := origin) (ctx := ctx) (stamp := stamp) (r := r)
  obtain ⟨hrec, horigin, hctx, hstamp⟩ := podEntry_parts (origin := origin) (ctx := ctx) (stamp := stamp) (r := r)
  generalize podEntry origin ctx stamp r = bs at *
  have hwithin : ∀ k n, k + n ≤ 128 → (s.physWrite a bs).physBytes (a + k) n = (bs.drop k).take n := fun k n hk =>
    physBytes_within (by rw [hlen]; exact hend) (by rw [hlen]; exact hk)
  have hout := physWrite_byteAt_out s a bs
  have hwait := physWrite_part Die.evWait (fun _ _ => rfl) s a bs 0
  rw [hlen] at hout
  generalize s.physWrite a bs = u at *
  have hmem : t.mem = u.mem := by rw [ht]; rfl
  have hbytes : ∀ k n, k + n ≤ 128 → t.physBytes (a + k) n = (bs.drop k).take n := fun k n hk => by
    rw [← hwithin k n hk, physBytes_hbm _ _ _ (by omega), physBytes_hbm _ _ _ (by omega), hmem]
  have hword : ∀ k x, k + 8 ≤ 128 → (bs.drop k).take 8 = toBytes x 8 → t.physWord (a + k) 8 = x % 2 ^ 64 := fun k x hk hx => by
    rw [State.physWord, hbytes k 8 hk, hx, ofBytes_toBytes, show (256 : Nat) ^ 8 = 2 ^ 64 from rfl]
  have htail : t.mg.podtail = i + 1 := by
    rw [ht, post_tail]
    rfl
  refine ⟨by rw [ht]; rfl, htail, (hbytes 0 64 (by decide)).trans hrec, hword 64 _ (by decide) horigin, hword 72 _ (by decide) hctx,
    (hword 80 _ (by decide) hstamp).trans (Nat.mod_eq_of_lt stamp.isLt), fun j hj => ?_, { kind := 0x11, w2 := i.setWidth 64, w3 := BitVec.ofNat 64 origin },
    ?_, rfl, rfl⟩
  · rw [← hout j hj, State.byteAt, hmem, State.byteAt]
  · rw [← hwait, ht, post_evWait]
    rfl

end Pod

/-- Settles O48: a record that ends reports first, and what has nothing to report only leaves; the pod's ring entry is one store in HBM. -/
theorem tileCompletions : Obligations.TileCompletions := by
  unfold Obligations.TileCompletions
  constructor
  · intro s e htiles hparent hcore hpage result o
    refine ⟨fun hpaused => ?_, fun d hfailed hcblk hby hroams hcode hroom hpaused => ?_,
      fun bar hbar hmembers harrived hscope hlaunches hfailed hrep hopc hcblk hev hqueue => ?_⟩
    · show execTileComplete e.id s = _
      unfold execTileComplete
      rw [hpaused]
      rfl
    · obtain ⟨x, hends, hkind, hxcode, htag, hagent⟩ := endTile_control htiles hparent hcore hcblk hby hroams hcode hroom
      have hexec : exec (.tileComplete e.id) s = .next (State.issues (s.endTile e)) := by
        have hfound : (if s.paused then none else (s.tile e.id).filter fun e => !s.unanswered (dieOf e.issuer.agent) e.page) = some e := by
          rw [hpaused, if_neg Bool.false_ne_true, tile_only htiles, Option.filter_some, hpage]
          rfl
        show execTileComplete e.id s = _
        unfold execTileComplete
        rw [hfound]
        dsimp only
        rw [hfailed]
        rfl
      rw [hends] at hexec
      exact ⟨_, hexec, rfl, rfl, rfl, x, post_evWait _ _ _, hkind, hxcode, htag, hagent⟩
    · have hexec : exec (.tbarrierComplete e.id) s = .next (State.issues (if (1 == bar.count) = true then s.closeBarrier bar else s)) := by
        have hfind : (s.barriers.find? fun b => b.members.contains e.id) = some bar := by
          rw [hbar]
          exact List.find?_cons_of_pos (by simp [hmembers])
        have hpq : (bar.scope == .pq) = false := by simpa using hscope
        show execTbarrierComplete e.id s = _
        unfold execTbarrierComplete
        rw [hfind]
        dsimp only
        rw [barrierReady_one htiles hmembers hlaunches hscope, harrived, hpq]
        cases h1 : (1 == bar.count) <;> rfl
      refine ⟨fun hone => ?_, fun hmore => ?_⟩
      · rw [if_pos (by simp [hone]), closeBarrier_one htiles hbar hmembers hparent hcore hrep hcblk hev] at hexec
        exact ⟨_, hexec, rfl, rfl, rfl, rfl⟩
      · rw [hexec, if_neg (by simp; omega)]
  · intro s origin ctx stamp r w n i a
    refine ⟨fun hhalt hled hself hroom hend hheld => ?_, podRecordDelivery_stays⟩
    have hexec := exec_podRecordDelivery (origin := origin) (ctx := ctx) (stamp := stamp) (r := r) hhalt hled hself hroom rfl hheld
    exact ⟨_, hexec, podRecordDelivery_gives hend rfl⟩

end Sys2Proof.Machine

/-! LEMMAS and PROOF of O49: what becomes of waiting work (01 R15 R31, 03 R61 R63 R83, 05 R116 R120 R135, 07 R173 R174 R176 R181 R187). -/

namespace Sys2Proof.Machine

open Host (Outcome)

/-! ### The end of a position (03 R61 R63, 05 R116 R122) -/

section Position
variable {a : Agent} {stall : Nat}

/-- Outside delay positions and loops the end of a position leaves the agent where it goes on. -/
theorem endPosition_plain (hdelay : a.delay = none) (hloops : a.loops = []) :
    (a.endPosition false stall).empties = a.empties ∧ (a.endPosition false stall).pc = a.pc ∧ (a.endPosition false stall).regs = a.regs ∧
      (a.endPosition false stall).earliest = a.issued + 1 + stall ∧ (a.endPosition false stall).delay = none ∧
      (a.endPosition false stall).brk = a.brk := by
  unfold Agent.endPosition
  dsimp only
  split
  · exact ⟨rfl, rfl, rfl, rfl, hdelay, rfl⟩
  · split
    · exact ⟨rfl, rfl, rfl, rfl, hdelay, rfl⟩
    · unfold Agent.closeBody
      rw [hloops]
      exact ⟨rfl, rfl, rfl, rfl, hdelay, rfl⟩

/-- The last delay position: the transfer takes place. -/
theorem endPosition_last {d : Delay} (hdelay : a.delay = some d) (hd : d.left ≤ 1) :
    (a.endPosition true stall).regs = a.regs ∧ (a.endPosition true stall).earliest = a.issued + 1 + stall ∧
      (a.endPosition true stall).delay = none ∧ (a.endPosition true stall).pc = d.target ∧ (a.endPosition true stall).empties = 0 ∧
      (a.endPosition true stall).lines = a.lines.filter (!a.stale.contains ·.1) ∧ (a.endPosition true stall).brk = a.brk := by
  unfold Agent.endPosition
  dsimp only
  rw [hdelay]
  dsimp only
  rw [if_pos hd]
  exact ⟨rfl, rfl, rfl, rfl, rfl, rfl, rfl⟩

/-- An earlier one is counted. -/
theorem endPosition_counts {d : Delay} (hdelay : a.delay = some d) (hd : 1 < d.left) :
    (a.endPosition true stall).regs = a.regs ∧ (a.endPosition true stall).earliest = a.issued + 1 + stall ∧
      (a.endPosition true stall).delay = some { d with left := d.left - 1 } ∧ (a.endPosition true stall).pc = a.pc ∧
      (a.endPosition true stall).brk = a.brk := by
  unfold Agent.endPosition
  dsimp only
  rw [hdelay]
  dsimp only
  rw [if_neg (Nat.not_le.mpr hd)]
  exact ⟨rfl, rfl, rfl, rfl, rfl⟩

end Position

/-- The agent at the end of an empty position. -/
def Agent.passEmpty (a : Agent) : Agent := { a with empties := a.empties - 1 }.endPosition a.delay.isSome 0

theorem exec_emptyPosition {s : State} (hbrk : s.me.passEmpty.brk = none) :
    exec .emptyPosition s = .next (State.issues (s.setMe s.me.passEmpty)) := by
  have hquiet : (s.setMe s.me.passEmpty).postBreak = s.setMe s.me.passEmpty := by
    unfold State.postBreak
    rw [setMe_me, hbrk]
  exact congrArg (fun t => Outcome.next (State.issues t)) hquiet

theorem setAgent_agent_same (s : State) (n : Nat) (a : Agent) : (s.setAgent n a).agent n = a := (setAgent_agent ..).trans (if_pos rfl)

/-! ### Results and faults (01 R15 R31, 03 R83) -/

theorem land_mem (s : State) (n : Nat) (p : Producer) (c : Nat) : (s.land n p c).mem = s.mem := raiseFlags_mem ..

theorem raiseFlags_agent (s : State) (n : Nat) (f : Flags) (c m : Nat) : (s.raiseFlags n f c).agent m = s.agent m := by
  unfold State.raiseFlags
  split <;> rfl

theorem land_agent {s : State} {n : Nat} {a : Agent} (ha : s.agent n = a) (p : Producer) (c : Nat) :
    (s.land n p c).agent n = { a with regs := a.regs.write p.reg p.val } := by
  rw [← ha]
  unfold State.land
  rw [raiseFlags_agent]
  exact (setAgent_agent ..).trans (if_pos rfl)

/-- A producer whose cycle has come, or has none, lands. -/
theorem exec_producerWriteback {s : State} {n i : Nat} {p : Producer} (hp : (s.agent n).flight[i]? = some p)
    (hdue : p.due.all (fun c => decide (c ≤ s.reached n)) = true) :
    exec (.producerWriteback n i) s = .next (State.issues
      ((s.setAgent n { s.agent n with flight := (s.agent n).flight.eraseIdx i }).land n p (p.due.getD (s.reached n)))) := by
  have hcome : ¬ s.reached n < p.due.getD (s.reached n) := by
    cases hd : p.due with
    | none => exact Nat.lt_irrefl _
    | some c =>
      rw [hd] at hdue
      exact Nat.not_lt.mpr (of_decide_eq_true hdue)
  show execProducerWriteback n i s = _
  unfold execProducerWriteback
  dsimp only
  rw [hp]
  dsimp only
  rw [if_neg hcome]
  rfl

theorem producerWriteback_waits {s : State} {n i c : Nat} {p : Producer} (hp : (s.agent n).flight[i]? = some p) (hc : p.due = some c)
    (hlate : s.reached n < c) : exec (.producerWriteback n i) s = .next s.issues := by
  show execProducerWriteback n i s = _
  unfold execProducerWriteback
  dsimp only
  rw [hp]
  dsimp only
  rw [hc, Option.getD_some, if_pos hlate]
  rfl

/-- With nothing in flight, landing leaves the agent but for the cycle to which it was busy. -/
theorem landAll_agent {s : State} {n : Nat} (hflight : (s.agent n).flight = []) :
    s.landAll n = s.setAgent n { s.agent n with busyTo := lastDue s.cycle [] (s.agent n).busyTo } := by
  unfold State.landAll
  dsimp only
  rw [hflight, List.foldl_nil]

theorem faultAt_tile {s : State} {n : Nat} (hflight : (s.agent n).flight = []) (hn : n < 96) (code : BitVec 8) (pc src addr : Word) :
    (s.faultAt n code pc src addr).mem = s.mem ∧ (s.faultAt n code pc src addr).agent n =
      { s.agent n with
        busyTo := lastDue s.cycle [] (s.agent n).busyTo, faultcode := code, faultpc := pc, faultsrc := src, faultaddr := addr
        run := .faulted, empties := 0, delay := none, xfer := none, tried := none, waitFrom := none } := by
  have hkind : kindOf n = .tile := if_pos hn
  unfold State.faultAt
  rw [landAll_agent hflight, hkind]
  dsimp only
  rw [setAgent_agent, if_pos rfl]
  exact ⟨rfl, setAgent_agent_same ..⟩

theorem faultAt_enters {s : State} {n : Nat} (hflight : (s.agent n).flight = []) (hn : 96 ≤ n) (hinh : (s.agent n).inh = false)
    (code : BitVec 8) (pc src addr : Word) :
    (s.faultAt n code pc src addr).mem = s.mem ∧ (s.faultAt n code pc src addr).agent n =
      ((({ s.agent n with busyTo := lastDue s.cycle [] (s.agent n).busyTo } : Agent).record code pc src addr).enter pc false code) := by
  have hrec : ∀ a : Agent, (a.record code pc src addr).inh = a.inh := fun _ => rfl
  unfold State.faultAt
  rw [landAll_agent hflight]
  dsimp only
  rw [setAgent_agent, if_pos rfl, hrec, hinh, if_neg Bool.false_ne_true]
  have hkind : kindOf n = .control ∨ kindOf n = .machine := by
    unfold kindOf
    rw [if_neg (by omega)]
    split
    · exact .inl rfl
    · exact .inr rfl
  rcases hkind with h | h <;> rw [h] <;> exact ⟨rfl, setAgent_agent_same ..⟩

/-- The agent without the folded empty positions that are left. -/
def Agent.unfolded (a : Agent) : Agent := if a.empties = 0 then a else { a.closeBody with empties := 0 }

theorem unfolded_keeps {a : Agent} (h : a.empties = 0 ∨ a.loops = []) :
    a.unfolded.pc = a.pc ∧ a.unfolded.regs = a.regs ∧ a.unfolded.flight = a.flight ∧ a.unfolded.inh = a.inh ∧
      a.unfolded.trapvec = a.trapvec ∧ a.unfolded.run = a.run := by
  unfold Agent.unfolded
  split
  · exact ⟨rfl, rfl, rfl, rfl, rfl, rfl⟩
  · next hempty =>
    unfold Agent.closeBody
    rw [h.resolve_left hempty]
    exact ⟨rfl, rfl, rfl, rfl, rfl, rfl⟩

theorem exec_deferredFault {s : State} {n : Nat} {f : Deferred} {r : List Deferred} (hdef : (s.agent n).deferred = f :: r)
    (hrun : (s.agent n).run = .running) (hdelay : (s.agent n).delay = none) :
    exec (.deferredFault n) s = .next (State.issues
      ((s.setAgent n { (s.agent n).unfolded with deferred := r }).faultAt n f.code (s.agent n).unfolded.pc f.src f.addr)) := by
  have hcan : s.canDefer n = true := by
    unfold State.canDefer
    dsimp only
    rw [hrun, hdelay, hdef]
    rfl
  show execDeferredFault n s = _
  unfold execDeferredFault
  dsimp only
  rw [hcan, hdef]
  dsimp only
  rw [hrun]
  rfl

/-! ### The side log and write-backs (07 R174 R176 R187) -/

theorem map_state {α β : Type} (r : Acc α) (f : α → β) : (r.map f).state = r.state := by cases r <;> rfl

/-- An attempt of one store that waits has changed no memory. -/
theorem performOp_wait_mem {s u : State} {i : Issuer} {h : BitVec 2} {es : List (Nat × List Byte)} {y : Option (Nat × Nat)}
    (hone : es.length = 1) (hwait : s.performOp i h (.store es) = .wait u y) : u.mem = s.mem := by
  obtain ⟨x, rfl⟩ := List.length_eq_one_iff.mp hone
  have hreach := looked_reach s i .write x.1 x.2.length
  unfold State.performOp at hwait
  dsimp only [readEach] at hwait
  cases hr : s.reach i .write x.1 x.2.length with
  | ok t p => rw [hr] at hwait; nomatch hwait
  | wait t p =>
    rw [hr] at hwait hreach
    cases hwait
    exact hreach.mem
  | fail t c p => rw [hr] at hwait; nomatch hwait

theorem sink_frame (s : State) (num kind n : Nat) : (s.sink num kind).mem = s.mem ∧ (s.sink num kind).core n = s.core n := ⟨rfl, rfl⟩

/-- The log of core `n` is lost with a deferred fault. -/
def State.losesLog (s : State) (n : Nat) (e : LogEntry) (code : BitVec 8) (a : Nat) : State :=
  (s.modCoreAt n fun k => { k with slog := [] }).modAgent n fun x =>
    { x with deferred := x.deferred ++ [{ code := code, src := e.bundle, addr := BitVec.ofNat 64 a }] }

theorem losesLog_gives (s : State) (n : Nat) (e : LogEntry) (code : BitVec 8) (a : Nat) :
    (s.losesLog n e code a).mem = s.mem ∧ ((s.losesLog n e code a).core n).slog = [] ∧ ((s.losesLog n e code a).agent n).deferred =
      (s.agent n).deferred ++ [{ code := code, src := e.bundle, addr := BitVec.ofNat 64 a }] :=
  ⟨rfl, congrArg Core.slog (modCoreAt_core_same s n fun k => { k with slog := [] }),
    congrArg Agent.deferred ((setAgent_agent ..).trans (if_pos rfl))⟩

/-- What remains of an attempt at the oldest entry `e` of the log of core `n`. -/
def State.replayed (s : State) (n : Nat) (e : LogEntry) (r : List LogEntry) (x : Acc (List Nat)) : State :=
  match x with
  | .ok t _ =>
    match (s.core n).task with
    | some k => (t.modCoreAt n fun k => { k with slog := r }).sink k.launch 1
    | none => t.modCoreAt n fun k => { k with slog := r }
  | .wait t _ => (s.back t e.what).modCoreAt n fun k => { k with slog := e :: r }
  | .fail t code a => ((s.undo t).recount t n).losesLog n e code a

section Replay
variable {s : State} {n : Nat} {e : LogEntry} {r : List LogEntry} (hlog : (s.core n).slog = e :: r) (hpaused : s.paused = false)
include hlog hpaused

theorem sideLogReplay_refused {a : Nat} (href : e.refused = some a) :
    exec (.sideLogReplay n) s = .next (State.issues (s.losesLog n e cStore a)) := by
  show execSideLogReplay n s = _
  unfold execSideLogReplay
  dsimp only
  rw [hpaused, if_neg Bool.false_ne_true, hlog]
  dsimp only
  rw [href]
  rfl

theorem sideLogReplay_waits (href : e.refused = none) (hwaits : s.entryWaits (dieOf n) e = true) :
    exec (.sideLogReplay n) s = .next s.issues := by
  show execSideLogReplay n s = _
  unfold execSideLogReplay
  dsimp only
  rw [hpaused, if_neg Bool.false_ne_true, hlog]
  dsimp only
  rw [href]
  dsimp only
  rw [hwaits]
  rfl

theorem sideLogReplay_tries (href : e.refused = none) (hwaits : s.entryWaits (dieOf n) e = false) {x : Acc (List Nat)}
    (hx : (s.modCoreAt n fun k => { k with slog := [] }).performOp (e.issuer n) e.hint e.what = x) :
    exec (.sideLogReplay n) s = .next (State.issues (s.replayed n e r x)) := by
  show execSideLogReplay n s = _
  unfold execSideLogReplay
  dsimp only
  rw [hpaused, if_neg Bool.false_ne_true, hlog]
  dsimp only
  rw [href]
  dsimp only
  rw [hwaits, if_neg Bool.false_ne_true, hx]
  cases x <;> rfl

end Replay

theorem replayed_ok (s t : State) (n : Nat) (e : LogEntry) (r : List LogEntry) (xs : List Nat) :
    (s.replayed n e r (.ok t xs)).mem = t.mem ∧ ((s.replayed n e r (.ok t xs)).core n).slog = r := by
  have hput := congrArg Core.slog (modCoreAt_core_same t n fun k => { k with slog := r })
  unfold State.replayed
  dsimp only
  split
  · exact ⟨rfl, hput⟩
  · exact ⟨rfl, hput⟩

theorem replayed_wait {s t : State} {n : Nat} {e : LogEntry} {r : List LogEntry} {es : List (Nat × List Byte)} (hwhat : e.what = .store es)
    {y : Option (Nat × Nat)}
    (hwait : (s.modCoreAt n fun k => { k with slog := [] }).performOp (e.issuer n) e.hint e.what = .wait t y) :
    (s.replayed n e r (.wait t y)).mem = s.mem ∧ ((s.replayed n e r (.wait t y)).core n).slog = e :: r := by
  refine ⟨?_, congrArg Core.slog (modCoreAt_core_same (s.back t e.what) n fun k => { k with slog := e :: r })⟩
  show (s.back t e.what).mem = s.mem
  unfold State.back
  rw [hwhat] at hwait ⊢
  split
  · next hone =>
    exact performOp_wait_mem (s := s.modCoreAt n fun k => { k with slog := [] }) (beq_iff_eq.mp hone) hwait
  · rfl

theorem recount_keeps (s t : State) (n : Nat) : (s.recount t n).mem = s.mem ∧ (s.recount t n).agents = s.agents := by
  unfold State.recount
  split <;> exact ⟨rfl, rfl⟩

theorem replayed_fail (s t : State) (n : Nat) (e : LogEntry) (r : List LogEntry) (code : BitVec 8) (a : Nat) :
    (s.replayed n e r (.fail t code a)).mem = s.mem ∧ ((s.replayed n e r (.fail t code a)).core n).slog = [] ∧
      ((s.replayed n e r (.fail t code a)).agent n).deferred =
        (s.agent n).deferred ++ [{ code := code, src := e.bundle, addr := BitVec.ofNat 64 a }] := by
  obtain ⟨hmem, hagents⟩ := recount_keeps (s.undo t) t n
  obtain ⟨h1, h2, h3⟩ := losesLog_gives ((s.undo t).recount t n) n e code a
  refine ⟨h1.trans hmem, h2, h3.trans ?_⟩
  rw [agent_of_agents hagents]
  rfl

/-! ### Write-backs (07 R187) -/

section Back
variable {s : State} {n : Nat} {w : WriteBack} {r : List WriteBack} (hwb : (s.core n).wb = w :: r) (hpaused : s.paused = false)
include hwb hpaused

theorem regionWriteback_waits (h : s.slogOf w.task ≠ [] ∨ s.olderBack w = true ∨ s.unanswered (dieOf n) w.page = true) :
    exec (.regionWriteback n) s = .next s.issues := by
  have hshut : ((s.slogOf w.task).isEmpty && !s.olderBack w && !s.unanswered (dieOf n) w.page) = false := by
    rcases h with h | h | h
    · rw [List.isEmpty_eq_false_iff.mpr h]
      rfl
    · rw [h, Bool.not_true, Bool.and_false, Bool.false_and]
    · rw [h, Bool.not_true, Bool.and_false]
  show execRegionWriteback n s = _
  unfold execRegionWriteback
  rw [hpaused, if_neg Bool.false_ne_true, hwb]
  dsimp only
  rw [hshut]
  rfl

theorem regionWriteback_runs (hlog : s.slogOf w.task = []) (hold : s.olderBack w = false) (hpage : s.unanswered (dieOf n) w.page = false) :
    exec (.regionWriteback n) s = .next (State.issues (s.writeBack n w r)) := by
  show execRegionWriteback n s = _
  unfold execRegionWriteback
  rw [hpaused, if_neg Bool.false_ne_true, hwb]
  dsimp only
  rw [hlog, hold, hpage]
  rfl

end Back

section Line
variable {s u : State} {n : Nat} {w : WriteBack} {r : List WriteBack} (hecc : w.ecc = none)
include hecc

theorem writeBack_line {y : Nat} {bs : List Byte} {rest : List (Nat × List Byte)} (hlines : w.lines = (y, bs) :: rest)
    (hwrite : s.writeMem (w.issuer n) y bs = .ok u ()) : (s.writeBack n w r).mem = u.mem ∧
      ((s.writeBack n w r).core n).wb = { w with lines := rest, done := w.done + 128, page := none } :: r := by
  have hput := congrArg Core.wb (modCoreAt_core_same u n fun k =>
    { k with wb := { w with lines := rest, done := w.done + 128, page := none } :: r })
  obtain ⟨lines, done, bar, ecc, ctx, bundle, task, launch, stops, page⟩ := w
  subst hecc hlines
  unfold State.writeBack
  dsimp only
  rw [hwrite]
  exact ⟨rfl, hput⟩

theorem writeBack_arrives {y : Word} {old : Word} (hlines : w.lines = []) (hbar : w.bar = some y)
    (harrive : s.arrive (w.issuer n) y.toNat w.done = .ok u old) :
    (s.writeBack n w r).mem = u.mem ∧ ((s.writeBack n w r).core n).wb = r := by
  have hput := congrArg Core.wb (modCoreAt_core_same u n fun k => { k with wb := r })
  unfold State.writeBack
  dsimp only
  rw [hecc]
  dsimp only
  rw [hlines, hbar]
  dsimp only
  rw [harrive]
  exact ⟨rfl, hput⟩

theorem writeBack_leaves (hlines : w.lines = []) (hbar : w.bar = none) :
    (s.writeBack n w r).mem = s.mem ∧ ((s.writeBack n w r).core n).wb = r := by
  have hput := congrArg Core.wb (modCoreAt_core_same s n fun k => { k with wb := r })
  unfold State.writeBack
  dsimp only
  rw [hecc]
  dsimp only
  rw [hlines, hbar]
  exact ⟨rfl, hput⟩

end Line

/-! ### A block is filled (07 R181) -/

theorem getElem?_replace {α : Type} {l : List α} {i : Nat} (hi : i < l.length) (x : α) : (l.take i ++ [x] ++ l.drop (i + 1))[i]? = some x := by
  rw [List.append_assoc, List.getElem?_append_right (by simp)]
  simp [List.length_take, Nat.min_eq_left (Nat.le_of_lt hi)]

theorem filled_gives {s : State} {n i d : Nat} {ev : Bool} {b : Block} (hi : i < (s.core n).blocks.length) (hpin : b.pinned = true) :
    (s.filled n i d ev b).mem = s.mem ∧ ((s.filled n i d ev b).agent n).regs = (s.agent n).regs.write (.s d) (.w (BitVec.ofNat 64 b.handle)) ∧
      ((s.filled n i d ev b).core n).blocks[i]? = some { b with fill := none, waited := false, page := none } := by
  have hput : (s.filled n i d ev b).cores = (s.modCoreAt n fun k =>
      { k with blocks := k.blocks.take i ++ [{ b with fill := none, waited := false, page := none }] ++ k.blocks.drop (i + 1) }).cores := by
    unfold State.filled
    rw [hpin, Bool.or_true, if_pos rfl]
    dsimp only
    split <;> rfl
  have hregs : (s.filled n i d ev b).agents = (s.modRegs n fun g => g.write (.s d) (.w (BitVec.ofNat 64 b.handle))).agents := by
    unfold State.filled
    dsimp only
    split <;> rfl
  have hmem : (s.filled n i d ev b).mem = s.mem := by
    unfold State.filled
    dsimp only
    split <;> rfl
  refine ⟨hmem, ?_, ?_⟩
  · rw [agent_of_agents hregs]
    exact congrArg Agent.regs ((setAgent_agent ..).trans (if_pos rfl))
  · have hcore : (s.filled n i d ev b).core n = (s.modCoreAt n fun k =>
        { k with blocks := k.blocks.take i ++ [{ b with fill := none, waited := false, page := none }] ++ k.blocks.drop (i + 1) }).core n :=
      congrArg (fun m => SMap.get (α := Core) {} m n) hput
    rw [hcore, modCoreAt_core_same]
    exact getElem?_replace hi _

/-- What reading the lines of a block looks at. -/
theorem readEach_looked {α β : Type} {s u : State} {l : List α} {f : State → α → Acc β} (hf : ∀ t x, Looked t (f t x).state) {ys : List β}
    (h : readEach s l f = .ok u ys) : Looked s u := by
  have hkeep := readEach_keeps (Looked s) l f (fun t x ht => ht.trans (hf t x)) s (Looked.refl s)
  rw [h] at hkeep
  exact hkeep

theorem blockFilled_fills {s u : State} {n i d : Nat} {y : Block} {z : Task} {ev : Bool} {attrs : List Nat}
    (hy : (s.core n).blocks[i]? = some y) (hz : (s.core n).task = some z) (hfill : y.fill = some (d, ev)) (hage : y.age = 0)
    (hpaused : s.paused = false) (hpage : s.unanswered (dieOf n) y.page = false) (hroom : ev = false ∨ s.canPost (dieOf n) = true)
    (hread : readEach s ((List.range y.lines).map fun l => y.addr + 128 * l)
      (fun v x => (v.readAttr { agent := n, ctx := some z.ctx } .read x 128).map (·.2)) = .ok u attrs) :
    exec (.blockFilled n i) s = .next (State.issues (u.filled n i d ev { y with away := awayOf attrs })) := by
  have hpost : (ev && !s.canPost (dieOf n)) = false := by
    rcases hroom with h | h <;> rw [h]
    · rfl
    · rw [Bool.not_true, Bool.and_false]
  show execBlockFilled n i s = _
  unfold execBlockFilled
  dsimp only
  rw [hy, hz]
  dsimp only
  rw [hfill]
  dsimp only
  rw [hpaused, hpage, Bool.or_false, if_neg Bool.false_ne_true, if_neg (fun h => h hage), hpost, if_neg Bool.false_ne_true, hread]
  rfl

/-- Settles O49: each kind of waiting work by the lemma on the function that performs it. -/
theorem waitingWork : Obligations.WaitingWork := by
  unfold Obligations.WaitingWork
  intro s n result a k b
  refine ⟨fun hbrk hloops hempty => ⟨fun hdelay => ?_, fun d hdelay => ?_⟩, fun i p hp => ⟨fun hdue => ?_, fun c hc hlate => ?_⟩,
    fun f r hdef hrun hdelay hflight hloops => ?_, fun hrun => ?_, fun hpaused => ⟨?_, ?_⟩, fun e r es hlog hwhat hpaused => ?_,
    fun w r hwb hecc hpaused => ⟨regionWriteback_waits hwb hpaused, fun hslog hold hpage => ?_⟩,
    fun i y z d ev u attrs hy hz hfill hpin hage hpaused hpage hroom hread => ?_⟩
  · obtain ⟨h1, h2, h3, h4, h5, h6⟩ := endPosition_plain (a := { b with empties := b.empties - 1 }) (stall := 0) hdelay hloops
    have hpass : b.passEmpty = ({ b with empties := b.empties - 1 } : Agent).endPosition false 0 := by
      unfold Agent.passEmpty
      rw [hdelay]
      rfl
    rw [← hpass] at h1 h2 h3 h4 h5 h6
    have hme : (State.issues (s.setMe b.passEmpty)).me = b.passEmpty := setMe_me ..
    refine ⟨_, exec_emptyPosition (h6.trans hbrk), rfl, rfl, ?_⟩
    rw [hme]
    exact ⟨h1, h2, h3, h4, h5⟩
  · have hpass : b.passEmpty = ({ b with empties := b.empties - 1 } : Agent).endPosition true 0 := by
      unfold Agent.passEmpty
      rw [hdelay]
      rfl
    have hme : (State.issues (s.setMe b.passEmpty)).me = b.passEmpty := setMe_me ..
    by_cases hd : d.left ≤ 1
    · obtain ⟨h1, h2, h3, h4, h5, h6, h7⟩ := endPosition_last (a := { b with empties := b.empties - 1 }) (stall := 0) hdelay hd
      rw [← hpass] at h1 h2 h3 h4 h5 h6 h7
      refine ⟨_, exec_emptyPosition (h7.trans hbrk), rfl, rfl, ?_⟩
      rw [hme]
      refine ⟨h1, h2, fun _ => ⟨h3, h4, h5, fun l hl => ?_⟩, fun h => absurd h (Nat.not_lt.mpr hd)⟩
      rw [h6] at hl
      obtain ⟨hin, hfresh⟩ := List.mem_filter.mp hl
      exact ⟨hin, by simpa using hfresh⟩
    · obtain ⟨h1, h2, h3, h4, h5⟩ := endPosition_counts (a := { b with empties := b.empties - 1 }) (stall := 0) hdelay (Nat.lt_of_not_le hd)
      rw [← hpass] at h1 h2 h3 h4 h5
      refine ⟨_, exec_emptyPosition (h5.trans hbrk), rfl, rfl, ?_⟩
      rw [hme]
      exact ⟨h1, h2, fun h => absurd h hd, fun _ => ⟨h3, h4⟩⟩
  · have hagent := land_agent (a := { a with flight := a.flight.eraseIdx i }) (setAgent_agent_same s n _) p
      (p.due.getD (s.reached n))
    have hregs := congrArg Agent.regs hagent
    have hflight := congrArg Agent.flight hagent
    have hpc := congrArg Agent.pc hagent
    exact ⟨_, exec_producerWriteback hp hdue, rfl, land_mem .., hregs, hflight, hpc⟩
  · exact producerWriteback_waits hp hc hlate
  · obtain ⟨hpc, hregs, hfl, hinh, htrap, hrun'⟩ := unfolded_keeps hloops
    have hset : (s.setAgent n { a.unfolded with deferred := r }).agent n = { a.unfolded with deferred := r } :=
      setAgent_agent_same ..
    have hmem : (s.setAgent n { a.unfolded with deferred := r }).mem = s.mem := rfl
    have hexec := exec_deferredFault hdef hrun hdelay
    generalize s.setAgent n _ = u at hset hmem hexec
    have hfree : (u.agent n).flight = [] := by rw [hset]; exact hfl.trans hflight
    refine ⟨fun hn => ?_, fun hn h0 => ?_⟩
    · obtain ⟨h1, h2⟩ := faultAt_tile hfree hn f.code a.unfolded.pc f.src f.addr
      rw [hset] at h2
      exact ⟨_, hexec, rfl, h1.trans hmem, congrArg Agent.run h2, congrArg Agent.faultcode h2, (congrArg Agent.faultpc h2).trans hpc,
        congrArg Agent.faultsrc h2, congrArg Agent.faultaddr h2, congrArg Agent.deferred h2, (congrArg Agent.regs h2).trans hregs⟩
    · have hopen : (u.agent n).inh = false := by rw [hset]; exact hinh.trans h0
      obtain ⟨h1, h2⟩ := faultAt_enters hfree hn hopen f.code a.unfolded.pc f.src f.addr
      rw [hset] at h2
      exact ⟨_, hexec, rfl, h1.trans hmem, (congrArg Agent.run h2).trans (hrun'.trans hrun), congrArg Agent.faultcode h2,
        (congrArg Agent.faultpc h2).trans hpc, congrArg Agent.faultsrc h2, congrArg Agent.faultaddr h2, (congrArg Agent.epc h2).trans hpc,
        (congrArg Agent.pc h2).trans htrap, congrArg Agent.inh h2, congrArg Agent.code h2, congrArg Agent.ext h2,
        congrArg Agent.deferred h2⟩
  · exact congrArg (fun t => Outcome.next (State.issues t)) (if_pos (beq_iff_eq.mpr hrun))
  · show execSideLogReplay n s = _
    unfold execSideLogReplay
    rw [hpaused]
    rfl
  · show execRegionWriteback n s = _
    unfold execRegionWriteback
    rw [hpaused]
    rfl
  · refine ⟨fun y href => ?_, sideLogReplay_waits hlog hpaused, fun href hwaits => ⟨fun u xs hx => ?_, fun u code y hx => ?_, fun u y hx => ?_⟩⟩
    · exact ⟨_, sideLogReplay_refused hlog hpaused href, rfl, losesLog_gives s n e cStore y⟩
    · exact ⟨_, sideLogReplay_tries hlog hpaused href hwaits hx, rfl, replayed_ok ..⟩
    · exact ⟨_, sideLogReplay_tries hlog hpaused href hwaits hx, rfl, replayed_fail s u n e r code y⟩
    · exact ⟨_, sideLogReplay_tries hlog hpaused href hwaits hx, rfl, replayed_wait hwhat hx⟩
  · have hexec := regionWriteback_runs hwb hpaused hslog hold hpage
    exact ⟨fun y bs rest u hlines hwrite => ⟨_, hexec, rfl, writeBack_line hecc hlines hwrite⟩,
      fun y u old hlines hbar harrive => ⟨_, hexec, rfl, writeBack_arrives hecc hlines hbar harrive⟩,
      fun hlines hbar => ⟨_, hexec, rfl, writeBack_leaves hecc hlines hbar⟩⟩
  · have hlooked : Looked s u := readEach_looked (fun t x => by rw [map_state]; exact looked_readAttr ..) hread
    have hblocks : (u.core n).blocks = k.blocks := by rw [hlooked.core n]
    have hi : i < (u.core n).blocks.length := by
      rw [hblocks]
      exact (List.getElem?_eq_some_iff.mp hy).1
    obtain ⟨h1, h2, h3⟩ := filled_gives (d := d) (ev := ev) (b := { y with away := awayOf attrs }) hi hpin
    refine ⟨_, blockFilled_fills hy hz hfill hage hpaused hpage hroom hread, rfl, h1.trans hlooked.mem, h2.trans ?_, h3⟩
    rw [hlooked.agent n]
    rfl

end Sys2Proof.Machine

/-! PROOF about O50: the host mailbox (16 R409). -/

namespace Sys2Proof.Machine

open Host (Outcome)

/-- An access that stands in a side log names address 0x2008 of context 0, which no table maps yet. -/
def mailLogged : LogEntry := { ctx := 0, bundle := 0, what := .store [(0x2008, [0])] }

/-- The link is up, the boot done and the mailbox enabled. The table of context 0 at address 0 leads by one at 0x1000 to one at 0x2000, which is
empty, and core 127, whose number the mailbox's accesses carry, has a logged access. -/
def mailState : State :=
  { mg := { linkUp := true, done := true, mben := true }
    ctxroot := [(0, 1)]
    mem := [(0, 0x03), (1, 0x10), (0x1000, 0x03), (0x1001, 0x20)]
    cores := [(127, { slog := [mailLogged] })] }

/-- A request to write 16 bytes at 0x2000. -/
def mailRequest : BitVec 128 := BitVec.ofNat 128 (2 + 2 ^ 32 * 16 + 2 ^ 64 * 0x2000)

/-- The leaf that maps the first 2^30 bytes of context 0 onto those of HBM, and a word beside it. -/
def mailData : List Byte := toBytes 7 16

/-- Before the request the logged address is mapped nowhere, so nothing is held. -/
theorem mailState_free (x m : Nat) : mailState.homeHeld mailIssuer x m = false := by
  have hnowhere : mailState.physOf 0 0x2008 = none := by decide +kernel
  have hown : mailState.ownLogMeets mailIssuer.agent x m = false := by
    show ([mailLogged].any fun e => e.what.addrs.any fun a => match mailState.physOf e.ctx a with
      | some p => decide (x ≤ p) && decide (p < x + m)
      | none => false) = false
    show ((match mailState.physOf 0 0x2008 with
      | some p => decide (x ≤ p) && decide (p < x + m)
      | none => false) || false || false) = false
    rw [hnowhere]
    rfl
  unfold State.homeHeld
  rw [hown]
  simp [State.refreshing, State.otherLogs, mailState, SMap.get, mailIssuer]

/-- Its first word makes the second one held: the request is not performed, and has no reply. -/
theorem mailbox_silent : (ran (exec (.mailboxWrite mailRequest mailData) mailState) mailState).mg.mbReply = [] := by
  decide +kernel

/-- Refutes O50: no line is held when the request is taken, but its first word is a table entry, and puts the page of a logged access that
counts as the mailbox's own (that of core 127, which no hardware has and the statement's states may list) at its second word, which then waits. -/
theorem not_mailboxAndLink : ¬ Obligations.MailboxAndLink := by
  unfold Obligations.MailboxAndLink
  intro h
  obtain ⟨-, hwrite, -⟩ := h mailState 96 0 mailRequest mailData (by decide)
  obtain ⟨t, hexec, -, hreply, -⟩ := hwrite ⟨rfl, rfl, rfl⟩ (by decide) ⟨rfl, mailState_free⟩ (by decide) (by decide)
  have hsilent := mailbox_silent
  rw [hexec] at hsilent
  rw [show t.mg.mbReply = [] from hsilent] at hreply
  exact absurd hreply (by decide)

end Sys2Proof.Machine

/-! LEMMAS and PROOF of O51: the side band, the boot ROM and resets (16 R411 R412 R416 R420 R421, 01 R38). -/

namespace Sys2Proof.Machine

open Host (Outcome)

/-! ### Stores to HBM and to management SRAM -/

/-- Every byte of [a, a + n) is HBM or management SRAM. -/
def Stored (a n : Nat) : Prop := ∀ x, a ≤ x → x < a + n → placeOf x = .hbm ∨ placeOf x = .sram

theorem Stored.tail {a n : Nat} (h : Stored a (n + 1)) : Stored (a + 1) n := fun x h1 h2 => h x (by omega) (by omega)

theorem physBytes_stored (s : State) {a n : Nat} (h : Stored a n) : s.physBytes a n = bytesAt s.mem a n := by
  induction n generalizing a with
  | zero => rfl
  | succ n ih =>
    have hbyte : s.physByte a = SMap.get 0 s.mem a := by
      unfold State.physByte
      rcases h a (Nat.le_refl a) (by omega) with hp | hp <;> rw [hp]
    rw [State.physBytes, bytesAt, ih h.tail, hbyte]

theorem putBytes_stored (s : State) {a : Nat} {bs : List Byte} (h : Stored a bs.length) : (s.putBytes a bs).mem = putBytes s.mem a bs := by
  induction bs generalizing s a with
  | nil => rfl
  | cons b r ih =>
    have hbyte : (s.putByte a b).mem = SMap.set 0 s.mem a b := by
      unfold State.putByte
      rcases h a (Nat.le_refl a) (by simp) with hp | hp <;> rw [hp]
    rw [State.putBytes, ih _ h.tail, hbyte]
    rfl

/-- What has been stored there is read back. -/
theorem physBytes_physWrite_stored (s : State) {a : Nat} {bs : List Byte} (h : Stored a bs.length) :
    (s.physWrite a bs).physBytes a bs.length = bs := by
  rw [physBytes_stored _ h, physWrite_mem, putBytes_stored s h, bytesAt_putBytes]

/-- An image that is loaded where it may be. -/
theorem stored_of_loadRange {a n : Nat} (h : loadRangeOk a n = true) : Stored a n := by
  unfold loadRangeOk at h
  rw [Bool.or_eq_true, Bool.and_eq_true, decide_eq_true_eq, decide_eq_true_eq, decide_eq_true_eq] at h
  intro x h1 h2
  unfold hbmEnd ctlBase at h
  unfold placeOf hbmEnd ctlBase
  rcases h with h | ⟨h3, h4⟩
  · exact .inl (if_pos (by omega))
  · refine .inr ?_
    rw [if_neg (by omega), if_neg (by omega), if_pos (by simp; omega)]

/-! ### The side band (16 R411 R412 R421) -/

section Band
variable {s : State}

theorem endpointUp_iff : s.endpointUp = true ↔ (s.agent 100).run ≠ .halted := bne_iff_ne

theorem sensor_core_low {v : Nat} (h1 : 1 ≤ v) (h2 : v ≤ 96) : s.sensor v = some (toBytes (s.core (v - 1)).thermLo.toNat 2) :=
  if_pos (by simp [h1, h2])

theorem sensor_core_high {v : Nat} (h1 : 101 ≤ v) (h2 : v ≤ 196) : s.sensor v = some (toBytes (s.core (v - 101)).thermHi.toNat 2) :=
  (if_neg (by simp; omega)).trans (if_pos (by simp [h1, h2]))

theorem sensor_stack {v : Nat} (h1 : 200 ≤ v) (h2 : v ≤ 207) : s.sensor v = some [(s.hbm.get {} (v - 200)).degc] :=
  (if_neg (by simp; omega)).trans ((if_neg (by simp; omega)).trans (if_pos (by simp [h1, h2])))

variable (hrun : (s.agent 100).run ≠ .halted)
include hrun

/-- A message that is served has its reply; memory, the digests and the event log are as they were. -/
theorem serve_gives (r : List Byte) : (s.serve r).mg = { s.mg with sbReply := r } ∧ (s.serve r).mem = s.mem ∧ (s.serve r).elTail = s.elTail ∧
    (s.serve r).dbgEn = s.dbgEn := by
  unfold State.serve
  rw [if_pos (endpointUp_iff.mpr hrun)]
  exact ⟨rfl, rfl, rfl, rfl⟩

theorem pldmSensorRead_gives {v : Nat} {r : List Byte} (hv : s.sensor v = some r) :
    ∃ t, exec (.pldmSensorRead v) s = .next t ∧ t.res = .issued ∧ t.mg.sbReply = r ∧ t.mem = s.mem := by
  obtain ⟨hmg, hmem, -, -⟩ := serve_gives hrun r
  have hexec : exec (.pldmSensorRead v) s = .next (State.issues { s.serve r with fresh := s.fresh + 1 }) := by
    show execPldmSensorRead v s = _
    unfold execPldmSensorRead
    rw [hv]
    rfl
  exact ⟨_, hexec, rfl, congrArg Mgmt.sbReply hmg, hmem⟩

end Band

theorem modMg_rest (s : State) (f : Mgmt → Mgmt) : (s.modMg f).elTail = s.elTail ∧ (s.modMg f).mem = s.mem ∧ (s.modMg f).agents = s.agents :=
  ⟨rfl, rfl, rfl⟩

theorem extend_rest (s : State) (i : Nat) (x : BitVec 384) : (s.extend i x).elTail = s.elTail ∧ (s.extend i x).mem = s.mem ∧
    (s.extend i x).agents = s.agents := modMg_rest ..

theorem extend_mg (s : State) (i : Nat) (x : BitVec 384) : (s.extend i x).mg =
    { s.mg with mr := s.mg.mr.set 0 i (sha384 (digestBytes (s.mg.mr.get 0 i) ++ digestBytes x)) } := rfl

/-- DBGCTL.EN takes its value; MR7 is extended only where a bit of it rises. -/
theorem writeDbgEn_gives (s : State) (en : BitVec 4) (new : Word) : (s.writeDbgEn en new).dbgEn = en ∧ (s.writeDbgEn en new).elTail = s.elTail ∧
    (s.writeDbgEn en new).mem = s.mem ∧ (s.writeDbgEn en new).agents = s.agents ∧
      (en &&& ~~~s.dbgEn = 0 → (s.writeDbgEn en new).mg = s.mg) := by
  obtain ⟨htail, hmem, hagents⟩ := extend_rest s 7 (sha384 (toBytes new.toNat 8))
  unfold State.writeDbgEn
  generalize s.extend 7 (sha384 (toBytes new.toNat 8)) = u at *
  dsimp only
  split
  · next h => exact ⟨rfl, htail, hmem, hagents, fun h0 => absurd h0 h⟩
  · exact ⟨rfl, rfl, rfl, rfl, fun _ => rfl⟩

/-- A hardware post is one more entry of the log. -/
theorem logHard_rest (s : State) (src k : Nat) (w2 w3 : Word) : (s.logHard src k w2 w3).elTail = s.elTail + 1 ∧ (s.logHard src k w2 w3).mg = s.mg ∧
    (s.logHard src k w2 w3).dbgEn = s.dbgEn := by
  unfold State.logHard
  by_cases hk : (if s.elPushAt = s.cycle + 1 then s.elPushes else 0) = 0
  · simp only [if_pos hk]
    exact ⟨rfl, rfl, rfl⟩
  · simp only [if_neg hk]
    exact ⟨rfl, rfl, rfl⟩

/-- Effecter 301 writes DBGCTL.EN after its event log entry. -/
theorem pldmEffecterDebug_gives {s : State} (hrun : (s.agent 100).run ≠ .halted) (v : Nat) :
    ∃ t, exec (.pldmEffecterDebug v) s = .next t ∧ t.res = .issued ∧ t.dbgEn = BitVec.ofNat 4 v ∧ t.elTail = s.elTail + 1 ∧ t.mem = s.mem ∧
      (BitVec.ofNat 4 v &&& ~~~s.dbgEn = 0 → t.mg.mr = s.mg.mr) := by
  let en := BitVec.ofNat 4 v
  let new : Word := BitVec.ofNat 64 (en.toNat + if s.dbgHalt then 256 else 0)
  have hexec : exec (.pldmEffecterDebug v) s =
      .next (State.issues (((s.logHard 3 1 (en.setWidth 64) 0).writeDbgEn en new).serve [])) :=
    congrArg (fun t => Outcome.next (State.issues t)) (if_pos (endpointUp_iff.mpr hrun))
  obtain ⟨htail, hmg, hen⟩ := logHard_rest s 3 1 (en.setWidth 64) 0
  obtain ⟨hagents, hmem, -, -⟩ := logHard_frame s 3 1 (en.setWidth 64) 0
  generalize s.logHard 3 1 (en.setWidth 64) 0 = u at *
  obtain ⟨hdbg, htail', hmem', hagents', hmg'⟩ := writeDbgEn_gives u en new
  rw [hen] at hmg'
  generalize u.writeDbgEn en new = w at *
  have hrunW : (w.agent 100).run ≠ .halted := by rw [agent_of_agents (hagents'.trans hagents)]; exact hrun
  obtain ⟨hmgW, hmemW, htailW, hdbgW⟩ := serve_gives hrunW []
  refine ⟨_, hexec, rfl, hdbgW.trans hdbg, htailW.trans (htail'.trans htail), hmemW.trans (hmem'.trans hmem), fun h => ?_⟩
  have hmr : (w.serve []).mg.mr = w.mg.mr := by rw [hmgW]
  exact hmr.trans (congrArg Mgmt.mr ((hmg' h).trans hmg))

/-- Each digest stands in its place among the measured values (16 R421). -/
theorem measured_digest (s : State) {k : Nat} (hk : k < 8) : (s.measured.drop (48 * k)).take 48 = toBytes (s.mg.mr.get 0 k).toNat 48 := by
  have hlen : ∀ i, (digestBytes (s.mg.mr.get 0 i)).length = 48 := fun i => toBytes_length ..
  have hall : ((List.range 8).flatMap fun i => digestBytes (s.mg.mr.get 0 i)).length = 48 * 8 := by
    simp only [List.length_flatMap, hlen]
    rfl
  have hblock := flatMap_block hlen (l := List.range 8) (i := k) (y := k) (by simp [hk]) (k := 0) (m := 48) (Nat.le_refl 48)
  unfold State.measured
  rw [List.append_assoc, List.drop_append_of_le_length (by rw [hall]; omega), List.take_append_of_le_length (by rw [List.length_drop, hall]; omega)]
  rw [Nat.add_zero] at hblock
  rw [hblock]
  exact List.take_of_length_le (Nat.le_of_eq (hlen k))

/-! ### Boot (16 R416 R420) -/

section Image
variable {s : State} {img : List Byte}

theorem exec_bootImage_fails (hfail : s.mg.fail = false) (hdone : s.mg.done = false) (htaken : s.mg.taken < 15) (hbegun : s.mg.begun = true)
    {stage : Nat} (h : imageFails img = some stage) : exec (.bootImage img) s = .next (State.issues (s.bootFails stage)) := by
  show execBootImage img s = _
  unfold execBootImage
  rw [hfail, hdone, if_neg (by simp; omega), hbegun, if_pos rfl]
  dsimp only
  rw [h]
  rfl

theorem exec_bootImage_passes (hfail : s.mg.fail = false) (hdone : s.mg.done = false) (htaken : s.mg.taken < 15) (hbegun : s.mg.begun = true)
    (h : imageFails img = none) : exec (.bootImage img) s = .next (State.issues
      (if Config.copyError s.fresh = true then ({ s with fresh := s.fresh + 1 } : State).bootFails 7
        else ({ s with fresh := s.fresh + 1 } : State).bootTakes img)) := by
  show execBootImage img s = _
  unfold execBootImage
  rw [hfail, hdone, if_neg (by simp; omega), hbegun, if_pos rfl]
  dsimp only
  rw [h]
  rfl

theorem bootFails_gives (s : State) (stage : Nat) : (s.bootFails stage).mg = { s.mg with
      fail := true, stage := BitVec.ofNat 8 stage, image := BitVec.ofNat 6 s.mg.taken } ∧
    (s.bootFails stage).mem = s.mem ∧ (s.bootFails stage).elTail = s.elTail + 1 := by
  unfold State.bootFails
  dsimp only
  obtain ⟨htail, hmg, -⟩ := logHard_rest (s.modMg fun m => { m with fail := true, stage := BitVec.ofNat 8 stage, image := BitVec.ofNat 6 s.mg.taken })
    1 stage (BitVec.ofNat 64 s.mg.taken) 0
  obtain ⟨-, hmem, -, -⟩ := logHard_frame (s.modMg fun m => { m with fail := true, stage := BitVec.ofNat 8 stage, image := BitVec.ofNat 6 s.mg.taken })
    1 stage (BitVec.ofNat 64 s.mg.taken) 0
  exact ⟨hmg, hmem, htail⟩

/-- What follows once an image has been copied and measured: the next one, or the firmware. -/
def State.bootNext (v : State) (img : List Byte) (last : Bool) : State :=
  let s2 := v.modMg fun m => { m with taken := m.taken + 1, entry := if Config.imageKind img = 1 then some (Config.imageEntry img) else m.entry }
  if last || s2.mg.taken = 16 then
    let s3 := s2.modMg fun m => { m with done := true }
    match s3.mg.entry with
    | some a => s3.modAgent 100 fun x => { x with pc := a, empties := 0, delay := none, xfer := none, tried := none }
    | none => s3
  else s2

theorem bootTakes_eq : s.bootTakes img = ((s.physWrite (Config.imageLoad img) (Config.imagePart img 1)).extend (Config.imageKind img)
    (sha384 (Config.imagePart img 0))).bootNext img (Config.imageLast s.mg.taken) := rfl

theorem bootNext_gives {v : State} (hdone : v.mg.done = false) (htaken : v.mg.taken < 15) (last : Bool) :
    (v.bootNext img last).mg.taken = v.mg.taken + 1 ∧ (v.bootNext img last).mg.done = last ∧ (v.bootNext img last).mg.mr = v.mg.mr ∧
      (v.bootNext img last).mem = v.mem ∧
      (last = true → Config.imageKind img = 1 → ((v.bootNext img last).agent 100).pc = Config.imageEntry img) := by
  unfold State.bootNext
  dsimp only [State.modMg]
  cases last with
  | false =>
    split
    · next h => exact absurd h (by simp; omega)
    · exact ⟨rfl, hdone, rfl, rfl, nofun⟩
  | true =>
    rw [if_pos (Bool.true_or _)]
    by_cases hkind : Config.imageKind img = 1
    · rw [if_pos hkind]
      exact ⟨rfl, rfl, rfl, rfl, fun _ _ => congrArg Agent.pc (setAgent_agent_same ..)⟩
    · rw [if_neg hkind]
      cases v.mg.entry <;> exact ⟨rfl, rfl, rfl, rfl, fun _ h => absurd h hkind⟩

/-- An image that passes is in its place and measured; the last one, of kind 1, is where the controller goes on. -/
theorem bootTakes_gives (hdone : s.mg.done = false) (htaken : s.mg.taken < 15) (hrange : loadRangeOk (Config.imageLoad img)
    (Config.imagePart img 1).length = true) :
    (s.bootTakes img).mg.taken = s.mg.taken + 1 ∧ (s.bootTakes img).mg.done = Config.imageLast s.mg.taken ∧
      (s.bootTakes img).mg.mr.get 0 (Config.imageKind img) =
        sha384 (toBytes (s.mg.mr.get 0 (Config.imageKind img)).toNat 48 ++ toBytes (sha384 (Config.imagePart img 0)).toNat 48) ∧
      (∀ t : State, t.mem = (s.bootTakes img).mem →
        t.physBytes (Config.imageLoad img) (Config.imagePart img 1).length = Config.imagePart img 1) ∧
      (Config.imageLast s.mg.taken = true → Config.imageKind img = 1 → ((s.bootTakes img).agent 100).pc = Config.imageEntry img) := by
  have hstored := stored_of_loadRange hrange
  have hread := physBytes_physWrite_stored s hstored
  have hmg : (s.physWrite (Config.imageLoad img) (Config.imagePart img 1)).mg = s.mg := by rw [physWrite_only]
  rw [bootTakes_eq]
  generalize s.physWrite (Config.imageLoad img) (Config.imagePart img 1) = u at hread hmg
  have hext := extend_mg u (Config.imageKind img) (sha384 (Config.imagePart img 0))
  obtain ⟨-, hextMem, -⟩ := extend_rest u (Config.imageKind img) (sha384 (Config.imagePart img 0))
  rw [hmg] at hext
  generalize u.extend (Config.imageKind img) (sha384 (Config.imagePart img 0)) = v at *
  have htakenV : v.mg.taken = s.mg.taken := by rw [hext]
  have hdoneV : v.mg.done = false := by rw [hext]; exact hdone
  obtain ⟨h1, h2, h3, h4, h5⟩ := bootNext_gives (img := img) hdoneV (htakenV ▸ htaken) (Config.imageLast s.mg.taken)
  refine ⟨h1.trans (congrArg (· + 1) htakenV), h2, ?_, fun t ht => ?_, h5⟩
  · rw [h3, hext]
    exact SMap.get_set_same ..
  · rw [physBytes_stored t hstored, ht, h4, hextMem, ← physBytes_stored u hstored, hread]

end Image

theorem loadRange_of_passes {img : List Byte} (h : imageFails img = none) :
    loadRangeOk (Config.imageLoad img) (Config.imagePart img 1).length = true := by
  unfold imageFails at h
  dsimp only at h
  split at h
  · nomatch h
  · next h1 =>
    cases hr : loadRangeOk (Config.imageLoad img) (Config.imagePart img 1).length with
    | true => rfl
    | false => exact absurd (by rw [hr, Bool.not_false, Bool.or_true]) h1

/-- Settles O51: what each side-band service and each step of the boot leaves, by the lemma on the function that performs it. -/
theorem sideBandAndBoot : Obligations.SideBandAndBoot := by
  unfold Obligations.SideBandAndBoot
  intro s v bs result again
  have hserved : ∀ i r, (s.agent 100).run ≠ .halted → exec i s = .next (State.issues (s.serve r)) →
      ∃ t, exec i s = .next t ∧ t.res = .issued ∧ t.mem = s.mem ∧ t.mg = { s.mg with sbReply := r } := fun i r hrun hi => by
    obtain ⟨hmg, hmem, -, -⟩ := serve_gives hrun r
    exact ⟨_, hi, rfl, hmem, hmg⟩
  refine ⟨fun hrun => ?_, fun hhalt => ?_, rfl, rfl, rfl, fun h => ?_, fun hfail hdone htaken hbegun => ?_⟩
  · have hup := endpointUp_iff.mpr hrun
    refine ⟨?_, fun h1 h2 => pldmSensorRead_gives hrun (sensor_core_low h1 h2), fun h1 h2 => pldmSensorRead_gives hrun (sensor_core_high h1 h2),
      fun h1 h2 => pldmSensorRead_gives hrun (sensor_stack h1 h2), ?_, ?_, ?_, ?_, ?_, ?_, ?_⟩
    · obtain ⟨-, hmem, -, -⟩ := serve_gives hrun []
      refine ⟨_, congrArg (fun t => Outcome.next (State.issues t)) (if_pos hup), rfl, rfl, hmem⟩
    · obtain ⟨t, hexec, hres, hreply, -⟩ := pldmSensorRead_gives hrun (v := 220) rfl
      exact ⟨t, hexec, hres, hreply⟩
    · exact congrArg (fun t => Outcome.next (State.issues t)) (if_pos hup)
    · exact pldmEffecterDebug_gives hrun v
    · obtain ⟨-, hmem, -, -⟩ := serve_gives hrun []
      refine ⟨_, congrArg (fun t => Outcome.next (State.issues t)) (if_pos hup), rfl, rfl, hmem⟩
    · obtain ⟨t, hexec, hres, hmem, hmg⟩ := hserved (.getMeasurements bs) _ hrun rfl
      exact ⟨t, hexec, hres, hmem, by rw [hmg], by rw [hmg], fun k hk => measured_digest s hk⟩
    · obtain ⟨t, hexec, hres, hmem, hmg⟩ := hserved (.spdmChallenge bs) _ hrun rfl
      exact ⟨t, hexec, hres, hmem, by rw [hmg]⟩
    · obtain ⟨t, hexec, hres, hmem, hmg⟩ := hserved .spdmGetCertificate _ hrun rfl
      exact ⟨t, hexec, hres, hmem, by rw [hmg]⟩
  · have hdown : ¬ s.endpointUp = true := fun h => endpointUp_iff.mp h hhalt
    exact ⟨congrArg (fun t => Outcome.next (State.issues t)) (if_neg hdown), congrArg (fun t => Outcome.next (State.issues t)) (if_neg hdown),
      congrArg (fun t => Outcome.next (State.issues t)) (if_neg hdown), congrArg (fun t => Outcome.next (State.issues t)) (if_neg hdown)⟩
  · have hover : (s.mg.fail || s.mg.done || decide (16 ≤ s.mg.taken)) = true := by
      rcases h with h | h <;> rw [h] <;> simp
    exact congrArg (fun t => Outcome.next (State.issues t)) (if_pos hover)
  · cases himg : imageFails bs with
    | some stage =>
      obtain ⟨hmg, hmem, htail⟩ := bootFails_gives s stage
      refine ⟨_, exec_bootImage_fails hfail hdone htaken hbegun himg, rfl, fun k hk => ?_, nofun, nofun⟩
      cases hk
      exact ⟨congrArg Mgmt.fail hmg, congrArg Mgmt.stage hmg, congrArg Mgmt.image hmg, hmem, htail⟩
    | none =>
      refine ⟨_, exec_bootImage_passes hfail hdone htaken hbegun himg, rfl, nofun, fun _ hcopy => ?_, fun _ hcopy => ?_⟩
      · rw [if_pos hcopy]
        obtain ⟨hmg, hmem, -⟩ := bootFails_gives { s with fresh := s.fresh + 1 } 7
        exact ⟨congrArg Mgmt.fail hmg, congrArg Mgmt.stage hmg, hmem⟩
      · rw [if_neg (by rw [hcopy]; exact Bool.false_ne_true)]
        obtain ⟨h1, h2, h3, h4, h5⟩ := bootTakes_gives (s := { s with fresh := s.fresh + 1 }) hdone htaken (loadRange_of_passes himg)
        generalize State.bootTakes _ bs = t at *
        exact ⟨h1, h2, h3, h4 _ rfl, h5⟩

end Sys2Proof.Machine

/-! LEMMAS and PROOF of O52: stores to chip control space (16 R413 to R420, 08 R233 R234, 12 R313). -/

namespace Sys2Proof.Machine

open Host (Outcome)

/-! ### A store reaches its register -/

/-- `pa` is the aligned address at offset `off` of block `b` of control space. -/
def CtlAt (pa b off : Nat) : Prop := ctlBase ≤ pa ∧ pa % 8 = 0 ∧ (pa - ctlBase) / 0x100000 = b ∧ (pa - ctlBase) % 0x100000 = off

theorem ctlAt_mk {a b off : Nat} (ha : a = 0x100000 * b + off) (hoff : off < 0x100000) (h8 : off % 8 = 0) : CtlAt (0xF000000000 + a) b off := by
  unfold CtlAt ctlBase
  omega

theorem ctlRead_ctxroot {s : State} {pa off : Nat} (h : CtlAt pa 5 off) {n : Nat} (hoff : off = 0x10 * n) (hn : n < 64) :
    s.ctlRead pa = some (s.ctxroot.get 0 n) := by
  obtain ⟨-, -, hb, hat⟩ := h
  have hdiv : off / 0x10 = n := by omega
  unfold State.ctlRead
  rw [hb, hat, ← hdiv]
  exact if_pos (by simp; omega)

/-- What a store to EVQBASE, EVQSIZE or SAVECNT of die `d` does, by its offset in the die's block. -/
def State.writeDieReg (s : State) (d o : Nat) (val : Word) : State :=
  if o = 0 then s.modDie d fun x => { x with evAddr := BitVec.ofNat 28 (bitsOf val 12 28), evEn := val.getLsbD 0 }
  else if o = 8 then
    if bitsOf val 0 5 < 6 || 20 < bitsOf val 0 5 then s else s.modDie d fun x => { x with evLog2 := bitsOf val 0 5 }
  else if (s.die d).saved.isEmpty then s.modDie d fun x => { x with saveCnt := val.setWidth 8 } else s

section Register
variable {s : State} {who pa off : Nat} {val : Word} (hwho : 96 ≤ who ∧ who ≤ 100)
include hwho

/-- A store that its agent may make. -/
theorem registerWrite_runs {b : Nat} (h : CtlAt pa b off) (hm : machineOnly pa = false ∨ who = 100) {t : State}
    (ht : s.ctlWrite who pa val = .ok t) : exec (.registerWrite who pa val) s = .next (State.issues t) := by
  obtain ⟨hbase, h8, -, -⟩ := h
  have hreach : reaches who = true := by simp [reaches, hwho.1, hwho.2]
  have hfree : ¬ (!reaches who || decide (pa < ctlBase) || decide (pa % 8 ≠ 0) || (machineOnly pa && decide (who ≠ 100))) = true := by
    rw [hreach, decide_eq_false (Nat.not_lt.mpr hbase), decide_eq_false (not_not.mpr h8)]
    rcases hm with hm | hm <;> rw [hm] <;> simp
  refine congrArg (fun t => Outcome.next (State.issues t)) ((if_neg hfree).trans ?_)
  rw [ht]

omit hwho in
/-- A register that only the management controller writes ignores the others. -/
theorem registerWrite_barred (hm : machineOnly pa = true) (hne : who ≠ 100) : exec (.registerWrite who pa val) s = .next (State.issues s) := by
  have hshut : (!reaches who || decide (pa < ctlBase) || decide (pa % 8 ≠ 0) || (machineOnly pa && decide (who ≠ 100))) = true := by
    rw [hm, decide_eq_true hne, Bool.and_self, Bool.or_true]
  exact congrArg (fun t => Outcome.next (State.issues t)) (if_pos hshut)

theorem registerWrite_absent {b : Nat} (h : CtlAt pa b off) (hm : machineOnly pa = false) (hread : s.ctlRead pa = none) :
    exec (.registerWrite who pa val) s = .next (State.issues s) := by
  obtain ⟨hbase, h8, -, -⟩ := h
  have hreach : reaches who = true := by simp [reaches, hwho.1, hwho.2]
  have hfree : ¬ (!reaches who || decide (pa < ctlBase) || decide (pa % 8 ≠ 0) || (machineOnly pa && decide (who ≠ 100))) = true := by
    rw [hreach, decide_eq_false (Nat.not_lt.mpr hbase), decide_eq_false (not_not.mpr h8), hm]
    simp
  have hnone : s.ctlWrite who pa val = .absent := if_pos (by rw [hread]; rfl)
  refine congrArg (fun t => Outcome.next (State.issues t)) ((if_neg hfree).trans ?_)
  rw [hnone]

/-- Registers of a tile core. -/
theorem coreReg_write (h : CtlAt pa 0 off) {c o : Nat} (hoff : off = 0x1000 * c + o) (ho : o < 0x1000) (hc : c < 96) (hne : o ≠ 0x20) {x : Word}
    (hread : s.readCoreReg c o = some x) : exec (.registerWrite who pa val) s = .next (State.issues (s.writeCoreReg c o val)) := by
  obtain ⟨-, -, hb, hat⟩ := id h
  have hdiv : off / 0x1000 = c := by omega
  have hmod : off % 0x1000 = o := by omega
  have hopen : machineOnly pa = (off % 0x1000 == 0x20) := by
    unfold machineOnly
    rw [hb, hat]
    rfl
  have hat' : s.ctlRead pa = if off / 0x1000 < 96 then s.readCoreReg (off / 0x1000) (off % 0x1000) else none := by
    unfold State.ctlRead
    rw [hb, hat]
    rfl
  refine registerWrite_runs hwho h (.inl ?_) ?_
  · rw [hopen, hmod]
    exact beq_false_of_ne hne
  · rw [hdiv, hmod, if_pos hc, hread] at hat'
    unfold State.ctlWrite
    rw [hat', hb, hat, ← hdiv, ← hmod]
    rfl

/-- Context roots. -/
theorem ctxroot_write (h : CtlAt pa 5 off) {n : Nat} (hoff : off = 0x10 * n) (hn : n < 64) :
    exec (.registerWrite who pa val) s = .next (State.issues (s.writeCtxroot n val)) := by
  obtain ⟨-, -, hb, hat⟩ := id h
  have hdiv : off / 0x10 = n := by omega
  refine registerWrite_runs hwho h (.inl ?_) ?_
  · unfold machineOnly
    rw [hb]
    rfl
  · unfold State.ctlWrite
    rw [ctlRead_ctxroot h hoff hn, hb, hat, ← hdiv]
    rfl

/-- Launch control and die scheduling. -/
theorem launchReg_write (h : CtlAt pa 7 off) {x : Word} (hread : s.readLaunchReg off = some x) :
    exec (.registerWrite who pa val) s = .next (State.issues (s.writeLaunchReg off val)) := by
  obtain ⟨-, -, hb, hat⟩ := id h
  have hat' : s.ctlRead pa = s.readLaunchReg off := by
    unfold State.ctlRead
    rw [hb, hat]
    rfl
  refine registerWrite_runs hwho h (.inl ?_) ?_
  · unfold machineOnly
    rw [hb]
    rfl
  · unfold State.ctlWrite
    rw [hat', hread, hb, hat]
    rfl

/-- EVQBASE, EVQSIZE and SAVECNT of a die. -/
theorem dieReg_write {d o : Nat} (h : CtlAt pa 7 (0x10000 + 0x100 * d + o)) (hd : d < 4) (ho : o = 0 ∨ o = 8 ∨ o = 0x20) :
    exec (.registerWrite who pa val) s = .next (State.issues (s.writeDieReg d o val)) := by
  have hread : ∃ x, s.readLaunchReg (0x10000 + 0x100 * d + o) = some x := by
    rcases ho with rfl | rfl | rfl <;> interval_cases d <;> exact ⟨_, rfl⟩
  have hput : s.writeLaunchReg (0x10000 + 0x100 * d + o) val = s.writeDieReg d o val := by
    rcases ho with rfl | rfl | rfl <;> interval_cases d <;> rfl
  obtain ⟨x, hx⟩ := hread
  rw [launchReg_write hwho h hx, hput]

/-- QW0 to QW3 of a queue-register set. -/
theorem regset_write (h : CtlAt pa 4 off) {n k : Nat} (hoff : off = 0x100 * n + 8 * k) (hn : n < 6) (hk : k < 4) :
    exec (.registerWrite who pa val) s =
      .next (State.issues (if who = 96 + n then s.modRegset n fun x => x.putQw k val else s)) := by
  obtain ⟨-, -, hb, hat⟩ := id h
  have hdiv : off / 0x100 = n := by omega
  have hmod : off % 0x100 = 8 * k := by omega
  have hat' : s.ctlRead pa = some ((s.regset (off / 0x100)).read (off % 0x100)) := by
    unfold State.ctlRead
    rw [hb, hat]
    exact if_pos (by rw [hdiv, hmod]; simp; omega)
  have hput : s.writeRegset n (8 * k) val = some (s.modRegset n fun x => x.putQw k val) := by
    interval_cases k <;> rfl
  refine registerWrite_runs hwho h (.inl ?_) ?_
  · unfold machineOnly
    rw [hb]
    rfl
  · unfold State.ctlWrite
    rw [hat', hb, hat]
    dsimp only
    rw [hdiv, hmod, hput]
    unfold ownsQueue
    rw [decide_eq_true (by omega : n ≤ 5), Bool.true_and]
    by_cases hown : who = 96 + n
    · rw [if_pos hown, hown, beq_self_eq_true]
      rfl
    · rw [if_neg hown, beq_false_of_ne hown]
      rfl

/-- The start of a control core. -/
theorem ccpc_write {d : Nat} (hd : d < 4) : (who = 100 → exec (.registerWrite who (0xF000000000 + (0xB00040 + 8 * d)) val) s =
      .next (State.issues (s.modMg fun m => { m with ccpc := m.ccpc.set 0 d (val &&& 0xFFFFFFFFF8) }))) ∧
    (who ≠ 100 → exec (.registerWrite who (0xF000000000 + (0xB00040 + 8 * d)) val) s = .next (State.issues s)) := by
  have hat : CtlAt (0xF000000000 + (0xB00040 + 8 * d)) 0xB (0x40 + 8 * d) := ctlAt_mk (by omega) (by omega) (by omega)
  have hm : machineOnly (0xF000000000 + (0xB00040 + 8 * d)) = true := by interval_cases d <;> rfl
  refine ⟨fun h100 => registerWrite_runs hwho hat (.inr h100) ?_, fun hne => registerWrite_barred hm hne⟩
  interval_cases d <;> rfl

/-- The staged digest. -/
theorem mrx_write {i : Nat} (hi : i < 6) : (who = 100 → exec (.registerWrite who (0xF000000000 + (0xC00200 + 8 * i)) val) s =
      .next (State.issues (s.modMg fun m => { m with mrx := m.mrx.set 0 i val }))) ∧
    (who ≠ 100 → exec (.registerWrite who (0xF000000000 + (0xC00200 + 8 * i)) val) s = .next (State.issues s)) := by
  have hat : CtlAt (0xF000000000 + (0xC00200 + 8 * i)) 0xC (0x200 + 8 * i) := ctlAt_mk (by omega) (by omega) (by omega)
  have hm : machineOnly (0xF000000000 + (0xC00200 + 8 * i)) = true := by interval_cases i <;> rfl
  refine ⟨fun h100 => registerWrite_runs hwho hat (.inr h100) ?_, fun hne => registerWrite_barred hm hne⟩
  interval_cases i <;> rfl

end Register

/-! ### Release and debug (16 R414 R417) -/

section Release
variable (val : Word)

/-- A store to CCREL does to die `e` nothing that another die's core sees. -/
theorem releaseOne_other (t : State) {d e : Nat} (hne : d ≠ e) : (t.releaseOne val e).agent (96 + d) = t.agent (96 + d) ∧
    (t.releaseOne val e).die d = t.die d ∧ (t.releaseOne val e).mg = t.mg ∧ (t.releaseOne val e).mem = t.mem := by
  have hagent : ∀ a, (t.setAgent (96 + e) a).agent (96 + d) = t.agent (96 + d) := fun a => by
    rw [setAgent_agent, if_neg (by omega)]
  unfold State.releaseOne
  dsimp only
  split
  · exact ⟨hagent {}, (setDie_die ..).trans (if_neg hne), rfl, rfl⟩
  · split
    · exact ⟨hagent _, rfl, rfl, rfl⟩
    · exact ⟨rfl, rfl, rfl, rfl⟩

theorem releaseOne_others {l : List Nat} {d : Nat} (hd : d ∉ l) (t : State) :
    (l.foldl (fun t d => t.releaseOne val d) t).agent (96 + d) = t.agent (96 + d) ∧
      (l.foldl (fun t d => t.releaseOne val d) t).die d = t.die d ∧ (l.foldl (fun t d => t.releaseOne val d) t).mg = t.mg := by
  induction l generalizing t with
  | nil => exact ⟨rfl, rfl, rfl⟩
  | cons e r ih =>
    obtain ⟨h1, h2, h3, -⟩ := releaseOne_other val t (List.ne_of_not_mem_cons hd)
    obtain ⟨k1, k2, k3⟩ := ih (List.not_mem_of_not_mem_cons hd) (t.releaseOne val e)
    exact ⟨k1.trans h1, k2.trans h2, k3.trans h3⟩

theorem writeCcrel_mem (s : State) : (s.writeCcrel val).mem = s.mem := by
  unfold State.writeCcrel
  generalize List.range 4 = l
  induction l generalizing s with
  | nil => rfl
  | cons e r ih => exact (ih _).trans (releaseOne_other val s (Nat.succ_ne_self e)).2.2.2

section One
variable {val} {t : State} {d : Nat}

theorem releaseOne_go (hgo : val.getLsbD d = true) (hrst : val.getLsbD (4 + d) = false) (hoff : (t.agent (96 + d)).run = .off) :
    (t.releaseOne val d).agent (96 + d) = { t.agent (96 + d) with run := .running, pc := t.mg.startOf d } := by
  unfold State.releaseOne
  dsimp only
  rw [hrst, if_neg Bool.false_ne_true, hgo, hoff, if_pos (show (true && (Run.off == Run.off)) = true from rfl)]
  exact setAgent_agent_same ..

theorem releaseOne_rst (hrst : val.getLsbD (4 + d) = true) : (t.releaseOne val d).agent (96 + d) = {} ∧
    ((t.releaseOne val d).die d).evqhead = 0 ∧ ((t.releaseOne val d).die d).evqtail = 0 := by
  have hdie := modDie_die_same (t.setAgent (96 + d) {}) d fun x => { x with evqhead := 0, evqtail := 0 }
  unfold State.releaseOne
  dsimp only
  rw [hrst, if_pos rfl]
  exact ⟨setAgent_agent_same t (96 + d) {}, congrArg Die.evqhead hdie, congrArg Die.evqtail hdie⟩

end One

/-- A field with a bit that is set is not zero. -/
theorem bitsOf_of_bit {val : Word} {lo n i : Nat} (h : val.getLsbD i = true) (hlo : lo ≤ i) (hi : i < lo + n) : bitsOf val lo n ≠ 0 := by
  intro h0
  have hbit : (val.toNat / 2 ^ lo % 2 ^ n).testBit (i - lo) = true := by
    rw [Nat.testBit_mod_two_pow, Nat.testBit_div_two_pow, decide_eq_true (by omega : i - lo < n), Bool.true_and, Nat.sub_add_cancel hlo]
    exact h
  rw [show val.toNat / 2 ^ lo % 2 ^ n = 0 from h0, Nat.zero_testBit] at hbit
  exact absurd hbit Bool.false_ne_true

/-- What a store to CCREL does to one die's core, it does to the core as it stood. -/
theorem writeCcrel_at (s : State) {d : Nat} (hd : d < 4) : ∃ u : State, u.agent (96 + d) = s.agent (96 + d) ∧ u.mg = s.mg ∧
    (s.writeCcrel val).agent (96 + d) = (u.releaseOne val d).agent (96 + d) ∧ (s.writeCcrel val).die d = (u.releaseOne val d).die d := by
  obtain ⟨a, b, hab⟩ := List.mem_iff_append.mp (List.mem_range.mpr hd)
  have hnodup : (a ++ d :: b).Nodup := hab ▸ List.nodup_range
  have ha : d ∉ a := fun h => (List.disjoint_of_nodup_append hnodup) h List.mem_cons_self
  have hb : d ∉ b := (List.nodup_cons.mp (List.Nodup.of_append_right hnodup)).1
  obtain ⟨h1, -, h3⟩ := releaseOne_others val ha s
  unfold State.writeCcrel
  rw [hab, List.foldl_append, List.foldl_cons]
  obtain ⟨k1, k2, -⟩ := releaseOne_others val hb ((a.foldl (fun t d => t.releaseOne val d) s).releaseOne val d)
  exact ⟨_, h1, h3, k1, k2⟩

end Release

/-- Stamped tasks are doomed, whatever the cores. -/
theorem overrun_dooms (k : Core) : ∀ y, k.overrun.task = some y → y.mode.getLsbD 0 = true → y.doom = some cStamp := by
  intro y hy hstamp
  unfold Core.overrun at hy
  obtain ⟨z, -, rfl⟩ := Option.map_eq_some_iff.mp hy
  split at hstamp
  · next h => rw [if_pos h]
  · next h => exact absurd hstamp h

theorem touchClocks_frame (l : List Launch) (s : State) : (l.foldl (fun t x => t.touchClock x.num) s).mem = s.mem ∧
    (l.foldl (fun t x => t.touchClock x.num) s).cores = s.cores ∧ (l.foldl (fun t x => t.touchClock x.num) s).dbgHalt = s.dbgHalt := by
  induction l generalizing s with
  | nil => exact ⟨rfl, rfl, rfl⟩
  | cons x r ih => exact ih (s.touchClock x.num)

theorem writeDbgHalt_gives (s : State) (halt : Bool) : (s.writeDbgHalt halt).mem = s.mem ∧ (s.writeDbgHalt halt).dbgHalt = halt ∧
    (s.dbgHalt = false → halt = true → ∀ n y, ((s.writeDbgHalt halt).core n).task = some y → y.mode.getLsbD 0 = true → y.doom = some cStamp) := by
  unfold State.writeDbgHalt
  split
  · next h => exact ⟨rfl, h.symm, fun h0 h1 => absurd (h1.symm.trans (h.trans h0)) (by decide)⟩
  · dsimp only
    cases halt with
    | false =>
      obtain ⟨hmem, -, hhalt⟩ := touchClocks_frame s.launches { s with dbgHalt := false }
      exact ⟨hmem, hhalt, fun _ h => absurd h (by decide)⟩
    | true =>
      have hdoom := modAllCores_holds s Core.overrun (fun k => ∀ y, k.task = some y → y.mode.getLsbD 0 = true → y.doom = some cStamp)
        overrun_dooms nofun
      have hframe := (modAllCores_frame s Core.overrun).1
      rw [if_pos rfl]
      generalize s.modAllCores Core.overrun = u at *
      obtain ⟨hmem, hcores, hhalt⟩ := touchClocks_frame u.launches { u with dbgHalt := true }
      refine ⟨hmem.trans hframe, hhalt, fun _ _ n => ?_⟩
      have hcore : State.core (List.foldl (fun t x => t.touchClock x.num) { u with dbgHalt := true } u.launches) n = u.core n :=
        congrArg (fun m => SMap.get (α := Core) {} m n) hcores
      rw [hcore]
      exact hdoom n

/-- The measurement of an enabling (16 R417). -/
theorem writeDbgEn_measures (s : State) (en : BitVec 4) (new : Word) (h : en &&& ~~~s.dbgEn ≠ 0) : (s.writeDbgEn en new).mg.mr.get 0 7 =
    sha384 (digestBytes (s.mg.mr.get 0 7) ++ digestBytes (sha384 (toBytes new.toNat 8))) := by
  have hext := congrArg Mgmt.mr (extend_mg s 7 (sha384 (toBytes new.toNat 8)))
  unfold State.writeDbgEn
  dsimp only
  rw [if_pos h, hext]
  exact SMap.get_set_same ..

theorem dbgctlEnWrite_gives (s : State) {who : Nat} (val : Word) (h100 : who = 100) :
    ∃ t, exec (.dbgctlEnWrite who val) s = .next t ∧ t.res = .issued ∧ t.mem = s.mem ∧ t.dbgEn = val.setWidth 4 ∧
      (val.setWidth 4 &&& ~~~s.dbgEn = 0 → t.mg.mr = s.mg.mr) ∧
      (val.setWidth 4 &&& ~~~s.dbgEn ≠ 0 →
        t.mg.mr.get 0 7 = sha384 (toBytes (s.mg.mr.get 0 7).toNat 48 ++ toBytes (sha384 (toBytes (val &&& 0x10F).toNat 8)).toNat 48)) := by
  have hexec : exec (.dbgctlEnWrite who val) s = .next (State.issues (s.writeDbgEn (val.setWidth 4) (val &&& 0x10F))) :=
    congrArg (fun t => Outcome.next (State.issues t)) (if_pos h100)
  obtain ⟨hen, -, hmem, -, hsame⟩ := writeDbgEn_gives s (val.setWidth 4) (val &&& 0x10F)
  have hmeasured := writeDbgEn_measures s (val.setWidth 4) (val &&& 0x10F)
  generalize s.writeDbgEn (val.setWidth 4) (val &&& 0x10F) = u at *
  exact ⟨_, hexec, rfl, hmem, hen, fun h => congrArg Mgmt.mr (hsame h), hmeasured⟩

theorem dbgctlHaltWrite_gives (s : State) {who : Nat} (val : Word) (h100 : who = 100) :
    ∃ t, exec (.dbgctlHaltWrite who val) s = .next t ∧ t.res = .issued ∧ t.mem = s.mem ∧ t.dbgHalt = val.getLsbD 8 ∧
      (s.dbgHalt = false → val.getLsbD 8 = true →
        ∀ n y, (t.core n).task = some y → y.mode.getLsbD 0 = true → y.doom = some cStamp) := by
  have hexec : exec (.dbgctlHaltWrite who val) s = .next (State.issues (s.writeDbgHalt (val.getLsbD 8))) :=
    congrArg (fun t => Outcome.next (State.issues t)) (if_pos h100)
  exact ⟨_, hexec, rfl, writeDbgHalt_gives s (val.getLsbD 8)⟩

theorem extend_digest (s : State) (i : Nat) (x : BitVec 384) : (s.extend i x).mg.mr.get 0 i =
    sha384 (toBytes (s.mg.mr.get 0 i).toNat 48 ++ toBytes x.toNat 48) :=
  (congrArg (fun m : Mgmt => m.mr.get 0 i) (extend_mg s i x)).trans (SMap.get_set_same ..)

theorem exec_mrxgo {s u : State} {who : Nat} {val : Word} (hreach : reaches who = true) (hgo : s.writeMrxgo val = u) :
    exec (.mrxgo who val) s = .next (State.issues u) := congrArg (fun t => Outcome.next (State.issues t)) ((if_pos hreach).trans hgo)

theorem digest_of_exec {s u : State} {i : Instr} {k : Nat} {y : BitVec 384} (hexec : exec i s = .next (State.issues u)) (hmem : u.mem = s.mem)
    (hmr : u.mg.mr.get 0 k = y) : ∃ t, exec i s = .next t ∧ t.res = .issued ∧ t.mem = s.mem ∧ t.mg.mr.get 0 k = y :=
  ⟨_, hexec, rfl, hmem, hmr⟩

theorem mrxgo_gives (s : State) {who : Nat} {val : Word} (hreach : reaches who = true) (hval : val = 5 ∨ val = 6) :
    ∃ t, exec (.mrxgo who val) s = .next t ∧ t.res = .issued ∧ t.mem = s.mem ∧
      t.mg.mr.get 0 val.toNat = sha384 (toBytes (s.mg.mr.get 0 val.toNat).toNat 48 ++ toBytes s.mg.staged.toNat 48) := by
  have hexec : exec (.mrxgo who val) s = .next (State.issues (s.extend val.toNat s.mg.staged)) :=
    exec_mrxgo hreach (if_pos (by simpa using hval))
  exact digest_of_exec hexec (extend_rest s val.toNat s.mg.staged).2.1 (extend_digest s val.toNat s.mg.staged)

/-- WDOG keeps its value where the new one is out of range. -/
theorem wdog_write (s : State) (val : Word) : (s.writeLaunchReg 0x18 val).mem = s.mem ∧
    (s.writeLaunchReg 0x18 val).wdog = if bitsOf val 0 30 = 0 ∨ 1000000 < bitsOf val 0 30 then s.wdog else bitsOf val 0 30 := by
  by_cases h : bitsOf val 0 30 = 0 ∨ 1000000 < bitsOf val 0 30
  · have hkeep : s.writeLaunchReg 0x18 val = s := if_pos (by simpa using h)
    rw [hkeep, if_pos h]
    exact ⟨rfl, rfl⟩
  · have hput : s.writeLaunchReg 0x18 val = { s with wdog := bitsOf val 0 30 } := if_neg (by simpa using h)
    rw [hput, if_neg h]
    exact ⟨rfl, rfl⟩

/-! ### The event log and the digests (16 R418 R420) -/

theorem logBytes_parts (time src code : Nat) (w2 w3 : Word) : (logBytes time src code w2 w3).length = 32 ∧
    (logBytes time src code w2 w3).take 8 = toBytes (src + 256 * code) 8 ∧ ((logBytes time src code w2 w3).drop 16).take 8 = toBytes w2.toNat 8 := by
  have hlen : ∀ x, (toBytes x 8).length = 8 := fun x => toBytes_length x 8
  unfold logBytes
  refine ⟨by simp [hlen], ?_, ?_⟩
  · rw [List.append_assoc, List.append_assoc, List.take_left' (hlen _)]
  · rw [List.append_assoc, List.drop_left' (by simp [hlen]), List.take_left' (hlen _)]

/-- ELPUSH is one entry of the staged words. -/
theorem writeElpush_gives (s : State) : s.writeElpush.mem = s.mem ∧ s.writeElpush.elTail = s.elTail + 1 ∧
    bytesAt s.writeElpush.elRing (32 * (s.elTail.toNat % 256)) 8 = toBytes (s.elW.get 0 0).toNat 8 ∧
    bytesAt s.writeElpush.elRing (32 * (s.elTail.toNat % 256) + 16) 8 = toBytes (s.elW.get 0 2).toNat 8 ∧
    ((s.elTail - s.elHead).toNat < 256 → s.writeElpush.elHead = s.elHead ∧ s.writeElpush.elLost = s.elLost) ∧
    (256 ≤ (s.elTail - s.elHead).toNat → s.writeElpush.elHead = s.elHead + 1) := by
  let w0 := (s.elW.get 0 0).toNat
  obtain ⟨hlen, h0, h2⟩ := logBytes_parts s.now (w0 % 256) (w0 / 256) (s.elW.get 0 2) (s.elW.get 0 3)
  have hring : s.writeElpush.elRing = putBytes s.elRing (32 * (s.elTail.toNat % 256))
      (logBytes s.now (w0 % 256) (w0 / 256) (s.elW.get 0 2) (s.elW.get 0 3)) := rfl
  generalize logBytes s.now (w0 % 256) (w0 / 256) (s.elW.get 0 2) (s.elW.get 0 3) = bs at *
  refine ⟨rfl, rfl, ?_, ?_, fun h => ?_, fun h => ?_⟩
  · have hw := bytesAt_putBytes_within s.elRing (32 * (s.elTail.toNat % 256)) bs (k := 0) (n := 8) (by omega)
    rw [hring]
    exact hw.trans (h0.trans (by rw [Nat.mod_add_div]))
  · rw [hring, bytesAt_putBytes_within _ _ _ (by omega), h2]
  · have hfree : decide (256 ≤ (s.elTail - s.elHead).toNat) = false := decide_eq_false (Nat.not_le.mpr h)
    unfold State.writeElpush State.logPost
    dsimp only
    rw [hfree]
    exact ⟨rfl, rfl⟩
  · have hfull : decide (256 ≤ (s.elTail - s.elHead).toNat) = true := decide_eq_true h
    unfold State.writeElpush State.logPost
    dsimp only
    rw [hfull]
    rfl

/-! ### GO (08 R234) -/

section Go
variable {s : State} {n : Nat} {val : Word}

theorem area_none {x : RegSet} (h : x.qw.get 0 3 = 0) : x.area = none := by
  unfold RegSet.area
  dsimp only
  rw [h]
  rfl

theorem modRegset_same (t : State) (n : Nat) (f : RegSet → RegSet) : (t.modRegset n f).regset n = f (t.regset n) := SMap.get_set_same ..

/-- The end of a GO without a place for its result. -/
theorem goEnd_gives {t : State} {x : RegSet} (hx : t.regset n = x) (h3 : x.qw.get 0 3 = 0) (r : Nat) : (t.goEnd n val r).mem = t.mem ∧
    (t.goEnd n val r).regset n = { x with
      pres := 0, seq := val.setWidth 16, result := BitVec.ofNat 4 r
      refused := if r = 2 || r = 3 then (if x.refused = 0xFFFF then x.refused else x.refused + 1) else x.refused } := by
  subst hx
  unfold State.goEnd
  dsimp only
  rw [modRegset_same, area_none (x := { t.regset n with pres := 0, seq := _, result := _, refused := _ }) h3]
  exact ⟨rfl, modRegset_same ..⟩

variable (h3 : (s.regset n).qw.get 0 3 = 0)
include h3

theorem areaHeld_none : s.areaHeld n = false := by
  unfold State.areaHeld
  rw [area_none h3]
  rfl

omit h3 in
theorem exec_go (hn : n ≤ 5) {t : State} (hgo : s.go n val = some t) : exec (.go (96 + n) n val) s = .next (State.issues t) := by
  have howns : ownsQueue (96 + n) n = true := by simp [ownsQueue, hn]
  refine congrArg (fun t => Outcome.next (State.issues t)) ((if_pos howns).trans ?_)
  rw [hgo]
  rfl

theorem go_absent (hpres : (s.regset n).pres ≠ 0xF) : s.go n val = some (s.goEnd n val 2) := by
  unfold State.go
  dsimp only
  rw [areaHeld_none h3, if_neg Bool.false_ne_true, if_pos hpres]

theorem go_malformed (hpres : (s.regset n).pres = 0xF) (hform : (s.regset n).wellFormed = false) : s.go n val = some (s.goEnd n val 3) := by
  unfold State.go
  dsimp only
  rw [areaHeld_none h3, if_neg Bool.false_ne_true, if_neg (not_not.mpr hpres), hform]
  rfl

theorem go_offers (hpres : (s.regset n).pres = 0xF) (hform : (s.regset n).wellFormed = true) (hq : bitsOf ((s.regset n).qw.get 0 0) 0 4 ≠ 4)
    {u v : State} {bs : List Byte} {taken : Bool}
    (hread : s.readMem { agent := setCaller n, ctx := none, unit := decide (5 ≤ n) } .read ((s.regset n).qw.get 0 1).toNat 64 = .ok u bs)
    (hoffer : u.goOffer n (recOf bs) = (v, taken)) : s.go n val = some (v.goEnd n val (if taken then 0 else 1)) := by
  have hplain : ¬ (decide (bitsOf ((s.regset n).qw.get 0 0) 0 4 = 4) && fcOrd (recOf bs) && !u.pt.sync) = true := by
    rw [decide_eq_false hq]
    simp
  unfold State.go
  dsimp only
  rw [areaHeld_none h3, if_neg Bool.false_ne_true, if_neg (not_not.mpr hpres), hform, hread]
  dsimp only
  rw [if_neg hplain, hoffer]
  rfl

end Go

/-- Settles O52: each register by the lemma on the stores of its block, and the commands by the functions that perform them. -/
theorem controlSpace : Obligations.ControlSpace := by
  unfold Obligations.ControlSpace
  intro s who val hwho result store ignored
  have hreach : reaches who = true := by simp [reaches, hwho.1, hwho.2]
  refine ⟨fun n hn => ?_, ?_, ?_, fun c hc => ?_, fun c hc => ?_, fun d hd => ?_, fun d hd h6 h20 => ?_, fun d hd hsaved => ?_,
    fun n k hn hk => ?_, fun d hd => ?_, fun i hi => ?_, ?_, ?_, ?_, ?_, fun d hd => ?_, fun h100 => ?_, fun hne => ?_, ?_,
    fun hval => ?_, fun h5 h6 => ?_⟩
  · have hat : CtlAt (0xF000000000 + (0x500000 + 0x10 * n)) 5 (0x10 * n) := ctlAt_mk (by omega) (by omega) (by omega)
    have hset : (s.writeCtxroot n val).ctxroot.get 0 n = val &&& 0xFFFFFFF801 := SMap.get_set_same ..
    refine ⟨_, ctxroot_write hwho hat rfl hn, rfl, rfl, hset, ?_⟩
    rw [ctlRead_ctxroot hat rfl hn]
    exact congrArg some hset
  · exact ⟨_, launchReg_write hwho (off := 0) (ctlAt_mk rfl (by decide) rfl) rfl, rfl, rfl, rfl, rfl⟩
  · refine ⟨_, launchReg_write hwho (off := 0x18) (ctlAt_mk rfl (by decide) rfl) rfl, rfl, ?_⟩
    exact wdog_write s val
  · have hat : CtlAt (0xF000000000 + (0x1000 * c + 0x28)) 0 (0x1000 * c + 0x28) := ctlAt_mk (by omega) (by omega) (by omega)
    exact ⟨_, coreReg_write hwho hat rfl (by decide) hc (by decide) rfl, rfl, rfl,
      modCoreAt_core_same s c fun k => { k with hintcnt := val.setWidth 32 }⟩
  · have hat : CtlAt (0xF000000000 + (0x1000 * c + 0x08)) 0 (0x1000 * c + 0x08) := ctlAt_mk (by omega) (by omega) (by omega)
    exact ⟨_, coreReg_write hwho hat rfl (by decide) hc (by decide) rfl, rfl, rfl,
      modCoreAt_core_same s c fun k => { k with tallow := val.setWidth 8 }⟩
  · have hat : CtlAt (0xF000000000 + (0x710000 + 0x100 * d)) 7 (0x10000 + 0x100 * d + 0) := ctlAt_mk (by omega) (by omega) (by omega)
    have hexec := dieReg_write (s := s) (val := val) hwho hat hd (.inl rfl)
    rw [show s.writeDieReg d 0 val = s.modDie d (fun x => { x with evAddr := BitVec.ofNat 28 (bitsOf val 12 28), evEn := val.getLsbD 0 }) from rfl] at hexec
    exact ⟨_, hexec, rfl, rfl, modDie_die_same s d fun x => { x with evAddr := BitVec.ofNat 28 (bitsOf val 12 28), evEn := val.getLsbD 0 }⟩
  · have hat : CtlAt (0xF000000000 + (0x710008 + 0x100 * d)) 7 (0x10000 + 0x100 * d + 8) := ctlAt_mk (by omega) (by omega) (by omega)
    have hexec := dieReg_write (s := s) (val := val) hwho hat hd (.inr (.inl rfl))
    have hfit : ¬ (decide (bitsOf val 0 5 < 6) || decide (20 < bitsOf val 0 5)) = true := by simp; omega
    rw [show s.writeDieReg d 8 val = s.modDie d (fun x => { x with evLog2 := bitsOf val 0 5 }) from if_neg hfit] at hexec
    exact ⟨_, hexec, rfl, rfl, modDie_die_same s d fun x => { x with evLog2 := bitsOf val 0 5 }⟩
  · have hat : CtlAt (0xF000000000 + (0x710020 + 0x100 * d)) 7 (0x10000 + 0x100 * d + 0x20) := ctlAt_mk (by omega) (by omega) (by omega)
    have hexec := dieReg_write (s := s) (val := val) hwho hat hd (.inr (.inr rfl))
    rw [show s.writeDieReg d 0x20 val = s.modDie d (fun x => { x with saveCnt := val.setWidth 8 }) from
      if_pos (show (s.die d).saved.isEmpty = true by rw [hsaved]; rfl)] at hexec
    exact ⟨_, hexec, rfl, rfl, modDie_die_same s d fun x => { x with saveCnt := val.setWidth 8 }⟩
  · have hexec := regset_write (s := s) (val := val) hwho (pa := 0xF000000000 + (0x400000 + 0x100 * n + 8 * k))
      (ctlAt_mk (by omega) (by omega) (by omega)) rfl (by omega : n < 6) hk
    refine ⟨fun hown => ?_, fun hother => ?_⟩
    · rw [if_pos hown] at hexec
      have hset := modRegset_same s n fun x => x.putQw k val
      exact ⟨_, hexec, rfl, rfl, (congrArg (fun x : RegSet => x.qw.get 0 k) hset).trans (SMap.get_set_same ..), congrArg RegSet.pres hset⟩
    · rw [if_neg hother] at hexec
      exact hexec
  · obtain ⟨hself, hother⟩ := ccpc_write (s := s) (val := val) hwho hd
    exact ⟨fun h100 => ⟨_, hself h100, rfl, rfl, SMap.get_set_same ..⟩, hother⟩
  · obtain ⟨hself, hother⟩ := mrx_write (s := s) (val := val) hwho hi
    exact ⟨fun h100 => ⟨_, hself h100, rfl, rfl, SMap.get_set_same ..⟩, hother⟩
  · exact registerWrite_absent hwho (b := 0xE) (off := 0) (ctlAt_mk rfl (by decide) rfl) rfl rfl
  · exact registerWrite_runs hwho (b := 3) (off := 8) (ctlAt_mk rfl (by decide) rfl) (.inl rfl) rfl
  · exact registerWrite_runs hwho (b := 0xC) (off := 0) (ctlAt_mk rfl (by decide) rfl) (.inl rfl) rfl
  · intro n hn x counted h3
    refine ⟨fun hpres => ?_, fun hpres hform => ?_, fun u v bs taken hpres hform hq hread hoffer hsets => ?_⟩
    · obtain ⟨hmem, hset⟩ := goEnd_gives (val := val) (t := s) (x := x) rfl h3 2
      exact ⟨_, exec_go hn (go_absent h3 hpres), rfl, hmem, hset⟩
    · obtain ⟨hmem, hset⟩ := goEnd_gives (val := val) (t := s) (x := x) rfl h3 3
      exact ⟨_, exec_go hn (go_malformed h3 hpres hform), rfl, hmem, hset⟩
    · have hsame : v.regset n = x := congrArg (fun m => SMap.get (α := RegSet) {} m n) hsets
      obtain ⟨hmem, hset⟩ := goEnd_gives (val := val) hsame h3 (if taken then 0 else 1)
      refine ⟨_, exec_go hn (go_offers h3 hpres hform hq hread hoffer), rfl, hmem, hset.trans ?_⟩
      cases taken <;> rfl
  · obtain ⟨u, hagent, hmg, hrel, hreldie⟩ := writeCcrel_at val s hd
    refine ⟨fun hgo hrst hoff => ?_, fun hrst => ?_⟩
    · have hany : (reaches who && decide (bitsOf val 0 4 ≠ 0)) = true := by
        rw [hreach, Bool.true_and]
        exact decide_eq_true (bitsOf_of_bit hgo (by omega) (by omega))
      refine ⟨_, congrArg (fun t => Outcome.next (State.issues t)) (if_pos hany), rfl, writeCcrel_mem val s, hrel.trans ?_⟩
      rw [releaseOne_go hgo hrst (by rw [hagent]; exact hoff), hagent, hmg]
      rfl
    · have hany : (reaches who && decide (bitsOf val 4 4 ≠ 0)) = true := by
        rw [hreach, Bool.true_and]
        exact decide_eq_true (bitsOf_of_bit hrst (by omega) (by omega))
      obtain ⟨h1, h2, h3⟩ := releaseOne_rst (t := u) hrst
      refine ⟨_, congrArg (fun t => Outcome.next (State.issues t)) (if_pos hany), rfl, writeCcrel_mem val s, hrel.trans h1,
        (congrArg Die.evqhead hreldie).trans h2, (congrArg Die.evqtail hreldie).trans h3⟩
  · exact ⟨dbgctlEnWrite_gives s val h100, dbgctlHaltWrite_gives s val h100⟩
  · exact ⟨congrArg (fun t => Outcome.next (State.issues t)) (if_neg hne), congrArg (fun t => Outcome.next (State.issues t)) (if_neg hne)⟩
  · obtain ⟨hmem, hrest⟩ := writeElpush_gives s
    exact ⟨_, congrArg (fun t => Outcome.next (State.issues t)) (if_pos hreach), rfl, hmem, hrest⟩
  · exact mrxgo_gives s hreach hval
  · have hgo : s.writeMrxgo val = s := if_neg (by simpa using ⟨h5, h6⟩)
    exact exec_mrxgo hreach hgo

end Sys2Proof.Machine

/-! LEMMAS and PROOF of O59: what loads and stores leave unchanged (07 R166 to R172). -/

namespace Sys2Proof.Machine

open Host (Outcome)

/-! ### Registers, links and other agents that are kept -/

/-- Of the registers, links and loop levels of an agent nothing changes but the registers of `l`. -/
def Agent.Keeps (a b : Agent) (l : List RegId) : Prop :=
  (∀ r, r ∉ l → b.regs.read r = a.regs.read r ∧ b.regs.isEmpty r = a.regs.isEmpty r) ∧ b.regs.b = a.regs.b ∧ b.links = a.links ∧ b.loops = a.loops

theorem agentKeeps_of_regs {a b : Agent} {l : List RegId} (hregs : b.regs = a.regs) (hlinks : b.links = a.links) (hloops : b.loops = a.loops) :
    a.Keeps b l := by
  refine ⟨fun r _ => ?_, ?_, hlinks, hloops⟩ <;> rw [hregs]
  exact ⟨rfl, rfl⟩

/-- An empty mark on registers of `l`. -/
theorem marks_keep (g : Regs) (l : List RegId) : (∀ r, r ∉ l → (l.foldl Regs.mark g).read r = g.read r ∧
    (l.foldl Regs.mark g).isEmpty r = g.isEmpty r) ∧ (l.foldl Regs.mark g).b = g.b := by
  induction l generalizing g with
  | nil => exact ⟨fun _ _ => ⟨rfl, rfl⟩, rfl⟩
  | cons d l ih =>
    obtain ⟨h1, h2⟩ := ih (g.mark d)
    refine ⟨fun r hr => ?_, h2.trans (mark_b g d)⟩
    have hd : r ≠ d := List.ne_of_not_mem_cons hr
    have hl : r ∉ l := List.not_mem_of_not_mem_cons hr
    obtain ⟨k1, k2⟩ := mark_frame g d (q := r) fun hin => hd (List.mem_singleton.mp (List.mem_of_mem_filter hin))
    exact ⟨(h1 r hl).1.trans k1, (h1 r hl).2.trans k2⟩

/-- What an access of the acting agent may change of agents: the registers of `l`, and what waits. -/
structure State.Keeps (s t : State) (l : List RegId) : Prop where
  cur : t.cur = s.cur
  mine : s.me.Keeps t.me l
  others : ∀ n, n ≠ s.cur → t.agent n = s.agent n

theorem State.Keeps.trans {s t u : State} {l : List RegId} (h : s.Keeps t l) (k : t.Keeps u l) : s.Keeps u l := by
  obtain ⟨hregs, hb, hlinks, hloops⟩ := h.mine
  obtain ⟨kregs, kb, klinks, kloops⟩ := k.mine
  refine ⟨k.cur.trans h.cur, ⟨fun r hr => ?_, kb.trans hb, klinks.trans hlinks, kloops.trans hloops⟩, fun n hn => ?_⟩
  · exact ⟨(kregs r hr).1.trans (hregs r hr).1, (kregs r hr).2.trans (hregs r hr).2⟩
  · exact (k.others n (by rw [h.cur]; exact hn)).trans (h.others n hn)

theorem keeps_of_agents {s t : State} {l : List RegId} (hcur : t.cur = s.cur) (hagents : t.agents = s.agents) : s.Keeps t l := by
  have hall : ∀ n, t.agent n = s.agent n := agent_of_agents hagents
  have hme : t.me = s.me := (congrArg t.agent hcur).trans (hall s.cur)
  exact ⟨hcur, agentKeeps_of_regs (by rw [hme]) (by rw [hme]) (by rw [hme]), fun n _ => hall n⟩

theorem keeps_modMe {s : State} {f : Agent → Agent} {l : List RegId} (h : s.me.Keeps (f s.me) l) : s.Keeps (s.modMe f) l :=
  ⟨rfl, by rw [modMe_me]; exact h, fun n hn => (setAgent_agent ..).trans (if_neg hn)⟩

/-- A load: registers, and no memory. -/
def State.Loads (s t : State) (l : List RegId) : Prop := s.Keeps t l ∧ t.mem = s.mem

theorem State.Loads.trans {s t u : State} {l : List RegId} (h : s.Loads t l) (k : t.Loads u l) : s.Loads u l :=
  ⟨h.1.trans k.1, k.2.trans h.2⟩

theorem loads_of_agents {s t : State} {l : List RegId} (hcur : t.cur = s.cur) (hagents : t.agents = s.agents) (hmem : t.mem = s.mem) :
    s.Loads t l := ⟨keeps_of_agents hcur hagents, hmem⟩

theorem loads_refl (s : State) (l : List RegId) : s.Loads s l := loads_of_agents rfl rfl rfl

theorem loads_modMe {s : State} {f : Agent → Agent} {l : List RegId} (h : s.me.Keeps (f s.me) l) : s.Loads (s.modMe f) l := ⟨keeps_modMe h, rfl⟩

theorem loads_looked {s t : State} {l : List RegId} (h : Looked s t) : s.Loads t l := by
  refine loads_of_agents ?_ h.agents h.mem
  rw [h.only]

theorem loads_tileLooked {s t : State} {l : List RegId} (h : s.TileLooked t) : s.Loads t l := by
  refine loads_of_agents ?_ ?_ h.mem <;> rw [h.only]

/-! ### What the parts of an access do -/

section Parts
variable (s : State) (l : List RegId)

theorem loads_modCoreAt (n : Nat) (f : Core → Core) : s.Loads (s.modCoreAt n f) l := loads_of_agents rfl rfl rfl

theorem loads_countOnce (n : Nat) (h : BitVec 2) (old : BitVec 32) (attrs : List Nat) : s.Loads (s.countOnce n h old attrs) l := by
  unfold State.countOnce
  split
  · exact loads_modCoreAt ..
  · exact loads_refl ..

theorem loads_uncount (n : Nat) (old : BitVec 32) : s.Loads (s.uncount n old) l := by
  unfold State.uncount
  split
  · exact loads_refl ..
  · exact loads_modCoreAt ..

theorem loads_cacheLoad (i : Issuer) (va pa attr : Nat) (h : BitVec 2) : s.Loads (s.cacheLoad i va pa attr h) l :=
  loads_tileLooked (tileLooked_cacheLoad ..)

theorem loads_cacheStore (i : Issuer) (va pa attr : Nat) (h : BitVec 2) : s.Loads (s.cacheStore i va pa attr h) l := by
  unfold State.cacheStore
  split
  · exact loads_tileLooked (tileLooked_dropCopies ..)
  · exact loads_refl ..

theorem loads_logAccess (what : LogOp) (h : BitVec 2) : s.Loads (s.logAccess what h) l := loads_of_agents rfl rfl rfl

theorem loads_storeSink : s.Loads s.storeSink l := by
  unfold State.storeSink
  split <;> exact loads_of_agents rfl rfl rfl

theorem loads_overrunNext : s.Loads s.overrunNext l := loads_of_agents rfl rfl rfl

theorem loads_noteStore (pa n : Nat) : s.Loads (s.noteStore pa n) l := by
  rw [noteStore_only]
  exact loads_of_agents rfl rfl rfl

theorem loads_deferMe (code : BitVec 8) (a : Nat) : s.Loads (s.deferMe code a) l := loads_modMe (agentKeeps_of_regs rfl rfl rfl)

theorem loads_late : s.Loads (s.late l) l := by
  unfold State.late
  split
  · exact loads_overrunNext ..
  · obtain ⟨h1, h2⟩ := marks_keep s.me.regs l
    exact loads_modMe ⟨h1, h2, rfl, rfl⟩

theorem loads_pendOn (i : Instr) (page : Option (Nat × Nat)) : s.Loads (s.pendOn i page l) l := by
  unfold State.pendOn
  split
  · exact loads_late ..
  · obtain ⟨h1, h2⟩ := marks_keep s.me.regs l
    exact loads_modMe ⟨h1, h2, rfl, rfl⟩

theorem loads_produceLoad (reg : RegId) (x : RegVal) (due : Option Nat) : s.Loads (s.produceLoad reg x due) [reg] := by
  obtain ⟨h1, h2⟩ := marks_keep s.me.regs [reg]
  exact loads_modMe ⟨h1, h2, rfl, rfl⟩

theorem loads_produce (reg : RegId) (x : RegVal) (f : Flags) (lat : Nat) : s.Loads (s.produce reg x f lat) [reg] := by
  obtain ⟨⟨honly, hothers⟩, ⟨hme, hb, hregs⟩, hmem, -⟩ := produce_frame s reg x f lat
  refine ⟨⟨by rw [honly], ⟨fun r hr => hregs r fun hin => hr (List.mem_of_mem_filter hin), hb, by rw [hme], by rw [hme]⟩,
    fun n hn => (hothers n hn).1⟩, hmem⟩

theorem loads_undo (t : State) : s.Loads (s.undo t) l := loads_of_agents rfl rfl rfl

/-- Reads in turn. -/
theorem loads_readEach {α β : Type} {f : State → α → Acc β} (hf : ∀ (t : State) x, t.Loads (f t x).state l) (xs : List α) :
    s.Loads (readEach s xs f).state l :=
  readEach_keeps (fun t => s.Loads t l) xs f (fun t x ht => ht.trans (hf t x)) s (loads_refl s l)

theorem loads_loadElems (h : BitVec 2) (n : Nat) (as : List Nat) : s.Loads (s.loadElems h n as).state l := by
  unfold State.loadElems
  refine loads_readEach s l (fun t a => ?_) as
  have hreach : t.Loads (t.reach t.issuer .read a n).state l := loads_looked (looked_reach ..)
  cases hr : t.reach t.issuer .read a n with
  | ok u p =>
    rw [hr] at hreach
    exact hreach.trans ((loads_countOnce u l _ _ _ _).trans (loads_cacheLoad _ l _ _ _ _ _))
  | wait u p => rw [hr] at hreach; exact hreach
  | fail u c x => rw [hr] at hreach; exact hreach

theorem loads_fillLine (n a : Nat) : s.Loads (s.fillLine n a).state l := by
  unfold State.fillLine
  split
  · exact loads_refl ..
  · dsimp only
    split
    · exact loads_refl ..
    · split
      · exact (loads_modCoreAt s l n _).trans (loads_noteStore ..)
      · exact loads_refl ..
      · next i r _ _ _ _ =>
        have hread : s.Loads (s.readMem { agent := n, ctx := some (((s.core n).task.map (·.ctx)).getD 0) } .read
          (r.gbase + 128 * ((a - r.base) / 128)) 128).state l := loads_looked (looked_readMem ..)
        split
        · next heq =>
          rw [heq] at hread
          exact hread.trans ((loads_modCoreAt _ l n _).trans (loads_noteStore ..))
        · next heq =>
          rw [heq] at hread
          exact hread
        · next heq =>
          rw [heq] at hread
          exact hread

theorem loads_fillLines (n : Nat) (as : List Nat) : s.Loads (s.fillLines n as).state l := by
  induction as generalizing s with
  | nil => exact loads_refl ..
  | cons a r ih =>
    have hone := loads_fillLine s l n a
    unfold State.fillLines
    cases hf : s.fillLine n a <;> rw [hf] at hone
    · exact hone.trans (ih _)
    · exact hone
    · exact hone

theorem loads_putLocal (es : List (Nat × List Byte)) : s.Loads (s.putLocal es) l := by
  unfold State.putLocal
  induction es generalizing s with
  | nil => exact loads_refl ..
  | cons e r ih =>
    have hput : s.Loads (s.modCore fun k => (k.putPad e.1 e.2).dirtyLine e.1) l := loads_of_agents rfl rfl rfl
    rw [List.foldl_cons]
    exact (hput.trans (loads_noteStore _ l _ _)).trans (ih _)

end Parts

/-- An effect that takes place keeps all but the registers of `l`. -/
structure State.Ends (s : State) (l : List RegId) (e : Eff) : Prop where
  done : ∀ u, e = .done u → s.Loads u l

section Ends
variable {s : State} {l : List RegId}

theorem ends_done {u : State} (h : s.Loads u l) : s.Ends l (.done u) := ⟨fun _ hu => Eff.done.inj hu ▸ h⟩

theorem ends_raise (u : State) (code : BitVec 8) (a : Word) : s.Ends l (.raise u code a) := ⟨fun _ h => Eff.noConfusion h⟩

theorem ends_hold (u : State) (g : Nat) : s.Ends l (.hold u g) := ⟨fun _ h => Eff.noConfusion h⟩

/-- An instruction whose body keeps all but `l` keeps it when it issues. -/
theorem loads_issue {c : Ctl} {f : Form} {e : Eff} (he : s.Ends l e) {t : State} (h : issue s c f e = .next t) (ht : t.res = .issued) :
    s.Loads t l := by
  obtain rfl | ⟨u, hu, rfl⟩ := issue_issued h ht
  · exact loads_of_agents rfl rfl rfl
  · exact (he.done u hu).trans (loads_of_agents rfl rfl rfl)

/-! ### Loads (07 R169 to R172) -/

theorem loadTask_ends (i : Instr) (h : BitVec 2) (reg : RegId) (n : Nat) (as : List Nat) (val : List (List Byte) → RegVal) :
    s.Ends [reg] (s.loadTask i h reg n as val) := by
  unfold State.loadTask
  split
  · exact ends_done (loads_produce ..)
  · exact ends_done (loads_pendOn ..)
  · have hload := loads_loadElems s [reg] h n as
    cases hl : s.loadElems h n as <;> rw [hl] at hload <;> dsimp only
    · split
      · exact ends_done (hload.trans (loads_late ..))
      · exact ends_done (hload.trans (loads_produceLoad ..))
    · exact ends_done (hload.trans ((loads_uncount ..).trans (loads_pendOn ..)))
    · exact ends_done (hload.trans (loads_deferMe ..))

theorem physFault_ends (t : State) (h : s.Loads t l) (code : BitVec 8) (a : Nat) : s.Ends l (t.physFault code a) := by
  unfold State.physFault
  split
  · exact ends_done (h.trans (loads_deferMe ..))
  · exact ends_raise ..

theorem loads_bind {α β : Type} {r : Acc α} {f : State → α → Acc β} (h : s.Loads r.state l) (hf : ∀ (t : State) x, t.Loads (f t x).state l) :
    s.Loads (r.bind f).state l := by
  cases r with
  | ok t x => exact h.trans (hf t x)
  | wait t p => exact h
  | fail t c x => exact h

theorem loads_physLoad (h : BitVec 2) (a n : Nat) : s.Loads (s.physLoad h a n).state l := by
  have hreach : s.Loads ((s.reach s.issuer .read a n).bind fun t p =>
      .ok (t.cacheLoad t.issuer a p.1 p.2 h) (t.physBytes p.1 n)).state l :=
    loads_bind (loads_looked (looked_reach ..)) fun t p => loads_cacheLoad t l t.issuer a p.1 p.2 h
  have hread : s.Loads (s.readMem s.issuer .read a n).state l := loads_looked (looked_readMem ..)
  unfold State.physLoad
  generalize s.ctlRead a = w
  generalize placeOf a = p
  cases p with
  | control =>
    cases w with
    | none => exact loads_refl s l
    | some x =>
      by_cases hn : n = 8
      · dsimp only
        rw [if_pos hn]
        exact loads_refl s l
      · dsimp only
        rw [if_neg hn]
        exact loads_refl s l
  | sram =>
    dsimp only
    split
    · exact loads_refl s l
    · exact hread
  | hbm => exact hreach
  | window c o => exact hreach
  | rom o => exact hreach
  | nowhere => exact hreach

theorem bodyLd_ends (i : Instr) (c : Ctl) (t : Ty) (d a : BitVec 6) (disp : BitVec 18) : s.Ends [.s d.toNat] (s.bodyLd i c t d a disp) := by
  have hload := loads_physLoad (s := s) (l := [.s d.toNat]) c.ch (dispAddr s a disp).toNat (elemBytes t)
  unfold State.bodyLd
  dsimp only
  split
  · exact ends_raise ..
  · split
    · exact loadTask_ends ..
    all_goals
      cases hl : s.physLoad c.ch (dispAddr s a disp).toNat (elemBytes t) <;> rw [hl] at hload <;> dsimp only
      · exact ends_done (hload.trans (loads_produceLoad ..))
      · exact ends_done (hload.trans (loads_pendOn ..))
      · exact physFault_ends _ hload _ _

theorem bodyVload_ends (i : Instr) (c : Ctl) (t : Ty) (d : BitVec 6) (addr : Nat → Word) : s.Ends [.v d.toNat] (s.bodyVload i c t d addr) := by
  unfold State.bodyVload
  dsimp only
  split
  · exact ends_raise ..
  · exact loadTask_ends ..

theorem localLoad_ends (i : Instr) (reg : RegId) (lat n : Nat) (as : List Nat) (val : List (List Byte) → RegVal) :
    s.Ends [reg] (s.localLoad i reg lat n as val) := by
  have hfill := loads_fillLines s [reg] s.cur as
  unfold State.localLoad
  split
  · exact ends_hold ..
  · split
    · exact ends_done (loads_pendOn ..)
    · cases hf : s.fillLines s.cur as with
      | wait t p =>
        rw [hf] at hfill
        exact ends_done (hfill.trans (loads_pendOn ..))
      | fail t code x =>
        rw [hf] at hfill
        exact ends_done (hfill.trans (loads_deferMe ..))
      | ok t y =>
        rw [hf] at hfill
        dsimp only
        split
        · exact ends_done (hfill.trans (loads_late ..))
        · split
          · next a _ =>
            have hloss : t.Loads (t.recordLoss t.issuer (windowAddr t.cur ((t.myCore.badWord .pad a n).getD a))).state [reg] :=
              loads_looked (looked_recordLoss ..)
            cases hr : t.recordLoss t.issuer (windowAddr t.cur ((t.myCore.badWord .pad a n).getD a)) <;> rw [hr] at hloss
            · exact ends_done (hfill.trans (hloss.trans (loads_deferMe ..)))
            · exact ends_done (hfill.trans (hloss.trans (loads_pendOn ..)))
            · exact ends_done (hfill.trans (hloss.trans (loads_pendOn ..)))
          · exact ends_done (hfill.trans (loads_produce ..))

theorem bodyLdl_ends (i : Instr) (t : Ty) (d a : BitVec 6) (disp : BitVec 18) : s.Ends [.s d.toNat] (s.bodyLdl i t d a disp) := by
  unfold State.bodyLdl
  dsimp only
  split
  · exact ends_raise ..
  · exact localLoad_ends ..

theorem bodyVloadl_ends (i : Instr) (c : Ctl) (t : Ty) (d : BitVec 6) (lat : Nat) (addr : Nat → Word) :
    s.Ends [.v d.toNat] (s.bodyVloadl i c t d lat addr) := by
  unfold State.bodyVloadl
  dsimp only
  split
  · exact ends_raise ..
  · exact localLoad_ends ..

theorem bodyGather_ends (i : Instr) (c : Ctl) (t : Ty) (b : Bool) (d : BitVec 6) (addr : Nat → Word) :
    s.Ends [.v d.toNat] (s.bodyGather i c t b d addr) := by
  cases b
  · exact bodyVload_ends ..
  · exact bodyVloadl_ends ..

/-! ### Stores to the scratchpad (07 R172 R185) -/

theorem localStore_ends (i : Instr) (n : Nat) (es : List (Nat × List Byte)) : s.Ends [] (s.localStore i n es) := by
  have hfill := loads_fillLines s [] s.cur (es.map (·.1))
  unfold State.localStore
  dsimp only
  split
  · exact ends_done (loads_refl ..)
  · split
    · exact ends_hold ..
    · split
      · exact ends_done (loads_pendOn ..)
      · cases hf : s.fillLines s.cur (es.map (·.1)) <;> rw [hf] at hfill <;> dsimp only
        · exact ends_done (hfill.trans ((loads_putLocal ..).trans (loads_storeSink ..)))
        · exact ends_done (hfill.trans (loads_pendOn ..))
        · split
          · exact ends_done (hfill.trans (loads_deferMe ..))
          · exact ends_done (hfill.trans (((loads_putLocal ..).trans (loads_storeSink ..)).trans (loads_deferMe ..)))

theorem bodyStl_ends (i : Instr) (t : Ty) (d a : BitVec 6) (disp : BitVec 18) : s.Ends [] (s.bodyStl i t d a disp) := by
  unfold State.bodyStl
  dsimp only
  split
  · exact ends_raise ..
  · exact localStore_ends ..

theorem bodyVstorel_ends (i : Instr) (c : Ctl) (t : Ty) (d : BitVec 6) (addr : Nat → Word) : s.Ends [] (s.bodyVstorel i c t d addr) := by
  unfold State.bodyVstorel
  dsimp only
  split
  · exact ends_raise ..
  · exact localStore_ends ..

end Ends

/-! ### Stores to global memory (07 R167 to R171) -/

/-- A byte that none of some places holds. -/
def Outside (x : Nat) (ps : List (Nat × Nat)) : Prop := ∀ p ∈ ps, x < p.1 ∨ p.1 + p.2 ≤ x

/-- A store: no register, and bytes of `ps` alone. -/
def State.Puts (s t : State) (ps : List (Nat × Nat)) : Prop := s.Keeps t [] ∧ ∀ x, Outside x ps → t.byteAt x = s.byteAt x

theorem puts_of_loads {s t : State} {ps : List (Nat × Nat)} (h : s.Loads t []) : s.Puts t ps :=
  ⟨h.1, fun x _ => congrArg (fun m => SMap.get 0 m x) h.2⟩

theorem State.Puts.trans {s t u : State} {ps : List (Nat × Nat)} (h : s.Puts t ps) (k : t.Puts u ps) : s.Puts u ps :=
  ⟨h.1.trans k.1, fun x hx => (k.2 x hx).trans (h.2 x hx)⟩

theorem State.Puts.then {s t u : State} {ps : List (Nat × Nat)} (h : s.Puts t ps) (k : t.Loads u []) : s.Puts u ps := h.trans (puts_of_loads k)

theorem State.Puts.mono {s t : State} {ps qs : List (Nat × Nat)} (h : s.Puts t ps) (hsub : ∀ p ∈ ps, p ∈ qs) : s.Puts t qs :=
  ⟨h.1, fun x hx => h.2 x fun p hp => hx p (hsub p hp)⟩

theorem puts_physWrite (s : State) (pa : Nat) (bs : List Byte) : s.Puts (s.physWrite pa bs) [(pa, bs.length)] := by
  refine ⟨?_, fun x hx => physWrite_byteAt_out s pa bs x (hx _ (List.mem_singleton_self _))⟩
  rw [physWrite_only]
  exact keeps_of_agents rfl rfl

/-- Elements stored in turn put bytes in their places alone, however far they come. -/
theorem performStore_puts (i : Issuer) (h : BitVec 2) (old : BitVec 32) (es : List (Nat × List Byte)) (s : State) :
    s.Puts (readEach s es fun t e => (t.reach i .write e.1 e.2.length).bind fun u p =>
      .ok (((u.physWrite p.1 e.2).cacheStore i e.1 p.1 p.2 h).countOnce i.agent h old [p.2]) p.2).state (s.placesOf i h old es) := by
  induction es generalizing s with
  | nil => exact puts_of_loads (loads_refl s [])
  | cons e r ih =>
    have hreach : s.Loads (s.reach i .write e.1 e.2.length).state [] := loads_looked (looked_reach ..)
    unfold State.placesOf readEach
    cases hr : s.reach i .write e.1 e.2.length with
    | ok t p =>
      rw [hr] at hreach
      dsimp only [Acc.bind]
      have hone : s.Puts (((t.physWrite p.1 e.2).cacheStore i e.1 p.1 p.2 h).countOnce i.agent h old [p.2]) [(p.1, e.2.length)] :=
        (((puts_of_loads hreach).trans (puts_physWrite ..)).then (loads_cacheStore ..)).then (loads_countOnce ..)
      have hrest := ih (((t.physWrite p.1 e.2).cacheStore i e.1 p.1 p.2 h).countOnce i.agent h old [p.2])
      rw [map_state]
      exact (hone.mono fun q hq => List.mem_cons.mpr (.inl (List.mem_singleton.mp hq))).trans (hrest.mono fun q hq => List.mem_cons_of_mem _ hq)
    | wait t p => rw [hr] at hreach; exact puts_of_loads hreach
    | fail t c x => rw [hr] at hreach; exact puts_of_loads hreach

/-- The places of a store of the acting agent. -/
def State.myPlaces (s : State) (h : BitVec 2) (es : List (Nat × List Byte)) : List (Nat × Nat) := s.placesOf s.issuer h s.myCore.hintcnt es

theorem performOp_puts (s : State) (h : BitVec 2) (es : List (Nat × List Byte)) :
    s.Puts (s.performOp s.issuer h (.store es)).state (s.myPlaces h es) := performStore_puts s.issuer h s.myCore.hintcnt es s

/-- A store's effect, where it takes place. -/
structure State.Stores (s : State) (ps : List (Nat × Nat)) (e : Eff) : Prop where
  done : ∀ u, e = .done u → s.Puts u ps

section Stores
variable {s : State} {ps : List (Nat × Nat)}

theorem stores_done {u : State} (h : s.Puts u ps) : s.Stores ps (.done u) := ⟨fun _ hu => Eff.done.inj hu ▸ h⟩

theorem stores_raise (u : State) (code : BitVec 8) (a : Word) : s.Stores ps (.raise u code a) := ⟨fun _ h => Eff.noConfusion h⟩

theorem stores_hold (u : State) (g : Nat) : s.Stores ps (.hold u g) := ⟨fun _ h => Eff.noConfusion h⟩

theorem puts_issue {c : Ctl} {f : Form} {e : Eff} (he : s.Stores ps e) {t : State} (h : issue s c f e = .next t) (ht : t.res = .issued) :
    s.Puts t ps := by
  obtain rfl | ⟨u, hu, rfl⟩ := issue_issued h ht
  · exact puts_of_loads (loads_of_agents rfl rfl rfl)
  · exact (he.done u hu).then (loads_of_agents rfl rfl rfl)

theorem storeTask_puts (i : Instr) (h : BitVec 2) (es : List (Nat × List Byte)) : s.Stores (s.myPlaces h es) (s.storeTask i h (.store es)) := by
  have hop := performOp_puts s h es
  unfold State.storeTask
  split
  · exact stores_done (puts_of_loads (loads_refl ..))
  · split
    · split
      · exact stores_hold ..
      · exact stores_done (puts_of_loads ((loads_logAccess ..).trans (loads_storeSink ..)))
    · cases hp : s.performOp s.issuer h (.store es) with
      | ok t xs =>
        rw [hp] at hop
        dsimp only
        refine stores_done ?_
        split
        · exact State.Puts.then hop ((loads_storeSink ..).trans (loads_overrunNext ..))
        · exact State.Puts.then hop (loads_storeSink ..)
      | wait t p =>
        rw [hp] at hop
        dsimp only
        have hback : s.Puts (s.back t (.store es)) (s.myPlaces h es) := by
          unfold State.back
          split
          · exact hop
          · exact puts_of_loads (loads_undo ..)
        split
        · exact stores_done (hback.then (loads_overrunNext ..))
        · split
          · exact stores_done (hback.then ((loads_logAccess ..).trans (loads_storeSink ..)))
          · exact stores_done (hback.then (loads_pendOn ..))
      | fail t code x =>
        rw [hp] at hop
        exact stores_done (State.Puts.then hop (loads_deferMe ..))

theorem bodyVstore_puts (i : Instr) (c : Ctl) (t : Ty) (d : BitVec 6) (addr : Nat → Word) :
    s.Stores (s.myPlaces c.ch ((s.activeElems c t).map fun k => ((addr k).toNat, elemBytesOf s t d k))) (s.bodyVstore i c t d addr) := by
  unfold State.bodyVstore
  dsimp only
  split
  · exact stores_raise ..
  · exact storeTask_puts ..

/-- A store by a physical address outside control space. -/
theorem storeHome_puts (h : BitVec 2) (a : Nat) (bs : List Byte) : s.Puts (s.storeHome h a bs).state (s.myPlaces h [(a, bs)]) := by
  have hreach : s.Loads (s.reach s.issuer .write a bs.length).state [] := loads_looked (looked_reach ..)
  unfold State.storeHome State.writeAttr State.myPlaces State.placesOf
  cases hr : s.reach s.issuer .write a bs.length with
  | ok t p =>
    rw [hr] at hreach
    dsimp only [Acc.bind]
    exact (((puts_of_loads hreach).trans (puts_physWrite ..)).then (loads_cacheStore ..)).mono fun q hq =>
      List.mem_cons.mpr (.inl (List.mem_singleton.mp hq))
  | wait t p => rw [hr] at hreach; exact puts_of_loads hreach
  | fail t c x => rw [hr] at hreach; exact puts_of_loads hreach

theorem physStore_puts (h : BitVec 2) {a : Nat} (bs : List Byte) (ha : placeOf a ≠ .control) :
    s.Puts (s.physStore h a bs).state (s.myPlaces h [(a, bs)]) := by
  have hhome := storeHome_puts (s := s) h a bs
  unfold State.physStore
  generalize placeOf a = p at ha
  cases p with
  | control => exact absurd rfl ha
  | sram =>
    dsimp only
    split
    · exact puts_of_loads (loads_refl ..)
    · exact hhome
  | hbm => exact hhome
  | window c o => exact hhome
  | rom o => exact hhome
  | nowhere => exact hhome

theorem physFault_puts {t : State} (h : s.Puts t ps) (code : BitVec 8) (a : Nat) : s.Stores ps (t.physFault code a) := by
  unfold State.physFault
  split
  · exact stores_done (h.then (loads_deferMe ..))
  · exact stores_raise ..

theorem bodySt_puts (i : Instr) (c : Ctl) (t : Ty) (d a : BitVec 6) (disp : BitVec 18)
    (hplace : placeOf (dispAddr s a disp).toNat ≠ .control ∨ s.cur < 96) :
    s.Stores (s.myPlaces c.ch [((dispAddr s a disp).toNat, toBytes (s.rs d).toNat (t.width / 8))]) (s.bodySt i c t d a disp) := by
  have hphys (hk : s.kind ≠ .tile) : s.Puts (s.physStore c.ch (dispAddr s a disp).toNat (toBytes (s.rs d).toNat (elemBytes t))).state
      (s.myPlaces c.ch [((dispAddr s a disp).toNat, toBytes (s.rs d).toNat (t.width / 8))]) :=
    physStore_puts c.ch _ (hplace.resolve_right fun h => hk (if_pos h))
  unfold State.bodySt
  dsimp only
  split
  · exact stores_raise ..
  · generalize s.kind = k at hphys
    cases k with
    | tile => exact storeTask_puts ..
    | control | machine =>
      have hput := hphys nofun
      dsimp only
      cases hp : s.physStore c.ch (dispAddr s a disp).toNat (toBytes (s.rs d).toNat (elemBytes t)) <;> rw [hp] at hput <;> dsimp only
      · exact stores_done hput
      · exact stores_done (State.Puts.then hput (loads_pendOn ..))
      · exact physFault_puts hput _ _

end Stores

/-- Settles O59: the frame of each access from that of its body; stores by the places that their elements reach. -/
theorem accessFrames : Obligations.AccessFrames := by
  unfold Obligations.AccessFrames
  intro s t c ty d a b disp line stride index elems keeps loads stores locals
  have hkeeps : ∀ l, s.Keeps t l → keeps l := fun l h => ⟨h.mine.1, h.mine.2.1, h.mine.2.2.1, h.mine.2.2.2, h.others⟩
  have hloads : ∀ i f r e, exec i s = issue s c f e → s.Ends [r] e → loads i r := fun i f r e hi he h ht => by
    obtain ⟨hkeep, hmem⟩ := loads_issue he (hi ▸ h) ht
    exact ⟨hmem, hkeeps _ hkeep⟩
  have hlocals : ∀ i f e, exec i s = issue s c f e → s.Ends [] e → locals i := fun i f e hi he h ht => by
    obtain ⟨hkeep, hmem⟩ := loads_issue he (hi ▸ h) ht
    exact ⟨hmem, hkeeps _ hkeep⟩
  have hstores : ∀ i f es e, exec i s = issue s c f e → s.Stores (s.myPlaces c.ch es) e → stores i es := fun i f es e hi he h ht => by
    obtain ⟨hkeep, hout⟩ := puts_issue he (hi ▸ h) ht
    exact ⟨hkeeps _ hkeep, hout⟩
  refine ⟨hloads _ _ _ _ rfl (bodyLd_ends ..), hloads _ _ _ _ rfl (bodyLdl_ends ..), hloads _ _ _ _ rfl (bodyVload_ends ..),
    hloads _ _ _ _ rfl (bodyVloadl_ends ..), fun l => ⟨hloads _ _ _ _ rfl (bodyGather_ends ..), hloads _ _ _ _ rfl (bodyGather_ends ..)⟩,
    fun hplace => hstores _ _ _ _ rfl (bodySt_puts _ c ty d a disp hplace), hstores _ _ _ _ rfl (bodyVstore_puts ..),
    hstores _ _ _ _ rfl (bodyVstore_puts ..), hstores _ _ _ _ rfl (bodyVstore_puts ..), hlocals _ _ _ rfl (bodyStl_ends ..),
    hlocals _ _ _ rfl (bodyVstorel_ends ..), hlocals _ _ _ rfl (bodyVstorel_ends ..), hlocals _ _ _ rfl (bodyVstorel_ends ..)⟩

end Sys2Proof.Machine

/-! ## Memory stays canonical (O57)

`State.Canon` is the invariant, and each type of result that carries a state has a `Canon` of its own, which says it of that state. For every
function on the way of a step there is one lemma, named after the function and in the model's order: from canonical states it makes a canonical
result. Its proof follows the branches of the function and cites the lemmas of the functions called there. Memory is written by
`State.putByte` alone, which `SMap.set` keeps canonical; everything else hands it on. -/

namespace Sys2Proof.Machine

open Host (Outcome)

/-! ### The invariant, of states and of results -/

/-- Memory is in its one form (00 R3). -/
def State.Canon (s : State) : Prop := Memory.wf s.mem = true

/-- The state of an `Acc` is canonical, however it ends. -/
def Acc.Canon {α : Type} (r : Acc α) : Prop :=
  match r with
  | .ok t _ | .wait t _ | .fail t _ _ => t.Canon

/-- The state of an `Eff` is canonical, however it ends. -/
def Eff.Canon (r : Eff) : Prop :=
  match r with
  | .done t | .raise t _ _ | .hold t _ => t.Canon

/-- The state of a `Moved` is canonical, however it ends. -/
def Moved.Canon (r : Moved) : Prop :=
  match r with
  | .done t _ | .waits t _ | .failed t _ _ _ => t.Canon

/-- The state of a `TileRun` is canonical, however it ends. -/
def TileRun.Canon (r : TileRun) : Prop :=
  match r with
  | .done t _ | .waits t _ | .failed t _ => t.Canon

/-- The state of a `Reported` is canonical, however it ends. -/
def Reported.Canon (r : Reported) : Prop :=
  match r with
  | .made t | .full t | .waits t _ => t.Canon

/-- The state of a `LaunchCheck` is canonical, however it ends. -/
def LaunchCheck.Canon (r : LaunchCheck) : Prop :=
  match r with
  | .ok t _ _ | .refuse t _ _ | .wait t _ => t.Canon

/-- The state of a `Placing` is canonical, however it ends. -/
def Placing.Canon (r : Placing) : Prop :=
  match r with
  | .go t | .later t => t.Canon

/-- The state of a `Perform` is canonical, however it ends. -/
def Perform.Canon (r : Perform) : Prop :=
  match r with
  | .done t | .stays t => t.Canon

/-- The state of a `CtlStore` is canonical, however it ends. -/
def CtlStore.Canon (r : CtlStore) : Prop :=
  match r with
  | .ok t | .wait t => t.Canon
  | .absent => True

/-- The state of a `Fetched` is canonical, however it ends. -/
def Fetched.Canon (r : Fetched) : Prop :=
  match r with
  | .ok t _ _ | .wait t _ | .bad t _ _ _ => t.Canon

/-- The next state, if there is one, is canonical. -/
def OutCanon (o : Outcome State Fault Refusal) : Prop :=
  match o with
  | .next t => t.Canon
  | .fault _ | .refused _ => True

/-- The state, if there is one, is canonical. -/
def OptCanon (o : Option State) : Prop :=
  match o with
  | some t => t.Canon
  | none => True

/-! ### What a case of a result leaves

A `match` on a result leaves an equation with one of its cases; each lemma carries the result's property over to that case. -/

theorem Acc.Canon.of_eq {α : Type} {r q : Acc α} (hr : r = q) (h : r.Canon) : q.Canon := hr ▸ h

theorem Eff.Canon.of_eq {r q : Eff} (hr : r = q) (h : r.Canon) : q.Canon := hr ▸ h

theorem Moved.Canon.of_eq {r q : Moved} (hr : r = q) (h : r.Canon) : q.Canon := hr ▸ h

theorem TileRun.Canon.of_eq {r q : TileRun} (hr : r = q) (h : r.Canon) : q.Canon := hr ▸ h

theorem Reported.Canon.of_eq {r q : Reported} (hr : r = q) (h : r.Canon) : q.Canon := hr ▸ h

theorem LaunchCheck.Canon.of_eq {r q : LaunchCheck} (hr : r = q) (h : r.Canon) : q.Canon := hr ▸ h

theorem Placing.Canon.of_eq {r q : Placing} (hr : r = q) (h : r.Canon) : q.Canon := hr ▸ h

theorem Perform.Canon.of_eq {r q : Perform} (hr : r = q) (h : r.Canon) : q.Canon := hr ▸ h

theorem CtlStore.Canon.of_eq {r q : CtlStore} (hr : r = q) (h : r.Canon) : q.Canon := hr ▸ h

theorem Fetched.Canon.of_eq {r q : Fetched} (hr : r = q) (h : r.Canon) : q.Canon := hr ▸ h

theorem OutCanon.of_eq {r q : Outcome State Fault Refusal} (hr : r = q) (h : OutCanon r) : OutCanon q := hr ▸ h

theorem OptCanon.of_eq {r q : Option State} (hr : r = q) (h : OptCanon r) : OptCanon q := hr ▸ h

theorem State.Canon.of_fst_eq {β : Type} {p q : State × β} (hr : p = q) (h : p.1.Canon) : q.1.Canon := hr ▸ h

/-! ### Conditionals, folds and the end of an instruction -/

theorem State.Canon.ite {c : Prop} [Decidable c] {p q : State} (hp : p.Canon) (hq : q.Canon) : (if c then p else q).Canon := by
  split <;> assumption

theorem Acc.Canon.ite {α : Type} {c : Prop} [Decidable c] {p q : Acc α} (hp : p.Canon) (hq : q.Canon) : (if c then p else q).Canon := by
  split <;> assumption

theorem Eff.Canon.ite {c : Prop} [Decidable c] {p q : Eff} (hp : p.Canon) (hq : q.Canon) : (if c then p else q).Canon := by
  split <;> assumption

theorem TileRun.Canon.ite {c : Prop} [Decidable c] {p q : TileRun} (hp : p.Canon) (hq : q.Canon) : (if c then p else q).Canon := by
  split <;> assumption

theorem LaunchCheck.Canon.ite {c : Prop} [Decidable c] {p q : LaunchCheck} (hp : p.Canon) (hq : q.Canon) : (if c then p else q).Canon := by
  split <;> assumption

theorem Placing.Canon.ite {c : Prop} [Decidable c] {p q : Placing} (hp : p.Canon) (hq : q.Canon) : (if c then p else q).Canon := by
  split <;> assumption

theorem Perform.Canon.ite {c : Prop} [Decidable c] {p q : Perform} (hp : p.Canon) (hq : q.Canon) : (if c then p else q).Canon := by
  split <;> assumption

theorem CtlStore.Canon.ite {c : Prop} [Decidable c] {p q : CtlStore} (hp : p.Canon) (hq : q.Canon) : (if c then p else q).Canon := by
  split <;> assumption

theorem OutCanon.ite {c : Prop} [Decidable c] {p q : Outcome State Fault Refusal} (hp : OutCanon p) (hq : OutCanon q) :
    OutCanon (if c then p else q) := by
  split <;> assumption

theorem OptCanon.ite {c : Prop} [Decidable c] {p q : Option State} (hp : OptCanon p) (hq : OptCanon q) : OptCanon (if c then p else q) := by
  split <;> assumption

theorem Canon.fst_ite {β : Type} {c : Prop} [Decidable c] {p q : State × β} (hp : p.1.Canon) (hq : q.1.Canon) :
    (if c then p else q).1.Canon := by
  split <;> assumption

theorem foldl_canon {β : Type} {f : State → β → State} {s : State} {l : List β} (hf : ∀ t x, t.Canon → (f t x).Canon) (hs : s.Canon) :
    (l.foldl f s).Canon := by
  induction l generalizing s with
  | nil => exact hs
  | cons x r ih => exact ih (hf s x hs)

theorem getD_canon {o : Option State} {s : State} (ho : OptCanon o) (hs : s.Canon) : (o.getD s).Canon := by
  cases o with
  | none => exact hs
  | some t => exact ho

theorem State.Canon.done {s : State} (hs : s.Canon) : OutCanon (Eff.done s).out := hs

/-! ### Ops -/

theorem State.Canon.setAgent {s : State} {n : Nat} {a : Agent} (hs : s.Canon) : (s.setAgent n a).Canon := hs

theorem State.Canon.setMe {s : State} {a : Agent} (hs : s.Canon) : (s.setMe a).Canon := hs.setAgent

theorem State.Canon.modMe {s : State} {f : Agent → Agent} (hs : s.Canon) : (s.modMe f).Canon := hs.setMe

theorem State.Canon.setCore {s : State} {n : Nat} {c : Core} (hs : s.Canon) : (s.setCore n c).Canon := hs

theorem State.Canon.modCore {s : State} {f : Core → Core} (hs : s.Canon) : (s.modCore f).Canon := hs.setCore

theorem State.Canon.modRegs {s : State} {n : Nat} {f : Regs → Regs} (hs : s.Canon) : (s.modRegs n f).Canon :=
  hs.setAgent

theorem State.Canon.raiseFlags {s : State} {n : Nat} {f : Flags} {c : Nat} (hs : s.Canon) : (s.raiseFlags n f c).Canon :=
  State.Canon.ite hs hs.setCore

theorem State.Canon.land {s : State} {n : Nat} {p : Producer} {c : Nat} (hs : s.Canon) : (s.land n p c).Canon :=
  hs.modRegs.raiseFlags

theorem State.Canon.landDue {s : State} {n c : Nat} (hs : s.Canon) : (s.landDue n c).Canon :=
  foldl_canon (fun _ _ h => h.land) hs.setAgent

theorem State.Canon.landAll {s : State} {n : Nat} (hs : s.Canon) : (s.landAll n).Canon :=
  foldl_canon (fun _ _ h => h.land) hs.setAgent

theorem State.Canon.produce {s : State} {reg : RegId} {x : RegVal} {f : Flags} {lat : Nat} (hs : s.Canon) : (s.produce reg x f lat).Canon :=
  State.Canon.ite hs.land hs.modMe

theorem State.Canon.produceLater {s : State} {reg : RegId} {x : RegVal} {due : Option Nat} (hs : s.Canon) : (s.produceLater reg x due).Canon :=
  hs.modMe

theorem State.Canon.logPost {s : State} {time src code : Nat} {w2 w3 : Word} (hs : s.Canon) : (s.logPost time src code w2 w3).Canon :=
  hs

theorem State.Canon.logHard {s : State} {src code : Nat} {w2 w3 : Word} (hs : s.Canon) : (s.logHard src code w2 w3).Canon :=
  State.Canon.ite hs.logPost hs

theorem State.Canon.rebase {s : State} {t : Nat} (hs : s.Canon) : (s.rebase t).Canon := by
  unfold State.rebase
  split
  · exact hs

theorem State.Canon.reportHalt {s : State} {n : Nat} {code : BitVec 8} {pc : Word} (hs : s.Canon) : (s.reportHalt n code pc).Canon := by
  unfold State.reportHalt
  split
  · exact State.Canon.logHard hs
  · exact hs
  · exact hs

theorem State.Canon.faultAt {s : State} {n : Nat} {code : BitVec 8} {pc src addr : Word} (hs : s.Canon) : (s.faultAt n code pc src addr).Canon := by
  unfold State.faultAt
  dsimp only
  split
  · exact hs.landAll.setAgent
  · exact State.Canon.ite hs.landAll.setAgent.reportHalt hs.landAll.setAgent
  · exact State.Canon.ite hs.landAll.setAgent.reportHalt hs.landAll.setAgent

theorem State.Canon.takeFault {s : State} {code : BitVec 8} {addr : Word} (hs : s.Canon) : (s.takeFault code addr).Canon :=
  hs.faultAt

theorem Eff.Canon.out {e : Eff} (he : e.Canon) : OutCanon e.out := by
  cases e with
  | done t => exact he
  | raise t code addr =>
    dsimp only [OutCanon, Eff.out, State.Canon]
    exact State.Canon.takeFault he
  | hold t grace => exact he

/-! ### Operands -/

theorem State.Canon.issueEff {s : State} {c : Ctl} {f : Form} {body : Eff} (hs : s.Canon) (hbody : body.Canon) : (issueEff s c f body).Canon := by
  unfold Machine.issueEff
  dsimp only
  split
  · exact hs
  · exact Eff.Canon.ite hs (Eff.Canon.ite hs (Eff.Canon.ite hs (Eff.Canon.ite hs (Eff.Canon.ite hs (Eff.Canon.ite hs hbody)))))

theorem State.Canon.issue {s : State} {c : Ctl} {f : Form} {body : Eff} (hs : s.Canon) (hbody : body.Canon) : OutCanon (issue s c f body) :=
  (hs.issueEff hbody).out

/-! ### Access -/

theorem State.Canon.setDie {s : State} {d : Nat} {x : Die} (hs : s.Canon) : (s.setDie d x).Canon := hs

theorem State.Canon.modDie {s : State} {d : Nat} {f : Die → Die} (hs : s.Canon) : (s.modDie d f).Canon :=
  hs.setDie

theorem State.Canon.modCoreAt {s : State} {n : Nat} {f : Core → Core} (hs : s.Canon) : (s.modCoreAt n f).Canon :=
  hs.setCore

theorem State.Canon.modAgent {s : State} {n : Nat} {f : Agent → Agent} (hs : s.Canon) : (s.modAgent n f).Canon :=
  hs.setAgent

theorem State.Canon.post {s : State} {d : Nat} {r : EvRec} (hs : s.Canon) : (s.post d r).Canon := hs.modDie

theorem State.Canon.putBytes {s : State} {pa : Nat} {bs : List Byte} (hs : s.Canon) : (s.putBytes pa bs).Canon :=
  putBytes_mem_wf s pa bs hs

theorem State.Canon.noteStore {s : State} {pa n : Nat} (hs : s.Canon) : (s.noteStore pa n).Canon :=
  foldl_canon (fun _ _ h => State.Canon.ite h.modDie h) hs

theorem State.Canon.mendAt {s : State} {pa n : Nat} (hs : s.Canon) : (s.mendAt pa n).Canon := by
  unfold State.mendAt
  split
  · exact State.Canon.ite hs hs.modCoreAt
  all_goals exact hs

theorem State.Canon.physWrite {s : State} {pa : Nat} {bs : List Byte} (hs : s.Canon) : (s.physWrite pa bs).Canon := by
  unfold State.physWrite
  dsimp only
  split
  · dsimp only [State.Canon]
    exact hs.putBytes.mendAt.noteStore
  · exact hs.putBytes.mendAt.noteStore

theorem State.Canon.postFor {s : State} {i : Issuer} {r : EvRec} (hs : s.Canon) : (s.postFor i r).Canon :=
  hs.post.modDie

theorem State.Canon.awaitRoom {s : State} {i : Issuer} {kind : Nat} (hs : s.Canon) : (s.awaitRoom i kind).Canon :=
  State.Canon.ite hs hs.modDie

theorem State.Canon.cacheLeaf {s : State} {i : Issuer} {t : TlbEntry} (hs : s.Canon) : (s.cacheLeaf i t).Canon :=
  State.Canon.ite hs.modDie.modCoreAt hs.modDie

theorem State.Canon.noteLoss {s : State} {i : Issuer} {pa : Nat} (hs : s.Canon) : (s.noteLoss i pa).Canon :=
  hs.postFor.modDie

theorem State.Canon.noteCoreLoss {s : State} {n : Nat} (hs : s.Canon) : (s.noteCoreLoss n).Canon :=
  hs.post.modDie

theorem State.Canon.noteWalk {s : State} {i : Issuer} {ctx : Nat} {r : WalkRes} (hs : s.Canon) : (s.noteWalk i ctx r).Canon := by
  unfold State.noteWalk
  split
  · exact hs
  · exact hs
  · exact hs
  · exact hs.postFor
  · exact hs.noteLoss

theorem State.Canon.walked {s : State} {i : Issuer} {ctx va : Nat} (hs : s.Canon) : (s.walked i ctx va).1.Canon :=
  hs.noteWalk

theorem State.Canon.translate {s : State} {i : Issuer} {ctx va : Nat} (hs : s.Canon) : (s.translate i ctx va).1.Canon := by
  unfold State.translate
  dsimp only
  split
  · split
    · exact hs.walked
    · split
      · exact hs
      · dsimp only [State.Canon]
        exact hs.walked
  · exact hs.walked

theorem State.Canon.pageRequest {s : State} {i : Issuer} {ctx va : Nat} {k : AccKind} (hs : s.Canon) : (s.pageRequest i ctx va k).Canon :=
  State.Canon.ite hs hs.setDie.post

theorem Acc.Canon.map {α β : Type} {r : Acc α} {f : α → β} (hr : r.Canon) : (r.map f).Canon := by
  unfold Acc.map
  split <;> exact hr

theorem Acc.Canon.bind {α β : Type} {r : Acc α} {f : State → α → Acc β} (hr : r.Canon) (hf : ∀ (t : State) (x : α), t.Canon → (f t x).Canon) :
    (r.bind f).Canon := by
  unfold Acc.bind
  split
  · exact hf _ _ hr
  · exact hr
  · exact hr

theorem State.Canon.recordLoss {s : State} {i : Issuer} {pa : Nat} (hs : s.Canon) : (s.recordLoss i pa).Canon :=
  Acc.Canon.ite hs.noteLoss hs.awaitRoom

theorem State.Canon.atHome {s : State} {i : Issuer} {k : AccKind} {a n pa attr : Nat} (hs : s.Canon) : (s.atHome i k a n pa attr).Canon := by
  unfold State.atHome
  split
  · exact hs
  · exact Acc.Canon.ite hs hs
  · exact Acc.Canon.ite hs hs
  · exact Acc.Canon.ite hs hs
  · split
    · exact hs
    · split
      · exact hs.recordLoss.bind fun _ _ h => h
      · exact hs
  · split
    · exact hs
    · split
      · exact hs.recordLoss.bind fun _ _ h => h
      · exact hs

theorem State.Canon.reach {s : State} {i : Issuer} {k : AccKind} {a n : Nat} (hs : s.Canon) : (s.reach i k a n).Canon := by
  unfold State.reach
  split
  · exact hs.atHome
  · split
    · exact hs
    · split
      · exact hs
      · split
        · exact hs.awaitRoom
        · split
          next t _ _ hr =>
            have ht : t.Canon := State.Canon.of_fst_eq hr hs.translate
            exact Acc.Canon.ite (State.Canon.atHome (State.Canon.ite ht.cacheLeaf ht)) ht
          next hr => exact State.Canon.of_fst_eq hr hs.translate
          next hr => exact State.Canon.of_fst_eq hr hs.translate
          next hr => exact (State.Canon.of_fst_eq hr hs.translate).pageRequest

theorem State.Canon.readAttr {s : State} {i : Issuer} {k : AccKind} {a n : Nat} (hs : s.Canon) : (s.readAttr i k a n).Canon :=
  hs.reach.bind fun _ _ h => h

theorem State.Canon.readMem {s : State} {i : Issuer} {k : AccKind} {a n : Nat} (hs : s.Canon) : (s.readMem i k a n).Canon :=
  hs.readAttr.map

theorem State.Canon.storeAs {s : State} {i : Issuer} {k : AccKind} {a : Nat} {bs : List Byte} (hs : s.Canon) : (s.storeAs i k a bs).Canon :=
  hs.reach.bind fun _ _ h => h.physWrite

theorem State.Canon.writeAttr {s : State} {i : Issuer} {a : Nat} {bs : List Byte} (hs : s.Canon) : (s.writeAttr i a bs).Canon :=
  hs.reach.bind fun _ _ h => h.physWrite

theorem State.Canon.writeMem {s : State} {i : Issuer} {a : Nat} {bs : List Byte} (hs : s.Canon) : (s.writeMem i a bs).Canon :=
  hs.writeAttr.map

theorem State.Canon.countOnce {s : State} {n : Nat} {h : BitVec 2} {old : BitVec 32} {attrs : List Nat} (hs : s.Canon) :
    (s.countOnce n h old attrs).Canon :=
  State.Canon.ite hs.modCoreAt hs

theorem State.Canon.uncount {s : State} {n : Nat} {old : BitVec 32} (hs : s.Canon) : (s.uncount n old).Canon :=
  State.Canon.ite hs hs.modCoreAt

theorem State.Canon.arrive {s : State} {i : Issuer} {a x : Nat} (hs : s.Canon) : (s.arrive i a x).Canon := by
  unfold State.arrive
  split
  next hr => exact (Acc.Canon.of_eq hr hs.reach).physWrite
  next hr => exact (Acc.Canon.of_eq hr hs.reach :)
  next hr => exact (Acc.Canon.of_eq hr hs.reach :)

/-! ### Cache -/

theorem State.Canon.copyRemote {s : State} {d pa : Nat} (hs : s.Canon) : (s.copyRemote d pa).Canon :=
  State.Canon.ite hs.modDie hs

theorem State.Canon.dropCopies {s : State} {i : Issuer} {va pa : Nat} (hs : s.Canon) : (s.dropCopies i va pa).Canon := by
  unfold State.dropCopies
  dsimp only
  split
  · refine State.Canon.modDie ?_
    split
    · exact State.Canon.ite hs.modCoreAt hs
    · exact hs
  · split
    · exact State.Canon.ite hs.modCoreAt hs
    · exact hs

theorem State.Canon.cacheLoad {s : State} {i : Issuer} {va pa attr : Nat} {h : BitVec 2} (hs : s.Canon) : (s.cacheLoad i va pa attr h).Canon := by
  unfold State.cacheLoad
  split
  · exact hs
  · split
    · exact hs.dropCopies
    · dsimp only
      split
      · exact State.Canon.ite (State.Canon.modCoreAt (State.Canon.ite hs hs.copyRemote)) (State.Canon.ite hs hs.copyRemote)
      · exact State.Canon.ite hs hs.copyRemote

theorem State.Canon.cacheStore {s : State} {i : Issuer} {va pa attr : Nat} {h : BitVec 2} (hs : s.Canon) : (s.cacheStore i va pa attr h).Canon :=
  State.Canon.ite hs.dropCopies hs

/-! ### Control -/

theorem State.Canon.readLine {s : State} {a : Nat} (hs : s.Canon) : (s.readLine a).Canon := by
  unfold State.readLine
  split
  · exact hs
  · split
    next hr => exact (Acc.Canon.of_eq hr hs.reach :)
    next hr => exact (Acc.Canon.of_eq hr hs.reach :)
    next hr => exact (Acc.Canon.of_eq hr hs.reach :)

theorem State.Canon.codeLine {s : State} {a : Nat} (hs : s.Canon) : (s.codeLine a).Canon := by
  unfold State.codeLine
  dsimp only
  split
  · exact hs
  · split
    next t _ hr =>
      have ht : t.Canon := Acc.Canon.of_eq hr hs.readLine
      exact Acc.Canon.ite (State.Canon.modMe (State.Canon.ite hs hs)) (State.Canon.modMe (State.Canon.ite ht ht))
    next t _ hr =>
      have ht : t.Canon := Acc.Canon.of_eq hr hs.readLine
      exact Acc.Canon.ite (State.Canon.modMe (State.Canon.ite hs hs)) (State.Canon.ite ht ht)
    next t _ _ hr =>
      have ht : t.Canon := Acc.Canon.of_eq hr hs.readLine
      exact Acc.Canon.ite (State.Canon.modMe (State.Canon.ite hs hs)) (State.Canon.ite ht ht)

theorem State.Canon.readCode {s : State} {a : Word} (hs : s.Canon) : (s.readCode a).Canon :=
  Acc.Canon.ite hs (Acc.Canon.ite hs hs.codeLine.map)

theorem State.Canon.fetchWord {s : State} {a : Word} (hs : s.Canon) : (s.fetchWord a).Canon :=
  hs.readCode.bind fun _ _ h => State.Canon.ite h h.modMe

theorem State.Canon.readBody {s : State} {n : Nat} {a last : Word} (hs : s.Canon) : (s.readBody n a last).Canon := by
  induction n generalizing s a last with
  | zero => exact hs
  | succ k ih =>
    unfold State.readBody
    split
    next hr => exact ih (Acc.Canon.of_eq hr hs.readCode)
    next hr => exact (Acc.Canon.of_eq hr hs.readCode :)
    next hr => exact (Acc.Canon.of_eq hr hs.readCode :)

theorem State.Canon.holdOn {s : State} {page : Option (Nat × Nat)} {code : BitVec 8} {src : Word} (hs : s.Canon) : (s.holdOn page code src).Canon :=
  hs.modMe

theorem State.Canon.postBreak {s : State} (hs : s.Canon) : s.postBreak.Canon := by
  unfold State.postBreak
  split
  · exact hs
  · exact hs.modMe.post

theorem State.Canon.transfer {s : State} {target : Word} (hs : s.Canon) : (s.transfer target).Canon :=
  hs.modMe

theorem State.Canon.logAccess {s : State} {what : LogOp} {hint : BitVec 2} (hs : s.Canon) : (s.logAccess what hint).Canon :=
  hs

theorem State.Canon.deferMe {s : State} {code : BitVec 8} {addr : Nat} (hs : s.Canon) : (s.deferMe code addr).Canon :=
  hs.modMe

theorem State.Canon.pushLink {s : State} {target : Word} (hs : s.Canon) : (s.pushLink target).Canon := hs

theorem State.Canon.dropOldest {s : State} (hs : s.Canon) : s.dropOldest.Canon := hs.modMe

theorem State.Canon.execLoopset {c : Ctl} {a n : BitVec 6} {s : State} (hs : s.Canon) : OutCanon (execLoopset c a n s) := by
  unfold Machine.execLoopset
  dsimp only
  refine State.Canon.issue hs ?_
  split
  next hr => exact (Acc.Canon.of_eq hr hs.readBody).holdOn
  next hr => exact (Acc.Canon.of_eq hr hs.readBody :)
  next t _ _ hr =>
    have ht : t.Canon := Acc.Canon.of_eq hr hs.readBody
    exact Eff.Canon.ite ht (Eff.Canon.ite ht (Eff.Canon.ite ht (Eff.Canon.ite ht.modMe ht.modMe)))

theorem State.Canon.holdWait {s : State} {line till : Option Nat} {grace : Nat} (hs : s.Canon) : (s.holdWait line till grace).Canon :=
  hs.modMe

theorem State.Canon.execEret {c : Ctl} {s : State} (hs : s.Canon) : OutCanon (execEret c s) := by
  unfold Machine.execEret
  refine State.Canon.issue hs ?_
  split
  · exact hs
  · exact hs.modMe
  · exact hs.modMe

theorem State.Canon.writeSpecial {s : State} {n : Nat} {x : Word} (hs : s.Canon) : (s.writeSpecial n x).Canon := by
  unfold State.writeSpecial
  split
  · exact hs.modMe
  · exact hs.modCore
  · exact hs.modCore
  · exact hs.modDie
  · exact hs.modMe
  · exact hs.modMe
  · exact hs.modMe
  · exact hs

theorem State.Canon.execSleep {c : Ctl} {s : State} (hs : s.Canon) : OutCanon (execSleep c s) := by
  unfold Machine.execSleep
  dsimp only
  refine State.Canon.issue hs ?_
  split
  · exact hs
  · exact Eff.Canon.ite hs hs
  · exact Eff.Canon.ite hs hs.modMe

theorem State.Canon.execEvpop {c : Ctl} {d : BitVec 6} {s : State} (hs : s.Canon) : OutCanon (execEvpop c d s) := by
  unfold Machine.execEvpop
  dsimp only
  refine State.Canon.issue hs ?_
  split
  · exact hs
  · exact hs
  · exact Eff.Canon.ite hs.produce hs.produce.modDie

theorem State.Canon.execInterruptEntry {s : State} (hs : s.Canon) : OutCanon (execInterruptEntry s) := by
  unfold Machine.execInterruptEntry
  split
  · exact Eff.Canon.out (State.Canon.modAgent (State.Canon.ite hs hs))
  · exact Eff.Canon.out hs

theorem State.Canon.execDeferredFault {n : Nat} {s : State} (hs : s.Canon) : OutCanon (execDeferredFault n s) := by
  unfold Machine.execDeferredFault
  dsimp only
  split
  · exact Eff.Canon.out hs.setAgent.faultAt
  · exact Eff.Canon.out hs

theorem State.Canon.execProducerWriteback {n idx : Nat} {s : State} (hs : s.Canon) : OutCanon (execProducerWriteback n idx s) := by
  unfold Machine.execProducerWriteback
  dsimp only
  split
  · exact Eff.Canon.out hs
  · exact OutCanon.ite (Eff.Canon.out hs) (Eff.Canon.out hs.setAgent.land)

/-! ### Report -/

theorem State.Canon.modTask {s : State} {uid : Nat} {f : Task → Task} (hs : s.Canon) : (s.modTask uid f).Canon := by
  unfold State.modTask
  split
  · exact hs.modCoreAt
  · split
    · exact hs.modDie
    · exact hs

theorem State.Canon.countHold {s : State} {d : Nat} (hs : s.Canon) : (s.countHold d).Canon := hs.modDie

theorem State.Canon.faultTask {s : State} {uid : Nat} {f : Deferred} (hs : s.Canon) : OptCanon (s.faultTask uid f) := by
  unfold State.faultTask
  split
  · exact hs.setAgent
  · split
    · exact hs.modDie
    · exact trivial

theorem State.Canon.commandFault {s : State} {o : Origin} {kind : Nat} {code : BitVec 8} {addr : Nat} {w2 w3 : Word} (hs : s.Canon) :
    (s.commandFault o kind code addr w2 w3).Canon := by
  unfold State.commandFault
  dsimp only
  split
  · exact getD_canon hs.faultTask hs.post
  all_goals exact hs.post

theorem State.Canon.modLaunch {s : State} {num : Nat} {f : Launch → Launch} (hs : s.Canon) : (s.modLaunch num f).Canon :=
  hs

theorem State.Canon.sink {s : State} {num kind : Nat} (hs : s.Canon) : (s.sink num kind).Canon := hs.modLaunch

theorem State.Canon.sinkBy {s : State} {o : Origin} {kind : Nat} (hs : s.Canon) : (s.sinkBy o kind).Canon := by
  unfold State.sinkBy
  split
  · exact hs.sink
  all_goals exact hs

/-! ### Matrix -/

theorem State.Canon.fillLine {s : State} {n a : Nat} (hs : s.Canon) : (s.fillLine n a).Canon := by
  unfold State.fillLine
  split
  · exact hs
  · dsimp only
    split
    · exact hs
    · split
      · exact hs.modCoreAt.noteStore
      · exact hs
      · split
        next hr => exact ((Acc.Canon.of_eq hr hs.readMem).modCoreAt).noteStore
        next hr => exact (Acc.Canon.of_eq hr hs.readMem :)
        next hr => exact (Acc.Canon.of_eq hr hs.readMem :)

theorem State.Canon.fillLines {s : State} {n : Nat} {offs : List Nat} (hs : s.Canon) : (s.fillLines n offs).Canon := by
  induction offs generalizing s with
  | nil => exact hs
  | cons a r ih =>
    unfold State.fillLines
    split
    next hr => exact ih (Acc.Canon.of_eq hr hs.fillLine)
    next hr => exact Acc.Canon.of_eq hr hs.fillLine
    next hr => exact Acc.Canon.of_eq hr hs.fillLine

theorem State.Canon.enter {s : State} {n : Nat} {e : MatrixEntry} (hs : s.Canon) : (s.enter n e).Canon := hs

theorem State.Canon.startEntry {s : State} {n i c : Nat} (hs : s.Canon) : (s.startEntry n i c).Canon := by
  unfold State.startEntry
  dsimp only
  split
  · exact hs
  · have hstored {t : State} {b : Option (Nat × Nat × Bool)} (ht : t.Canon) :
        (match b with
          | some (a, len, true) => t.noteStore (windowAddr n a) len
          | some (_, _, false) | none => t).Canon := by
      split
      · exact ht.noteStore
      all_goals exact ht
    split
    · exact State.Canon.modAgent (hstored hs.setCore)
    all_goals exact hstored hs.setCore

theorem State.Canon.arriveAt {s : State} {i : Issuer} {bar : Word} {x : Nat} (hs : s.Canon) : (s.arriveAt i bar x).Canon := by
  unfold State.arriveAt
  split
  · exact hs
  · split
    · exact hs
    · split
      next hr => exact (Acc.Canon.of_eq hr hs.arrive :)
      next hr => exact (Acc.Canon.of_eq hr hs.arrive :)
      next hr => exact (Acc.Canon.of_eq hr hs.arrive :)

theorem State.Canon.dropEntry {s : State} {n i c : Nat} {e : MatrixEntry} (hs : s.Canon) : (s.dropEntry n i c e).Canon :=
  hs.modCoreAt.raiseFlags

theorem State.Canon.loseEntry {s : State} {n i c : Nat} {e : MatrixEntry} (hs : s.Canon) : (s.loseEntry n i c e).Canon := by
  unfold State.loseEntry
  dsimp only
  refine State.Canon.commandFault ?_
  refine State.Canon.dropEntry ?_
  split
  · exact hs.noteLoss
  · exact hs.noteLoss
  all_goals exact hs.noteCoreLoss

theorem State.Canon.finishEntry {s : State} {n i c : Nat} (hs : s.Canon) : (s.finishEntry n i c).1.Canon := by
  unfold State.finishEntry
  split
  · exact hs
  next e _ =>
    extract_lets noRoom records
    have hroom {t : State} (ht : t.Canon) : (noRoom t).Canon := State.Canon.ite ht ht.countHold.modCoreAt
    split
    · exact hroom hs
    · split
      · exact hs.loseEntry
      · split
        next hr => exact State.Canon.modCoreAt (Acc.Canon.of_eq hr (Acc.Canon.ite hs hs.arriveAt))
        next t _ _ hr =>
          have ht : t.Canon := Acc.Canon.of_eq hr (Acc.Canon.ite hs hs.arriveAt)
          split
          · exact hroom ht
          · exact ht.dropEntry.commandFault
        next t _ hr =>
          have ht : t.Canon := Acc.Canon.of_eq hr (Acc.Canon.ite hs hs.arriveAt)
          dsimp only
          have hsink {u : State} (hu : u.Canon) : (if e.command = true then u.sinkBy (s.mqOrigin n e) 2 else u).Canon :=
            State.Canon.ite hu.sinkBy hu
          split
          · exact State.Canon.post (hsink ht.dropEntry.setAgent)
          · exact hsink ht.dropEntry.setAgent

theorem State.Canon.settleMq {s : State} {n c : Nat} {skip : List Nat} {fuel : Nat} (hs : s.Canon) : (s.settleMq n c skip fuel).Canon := by
  induction fuel generalizing s skip with
  | zero => exact hs
  | succ f ih =>
    unfold State.settleMq
    dsimp only
    split
    · exact hs
    · split
      · exact hs
      · split
        · exact ih hs.startEntry
        · split
          next hr => exact ih (State.Canon.of_fst_eq hr hs.finishEntry)
          next hr => exact ih (State.Canon.of_fst_eq hr hs.finishEntry)

theorem State.Canon.touchRegions {s : State} {n : Nat} {o : MatrixOp} (hs : s.Canon) : (s.touchRegions n o).Canon := by
  unfold State.touchRegions
  split
  · exact hs
  · split
    · exact hs
    · split
      next t _ hr =>
        have ht : t.Canon := Acc.Canon.of_eq hr hs.fillLines
        exact State.Canon.ite ht.modCoreAt ht
      next hr => exact (Acc.Canon.of_eq hr hs.fillLines :)
      next hr => exact (Acc.Canon.of_eq hr hs.fillLines :)

theorem State.Canon.fillEntry {s : State} {n : Nat} {e : MatrixEntry} (hs : s.Canon) : (s.fillEntry n e).Canon := by
  unfold State.fillEntry
  dsimp only
  split
  next hr => exact State.Canon.modCoreAt (Acc.Canon.of_eq hr (Acc.Canon.ite hs hs.touchRegions))
  next hr => exact State.Canon.modCoreAt (Acc.Canon.of_eq hr (Acc.Canon.ite hs hs.touchRegions))
  next t _ _ hr =>
    have ht : t.Canon := Acc.Canon.of_eq hr (Acc.Canon.ite hs hs.touchRegions)
    split
    · exact ht.dropEntry.commandFault
    · exact ht

theorem State.Canon.fillEntries {s : State} {n : Nat} (hs : s.Canon) : (s.fillEntries n).Canon :=
  foldl_canon (fun _ _ h => h.fillEntry) hs

theorem State.Canon.settleCore {s : State} {n c : Nat} (hs : s.Canon) : (s.settleCore n c).Canon :=
  State.Canon.ite hs hs.fillEntries.settleMq

theorem State.Canon.execMatrixEntryStart {n i : Nat} {s0 : State} (hs0 : s0.Canon) : OutCanon (execMatrixEntryStart n i s0) := by
  unfold Machine.execMatrixEntryStart
  dsimp only
  refine State.Canon.done ?_
  split
  · split
    · exact hs0.fillEntries
    · split
      · dsimp only [State.Canon]
        exact hs0.fillEntries.startEntry
      · exact hs0.fillEntries
  · exact hs0.fillEntries

theorem State.Canon.execMatrixEntryComplete {n i : Nat} {s : State} (hs : s.Canon) : OutCanon (execMatrixEntryComplete n i s) := by
  unfold Machine.execMatrixEntryComplete
  refine State.Canon.done ?_
  split
  · split
    · dsimp only [State.Canon]
      exact hs.finishEntry
    · exact hs
  · exact hs

theorem State.Canon.overrunNext {s : State} (hs : s.Canon) : s.overrunNext.Canon := hs.modCore

theorem State.Canon.late {s : State} {dsts : List RegId} (hs : s.Canon) : (s.late dsts).Canon :=
  State.Canon.ite hs.overrunNext hs.modMe

theorem State.Canon.pendOn {s : State} {i : Instr} {page : Option (Nat × Nat)} {dsts : List RegId} (hs : s.Canon) : (s.pendOn i page dsts).Canon :=
  State.Canon.ite hs.late hs.modMe

theorem State.Canon.mxBody {s : State} {i : Instr} {o : MatrixOp} (hs : s.Canon) : (s.mxBody i o).Canon := by
  unfold State.mxBody
  dsimp only
  split
  · exact hs
  · split
    · exact hs
    · split
      · exact hs
      all_goals
        split
        next hr => exact State.Canon.pendOn (Acc.Canon.of_eq hr hs.touchRegions)
        next hr => exact State.Canon.deferMe (Acc.Canon.of_eq hr hs.touchRegions)
        next t _ hr =>
          have ht : t.Canon := Acc.Canon.of_eq hr hs.touchRegions
          cases o
          case maccrd => exact ht.modMe.enter
          all_goals exact ht.enter

theorem State.Canon.execOsclaim {c : Ctl} {d n : BitVec 6} {any : Bool} {s : State} (hs : s.Canon) : OutCanon (execOsclaim c d n any s) := by
  unfold Machine.execOsclaim
  dsimp only
  refine State.Canon.issue hs ?_
  split
  · split
    · exact hs.modCore.produce
    · exact hs.produce
  · exact Eff.Canon.ite hs.modCore.produce hs

/-! ### Engine -/

theorem State.Canon.takeEngine {s : State} {n : Nat} {gather : Bool} {c : Rec} {o : Origin} {ctx : Option Nat} {hint : BitVec 2} (hs : s.Canon) :
    (s.takeEngine n gather c o ctx hint).Canon :=
  hs

theorem State.Canon.offerEngine {s : State} {n : Nat} {gather : Bool} {c : Rec} {o : Origin} {ctx : Option Nat} {hint : BitVec 2} (hs : s.Canon) :
    (s.offerEngine n gather c o ctx hint).1.Canon := by
  unfold State.offerEngine
  dsimp only
  split
  · exact hs
  · split
    · exact hs.commandFault
    · exact hs.takeEngine

theorem Acc.Canon.engine {α : Type} {r : Acc α} (hr : r.Canon) : r.engine.Canon := by
  unfold Acc.engine
  split <;> exact hr

theorem State.Canon.engineRead {s : State} {i : Issuer} {h : BitVec 2} {a n : Nat} (hs : s.Canon) : (s.engineRead i h a n).Canon :=
  Acc.Canon.ite hs (Acc.Canon.engine (hs.reach.bind (fun _ _ h1 => h1.cacheLoad)))

theorem State.Canon.engineWrite {s : State} {i : Issuer} {h : BitVec 2} {a : Nat} {bs : List Byte} (hs : s.Canon) : (s.engineWrite i h a bs).Canon :=
  Acc.Canon.ite hs (Acc.Canon.engine (hs.reach.bind (fun _ _ h1 => h1.physWrite.cacheStore)))

theorem State.Canon.noteHint {s : State} {n : Nat} {e : EngineCmd} {attr : Nat} (hs : s.Canon) : (s.noteHint n e attr).1.Canon := by
  unfold State.noteHint
  split
  · split
    · exact hs.modCoreAt
    · exact hs
  all_goals exact hs

theorem State.Canon.padRead {s : State} {i : Issuer} {n a len : Nat} (hs : s.Canon) : (s.padRead i n a len).Canon := by
  unfold State.padRead
  split
  · exact hs.recordLoss.bind fun _ _ h => h
  · exact hs

theorem State.Canon.indexWord {s : State} {n : Nat} {e : EngineCmd} {j : Nat} (hs : s.Canon) : (s.indexWord n e j).Canon := by
  unfold State.indexWord
  split
  · exact hs
  · dsimp only
    split
    · exact hs
    · exact Acc.Canon.ite (hs.padRead.bind (fun _ _ h => h)) (hs.engineRead.bind (fun _ _ h1 => h1.noteHint))

theorem Acc.Canon.thenMoved {α : Type} {r : Acc α} {e : EngineCmd} {f : State → α → Moved} (hr : r.Canon) (hf : ∀ (t : State) (x : α), t.Canon →
    (f t x).Canon) :
    (r.thenMoved e f).Canon := by
  unfold Acc.thenMoved
  split
  · exact hf _ _ hr
  · exact hr
  · exact hr

theorem State.Canon.elemRead {s : State} {n : Nat} {e : EngineCmd} {a : Nat} (hs : s.Canon) : (s.elemRead n e a).Canon := by
  unfold State.elemRead
  dsimp only
  exact Acc.Canon.ite (Acc.Canon.ite hs hs.padRead.map) (hs.engineRead.bind (fun _ _ h => h.noteHint))

theorem State.Canon.elemWrite {s : State} {n : Nat} {e : EngineCmd} {a : Nat} {bs : List Byte} (hs : s.Canon) : (s.elemWrite n e a bs).Canon := by
  unfold State.elemWrite
  split
  · refine Acc.Canon.bind hs.engineWrite ?_
    intro t x h
    split
    next hr => exact State.Canon.of_fst_eq hr h.noteHint
  · exact hs.modCoreAt.noteStore
  · exact hs.modCoreAt

theorem State.Canon.moveElem {s : State} {n : Nat} {e : EngineCmd} {j : Nat} (hs : s.Canon) : (s.moveElem n e j).Canon :=
  hs.indexWord.thenMoved fun _ _ h => h.elemRead.thenMoved (fun _ _ h1 => h1.elemWrite.thenMoved (fun _ _ h2 => h2))

theorem State.Canon.moveElems {s : State} {n : Nat} {e : EngineCmd} {m : Nat} (hs : s.Canon) : (s.moveElems n e m).Canon := by
  induction m generalizing s e with
  | zero => exact hs
  | succ r ih =>
    unfold State.moveElems
    split
    next hr => exact ih (Moved.Canon.of_eq hr hs.moveElem)
    next hr => exact Moved.Canon.of_eq hr hs.moveElem
    next hr => exact Moved.Canon.of_eq hr hs.moveElem

theorem State.Canon.endEngine {s : State} {n : Nat} {gather : Bool} {e : EngineCmd} {failed : Bool} (hs : s.Canon) :
    (s.endEngine n gather e failed).Canon :=
  hs.modCoreAt

theorem State.Canon.putEngine {s : State} {n : Nat} {gather : Bool} {e : EngineCmd} (hs : s.Canon) : (s.putEngine n gather e).Canon :=
  hs.modCoreAt

theorem State.Canon.failEngine {s : State} {n : Nat} {gather : Bool} {e : EngineCmd} {code : BitVec 8} {addr : Nat} (hs : s.Canon) :
    (s.failEngine n gather e code addr).Canon := by
  unfold State.failEngine
  dsimp only
  split
  · exact State.Canon.ite (State.Canon.ite hs.putEngine hs.putEngine.countHold) hs.endEngine.commandFault
  · split
    · exact State.Canon.ite hs.modCoreAt.putEngine hs.modCoreAt.putEngine.countHold
    · exact hs.modCoreAt.endEngine.commandFault

theorem State.Canon.startWith {s : State} {n : Nat} {gather : Bool} {e : EngineCmd} {count : Nat} (hs : s.Canon) :
    (s.startWith n gather e count).Canon := by
  unfold State.startWith
  dsimp only
  split
  · exact hs.failEngine
  · split
    · exact hs.modCoreAt.failEngine
    · split
      next hr => exact (Moved.Canon.of_eq hr hs.modCoreAt.moveElems).putEngine
      next hr => exact (Moved.Canon.of_eq hr hs.modCoreAt.moveElems).putEngine
      next hr => exact (Moved.Canon.of_eq hr hs.modCoreAt.moveElems).failEngine

theorem State.Canon.execEngineCommandStart {n : Nat} {gather : Bool} {count : Nat} {s : State} (hs : s.Canon) :
    OutCanon (execEngineCommandStart n gather count s) := by
  unfold Machine.execEngineCommandStart
  refine State.Canon.done ?_
  split
  · exact hs
  · split
    · exact hs
    · split
      · exact hs.startWith
      · split
        next hr =>
          split
          next hr1 => exact (State.Canon.of_fst_eq hr1 ((Acc.Canon.of_eq hr hs.engineRead).noteHint)).startWith
        next hr => exact (Acc.Canon.of_eq hr hs.engineRead).putEngine
        next hr => exact (Acc.Canon.of_eq hr hs.engineRead).failEngine

theorem State.Canon.finishEngine {s : State} {n : Nat} {gather : Bool} {e : EngineCmd} (hs : s.Canon) : (s.finishEngine n gather e).Canon := by
  unfold State.finishEngine
  dsimp only
  split
  · exact State.Canon.ite hs hs.countHold.putEngine
  · split
    next hr => exact (Acc.Canon.of_eq hr hs.arriveAt).putEngine
    next hr => exact (Acc.Canon.of_eq hr hs.arriveAt).failEngine
    next t _ hr =>
      have ht : t.Canon := Acc.Canon.of_eq hr hs.arriveAt
      exact State.Canon.ite ht.endEngine.sinkBy.post ht.endEngine.sinkBy

theorem State.Canon.execEngineCommandComplete {n : Nat} {gather : Bool} {s : State} (hs : s.Canon) :
    OutCanon (execEngineCommandComplete n gather s) := by
  unfold Machine.execEngineCommandComplete
  refine State.Canon.done ?_
  split
  · exact hs
  · split
    · exact hs.failEngine
    · split
      · exact hs
      · split
        next hr => exact (Moved.Canon.of_eq hr hs.moveElems).putEngine
        next hr => exact (Moved.Canon.of_eq hr hs.moveElems).failEngine
        next hr => exact ((Moved.Canon.of_eq hr hs.moveElems).putEngine).finishEngine

theorem State.Canon.enterCommand {s : State} {n : Nat} {op : MatrixOp} {cmd : Rec} {o : Origin} {couch : Option Nat} {c : Nat} (hs : s.Canon) :
    (s.enterCommand n op cmd o couch c).Canon := by
  unfold State.enterCommand
  split
  · exact hs.commandFault
  · dsimp only
    split
    next hr => exact (Acc.Canon.of_eq hr hs.touchRegions).enter
    next hr => exact (Acc.Canon.of_eq hr hs.touchRegions).enter
    next hr => exact (Acc.Canon.of_eq hr hs.touchRegions).commandFault

theorem State.Canon.offerMatrix {s : State} {n : Nat} {cmd : Rec} {o : Origin} {c : Nat} (hs : s.Canon) : (s.offerMatrix n cmd o c).1.Canon := by
  unfold State.offerMatrix
  split
  · exact hs
  · split
    · exact hs.commandFault
    · exact hs.enterCommand

theorem State.Canon.offerPair {s : State} {n : Nat} {copy cmd : Rec} {o : Origin} {ctx : Option Nat} {hint : BitVec 2} {c : Nat} (hs : s.Canon) :
    (s.offerPair n copy cmd o ctx hint c).1.Canon := by
  unfold State.offerPair
  dsimp only
  split
  · exact hs
  · split
    · exact hs.commandFault
    · split
      · exact hs.commandFault
      · exact hs.takeEngine.enterCommand

theorem State.Canon.execCopyCommand {p : Pusher} {n : Nat} {c : Rec} {s : State} (hs : s.Canon) : OutCanon (execCopyCommand p n c s) := by
  unfold Machine.execCopyCommand
  split
  · exact Eff.Canon.out hs.offerEngine

theorem State.Canon.execGatherCommand {p : Pusher} {n : Nat} {c : Rec} {s : State} (hs : s.Canon) : OutCanon (execGatherCommand p n c s) := by
  unfold Machine.execGatherCommand
  split
  · exact Eff.Canon.out hs.offerEngine

theorem State.Canon.mcmd {s : State} {mop : Nat} {p : Pusher} {n : Nat} {c : Rec} (hs : s.Canon) : (s.mcmd mop p n c).Canon :=
  State.Canon.ite hs.offerMatrix hs

/-! ### Vector -/

theorem State.Canon.issueVx {s : State} {c : Ctl} {f : Form} {body : Eff} (hs : s.Canon) (hbody : body.Canon) : OutCanon (issueVx s c f body) :=
  hs.issue (Eff.Canon.ite hs hbody)

/-! ### Tile -/

theorem State.Canon.putTile {s : State} {e : TileEntry} (hs : s.Canon) : (s.putTile e).Canon := hs

theorem State.Canon.addTile {s : State} {e : TileEntry} (hs : s.Canon) : (s.addTile e).Canon := hs

theorem State.Canon.noteTile {s : State} {id attr fuel : Nat} (hs : s.Canon) : (s.noteTile id attr fuel).Canon := by
  induction fuel generalizing id with
  | zero =>
    unfold State.noteTile
    exact hs
  | succ f ih =>
    unfold State.noteTile
    cases s.tile id with
    | none => exact hs
    | some e =>
      dsimp only
      split
      · exact ih
      · exact State.Canon.ite hs.modCoreAt.putTile hs
      all_goals exact hs

theorem State.Canon.tileLoad {s : State} {e : TileEntry} {a n : Nat} (hs : s.Canon) : (s.tileLoad e a n).Canon :=
  hs.reach.bind fun _ _ h => h.cacheLoad.noteTile

theorem State.Canon.tileStore {s : State} {e : TileEntry} {a : Nat} {bs : List Byte} (hs : s.Canon) : (s.tileStore e a bs).Canon :=
  hs.reach.bind fun _ _ h => h.physWrite.cacheStore.noteTile.sinkBy

theorem State.Canon.readShape {s : State} {e : TileEntry} {k : Nat} (hs : s.Canon) : (s.readShape e k).Canon := by
  unfold State.readShape
  dsimp only
  split
  next hr => exact (Acc.Canon.of_eq hr hs.tileLoad :)
  next hr => exact (Acc.Canon.of_eq hr hs.tileLoad :)
  next hr => exact (Acc.Canon.of_eq hr hs.tileLoad :)

theorem State.Canon.readShapes {s : State} {e : TileEntry} {tq : Bool} {ks : List Nat} (hs : s.Canon) : (s.readShapes e tq ks).Canon := by
  induction ks generalizing s with
  | nil => exact hs
  | cons k r ih =>
    unfold State.readShapes
    dsimp only
    split
    · exact (ih hs).map
    · exact hs.readShape.bind fun _ _ h => Acc.Canon.ite h (ih h).map

theorem State.Canon.readParams {s : State} {e : TileEntry} (hs : s.Canon) : (s.readParams e).Canon := by
  unfold State.readParams
  split
  · exact hs
  · exact hs.readShape.map

theorem State.Canon.dealTo {s : State} {e : TileEntry} {n j todo : Nat} {queue : Nat → TileQueue} (hs : s.Canon) :
    (s.dealTo e n j todo queue).Canon := by
  induction todo generalizing s j with
  | zero => exact hs
  | succ m ih => exact ih (State.Canon.ite hs hs.addTile)

theorem State.Canon.deal {s : State} {e : TileEntry} (hs : s.Canon) : (s.deal e).Canon := by
  unfold State.deal
  dsimp only
  split
  · exact hs.dealTo
  · exact foldl_canon (fun _ _ h => h.dealTo) hs.dealTo
  · exact hs

theorem State.Canon.checkTile {s : State} {e : TileEntry} (hs : s.Canon) : (s.checkTile e).Canon := by
  unfold State.checkTile
  dsimp only
  split
  next hr => exact State.Canon.putTile (Acc.Canon.of_eq hr (hs.readParams.bind (fun _ _ h => Acc.Canon.ite h.readShapes.map h)))
  next hr => exact State.Canon.putTile (Acc.Canon.of_eq hr (hs.readParams.bind (fun _ _ h => Acc.Canon.ite h.readShapes.map h)))
  next hr => exact State.Canon.putTile (Acc.Canon.of_eq hr (hs.readParams.bind (fun _ _ h => Acc.Canon.ite h.readShapes.map h)))
  next t _ hr =>
    have ht : t.Canon := Acc.Canon.of_eq hr (hs.readParams.bind (fun _ _ h => Acc.Canon.ite h.readShapes.map h))
    split
    · exact ht.putTile
    · exact ht.putTile.deal

theorem State.Canon.joinBarrier {s : State} {e : TileEntry} (hs : s.Canon) : (s.joinBarrier e).Canon := by
  unfold State.joinBarrier
  dsimp only
  split
  · exact hs
  · exact State.Canon.ite hs.putTile (State.Canon.ite hs hs)

theorem State.Canon.offerTile {s : State} {q : TileQueue} {r : Rec} {o : Origin} {ctx : Nat} {phys : Bool} (hs : s.Canon) :
    (s.offerTile q r o ctx phys).1.Canon := by
  unfold State.offerTile
  split
  · exact hs
  · dsimp only
    split
    · exact hs.addTile
    · cases q
      case tq => exact Canon.fst_ite hs.addTile.modCoreAt.putTile.joinBarrier (Canon.fst_ite hs.addTile.modCoreAt.checkTile hs.addTile.modCoreAt)
      all_goals exact Canon.fst_ite hs.addTile.putTile.joinBarrier (Canon.fst_ite hs.addTile.checkTile hs.addTile)

theorem State.Canon.readEach {α β : Type} {s : State} {l : List α} {f : State → α → Acc β} (hs : s.Canon)
    (hf : ∀ (t : State) (x : α), t.Canon → (f t x).Canon) : (readEach s l f).Canon := by
  induction l generalizing s with
  | nil => exact hs
  | cons x r ih => exact (hf s x hs).bind fun _ _ h => (ih h).map

theorem State.Canon.tileRead {s : State} {e : TileEntry} {sh : Rec} {is : List Nat} (hs : s.Canon) : (s.tileRead e sh is).Canon :=
  Acc.Canon.ite hs.padRead.map hs.tileLoad.map

theorem State.Canon.tileWrite {s : State} {e : TileEntry} {w : Nat × Nat × List Byte} (hs : s.Canon) : (s.tileWrite e w).Canon := by
  unfold State.tileWrite
  split
  · exact Acc.Canon.ite hs.modCoreAt.noteStore.sinkBy hs.tileStore

theorem State.Canon.matmulUnit {s : State} {e : TileEntry} {t : Nat} (hs : s.Canon) : (s.matmulUnit e t).Canon := by
  unfold State.matmulUnit
  refine Acc.Canon.bind (hs.readEach fun _ _ h => h.readEach fun _ _ h' => h'.tileRead) fun _ _ hb => ?_
  refine Acc.Canon.bind (hb.readEach fun _ _ h => h.readEach fun _ _ h' => h'.tileRead) fun _ _ hc => ?_
  exact Acc.Canon.map (hc.readEach fun _ _ h => h.readEach fun _ _ h' => Acc.Canon.ite h' h'.tileRead)

theorem State.Canon.unitOut {s : State} {e : TileEntry} {u : Nat} (hs : s.Canon) : (s.unitOut e u).Canon := by
  unfold State.unitOut
  dsimp only
  split
  · exact hs.matmulUnit
  · exact Acc.Canon.map (hs.readEach (fun _ _ h => Acc.Canon.map (h.tileRead.bind (fun _ _ h1 => Acc.Canon.ite h1 h1.tileRead.map))))
  · exact Acc.Canon.map (hs.readEach (fun _ _ h => Acc.Canon.map (Acc.Canon.map (h.readEach (fun _ _ h1 => h1.tileRead)))))
  · exact Acc.Canon.map (hs.readEach (fun _ _ h => h.tileRead.map.map))
  · exact hs.tileRead.bind fun _ _ h => Acc.Canon.ite h (Acc.Canon.map (h.readEach (fun _ _ h1 => h1.tileRead.map)))
  · exact Acc.Canon.map (hs.readEach (fun _ _ h => h.tileRead.map.map))
  · exact Acc.Canon.map (hs.readEach (fun _ _ h => h.tileRead.map.map))
  · exact Acc.Canon.map (hs.readEach (fun _ _ h => Acc.Canon.map h))

theorem State.Canon.sliceKeys {s : State} {e : TileEntry} {u : Nat} (hs : s.Canon) : (s.sliceKeys e u).Canon :=
  hs.readEach fun _ _ h => h.tileRead.map

theorem State.Canon.flushTile {s : State} {e : TileEntry} {ws : List (Nat × Nat × List Byte)} (hs : s.Canon) : (s.flushTile e ws).Canon := by
  induction ws generalizing s e with
  | nil => exact hs
  | cons w r ih =>
    unfold State.flushTile
    split
    next hr => exact ih (Acc.Canon.of_eq hr hs.tileWrite)
    next hr => exact Acc.Canon.of_eq hr hs.tileWrite
    next hr => exact Acc.Canon.of_eq hr hs.tileWrite

theorem State.Canon.runUnits {s : State} {e : TileEntry} {m : Nat} (hs : s.Canon) : (s.runUnits e m).Canon := by
  induction m generalizing s e with
  | zero => exact hs
  | succ r ih =>
    unfold State.runUnits
    dsimp only
    split
    · split
      next hr => exact ih (Acc.Canon.of_eq hr hs.sliceKeys)
      next hr => exact Acc.Canon.of_eq hr hs.sliceKeys
      next hr => exact Acc.Canon.of_eq hr hs.sliceKeys
    · split
      next hr => exact Acc.Canon.of_eq hr hs.unitOut
      next hr => exact Acc.Canon.of_eq hr hs.unitOut
      next t _ hr =>
        have ht : t.Canon := Acc.Canon.of_eq hr hs.unitOut
        split
        next hr' => exact ih (TileRun.Canon.of_eq hr' ht.flushTile)
        next hr' => exact TileRun.Canon.of_eq hr' ht.flushTile
        next hr' => exact TileRun.Canon.of_eq hr' ht.flushTile

theorem State.Canon.runLeaf {s : State} {e : TileEntry} (hs : s.Canon) : (s.runLeaf e).Canon := by
  unfold State.runLeaf
  split
  · exact hs.runUnits
  · split
    next hr => exact (TileRun.Canon.of_eq hr hs.flushTile).runUnits
    next hr => exact (TileRun.Canon.of_eq hr hs.flushTile :)
    next hr => exact (TileRun.Canon.of_eq hr hs.flushTile :)

theorem State.Canon.writeRanked {s : State} {e : TileEntry} (hs : s.Canon) : (s.writeRanked e).Canon :=
  TileRun.Canon.ite hs (TileRun.Canon.ite hs hs.flushTile)

theorem State.Canon.notifyTile {s : State} {o : Origin} {tag : Nat} {cblk : Word} {ev : Bool} {code : BitVec 8} {addr : Word} {r : Rep}
    (hs : s.Canon) :
    (s.notifyTile o tag cblk ev code addr r).Canon := by
  unfold State.notifyTile
  dsimp only
  split
  next hr =>
    split
    · refine State.Canon.post ?_
      refine OptCanon.of_eq hr ?_
      split
      · exact hs
      · split
        · exact hs.faultTask
        · exact hs
        · exact hs
        · exact trivial
        · exact trivial
    · refine OptCanon.of_eq hr ?_
      split
      · exact hs
      · split
        · exact hs.faultTask
        · exact hs
        · exact hs
        · exact trivial
        · exact trivial
  · exact hs.post

theorem State.Canon.reportTo {s : State} {i : Issuer} {r : Rec} {o : Origin} {rep : Rep} {x : Nat} {words : Bool} {note : State → Nat → State}
    (hs : s.Canon) (hnote : ∀ (t : State) (attr : Nat), t.Canon → (note t attr).Canon) : (s.reportTo i r o rep x words note).Canon := by
  unfold State.reportTo
  dsimp only
  split
  · exact hs
  · split
    · exact hs.notifyTile
    · split
      next hr => exact Acc.Canon.of_eq hr (Acc.Canon.ite hs hs.reach)
      next t _ _ hr =>
        have ht : t.Canon := Acc.Canon.of_eq hr (Acc.Canon.ite hs hs.reach)
        split
        · exact hs
        · exact ht.notifyTile
      next t pa attr hr =>
        have ht : t.Canon := Acc.Canon.of_eq hr (Acc.Canon.ite hs hs.reach)
        have ht1 : (if words = true then t.physWrite (pa + 16) (rep.bytesOf (tiTag r)) else t).Canon := State.Canon.ite ht.physWrite ht
        split
        next hr' => exact (hnote _ _ (State.Canon.cacheStore (Acc.Canon.of_eq hr' ht1.arrive))).sinkBy.notifyTile
        next hr' => exact (hnote _ _ (State.Canon.cacheStore (Acc.Canon.of_eq hr' ht1.arrive))).sinkBy.notifyTile
        next hr' => exact (hnote _ _ (State.Canon.cacheStore (Acc.Canon.of_eq hr' ht1.arrive))).sinkBy.notifyTile

theorem State.Canon.dropTile {s : State} {e : TileEntry} (hs : s.Canon) : (s.dropTile e).Canon := by
  unfold State.dropTile
  dsimp only
  split
  · split
    · exact hs
    · split
      · exact hs
      · exact State.Canon.putTile hs
  · refine State.Canon.modCoreAt ?_
    split
    · exact State.Canon.ite (State.Canon.modAgent hs) hs
    · split
      · exact State.Canon.ite (State.Canon.modAgent hs) hs
      · exact State.Canon.ite (State.Canon.modAgent (State.Canon.putTile hs)) (State.Canon.putTile hs)

theorem State.Canon.endTile {s : State} {e : TileEntry} (hs : s.Canon) : (s.endTile e).Canon := by
  unfold State.endTile
  split
  · exact hs.dropTile
  · split
    next hr => exact State.Canon.dropTile (Reported.Canon.of_eq hr (hs.reportTo (fun _ _ h => h.noteTile)))
    next hr => exact State.Canon.putTile (Reported.Canon.of_eq hr (hs.reportTo (fun _ _ h => h.noteTile)))
    next t hr =>
      have ht : t.Canon := Reported.Canon.of_eq hr (hs.reportTo (fun _ _ h => h.noteTile))
      exact State.Canon.ite ht.putTile ht.putTile.countHold

theorem State.Canon.afterRun {s : State} {r : TileRun} (_ : s.Canon) (hr : r.Canon) : (s.afterRun r).Canon := by
  unfold State.afterRun
  dsimp only
  split
  · exact hr.putTile
  · exact hr.putTile.endTile
  · split
    next hr1 => exact State.Canon.putTile (TileRun.Canon.of_eq hr1 hr.writeRanked)
    next hr1 => exact State.Canon.endTile (State.Canon.putTile (TileRun.Canon.of_eq hr1 hr.writeRanked))
    next hr1 => exact State.Canon.endTile (State.Canon.putTile (TileRun.Canon.of_eq hr1 hr.writeRanked))

/-! ### Launch -/

theorem State.Canon.touchClock {s : State} {num : Nat} (hs : s.Canon) : (s.touchClock num).Canon :=
  hs.modLaunch

theorem State.Canon.execWatchdogExpiry {num : Nat} {s : State} (hs : s.Canon) : OutCanon (execWatchdogExpiry num s) := by
  unfold Machine.execWatchdogExpiry
  dsimp only
  refine State.Canon.done ?_
  split
  · exact hs.touchClock
  · exact State.Canon.ite hs.touchClock hs.touchClock.modLaunch.post

theorem State.Canon.launchWaits {s : State} {num d : Nat} (hs : s.Canon) : (s.launchWaits num d).Canon :=
  State.Canon.ite hs hs.modLaunch.countHold

theorem State.Canon.logWaits {s : State} {num : Nat} {p : Option (Nat × Nat)} (hs : s.Canon) : (s.logWaits num p).Canon :=
  State.Canon.ite hs.modLaunch hs

theorem State.Canon.recordDecision {s : State} {num e v : Nat} (hs : s.Canon) : (s.recordDecision num e v).Canon := by
  unfold State.recordDecision
  split
  · exact hs
  · split
    · exact hs
    · split
      · exact hs.modLaunch
      · dsimp only
        split
        next hr => exact State.Canon.logWaits (Acc.Canon.of_eq hr (Acc.Canon.ite hs hs.readMem))
        next hr => exact (Acc.Canon.of_eq hr (Acc.Canon.ite hs hs.readMem) :)
        next t _ hr =>
          have ht : t.Canon := Acc.Canon.of_eq hr (Acc.Canon.ite hs hs.readMem)
          split
          · split
            · exact ht.launchWaits
            · split
              next hr1 => exact State.Canon.logWaits (Acc.Canon.of_eq hr1 ht.writeMem)
              next hr1 => exact State.Canon.post (State.Canon.modLaunch (Acc.Canon.of_eq hr1 ht.writeMem))
              next hr1 => exact State.Canon.post (State.Canon.modLaunch (Acc.Canon.of_eq hr1 ht.writeMem))
          · split
            next hr1 => exact State.Canon.logWaits (Acc.Canon.of_eq hr1 ht.writeMem)
            next hr1 => exact (Acc.Canon.of_eq hr1 ht.writeMem :)
            next hr1 => exact State.Canon.modLaunch (Acc.Canon.of_eq hr1 ht.writeMem)

theorem State.Canon.seekEntry {s : State} {i : Issuer} {a key j n : Nat} (hs : s.Canon) : (s.seekEntry i a key j n).Canon := by
  induction n generalizing s j with
  | zero => exact hs
  | succ m ih => exact hs.readMem.bind fun _ _ h => Acc.Canon.ite h (ih h)

theorem State.Canon.replayOf {s : State} {l : Launch} {key : Nat} (hs : s.Canon) : (s.replayOf l key).1.Canon := by
  unfold State.replayOf
  split
  · exact hs
  · split
    · exact hs.modLaunch
    · dsimp only
      split
      next hr => exact State.Canon.logWaits (Acc.Canon.of_eq hr (Acc.Canon.ite hs hs.readMem))
      next hr => exact Acc.Canon.of_eq hr (Acc.Canon.ite hs hs.readMem)
      next t _ hr =>
        have ht : t.Canon := Acc.Canon.of_eq hr (Acc.Canon.ite hs hs.readMem)
        split
        next hr1 => exact Acc.Canon.of_eq hr1 ht.seekEntry
        next hr1 => exact Acc.Canon.of_eq hr1 ht.seekEntry
        next hr1 => exact (Acc.Canon.of_eq hr1 ht.seekEntry).logWaits
        next hr1 => exact Acc.Canon.of_eq hr1 ht.seekEntry

theorem State.Canon.tookEntry {s : State} {num key j : Nat} (hs : s.Canon) : (s.tookEntry num key j).Canon :=
  hs.modLaunch

theorem State.Canon.modAllCores {s : State} {f : Core → Core} (hs : s.Canon) : (s.modAllCores f).Canon :=
  foldl_canon (fun _ _ h => h.modCoreAt) hs

theorem State.Canon.mismatch {s : State} {l : Launch} {j kind who : Nat} (hs : s.Canon) : (s.mismatch l j kind who).Canon :=
  State.Canon.ite hs hs.modLaunch.modAllCores.post

theorem State.Canon.noteLaunch {s : State} {num attr : Nat} (hs : s.Canon) : (s.noteLaunch num attr).Canon := by
  unfold State.noteLaunch
  split
  · exact hs
  · split
    · exact State.Canon.ite hs.modCoreAt.modLaunch hs
    all_goals exact hs

theorem State.Canon.countLaunchHint {s : State} {o : Origin} {hint : Bool} (hs : s.Canon) : (s.countLaunchHint o hint).Canon := by
  unfold State.countLaunchHint
  split
  · exact State.Canon.ite hs.modCoreAt hs
  all_goals exact hs

theorem State.Canon.checkLaunch {s : State} {agent : Nat} {r : Rec} {o : Origin} {ctx depth lvl : Nat} (hs : s.Canon) :
    (s.checkLaunch agent r o ctx depth lvl).Canon := by
  unfold State.checkLaunch
  dsimp only
  split
  · exact hs
  · split
    · exact hs
    · split
      · exact LaunchCheck.Canon.ite hs hs
      · split
        next hr => exact (Acc.Canon.of_eq hr (hs.reach.bind (fun _ _ h => h.cacheLoad)) :)
        next hr => exact (Acc.Canon.of_eq hr (hs.reach.bind (fun _ _ h => h.cacheLoad)) :)
        next t _ _ hr =>
          have ht : t.Canon := Acc.Canon.of_eq hr (hs.reach.bind (fun _ _ h => h.cacheLoad))
          exact LaunchCheck.Canon.ite ht.countLaunchHint (LaunchCheck.Canon.ite ht.countLaunchHint ht)

theorem State.Canon.takeLaunch {s0 : State} {r tb : Rec} {o : Origin} {ctx depth prio : Nat} {scope : Option TileQueue} {lvl : Nat}
    {onDie : Option Nat} {phys : Bool} {place : Nat} {hint : Bool} (hs0 : s0.Canon) :
    (s0.takeLaunch r tb o ctx depth prio scope lvl onDie phys place hint).Canon := by
  unfold State.takeLaunch
  extract_lets s num unbind l mark pushed
  have hs : s.Canon := hs0.countLaunchHint
  have hmark : mark.Canon := by
    dsimp only [mark]
    split
    · exact State.Canon.ite hs.modLaunch hs
    · exact hs
  have hpushed : pushed.Canon := by
    dsimp only [pushed]
    split
    · exact hmark.modTask
    all_goals exact hmark
  exact State.Canon.post hpushed

theorem State.Canon.offerLaunch {s : State} {q : TileQueue} {lq : Bool} {r : Rec} {o : Origin} {ctx : Nat} {phys : Bool} {die : Nat}
    (hs : s.Canon) : (s.offerLaunch q lq r o ctx phys die).1.Canon := by
  unfold State.offerLaunch
  split
  next prio depth0 _ =>
  extract_lets depth lvl e refuse later
  have hlater {t : State} {p : Option (Nat × Nat)} (ht : t.Canon) : (later t p).1.Canon := by
    dsimp only [later]
    split
    · exact hs
    · exact ht.addTile
  refine Canon.fst_ite hs.addTile (Canon.fst_ite (hlater hs) ?_)
  split
  next hr => exact hlater (LaunchCheck.Canon.of_eq hr hs.checkLaunch)
  next hr => exact State.Canon.addTile (LaunchCheck.Canon.of_eq hr hs.checkLaunch)
  next hr =>
    split
    · exact hs
    · exact State.Canon.takeLaunch (LaunchCheck.Canon.of_eq hr hs.checkLaunch)

theorem State.Canon.retryLaunch {s : State} {e : TileEntry} {lq : Bool} {die : Nat} (hs : s.Canon) : (s.retryLaunch e lq die).Canon := by
  unfold State.retryLaunch
  dsimp only
  split
  · exact hs
  · split
    next hr => exact (LaunchCheck.Canon.of_eq hr hs.checkLaunch).putTile
    next hr => exact (LaunchCheck.Canon.of_eq hr hs.checkLaunch).putTile
    next t _ _ hr =>
      have ht : t.Canon := LaunchCheck.Canon.of_eq hr hs.checkLaunch
      split
      · exact ht.putTile
      · exact State.Canon.takeLaunch ht

theorem State.Canon.releaseCore {s : State} {n : Nat} (hs : s.Canon) : (s.releaseCore n).Canon :=
  hs.settleCore.modCoreAt

theorem State.Canon.dropLaunch {s : State} {num : Nat} (hs : s.Canon) : (s.dropLaunch num).Canon :=
  foldl_canon (fun _ _ h => h.releaseCore) hs

theorem State.Canon.tryFinish {s : State} {num : Nat} (hs : s.Canon) : (s.tryFinish num).Canon := by
  unfold State.tryFinish
  split
  · exact hs
  next l _ =>
    split
    · exact hs
    · extract_lets target records o report
      have hreport {t : State} (ht : t.Canon) : (report t).Canon := by
        dsimp only [report]
        split
        next hr => exact State.Canon.launchWaits (Reported.Canon.of_eq hr (ht.reportTo fun _ _ h => h.noteLaunch))
        next hr => exact State.Canon.modLaunch (Reported.Canon.of_eq hr (ht.reportTo fun _ _ h => h.noteLaunch))
        next u hr =>
          have hu : u.Canon := Reported.Canon.of_eq hr (ht.reportTo fun _ _ h => h.noteLaunch)
          exact State.Canon.ite hu.post.dropLaunch hu.post.dropLaunch.post.dropLaunch
      split
      · exact hs.launchWaits
      · split
        · exact hreport hs
        · split
          next hr => exact State.Canon.modLaunch (Acc.Canon.of_eq hr hs.writeMem)
          next hr => exact hreport (Acc.Canon.of_eq hr hs.writeMem)
          next hr => exact hreport (Acc.Canon.of_eq hr hs.writeMem)

theorem State.Canon.activate {s : State} {l : Launch} (hs : s.Canon) : (s.activate l).Canon := by
  unfold State.activate
  split
  · exact hs
  · exact hs.modLaunch

theorem State.Canon.beginTask {s : State} {l : Launch} {d x n c origin : Nat} (hs : s.Canon) : (s.beginTask l d x n c origin).Canon := by
  unfold State.beginTask
  refine State.Canon.touchClock ?_
  dsimp only [State.Canon]
  exact hs.modCoreAt.setAgent.modLaunch

theorem State.Canon.readLogs {s : State} {d : Nat} (hs : s.Canon) : (s.readLogs d).Canon := by
  unfold State.readLogs
  refine foldl_canon ?_ hs
  intro t x h
  split
  · exact h
  · split
    next hr => exact State.Canon.of_fst_eq hr h.replayOf
    all_goals exact h

theorem State.Canon.placing {s : State} {l : Launch} {d x n : Nat} (hs : s.Canon) : (s.placing l d x n).Canon := by
  unfold State.placing
  dsimp only
  split
  next t hr =>
    have ht : t.Canon := State.Canon.of_fst_eq hr hs.replayOf
    split
    next hr1 => exact (Acc.Canon.of_eq hr1 ht.recordDecision :)
    next hr1 => exact (Acc.Canon.of_eq hr1 ht.recordDecision :)
    next hr1 => exact (Acc.Canon.of_eq hr1 ht.recordDecision :)
  next hr => exact (State.Canon.of_fst_eq hr hs.replayOf).mismatch
  next hr => exact State.Canon.of_fst_eq hr hs.replayOf
  next t _ _ _ hr =>
    have ht : t.Canon := State.Canon.of_fst_eq hr hs.replayOf
    exact Placing.Canon.ite ht.mismatch (Placing.Canon.ite ht.tookEntry ht)

theorem State.Canon.gatherOn {s : State} {l : Launch} {d m : Nat} (hs : s.Canon) : (s.gatherOn l d m).Canon := by
  induction m generalizing s with
  | zero => exact hs
  | succ k ih =>
    unfold State.gatherOn
    split
    · exact hs
    · split
      · exact hs
      · exact ih hs.modCoreAt

theorem State.Canon.execLaunchActivate {num : Nat} {s : State} (hs : s.Canon) : OutCanon (execLaunchActivate num s) := by
  unfold Machine.execLaunchActivate
  refine State.Canon.done ?_
  split
  · exact hs
  · split
    · exact hs
    · exact State.Canon.ite (foldl_canon (fun _ _ h => h.gatherOn) hs) (State.Canon.ite hs hs.activate.tryFinish)

theorem State.Canon.execTaskDispatch {d n : Nat} {s0 : State} (hs0 : s0.Canon) : OutCanon (execTaskDispatch d n s0) := by
  unfold Machine.execTaskDispatch
  dsimp only
  refine State.Canon.done ?_
  split
  · exact hs0.readLogs
  · split
    · exact State.Canon.ite hs0.readLogs.putTile hs0.readLogs
    · exact hs0.readLogs
  · split
    · exact hs0.readLogs
    · split
      · exact hs0.readLogs
      · split
        next hr => exact (Placing.Canon.of_eq hr hs0.readLogs.placing).beginTask
        next hr => exact Placing.Canon.of_eq hr hs0.readLogs.placing
  · exact hs0.readLogs

theorem State.Canon.beginStrands {s : State} {l : Launch} {d : Nat} {ks ns : List Nat} {c : Nat} (hs : s.Canon) :
    (s.beginStrands l d ks ns c).Canon := by
  induction ks generalizing s ns with
  | nil =>
    unfold State.beginStrands
    exact hs
  | cons k kr ih =>
    cases ns with
    | nil => exact hs
    | cons n nr =>
      unfold State.beginStrands
      refine ih ?_
      split
      · exact hs.beginTask
      · exact hs

theorem State.Canon.execStampedGatherDone {num : Nat} {s : State} (hs : s.Canon) : OutCanon (execStampedGatherDone num s) := by
  unfold Machine.execStampedGatherDone
  refine State.Canon.done ?_
  split
  · exact hs
  · split
    · exact hs
    · dsimp only
      split
      · exact hs.activate.modLaunch
      · exact State.Canon.tryFinish (foldl_canon (fun _ _ h => h.beginStrands) hs.activate.modLaunch)

theorem State.Canon.execStampedStrandNext {n : Nat} {s : State} (hs : s.Canon) : OutCanon (execStampedStrandNext n s) := by
  unfold Machine.execStampedStrandNext
  dsimp only
  refine State.Canon.done ?_
  split
  · split
    · exact hs.releaseCore
    · split
      · exact hs
      · split
        · exact hs.releaseCore
        · split
          · exact hs.releaseCore
          · exact State.Canon.ite hs.releaseCore (State.Canon.ite hs.modAgent hs.beginTask)
  · exact hs

theorem State.Canon.execTaskComplete {n : Nat} {s0 : State} (hs0 : s0.Canon) : OutCanon (execTaskComplete n s0) := by
  unfold Machine.execTaskComplete
  dsimp only
  refine State.Canon.done ?_
  split
  · exact hs0.settleCore
  · exact State.Canon.ite hs0.settleCore hs0.settleCore.setCore.setAgent.modLaunch.touchClock

theorem State.Canon.reportBound {s : State} {l : Launch} {d : Done} (hs : s.Canon) : (s.reportBound l d).1.Canon := by
  unfold State.reportBound
  dsimp only
  split
  · exact hs
  · split
    next hr => exact State.Canon.modLaunch (Reported.Canon.of_eq hr (hs.reportTo (fun _ _ h => h.noteLaunch)))
    next hr => exact State.Canon.launchWaits (Reported.Canon.of_eq hr (hs.reportTo (fun _ _ h => h.noteLaunch)))
    next hr => exact State.Canon.modLaunch (Reported.Canon.of_eq hr (hs.reportTo (fun _ _ h => h.noteLaunch)))

theorem State.Canon.execTaskReport {num d : Nat} {s : State} (hs : s.Canon) : OutCanon (execTaskReport num d s) := by
  unfold Machine.execTaskReport
  refine State.Canon.done ?_
  split
  · exact hs
  · split
    · exact hs.tryFinish
    · split
      next hr =>
        split
        · refine State.Canon.of_fst_eq hr ?_
          split
          · exact hs.reportBound
          · exact hs
        · refine State.Canon.tryFinish ?_
          refine State.Canon.modLaunch ?_
          refine State.Canon.of_fst_eq hr ?_
          split
          · exact hs.reportBound
          · exact hs

/-! ### Sched -/

theorem State.Canon.execYield {c : Ctl} {s : State} (hs : s.Canon) : OutCanon (execYield c s) := by
  unfold Machine.execYield
  refine State.Canon.issue hs ?_
  change State.Canon _
  split
  · exact State.Canon.ite hs.modCore hs
  · exact hs

theorem State.Canon.writeSlot {s : State} {d slot : Nat} (hs : s.Canon) : (s.writeSlot d slot).Canon :=
  State.Canon.physWrite hs

theorem State.Canon.saveTask {s : State} {n : Nat} {t : Task} {cause slot : Nat} (hs : s.Canon) : (s.saveTask n t cause slot).Canon :=
  hs.writeSlot.modDie.setCore.setAgent.touchClock

theorem State.Canon.execTaskStop {n : Nat} {s0 : State} (hs0 : s0.Canon) : OutCanon (execTaskStop n s0) := by
  unfold Machine.execTaskStop
  dsimp only
  refine State.Canon.done ?_
  split
  · exact hs0.settleCore.modCoreAt
  · split
    · exact hs0.settleCore.modCoreAt
    · split
      · exact hs0.settleCore.modCoreAt.modCoreAt
      · split
        · exact State.Canon.ite hs0.settleCore.modCoreAt.modCoreAt hs0.settleCore.modCoreAt.modCoreAt.saveTask
        · split
          · exact hs0.settleCore.modCoreAt.modCoreAt.modCoreAt
          · exact State.Canon.ite hs0.settleCore.modCoreAt.modCoreAt hs0.settleCore.modCoreAt.modCoreAt.modCoreAt.post

theorem State.Canon.restore {s : State} {d n : Nat} {x : Saved} (hs : s.Canon) : (s.restore d n x).Canon := by
  unfold State.restore
  dsimp only
  refine State.Canon.touchClock ?_
  split
  · exact hs.setCore.setAgent.modDie.modLaunch
  · exact hs.setCore.setAgent.modDie

theorem State.Canon.execTaskResume {d n : Nat} {s0 : State} (hs0 : s0.Canon) : OutCanon (execTaskResume d n s0) := by
  unfold Machine.execTaskResume
  dsimp only
  refine State.Canon.done ?_
  split
  · split
    · split
      · exact hs0.readLogs
      · split
        next hr => exact (Placing.Canon.of_eq hr hs0.readLogs.placing).restore
        next hr => exact Placing.Canon.of_eq hr hs0.readLogs.placing
    · exact hs0.readLogs
  all_goals exact hs0.readLogs

theorem State.Canon.lcmdRelease {s : State} {val : Word} (hs : s.Canon) : (s.lcmdRelease val).Canon := by
  unfold State.lcmdRelease
  split
  · exact hs.modLaunch
  · exact hs

theorem State.Canon.lcmdAbort {s : State} {val : Word} (hs : s.Canon) : (s.lcmdAbort val).Canon := by
  unfold State.lcmdAbort
  dsimp only
  split
  · exact hs
  · split
    · exact hs
    · split
      · exact hs
      · exact State.Canon.tryFinish (foldl_canon (fun _ _ h => State.Canon.ite h h.modDie) (foldl_canon (fun _ _ h1 => h1.modCoreAt) hs.modLaunch))

theorem State.Canon.lcmdContinue {s : State} {val : Word} (hs : s.Canon) : (s.lcmdContinue val).Canon := by
  unfold State.lcmdContinue
  split
  · exact State.Canon.ite hs.modLaunch hs
  · exact hs

theorem State.Canon.writeLcmd {s : State} {val : Word} (hs : s.Canon) : (s.writeLcmd val).Canon := by
  unfold State.writeLcmd
  split
  · exact hs.lcmdRelease
  · exact hs.lcmdAbort
  · exact hs.lcmdContinue
  · exact hs

theorem State.Canon.writeEvict {s : State} {d : Nat} {val : Word} (hs : s.Canon) : (s.writeEvict d val).Canon := by
  unfold State.writeEvict
  dsimp only
  split
  · exact hs
  · split
    · exact hs.modCoreAt
    · exact hs

theorem State.Canon.ringPut {s : State} {x : Die} {i : Nat} {chunks : List (List Byte)} (hs : s.Canon) : (ringPut s x i chunks).Canon := by
  induction chunks generalizing s i with
  | nil => exact hs
  | cons c r ih => exact ih hs.physWrite

theorem State.Canon.execEventRecordPost {d : Nat} {s : State} (hs : s.Canon) : OutCanon (execEventRecordPost d s) := by
  unfold Machine.execEventRecordPost
  dsimp only
  refine State.Canon.done ?_
  split
  · exact hs
  · split
    · exact hs.modDie
    · split
      · exact State.Canon.ite hs hs.modDie
      · split
        · exact hs
        · refine State.Canon.modDie ?_
          refine State.Canon.ringPut ?_
          split
          · exact State.Canon.ite hs hs.sink
          · exact hs

/-! ### Xlate -/

theorem State.Canon.writeCtxroot {s : State} {n : Nat} {val : Word} (hs : s.Canon) : (s.writeCtxroot n val).Canon :=
  hs

theorem State.Canon.lockPage {s : State} {d : Nat} {val : Word} (hs : s.Canon) : (s.lockPage d val).Canon := by
  unfold State.lockPage
  dsimp only
  split
  · exact hs.awaitRoom
  · split
    · exact State.Canon.ite hs.noteWalk hs.noteWalk.setDie
    all_goals exact hs.noteWalk

theorem State.Canon.unlockPage {s : State} {d : Nat} {val : Word} (hs : s.Canon) : (s.unlockPage d val).Canon :=
  hs.modDie

theorem State.Canon.writeTlblock {s : State} {d : Nat} {val : Word} (hs : s.Canon) : (s.writeTlblock d val).Canon := by
  unfold State.writeTlblock
  split
  · exact hs.lockPage
  · exact hs.unlockPage
  · exact hs

theorem State.Canon.dropRange {s : State} {ctx va size : Nat} (hs : s.Canon) : (s.dropRange ctx va size).Canon :=
  State.Canon.modAllCores (foldl_canon (fun _ _ h => State.Canon.ite h.modDie h) hs)

theorem State.Canon.shootdown {s : State} {n : Nat} (hs : s.Canon) : (s.shootdown n).Canon := by
  unfold State.shootdown
  dsimp only
  split
  · exact hs
  · split
    · exact hs
    · dsimp only [State.Canon]
      exact hs.dropRange

theorem State.Canon.writeSdctl {s : State} {n : Nat} {val : Word} (hs : s.Canon) : (s.writeSdctl n val).Canon :=
  hs

theorem State.Canon.copyLines {s : State} {d src dst : Nat} {ls : List Nat} (hs : s.Canon) : (s.copyLines d src dst ls).Canon := by
  induction ls generalizing s with
  | nil => exact hs
  | cons l r ih =>
    unfold State.copyLines
    refine ih ?_
    split
    · exact State.Canon.noteLoss hs.physWrite
    · exact hs.physWrite

theorem State.Canon.modMig {s : State} {d : Nat} {f : Migration → Migration} (hs : s.Canon) : (s.modMig d f).Canon :=
  hs.modDie

theorem State.Canon.migGo {s : State} {d : Nat} (hs : s.Canon) : (s.migGo d).Canon := by
  unfold State.migGo
  dsimp only
  split
  · exact hs
  · split
    · exact hs.awaitRoom
    · split
      · exact hs.modMig
      · split
        · exact hs.modMig.copyLines
        · exact hs.noteWalk.modMig

theorem State.Canon.execMigrationRound {d : Nat} {s : State} (hs : s.Canon) : OutCanon (execMigrationRound d s) := by
  unfold Machine.execMigrationRound
  dsimp only
  exact State.Canon.done (State.Canon.ite hs (State.Canon.ite hs.awaitRoom (State.Canon.modMig (State.Canon.copyLines hs))))

theorem State.Canon.execMigrationSwitch {d : Nat} {s : State} (hs : s.Canon) : OutCanon (execMigrationSwitch d s) := by
  unfold Machine.execMigrationSwitch
  dsimp only
  refine State.Canon.done ?_
  split
  · exact hs
  · exact State.Canon.ite hs.awaitRoom (State.Canon.ite hs.copyLines.modMig hs.copyLines.modMig.physWrite.dropRange)

theorem State.Canon.loseWord {s : State} {pa : Nat} (hs : s.Canon) : (s.loseWord pa).Canon :=
  State.Canon.post (State.Canon.modDie (State.Canon.ite hs hs))

theorem State.Canon.loseCopy {s : State} {n pa : Nat} (hs : s.Canon) : (s.loseCopy n pa).Canon :=
  hs.post.modDie

theorem State.Canon.strike {h : Nat} {s : State} {x : Spot} (hs : s.Canon) : (State.strike h s x).Canon := by
  unfold State.strike
  split
  · exact State.Canon.ite hs.loseWord hs
  · exact State.Canon.ite hs.loseCopy hs
  · exact State.Canon.ite hs.modCoreAt hs

/-! ### Power -/

theorem State.Canon.alert {s : State} {m : BitVec 8} (hs : s.Canon) : (s.alert m).Canon :=
  State.Canon.ite hs hs

theorem State.Canon.clearAlert {s : State} {m : BitVec 8} (hs : s.Canon) : (s.clearAlert m).Canon := hs

theorem State.Canon.alertCore {s : State} {c : Nat} {m : BitVec 8} (hs : s.Canon) : (s.alertCore c m).Canon := by
  unfold State.alertCore
  split
  · exact hs
  · dsimp only [State.Canon]
    exact hs.alert

theorem State.Canon.alertStack {s : State} {h : Nat} {m : BitVec 8} (hs : s.Canon) : (s.alertStack h m).Canon := by
  unfold State.alertStack
  split
  · exact hs
  · dsimp only [State.Canon]
    exact hs.alert

theorem State.Canon.writeMxcad {s : State} {c : Nat} {val : Word} (hs : s.Canon) : (s.writeMxcad c val).Canon :=
  State.Canon.ite hs (State.Canon.ite hs (State.Canon.ite hs.settleCore.modCoreAt hs.modCoreAt))

theorem State.Canon.writeClkctl {s : State} {val : Word} (hs : s.Canon) : (s.writeClkctl val).Canon := by
  unfold State.writeClkctl
  dsimp only
  split
  · exact hs
  · dsimp only [State.Canon]
    exact State.Canon.ite hs.modAllCores hs

theorem State.Canon.execClockChangeProceed {s : State} (hs : s.Canon) : OutCanon (execClockChangeProceed s) := by
  unfold Machine.execClockChangeProceed
  refine State.Canon.done ?_
  split
  · exact State.Canon.ite hs hs
  · exact hs

theorem State.Canon.trimRails {s : State} (hs : s.Canon) : s.trimRails.Canon := by
  unfold State.trimRails
  dsimp only [State.Canon]
  exact foldl_canon (fun _ _ h => h.modDie) hs

theorem State.Canon.execClockRailsTrimmed {s : State} (hs : s.Canon) : OutCanon (execClockRailsTrimmed s) := by
  unfold Machine.execClockRailsTrimmed
  refine State.Canon.done ?_
  split
  · split
    · exact hs
    · split
      · dsimp only [State.Canon]
        exact hs.alert
      · dsimp only [State.Canon]
        split
        · exact State.Canon.trimRails (foldl_canon (fun _ _ h => h.settleCore) hs)
        · exact foldl_canon (fun _ _ h => h.settleCore) hs
  · exact hs

theorem State.Canon.execClockSwitchDone {s : State} (hs : s.Canon) : OutCanon (execClockSwitchDone s) := by
  unfold Machine.execClockSwitchDone
  refine State.Canon.done ?_
  split
  · split
    · exact hs
    · dsimp only
      refine State.Canon.alert ?_
      split
      · refine State.Canon.trimRails ?_
        dsimp only [State.Canon]
        exact hs.modAllCores.rebase
      · dsimp only [State.Canon]
        exact hs.modAllCores.rebase
  · exact hs

theorem State.Canon.writeVcol {s : State} {d k : Nat} {val : Word} (hs : s.Canon) : (s.writeVcol d k val).Canon :=
  hs

theorem State.Canon.setStack {s : State} {h : Nat} {x : Stack} (hs : s.Canon) : (s.setStack h x).Canon := hs

theorem State.Canon.execHbmTempRead {h : Nat} {reading : Option (BitVec 8)} {s : State} (hs : s.Canon) : OutCanon (execHbmTempRead h reading s) := by
  unfold Machine.execHbmTempRead
  dsimp only
  refine State.Canon.done ?_
  split
  · exact hs
  · split <;> exact hs.setStack.alertStack.alertStack

theorem State.Canon.writeRefstep {s : State} {h : Nat} {val : Word} (hs : s.Canon) : (s.writeRefstep h val).Canon :=
  State.Canon.ite hs hs.setStack.alertStack

theorem State.Canon.writeBwcap {s : State} {h : Nat} {val : Word} (hs : s.Canon) : (s.writeBwcap h val).Canon :=
  State.Canon.ite hs hs.setStack

theorem State.Canon.gateSet {s : State} {c : Nat} (hs : s.Canon) : (s.gateSet c).Canon := hs.modCoreAt

theorem State.Canon.gateClear {s : State} {c : Nat} (hs : s.Canon) : (s.gateClear c).Canon := hs.modCoreAt

theorem State.Canon.writeL2win {s : State} {d w : Nat} {val : Word} (hs : s.Canon) : (s.writeL2win d w val).Canon := by
  unfold State.writeL2win
  dsimp only
  exact State.Canon.ite hs hs.setDie

/-! ### Region -/

theorem State.Canon.placeArrival {s : State} {l : Launch} {x pa : Nat} (hs : s.Canon) : (s.placeArrival l x pa).Canon := by
  unfold State.placeArrival
  dsimp only
  split
  next t hr =>
    have ht : t.Canon := State.Canon.of_fst_eq hr hs.replayOf
    split
    next hr1 => exact (Acc.Canon.of_eq hr1 ht.recordDecision :)
    next hr1 => exact (Acc.Canon.of_eq hr1 ht.recordDecision :)
    next hr1 => exact (Acc.Canon.of_eq hr1 ht.recordDecision :)
  next hr => exact (State.Canon.of_fst_eq hr hs.replayOf).mismatch
  next hr => exact State.Canon.of_fst_eq hr hs.replayOf
  next t _ _ _ hr =>
    have ht : t.Canon := State.Canon.of_fst_eq hr hs.replayOf
    exact Placing.Canon.ite ht.tookEntry (Placing.Canon.ite ht ht.mismatch)

theorem State.Canon.arriveInTurn {s : State} {i : Issuer} {a x : Nat} (hs : s.Canon) : (s.arriveInTurn i a x).Canon := by
  unfold State.arriveInTurn
  dsimp only
  split
  · exact hs.arrive
  · refine Acc.Canon.bind hs.reach ?_
    intro t x1 h
    split
    next hr => exact (Placing.Canon.of_eq hr h.placeArrival).arrive
    next hr => exact (Placing.Canon.of_eq hr h.placeArrival :)

theorem State.Canon.atomicAt {s : State} {i : Issuer} {op n a : Nat} {b c : Word} (hs : s.Canon) : (s.atomicAt i op n a b c).Canon :=
  Acc.Canon.ite hs.arriveInTurn.map (hs.reach.bind (fun _ _ h => h.physWrite))

theorem State.Canon.performOp {s : State} {i : Issuer} {h : BitVec 2} {o : LogOp} (hs : s.Canon) : (s.performOp i h o).Canon := by
  unfold State.performOp
  split
  · exact hs.readEach fun _ _ h1 => h1.reach.bind (fun _ _ h2 => h2.physWrite.cacheStore.countOnce)
  · exact hs.readEach fun _ _ h1 => h1.atomicAt

theorem State.Canon.undo {s t : State} (hs : s.Canon) (_ : t.Canon) : (s.undo t).Canon := hs

theorem State.Canon.recount {s t : State} {n : Nat} (hs : s.Canon) (_ : t.Canon) : (s.recount t n).Canon :=
  State.Canon.ite hs hs.modCoreAt

theorem State.Canon.back {s t : State} {o : LogOp} (hs : s.Canon) (ht : t.Canon) : (s.back t o).Canon :=
  State.Canon.ite ht (hs.undo ht)

theorem State.Canon.execSideLogReplay {n : Nat} {s : State} (hs : s.Canon) : OutCanon (execSideLogReplay n s) := by
  unfold Machine.execSideLogReplay
  dsimp only
  refine State.Canon.done ?_
  split
  · exact hs
  · split
    · exact hs.modCoreAt.modAgent
    · split
      · exact hs
      · split
        next t _ hr =>
          have ht : t.Canon := Acc.Canon.of_eq hr hs.modCoreAt.performOp
          split
          · exact ht.modCoreAt.sink
          · exact ht.modCoreAt
        next hr => exact (hs.back (Acc.Canon.of_eq hr hs.modCoreAt.performOp)).modCoreAt
        next t _ _ hr =>
          have ht : t.Canon := Acc.Canon.of_eq hr hs.modCoreAt.performOp
          exact (((hs.undo ht).recount ht).modCoreAt).modAgent

theorem State.Canon.lostLine {s : State} {n : Nat} {w : WriteBack} {code : BitVec 8} {a : Nat} {bs : List Byte} (hs : s.Canon) :
    (s.lostLine n w code a bs).Canon :=
  getD_canon hs.faultTask hs.post

theorem State.Canon.writeBack {s : State} {n : Nat} {w : WriteBack} {r : List WriteBack} (hs : s.Canon) : (s.writeBack n w r).Canon := by
  unfold State.writeBack
  dsimp only
  split
  · split
    next t _ hr =>
      have ht : t.Canon := Acc.Canon.of_eq hr hs.recordLoss
      exact getD_canon ht.modCoreAt.faultTask ht.modCoreAt
    next hr => exact Acc.Canon.of_eq hr hs.recordLoss
    next hr => exact Acc.Canon.of_eq hr hs.recordLoss
  · split
    · split
      next hr => exact State.Canon.sink (State.Canon.modCoreAt (Acc.Canon.of_eq hr hs.writeMem))
      next hr => exact State.Canon.modCoreAt (hs.undo (Acc.Canon.of_eq hr hs.writeMem))
      next hr => exact State.Canon.lostLine (State.Canon.modCoreAt (hs.undo (Acc.Canon.of_eq hr hs.writeMem)))
    · split
      · exact hs.modCoreAt
      · split
        next hr => exact (Acc.Canon.of_eq hr hs.arrive).modCoreAt
        next hr => exact (hs.undo (Acc.Canon.of_eq hr hs.arrive)).modCoreAt
        next t _ _ hr =>
          have ht : t.Canon := Acc.Canon.of_eq hr hs.arrive
          exact getD_canon (((hs.undo ht).modCoreAt).faultTask) ((hs.undo ht).modCoreAt)

theorem State.Canon.execRegionWriteback {n : Nat} {s : State} (hs : s.Canon) : OutCanon (execRegionWriteback n s) := by
  unfold Machine.execRegionWriteback
  refine State.Canon.done ?_
  split
  · exact hs
  · exact State.Canon.ite hs.writeBack hs

theorem State.Canon.execRegmap {c : Ctl} {n a b x : BitVec 6} {s : State} (hs : s.Canon) : OutCanon (execRegmap c n a b x s) := by
  unfold Machine.execRegmap
  refine State.Canon.issue hs ?_
  split
  · exact hs
  · exact Eff.Canon.ite hs hs.modCore

theorem State.Canon.flush {s : State} {n b : BitVec 6} {drop : Bool} (hs : s.Canon) : (s.flush n b drop).Canon := by
  unfold State.flush
  split
  · exact hs
  · exact Eff.Canon.ite hs hs.modCore

theorem State.Canon.readLines {s : State} {i : Issuer} {a n : Nat} (hs : s.Canon) : (s.readLines i a n).Canon :=
  hs.readEach fun _ _ h => h.reach.bind (fun _ _ h1 => h1)

theorem State.Canon.produceLoad {s : State} {reg : RegId} {x : RegVal} {due : Option Nat} (hs : s.Canon) : (s.produceLoad reg x due).Canon :=
  hs.modMe

theorem State.Canon.blockRecord {s : State} {n : Nat} {b : Block} (hs : s.Canon) : (s.blockRecord n b).Canon :=
  hs.post

theorem State.Canon.startBlock {s : State} {d : BitVec 6} {a n : Nat} {ev : Bool} (hs : s.Canon) : (s.startBlock d a n ev).Canon := by
  unfold State.startBlock
  dsimp only
  split
  · exact hs.modCore.modMe
  · split
    next hr => exact (Acc.Canon.of_eq hr hs.readLines).late
    next hr => exact (Acc.Canon.of_eq hr hs.readLines).deferMe
    next t _ hr =>
      have ht : t.Canon := Acc.Canon.of_eq hr hs.readLines
      exact State.Canon.ite ht.late (State.Canon.ite ht.modCore.modMe ht.modCore.produceLater)

theorem State.Canon.filled {s : State} {n idx d : Nat} {ev : Bool} {b : Block} (hs : s.Canon) : (s.filled n idx d ev b).Canon :=
  State.Canon.ite hs.modCoreAt.modRegs.blockRecord hs.modCoreAt.modRegs

theorem State.Canon.blockWaits {s : State} {n idx : Nat} {b : Block} (hs : s.Canon) : (s.blockWaits n idx b).Canon :=
  State.Canon.ite hs hs.countHold.modCoreAt

theorem State.Canon.blocksDue {s : State} {n c : Nat} (hs : s.Canon) : (s.blocksDue n c).Canon := by
  unfold State.blocksDue
  refine foldl_canon ?_ hs
  intro t x h
  split
  · exact h
  · split
    · exact h
    · exact State.Canon.ite h (State.Canon.ite h.blockWaits h.filled.modAgent)

theorem State.Canon.execLdblk {c : Ctl} {d a n : BitVec 6} {ev : Bool} {s : State} (hs : s.Canon) : OutCanon (execLdblk c d a n ev s) := by
  unfold Machine.execLdblk
  dsimp only
  refine State.Canon.issue hs ?_
  split
  · exact hs
  · exact Eff.Canon.ite hs.produce hs.modCore.startBlock

theorem State.Canon.execBlockFilled {n idx : Nat} {s : State} (hs : s.Canon) : OutCanon (execBlockFilled n idx s) := by
  unfold Machine.execBlockFilled
  dsimp only
  refine State.Canon.done ?_
  split
  · split
    · exact hs
    · split
      · exact hs
      · split
        · exact hs.blocksDue
        · split
          · exact hs.blockWaits
          · split
            next hr => exact State.Canon.modCoreAt (hs.undo (Acc.Canon.of_eq hr (hs.readEach (fun _ _ h => h.readAttr.map))))
            next hr =>
              exact State.Canon.modAgent (State.Canon.modCoreAt (hs.undo (Acc.Canon.of_eq hr (hs.readEach (fun _ _ h => h.readAttr.map)))))
            next hr => exact State.Canon.filled (Acc.Canon.of_eq hr (hs.readEach (fun _ _ h => h.readAttr.map)))
  · exact hs

/-! ### Fabric -/

theorem State.Canon.modPlane {s : State} {p : Nat} {f : Plane → Plane} (hs : s.Canon) : (s.modPlane p f).Canon :=
  hs

theorem State.Canon.modFab {s : State} {f : Fabric → Fabric} (hs : s.Canon) : (s.modFab f).Canon := hs

theorem State.Canon.freeBuf {s : State} {p q : Nat} (hs : s.Canon) : (s.freeBuf p q).Canon :=
  State.Canon.ite hs hs.modPlane

theorem State.Canon.fabRecord {s : State} {die sub plane lane : Nat} {code : BitVec 8} {w3 w4 w5 : Nat} (hs : s.Canon) :
    (s.fabRecord die sub plane lane code w3 w4 w5).Canon :=
  hs.post

theorem State.Canon.planeRecord {s : State} {sub plane lane : Nat} {code : BitVec 8} {w3 w4 w5 : Nat} (hs : s.Canon) :
    (s.planeRecord sub plane lane code w3 w4 w5).Canon :=
  hs.fabRecord

theorem State.Canon.countReq {s : State} {o : Origin} {f : Nat → Nat} (hs : s.Canon) : (s.countReq o f).Canon := by
  unfold State.countReq
  split
  · exact hs.modTask
  · exact hs.modDie
  all_goals exact hs

theorem State.Canon.takeReq {s : State} {r : FabReq} (hs : s.Canon) : (s.takeReq r).Canon :=
  State.Canon.ite hs.modFab hs.modFab.countReq

theorem State.Canon.offerFabric {s : State} {q : Nat} {c : Rec} {o : Origin} {ctx : Option Nat} {dctx : Nat} (hs : s.Canon) :
    (s.offerFabric q c o ctx dctx).1.Canon := by
  unfold State.offerFabric
  split
  · exact hs
  · split
    · exact hs.commandFault
    · exact hs.takeReq

theorem State.Canon.endReq {s : State} {r : FabReq} (hs : s.Canon) : (s.endReq r).Canon :=
  State.Canon.ite hs.modFab hs.modFab.countReq

theorem State.Canon.putReq {s : State} {r : FabReq} (hs : s.Canon) : (s.putReq r).Canon := hs.modFab

theorem State.Canon.issuerRegs {s : State} {o : Origin} {f : Regs → Regs} (hs : s.Canon) : (s.issuerRegs o f).Canon := by
  unfold State.issuerRegs
  split
  · split
    · exact hs.modRegs
    · split
      · exact hs.modDie
      · exact hs
  · exact hs.modRegs
  all_goals exact hs

theorem State.Canon.failFatom {s : State} {r : FabReq} {f : Fatom} {code : BitVec 8} {addr : Nat} (hs : s.Canon) :
    (s.failFatom r f code addr).Canon := by
  unfold State.failFatom
  dsimp only
  split
  · exact hs.issuerRegs.modAgent
  all_goals exact hs.issuerRegs.commandFault

theorem State.Canon.failReq {s : State} {r : FabReq} {code : BitVec 8} {addr : Nat} (hs : s.Canon) : (s.failReq r code addr).Canon := by
  unfold State.failReq
  dsimp only
  split
  · split
    · exact hs.endReq.putTile
    · exact hs.endReq
  · split
    · exact hs.endReq.failFatom
    · exact hs.endReq.commandFault

theorem State.Canon.noteReq {s : State} {r : FabReq} {attr : Nat} (hs : s.Canon) : (s.noteReq r attr).Canon := by
  unfold State.noteReq
  split
  · exact State.Canon.ite hs.modCoreAt.putReq hs
  all_goals exact hs

theorem State.Canon.payload {s : State} {r : FabReq} {off n : Nat} (hs : s.Canon) : (s.payload r off n).Canon := by
  unfold State.payload
  dsimp only
  split
  · exact Acc.Canon.ite hs hs
  · exact hs
  · exact Acc.Canon.ite hs (Acc.Canon.map (hs.readEach (fun _ _ h => h.engineRead.bind (fun _ _ h1 => h1.noteReq))))

theorem State.Canon.answer {s : State} {a : Answer} (hs : s.Canon) : (s.answer a).Canon := hs.modFab

theorem State.Canon.arriveChunk {s : State} {h : BitVec 512} {data : List Byte} {p q : Nat} {ctx : Option Nat} (hs : s.Canon) :
    (s.arriveChunk h data p q ctx).Canon := by
  unfold State.arriveChunk
  dsimp only
  split
  · exact hs.modFab
  · split
    · exact hs.freeBuf.answer
    · split
      · exact State.Canon.ite hs.freeBuf hs.modFab
      · exact State.Canon.ite hs.freeBuf.planeRecord hs.modFab

theorem State.Canon.freeChunks {s : State} {m : RxMsg} (hs : s.Canon) : (s.freeChunks m).Canon :=
  foldl_canon (fun _ _ h => h.freeBuf) hs

theorem State.Canon.dropMsg {s : State} {m : RxMsg} (hs : s.Canon) : (s.dropMsg m).Canon := hs.modFab

theorem State.Canon.finishMsg {s : State} {m0 m : RxMsg} {result : Nat} {bar : optParam Bool false} (hs : s.Canon) :
    (s.finishMsg m0 m result bar).Canon :=
  hs.freeChunks.dropMsg.modFab.answer

theorem State.Canon.putMsg {s : State} {m0 m : RxMsg} (hs : s.Canon) : (s.putMsg m0 m).Canon := hs.modFab

theorem State.Canon.takeFabric {s : State} {kind : Nat} {p : Pusher} {c : Rec} (hs : s.Canon) : (s.takeFabric kind p c).Canon := by
  unfold State.takeFabric
  split
  · exact State.Canon.ite hs.offerFabric hs

/-! ### Order -/

theorem State.Canon.reachAll {s : State} {i : Issuer} {k : AccKind} {a n : Nat} (hs : s.Canon) : (s.reachAll i k a n).Canon :=
  Acc.Canon.map (hs.readEach (fun _ _ h => h.reach.map))

theorem State.Canon.reachBar {s : State} {i : Issuer} {a : Nat} (hs : s.Canon) : (s.reachBar i a).Canon :=
  Acc.Canon.ite hs (Acc.Canon.ite hs hs.reach.map)

theorem State.Canon.arriveRbar {s : State} {i : Issuer} {a n : Nat} (hs : s.Canon) : (s.arriveRbar i a n).Canon :=
  Acc.Canon.ite hs hs.arrive.map

theorem State.Canon.writeWords {s : State} {i : Issuer} {k : AccKind} {a : Nat} {bs : List Byte} (hs : s.Canon) : (s.writeWords i k a bs).Canon :=
  Acc.Canon.map (hs.readEach (fun _ _ h => h.storeAs))

theorem State.Canon.keepMsg {s : State} {m0 m : RxMsg} {p : Option (Nat × Nat)} (hs : s.Canon) : (s.keepMsg m0 m p).Canon :=
  hs.putMsg

theorem State.Canon.orStay {s : State} {m0 m : RxMsg} {x : Acc Unit} {go : State → Perform} (hs : s.Canon) (hx : x.Canon)
    (hgo : ∀ t : State, t.Canon → (go t).Canon) :
    (s.orStay m0 m x go).Canon := by
  unfold State.orStay
  split
  · exact hgo _ hx
  · exact (hs.undo hx).keepMsg
  · exact hs.keepMsg

theorem State.Canon.writeChunks {s : State} {i : Issuer} {k : AccKind} {m0 m : RxMsg} {a : Nat} {done todo : List RxChunk}
    {rest : State → RxMsg → Perform} (hs : s.Canon) (hrest : ∀ (t : State) (m : RxMsg), t.Canon → (rest t m).Canon) :
    (s.writeChunks i k m0 m a done todo rest).Canon := by
  induction todo generalizing s done with
  | nil => exact Perform.Canon.ite (hrest _ _ hs) hs.putMsg
  | cons c r ih =>
    unfold State.writeChunks
    split
    · exact ih hs
    · exact hs.orStay hs.writeWords fun _ h => ih h.freeBuf

theorem State.Canon.podReport {s : State} {m : RxMsg} (hs : s.Canon) : (s.podReport m).Canon := by
  unfold State.podReport
  dsimp only
  split
  · exact hs
  · split
    · exact hs.putTile
    · exact hs

theorem State.Canon.performPut {s : State} {m : RxMsg} (hs : s.Canon) : (s.performPut m).Canon := by
  unfold State.performPut
  dsimp only
  split
  · exact hs.writeChunks fun _ _ h => h.orStay h.arriveRbar (fun _ h1 => h1.finishMsg.podReport)
  · split
    next hr => exact (Acc.Canon.of_eq hr hs.reachAll).keepMsg
    next hr => exact (Acc.Canon.of_eq hr hs.reachAll).finishMsg
    next t _ hr =>
      have ht : t.Canon := Acc.Canon.of_eq hr hs.reachAll
      split
      next hr1 =>
        exact (Acc.Canon.of_eq hr1 ht.reachBar).writeChunks fun _ _ h => h.orStay h.arriveRbar (fun _ h1 => h1.finishMsg.podReport)
      next hr1 => exact (Acc.Canon.of_eq hr1 ht.reachBar).keepMsg
      next hr1 => exact (Acc.Canon.of_eq hr1 ht.reachBar).finishMsg

theorem State.Canon.mayDeliver {s : State} {l : Launch} {m : RxMsg} (hs : s.Canon) : (s.mayDeliver l m).Canon := by
  unfold State.mayDeliver
  dsimp only
  split
  · exact hs
  · split
    next t hr =>
      have ht : t.Canon := State.Canon.of_fst_eq hr hs.replayOf
      split
      next hr1 => exact (Acc.Canon.of_eq hr1 ht.recordDecision :)
      next hr1 => exact (Acc.Canon.of_eq hr1 ht.recordDecision :)
      next hr1 => exact (Acc.Canon.of_eq hr1 ht.recordDecision :)
    next hr => exact (State.Canon.of_fst_eq hr hs.replayOf).mismatch
    next hr => exact State.Canon.of_fst_eq hr hs.replayOf
    next t _ _ _ hr =>
      have ht : t.Canon := State.Canon.of_fst_eq hr hs.replayOf
      exact Placing.Canon.ite ht.tookEntry (Placing.Canon.ite ht ht.mismatch)

theorem State.Canon.placeSend {s : State} {l : Launch} {i : Nat} {m0 m : RxMsg} (hs : s.Canon) : (s.placeSend l i m0 m).Canon := by
  unfold State.placeSend
  dsimp only
  refine State.Canon.writeChunks hs ?_
  intro t x h
  split
  · exact h.orStay h.arriveRbar fun _ h1 => h1.finishMsg
  · exact h.orStay h.writeWords fun _ h1 => h1.modLaunch.orStay h1.modLaunch.arriveRbar (fun _ h2 => h2.finishMsg)

theorem State.Canon.performSend {s : State} {m : RxMsg} (hs : s.Canon) : (s.performSend m).Canon := by
  unfold State.performSend
  split
  · exact hs.finishMsg
  next l _ =>
    split
    · exact Perform.Canon.ite hs.placeSend hs.finishMsg
    · extract_lets i o ctx slot
      have hreach : ((s.reachAll ctx .write (addrPlus (Rec_word l.rec_ 3).toNat (65536 * slot : Nat)) (hdLen m.hdr)).bind fun t _ =>
          (t.reachAll ctx .write (addrPlus (Rec_word l.rec_ 2).toNat (64 * slot : Nat)) 64).bind fun u _ =>
            match u.reachBar m.issuer (hdRbar m.hdr) with
            | .ok v _ => .ok v true
            | .wait v p => .wait v p
            | .fail v _ _ => .ok v false).Canon := by
        refine hs.reachAll.bind fun t _ ht => ht.reachAll.bind fun u _ hu => ?_
        split
        next hr => exact (Acc.Canon.of_eq hr hu.reachBar :)
        next hr => exact (Acc.Canon.of_eq hr hu.reachBar :)
        next hr => exact (Acc.Canon.of_eq hr hu.reachBar :)
      split
      · exact hs
      · split
        next hr => exact State.Canon.keepMsg (Acc.Canon.of_eq hr hreach)
        next hr => exact State.Canon.finishMsg (Acc.Canon.of_eq hr hreach)
        next hr => exact State.Canon.finishMsg (Acc.Canon.of_eq hr hreach)
        next t hr =>
          have ht : t.Canon := Acc.Canon.of_eq hr hreach
          split
          next hr' => exact Placing.Canon.of_eq hr' ht.mayDeliver
          next hr' => exact (State.Canon.modLaunch (Placing.Canon.of_eq hr' ht.mayDeliver)).placeSend

theorem State.Canon.podDeliver {s : State} {origin ctx : Nat} {stamp : Word} {r : Rec} (hs : s.Canon) :
    OptCanon (s.podDeliver origin ctx stamp r) := by
  unfold State.podDeliver
  dsimp only
  split
  · exact trivial
  · split
    · exact trivial
    · change State.Canon _
      refine State.Canon.post ?_
      dsimp only [State.Canon]
      exact hs.physWrite

theorem State.Canon.performPod {s : State} {m : RxMsg} (hs : s.Canon) : (s.performPod m).Canon := by
  unfold State.performPod
  dsimp only
  split
  next hr => exact (OptCanon.of_eq hr hs.podDeliver).finishMsg
  · exact hs

theorem State.Canon.performAtomic {s : State} {m : RxMsg} {src seq addr w0 w1 w2 low : Nat} (hs : s.Canon) :
    (s.performAtomic m src seq addr w0 w1 w2 low).Canon := by
  unfold State.performAtomic
  dsimp only
  split
  · exact hs.modFab.freeChunks.dropMsg
  · split
    · exact hs.answer.modFab.freeChunks.dropMsg
    · split
      next hr => exact ((((Acc.Canon.of_eq hr hs.atomicAt).answer).modFab).freeChunks).dropMsg
      next hr => exact (Acc.Canon.of_eq hr hs.atomicAt).keepMsg
      next hr => exact ((((Acc.Canon.of_eq hr hs.atomicAt).answer).modFab).freeChunks).dropMsg

theorem State.Canon.takeReply {s : State} {src seq status : Nat} {old : Word} (hs : s.Canon) : (s.takeReply src seq status old).Canon := by
  unfold State.takeReply
  split
  · exact hs
  · split
    · exact hs
    · exact State.Canon.ite hs.issuerRegs.endReq hs.failReq

theorem State.Canon.acknowledged {s : State} {r : FabReq} (hs : s.Canon) : (s.acknowledged r).Canon :=
  State.Canon.ite hs hs.countReq

theorem State.Canon.finishReq {s0 : State} {r0 : FabReq} (hs0 : s0.Canon) : (s0.finishReq r0).Canon := by
  unfold State.finishReq
  dsimp only
  split
  · exact hs0.endReq
  · split
    · exact State.Canon.ite hs0.acknowledged.putReq hs0.acknowledged.countHold.putReq
    · split
      next hr => exact State.Canon.putReq (Acc.Canon.of_eq hr (Acc.Canon.ite hs0.acknowledged hs0.acknowledged.arriveAt))
      next hr => exact State.Canon.failReq (Acc.Canon.of_eq hr (Acc.Canon.ite hs0.acknowledged hs0.acknowledged.arriveAt))
      next t _ hr =>
        have ht : t.Canon := Acc.Canon.of_eq hr (Acc.Canon.ite hs0.acknowledged hs0.acknowledged.arriveAt)
        exact State.Canon.ite ht.endReq.post ht.endReq

theorem State.Canon.ackOne {s : State} {src : Nat} {w : Word} {known : optParam (Option Bool) none} (hs : s.Canon) :
    (s.ackOne src w known).Canon := by
  unfold State.ackOne
  split
  · exact hs
  · split
    · exact hs.finishReq
    · dsimp only [State.Canon]
      exact hs.failReq
    · exact hs.failReq
    · exact hs

theorem State.Canon.performMsg {s : State} {m : RxMsg} (hs : s.Canon) : (s.performMsg m).Canon := by
  unfold State.performMsg
  dsimp only
  split
  · exact hs
  · split
    · split
      next hr => exact Perform.Canon.of_eq hr hs.performPut
      next hr => exact Perform.Canon.of_eq hr hs.performPut
    · split
      next hr => exact Perform.Canon.of_eq hr hs.performSend
      next hr => exact Perform.Canon.of_eq hr hs.performSend
    · split
      next hr => exact Perform.Canon.of_eq hr hs.performAtomic
      next hr => exact Perform.Canon.of_eq hr hs.performAtomic
    · exact hs.takeReply.freeChunks.dropMsg
    · exact State.Canon.dropMsg (State.Canon.freeChunks (foldl_canon (fun _ _ h => h.ackOne) hs))
    · exact hs

theorem State.Canon.performAll {s : State} (hs : s.Canon) : s.performAll.Canon :=
  State.Canon.ite hs (foldl_canon (fun _ _ h => State.Canon.ite h.performMsg h) hs)

theorem State.Canon.retryAcked {s : State} (hs : s.Canon) : s.retryAcked.Canon := by
  unfold State.retryAcked
  refine foldl_canon ?_ hs
  intro t x h
  split
  · exact h.finishReq
  · exact h

theorem State.Canon.execFatomSendRelease {idx : Nat} {s : State} (hs : s.Canon) : OutCanon (execFatomSendRelease idx s) := by
  unfold Machine.execFatomSendRelease
  refine State.Canon.done ?_
  split
  · exact hs
  · exact State.Canon.ite hs.putReq hs

theorem State.Canon.applyFloor {s : State} {f : Nat × Nat × Nat × Nat} (hs : s.Canon) : (s.applyFloor f).Canon :=
  hs.modPlane

theorem State.Canon.applyFloors {s : State} (hs : s.Canon) : s.applyFloors.Canon := by
  unfold State.applyFloors
  split
  · exact foldl_canon (fun _ _ h => h.applyFloor) hs.modFab

theorem State.Canon.setWmark {s : State} (hs : s.Canon) : s.setWmark.Canon := hs.modFab

theorem State.Canon.fabricWork {s : State} (hs : s.Canon) : s.fabricWork.Canon :=
  hs.performAll.retryAcked.applyFloors.setWmark

theorem State.Canon.performOrdered {s : State} {m : RxMsg} (hs : s.Canon) : (s.performOrdered m).Canon := by
  unfold State.performOrdered
  split
  · exact hs.performPut
  · exact hs.performSend
  · exact Perform.Canon.ite hs.performPod hs

theorem State.Canon.deliver {s : State} {m : RxMsg} (hs : s.Canon) : (s.deliver m).Canon := by
  unfold State.deliver
  split
  · exact hs
  · split
    next hr => exact Perform.Canon.of_eq hr hs.performOrdered
    next t hr =>
      have ht : t.Canon := Perform.Canon.of_eq hr hs.performOrdered
      exact State.Canon.ite ht.fabRecord ht.modFab

theorem State.Canon.execOrderedDelivery {s0 : State} (hs0 : s0.Canon) : OutCanon (execOrderedDelivery s0) := by
  unfold Machine.execOrderedDelivery
  dsimp only
  refine State.Canon.done ?_
  split
  · exact hs0.fabricWork
  · exact State.Canon.ite hs0.fabricWork hs0.fabricWork.deliver

theorem State.Canon.leavePlace {s : State} {m : RxMsg} (hs : s.Canon) : (s.leavePlace m).Canon := by
  unfold State.leavePlace
  split
  · exact hs.modLaunch
  · exact hs

theorem State.Canon.execOrderedIncompleteDiscard {idx : Nat} {s : State} (hs : s.Canon) : OutCanon (execOrderedIncompleteDiscard idx s) := by
  unfold Machine.execOrderedIncompleteDiscard
  refine State.Canon.done ?_
  split
  · exact hs
  · exact State.Canon.ite hs hs.freeChunks.dropMsg.leavePlace.fabRecord

theorem State.Canon.execCompletionRecordExpiry {idx : Nat} {s : State} (hs : s.Canon) : OutCanon (execCompletionRecordExpiry idx s) := by
  unfold Machine.execCompletionRecordExpiry
  refine State.Canon.done ?_
  split
  · exact hs
  · exact State.Canon.ite hs hs.modFab

theorem State.Canon.setBar {s : State} {k : Nat} {b : PodBar} (hs : s.Canon) : (s.setBar k b).Canon :=
  hs.modFab

theorem State.Canon.herdUpdate {s : State} {k : Nat} (hs : s.Canon) : (s.herdUpdate k).Canon :=
  State.Canon.ite hs.setBar hs

theorem State.Canon.herdUpdates {s : State} (hs : s.Canon) : s.herdUpdates.Canon :=
  foldl_canon (fun _ _ h => h.herdUpdate) hs

theorem State.Canon.barArrive {s : State} {k tag : Nat} (hs : s.Canon) : (s.barArrive k tag).Canon :=
  State.Canon.ite hs.setBar hs.setBar

theorem State.Canon.writePbar {s : State} {k : Nat} {val : Word} (hs : s.Canon) : (s.writePbar k val).Canon :=
  State.Canon.ite hs.setBar hs

theorem State.Canon.modTime {s : State} {f : PodTime → PodTime} (hs : s.Canon) : (s.modTime f).Canon := hs

theorem State.Canon.discipline {s : State} {off : ℤ} (hs : s.Canon) : (s.discipline off).Canon :=
  State.Canon.ite hs.modTime.rebase.modTime hs.modTime.rebase.modTime

theorem State.Canon.setSync {s : State} {v : Bool} (hs : s.Canon) : (s.setSync v).Canon :=
  State.Canon.ite hs.modTime.fabRecord hs.modTime

theorem State.Canon.followParent {s : State} {plane chip : Nat} {tsync : Bool} (hs : s.Canon) : (s.followParent plane chip tsync).Canon := by
  unfold State.followParent
  dsimp only
  split
  · split
    · exact hs
    · refine State.Canon.setSync ?_
      refine State.Canon.modTime ?_
      dsimp only [State.Canon]
      exact hs.discipline
  · split
    · exact hs
    · refine State.Canon.setSync ?_
      refine State.Canon.modTime ?_
      dsimp only [State.Canon]
      exact hs.discipline

theorem State.Canon.writePtset {s : State} {val : Word} (hs : s.Canon) : (s.writePtset val).Canon :=
  State.Canon.ite hs hs.rebase.modTime

/-! ### Slot -/

theorem State.Canon.load {s : State} {at_ : Nat × Nat × Nat} {c : Chunk} (hs : s.Canon) : (s.load at_ c).Canon := by
  unfold State.load
  split
  · exact hs.modPlane.modFab

theorem State.Canon.remember {s : State} {h : SentChunk} (hs : s.Canon) : (s.remember h).Canon := hs.modFab

theorem State.Canon.forwardOne {s : State} {n : Nat} {x : Held} (hs : s.Canon) : (s.forwardOne n x).Canon := by
  unfold State.forwardOne
  split
  · dsimp only
    split
    · exact hs
    · split
      · exact hs
      · split
        · exact State.Canon.remember (State.Canon.ite hs.load.modFab hs.load.modFab.freeBuf)
        · exact State.Canon.ite hs.load.modFab hs.load.modFab.freeBuf

theorem State.Canon.answerOne {s : State} {n : Nat} {l : List Answer} (hs : s.Canon) : (s.answerOne n l).Canon := by
  unfold State.answerOne
  split
  · exact hs
  · dsimp only
    split
    · split
      · exact hs
      · split
        · exact hs.modFab.takeReply
        · exact foldl_canon (fun _ _ h => h.ackOne) hs.modFab
    · split
      · exact hs
      · exact hs.load.modFab

theorem State.Canon.sendOne {s : State} {n seq c : Nat} (hs : s.Canon) : (s.sendOne n seq c).Canon := by
  unfold State.sendOne
  split
  · exact hs
  · dsimp only
    split
    · exact hs
    · split
      · split
        next hr => exact State.Canon.putReq (Acc.Canon.of_eq hr (Acc.Canon.ite hs hs.payload))
        next hr => exact State.Canon.failReq (Acc.Canon.of_eq hr (Acc.Canon.ite hs hs.payload))
        next hr => exact State.Canon.arriveChunk (State.Canon.sinkBy (State.Canon.putReq (Acc.Canon.of_eq hr (Acc.Canon.ite hs hs.payload))))
      · split
        · exact hs
        · split
          next hr => exact State.Canon.putReq (Acc.Canon.of_eq hr (Acc.Canon.ite hs hs.payload))
          next hr => exact State.Canon.failReq (Acc.Canon.of_eq hr (Acc.Canon.ite hs hs.payload))
          next t _ hr =>
            have ht : t.Canon := Acc.Canon.of_eq hr (Acc.Canon.ite hs hs.payload)
            exact State.Canon.ite ht.load.putReq.sinkBy.remember ht.load.putReq.sinkBy

theorem State.Canon.sendAll {s : State} {n : Nat} (hs : s.Canon) : (s.sendAll n).Canon :=
  State.Canon.ite hs (foldl_canon (fun _ _ h => foldl_canon (fun _ _ h1 => h1.sendOne) h) hs)

theorem State.Canon.sealLanes {s : State} {ls : List ((Nat × Nat × Nat) × Nat)} (hs : s.Canon) : (s.sealLanes ls).Canon := by
  unfold State.sealLanes
  refine foldl_canon ?_ hs
  intro t x h
  split
  · exact h.modFab

theorem State.Canon.execSlotHandover {n : Nat} {s : State} (hs : s.Canon) : OutCanon (execSlotHandover n s) := by
  unfold Machine.execSlotHandover
  refine State.Canon.done ?_
  split
  · exact hs
  · exact State.Canon.fabricWork (State.Canon.modFab (State.Canon.sealLanes (State.Canon.sendAll (foldl_canon (fun _ _ h => h.answerOne)
      (foldl_canon (fun _ _ h1 => h1.forwardOne) hs.fabricWork.herdUpdates.modFab)))))

theorem State.Canon.noteHeader {s : State} {p q slot : Nat} {h : BitVec 512} (hs : s.Canon) : (s.noteHeader p q slot h).Canon :=
  hs.modPlane.modFab.followParent

theorem State.Canon.takeChunk {s : State} {p l q slot : Nat} {h : BitVec 512} {data : List Byte} (hs : s.Canon) :
    (s.takeChunk p l q slot h data).Canon :=
  State.Canon.ite hs.freeBuf.planeRecord (State.Canon.ite hs.arriveChunk hs.modFab)

theorem State.Canon.execSlotHeaderReceive {p l slot : Nat} {h : BitVec 512} {data : List Byte} {s : State} (hs : s.Canon) :
    OutCanon (execSlotHeaderReceive p l slot h data s) := by
  unfold Machine.execSlotHeaderReceive
  dsimp only
  refine State.Canon.done ?_
  split
  · exact hs
  · refine State.Canon.herdUpdates ?_
    refine State.Canon.fabricWork ?_
    split
    · split
      · exact State.Canon.ite hs.modFab.modPlane.planeRecord hs.modFab.modPlane.planeRecord.freeBuf
      · split
        · exact State.Canon.ite hs.modFab.modPlane.planeRecord hs.modFab.modPlane.planeRecord.freeBuf
        · exact State.Canon.ite hs.modFab.modPlane.noteHeader hs.modFab.modPlane.noteHeader.takeChunk
    · split
      · exact State.Canon.ite hs.modFab.modPlane.planeRecord hs.modFab.modPlane.planeRecord.freeBuf
      · split
        · exact State.Canon.ite hs.modFab.modPlane.planeRecord hs.modFab.modPlane.planeRecord.freeBuf
        · exact State.Canon.ite hs.modFab.modPlane.noteHeader hs.modFab.modPlane.noteHeader.takeChunk

theorem State.Canon.execForwardHoldExpiry {idx : Nat} {s : State} (hs : s.Canon) : OutCanon (execForwardHoldExpiry idx s) := by
  unfold Machine.execForwardHoldExpiry
  refine State.Canon.done ?_
  split
  · exact hs
  · exact State.Canon.ite hs (State.Canon.planeRecord (State.Canon.ite hs.modFab hs.modFab.freeBuf))

theorem State.Canon.execResendTimeout {seq : Nat} {s : State} (hs : s.Canon) : OutCanon (execResendTimeout seq s) := by
  unfold Machine.execResendTimeout
  refine State.Canon.done ?_
  split
  · exact hs
  · dsimp only
    split
    · exact hs
    · exact State.Canon.ite (State.Canon.ite hs.failReq hs) (State.Canon.ite hs (State.Canon.ite hs.failReq hs.putReq))

theorem State.Canon.unhand {s : State} {h : SentChunk} (hs : s.Canon) : (s.unhand h).Canon := by
  unfold State.unhand
  dsimp only
  split
  · exact hs.modFab.modFab
  · split
    · exact hs.modFab
    · exact hs.modFab.putReq

theorem State.Canon.unhandAll {s : State} {p : Nat} {f : SentChunk → Bool} (hs : s.Canon) : (s.unhandAll p f).Canon :=
  foldl_canon (fun _ _ h => h.unhand) hs

theorem State.Canon.execBankSwitch {p : Nat} {s : State} (hs : s.Canon) : OutCanon (execBankSwitch p s) := by
  unfold Machine.execBankSwitch
  dsimp only
  refine State.Canon.done ?_
  split
  · exact hs
  · exact State.Canon.ite hs (State.Canon.ite hs.modPlane hs.modPlane.planeRecord)

theorem State.Canon.writePlact {s : State} {p : Nat} {val : Word} (hs : s.Canon) : (s.writePlact p val).Canon :=
  State.Canon.ite hs.modPlane.planeRecord hs.modPlane

theorem State.Canon.lightOn {s : State} {p : Nat} (hs : s.Canon) : (s.lightOn p).Canon := hs.modPlane.modFab

theorem State.Canon.lightOff {s : State} {p : Nat} (hs : s.Canon) : (s.lightOff p).Canon :=
  hs.modPlane.modFab.unhandAll

theorem State.Canon.writePlctl {s : State} {p : Nat} {val : Word} (hs : s.Canon) : (s.writePlctl p val).Canon :=
  State.Canon.ite hs.modPlane.lightOn (State.Canon.ite hs.modPlane.lightOff hs.modPlane)

theorem State.Canon.execLineFailure {p line : Nat} {s : State} (hs : s.Canon) : OutCanon (execLineFailure p line s) := by
  unfold Machine.execLineFailure
  dsimp only
  refine State.Canon.done ?_
  split
  · exact hs
  · exact State.Canon.ite hs.modPlane.unhandAll.planeRecord (State.Canon.ite hs.modPlane.unhandAll.planeRecord hs.modPlane)

/-! ### Pod -/

theorem State.Canon.offerPod {s : State} {r : Rec} {o : Origin} {ctx : Nat} {phys : Bool} (hs : s.Canon) : (s.offerPod r o ctx phys).1.Canon := by
  unfold State.offerPod
  split
  · dsimp only
    split
    · exact hs
    · split
      · exact hs.addTile
      · split
        · exact hs.offerTile
        · split
          · exact hs
          · split
            · exact hs.addTile
            · exact hs.addTile.takeReq

theorem State.Canon.offerRecord {s : State} {q : TileQueue} {r : Rec} {o : Origin} {ctx : Nat} {phys : Bool} (hs : s.Canon) :
    (s.offerRecord q r o ctx phys).1.Canon := by
  unfold State.offerRecord
  dsimp only
  split
  · exact hs.offerPod
  · exact hs.offerTile
  · split
    · exact hs.offerLaunch
    · exact hs.offerTile
  · split
    · exact hs.offerLaunch
    · exact hs.offerTile

theorem State.Canon.offerLq {s : State} {r : Rec} {o : Origin} {ctx : Nat} {phys : Bool} {d : Nat} (hs : s.Canon) :
    (s.offerLq r o ctx phys d).1.Canon := by
  unfold State.offerLq
  split
  · exact hs.offerPod
  · exact hs.offerLaunch

theorem State.Canon.takeRecord {s : State} {opc : Nat} {p : Pusher} {q : TileQueue} {r : Rec} (hs : s.Canon) : (s.takeRecord opc p q r).Canon := by
  unfold State.takeRecord
  split
  · exact State.Canon.ite hs.offerRecord hs

theorem State.Canon.podDone {s : State} {e : TileEntry} (hs : s.Canon) : (s.podDone e).Canon := by
  unfold State.podDone
  dsimp only
  split
  · exact hs
  · split
    · exact State.Canon.ite hs hs.putTile.countHold
    · split
      · exact State.Canon.ite (State.Canon.dropTile (State.Canon.notifyTile hs)) hs
      · split
        · exact hs
        · split
          next hr => exact (Acc.Canon.of_eq hr hs.readMem).putTile
          next hr => exact (Acc.Canon.of_eq hr hs.readMem).dropTile
          next hr => exact ((Acc.Canon.of_eq hr hs.readMem).notifyTile).dropTile

theorem State.Canon.execTileComplete {id : Nat} {s : State} (hs : s.Canon) : OutCanon (execTileComplete id s) := by
  unfold Machine.execTileComplete
  refine State.Canon.done ?_
  split
  · exact hs
  · split
    · exact hs.endTile
    · split
      · exact State.Canon.ite hs hs.endTile
      · split
        · exact hs.podDone
        · split
          · exact hs.retryLaunch
          · split
            · exact State.Canon.ite hs.checkTile hs
            · split
              · exact State.Canon.ite (hs.afterRun hs.runLeaf) hs
              · exact State.Canon.ite hs (State.Canon.ite hs.putTile.endTile (hs.afterRun hs))

theorem State.Canon.rejoin {s : State} {q : TileQueue} {tag : Nat} (hs : s.Canon) : (s.rejoin q tag).Canon :=
  foldl_canon (fun _ _ h => State.Canon.ite h.joinBarrier h) hs

theorem State.Canon.closeBarrier {s : State} {b : BarrierInst} (hs : s.Canon) : (s.closeBarrier b).Canon := by
  unfold State.closeBarrier
  dsimp only
  refine State.Canon.rejoin ?_
  refine foldl_canon ?_ hs
  intro t x h
  split
  · exact h.endTile
  · exact h

theorem State.Canon.execTbarrierComplete {id : Nat} {s : State} (hs : s.Canon) : OutCanon (execTbarrierComplete id s) := by
  unfold Machine.execTbarrierComplete
  refine State.Canon.done ?_
  split
  · exact hs
  · exact State.Canon.ite hs (State.Canon.ite (State.Canon.barArrive hs) hs.closeBarrier)

theorem State.Canon.execPodBarrierComplete {k : Nat} {s0 : State} (hs0 : s0.Canon) : OutCanon (execPodBarrierComplete k s0) := by
  unfold Machine.execPodBarrierComplete
  dsimp only
  refine State.Canon.done ?_
  split
  · exact hs0.herdUpdate
  · refine foldl_canon ?_ hs0.herdUpdate.setBar
    intro t x h
    split
    · exact h.closeBarrier
    · exact h

/-! ### Queue -/

theorem State.Canon.modRegset {s : State} {n : Nat} {f : RegSet → RegSet} (hs : s.Canon) : (s.modRegset n f).Canon :=
  hs

theorem State.Canon.goOffer {s : State} {n : Nat} {r : Rec} (hs : s.Canon) : (s.goOffer n r).1.Canon := by
  unfold State.goOffer
  dsimp only
  split
  · split
    · exact hs
    · exact hs.offerRecord
  · split
    · exact hs
    · exact hs.offerEngine
  · split
    · exact hs
    · exact hs.offerEngine
  · exact hs.offerFabric
  · exact hs.offerLq
  all_goals exact hs.offerRecord

theorem State.Canon.goEnd {s : State} {n : Nat} {val : Word} {result : Nat} (hs : s.Canon) : (s.goEnd n val result).Canon := by
  unfold State.goEnd
  dsimp only
  split
  · exact hs.modRegset.physWrite
  · exact hs.modRegset

theorem State.Canon.go {s : State} {n : Nat} {val : Word} (hs : s.Canon) : OptCanon (s.go n val) := by
  unfold State.go
  dsimp only
  split
  · exact trivial
  · split
    · exact hs.goEnd
    · split
      · exact hs.goEnd
      · split
        · exact trivial
        next hr => exact (Acc.Canon.of_eq hr hs.readMem).goEnd
        next t _ hr =>
          have ht : t.Canon := Acc.Canon.of_eq hr hs.readMem
          exact OptCanon.ite ht.goEnd ht.goOffer.goEnd

theorem State.Canon.writeRegset {s : State} {n off : Nat} {val : Word} (hs : s.Canon) : OptCanon (s.writeRegset n off val) := by
  unfold State.writeRegset
  split
  · exact hs.modRegset
  · exact hs.modRegset
  · exact hs.modRegset
  · exact hs.modRegset
  · exact hs.go
  · exact hs.modRegset
  · exact hs.modRegset
  · exact hs

theorem State.Canon.ran {r : Outcome State Fault Refusal} {s : State} (hr : OutCanon r) (hs : s.Canon) : (ran r s).Canon := by
  unfold Machine.ran
  split
  · exact hr
  · exact hs
  · exact hs

theorem State.Canon.mapLogs {s : State} {f : LogEntry → LogEntry} (hs : s.Canon) : (s.mapLogs f).Canon := hs

theorem State.Canon.answered {s : State} {d num : Nat} (hs : s.Canon) : (s.answered d num).Canon := hs.modDie

theorem State.Canon.pageRetry {s : State} {d : Nat} {r : PageReq} (hs : s.Canon) : (s.pageRetry d r).Canon :=
  hs.answered.mapLogs

theorem State.Canon.refuseCore {s : State} {n ctx va : Nat} (hs : s.Canon) : (s.refuseCore n ctx va).Canon := by
  unfold State.refuseCore
  dsimp only
  refine foldl_canon ?_ ?_
  · intro t x h
    split
    · exact State.Canon.ran h.execBlockFilled h
    · exact h
  · split
    · refine State.Canon.ran ?_ ?_
      · refine State.Canon.execRegionWriteback ?_
        refine foldl_canon ?_ (foldl_canon (fun _ _ h => h.failEngine) (foldl_canon (fun _ _ h1 => h1.failEngine) hs))
        intro t x h
        split
        · exact h.fillEntry
        · split
          · exact h.finishEntry
          · exact h
      · refine foldl_canon ?_ (foldl_canon (fun _ _ h => h.failEngine) (foldl_canon (fun _ _ h1 => h1.failEngine) hs))
        intro t x h
        split
        · exact h.fillEntry
        · split
          · exact h.finishEntry
          · exact h
    · refine foldl_canon ?_ (foldl_canon (fun _ _ h => h.failEngine) (foldl_canon (fun _ _ h1 => h1.failEngine) hs))
      intro t x h
      split
      · exact h.fillEntry
      · split
        · exact h.finishEntry
        · exact h

theorem State.Canon.refuseAgent {s : State} {n ctx va : Nat} (hs : s.Canon) : (s.refuseAgent n ctx va).Canon := by
  unfold State.refuseAgent
  dsimp only
  split
  · exact State.Canon.ite hs hs.modAgent
  · split
    · exact State.Canon.ite hs hs.modAgent
    · split
      · exact State.Canon.faultAt (State.Canon.modAgent (State.Canon.ite hs hs.modAgent))
      · exact State.Canon.modAgent (State.Canon.ite hs hs.modAgent)

theorem State.Canon.refuseFabric {s : State} {d ctx va : Nat} (hs : s.Canon) : (s.refuseFabric d ctx va).Canon :=
  foldl_canon (fun _ _ h => State.Canon.ite h.finishReq h.failReq) (foldl_canon (fun _ _ h1 => State.Canon.ite h1.deliver h1.performMsg) hs)

theorem State.Canon.pageRefuse {s : State} {d : Nat} {r : PageReq} (hs : s.Canon) : (s.pageRefuse d r).Canon := by
  unfold State.pageRefuse
  dsimp only [State.Canon]
  exact State.Canon.mapLogs (foldl_canon (fun _ _ h => h.refuseAgent) (State.Canon.refuseFabric (foldl_canon
      (fun _ _ h1 => State.Canon.ite h1.tryFinish h1.modLaunch) (foldl_canon (fun _ _ h2 => State.Canon.ran h2.execTileComplete h2) (foldl_canon
          (fun _ _ h3 => h3.refuseCore) hs)))))

theorem State.Canon.writePgreply {s : State} {d : Nat} {val : Word} (hs : s.Canon) : (s.writePgreply d val).Canon := by
  unfold State.writePgreply
  split
  · exact hs
  · exact State.Canon.ite hs.pageRefuse hs.pageRetry

/-! ### Mgmt -/

theorem State.Canon.modMg {s : State} {f : Mgmt → Mgmt} (hs : s.Canon) : (s.modMg f).Canon := hs

theorem State.Canon.extend {s : State} {i : Nat} {x : BitVec 384} (hs : s.Canon) : (s.extend i x).Canon :=
  hs.modMg

theorem State.Canon.writeMrxgo {s : State} {val : Word} (hs : s.Canon) : (s.writeMrxgo val).Canon :=
  State.Canon.ite hs.extend hs

theorem State.Canon.bootFails {s : State} {stage : Nat} (hs : s.Canon) : (s.bootFails stage).Canon :=
  hs.modMg.logHard

theorem State.Canon.bootTakes {s : State} {img : List Byte} (hs : s.Canon) : (s.bootTakes img).Canon := by
  unfold State.bootTakes
  dsimp only
  split
  · split
    · split
      · exact hs.physWrite.extend.modMg.modMg.modAgent
      · exact hs.physWrite.extend.modMg.modMg
    · exact hs.physWrite.extend.modMg
  · split
    · split
      · exact hs.physWrite.extend.modMg.modMg.modAgent
      · exact hs.physWrite.extend.modMg.modMg
    · exact hs.physWrite.extend.modMg

theorem State.Canon.execBootImage {img : List Byte} {s : State} (hs : s.Canon) : OutCanon (execBootImage img s) := by
  unfold Machine.execBootImage
  refine State.Canon.done ?_
  split
  · exact hs
  · extract_lets s1
    have hs1 : s1.Canon := State.Canon.ite hs hs.extend.modMg
    clear_value s1
    split
    · exact hs1.bootFails
    · exact State.Canon.ite (State.Canon.bootFails hs1) (State.Canon.bootTakes hs1)

theorem State.Canon.releaseOne {s : State} {val : Word} {d : Nat} (hs : s.Canon) : (s.releaseOne val d).Canon :=
  State.Canon.ite hs.setAgent.modDie (State.Canon.ite hs.setAgent hs)

theorem State.Canon.writeCcrel {s : State} {val : Word} (hs : s.Canon) : (s.writeCcrel val).Canon :=
  foldl_canon (fun _ _ h => h.releaseOne) hs

theorem State.Canon.writeDbgEn {s : State} {en : BitVec 4} {new : Word} (hs : s.Canon) : (s.writeDbgEn en new).Canon := by
  unfold State.writeDbgEn
  dsimp only [State.Canon]
  exact State.Canon.ite hs.extend hs

theorem State.Canon.writeDbgHalt {s : State} {halt : Bool} (hs : s.Canon) : (s.writeDbgHalt halt).Canon := by
  unfold State.writeDbgHalt
  split
  · exact hs
  · dsimp only
    refine foldl_canon (fun _ _ h => h.touchClock) ?_
    dsimp only [State.Canon]
    exact State.Canon.ite hs.modAllCores hs

theorem State.Canon.writeDbgctl {s : State} {val : Word} (hs : s.Canon) : (s.writeDbgctl val).Canon :=
  hs.writeDbgEn.writeDbgHalt

theorem State.Canon.writeElpush {s : State} (hs : s.Canon) : s.writeElpush.Canon := hs

theorem State.Canon.linkSends {s : State} (hs : s.Canon) : s.linkSends.Canon := hs

theorem State.Canon.writeHostnote {s : State} {val : Word} (hs : s.Canon) : (s.writeHostnote val).1.Canon := by
  unfold State.writeHostnote
  dsimp only
  split
  · exact hs
  · split
    · exact hs.linkSends
    · exact hs.linkSends.modMg.linkSends

theorem State.Canon.mailReply {s : State} {h : BitVec 128} {status : Nat} {data : List Byte} (hs : s.Canon) : (s.mailReply h status data).Canon :=
  hs.modMg.linkSends

theorem State.Canon.execMailboxRead {h : BitVec 128} {s : State} (hs : s.Canon) : OutCanon (execMailboxRead h s) := by
  unfold Machine.execMailboxRead
  dsimp only
  refine State.Canon.done ?_
  split
  · exact hs
  · split
    · exact hs.mailReply
    · split
      · exact hs
      next hr => exact State.Canon.mailReply (Acc.Canon.of_eq hr (hs.readEach (fun _ _ h1 => h1.readMem)))
      next hr => exact State.Canon.mailReply (Acc.Canon.of_eq hr (hs.readEach (fun _ _ h1 => h1.readMem)))

theorem State.Canon.execMailboxWrite {h : BitVec 128} {data : List Byte} {s : State} (hs : s.Canon) : OutCanon (execMailboxWrite h data s) := by
  unfold Machine.execMailboxWrite
  refine State.Canon.done ?_
  generalize bitsOf (h.extractLsb' 64 64) 0 40 - set5Base = off
  split
  · exact hs
  · split
    · exact hs.mailReply
    · split
      · split
        next hr => exact State.Canon.mailReply (OptCanon.of_eq hr hs.writeRegset)
        · exact hs
      · split
        next hr => exact State.Canon.mailReply (Acc.Canon.of_eq hr hs.writeWords)
        · exact hs
        · exact hs

theorem State.Canon.serve {s : State} {reply : List Byte} (hs : s.Canon) : (s.serve reply).Canon :=
  State.Canon.ite hs hs

theorem State.Canon.execPldmSensorRead {id : Nat} {s : State} (hs : s.Canon) : OutCanon (execPldmSensorRead id s) := by
  unfold Machine.execPldmSensorRead
  refine State.Canon.done ?_
  dsimp only [State.Canon]
  exact hs.serve

theorem State.Canon.restart {s : State} (_ : s.Canon) : s.restart.Canon :=
  reset_mem_wf

/-! ### CtlSpace -/

theorem State.Canon.ofPair {x : State × Bool} (hx : x.1.Canon) : (CtlStore.ofPair x).Canon :=
  CtlStore.Canon.ite hx hx

theorem State.Canon.writeCoreReg {s : State} {c off : Nat} {val : Word} (hs : s.Canon) : (s.writeCoreReg c off val).Canon := by
  unfold State.writeCoreReg
  split
  · exact hs.writeMxcad
  · exact hs.modCoreAt
  · exact State.Canon.ite hs.gateSet hs.gateClear
  · exact hs.modCoreAt
  · exact hs

theorem State.Canon.writeStackReg {s : State} {h off : Nat} {val : Word} (hs : s.Canon) : (s.writeStackReg h off val).Canon := by
  unfold State.writeStackReg
  split
  · exact hs.writeRefstep
  · exact hs.writeBwcap
  · exact hs

theorem State.Canon.writeAlertReg {s : State} {off : Nat} {val : Word} (hs : s.Canon) : (s.writeAlertReg off val).Canon := by
  unfold State.writeAlertReg
  split
  · exact hs.clearAlert
  all_goals exact hs

theorem State.Canon.writeLogReg {s : State} {off : Nat} {val : Word} (hs : s.Canon) : (s.writeLogReg off val).Canon := by
  unfold State.writeLogReg
  split
  · exact State.Canon.ite hs hs
  · exact hs
  · exact hs
  · exact hs
  · exact hs
  · exact hs
  · exact hs.writeElpush
  · exact hs

theorem State.Canon.writeMapReg {s : State} {who off : Nat} {val : Word} (hs : s.Canon) : (s.writeMapReg who off val).Canon := by
  unfold State.writeMapReg
  dsimp only
  split
  · exact State.Canon.ite hs (State.Canon.ite hs.writeSdctl (State.Canon.ite hs.shootdown hs))
  · split
    · split
      · exact hs.writePgreply
      · exact hs.writeTlblock
      · exact hs.modDie
      · exact hs.modDie
      · exact hs
    · split
      · exact hs
      · split
        · exact hs.modMig
        · exact hs.modMig
        · exact hs.migGo
        · exact hs

theorem State.Canon.writeLaunchReg {s : State} {off : Nat} {val : Word} (hs : s.Canon) : (s.writeLaunchReg off val).Canon := by
  unfold State.writeLaunchReg
  dsimp only
  split
  · split
    · exact hs
    · exact hs.writeLcmd
    · exact State.Canon.ite hs hs
    · exact hs
  · split
    · exact hs.modDie
    · exact State.Canon.ite hs hs.modDie
    · exact hs.modDie
    · exact State.Canon.ite hs.modDie hs
    · exact State.Canon.ite hs.modDie hs
    · exact hs.writeEvict
    · exact hs.writeL2win
    · exact hs.writeL2win
    · exact hs.writeL2win
    · exact hs.writeL2win
    · exact hs

theorem State.Canon.writeRamp {s : State} {val : Word} (hs : s.Canon) : (s.writeRamp val).Canon := by
  unfold State.writeRamp
  dsimp only
  split
  · exact hs
  · dsimp only [State.Canon]
    exact foldl_canon (fun _ _ h => h.settleCore.modCoreAt) hs

theorem State.Canon.writeClockReg {s : State} {off : Nat} {val : Word} (hs : s.Canon) : (s.writeClockReg off val).Canon := by
  unfold State.writeClockReg
  split
  · split
    · exact hs.writeClkctl
    · exact hs.writeRamp
    · exact hs
  · exact hs.writeVcol

theorem State.Canon.writeBank {s : State} {p off : Nat} {val : Word} (hs : s.Canon) : (s.writeBank p off val).Canon :=
  State.Canon.ite hs hs.modPlane

theorem State.Canon.writePlaneReg {s : State} {p off : Nat} {val : Word} (hs : s.Canon) : (s.writePlaneReg p off val).Canon := by
  unfold State.writePlaneReg
  split
  · exact hs.writePlctl
  · exact hs.writePlact
  · exact hs.modPlane
  · exact State.Canon.ite hs.writeBank hs

theorem State.Canon.writeFabctl {s : State} {val : Word} (hs : s.Canon) : (s.writeFabctl val).Canon :=
  hs.modFab

theorem State.Canon.writeTimeReg {s : State} {off : Nat} {val : Word} (hs : s.Canon) : (s.writeTimeReg off val).Canon := by
  unfold State.writeTimeReg
  split
  · split
    · exact hs.modTime
    · exact hs.writePtset
    · exact hs
  · split
    · split
      · exact State.Canon.ite hs hs.modFab
      · exact State.Canon.ite hs.modPlane hs
    · exact hs.writePbar

theorem State.Canon.writeMgReg {s : State} {off : Nat} {val : Word} (hs : s.Canon) : (s.writeMgReg off val).Canon := by
  unfold State.writeMgReg
  split
  · exact hs.modMg
  · exact hs.writeCcrel
  · exact hs
  · exact hs.writeHostnote.ofPair
  · exact hs.writeDbgctl
  · exact hs.modMg
  · exact hs.modMg
  · exact hs.modMg
  · exact hs.modMg
  · exact hs.modMg
  · exact hs.modMg
  · exact hs

theorem State.Canon.writeMrReg {s : State} {off : Nat} {val : Word} (hs : s.Canon) : (s.writeMrReg off val).Canon :=
  State.Canon.ite hs.writeMrxgo (State.Canon.ite hs.modMg hs)

theorem State.Canon.ctlWrite {s : State} {who pa : Nat} {val : Word} (hs : s.Canon) : (s.ctlWrite who pa val).Canon := by
  unfold State.ctlWrite
  extract_lets off
  clear_value off
  generalize (pa - ctlBase) / 0x100000 = k
  split
  · trivial
  · split
    · exact hs.writeCoreReg
    · exact hs.writeStackReg
    · exact hs.writeAlertReg
    · exact hs.writeLogReg
    · split
      · refine State.Canon.ofPair ?_
        split
        next hr => exact (OptCanon.of_eq hr hs.writeRegset :)
        · exact hs
      · exact hs
    · exact hs.writeCtxroot
    · exact CtlStore.Canon.ite hs.writeMapReg hs.writeMapReg
    · exact hs.writeLaunchReg
    · exact hs.writeClockReg
    · exact State.Canon.ite hs.writePlaneReg hs.writeFabctl
    · exact hs.writeTimeReg
    · exact hs.writeMgReg
    · exact hs.writeMrReg
    · trivial

theorem State.Canon.execRegisterWrite {who pa : Nat} {val : Word} {s : State} (hs : s.Canon) : OutCanon (execRegisterWrite who pa val s) := by
  unfold Machine.execRegisterWrite
  refine State.Canon.done ?_
  split
  · exact hs
  · split
    next hr => exact CtlStore.Canon.of_eq hr hs.ctlWrite
    next hr => exact CtlStore.Canon.of_eq hr hs.ctlWrite
    · exact hs

/-! ### Load -/

theorem State.Canon.physLoad {s : State} {h : BitVec 2} {a n : Nat} (hs : s.Canon) : (s.physLoad h a n).Canon := by
  have hload := loads_physLoad (s := s) (l := []) h a n
  have hmem : (s.physLoad h a n).state.mem = s.mem := hload.2
  generalize s.physLoad h a n = r at hmem
  cases r <;> exact (congrArg Memory.wf hmem).trans hs

theorem State.Canon.storeHome {s : State} {h : BitVec 2} {a : Nat} {bs : List Byte} (hs : s.Canon) : (s.storeHome h a bs).Canon :=
  hs.writeAttr.bind fun _ _ h1 => h1.cacheStore

theorem State.Canon.physStore {s : State} {h : BitVec 2} {a : Nat} {bs : List Byte} (hs : s.Canon) : (s.physStore h a bs).Canon := by
  unfold State.physStore
  split
  · split
    · exact hs
    · split
      · exact hs
      · split
        next hr => exact (CtlStore.Canon.of_eq hr hs.ctlWrite :)
        next hr => exact (CtlStore.Canon.of_eq hr hs.ctlWrite :)
        · exact hs
  · exact Acc.Canon.ite hs hs.storeHome
  all_goals exact hs.storeHome

theorem State.Canon.physFault {s : State} {code : BitVec 8} {a : Nat} (hs : s.Canon) : (s.physFault code a).Canon :=
  Eff.Canon.ite hs.deferMe hs

theorem State.Canon.loadMine {s : State} {a n : Nat} (hs : s.Canon) : (s.loadMine a n).Canon := by
  unfold State.loadMine
  split
  · split
    · exact hs.reach.bind fun _ _ h => h.cacheLoad
    · exact hs
    · exact hs
  · exact hs.physLoad
  · exact hs.physLoad

theorem State.Canon.loadElems {s : State} {h : BitVec 2} {n : Nat} {as : List Nat} (hs : s.Canon) : (s.loadElems h n as).Canon :=
  hs.readEach fun _ _ h1 => h1.reach.bind (fun _ _ h2 => h2.countOnce.cacheLoad)

theorem State.Canon.loadTask {s : State} {i : Instr} {h : BitVec 2} {reg : RegId} {n : Nat} {as : List Nat} {val : List (List Byte) → RegVal}
    (hs : s.Canon) :
    (s.loadTask i h reg n as val).Canon := by
  unfold State.loadTask
  split
  · exact hs.produce
  · exact hs.pendOn
  · split
    next hr => exact ((Acc.Canon.of_eq hr hs.loadElems).uncount).pendOn
    next hr => exact (Acc.Canon.of_eq hr hs.loadElems).deferMe
    next t _ hr =>
      have ht : t.Canon := Acc.Canon.of_eq hr hs.loadElems
      exact Eff.Canon.ite ht.late ht.produceLoad

theorem State.Canon.bodyLd {s : State} {i : Instr} {c : Ctl} {t : Ty} {d a : BitVec 6} {disp : BitVec 18} (hs : s.Canon) :
    (s.bodyLd i c t d a disp).Canon := by
  unfold State.bodyLd
  dsimp only
  split
  · exact hs
  · split
    · exact hs.loadTask
    · split
      next hr => exact (Acc.Canon.of_eq hr hs.physLoad).produceLoad
      next hr => exact (Acc.Canon.of_eq hr hs.physLoad).pendOn
      next hr => exact (Acc.Canon.of_eq hr hs.physLoad).physFault
    · split
      next hr => exact (Acc.Canon.of_eq hr hs.physLoad).produceLoad
      next hr => exact (Acc.Canon.of_eq hr hs.physLoad).pendOn
      next hr => exact (Acc.Canon.of_eq hr hs.physLoad).physFault

theorem State.Canon.bodyVload {s : State} {i : Instr} {c : Ctl} {t : Ty} {d : BitVec 6} {addr : Nat → Word} (hs : s.Canon) :
    (s.bodyVload i c t d addr).Canon := by
  unfold State.bodyVload
  dsimp only
  split
  · exact hs
  · exact hs.loadTask

theorem State.Canon.storeSink {s : State} (hs : s.Canon) : s.storeSink.Canon := by
  unfold State.storeSink
  split
  · exact hs.sink
  all_goals exact hs

theorem State.Canon.storeTask {s : State} {i : Instr} {h : BitVec 2} {what : LogOp} (hs : s.Canon) : (s.storeTask i h what).Canon := by
  unfold State.storeTask
  split
  · exact hs
  · split
    · exact Eff.Canon.ite hs hs.logAccess.storeSink
    · split
      next t _ hr =>
        have ht : t.Canon := Acc.Canon.of_eq hr hs.performOp
        exact State.Canon.ite ht.storeSink.overrunNext ht.storeSink
      next t _ hr =>
        have ht : t.Canon := Acc.Canon.of_eq hr hs.performOp
        dsimp only
        split
        · exact (hs.back ht).overrunNext
        · exact Eff.Canon.ite (((hs.back ht).logAccess).storeSink) ((hs.back ht).pendOn)
      next hr => exact (Acc.Canon.of_eq hr hs.performOp).deferMe

theorem State.Canon.bodySt {s : State} {i : Instr} {c : Ctl} {t : Ty} {d a : BitVec 6} {disp : BitVec 18} (hs : s.Canon) :
    (s.bodySt i c t d a disp).Canon := by
  unfold State.bodySt
  dsimp only
  split
  · exact hs
  · split
    · exact hs.storeTask
    · split
      next hr => exact (Acc.Canon.of_eq hr hs.physStore :)
      next hr => exact (Acc.Canon.of_eq hr hs.physStore).pendOn
      next hr => exact (Acc.Canon.of_eq hr hs.physStore).physFault
    · split
      next hr => exact (Acc.Canon.of_eq hr hs.physStore :)
      next hr => exact (Acc.Canon.of_eq hr hs.physStore).pendOn
      next hr => exact (Acc.Canon.of_eq hr hs.physStore).physFault

theorem State.Canon.bodyVstore {s : State} {i : Instr} {c : Ctl} {t : Ty} {d : BitVec 6} {addr : Nat → Word} (hs : s.Canon) :
    (s.bodyVstore i c t d addr).Canon := by
  unfold State.bodyVstore
  dsimp only
  split
  · exact hs
  · exact hs.storeTask

theorem State.Canon.localLoad {s : State} {i : Instr} {reg : RegId} {lat n : Nat} {as : List Nat} {val : List (List Byte) → RegVal} (hs : s.Canon) :
    (s.localLoad i reg lat n as val).Canon := by
  unfold State.localLoad
  split
  · exact hs
  · split
    · exact hs.pendOn
    · split
      next hr => exact (Acc.Canon.of_eq hr hs.fillLines).pendOn
      next hr => exact (Acc.Canon.of_eq hr hs.fillLines).deferMe
      next t _ hr =>
        have ht : t.Canon := Acc.Canon.of_eq hr hs.fillLines
        split
        · exact ht.late
        · split
          · split
            next hr1 => exact (Acc.Canon.of_eq hr1 ht.recordLoss).deferMe
            next hr1 => exact (Acc.Canon.of_eq hr1 ht.recordLoss).pendOn
            next hr1 => exact (Acc.Canon.of_eq hr1 ht.recordLoss).pendOn
          · exact ht.produce

theorem State.Canon.putLocal {s : State} {es : List (Nat × List Byte)} (hs : s.Canon) : (s.putLocal es).Canon :=
  foldl_canon (fun _ _ h => h.modCore.noteStore) hs

theorem State.Canon.localStore {s : State} {i : Instr} {n : Nat} {es : List (Nat × List Byte)} (hs : s.Canon) : (s.localStore i n es).Canon := by
  unfold State.localStore
  dsimp only
  split
  · exact hs
  · split
    · exact hs
    · split
      · exact hs.pendOn
      · split
        next hr => exact (Acc.Canon.of_eq hr hs.fillLines).pendOn
        next t _ _ hr =>
          have ht : t.Canon := Acc.Canon.of_eq hr hs.fillLines
          exact State.Canon.deferMe (State.Canon.ite ht ht.putLocal.storeSink)
        next hr => exact ((Acc.Canon.of_eq hr hs.fillLines).putLocal).storeSink

theorem State.Canon.bodyLdl {s : State} {i : Instr} {t : Ty} {d a : BitVec 6} {disp : BitVec 18} (hs : s.Canon) : (s.bodyLdl i t d a disp).Canon := by
  unfold State.bodyLdl
  dsimp only
  split
  · exact hs
  · exact hs.localLoad

theorem State.Canon.bodyStl {s : State} {i : Instr} {t : Ty} {d a : BitVec 6} {disp : BitVec 18} (hs : s.Canon) : (s.bodyStl i t d a disp).Canon := by
  unfold State.bodyStl
  dsimp only
  split
  · exact hs
  · exact hs.localStore

theorem State.Canon.bodyVloadl {s : State} {i : Instr} {c : Ctl} {t : Ty} {d : BitVec 6} {lat : Nat} {addr : Nat → Word} (hs : s.Canon) :
    (s.bodyVloadl i c t d lat addr).Canon := by
  unfold State.bodyVloadl
  dsimp only
  split
  · exact hs
  · exact hs.localLoad

theorem State.Canon.bodyVstorel {s : State} {i : Instr} {c : Ctl} {t : Ty} {d : BitVec 6} {addr : Nat → Word} (hs : s.Canon) :
    (s.bodyVstorel i c t d addr).Canon := by
  unfold State.bodyVstorel
  dsimp only
  split
  · exact hs
  · exact hs.localStore

theorem State.Canon.bodyGather {s : State} {i : Instr} {c : Ctl} {t : Ty} {l : Bool} {d : BitVec 6} {addr : Nat → Word} (hs : s.Canon) :
    (s.bodyGather i c t l d addr).Canon :=
  Eff.Canon.ite hs.bodyVloadl hs.bodyVload

theorem State.Canon.bodyScatter {s : State} {i : Instr} {c : Ctl} {t : Ty} {l : Bool} {d : BitVec 6} {addr : Nat → Word} (hs : s.Canon) :
    (s.bodyScatter i c t l d addr).Canon :=
  Eff.Canon.ite hs.bodyVstorel hs.bodyVstore

theorem State.Canon.pushSpilled {s : State} {target : Word} (hs : s.Canon) : (s.pushSpilled target).Canon :=
  hs.dropOldest.pushLink

theorem State.Canon.pendSpill {s : State} {slot word : Word} {page : Option (Nat × Nat)} (hs : s.Canon) : (s.pendSpill slot word page).Canon :=
  hs.modMe

theorem State.Canon.spillCall {s : State} {target slot oldest : Word} (hs : s.Canon) : (s.spillCall target slot oldest).Canon := by
  unfold State.spillCall
  dsimp only
  split
  · split
    · exact hs
    · split
      · exact hs.pendSpill.pushSpilled
      · split
        · exact hs.logAccess.storeSink.pushSpilled
        · split
          next t _ hr =>
            have ht : t.Canon := Acc.Canon.of_eq hr hs.performOp
            exact State.Canon.pushSpilled (State.Canon.ite ht.storeSink.overrunNext ht.storeSink)
          next t _ hr =>
            have ht : t.Canon := Acc.Canon.of_eq hr hs.performOp
            split
            · exact ht.overrunNext.pushSpilled
            · exact Eff.Canon.ite ht.logAccess.storeSink.pushSpilled ht.pendSpill.pushSpilled
          next hr => exact ((Acc.Canon.of_eq hr hs.performOp).deferMe).pushSpilled
  · split
    next hr => exact (Acc.Canon.of_eq hr hs.physStore).pushSpilled
    next hr => exact ((Acc.Canon.of_eq hr hs.physStore).pendSpill).pushSpilled
    next hr => exact (Acc.Canon.of_eq hr hs.physStore :)
  · split
    next hr => exact (Acc.Canon.of_eq hr hs.physStore).pushSpilled
    next hr => exact ((Acc.Canon.of_eq hr hs.physStore).pendSpill).pushSpilled
    next hr => exact (Acc.Canon.of_eq hr hs.physStore :)

theorem State.Canon.execRet {c : Ctl} {s : State} (hs : s.Canon) : OutCanon (execRet c s) := by
  unfold Machine.execRet
  dsimp only
  refine State.Canon.issue hs ?_
  split
  · exact hs
  · split
    · exact hs.modMe.transfer
    · split
      · exact hs
      · split
        · exact hs
        · split
          next hr => exact ((Acc.Canon.of_eq hr hs.loadMine).modMe).transfer
          next hr => exact (Acc.Canon.of_eq hr hs.loadMine).holdOn
          next hr => exact (Acc.Canon.of_eq hr hs.loadMine :)

theorem State.Canon.holdWatch {s : State} {addr : Nat} (hs : s.Canon) : (s.holdWatch addr).Canon := by
  unfold State.holdWatch
  dsimp only
  split
  · exact hs.holdWait
  · split <;> exact hs.holdWait

theorem State.Canon.observe {s : State} {addr : Nat} {ok : Word → Bool} {go : State → Word → Eff} (hs : s.Canon) (hgo : ∀ (t : State)
    (x : Word), t.Canon → (go t x).Canon) :
    (s.observe addr ok go).Canon := by
  unfold State.observe
  split
  next t1 _ hr =>
    have ht : t1.Canon := Acc.Canon.of_eq hr hs.loadMine
    exact Eff.Canon.ite ht (Eff.Canon.ite (hgo _ _ ht) ht.holdWatch)
  next hr => exact ((Acc.Canon.of_eq hr hs.loadMine).holdOn).holdWatch
  next hr => exact (Acc.Canon.of_eq hr hs.loadMine :)

/-! ### Atomic -/

theorem State.Canon.atomicMine {s : State} {op n a : Nat} {b c : Word} (hs : s.Canon) : (s.atomicMine op n a b c).Canon := by
  unfold State.atomicMine
  split
  · exact hs
  all_goals exact hs.atomicAt

theorem State.Canon.atomicValue {s : State} {i : Instr} {op n a : Nat} {b c : Word} {dsts : List RegId} {vals : Nat → List RegVal} (hs : s.Canon) :
    (s.atomicValue i op n a b c dsts vals).Canon := by
  unfold State.atomicValue
  split
  · exact hs.pendOn
  · split
    next t _ hr =>
      have ht : t.Canon := Acc.Canon.of_eq hr hs.atomicMine
      exact Eff.Canon.ite ht.storeSink.late (foldl_canon (fun _ _ h => h.produceLoad) ht.storeSink)
    next hr => exact (Acc.Canon.of_eq hr hs.atomicMine).pendOn
    next t _ _ hr =>
      have ht : t.Canon := Acc.Canon.of_eq hr hs.atomicMine
      exact Eff.Canon.ite ht.deferMe ht.physFault

theorem State.Canon.bodyAtomic {s : State} {i : Instr} {op n : Nat} {a b c : Word} {dsts : List RegId} {vals : Nat → List RegVal} (hs : s.Canon) :
    (s.bodyAtomic i op n a b c dsts vals).Canon := by
  unfold State.bodyAtomic
  split
  · exact hs
  · exact Eff.Canon.ite hs.storeTask hs.atomicValue

theorem State.Canon.bodyAmo {s : State} {i : Instr} {t : Ty} {op : Nat} {d a b : BitVec 6} {c : Word} (hs : s.Canon) :
    (s.bodyAmo i t op d a b c).Canon :=
  hs.bodyAtomic

theorem State.Canon.bodyAaddw {s : State} {i : Instr} {d a b : BitVec 6} (hs : s.Canon) : (s.bodyAaddw i d a b).Canon :=
  hs.bodyAtomic

theorem State.Canon.bodyAred {s : State} {i : Instr} {c : Ctl} {t : Ty} {a b op : BitVec 6} (hs : s.Canon) : (s.bodyAred i c t a b op).Canon := by
  unfold State.bodyAred
  dsimp only
  split
  · exact hs
  · exact hs.storeTask

theorem State.Canon.bodyBarinit {s : State} {i : Instr} {a b : BitVec 6} (hs : s.Canon) : (s.bodyBarinit i a b).Canon := by
  unfold State.bodyBarinit
  dsimp only
  split
  · exact hs
  · split
    · exact hs.storeTask
    · split
      next hr => exact (Acc.Canon.of_eq hr hs.physStore :)
      next hr => exact (Acc.Canon.of_eq hr hs.physStore).pendOn
      next hr => exact (Acc.Canon.of_eq hr hs.physStore).physFault
    · split
      next hr => exact (Acc.Canon.of_eq hr hs.physStore :)
      next hr => exact (Acc.Canon.of_eq hr hs.physStore).pendOn
      next hr => exact (Acc.Canon.of_eq hr hs.physStore).physFault

theorem State.Canon.bodyBararr {s : State} {i : Instr} {d a b : BitVec 6} (hs : s.Canon) : (s.bodyBararr i d a b).Canon :=
  hs.bodyAtomic

theorem State.Canon.execWaitmem {c : Ctl} {k : Cond} {d a b x : BitVec 6} {s : State} (hs : s.Canon) : OutCanon (execWaitmem c k d a b x s) := by
  unfold Machine.execWaitmem
  dsimp only
  refine State.Canon.issue hs ?_
  split
  · exact hs
  · refine State.Canon.observe hs ?_
    intro t x1 h
    split
    · exact h.produceLoad
    · exact h.produce

theorem State.Canon.fenced {s : State} (hs : s.Canon) : s.fenced.Canon := by
  unfold State.fenced
  split
  · exact hs
  · exact hs.modMe
  · exact hs.modMe

/-! ### Push -/

theorem State.Canon.pushTo {s : State} {q : Nat} {r : Rec} {hint : BitVec 2} (hs : s.Canon) {x : State × Bool}
    (hx : s.pushTo q r hint = some x) : x.1.Canon := by
  unfold State.pushTo at hx
  dsimp only at hx
  split at hx
  case h_4 =>
    split at hx
    · cases hx
    · cases hx
      exact hs.offerMatrix
  case h_2 | h_3 =>
    cases hx
    exact hs.offerEngine
  case h_5 =>
    cases hx
    exact hs.offerFabric
  case h_6 =>
    cases hx
    exact hs.offerLq
  all_goals
    cases hx
    exact hs.offerRecord

theorem State.Canon.pushed {d : BitVec 6} {x : State × Bool} (hx : x.1.Canon) : (Eff.pushed d x).Canon :=
  hx.produce

theorem State.Canon.execPush {c : Ctl} {d a q : BitVec 6} {s : State} (hs : s.Canon) : OutCanon (execPush c d a q s) := by
  refine hs.issue ?_
  split
  · exact hs
  · exact hs
  all_goals
    split
    next hx => exact State.Canon.pushed (hs.pushTo hx)
    · exact hs

theorem State.Canon.execPushc {c : Ctl} {d a : BitVec 6} {s : State} (hs : s.Canon) : OutCanon (execPushc c d a s) := by
  unfold Machine.execPushc
  dsimp only
  exact hs.issue (Eff.Canon.ite hs hs.offerPair.pushed)

theorem State.Canon.takeFatom {s : State} {op : Nat} {wide : Bool} {d : BitVec 6} {addr b cmp : Word} {dst : Nat} (hs : s.Canon) :
    (s.takeFatom op wide d addr b cmp dst).Canon :=
  hs.takeReq.modMe

theorem State.Canon.execFatom {c : Ctl} {op : BitVec 3} {t : Ty} {d a b x y : BitVec 6} {s : State} (hs : s.Canon) :
    OutCanon (execFatom c op t d a b x y s) := by
  unfold Machine.execFatom
  dsimp only
  refine State.Canon.issue hs ?_
  split
  · exact hs
  · exact hs
  · exact hs
  · exact Eff.Canon.ite hs.deferMe (Eff.Canon.ite hs hs.takeFatom)
  · exact Eff.Canon.ite hs.deferMe (Eff.Canon.ite hs hs.takeFatom)

theorem State.Canon.execFrel {c : Ctl} {s : State} (hs : s.Canon) : OutCanon (execFrel c s) := by
  unfold Machine.execFrel
  refine State.Canon.issue hs ?_
  split
  · exact hs
  · exact Eff.Canon.ite hs hs
  · exact Eff.Canon.ite hs hs

theorem State.Canon.pendBody {s : State} {i : Instr} (hs : s.Canon) : (s.pendBody i).Canon := by
  unfold State.pendBody
  split
  · exact hs.bodyLd
  · exact hs.bodySt
  · exact hs.bodyLdl
  · exact hs.bodyStl
  · exact hs.bodyVload
  · exact hs.bodyVstore
  · exact hs.bodyVloadl
  · exact hs.bodyVstorel
  · exact hs.bodyGather
  · exact hs.bodyScatter
  · exact hs.bodyGather
  · exact hs.bodyScatter
  · exact hs.bodyAmo
  · exact hs.bodyAmo
  · exact hs.bodyAmo
  · exact hs.bodyAmo
  · exact hs.bodyAmo
  · exact hs.bodyAmo
  · exact hs.bodyAmo
  · exact hs.bodyAmo
  · exact hs.bodyAaddw
  · exact hs.bodyAred
  · exact hs.bodyBarinit
  · exact hs.bodyBararr
  · exact hs.mxBody
  · exact hs.mxBody
  · exact hs.mxBody
  · exact hs

/-! ### Dispatch -/

/-- Instructions of SA, SB and VX issue one producer, or leave a result for the scale latch. -/
theorem State.Canon.exec_compute {i : Instr} {s : State} (hs : s.Canon) (hi : i.slot = some .sa ∨ i.slot = some .sb ∨ i.slot = some .vx) :
    OutCanon (Machine.exec i s) := by
  have hne {sl : Slot} (h : sl ≠ .sa ∧ sl ≠ .sb ∧ sl ≠ .vx) : i.slot ≠ some sl := by
    obtain ⟨h1, h2, h3⟩ := h
    rintro he
    simp [he, h1, h2, h3] at hi
  have hsome : i.slot ≠ none := by
    intro he
    simp [he] at hi
  by_cases hvx : i.slot = some .vx
  · have hsa {sl : Slot} (h : sl ≠ .vx) : i.slot ≠ some sl := by simp [hvx, h.symm]
    obtain ⟨c, form, r, x, f, lat, he, -⟩ | ⟨c, form, q, he⟩ :=
      exec_vector ⟨hsome, hsa (by decide), hsa (by decide), hsa (by decide), hsa (by decide), hsa (by decide)⟩ s
    · rw [he]
      exact hs.issueVx hs.produce
    · rw [he]
      exact hs.issueVx hs.modCore
  · obtain ⟨c, form, r, x, f, lat, he, -⟩ :=
      exec_scalar ⟨hsome, hne (by decide), hvx, hne (by decide), hne (by decide)⟩ s
    rw [he]
    exact hs.issue hs.produce

theorem State.Canon.exec {i : Instr} {s : State} (hs : s.Canon) : OutCanon (exec i s) := by
  by_cases hslot : i.slot = some .sa ∨ i.slot = some .sb ∨ i.slot = some .vx
  · exact hs.exec_compute hslot
  · cases i
    case bprep | bpreps => exact hs.issue hs.modRegs
    case br => exact hs.issue (Eff.Canon.ite hs hs.transfer)
    case call => exact hs.issue (Eff.Canon.ite hs (Eff.Canon.ite hs.pushLink (Eff.Canon.ite hs hs.spillCall)))
    case ret => exact hs.execRet
    case loopset => exact hs.execLoopset
    case loopbrk | endTask => exact hs.issue (Eff.Canon.ite hs hs.modMe)
    case yield => exact hs.execYield
    case wait => exact hs.issue (Eff.Canon.ite hs (Eff.Canon.ite hs (hs.observe (fun _ _ h => h))))
    case waitt => exact hs.issue (Eff.Canon.ite hs hs.holdWait)
    case trap => exact hs.issue hs
    case eret => exact hs.execEret
    case brk => exact hs.issue (State.Canon.ite hs.modMe hs)
    case mfsr => exact hs.issue hs.produce
    case mtsr => exact hs.issue (Eff.Canon.ite hs hs.writeSpecial)
    case sleep => exact hs.execSleep
    case evpop => exact hs.execEvpop
    case osclaim => exact hs.execOsclaim
    case osrel | osld | mwld | mma | mmaz | maccz | maccrd | maccwr | maccst | maccld => exact hs.issue hs.mxBody
    case mwait | mfence => exact hs.issue (Eff.Canon.ite hs hs)
    case ld => exact hs.issue hs.bodyLd
    case st => exact hs.issue hs.bodySt
    case ldl => exact hs.issue hs.bodyLdl
    case stl => exact hs.issue hs.bodyStl
    case vld => exact hs.issue hs.bodyVload
    case vst => exact hs.issue hs.bodyVstore
    case vldl => exact hs.issue hs.bodyVloadl
    case vstl => exact hs.issue hs.bodyVstorel
    case vlds | vldx => exact hs.issue hs.bodyGather
    case vsts | vstx => exact hs.issue hs.bodyScatter
    case ldblk => exact hs.execLdblk
    case blkrel => exact hs.issue hs.modCore
    case regmap => exact hs.execRegmap
    case regflush | regdrop => exact hs.issue hs.flush
    case aadd | amin | amax | aand | aor | axor | axchg | acas => exact hs.issue hs.bodyAmo
    case aaddw => exact hs.issue hs.bodyAaddw
    case ared => exact hs.issue hs.bodyAred
    case fence => exact hs.issue (Eff.Canon.ite hs hs.fenced)
    case push => exact hs.execPush
    case pushc => exact hs.execPushc
    case barinit => exact hs.issue hs.bodyBarinit
    case bararr => exact hs.issue hs.bodyBararr
    case waitmem => exact hs.execWaitmem
    case fatom => exact hs.execFatom
    case frel => exact hs.execFrel
    case emptyPosition => exact hs.setMe.postBreak.done
    case producerWriteback => exact hs.execProducerWriteback
    case deferredFault => exact hs.execDeferredFault
    case interruptEntry => exact hs.execInterruptEntry
    case sideLogReplay => exact hs.execSideLogReplay
    case regionWriteback => exact hs.execRegionWriteback
    case blockFilled => exact hs.execBlockFilled
    case matrixEntryStart => exact hs.execMatrixEntryStart
    case matrixEntryComplete => exact hs.execMatrixEntryComplete
    case copyCommand => exact hs.execCopyCommand
    case gatherCommand => exact hs.execGatherCommand
    case engineCommandStart => exact hs.execEngineCommandStart
    case engineCommandComplete => exact hs.execEngineCommandComplete
    case mcmdOsrel | mcmdOsld | mcmdMwld | mcmdMma | mcmdMmaz | mcmdMaccz | mcmdMaccst | mcmdMaccld => exact hs.mcmd.done
    case fabricPut | fabricSend => exact hs.takeFabric.done
    case tmatmul | tewise | treduce | ttopk | tcopy | tgather | tcast | ttrans | tfill | tlaunch | tbind | tbarrier | tallred =>
      exact hs.takeRecord.done
    case tileComplete => exact hs.execTileComplete
    case tbarrierComplete => exact hs.execTbarrierComplete
    case podRecordDelivery => exact State.Canon.done (State.Canon.ite hs (getD_canon hs.podDeliver hs))
    case launchActivate => exact hs.execLaunchActivate
    case stampedGatherDone => exact hs.execStampedGatherDone
    case stampedStrandNext => exact hs.execStampedStrandNext
    case taskDispatch => exact hs.execTaskDispatch
    case taskComplete => exact hs.execTaskComplete
    case taskReport => exact hs.execTaskReport
    case taskStop => exact hs.execTaskStop
    case taskResume => exact hs.execTaskResume
    case waitResumable => exact State.Canon.done (foldl_canon (fun _ _ h => State.Canon.ite h h.modDie) hs)
    case watchdogExpiry => exact hs.execWatchdogExpiry
    case eventRecordPost => exact hs.execEventRecordPost
    case governorWindow => exact State.Canon.done (State.Canon.ite hs hs.settleCore.setCore)
    case hbmTempRead => exact hs.execHbmTempRead
    case hbmRefresh => exact State.Canon.done (State.Canon.ite hs hs.setStack)
    case coreSensorSample => exact State.Canon.done (State.Canon.ite hs hs.setCore.alertCore)
    case thermalTrip => exact State.Canon.done (State.Canon.ite hs hs.writeMxcad.modCoreAt.alertCore)
    case clockChangeProceed => exact hs.execClockChangeProceed
    case clockRailsTrimmed => exact hs.execClockRailsTrimmed
    case clockSwitchDone => exact hs.execClockSwitchDone
    case coreGated => exact State.Canon.done (State.Canon.ite hs.setCore hs)
    case coreOnline => exact State.Canon.done (State.Canon.ite hs.modCoreAt hs)
    case gatedPortWake | shootdownComplete | sidebandMessageDrop => exact hs.done
    case l2winFilled => exact State.Canon.done (State.Canon.ite hs.modDie hs)
    case migrationRound => exact hs.execMigrationRound
    case migrationSwitch => exact hs.execMigrationSwitch
    case slotHandover => exact hs.execSlotHandover
    case slotHeaderReceive => exact hs.execSlotHeaderReceive
    case ackReceive => exact State.Canon.done (State.Canon.ite hs (foldl_canon (fun _ _ h => h.ackOne) hs))
    case forwardHoldExpiry => exact hs.execForwardHoldExpiry
    case resendTimeout => exact hs.execResendTimeout
    case completionRecordExpiry => exact hs.execCompletionRecordExpiry
    case bankSwitch => exact hs.execBankSwitch
    case laneLock => exact State.Canon.done (State.Canon.ite hs.modPlane hs)
    case lineFailure => exact hs.execLineFailure
    case lineRestore => exact State.Canon.done (State.Canon.ite hs hs.modPlane)
    case retuneStart | retuneEnd | watermarkStall => exact State.Canon.done (State.Canon.ite hs hs.modPlane.planeRecord)
    case orderedDelivery => exact hs.execOrderedDelivery
    case orderedIncompleteDiscard => exact hs.execOrderedIncompleteDiscard
    case fatomSendRelease => exact hs.execFatomSendRelease
    case fatomRequestArrive => exact hs.arriveChunk.performAll.done
    case fatomReplyArrive => exact State.Canon.done (State.Canon.ite hs hs.takeReply)
    case podBarrierComplete => exact hs.execPodBarrierComplete
    case ptpMessage => exact State.Canon.done (State.Canon.ite hs hs.discipline.modTime.setSync)
    case timeParentLost => exact State.Canon.done (State.Canon.fabRecord (State.Canon.ite hs.modTime.modTime hs.modTime.setSync))
    case mailboxRead => exact hs.execMailboxRead
    case mailboxWrite h data =>
      change OutCanon (Machine.execMailboxWrite h data s)
      exact hs.execMailboxWrite
    case linkDown => exact State.Canon.done (State.Canon.modMg (State.Canon.ite hs.linkSends hs))
    case hostnote => exact State.Canon.done (State.Canon.ite hs.writeHostnote hs)
    case setEndpointId | pldmFirmwareUpdate => exact State.Canon.done (State.Canon.ite hs.serve.modMg hs)
    case pldmSensorRead => exact hs.execPldmSensorRead
    case pldmEffecterReset => exact State.Canon.done (State.Canon.ite hs.logHard.restart hs)
    case pldmEffecterDebug => exact State.Canon.done (State.Canon.ite hs.logHard.writeDbgEn.serve hs)
    case getMeasurements | spdmChallenge | spdmGetCertificate => exact hs.serve.done
    case targetReset | powerOnReset => exact hs.restart.done
    case bootImage => exact hs.execBootImage
    case go => exact State.Canon.done (State.Canon.ite (getD_canon hs.go hs) hs)
    case pgreplyRetry | pgreplyRefuse => exact State.Canon.done (State.Canon.ite hs.writePgreply hs)
    case tlblockLock => exact State.Canon.done (State.Canon.ite hs.lockPage hs)
    case tlblockUnlock => exact State.Canon.done (State.Canon.ite hs.unlockPage hs)
    case sdgo => exact State.Canon.done (State.Canon.ite hs.shootdown hs)
    case miggo => exact State.Canon.done (State.Canon.ite hs.migGo hs)
    case lcmdRelease => exact State.Canon.done (State.Canon.ite hs.lcmdRelease hs)
    case lcmdAbort => exact State.Canon.done (State.Canon.ite hs.lcmdAbort hs)
    case lcmdContinue => exact State.Canon.done (State.Canon.ite hs.lcmdContinue hs)
    case evict => exact State.Canon.done (State.Canon.ite hs.writeEvict hs)
    case mxcadWrite => exact State.Canon.done (State.Canon.ite hs.writeMxcad hs)
    case clkctlWrite => exact State.Canon.done (State.Canon.ite hs.writeClkctl hs)
    case stateGateSet => exact State.Canon.done (State.Canon.ite hs.gateSet hs)
    case stateGateClear => exact State.Canon.done (State.Canon.ite hs.gateClear hs)
    case l2winWrite => exact State.Canon.done (State.Canon.ite hs.writeL2win hs)
    case plact => exact State.Canon.done (State.Canon.ite hs.writePlact hs)
    case plctlLightOn | plctlLightOff => exact State.Canon.done (State.Canon.ite hs.writePlctl hs)
    case ptset => exact State.Canon.done (State.Canon.ite hs.writePtset hs)
    case pbarArrive => exact State.Canon.done (State.Canon.ite hs.writePbar hs)
    case ccrelGo | ccrelRst => exact State.Canon.done (State.Canon.ite hs.writeCcrel hs)
    case dbgctlEnWrite => exact State.Canon.done (State.Canon.ite hs.writeDbgEn hs)
    case dbgctlHaltWrite => exact State.Canon.done (State.Canon.ite hs.writeDbgHalt hs)
    case elpush => exact State.Canon.done (State.Canon.ite hs.writeElpush hs)
    case mrxgo => exact State.Canon.done (State.Canon.ite hs.writeMrxgo hs)
    case registerWrite => exact hs.execRegisterWrite
    case linkUp => exact hs.modMg.done
    case hbmPatrol => exact State.Canon.done (State.Canon.ite hs (foldl_canon (fun _ _ h1 => h1.strike) hs.modDie))
    case breakResumption => exact State.Canon.done (State.Canon.ite hs.setAgent hs)
    any_goals exact (hslot (.inl rfl)).elim
    any_goals exact (hslot (.inr (.inl rfl))).elim
    all_goals exact (hslot (.inr (.inr rfl))).elim

/-! ### Issue -/

theorem State.Canon.settleAt {s : State} {c : Nat} (hs : s.Canon) : (s.settleAt c).Canon := by
  unfold State.settleAt
  dsimp only
  split
  · exact hs.landDue.modCore.settleCore.blocksDue
  · exact hs.landDue
  · exact hs.landDue

theorem State.Canon.landLoose {s : State} (hs : s.Canon) : s.landLoose.Canon :=
  foldl_canon (fun _ _ h => h.land) hs.setMe

theorem State.Canon.idle {s : State} {c : Nat} (hs : s.Canon) : (s.idle c).Canon := by
  unfold State.idle
  dsimp only [State.Canon]
  exact hs.settleAt.landLoose

theorem State.Canon.fetchWords {s : State} {a : Word} {n : Nat} (hs : s.Canon) : (s.fetchWords a n).Canon := by
  induction n generalizing s a with
  | zero => exact hs
  | succ k ih => exact hs.fetchWord.bind fun _ _ h => (ih h).map

theorem State.Canon.readBundle {s0 : State} (hs0 : s0.Canon) : s0.readBundle.Canon := by
  unfold State.readBundle
  dsimp only
  split
  next hr => exact (Acc.Canon.of_eq hr hs0.modMe.fetchWord :)
  next hr => exact (Acc.Canon.of_eq hr hs0.modMe.fetchWord :)
  next t _ hr =>
    have ht : t.Canon := Acc.Canon.of_eq hr hs0.modMe.fetchWord
    split
    · exact ht
    · split
      next hr1 => exact (Acc.Canon.of_eq hr1 ht.fetchWords :)
      next hr1 => exact (Acc.Canon.of_eq hr1 ht.fetchWords :)
      next t1 _ hr1 =>
        have ht1 : t1.Canon := Acc.Canon.of_eq hr1 ht.fetchWords
        split
        · exact ht1
        · split <;> exact ht1

theorem State.Canon.begin {s : State} {h : Header} {c : Nat} (hs : s.Canon) : (s.begin h c).Canon := hs

theorem State.Canon.overrunAt {s : State} {c : Nat} (hs : s.Canon) : (s.overrunAt c).Canon := by
  unfold State.overrunAt
  dsimp only [State.Canon]
  exact hs.faultAt

theorem State.Canon.heldBundle {s t : State} {c grace : Nat} (_ : s.Canon) (ht : t.Canon) : (s.heldBundle t c grace).Canon :=
  State.Canon.ite ht.modMe.overrunAt ht.modMe.idle

theorem State.Canon.tryAll {s : State} {is : List Instr} (hs : s.Canon) :
    match tryAll s is with
    | .ok ts => ∀ t ∈ ts, t.Canon
    | .error o => OutCanon o := by
  induction is with
  | nil => exact fun _ h => nomatch h
  | cons i r ih =>
    have hi := hs.exec (i := i)
    unfold Machine.tryAll
    cases hr : Machine.exec i s with
    | next t =>
      rw [hr] at hi
      cases hl : Machine.tryAll s r with
      | ok l =>
        rw [hl] at ih
        intro u hu
        obtain rfl | hu := List.mem_cons.mp hu
        · exact hi
        · exact ih u hu
      | error o =>
        rw [hl] at ih
        exact ih
    | fault x => trivial
    | refused x => trivial

theorem State.Canon.putOff {s : State} {i : Instr} (hs : s.Canon) : (s.putOff i).Canon := hs.modMe

theorem State.Canon.runSlots {s : State} {is : List Instr} (hs : s.Canon) : OutCanon (runSlots s is) := by
  induction is generalizing s with
  | nil => exact hs
  | cons i r ih =>
    have hput : (s.putOff i).Canon := hs.putOff
    have hi : OutCanon (if s.me.pend.isSome && mayAccess i then .next { s.putOff i with res := .issued } else Machine.exec i s) :=
      OutCanon.ite hput hs.exec
    unfold Machine.runSlots
    split
    next t hr =>
      have ht : t.Canon := OutCanon.of_eq hr hi
      split
      · exact ih ht
      · exact ih ht.pendOn
      · exact ht
    · trivial
    · trivial

theorem State.Canon.runBundle {s : State} {is : List Instr} (hs : s.Canon) : OutCanon (runBundle s is) := by
  unfold Machine.runBundle
  split
  · exact hs.exec
  · have hall := hs.tryAll (is := is)
    cases hr : Machine.tryAll s is with
    | error o =>
      rw [hr] at hall
      exact hall
    | ok ts =>
      rw [hr] at hall
      dsimp only
      split
      next hf => exact hall _ (List.mem_of_find?_eq_some hf)
      · split
        next hf => exact hall _ (List.mem_of_find?_eq_some hf)
        · split
          next t _ _ hp =>
            have ht : t ∈ ts := by
              split at hp
              · cases hp
              · exact (List.mem_filter.mp (hp ▸ List.mem_cons_self)).1
            dsimp only [OutCanon, State.Canon]
            exact (hs.undo (hall t ht)).holdOn
          · exact State.Canon.runSlots hs

theorem State.Canon.endBundle {s : State} {had : Bool} {stall c : Nat} (hs : s.Canon) : (s.endBundle had stall c).Canon := by
  unfold State.endBundle
  dsimp only [State.Canon]
  exact hs.modMe.postBreak

theorem State.Canon.afterSlots {s : State} {had : Bool} {stall c : Nat} {o : Outcome State Fault Refusal} (hs : s.Canon) (ho : OutCanon o) :
    OutCanon (afterSlots s had stall c o) := by
  unfold Machine.afterSlots
  split
  · split
    · exact ho.endBundle
    · exact hs.heldBundle ho
    · exact ho
  · exact ho
  · exact ho

theorem State.Canon.emptyAt {s : State} {c : Nat} (hs : s.Canon) : OutCanon (emptyAt s c) := by
  unfold Machine.emptyAt
  split
  next hr => exact (OutCanon.of_eq hr hs.modMe.exec :)
  · trivial
  · trivial

theorem State.Canon.issueBundle {s : State} {h : Header} {is : List Instr} {c : Nat} (hs : s.Canon) : OutCanon (issueBundle s h is c) :=
  OutCanon.ite hs.settleAt.begin.emptyAt (hs.settleAt.afterSlots hs.settleAt.begin.runBundle)

theorem State.Canon.fetchWait {s : State} {page : Option (Nat × Nat)} {c : Nat} (hs : s.Canon) : (s.fetchWait page c).Canon := by
  unfold State.fetchWait
  dsimp only
  split
  · exact hs.holdOn.idle
  · split
    · split
      · exact State.Canon.ite hs.overrunAt hs.holdOn.modMe.idle
      · exact hs.overrunAt
      · exact hs.holdOn.modMe.idle
    · exact hs.holdOn.modMe.idle
    · exact hs.holdOn.modMe.idle

theorem State.Canon.keepHeld {s : State} {h : PageHold} (hs : s.Canon) : (s.keepHeld h).Canon :=
  State.Canon.ite hs.fetchWait hs.idle

theorem State.Canon.nextBundle {s : State} (hs : s.Canon) : OutCanon (nextBundle s) := by
  unfold Machine.nextBundle
  dsimp only
  split
  next hr => exact (Fetched.Canon.of_eq hr hs.readBundle).fetchWait
  next hr =>
    change State.Canon _
    dsimp only [State.Canon]
    exact (Fetched.Canon.of_eq hr hs.readBundle).faultAt
  next t _ _ hr =>
    have ht : t.Canon := Fetched.Canon.of_eq hr hs.readBundle
    split
    · split
      · exact ht.overrunAt
      · exact ht.issueBundle
    · exact ht.issueBundle

theorem State.Canon.retry {s : State} {p : PendAccess} (hs : s.Canon) : OutCanon (s.retry p) := by
  unfold State.retry
  extract_lets c more t0 t stays ended ends
  have ht : t.Canon := hs
  have hstays {x : State} (hx : x.Canon) : (stays x).Canon := hx.modMe
  have hended {x : State} (hx : x.Canon) : (ended x).Canon := hx.modMe
  have hends {u : State} (hu : u.Canon) : OutCanon (ends u) := by
    dsimp only [ends, OutCanon, State.Canon]
    exact hu.modMe
  clear_value t stays ended ends
  split
  · exact hends (hstays ht)
  · split
    · split
      next u hr =>
        have hu : u.Canon := OutCanon.of_eq hr ht.modRegs.exec
        split
        · exact hends (hended hu)
        · exact hends (hstays (ht.undo hu).modRegs)
        · exact hu
      · exact ht.modRegs.exec
    · split
      next hr => exact hends (hended (Eff.Canon.of_eq hr ht.pendBody))
      next hr => exact hends (hstays (Eff.Canon.of_eq hr ht.pendBody))
      next hr => exact hends (hended (State.Canon.deferMe (Eff.Canon.of_eq hr ht.pendBody)))

theorem State.Canon.turn {s : State} (hs : s.Canon) : OutCanon (turn s) := by
  unfold Machine.turn
  dsimp only
  split
  · exact hs.exec
  · split
    · exact hs.retry
    · split
      · exact hs.idle
      · split
        · exact hs.exec
        · split
          · split
            · exact hs.overrunAt
            · change State.Canon _
              dsimp only [State.Canon]
              exact hs.faultAt
          · split
            · exact hs.idle
            · split
              · exact hs.settleAt.emptyAt
              · split
                · exact hs.keepHeld
                · exact hs.nextBundle

/-! ### Step -/

theorem State.Canon.step {s : State} (hs : s.Canon) : OutCanon (step s) := by
  unfold Machine.step
  split
  · exact hs.turn
  · exact OutCanon.ite (State.Canon.turn hs) trivial
  · exact OutCanon.ite trivial (State.Canon.exec hs)

/-- Settles O57: every function that a step calls keeps `State.Canon`. -/
theorem memoryStaysCanonical : Obligations.MemoryStaysCanonical := by
  intro s t hs ht
  exact OutCanon.of_eq ht (State.Canon.step hs)

end Sys2Proof.Machine
